-- ==== Sys2Proof/Word.lean ====
section
/-! DEFINITION. The word types of the module (R11, R12) and the sparse map in which every addressed store is held. -/

namespace Sys2Proof

/-- A register or scratchpad word of 64 bits (R12). -/
abbrev Word := BitVec 64

/-- One byte of device memory. -/
abbrev Byte := BitVec 8

/-- A 32-bit word: an instruction, an FP32 or an INT32. -/
abbrev W32 := BitVec 32

/-- An address register, 48 bits (R91); a device address (R8). -/
abbrev Addr := BitVec 48

/-- A sparse store: key and value pairs in one canonical form, keys strictly rising,
no entry equal to what an unlisted key reads as. -/
abbrev FMap (α : Type) := List (Nat × α)

/-- A register file: 64-bit registers by their offset in the block; an unlisted one reads its reset value. -/
abbrev RegFile := FMap Word

end Sys2Proof
end

