-- ==== Sys2Proof/Machine/Types.lean ====
section
/-! DEFINITION. The record types that State is made of and that commands carry: descriptors and queues of a core,
packets and bundles, letters and receipts, stages, jobs, sessions, checkpoints. All plain data. -/

namespace Sys2Proof.Machine

/-! ### A core -/

/-- What a keeper waits for (KP_STATUS.WAIT, R118-R121, R106). -/
inductive WaitKind where
  | none
  | flag (f : Nat) (clr : Bool)
  | word (addr : Nat) (cond : Nat) (w32 : Bool) (ref : Word)
  | sundial (target : Word)
  | delay (count : Nat)
  | bell (b : Nat)
  | grant (slot : Nat)
  | queueIdle (mask : Nat)
  | queueFull (unit : Nat) (addr : Nat)
  deriving DecidableEq, Repr

/-- A wait in progress: destination predicate, timeout T (R118), and for WAITW the cycles from its issue to its next
read (R119). -/
structure Wait where
  kind : WaitKind := .none
  dst : Nat := 0
  timeout : Nat := 0
  elapsed : Nat := 0
  deriving DecidableEq, Repr

/-- One of the 16 slots of a cube, chain or porter queue (R105): reserved while its descriptor is on its way, then
occupied (`entered`). `seq` is the place in the program order of issue (R108); `words` the descriptor as read at issue
(R103); `scal` the captured s0-s31 (R107). -/
structure QSlot where
  seq : Nat
  words : List Word
  entered : Bool := false
  scal : List W32 := []
  deriving DecidableEq, Repr

/-- A cube descriptor in execution or a completed one awaiting its flag (R45, R49). -/
structure CubeRun where
  slot : QSlot
  rejected : Bool
  isZero : Bool
  deriving DecidableEq, Repr

/-- A chain in execution or awaiting its completion: the next beat (R82-R84), the tallies as they stood at its start (R72), the inputs of
the beats whose MX block is not yet whole (R75), with the generator's seed and draw count at each (R74), the envelope records of its
closed slots (R77). -/
structure ChainRun where
  slot : QSlot
  beat : Nat := 0
  tallies : FMap W32 := []
  held : List (List Nat × List Nat) := []
  draws : List (Word × Word) := []
  records : List (List Word) := []
  deriving DecidableEq, Repr

/-- A sender's grant slot (R127, R130): 0 empty, 1 pending, 2 granted, 3 refused. -/
structure Slot where
  state : Nat := 0
  reason : Nat := 0
  pool : Nat := 0
  wbase : Nat := 0
  wlen : Nat := 0
  dest : Nat := 0
  num : Nat := 0
  deriving DecidableEq, Repr

/-- A porter descriptor in execution or awaiting its completion (R109-R115, R204-R206): the row and the byte of the row
it goes on from, its packets awaiting ACK or READ_DATA as ADDR and length, the READ_DATA that came before an earlier one's, the bytes an
ARECV has written, the bundles of an ASEND not yet in the fabric, the grant a PUT goes into. -/
structure PortRun where
  slot : QSlot
  op : Nat
  rejected : Bool := false
  failed : Nat := 0
  finished : Bool := false
  row : Nat := 0
  off : Nat := 0
  outst : List (Nat × Nat) := []
  came : List (Nat × List Byte × Option Nat) := []
  got : Nat := 0
  toInject : Nat := 0
  grant : Slot := {}
  deriving DecidableEq, Repr

/-- An outstanding grant of a pool: number modulo 64, padding and window (R128, R163). -/
structure GrantRec where
  num : Nat
  pad : Nat
  wbase : Nat
  wlen : Nat
  deriving DecidableEq, Repr

/-- A request waiting at a credit unit (R128): where it came from and what it asks. -/
structure CreditReq where
  src : Nat
  slot : Nat
  len : Nat
  order : Nat
  deriving DecidableEq, Repr

/-- A credit pool of a keeper (R126-R131); `next` continues across closing (R163). -/
structure Pool where
  isOpen : Bool := false
  closing : Bool := false
  base : Nat := 0
  size : Nat := 0
  head : Nat := 0
  grants : List GrantRec := []
  waiting : List CreditReq := []
  next : Nat := 0
  deriving DecidableEq, Repr

/-- An envelope slot of the chain unit (R77, R78). -/
structure EnvSlot where
  isOpen : Bool := false
  envid : Nat := 0
  chains : Nat := 0
  count : Nat := 0
  nans : Nat := 0
  infs : Nat := 0
  zeros : Nat := 0
  maxabs : W32 := 0
  min : W32 := 0x7F800000
  max : W32 := 0xFF800000
  sum : Word := 0
  sumsq : Word := 0
  poisoned : Bool := false
  deriving DecidableEq, Repr

/-! ### The fabric -/

/-- How DEST and ADDR of a packet are to be read: as in the fabric, or, before injection, as a garden-logical core or a
garden-view device address (R208, R293). -/
inductive Naming where
  | physical | core | device
  deriving DecidableEq, Repr

/-- A footpath packet (R201, R203). `hcrc` is its head check (R202); `bad` the payload byte at which a READ_DATA meets an
uncorrectable word (R177), `about` the ADDR of the WRITE a NOTICE reports: the manual gives no place to either (log entry 78). -/
structure Packet where
  type : Nat
  ord : Bool := false
  setFlag : Bool := false
  flag : Nat := 0
  gen : BitVec 8 := 0
  garden : Nat := 0
  dest : Nat := 0
  src : Nat := 0
  addr : Nat := 0
  payload : List Byte := []
  hcrc : Byte := 0
  bad : Option Nat := none
  about : Nat := 0
  naming : Naming := .core
  deriving DecidableEq, Repr

/-- An avenue bundle (R214). -/
structure Bundle where
  avenue : Nat
  gen : BitVec 8 := 0
  garden : Nat := 0
  drain : Bool := false
  last : Bool := false
  seq : Nat := 0
  payload : List Byte := []
  hcrc : Byte := 0
  src : Nat := 0
  deriving DecidableEq, Repr

/-- A flit of a packet (R185): the 32 B that begin at 32 x `idx`. A flit that is `cut` ends its packet without the rest, which an earlier
router has discarded. -/
structure Flit where
  pkt : Packet
  idx : Nat := 0
  cut : Bool := false
  deriving DecidableEq, Repr

/-- A flit of an avenue bundle. -/
structure AveFlit where
  bun : Bundle
  idx : Nat := 0
  cut : Bool := false
  deriving DecidableEq, Repr

/-- An entry of a gate buffer: the flits of the slices whose valid bits are set, each with its slice (R198). -/
structure GateEntry where
  fp : List (Nat × Flit) := []
  ave : List (Nat × AveFlit) := []
  deriving DecidableEq, Repr

/-! ### Letters -/

/-- A letter: header of R329 and body. `bytes` is the number of bytes posted after the header. -/
structure Letter where
  version : Nat := 1
  code : Nat
  flags : Nat := 0
  garden : Nat := 0xFF
  rsv : Nat := 0
  session : Nat := 0
  sequence : Nat := 0
  length : Nat := 0
  status : Nat := 0
  reason : Nat := 0
  tag : Word := 0
  body : List Byte := []
  deriving DecidableEq, Repr

/-- A clamp entry (R530). -/
structure Clamp where
  field : Nat
  rule : Nat
  asked : Word
  used : Word
  deriving DecidableEq, Repr

/-- A receipt (R330-R333): header fields, common part, letter-specific part. -/
structure Receipt where
  code : Nat
  flags : Nat
  garden : Nat
  session : Nat
  sequence : Nat
  status : Nat
  reason : Nat
  tag : Word
  chime : Word := 0
  waited : Nat := 0
  waitedSeq : Nat := 0
  body : List Byte := []
  clamps : List Clamp := []
  deriving DecidableEq, Repr

/-- Where a frame came from, and where its answer goes (R356): host port, link, IP and Ethernet source, UDP source port. -/
structure Path where
  port : Nat := 0
  link : Nat := 0
  ip : Nat := 0
  mac : Nat := 0
  udp : Nat := 0
  deriving DecidableEq, Repr

/-- A letter in an inbound slot: whether its bytes are as its LENGTH says (R334, R347), and where it came from. -/
structure Slotted where
  letter : Letter
  fits : Bool := true
  path : Path := {}
  deriving DecidableEq, Repr

/-- An accepted letter in progress, with the channel it came on and what it waited for (R330, R331); `mute` when its
receipt is to be discarded (R328), `acting` once it has begun to act. -/
structure Accepted where
  channel : Nat
  letter : Letter
  round : Nat := 0
  deferred : Bool := false
  waited : Nat := 0
  waitedSeq : Nat := 0
  path : Path := {}
  mute : Bool := false
  acting : Bool := false
  deriving DecidableEq, Repr

/-! ### Protection and stages -/

/-- A slow window (R292), 64 KiB units. -/
structure Window where
  lbase : Nat := 0
  pbase : Nat := 0
  size : Nat := 0
  rd : Bool := false
  wr : Bool := false
  host : Bool := false
  keep : Bool := false
  deriving DecidableEq, Repr

/-- A garden's protection (R296, R341). -/
structure Protection where
  pavs : List Nat := []
  peer : Nat := 0
  host : Nat := 0
  annex : Bool := false
  windows : List Window := []
  raw : List Byte := []
  deriving DecidableEq, Repr

/-- A frame a peer port has sent (R399, R400, R405): where to, and what it carries; a PFC frame pauses or resumes a
priority. -/
inductive PeerOut where
  | bundle (dest pcp key : Nat) (rgen : BitVec 8) (b : Bundle)
  | gensync (dest key : Nat) (rgen : BitVec 8)
  | probe (module : Word) (port : Nat)
  | pfc (prio : Nat) (pause : Bool)
  deriving DecidableEq, Repr

/-- A frame of a peer port with its tag control field, none when untagged (R395, R400). -/
structure PeerTx where
  out : PeerOut
  vlan : Option Nat := none
  deriving DecidableEq, Repr

/-- Priority of a peer frame (R400). -/
def PeerOut.pcp : PeerOut → Nat
  | .bundle _ p _ _ _ => p
  | _ => 7

/-- A send or receive entry of a peer bridge (R401-R404): `router` counts from the port's first attach router, `asked` is
when it last answered a stale frame, `ch` the channel of the letter that opened it. -/
structure PeerEntry where
  port : Nat
  garden : Nat
  avenue : Nat
  key : Nat
  pcp : Nat := 0
  router : Nat := 0
  slice : Nat := 0
  rgen : Option (BitVec 8) := none
  sent : Bool := false
  discard : Bool := false
  drained : Bool := false
  asked : Option Nat := none
  ch : Nat := 64
  deriving DecidableEq, Repr

/-- The values a stage carries, by kind of R462. A garden's protection with the one it replaces; the pavilions whose
staged tables apply; a peer bridge's entry to add or remove; a spare that is to carry a port; the cap and its windows, 0 keeping what is in force, with
HALVED as it becomes. -/
inductive Change where
  | snap
  | gen (garden : Nat) (tag : Nat)
  | prot (garden : Nat) (old new : Protection)
  | fabric (garden : Nat) (pavs : List Nat)
  | peer (garden : Nat) (send add : Bool) (entry : PeerEntry)
  | carry (port spare : Nat)
  | config (entries : List (Nat × Word))
  | capWindows (cap win1 win2 : Nat) (halved : Option Bool)
  | divider (garden : Nat) (pavs : List Nat) (idx : Nat)
  | capIndex (idx : Nat)
  | run (garden : Nat) (cores : List Nat) (set : Bool)
  | time (source : Nat)
  deriving DecidableEq, Repr

/-- A stage record held by a chime unit (R457, R458): its stage ID, the values that reach the unit, the CHIME count once
known, and the sundial count from which it has been held (R463). -/
structure StageRec where
  id : Nat
  changes : List Change
  t : Option Nat := none
  since : Nat := 0
  deriving DecidableEq, Repr

/-- A stage as the postmaster tracks it (R457-R461): the units it went to, those that have not answered, the round it was
broadcast in, the T named, the count of the last acknowledgement, T once set, the change it belongs to. -/
structure Stage where
  id : Nat
  changes : List Change
  units : List Nat
  pendingAck : List Nat
  refused : Bool := false
  round : Nat := 0
  named : Nat := 0
  lastAck : Nat := 0
  t : Option Nat := none
  job : Nat := 0
  deriving DecidableEq, Repr

/-- What a many-unit change or a long letter does. -/
inductive JobKind where
  | create | load | start | stop | release | protect | gardenReset | replay | relief | restore | autoRestore
  | seal | plan | take | autoTake | config | capSet | capStep | capHalve | divider | timeSource | snapshot
  | peerOpen | peerClose | swap | autoSwap | fill | firmware | poison | reroute
  deriving DecidableEq, Repr

/-! ### Gardens -/

/-- An envelope of the compiler (R541). -/
structure Envelope where
  envid : Nat
  checks : Nat
  count : Word
  lo : W32
  hi : W32
  maxabs : W32
  meanLo : W32
  meanHi : W32
  rmsLo : W32
  rmsHi : W32
  zeroMax : W32
  deriving DecidableEq, Repr

/-- A PROGRAM record (R304): entry, cores and words. -/
structure ProgRec where
  entry : Nat
  cores : List Nat
  words : List W32
  deriving DecidableEq, Repr

/-- A RESIDENT record (R304). -/
structure ResRec where
  core : Nat
  off : Nat
  bytes : List Byte
  deriving DecidableEq, Repr

/-- An AVENUES record (R304): a source of 2^31 or more stands for a peer port's attach router and slice; `hint` gives a path of
sites for each delivering core. -/
structure AveRec where
  avenue : Nat
  source : Nat
  dests : List Nat
  peer : Option Nat
  hint : List (List Nat)
  deriving DecidableEq, Repr

/-- An update layer (R264) with garden-view or physical bases. -/
structure LayerRec where
  id : Nat
  words : List Word
  masks : List Byte
  deriving DecidableEq, Repr

/-- The update plan of an image (R304): the arena and its layers. -/
structure Plan where
  arenaBase : Nat
  arenaSize : Nat
  layers : List LayerRec
  deriving DecidableEq, Repr

/-- A garden image as read: header fields (R300) and sections (R304). -/
structure Image where
  mode : Nat
  flags : Nat
  size : Nat
  footW : Nat
  footH : Nat
  watchdog : Nat
  divider : Nat
  place : List (Nat × Nat)
  programs : List ProgRec
  resident : List ResRec
  avenues : List AveRec
  bells : List (List Nat)
  windows : List Window
  plan : Option Plan
  envelopes : List Envelope
  layers : List Byte
  hash : List Byte
  deriving DecidableEq, Repr

/-- The routed entries of an avenue (R306): its peer port, its source and delivering logical cores, and its avenue entries
by router x 32 + port x 4 + slice. -/
structure Tree where
  avenue : Nat
  peer : Option Nat := none
  cores : List Nat := []
  entries : List (Nat × Word) := []
  deriving DecidableEq, Repr

/-- One change or long letter in progress: its steps are taken by the rounds, passes and chimes. Of a relief, the variant chosen and the
origin of the new placement (R309); of a recovery, whether its time is counted (R582). -/
structure Job where
  id : Nat := 0
  kind : JobKind
  garden : Nat := 0xFF
  letter : Option Accepted := none
  phase : Nat := 0
  discards : Nat := 0
  changes : List Change := []
  units : List Nat := []
  named : Nat := 0
  staged : Bool := false
  chime : Nat := 0
  arg : Nat := 0
  arg2 : Nat := 0
  moves : List (Nat × Nat × Nat) := []
  prot : Option Protection := none
  body : List Byte := []
  clamps : List Clamp := []
  cause : Nat := 0
  image : Option Image := none
  trees : List Tree := []
  variant : Nat := 0
  origin : Nat := 0
  counted : Bool := true
  deriving DecidableEq, Repr

/-- Counted time of a garden that has begun and not ended (R582): since when it runs, none while an update commit is waited for
(R271); its pieces before that; whether it belongs to the handling of a hang. -/
structure Down where
  since : Option Nat := none
  pieces : List (Nat × Nat) := []
  hang : Bool := false
  deriving DecidableEq, Repr

/-- Counted time that has ended (R582): an interval from a sundial count and its length; its garden, 0xFF for the service
interface; whether it is of a hang still being handled. -/
structure Counted where
  garden : Nat
  span : Nat × Nat
  hang : Bool := false
  deriving DecidableEq, Repr

/-- A hang being handled (R571, R572): its suspects beside the step, those released, the context whose turn it is, whether the
run in progress has been sealed. -/
structure Hang where
  suspects : List Word := []
  released : List Word := []
  current : Word := 0
  sealed : Bool := false
  deriving DecidableEq, Repr

/-! ### Sessions and parcels -/

/-- What a frame of the module carries, to be carried again in a new frame when it is lost (R376, R378, R389): a receipt,
a payload of a type, or bytes of a parcel read afresh. -/
inductive Content where
  | receipt (r : Receipt)
  | plain (type : Nat) (payload : List Byte)
  | data (parcel off len : Nat)
  deriving DecidableEq, Repr

/-- A frame in flight (R377-R379): IP bytes, the count at its sending, frames of higher PN acknowledged since. -/
structure InFlight where
  pn : Nat
  content : Content
  ip : Nat
  sent : Nat
  above : Nat := 0
  deriving DecidableEq, Repr

/-- A frame as the module sends it (R357, R360, R363-R365): header fields, LENGTH without the tag, the payload as it goes out, encrypted where
the frame is protected; its 802.1Q tag control field, none when untagged; its ECN codepoint. -/
structure TxFrame where
  path : Path
  type : Nat
  flags : Nat := 0
  slots : Nat := 0
  session : Nat := 0
  pn : Nat := 0
  largest : Nat := 2 ^ 64 - 1
  sack : Nat := 0
  window : Nat := 0
  length : Nat := 0
  payload : List Byte := []
  vlan : Option Nat := none
  ecn : Nat := 0
  deriving DecidableEq, Repr

/-- A frame of another protocol that a host port sends (R356, R357): where to, what (0 ARP, 1 NDP, 2 ICMP, 3 ICMPv6, 4 PTP Delay_Req), its tag
control field. -/
structure Answer where
  path : Path
  kind : Nat
  vlan : Option Nat := none
  deriving DecidableEq, Repr

/-- The secrets of a session (R368). -/
structure Keys where
  h2mKey : List Byte := []
  h2mIv : List Byte := []
  m2hKey : List Byte := []
  m2hIv : List Byte := []
  finished : List Byte := []
  deriving DecidableEq, Repr

/-- Parcel data whose DEVWRITE packets await their ACK (R388): the frame, its host port, the bytes it carries, the ADDR of
each packet outstanding. -/
structure DataIn where
  session : Nat
  pn : Nat
  port : Nat
  parcel : Nat
  off : Nat
  len : Nat
  addrs : List Nat
  deriving DecidableEq, Repr

/-- A PARCEL_DATA frame being built (R389): the return offset its READ packets carry, the packets outstanding, the bytes
that have come. -/
structure Build where
  session : Nat
  parcel : Nat
  off : Nat
  len : Nat
  ret : Nat
  left : List Nat
  bytes : FMap Byte := []
  deriving DecidableEq, Repr

/-- A session of the host bridge (R366-R382). Times are sundial counts. `seen` are the PNs received, `acked` those
acknowledged and `due` those accepted and still to be acknowledged, within the 1,024-frame history; `sentAcks` the PNs of its own ACK frames
that the host has not reported; `bound` once the owner has bound it; `firsts` the counts at which contents not yet acknowledged were first sent;
`alpha` is in units of 1/65,536; `rtPn` the PN that ends the round-trip. -/
structure Session where
  channel : Nat
  role : Nat
  gardens : Nat := 0
  ready : Bool := false
  opened : Nat := 0
  readyAt : Nat := 0
  openIp : Nat := 0
  lastFrame : Nat := 0
  phase : Nat := 0
  oldUntil : Option Nat := none
  keys : Keys := {}
  oldKeys : Option Keys := none
  th : List Byte := []
  bound : Bool := false
  seen : List Nat := []
  acked : List Nat := []
  due : List Nat := []
  sentAcks : List Nat := []
  sendQ : List Content := []
  sendPn : Nat := 0
  inflight : List InFlight := []
  firsts : List (Content × Nat) := []
  txKey : Nat := 0
  rxKey : Nat := 0
  cwnd : Nat := 1048576
  alpha : Nat := 65536
  slow : Bool := true
  srtt : Option Nat := none
  rttvar : Nat := 0
  rto : Nat := 100000
  rtPn : Nat := 0
  rtFrames : Nat := 0
  rtEce : Nat := 0
  ceNoted : Bool := false
  replies : List (Nat × List Byte) := []
  path : Path := {}
  pulls : List (Nat × Nat × Nat) := []
  deriving DecidableEq, Repr

/-- A parcel (R385-R392); `moved` lists the byte ranges written or sent, each 8 B unit once. -/
structure Parcel where
  session : Nat
  garden : Nat
  dir : Nat
  addr : Nat
  len : Nat
  isOpen : Bool := true
  staging : Bool := false
  moved : List (Nat × Nat) := []
  deriving DecidableEq, Repr

/-- A laser cartridge (R413, R642, R643): its readings of the last round; `changes` counts the cartridges its bay has had
before it. -/
structure Cartridge where
  inserted : Bool := true
  emitting : Bool := false
  changes : Nat := 0
  output : BitVec 16 := 0
  temp : BitVec 8 := 0
  bias : BitVec 16 := 0
  deriving DecidableEq, Repr

/-! ### Icehouse, start, faults -/

/-- A checkpoint image (R432, R433): its header's values; its layers with garden-view bases and its arena; the ranges of its
SLOW sections and their bytes, by garden-view address; granule sums and partials by orangery x 2^32 + slot or layer, mask
bytes by orangery x 2^32 + slot x 128 + byte; scratchpads by logical core. `captured` once it has reached its capture
point, `loaded` when its garden was LOADED there; `held` are the sites that have held a logical core since (R575). -/
structure Checkpoint where
  id : Nat
  garden : Nat
  slot : Nat
  size : Nat := 0
  complete : Bool := false
  captured : Bool := false
  loaded : Bool := false
  step : Nat := 0
  capture : Nat := 0
  done : Nat := 0
  image : List Byte := []
  windows : List Byte := []
  plan : Option Plan := none
  front : List (Nat × Nat) := []
  rest : List (Nat × Nat) := []
  slowBytes : FMap Byte := []
  sums : FMap Word := []
  partials : FMap Word := []
  masks : FMap Byte := []
  scratch : FMap (FMap Byte) := []
  content : List Byte := []
  lost : Bool := false
  held : List Nat := []
  vouched : Bool := false
  unvouchable : Bool := false
  deriving DecidableEq, Repr

/-- A repair map entry (R536). -/
structure Repair where
  type : Nat
  source : Nat
  unit : Nat
  a : Nat
  b : Nat
  deriving DecidableEq, Repr

/-- A frequency-table entry (R538). -/
structure Freq where
  fmax : Nat := 0
  voff : Nat := 0
  ladder : Bool := false
  margin : Nat := 0
  deriving DecidableEq, Repr

/-- An incident record (R578). -/
structure Incident where
  number : Nat := 0
  boot : Nat := 0
  kind : Nat
  unit : Nat := 0
  garden : Nat := 0xFF
  sundial : Nat := 0
  unitId : Nat := 0
  op : Nat := 0
  temp : Nat := 0x8000
  volt : Nat := 0
  div : Nat := 0
  action : Nat := 0
  gen : Nat := 0
  flags : Nat := 0
  downUs : Nat := 0
  step : Nat := 0
  context : Word := 0
  detailType : Nat := 0
  detail : List Byte := []
  repeats : Nat := 0
  deriving DecidableEq, Repr

/-- A firmware image in a slot (R586, R587): header fields and the image hash H. -/
structure Firmware where
  fwId : Word
  svn : Nat
  keyid : Nat
  hash : List Byte
  deriving DecidableEq, Repr

/-- A stage report (R508). -/
structure Report where
  stage : Nat
  result : Nat := 0
  kind : Nat := 0
  unit : Nat := 0
  unitId : Nat := 0
  start : Nat := 0
  stop : Nat := 0
  tested : Nat := 0
  repaired : Nat := 0
  retired : Nat := 0
  clamps : Nat := 0
  deriving DecidableEq, Repr

end Sys2Proof.Machine
end

