-- ==== Sys2Proof/Syntax.lean ====
section
/-! DEFINITION. The commands of the module: one constructor for each row of spec/opcode_table.json, with the operands a
row needs to name its unit and what the outside world brings with it (a frame, a sample, the outcome of a check). -/

namespace Sys2Proof.Machine

/-- The access path of a register write or read (R346): a mailbox channel's REG letters and registers, the SMBus,
the test access, the postmaster itself. -/
inductive WritePath where
  | chan (n : Nat)
  | smbus
  | test
  | postmaster
  deriving DecidableEq, Repr

/-- The unit whose queue a descriptor enters (R105). -/
inductive QUnit where
  | cube | chain | port
  deriving DecidableEq, Repr

/-- What a router's input meets in the flit at its front (R228, R229): nothing, a single-bit error it corrects, a double-bit
error, or a head whose check differs in the bits of a mask. -/
inductive FlitErr where
  | none
  | corrected
  | double
  | head (mask : BitVec 8)
  deriving DecidableEq, Repr

/-- How a UCIe module's retraining ended (R237, R238): at 32 or, `slow`, at 16 GT/s, `half` at x32, with its redundant
lanes in use; or not at all. -/
inductive UcieResult where
  | trained (slow half : Bool) (rep : Nat)
  | failed
  deriving DecidableEq, Repr

/-- What reading a 64 B block of a memory device finds wrong (R244): symbols in error, as offsets among its 64 data and 8 check bytes with the
bits in error, or an address that the check does not match. Blocks are numbered through the device, from the usable part on (R241). -/
structure BlockErr where
  block : Nat
  flips : List (Nat × BitVec 8) := []
  address : Bool := false
  deriving DecidableEq, Repr

/-- What an orangery meets while a command acts: errors that have come into blocks, corrections of the memory link (R240), UCIe flits that fail
their CRC and link-level retries (R237). -/
structure MemErr where
  blocks : List BlockErr := []
  lecc : Nat := 0
  crc : Nat := 0
  retry : Nat := 0
  deriving DecidableEq, Repr

/-- How far the check of a channel has come (R242): it begins, it finds the timing steady, or drifted by more than an eighth of a unit
interval. -/
inductive ChannelStep where
  | begins | steady | drifted
  deriving DecidableEq, Repr

/-- What a host port finds of a frame before its payload (R353): its length with the FCS, whether the FCS is right, whether the frame goes to
this port's address or a group it takes, the VIDs of its 802.1Q tags, whether its IP packet has options, extension headers or is a
fragment, its UDP destination port, whether a UDP checksum that is verified is right; the FEC codewords corrected and found uncorrectable at the
port since its last frame (R394, R417). -/
structure Wire where
  len : Nat := 128
  fcsOk : Bool := true
  toUs : Bool := true
  vids : List Nat := []
  ipExtra : Bool := false
  udp : Nat := 47901
  sumOk : Bool := true
  fecCorr : Nat := 0
  fecUncorr : Nat := 0
  deriving DecidableEq, Repr

/-- A frame of another protocol as it reaches a host port: where it came from, and what the port finds of it. -/
structure Heard where
  path : Path := {}
  wire : Wire := {}
  deriving DecidableEq, Repr

/-- An Iturn frame as it reaches the host bridge (R363-R366): where it came from, what the port finds of it, its header fields, whether its LENGTH,
its reserved fields and the length of its IP packet are as they must be, whether it authenticates under the keys of its
session in the phase it names, whether it bore the CE codepoint. -/
structure Frame where
  path : Path := {}
  wire : Wire := {}
  version : Nat := 1
  type : Nat := 0
  flags : Nat := 0
  session : Nat := 0
  pn : Nat := 0
  largest : Nat := 2 ^ 64 - 1
  sack : Nat := 0
  formOk : Bool := true
  authOk : Bool := true
  ce : Bool := false
  deriving DecidableEq, Repr

/-- The body of a REG_REQ frame (R383). -/
structure RegReq where
  reqid : Nat
  count : Nat
  write : Bool
  fixed : Bool := false
  offset : Nat
  values : List Word := []
  deriving DecidableEq, Repr

/-- A peer frame as it reaches a peer port (R395, R398-R400): what the port finds of it, its EtherType, its header fields and whether its
checks hold. -/
structure PeerFrame where
  wire : Wire := {}
  ether : Nat := 0x88B5
  destOk : Bool := true
  srcMac : Nat := 0
  pcp : Nat := 0
  version : Nat := 1
  type : Nat := 0
  key : Nat := 0
  rgen : BitVec 8 := 0
  bodyOk : Bool := true
  deriving DecidableEq, Repr

/-- A laser cartridge's readings in a round (R413). -/
structure CartReading where
  output : BitVec 16
  temp : BitVec 8
  bias : BitVec 16
  deriving DecidableEq, Repr

/-- The area a stripe belongs to (R421, R424). -/
inductive StripeArea where
  | checkpoint (id : Nat)
  | firmware (slot : Nat)
  | twoCopy
  | directory (copy : Nat)
  | other
  deriving DecidableEq, Repr

/-- One stripe as a refresh pass reads it (R424, R425): a block of it, the codewords decoded softly and rebuilt, whether it is
lost, its area. -/
structure StripeReading where
  block : Nat
  soft : Nat := 0
  rebuilt : Nat := 0
  lost : Bool := false
  area : StripeArea := .other
  deriving DecidableEq, Repr

/-- What an edge regulator feeds (R484). -/
inductive EdgeUnit where
  | orangery (n : Nat)
  | lantern (n : Nat)
  | postmaster | icehouse | lodge | sundial
  deriving DecidableEq, Repr

/-- A sensor sample (R480, R489, R622): which sensor and its value; temperatures in °C, the hottest of a pavilion's
compute sensors; `limit` says that the regulator's current cap was reached in the round. -/
inductive Sample where
  | compute (pav : Nat) (temp : Int)
  | thoroughfare (pav : Nat) (temp : Int)
  | voltage (pav mv : Nat)
  | limit (pav : Nat)
  | plot (plot : Nat) (temp : Int) (amps : Nat)
  | converter (conv : Nat) (temp : Int) (deciamps : Nat)
  | busbar (centivolts deciamps watts : Nat)
  | edge (temp : Int)
  | receive (port : Nat) (power : Int)
  deriving DecidableEq, Repr

/-- What a start finds (R503-R526, R588-R594). Stage 0: north-edge rails, the lock to REFCLK, failed converters. Stage 1: a
valid directory copy, slots whose checks fail as read. Stage 2: identity, usable copies of the three records. Stage 3: plots
that short, pavilions that stay dark with the cause of R536, links that do not align as router and side. Stage 4: UCIe
modules that do not train cleanly, memory devices that train slow or fail, cartridges that do not serve. Stage 5: phases that
fail their test. Stage 6: bad lines, bad lanes, sites that fail with the cause of R536. Stage 7: sites that do not pass at
index 0 with VOFF 0, as core, FMAX (2 or more: none), VOFF, MARGIN; the MARGIN of the others. -/
structure BootFindings where
  northRail : Bool := true
  refclk : Bool := true
  convFail : List Nat := []
  directory : Bool := true
  badSlots : List Nat := []
  identity : Bool := true
  config : Bool := true
  repairs : Bool := true
  freq : Bool := true
  shorts : List Nat := []
  dark : List (Nat × Nat) := []
  linksDown : List (Nat × Nat) := []
  ucie : List (Nat × Nat × UcieResult) := []
  memSlow : List Nat := []
  memFail : List Nat := []
  carts : List Nat := []
  phases : List (Nat × Nat) := []
  lines : List (Nat × Nat × Nat) := []
  lanes : List (Nat × Nat × Bool × Nat) := []
  failing : List (Nat × Nat) := []
  pacing : List (Nat × Nat × Nat × Nat) := []
  margin : Nat := 0
  deriving DecidableEq, Repr

/-- What the probe of a hang finds (R572): the stalled resource, its unit's class and number and the port or side, and the contexts whose
traffic is queued there. -/
structure Probe where
  unit : Nat := 0
  unitId : Nat := 0
  port : Nat := 0
  suspects : List Word := []
  deriving DecidableEq, Repr

/-- What a patrol segment finds (R560): nothing, a bad line of a bank, a bad bond lane, a failing test of segment 0. -/
inductive Finding where
  | pass
  | line (bank line : Nat)
  | lane (bank : Nat) (write : Bool)
  | failed (test : Nat)
  deriving DecidableEq, Repr

end Sys2Proof.Machine

namespace Sys2Proof

open Machine

/-- The commands of spec/opcode_table.json, in its order. -/
inductive Instr where
  /-- REGISTER_WRITE (R10). A write through any access path to a register that has no row of its own, such as a select
    register, a W1C field or a plain RW field, taking effect as its field access codes define. -/
  | registerWrite (path : WritePath) (addr : Nat) (value : Word)
  /-- NOP (R98). The keeper executes NOP, which does nothing for one cycle. -/
  | nop (core : Nat)
  /-- HALT (R98). The keeper stops fetching and sets KP_STATUS.STATE to halted and DONE to 1. -/
  | halt (core : Nat)
  /-- ALU (R99). The keeper applies the ALU operation that FN selects to two scalar registers. -/
  | alu (core : Nat)
  /-- ADDI (R98). The keeper adds a sign-extended immediate to a scalar register. -/
  | addi (core : Nat)
  /-- ANDI (R98). The keeper ANDs a scalar register with an immediate. -/
  | andi (core : Nat)
  /-- ORI (R98). The keeper ORs a scalar register with an immediate. -/
  | ori (core : Nat)
  /-- XORI (R98). The keeper XORs a scalar register with an immediate. -/
  | xori (core : Nat)
  /-- SHI (R98). The keeper shifts a scalar register by an immediate count in the direction IMM[7:6] selects. -/
  | shi (core : Nat)
  /-- LI (R98). The keeper loads a sign-extended 17-bit immediate into a scalar register. -/
  | li (core : Nat)
  /-- LIS (R98). The keeper shifts a scalar register left by 17 and ORs in a zero-extended immediate. -/
  | lis (core : Nat)
  /-- CMP (R100). The keeper sets a predicate from a comparison of two scalar registers. -/
  | cmp (core : Nat)
  /-- CMPI (R100). The keeper sets a predicate from a comparison of a scalar register with an immediate. -/
  | cmpi (core : Nat)
  /-- PLOG (R98). The keeper combines two predicates by the logical operation FN selects. -/
  | plog (core : Nat)
  /-- LD (R101). The keeper loads 64 bits from its own scratchpad into a scalar register. -/
  | ld (core : Nat)
  /-- LDW (R101). The keeper loads 32 bits from its own scratchpad, zero-extended. -/
  | ldw (core : Nat)
  /-- ST (R101). The keeper stores 64 bits of a scalar register into its own scratchpad. -/
  | st (core : Nat)
  /-- STW (R159). The keeper merges 32 bits into a stored 8 B word and recomputes its check bits. -/
  | stw (core : Nat)
  /-- ADDA (R98). The keeper adds an immediate to an address register modulo 2^48. -/
  | adda (core : Nat)
  /-- ADDAS (R98). The keeper adds a scalar register to an address register modulo 2^48. -/
  | addas (core : Nat)
  /-- MOVA (R98). The keeper moves the low 48 bits of a scalar register into an address register. -/
  | mova (core : Nat)
  /-- MOVS (R98). The keeper moves an address register into a scalar register, zero-extended. -/
  | movs (core : Nat)
  /-- BR (R102). The keeper branches by a signed instruction offset when its predicate holds. -/
  | br (core : Nat)
  /-- CALL (R98). The keeper saves the return address in s31 and branches. -/
  | call (core : Nat)
  /-- JR (R102). The keeper jumps to the address in a scalar register. -/
  | jr (core : Nat)
  /-- QCUBE (R105). The keeper reserves a cube queue slot and starts fetching a cube descriptor. -/
  | qcube (core : Nat)
  /-- QCHAIN (R107). The keeper reserves a chain queue slot, captures s0-s31 and starts fetching a chain descriptor.
    -/
  | qchain (core : Nat)
  /-- QPORT (R105). The keeper reserves a porter queue slot and starts fetching a porter descriptor. -/
  | qport (core : Nat)
  /-- QUEUE_STALL_RELEASE (R106). A queue instruction stalled on a full queue issues in the cycle after a slot frees.
    -/
  | queueStallRelease (core : Nat)
  /-- DESCRIPTOR_ENTRY (R105). A fetched descriptor enters its queue 7 compute cycles after its issue. -/
  | descriptorEntry (core : Nat) (unit : QUnit)
  /-- QWAIT (R118). The keeper begins waiting until the named queues are empty and their units idle. -/
  | qwait (core : Nat)
  /-- FSET (R116). The keeper sets one of its flags. -/
  | fset (core : Nat)
  /-- FCLR (R117). The keeper clears one flag or every flag named by a mask. -/
  | fclr (core : Nat)
  /-- WAITF (R121). The keeper begins waiting for a flag, optionally clearing it on success. -/
  | waitf (core : Nat)
  /-- WAITW (R119). The keeper begins waiting for a scratchpad word to satisfy a condition. -/
  | waitw (core : Nat)
  /-- WAITW_POLL (R119). Every 8 cycles a waiting WAITW reads its word and tests it six cycles later. -/
  | waitwPoll (core : Nat)
  /-- WAITT (R120). The keeper begins waiting until its local sundial copy reaches a target. -/
  | waitt (core : Nat)
  /-- DELAY (R120). The keeper begins a delay of a given number of compute cycles. -/
  | delay (core : Nat)
  /-- DELAY_EXPIRE (R120). A DELAY retires after exactly its count of compute cycles. -/
  | delayExpire (core : Nat)
  /-- WAIT_SUCCESS (R118). A wait's per-cycle test succeeds and the wait retires with its predicate set. -/
  | waitSuccess (core : Nat) (cycles : Nat)
  /-- WAIT_TIMEOUT (R118). A wait reaches its timeout without success and retires with its predicate clear. -/
  | waitTimeout (core : Nat)
  /-- FSIG (R122). The keeper sends a footpath signal that sets a flag at another logical core. -/
  | fsig (core : Nat)
  /-- FSEND (R123). The keeper sends 8-128 B into a granted window at another core. -/
  | fsend (core : Nat)
  /-- CPOOL (R126). The keeper opens a credit pool, or closes it when the size is zero. -/
  | cpool (core : Nat)
  /-- CFREE (R131). The keeper releases the oldest grants of a pool and serves waiting requests that now fit. -/
  | cfree (core : Nat)
  /-- CREQ (R127). The keeper sets a grant slot pending and sends a window request to another core. -/
  | creq (core : Nat)
  /-- CWAIT (R130). The keeper begins waiting for a grant slot to leave the pending state. -/
  | cwait (core : Nat)
  /-- CDROP (R131). The keeper empties a grant slot without returning space to the pool. -/
  | cdrop (core : Nat)
  /-- BELL (R133). The keeper arrives at a bell and waits for its release, or consumes an unseen release. -/
  | bell (core : Nat)
  /-- SDR (R136). The keeper reads its thoroughfare's sundial copy into a scalar register. -/
  | sdr (core : Nat)
  /-- KRD (R98). The keeper reads one of its KP_ registers into a scalar register. -/
  | krd (core : Nat)
  /-- KWR (R145). The keeper writes a KP_ register, taking effect only on KP_CHAIN_SEED and W1C fields. -/
  | kwr (core : Nat)
  /-- RUN_SET (R143). Setting KP_CTRL.RUN from 0 to 1 starts fetch at KP_CTRL.ENTRY. -/
  | runSet (core : Nat)
  /-- RUN_CLEAR (R143). Clearing KP_CTRL.RUN halts the keeper after the instruction in progress and abandons any wait.
    -/
  | runClear (core : Nat)
  /-- KP_CHAIN_SEED (R74). A write of KP_CHAIN_SEED loads the stochastic-rounding generator and resets its draw count.
    -/
  | kpChainSeed (core : Nat) (seed : Word)
  /-- CORE_RESET (R142). A core's keeper, cubes, chain unit and porter are reset while scratchpad and program store
    are kept. -/
  | coreReset (core : Nat)
  /-- MMA (R44). An MMA descriptor at the head of the cube queue is checked and its groups are issued in loop order.
    -/
  | mma (core : Nat) (upsets : List Nat)
  /-- MMA_COMPLETE (R48). An MMA completes after its fill and set cycles, and its completion flag is set in the next
    cycle. -/
  | mmaComplete (core : Nat)
  /-- ZERO (R43). A ZERO descriptor at the head of the cube queue clears accumulator tiles to FP32 +0.0. -/
  | zero (core : Nat)
  /-- ZERO_COMPLETE (R50). A ZERO completes after its tile count and overhead, setting its flag. -/
  | zeroComplete (core : Nat)
  /-- CUBE_REJECT_COMPLETE (R46). A rejected cube descriptor completes 2 cycles after reaching the head and sets its
    flag. -/
  | cubeRejectComplete (core : Nat)
  /-- CHAIN_START (R84). A chain at the head of the chain queue is checked and makes its first source read. -/
  | chainStart (core : Nat)
  /-- CHAIN_REJECT_COMPLETE (R83). A rejected chain completes 2 cycles after reaching the head and sets its flag. -/
  | chainRejectComplete (core : Nat)
  /-- CHAIN_BEAT (R85). One beat of a chain reads its sources and passes through the chain's stages, waiting on data
    or the tile scoreboard as needed. -/
  | chainBeat (core : Nat) (upsets : List Nat)
  /-- CHAIN_COMPLETE (R84). A chain completes after its depth and beats, and its flag is set in the next cycle. -/
  | chainComplete (core which : Nat)
  /-- COPY (R113). The porter starts a COPY descriptor between local scratchpad regions. -/
  | copy (core : Nat)
  /-- PUT (R112). The porter starts a PUT into a granted window at another core. -/
  | put (core : Nat)
  /-- GET (R110). The porter starts a GET from another core's scratchpad. -/
  | get (core : Nat)
  /-- LOAD (R110). The porter starts a LOAD from a device address in the garden view. -/
  | load (core : Nat)
  /-- STORE (R110). The porter starts a STORE to a device address in the garden view. -/
  | store (core : Nat)
  /-- ASEND (R215). The porter starts sending rows as bundles on an avenue. -/
  | asend (core : Nat)
  /-- ARECV (R215). The porter starts receiving an avenue's payload into local rows. -/
  | arecv (core : Nat)
  /-- PROG (R94). The porter starts copying one row into the core's program store. -/
  | prog (core : Nat)
  /-- PORTER_REJECT_COMPLETE (R114). A rejected porter descriptor completes 2 cycles after reaching the head. -/
  | porterRejectComplete (core : Nat)
  /-- PORTER_COMPLETE (R111). A porter descriptor completes and its flag is set in queue order. -/
  | porterComplete (core : Nat)
  /-- INJECTION (R208). A packet or bundle enters the fabric at its source router, which translates and stamps its
    header unless injection hold stops it. -/
  | injection (src : Nat) (avenue : Bool)
  /-- ROUTE_PACKET (R209). A router takes the head of a packet or bundle at an input and forwards it by its tables on
    a slice whose queue is on. -/
  | routePacket (router port slice : Nat) (reply avenue : Bool) (err : FlitErr)
  /-- WRITE (R164). A WRITE packet reaches its destination, which writes it if it lies in a granted window, or
    discards it and returns a NOTICE. -/
  | write (core : Nat)
  /-- READ (R207). A READ packet reaches a remote port or endpoint, which answers with READ_DATA in ascending order.
    -/
  | read (dest : Nat) (err : MemErr)
  /-- READ_DATA (R207). Returned data reaches the requester and is written at its return offset. -/
  | readData (dest : Nat)
  /-- SIGNAL (R122). A SIGNAL packet reaches its destination keeper and sets the named flag. -/
  | signal (core : Nat)
  /-- CREDIT_REQUEST (R128). A CREQ packet reaches the destination credit unit, which grants, queues or refuses it. -/
  | creditRequest (core : Nat)
  /-- CANSWER (R130). A credit answer reaches the sender and sets the grant slot to granted or refused unless the slot
    is no longer pending. -/
  | canswer (core : Nat)
  /-- ACK (R205). A footpath ACK reaches the porter or bridge that sent the acknowledged WRITE or DEVWRITE. -/
  | ack (dest : Nat)
  /-- NOTICE (R165). A discard or generation-drop notice reaches the sending porter, which stops the transfer. -/
  | notice (core : Nat)
  /-- DEVWRITE (R235). A DEVWRITE packet reaches an orangery, which applies it in arrival order and acknowledges it.
    -/
  | devwrite (ora : Nat) (err : MemErr)
  /-- AVENUE_BUNDLE (R216). A bundle reaches an avenue entry and is forwarded or delivered, with SEQ checked at
    delivery. -/
  | avenueBundle (router port slice : Nat) (err : FlitErr)
  /-- DRAIN_MARKER (R225). A drain marker reaches a delivery entry and sets its DRAINED bit. -/
  | drainMarker (router port slice : Nat) (err : FlitErr)
  /-- BELL_RELEASE (R134). A bell release reaches a member, clearing ARRIVED and setting UNSEEN where no BELL waits.
    -/
  | bellRelease (garden bell core : Nat)
  /-- STARVATION_PROMOTE (R157). A porter or remote request unserved for 32 cycles is ranked directly below the
    keeper. -/
  | starvationPromote (core : Nat) (remote : Bool)
  /-- FP_QUIET (R224). FP_QUIET for a garden is set once its footpath traffic has been held nowhere for 64
    thoroughfare cycles. -/
  | fpQuiet (pav garden : Nat)
  /-- PV_FAB_ARM (R225). A write of PV_FAB_CTL.ARM clears DRAINED on every delivery entry of the garden. -/
  | pvFabArm (pav mask : Nat)
  /-- PV_FAB_MARK (R223). A write of PV_FAB_CTL.MARK makes every source entry of the garden inject a drain marker. -/
  | pvFabMark (pav mask : Nat)
  /-- LINK_DOWN (R230). A router whose neighbouring thoroughfare loses power marks the link down and discards traffic
    for it. -/
  | linkDown (router side : Nat)
  /-- GATE_BUFFER_ALIGN (R446). A link direction is held off and its gate buffer is aligned and checked before the
    link is marked UP. -/
  | gateBufferAlign (router side lo hi : Nat)
  /-- SCRUB_PASS (R179). The scratchpad scrubber reads every line once per scrub period, correcting and counting
    errors. -/
  | scrubPass (core : Nat) (ce ue : List Nat)
  /-- CORRECTED_WRITE_BACK (R176). A corrected scratchpad line is written back in an idle bank cycle unless a write
    reaches it first. -/
  | correctedWriteBack (core : Nat) (word : Nat)
  /-- PV_SPAD_ZERO (R174). A write of 1 to PV_SPAD_CTL.ZERO starts zeroing a pavilion unless busy or running. -/
  | pvSpadZero (pav : Nat)
  /-- ZEROING_COMPLETE (R172). Pavilion zeroing ends after 6,144 compute cycles and BUSY clears. -/
  | zeroingComplete (pav : Nat)
  /-- ARM (R268). OR_ENG_CMD ARM checks the garden's plan and starts the NORM pass or returns to NONE. -/
  | arm (ora garden : Nat)
  /-- PREPARE (R268). OR_ENG_CMD PREPARE closes the arena and starts judging the written masks. -/
  | prepare (ora garden : Nat)
  /-- COMMIT (R268). OR_ENG_CMD COMMIT starts applying the layer-sign update with the given step scale. -/
  | commit (ora garden : Nat) (scale : W32)
  /-- DISCARD (R268). OR_ENG_CMD DISCARD returns the garden to COLLECT with clear written masks. -/
  | discard (ora garden : Nat)
  /-- DISARM (R272). OR_ENG_CMD DISARM returns the garden to NONE, deferred during a commit. -/
  | disarm (ora garden : Nat)
  /-- NORM_PASS_END (R652). The arming pass finishes its granule sums and the garden enters COLLECT. -/
  | normPassEnd (ora garden : Nat) (err : MemErr)
  /-- PREPARE_PASS_END (R652). The PREPARING pass finishes and the garden enters PREPARED or REFUSED. -/
  | preparePassEnd (ora garden : Nat) (err : MemErr)
  /-- COMMIT_END (R271). A commit finishes, the garden returns to COLLECT and any deferred DISARM takes effect. -/
  | commitEnd (ora garden : Nat) (err : MemErr) (broken : Option Nat)
  /-- OR_ARENA (R278). A write of OR_ARENA_g sets the garden's sign arena only while the garden is in NONE. -/
  | orArena (ora garden : Nat) (value : Word)
  /-- OR_LAYER_WORD (R265). A write of OR_LAYER_Ww changes a layer descriptor word when the engine states permit. -/
  | orLayerWord (ora layer w : Nat) (value : Word)
  /-- CHANNEL_CHECK (R242). An orangery checks one memory channel's drift in rotation and retrains it when needed. -/
  | channelCheck (ora : Nat) (found : ChannelStep)
  /-- CHANNEL_RETRAIN_END (R242). A channel retrain ends and the held channel serves its waiting requests. -/
  | channelRetrainEnd (ora : Nat)
  /-- MR4_READ (R240). Once per round the orangery reads every die's MR4 temperature and adjusts refresh. -/
  | mr4Read (ora : Nat) (temps : List Int)
  /-- MEMORY_SCRUB (R247). The orangery scrubber reads every block of the device once per scrub period. -/
  | memoryScrub (ora : Nat) (err : MemErr)
  /-- BLOCK_WRITE_BACK (R245). A corrected memory block is written back unless a write to it arrives first. -/
  | blockWriteBack (ora block : Nat)
  /-- ROW_RETIRE (R248). An orangery copies a failing row to a spare row and redirects it. -/
  | rowRetire (ora row : Nat)
  /-- UCIE_RETRAIN (R238). An orangery UCIe module retrains while traffic moves to the other module. -/
  | ucieRetrain (ora module : Nat) (res : Option UcieResult)
  /-- UCIE_MODULE_DOWN (R238). An orangery UCIe module goes down and all traffic uses the other module. -/
  | ucieModuleDown (ora module : Nat)
  /-- SWEEP (R320). At tick 0 of each round the postmaster polls every unit, checks watchdogs and scans the inbound
    queues. -/
  | sweep
  /-- SECOND_SCAN (R320). At tick 32,768 the counter pair scans the inbound queues again. -/
  | secondScan
  /-- DECISION_POINT (R320). By tick 49,152 incidents are recorded, recoveries decided and many-unit changes staged.
    -/
  | decisionPoint
  /-- POSTMASTER_RESTART (R318). A lockstep mismatch or SRAM uncorrectable word restarts the postmaster and reloads
    firmware. -/
  | postmasterRestart
  /-- RESTART_RESUME (R319). The restarted postmaster resumes, answers or kills letters in flight and discards
    unchimed stages. -/
  | restartResume
  /-- POST (R347). PM_MBX_CTL.POST posts the letter being formed into an inbound slot. -/
  | post (ch : Nat)
  /-- TAKE (R348). PM_MBX_CTL.TAKE frees the oldest receipt's outbound slot. -/
  | take (ch : Nat)
  /-- ABORT (R347). PM_MBX_CTL.ABORT discards the letter being formed. -/
  | abort (ch : Nat)
  /-- PM_MBX_RESET (R328). PM_MBX_CTL.RESET empties the channel's queues and accepts any next SEQUENCE. -/
  | pmMbxReset (ch : Nat)
  /-- PM_MBX_IN (R347). A write of PM_MBX_IN appends 8 B to the letter being formed. -/
  | pmMbxIn (ch : Nat) (data : Word)
  /-- PM_MBX_OUT (R348). A read of PM_MBX_OUT returns the next 8 B of the oldest receipt. -/
  | pmMbxOut (ch : Nat)
  /-- READ_REG (R350). An SMBus READ_REG process call reads a PM_ register. -/
  | readReg (offset : Nat) (pec : Bool)
  /-- WRITE_REG (R350). An SMBus WRITE_REG block write writes a PM_ register. -/
  | writeReg (offset : Nat) (value : Word) (pec : Bool)
  /-- STATUS (R350). An SMBus STATUS read returns service, receipt and incident bits. -/
  | status (pec : Bool)
  /-- POSTWIN (R351). An Update-DR of the POSTWIN register starts one PM_ window access over test access. -/
  | postwin (reg : BitVec 80)
  /-- OPEN_SESSION (R367). The public session letter starts the hybrid key exchange and reserves a channel and
    session. -/
  | openSession (ch : Nat)
  /-- CLOSE_SESSION (R375). The letter ends its session and frees its channel. -/
  | closeSession (ch : Nat)
  /-- PING (R339). The letter returns its echo value and the sundial count. -/
  | ping (ch : Nat)
  /-- REKEY (R373). The letter moves both directions of the session to the next key phase. -/
  | rekey (ch : Nat)
  /-- SESSION_LIST (R339). The letter returns the open sessions with their channels, roles and gardens. -/
  | sessionList (ch : Nat)
  /-- SESSION_BIND (R339). The letter binds a tenant session to gardens. -/
  | sessionBind (ch : Nat)
  /-- REG_READ (R340). The letter reads device registers through the channel's select copies. -/
  | regRead (ch : Nat)
  /-- REG_WRITE (R340). The letter writes permitted registers, or none when any is not permitted. -/
  | regWrite (ch : Nat)
  /-- MBX_STATUS (R339). The letter returns PM_MBX_STATUS of a channel. -/
  | mbxStatus (ch : Nat)
  /-- MBX_FLUSH (R339). The letter discards the receipts of its own channel. -/
  | mbxFlush (ch : Nat)
  /-- GARDEN_CREATE (R307). The letter checks and stages a new garden's pavilions, windows and grants, zeroing its
    pavilions. -/
  | gardenCreate (ch : Nat)
  /-- GARDEN_LOAD (R307). The letter checks an image, places its cores, writes program stores and stages the map and
    avenues. -/
  | gardenLoad (ch : Nat)
  /-- GARDEN_START (R307). The letter stages RUN for every mapped keeper and writes the replay word. -/
  | gardenStart (ch : Nat)
  /-- GARDEN_STOP (R307). The letter clears RUN at a chime and returns the garden to LOADED. -/
  | gardenStop (ch : Nat)
  /-- GARDEN_RELEASE (R308). The letter stops the garden, removes its avenues, zeroes its pavilions and releases its
    windows. -/
  | gardenRelease (ch : Nat)
  /-- PROTECT_SET (R296). The letter replaces a garden's protection, adding at a chime or narrowing by
    drain-then-change. -/
  | protectSet (ch : Nat)
  /-- SLOW_TIER_ZEROING (R299). Orangeries zero a physical range whose last window was removed, unless KEEP is set. -/
  | slowTierZeroing (base size : Nat)
  /-- GARDEN_STATUS (R339). The letter returns the garden's status, relief counters and last seal. -/
  | gardenStatus (ch : Nat)
  /-- SEAL_STEP (R269). The letter seals a step once its warden results pass, preparing and committing the update
    plan. -/
  | sealStep (ch : Nat)
  /-- UPDATE_PLAN (R344). The letter disarms the plan, writes a new one and arms it. -/
  | updatePlan (ch : Nat)
  /-- GARDEN_RESET (R567). The letter resets the garden at chimes and restarts its keepers. -/
  | gardenReset (ch : Nat)
  /-- PARCEL_OPEN (R385). The letter opens a parcel over a garden-view range. -/
  | parcelOpen (ch : Nat)
  /-- PARCEL_CLOSE (R392). The letter closes a parcel once its acknowledged frames are written and reports bytes
    moved. -/
  | parcelClose (ch : Nat)
  /-- MEM_FILL (R345). The letter fills a garden-view range with a pattern through the orangeries. -/
  | memFill (ch : Nat)
  /-- CHECKPOINT_TAKE (R427). The letter starts a checkpoint of a garden into its free generation slot. -/
  | checkpointTake (ch : Nat)
  /-- CHECKPOINT_CAPTURE (R428). A queued take reaches its capture point and begins reading the garden's state. -/
  | checkpointCapture (garden : Nat)
  /-- TAKE_COMPLETE (R429). A checkpoint take finishes writing its image and the image becomes complete. -/
  | takeComplete (garden : Nat)
  /-- CHECKPOINT_LIST (R339). The letter returns the complete checkpoint images. -/
  | checkpointList (ch : Nat)
  /-- CHECKPOINT_RESTORE (R435). The letter restores a checkpoint into a LOADED garden. -/
  | checkpointRestore (ch : Nat)
  /-- RESTORE_COMPLETE (R435). A restore finishes writing its sections and sets the engine to COLLECT. -/
  | restoreComplete (garden : Nat)
  /-- CHECKPOINT_DROP (R437). The letter frees a checkpoint image's slot, deferred while a restore reads it. -/
  | checkpointDrop (ch : Nat)
  /-- ICEHOUSE_STATUS (R438). The letter returns the icehouse status, capacity, wear, counters and job. -/
  | icehouseStatus (ch : Nat)
  /-- CONFIG_STAGE (R532). The letter clamps and writes configuration entries into the staged copy. -/
  | configStage (ch : Nat)
  /-- CONFIG_READ (R534). The letter returns configuration entries from the active, staged or stored copy. -/
  | configRead (ch : Nat)
  /-- CHIME_SET (R533). The letter snapshots the staged configuration and stages it as kind CONFIG. -/
  | chimeSet (ch : Nat)
  /-- POWER_CAP_SET (R488). The letter sets the power cap and its windows at a chime. -/
  | powerCapSet (ch : Nat)
  /-- DIVIDER_SET (R440). The letter sets a garden's planned compute divider at a chime. -/
  | dividerSet (ch : Nat)
  /-- TIME_SOURCE (R453). The letter selects the sundial's discipline source at a chime. -/
  | timeSource (ch : Nat)
  /-- MODULE_RESET (R343). The letter places its receipt and starts a warm fast path or full bring-up. -/
  | moduleReset (ch : Nat)
  /-- INCIDENT_READ (R581). The letter returns incident records from a record number. -/
  | incidentRead (ch : Nat)
  /-- INCIDENT_ACK (R581). The letter acknowledges incident records up to a number. -/
  | incidentAck (ch : Nat)
  /-- SNAPSHOT_REQUEST (R614). The letter stages a counter snapshot as kind SNAP at a chime. -/
  | snapshotRequest (ch : Nat)
  /-- SNAPSHOT_READ (R620). The letter returns shadow records of a snapshot block. -/
  | snapshotRead (ch : Nat)
  /-- SENSOR_READ (R623). The letter returns sensor records of a class. -/
  | sensorRead (ch : Nat)
  /-- CAPACITY_READ (R521). The letter returns the available exposed count, reserve and SHORT mask. -/
  | capacityRead (ch : Nat)
  /-- POSTMARK_REQUEST (R601). The letter returns a postmark signed by the identity keys. -/
  | postmarkRequest (ch : Nat)
  /-- STAMP_READ (R597). The letter returns one page of the module's stamp. -/
  | stampRead (ch : Nat)
  /-- FIRMWARE_STAGE (R609). The letter opens a parcel into the firmware staging area. -/
  | firmwareStage (ch : Nat)
  /-- FIRMWARE_ACTIVATE (R610). The letter verifies staged firmware, installs it on trial and starts a warm fast path.
    -/
  | firmwareActivate (ch : Nat)
  /-- OWNER_KEY_SET (R605). The letter replaces or removes the owner key. -/
  | ownerKeySet (ch : Nat)
  /-- PEER_AVENUE_OPEN (R409). The letter activates a peer bridge send or receive entry at a chime. -/
  | peerAvenueOpen (ch : Nat)
  /-- PEER_AVENUE_CLOSE (R410). The letter removes a peer avenue's entries by drain-then-change. -/
  | peerAvenueClose (ch : Nat)
  /-- PEER_PORT_SWAP (R414). The letter moves a peer or host port onto a spare port. -/
  | peerPortSwap (ch : Nat)
  /-- PEER_STATUS (R416). The letter returns a peer port's status, counters and partner. -/
  | peerStatus (ch : Nat)
  /-- LETTER (R383). An Iturn LETTER frame arrives and the bridge places its letter in an inbound slot or discards it
    as BUSY. -/
  | letter (f : Frame) (l : Letter)
  /-- FINISHED (R370). A FINISHED frame arrives and completes the handshake when it verifies. -/
  | finished (f : Frame) (macOk sigOk : Bool)
  /-- REG_REQ (R382). A REG_REQ frame accesses the PM_ window and is answered with REG_REPLY within 10 µs. -/
  | regReq (f : Frame) (q : RegReq)
  /-- PARCEL_DATA (R388). A host PARCEL_DATA frame arrives and its data are written as DEVWRITEs before
    acknowledgement. -/
  | parcelData (f : Frame) (parcel offset : Nat) (data : List Byte)
  /-- PARCEL_PULL (R389). A PARCEL_PULL frame arrives and the bridge sends the range as PARCEL_DATA frames. -/
  | parcelPull (f : Frame) (parcel len offset : Nat)
  /-- ITURN_ACK (R378). An Iturn acknowledgement arrives, acknowledging frames, declaring losses and updating
    congestion state. -/
  | iturnAck (f : Frame)
  /-- RETRANSMISSION_TIMER (R378). A frame's retransmission timer expires, the frame is declared lost and RTO doubles.
    -/
  | retransmissionTimer (session : Nat) (pn : Nat)
  /-- SESSION_IDLE_TIMEOUT (R375). No valid frame of a session arrives for the idle time and the session ends. -/
  | sessionIdleTimeout (session : Nat)
  /-- UNACKED_TIMEOUT (R375). A frame stays unacknowledged for 5 s and the session ends. -/
  | unackedTimeout (session : Nat)
  /-- FINISHED_TIMEOUT (R371). No valid FINISHED arrives within 1 s and the session is discarded. -/
  | finishedTimeout (session : Nat)
  /-- UNBOUND_TIMEOUT (R372). A tenant session unbound 60 s after FINISHED is closed. -/
  | unboundTimeout (session : Nat)
  /-- OLD_PHASE_EXPIRE (R373). Two rounds after a REKEY receipt, old-phase host frames are no longer accepted. -/
  | oldPhaseExpire (session : Nat)
  /-- KEY_LIMIT (R374). 2^32 frames under one key close the session with GONE reason 2. -/
  | keyLimit (session : Nat)
  /-- ARP_REQUEST (R356). The host port answers an ARP request for its address. -/
  | arpRequest (h : Heard) (target : Nat)
  /-- NEIGHBOUR_SOLICITATION (R356). The host port answers an NDP neighbour solicitation for its address. -/
  | neighbourSolicitation (h : Heard) (hi lo : Word)
  /-- ECHO_REQUEST (R356). The host port answers an ICMP or ICMPv6 echo request. -/
  | echoRequest (h : Heard) (v6 : Bool) (hi lo : Word)
  /-- PFC_FRAME (R358). A received PFC frame pauses or resumes sending on a priority. -/
  | pfcFrame (peer : Bool) (port prio quanta : Nat)
  /-- PAUSE_EXPIRE (R358). Pause quanta expire and a paused priority resumes. -/
  | pauseExpire (peer : Bool) (port prio : Nat)
  /-- PFC_REFRESH (R359). Every 256 quanta a pausing port resends pause frames or sends zero quanta once space
    returns. -/
  | pfcRefresh (peer : Bool) (port prio : Nat)
  /-- SYNC (R453). A PTP Sync of the clock `source` gives an offset that the servo uses to trim the sundial rate or rewrite
    SD_EPOCH. -/
  | sync (h : Heard) (domain source : Nat) (masterTime arrival : Int)
  /-- ANNOUNCE (R362). A PTP Announce message feeds the best master clock choice. -/
  | announce (h : Heard) (domain : Nat) (dataset : List Nat)
  /-- DELAY_RESP (R362). A PTP Delay_Resp of the clock `source` completes a delay measurement and sets the Delay_Req
    interval. -/
  | delayResp (h : Heard) (domain source : Nat) (recvTime : Int) (logInterval : Int)
  /-- DELAY_REQ (R362). At the master's interval the port sends a timestamped Delay_Req. -/
  | delayReq (port : Nat) (departure : Int)
  /-- SYNC_IN_EDGE (R455). A SYNC_IN rising edge is timestamped and accepted, or rejected when too close. -/
  | syncInEdge (stamp : Int)
  /-- DISCIPLINE_HOLDOVER (R456). With no Sync for 16 s or no SYNC_IN edge for 3 s the discipline holds its trim. -/
  | disciplineHoldover
  /-- BUNDLE (R402). A peer BUNDLE frame arrives and its receive entry injects it on the die or discards it. -/
  | bundle (port : Nat) (pf : PeerFrame) (b : Bundle)
  /-- GENSYNC (R404). A GENSYNC arrives and updates the send entry's RGEN, entering DISCARD when it changes
    mid-sequence. -/
  | gensync (port : Nat) (pf : PeerFrame)
  /-- PROBE (R400). A PROBE arrives and records the partner's module and port. -/
  | probe (port : Nat) (pf : PeerFrame) (module : Word) (partner : Nat)
  /-- PROBE_SEND (R400). Every 10 µs a peer port broadcasts a PROBE. -/
  | probeSend (port : Nat)
  /-- PROBE_TIMEOUT (R412). No valid PROBE for 100 µs puts the peer port down. -/
  | probeTimeout (port : Nat)
  /-- BLOCK_LOCK_LOSS (R412). A peer port's PCS loses block lock and the port goes down. -/
  | blockLockLoss (port : Nat)
  /-- PEER_LINK_RETURN (R412). A peer link returns and its receive entries send GENSYNC. -/
  | peerLinkReturn (port : Nat)
  /-- PEER_SEND (R401). A bundle reaches a peer bridge and its send entry sends it as a frame or discards it. -/
  | peerSend (bridge : Nat)
  /-- CARTRIDGE_EXCURSION (R413). The active cartridge's output leaves its limits and the lantern switches to the
    standby. -/
  | cartridgeExcursion (lantern : Nat)
  /-- CARTRIDGE_JUDGEMENT (R642). Once per round the lantern judges cartridge temperatures and bias and may switch. -/
  | cartridgeJudgement (lantern : Nat) (r0 r1 : CartReading)
  /-- CARTRIDGE_RELEASE (R643). Opening a cartridge's release latch stops its emission within 1 ms. -/
  | cartridgeRelease (lantern cart : Nat)
  /-- CARTRIDGE_INSERT (R643). A cartridge is inserted and the lantern reads its factory record. -/
  | cartridgeInsert (lantern cart : Nat)
  /-- CARTRIDGE_READY (R643). An inserted cartridge found within limits becomes the standby. -/
  | cartridgeReady (lantern cart : Nat)
  /-- AUTO_SWAP (R414). A port past its limits for 16 rounds with a spare free is swapped automatically. -/
  | autoSwap (port : Nat) (readings : List (Nat × Nat))
  /-- SWAP_PARTNER_FOUND (R414). PROBEs from the old partner arrive on the spare and the swap continues to its chime.
    -/
  | swapPartnerFound (spare : Nat) (module : Word) (partner : Nat)
  /-- SWAP_TIMEOUT (R414). No partner PROBE for 600 s restores the port's entries and fails the swap. -/
  | swapTimeout (spare : Nat)
  /-- REFRESH_READ (R425). Each refresh period the icehouse reads every stripe that holds data. -/
  | refreshRead (readings : List StripeReading)
  /-- RETENTION_REWRITE (R425). A block needing soft decoding or 180 days old is rewritten. -/
  | retentionRewrite (block : Nat)
  /-- POWER_ON_SCAN (R425). After power-on the icehouse completes one full scan within 1 h. -/
  | powerOnScan (readings : List StripeReading)
  /-- PROGRAM_FAIL (R426). A block that fails to program or erase is retired and its stripe rewritten. -/
  | programFail (block : Nat)
  /-- DIE_LOST (R426). A NAND die that answers no command is counted lost and read through parity. -/
  | dieLost (die : Nat)
  /-- NAND_RETRAIN (R418). A die's temperature change of 15 °C triggers interface retraining. -/
  | nandRetrain (die : Nat) (temp : Int)
  /-- INPUT_LOSS (R444). A thoroughfare's forwarded clock stops and its PLL enters holdover and chooses a new source.
    -/
  | inputLoss (pav : Nat)
  /-- SOURCE_RETRY (R444). Every 100 ticks a thoroughfare without a source tries again. -/
  | sourceRetry (pav : Nat)
  /-- GO_DARK (R444). Holdover reaches its limit and the pavilion goes dark. -/
  | goDark (pav : Nat)
  /-- RELOCK (R445). A PLL relocks to a new source and the pavilion realigns its links and resumes. -/
  | relock (pav : Nat)
  /-- MARGIN_REPORT (R448). A monitor margin below MARGIN_MIN stretches a compute period. -/
  | marginReport (pav : Nat) (margins : List Nat)
  /-- TICK_STROBE (R452). A sundial tick strobe advances every thoroughfare's copy. -/
  | tickStrobe (ticks : Nat) (drifts : List (Nat × Int))
  /-- FULL_COUNT (R452). Once per round each sundial copy compares itself with the master's full count. -/
  | fullCount
  /-- STAGE (R457). A chime unit receives a STAGE message, checks it and answers ACK or REFUSE. -/
  | stage (unit id : Nat)
  /-- ACK_DEADLINE (R459). At the round's last tick the postmaster sends CHIME or DISCARD for a stage. -/
  | ackDeadline (id : Nat)
  /-- CHIME (R463). A chime unit receives CHIME for a held record, applying at once if the count has passed. -/
  | chime (unit id : Nat)
  /-- STAGE_DISCARD (R460). A chime unit receives DISCARD, drops the record and unlocks. -/
  | stageDiscard (unit id : Nat)
  /-- CHIME_APPLY (R462). A unit's sundial copy reaches T and it applies its records in kind order. -/
  | chimeApply (unit : Nat)
  /-- RECORD_EXPIRE (R463). An acknowledged record with no CHIME or DISCARD for 16 rounds is dropped. -/
  | recordExpire (unit id : Nat)
  /-- REFCLK_LOSS (R635). Loss of REFCLK puts the north-edge source into holdover. -/
  | refclkLoss
  /-- REFCLK_RETURN (R635). The reference returns and the source relocks phase-continuously. -/
  | refclkReturn
  /-- CONVERTER_FAIL (R470). A stage-one converter latches off and the cap may be clamped. -/
  | converterFail (conv : Nat)
  /-- EDGE_REGULATOR_FAIL (R471). An edge regulator fails and removes the unit it feeds. -/
  | edgeRegulatorFail (reg : Nat) (feeds : EdgeUnit)
  /-- BUSBAR_UNDERVOLTAGE (R472). Busbar below 40 V for 10 µs raises the internal alert. -/
  | busbarUndervoltage (mv : Int) (micros : Nat)
  /-- BUSBAR_COLLAPSE (R472). Busbar below 36 V for 10 µs stops stage one and every domain. -/
  | busbarCollapse (mv : Int) (micros : Nat)
  /-- BUSBAR_OVERVOLTAGE (R627). Busbar above 62 V for 10 µs stops stage one. -/
  | busbarOvervoltage (mv : Int) (micros : Nat)
  /-- BUSBAR_HIGH (R627). Busbar between 60 and 62 V records one POWER incident per minute. -/
  | busbarHigh (mv : Int)
  /-- PHASE_FAULT (R478). A regulator phase at fault is latched off and the pavilion derates or switches off. -/
  | phaseFault (pav phase : Nat)
  /-- PLOT_SHORT (R481). A vertical module latches off and its whole plot goes dark. -/
  | plotShort (plot : Nat)
  /-- THOROUGHFARE_REGULATOR_FAULT (R483). A thoroughfare regulator leaves regulation and its pavilion goes dark. -/
  | thoroughfareRegulatorFault (pav : Nat)
  /-- DOMAIN_POWER_ON (R484). A request to power on a compute domain starts its staged core switch-on. -/
  | domainPowerOn (pav : Nat)
  /-- CORE_SWITCH_ON (R484). One more core of a powering domain is switched on when the plot current allows. -/
  | coreSwitchOn (pav amps : Nat)
  /-- HALF_SLOPE (R484). After 10 ms of waiting the power-on proceeds at half slope. -/
  | halfSlope (pav micros : Nat)
  /-- DOMAIN_ON_COMPLETE (R485). All 64 cores are on and the domain moves to its index in force. -/
  | domainOnComplete (pav : Nat)
  /-- DOMAIN_SWITCH_OFF (R487). A compute domain is switched off. -/
  | domainSwitchOff (pav : Nat)
  /-- SWITCH_OFF_COMPLETE (R487). A switch-off completes after 100 µs and deferred power-ons proceed. -/
  | switchOffComplete (pav : Nat)
  /-- CAP_LOOP (R490). Once per round the power controller steps the cap index up or down. -/
  | capLoop (mean : Nat)
  /-- FAST_LIMITER (R492). Input power above its fast limits raises the internal alert. -/
  | fastLimiter (watts micros : Nat)
  /-- ALERT_ASSERT (R494). An accepted alert forces every compute domain to the lowest state and starts the hold. -/
  | alertAssert (source unit nanos : Nat)
  /-- ALERT_HOLD_END (R494). 500 µs after the last release the hold ends and domains return to their index. -/
  | alertHoldEnd
  /-- CAP_HALVING (R495). Each second of one unbroken alert hold halves the cap. -/
  | capHalving
  /-- SENSOR_SAMPLE (R497). Every 10 µs each sensor is sampled and compared with its heat limits. -/
  | sensorSample (sample : Sample)
  /-- HEAT_CONTRIBUTION_RISE (R497). A whole round at or above T_HOT raises the heat contribution one index. -/
  | heatContributionRise (pav : Nat)
  /-- HEAT_CONTRIBUTION_FALL (R497). 16 rounds below T_HOT − 5 °C lower the heat contribution one index. -/
  | heatContributionFall (pav : Nat)
  /-- COLD_BOOT (R503). The busbar enters 40-60 V and the module runs stages 0-9. -/
  | coldBoot (b : BootFindings)
  /-- FULL_BRING_UP (R503). A full bring-up runs stages 0-9. -/
  | fullBringUp (b : BootFindings)
  /-- WARM_FAST_PATH (R503). A warm fast path runs stages 0-5, 8 and 9. -/
  | warmFastPath (b : BootFindings)
  /-- SETTLE (R520). Stage 8, once stage 4 has ended, zeroes, routes, writes back records and computes capacity. -/
  | settle
  /-- RST_N_ACCEPT (R524). RST_N low for 10 µs is accepted, domains go to the lowest state and sessions end. -/
  | rstNAccept (micros : Nat)
  /-- RST_N_RISE (R524). RST_N rises and the start kind chosen by the low time begins. -/
  | rstNRise (micros : Nat)
  /-- BOOTRPT (R539). The BOOTRPT instrument returns a stage report. -/
  | bootrpt (index : Nat)
  /-- STAGEHOLD (R539). The STAGEHOLD instrument holds the start before a named stage. -/
  | stagehold (stage : Nat) (enable : Bool)
  /-- PAVTEST (R539). The PAVTEST instrument runs site tests on an unowned pavilion. -/
  | pavtest (pav : Nat) (failing : List Nat)
  /-- OWNERLOAD (R606). The OWNERLOAD instrument installs an owner key when none is held. -/
  | ownerload (index : Nat) (data : Word) (commit : Bool)
  /-- OWNERCLR (R607). The OWNERCLR instrument drops every checkpoint, removes the owner key and starts a full
    bring-up. -/
  | ownerclr
  /-- WARDEN_JUDGE (R542). A warden takes an envelope record from an outbox and judges it against its envelope. -/
  | wardenJudge (pav core : Nat)
  /-- RELIEF_COPY (R312). The relief copier finishes copying or loading a target site and writes the relief word. -/
  | reliefCopy (garden lcore : Nat)
  /-- PATROL_SEGMENT (R555). A patrol segment starts on an eligible site in an idle window. -/
  | patrolSegment (core segment waited : Nat)
  /-- PATROL_SEGMENT_END (R560). A patrol segment ends, the state is restored and its result is acted on. -/
  | patrolSegmentEnd (core : Nat) (finding : Finding)
  /-- PATROL_ABANDON (R557). An event for the core abandons a running segment, restoring state and applying queued
    events. -/
  | patrolAbandon (core : Nat)
  /-- PROBATION_END (R563). A probation ends without a new event and the site's rung stands. -/
  | probationEnd (core : Nat)
  /-- MARK_EXPIRE (R561). A warden mark expires PATROL_MIN after it was given. -/
  | markExpire (core : Nat)
  /-- PATROL_DEADLINE (R559). 75 % of a site's patrol deadline passes and relief is forced at the next seal. -/
  | patrolDeadline (core : Nat)
  /-- FORCED_RELIEF_TIMEOUT (R559). No seal within 1 min of a forced relief decision moves the core at once. -/
  | forcedReliefTimeout (core : Nat)
  /-- HANG_WATCHDOG (R569). No seal within the watchdog bound fires the hang watchdog. -/
  | hangWatchdog (garden : Nat) (found : Probe)
  /-- AVENUE_STALL (R570). An avenue entry holding a flit for B / 4 is handled as a hang. -/
  | avenueStall (garden ticks : Nat) (found : Probe)
  /-- AUTO_CHECKPOINT (R574). CKPT_MIN after the newest vouched image the postmaster takes a checkpoint. -/
  | autoCheckpoint (garden : Nat)
  /-- ALERT_SOURCE_RELEASE (R494). The last asserted alert source releases (PWR_ALERT_N rises, a converter or vertical
    module alert clears, or the undervoltage or fast-limiter condition ends) and the 500 µs hold count starts. -/
  | alertSourceRelease (source unit : Nat)
  /-- HOST_LINK_UP (R414). A host port link, or the spare carrying a host port, comes up; UPA or UPB is set, and a
    pending host port swap takes effect. -/
  | hostLinkUp (port link : Nat)
  /-- HOST_LINK_DOWN (R393). A host port link is lost; frames on it are lost and UPA or UPB clears. -/
  | hostLinkDown (port link : Nat)
  /-- OUTPUT_WITHIN_VSET (R476). A rising pavilion regulator output comes within 3 % of the new VSET, and the divider
    switches to the faster index. -/
  | outputWithinVset (pav : Nat)
  /-- MEM_FILL_COMPLETE (R345). Every block of a MEM_FILL has been written by its orangeries, and the receipt is
    placed so that a waiting GARDEN_RELEASE may proceed. -/
  | memFillComplete (garden : Nat)
  /-- FIRMWARE_COPY_COMPLETE (R610). The activated image has been copied to the inactive slot and read back, the
    directory has been rewritten with TRIAL set, the receipt is placed and the warm fast path begins. -/
  | firmwareCopyComplete
  /-- LINE_REDIRECT (R181). A scratchpad line repair finishes copying into its spare line in idle bank cycles and
    redirects the line between two compute cycles. -/
  | lineRedirect (core bank line : Nat)
  deriving DecidableEq, Repr

end Sys2Proof
end

