-- ==== Sys2Proof/Machine/Num.lean ====
section
/-! DEFINITION. Floating-point numbers as exact values, and the formats of R27 and R59 that encode them. -/

namespace Sys2Proof.Machine

/-- A value: NaN, an infinity, or (-1)^neg · m · 2^e. -/
inductive FV where
  | nan
  | inf (neg : Bool)
  | fin (neg : Bool) (m : Nat) (e : Int)
  deriving DecidableEq, Repr

/-- How a format spends its largest codes (R27). -/
inductive Specials where
  /-- infinity and NaN in the all-ones exponent -/
  | ieee
  /-- no infinity; NaN is the all-ones code -/
  | nanOnly
  /-- every code is finite -/
  | none
  deriving DecidableEq, Repr

/-- A floating-point format: exponent bits, mantissa bits, bias, special values. -/
structure Flt where
  eb : Nat
  mb : Nat
  bias : Nat
  sp : Specials
  deriving DecidableEq, Repr

def e4m3 : Flt := ⟨4, 3, 7, .nanOnly⟩
def e5m2 : Flt := ⟨5, 2, 15, .ieee⟩
def e3m2 : Flt := ⟨3, 2, 3, .none⟩
def e2m3 : Flt := ⟨2, 3, 1, .none⟩
def e2m1 : Flt := ⟨2, 1, 1, .none⟩
def bf16 : Flt := ⟨8, 7, 127, .ieee⟩
def fp16 : Flt := ⟨5, 10, 15, .ieee⟩
def fp32 : Flt := ⟨8, 23, 127, .ieee⟩
def fp64 : Flt := ⟨11, 52, 1023, .ieee⟩

def Flt.width (f : Flt) : Nat := 1 + f.eb + f.mb

/-- The magnitude code of the largest finite value. -/
def Flt.maxCode (f : Flt) : Nat :=
  match f.sp with
  | .ieee => (2 ^ f.eb - 1) * 2 ^ f.mb - 1
  | .nanOnly => 2 ^ (f.eb + f.mb) - 2
  | .none => 2 ^ (f.eb + f.mb) - 1

/-- The exponent of the least significant bit of a subnormal. -/
def Flt.qmin (f : Flt) : Int := 1 - (f.bias : Int) - f.mb

/-- The value a code stands for. -/
def Flt.decode (f : Flt) (x : Nat) : FV :=
  let mag := x % 2 ^ (f.eb + f.mb)
  let neg := x / 2 ^ (f.eb + f.mb) % 2 = 1
  if f.maxCode < mag then (if f.sp = .ieee ∧ mag = f.maxCode + 1 then .inf neg else .nan)
  else
    let ex := mag / 2 ^ f.mb
    if ex = 0 then .fin neg mag f.qmin else .fin neg (mag % 2 ^ f.mb + 2 ^ f.mb) (f.qmin + (ex - 1 : Nat))

/-- A sign and a magnitude code as bits. -/
def Flt.signed (f : Flt) (neg : Bool) (mag : Nat) : Nat := (if neg then 2 ^ (f.eb + f.mb) else 0) + mag

/-- The canonical NaN (R66, R73): sign 0, all-ones exponent, only the top mantissa bit; for E4M3 its one NaN. -/
def Flt.nanCode (f : Flt) : Nat :=
  match f.sp with
  | .ieee => (2 ^ f.eb - 1) * 2 ^ f.mb + 2 ^ (f.mb - 1)
  | .nanOnly => 2 ^ (f.eb + f.mb) - 1
  | .none => 0

/-- How the discarded part of a magnitude, `rem` of `unit`, decides the rounding of `q`. -/
def roundUp (q rem unit : Nat) : Bool := unit < 2 * rem || (2 * rem = unit && q % 2 = 1)

/-- R74: round up when the discarded fraction, truncated to 16 bits, and the random bits carry. -/
def roundUpSr (u rem unit : Nat) : Bool := 65536 ≤ rem * 65536 / unit + u

/-- The exponent of the leading bit of m · 2^e, for m above 0. -/
def leadExp (m : Nat) (e : Int) : Int := e + Nat.log2 m

/-- The magnitude code of m · 2^e rounded into a format by `up`, unlimited above: a code beyond maxCode is a value
beyond the finite range. -/
def Flt.roundMag (f : Flt) (up : Nat → Nat → Nat → Bool) (m : Nat) (e : Int) : Nat :=
  if m = 0 then 0 else
  let q := max (leadExp m e - f.mb) f.qmin
  let r :=
    if q ≤ e then m * 2 ^ (e - q).toNat
    else
      let unit := 2 ^ (q - e).toNat
      let t := m / unit
      if up t (m % unit) unit then t + 1 else t
  (q - f.qmin).toNat * 2 ^ f.mb + r

/-- A value rounded to nearest, ties to even; an overflow gives an infinity (R66). The flag says that a finite value
overflowed. -/
def Flt.encode (f : Flt) : FV → Nat × Bool
  | .nan => (f.nanCode, false)
  | .inf neg => (f.signed neg (f.maxCode + 1), false)
  | .fin neg m e =>
    let c := f.roundMag roundUp m e
    if f.maxCode < c then (f.signed neg (f.maxCode + 1), true) else (f.signed neg c, false)

/-! ### Exact arithmetic on values -/

def FV.neg : FV → FV
  | .nan => .nan
  | .inf s => .inf (!s)
  | .fin s m e => .fin (!s) m e

def FV.isNan : FV → Bool | .nan => true | _ => false
def FV.isInf : FV → Bool | .inf _ => true | _ => false
def FV.isZero : FV → Bool | .fin _ 0 _ => true | _ => false
def FV.isFin : FV → Bool | .fin .. => true | _ => false
def FV.abs : FV → FV
  | .nan => .nan
  | .inf _ => .inf false
  | .fin _ m e => .fin false m e

/-- m · 2^e as an integer in units of 2^q, q at most e. -/
def scaleTo (neg : Bool) (m : Nat) (e q : Int) : Int :=
  let v : Int := (m * 2 ^ (e - q).toNat : Nat)
  if neg then -v else v

/-- An integer in units of 2^q as a value; an exact zero is +0 unless `negZero`. -/
def FV.ofInt (x q : Int) (negZero : Bool := false) : FV :=
  if x = 0 then .fin negZero 0 q else .fin (x < 0) x.natAbs q

/-- The sum; the flag is an addition of opposite infinities. -/
def FV.add : FV → FV → FV × Bool
  | .nan, _ => (.nan, false)
  | _, .nan => (.nan, false)
  | .inf a, .inf b => if a = b then (.inf a, false) else (.nan, true)
  | .inf a, _ => (.inf a, false)
  | _, .inf b => (.inf b, false)
  | .fin a m e, .fin b n d =>
    let q := min e d
    (FV.ofInt (scaleTo a m e q + scaleTo b n d q) q (a && b && m = 0 && n = 0), false)

/-- The product; the flag is zero times infinity. -/
def FV.mul : FV → FV → FV × Bool
  | .nan, _ => (.nan, false)
  | _, .nan => (.nan, false)
  | .inf a, .inf b => (.inf (a != b), false)
  | .inf a, .fin b m _ => if m = 0 then (.nan, true) else (.inf (a != b), false)
  | .fin a m _, .inf b => if m = 0 then (.nan, true) else (.inf (a != b), false)
  | .fin a m e, .fin b n d => (.fin (a != b) (m * n) (e + d), false)

/-- Order of finite values and infinities as IEEE 754 has it: less than. -/
def FV.lt : FV → FV → Bool
  | .nan, _ => false
  | _, .nan => false
  | .inf a, .inf b => a && !b
  | .inf a, .fin .. => a
  | .fin .., .inf b => !b
  | .fin a m e, .fin b n d => let q := min e d; scaleTo a m e q < scaleTo b n d q

def FV.eqv : FV → FV → Bool
  | .nan, _ => false
  | _, .nan => false
  | a, b => !a.lt b && !b.lt a

def FV.signBit : FV → Bool
  | .nan => false
  | .inf s => s
  | .fin s _ _ => s

/-- Total order of R66 for MIN, MAX and reductions: -0 below +0; no NaN. -/
def FV.below (a b : FV) : Bool := a.lt b || (a.isZero && b.isZero && a.signBit && !b.signBit)

/-- v · 2^k. -/
def FV.scale (k : Int) : FV → FV
  | .fin s m e => .fin s m (e + k)
  | v => v

/-- The integer square root, by bits. -/
def isqrtFrom (n : Nat) : Nat → Nat → Nat
  | 0, r => r
  | b + 1, r => let t := r + 2 ^ b; isqrtFrom n b (if t * t ≤ n then t else r)

def isqrt (n : Nat) : Nat := isqrtFrom n (Nat.log2 n / 2 + 1) 0

/-- The square root of a value not below zero, with a sticky bit below the precision of every format. -/
def FV.sqrt : FV → FV
  | .fin false m e =>
    if m = 0 then .fin false 0 e else
    let k : Nat := 2 * 64 + (if e % 2 = 0 then 0 else 1)
    let n := m * 2 ^ k
    let r := isqrt n
    .fin false (2 * r + (if r * r = n then 0 else 1)) ((e - k) / 2 - 1)
  | v => v

/-- The formats of codes 0x0-0x6 (R27, R59). -/
def fltOf : Nat → Option Flt
  | 0 => some e4m3
  | 1 => some e5m2
  | 2 => some e3m2
  | 3 => some e2m3
  | 4 => some e2m1
  | 5 => some bf16
  | 6 => some fp16
  | _ => none

/-- Bits of an element of each chain stream format (R59). -/
def fmtBits : Nat → Nat
  | 0 | 1 | 7 => 8
  | 2 | 3 => 6
  | 4 => 4
  | 5 | 6 => 16
  | 8 | 9 => 32
  | 10 => 1
  | _ => 0

/-- A two's-complement value of w bits. -/
def toSigned (w x : Nat) : Int := if x % 2 ^ w < 2 ^ (w - 1) then (x % 2 ^ w : Nat) else (x % 2 ^ w : Nat) - (2 ^ w : Nat)
def ofSigned (w : Nat) (x : Int) : Nat := (x % (2 ^ w : Nat)).toNat

/-- An integer limited to a range; the flag says that it was. -/
def saturate (lo hi x : Int) : Int × Bool := if x < lo then (lo, true) else if hi < x then (hi, true) else (x, false)

/-- Element `l` of a packed stream of w-bit elements, element 0 lowest (R29). -/
def packedElem (bytes : Nat) (w l : Nat) : Nat := bytes / 2 ^ (w * l) % 2 ^ w

/-- The packed value of elements of w bits, element 0 lowest (R29, R61). -/
def packElems (w : Nat) : List Nat → Nat
  | [] => 0
  | x :: xs => x % 2 ^ w + 2 ^ w * packElems w xs

end Sys2Proof.Machine
end

