-- ==== Sys2Proof/Config.lean ====
section
/-! DEFINITION. What one module fixes (its part number, its die) and the values the spec leaves open. An opaque
constant has no body: nothing can be proved of the value it takes. -/

namespace Sys2Proof.Config

/-- The grade letter of the part number (R1, R2). -/
inductive Grade where
  | A | B | C
  deriving DecidableEq, Repr

/-- The module's grade. DESIGN CHOICE (log entry 2): the spec describes the family; the model is one member. -/
def grade : Grade := .A
/-- Suffix letters S, H and N (R3). DESIGN CHOICE (log entry 2). -/
def suffixS : Bool := false
def suffixH : Bool := false
def suffixN : Bool := false

/-- Cores exposed to gardens by a grade (R2). -/
def exposedOf : Grade → Nat
  | .A => 25600
  | .B => 24576
  | .C => 22528

/-- Cores the grade exposes (R2). -/
def exposedCores : Nat := exposedOf grade

/-- Core sites of the die (R7). -/
def coreSites : Nat := 27648
def pavilions : Nat := 432

/-- Orangeries that R3 leaves (R4). -/
def orangeryPresent (n : Nat) : Bool := n < 16 && !(suffixH && n % 2 = 1)
/-- Lanterns that R3 leaves. -/
def lanternPresent (n : Nat) : Bool := n = 2 || (n < 5 && !suffixS)
/-- Peer ports that R3 leaves. -/
def peerPresent (n : Nat) : Bool := n < 16 && !suffixS
/-- Present orangeries, and bytes of the slow tier (R4, R8). -/
def orangeries : Nat := if suffixH then 8 else 16
def slowBytes : Nat := orangeries * 0x1800000000

/-- The identity of the die, its stamp and firmware as PM_ID shows them: fixed by manufacture, not by the spec. -/
opaque hwRev : BitVec 8
opaque serial : BitVec 64
/-- The firmware the slots hold from manufacture: FW_ID, SVN, KEYID and image hash, by slot (R586). -/
opaque factoryFwId : Nat → BitVec 48
opaque factorySvn : Nat → BitVec 32
opaque factoryKeyid : Nat → BitVec 2
opaque factoryHash : Nat → Nat → Byte
/-- The lodge ROM: its version and the key hashes it holds, byte by byte (R585, R590). -/
opaque romVersion : BitVec 32
opaque romKey : Nat → Nat → Byte
/-- The bytes of the module's stamp beside those the model knows (R596). -/
opaque stampByte : Nat → Byte

/-- The factory MAC address of a host port (R528): a value of manufacture. -/
opaque factoryMac : Nat → Nat

/-- The factory record of a laser cartridge, by bay and number of cartridges before it: nominal output in 0.01 dBm and bias in
0.1 mA (R642, R643). -/
opaque cartOutput : Nat → Nat → Int
opaque cartBias : Nat → Nat → Nat

/-- The row of a memory device that holds a 64 B block of local addresses, and the channel that serves it: internal to
the orangery (R243, R244). -/
opaque rowOf : Nat → Nat
opaque channelOf : Nat → Nat

/-! ### Free values -/

/-- The value of an observation the spec leaves open; the argument is the state's draw count. -/
opaque freeWord : Nat → Word

/-- RCP, RSQRT, EXP2, LOG2, EXP, TANH, SIGM, SILU and GELU away from the special values of R66, as an FP32 code: R651
fixes only a bound, within which this value is taken (Machine.unaryResult). By the operation's OPC, the lanes' format (0 FP32,
1 BF16, 2 FP16) and the operand as an FP32 code. -/
opaque chainFunction : Nat → Nat → W32 → W32

/-- The cryptographic functions of the host bridge, the franking unit and the lodge: the spec names the standards and
does not give the functions (R366, R593, R599). -/
opaque digest : List Byte → Nat → Byte
/-- SHA-384: 48 bytes. -/
def sha384 (m : List Byte) : List Byte := (List.range 48).map (digest m)
/-- AES-256-GCM: key, nonce, associated data and plain text to the ciphertext with its tag (R365). -/
opaque aesGcm : List Byte → List Byte → List Byte → List Byte → List Byte
/-- Whether a host's handshake message can be answered (R368: a shared secret of zeros, an encapsulation key that fails its
check), and the shared secrets of an exchange with the module's draw. -/
opaque exchangeOk : List Byte → Bool
opaque sharedSecret : List Byte → Nat → List Byte
/-- A signature by an identity key, byte by byte: 0 Ed25519, 1 ML-DSA-65 (R595). -/
opaque sign : Nat → List Byte → Nat → Byte
/-- Both identity signatures of a message. -/
def identitySign (m : List Byte) : List Byte := (List.range 64).map (sign 0 m) ++ (List.range 3309).map (sign 1 m)
/-- Whether a signature of a message verifies under a public key: 0 Ed25519, 1 ML-DSA-65 (R587). -/
opaque verifies : Nat → List Byte → List Byte → List Byte → Bool
/-- Whether a pair of public keys is a valid encoding (R605). -/
opaque keyValid : List Byte → Bool
/-- The module's random bytes: key-exchange shares, nonces, challenge values (R366, R593). -/
opaque random : Nat → List Byte

end Sys2Proof.Config
end

