-- ==== Sys2Proof/Machine/Fmap.lean ====
section
/-! DEFINITION. Sparse stores in canonical form: keys strictly rising, no entry equal to what an unlisted key reads as,
so that equal stores are equal lists. Every operation keeps the form (Laws/Fmap.lean). -/

namespace Sys2Proof.Machine.Fm

variable {α β : Type}

/-- What key `k` holds; `d` where it is not listed. -/
def get (d : α) (k : Nat) : FMap α → α
  | [] => d
  | (j, v) :: m => if k = j then v else get d k m

/-- What key `k` holds, if it is listed. -/
def look (k : Nat) (m : FMap α) : Option α := (m.find? fun e => e.1 = k).map Prod.snd

/-- List `v` under `k`. -/
def put (k : Nat) (v : α) : FMap α → FMap α
  | [] => [(k, v)]
  | (j, u) :: m => if k < j then (k, v) :: (j, u) :: m else if k = j then (k, v) :: m else (j, u) :: put k v m

/-- Unlist `k`. -/
def del (k : Nat) : FMap α → FMap α
  | [] => []
  | (j, u) :: m => if k = j then del k m else (j, u) :: del k m

/-- Let `k` hold `v`: a value equal to the default is unlisted. -/
def set [DecidableEq α] (d : α) (k : Nat) (v : α) (m : FMap α) : FMap α :=
  if v = d then del k m else put k v m

/-- Change what `k` holds. -/
def upd [DecidableEq α] (d : α) (k : Nat) (f : α → α) (m : FMap α) : FMap α := set d k (f (get d k m)) m

/-- Unlist every key of a range: the keys read their default again. -/
def clearRange (lo n : Nat) (m : FMap α) : FMap α := m.filter (fun e => e.1 < lo || lo + n ≤ e.1)

/-- The listed entries of a range, their keys moved to begin at `d`. -/
def window (lo n d : Nat) (m : FMap α) : FMap α :=
  (m.filter fun e => lo ≤ e.1 && e.1 < lo + n).map fun e => (e.1 - lo + d, e.2)

/-- The keys of a list of entries hold their values. -/
def putAll [DecidableEq α] (d : α) (new m : FMap α) : FMap α := new.foldl (fun m e => set d e.1 e.2 m) m

/-- Every listed value changed; those that become the default are unlisted. -/
def mapv [DecidableEq α] (d : α) (f : Nat → α → α) (m : FMap α) : FMap α :=
  m.filterMap fun e => let v := f e.1 e.2; if v = d then none else some (e.1, v)

/-- The first key after every listed one. -/
def fresh : FMap α → Nat
  | [] => 0
  | (j, _) :: m => max (j + 1) (fresh m)

/-- The canonical form. -/
def wf [DecidableEq α] (d : α) : FMap α → Bool
  | [] => true
  | [(_, v)] => v ≠ d
  | (j, v) :: (k, u) :: m => j < k && v ≠ d && wf d ((k, u) :: m)

end Sys2Proof.Machine.Fm
end

