-- ==== Sys2Proof/Machine/RegTable.lean ====
section
/-! DEFINITION. The register map: every field of every register table of the spec, with its block, offset, place,
access code (R14) and reset value. Registers that a select register chooses among (routers, layers) stand at
offsets of their own beyond the 4 KiB of the block, one for each instance. -/

namespace Sys2Proof.Machine

/-- Register blocks (R10). -/
inductive Blk where
  | kp
  | pv
  | ora
  | gd
  | ln
  | ih
  | pm
  | sd
  | pw
  | wd
  | cap
  deriving DecidableEq, Repr

/-- Access codes (R14). -/
inductive Acc where
  | ro | rw | wo | w1c | rc
  deriving DecidableEq, Repr

/-- One field of a register: block, byte offset, lowest bit, width. -/
structure Fld where
  blk : Blk
  off : Nat
  lo : Nat
  w : Nat
  deriving DecidableEq, Repr

/-- A field inside a register definition: lowest bit, width, access, reset value. -/
structure FDef where
  lo : Nat
  w : Nat
  acc : Acc
  rst : Nat
  deriving DecidableEq, Repr

/-- A register, or an array of `count` registers `stride` bytes apart, with its fields. -/
structure RDef where
  off : Nat
  stride : Nat
  count : Nat
  flds : List FDef
  deriving DecidableEq, Repr

namespace Reg

/-! PV_SEL (R10) -/
def PV_SEL_PAVILION : Fld := ⟨.pv, 0x0, 0, 9⟩
def defPV_SEL : RDef := ⟨0x0, 8, 1, [⟨0, 9, .rw, 0⟩]⟩

/-! KP_CUBE_STATUS (R52) -/
def KP_CUBE_STATUS_DESCERR : Fld := ⟨.kp, 0x40, 0, 1⟩
def KP_CUBE_STATUS_INVALID : Fld := ⟨.kp, 0x40, 1, 1⟩
def KP_CUBE_STATUS_OVERFLOW : Fld := ⟨.kp, 0x40, 2, 1⟩
def KP_CUBE_STATUS_SCALENAN : Fld := ⟨.kp, 0x40, 3, 1⟩
def KP_CUBE_STATUS_INTSAT : Fld := ⟨.kp, 0x40, 4, 1⟩
def KP_CUBE_STATUS_ERROP : Fld := ⟨.kp, 0x40, 8, 8⟩
def KP_CUBE_STATUS_ERRCAUSE : Fld := ⟨.kp, 0x40, 16, 4⟩
def KP_CUBE_STATUS_QDEPTH : Fld := ⟨.kp, 0x40, 24, 5⟩
def KP_CUBE_STATUS_BUSY : Fld := ⟨.kp, 0x40, 29, 1⟩
def defKP_CUBE_STATUS : RDef := ⟨0x40, 8, 1, [⟨0, 1, .w1c, 0⟩, ⟨1, 1, .w1c, 0⟩, ⟨2, 1, .w1c, 0⟩, ⟨3, 1, .w1c, 0⟩, ⟨4, 1, .w1c, 0⟩, ⟨8, 8, .ro, 0⟩, ⟨16, 4, .ro, 0⟩, ⟨24, 5, .ro, 0⟩, ⟨29, 1, .ro, 0⟩]⟩

/-! CAP_CUBE (R53) -/
def CAP_CUBE_CUBES : Fld := ⟨.kp, 0x1F0, 0, 4⟩
def CAP_CUBE_EDGE : Fld := ⟨.kp, 0x1F0, 4, 4⟩
def CAP_CUBE_ACCTILES : Fld := ⟨.kp, 0x1F0, 8, 8⟩
def CAP_CUBE_FORMATS : Fld := ⟨.kp, 0x1F0, 16, 16⟩
def CAP_CUBE_MX : Fld := ⟨.kp, 0x1F0, 32, 1⟩
def CAP_CUBE_TRANS : Fld := ⟨.kp, 0x1F0, 33, 1⟩
def CAP_CUBE_DUAL : Fld := ⟨.kp, 0x1F0, 34, 1⟩
def CAP_CUBE_INT8 : Fld := ⟨.kp, 0x1F0, 35, 1⟩
def CAP_CUBE_ACCSPACING : Fld := ⟨.kp, 0x1F0, 36, 4⟩
def CAP_CUBE_FILL : Fld := ⟨.kp, 0x1F0, 40, 8⟩
def defCAP_CUBE : RDef := ⟨0x1F0, 8, 1, [⟨0, 4, .ro, 2⟩, ⟨4, 4, .ro, 8⟩, ⟨8, 8, .ro, 64⟩, ⟨16, 16, .ro, 255⟩, ⟨32, 1, .ro, 1⟩, ⟨33, 1, .ro, 1⟩, ⟨34, 1, .ro, 1⟩, ⟨35, 1, .ro, 1⟩, ⟨36, 4, .ro, 4⟩, ⟨40, 8, .ro, 14⟩]⟩

/-! KP_CHAIN_STATUS (R88) -/
def KP_CHAIN_STATUS_DESCERR : Fld := ⟨.kp, 0x48, 0, 1⟩
def KP_CHAIN_STATUS_INVALID : Fld := ⟨.kp, 0x48, 1, 1⟩
def KP_CHAIN_STATUS_OVERFLOW : Fld := ⟨.kp, 0x48, 2, 1⟩
def KP_CHAIN_STATUS_SAT : Fld := ⟨.kp, 0x48, 3, 1⟩
def KP_CHAIN_STATUS_CVTNAN : Fld := ⟨.kp, 0x48, 4, 1⟩
def KP_CHAIN_STATUS_SCALENAN : Fld := ⟨.kp, 0x48, 5, 1⟩
def KP_CHAIN_STATUS_ERRCAUSE : Fld := ⟨.kp, 0x48, 8, 4⟩
def KP_CHAIN_STATUS_ERRSTAGE : Fld := ⟨.kp, 0x48, 12, 3⟩
def KP_CHAIN_STATUS_QDEPTH : Fld := ⟨.kp, 0x48, 16, 5⟩
def KP_CHAIN_STATUS_BUSY : Fld := ⟨.kp, 0x48, 21, 1⟩
def defKP_CHAIN_STATUS : RDef := ⟨0x48, 8, 1, [⟨0, 1, .w1c, 0⟩, ⟨1, 1, .w1c, 0⟩, ⟨2, 1, .w1c, 0⟩, ⟨3, 1, .w1c, 0⟩, ⟨4, 1, .w1c, 0⟩, ⟨5, 1, .w1c, 0⟩, ⟨8, 4, .ro, 0⟩, ⟨12, 3, .ro, 0⟩, ⟨16, 5, .ro, 0⟩, ⟨21, 1, .ro, 0⟩]⟩

/-! KP_CHAIN_SEED (R89) -/
def KP_CHAIN_SEED_SEED : Fld := ⟨.kp, 0x50, 0, 64⟩
def defKP_CHAIN_SEED : RDef := ⟨0x50, 8, 1, [⟨0, 64, .rw, 0⟩]⟩

/-! CAP_CHAIN (R90) -/
def CAP_CHAIN_LANES : Fld := ⟨.kp, 0x1E8, 0, 8⟩
def CAP_CHAIN_STAGES : Fld := ⟨.kp, 0x1E8, 8, 4⟩
def CAP_CHAIN_TALLIES : Fld := ⟨.kp, 0x1E8, 12, 4⟩
def CAP_CHAIN_ENVSLOTS : Fld := ⟨.kp, 0x1E8, 16, 4⟩
def CAP_CHAIN_SRBITS : Fld := ⟨.kp, 0x1E8, 20, 4⟩
def CAP_CHAIN_QDEPTH : Fld := ⟨.kp, 0x1E8, 24, 5⟩
def CAP_CHAIN_FORMATS : Fld := ⟨.kp, 0x1E8, 32, 16⟩
def CAP_CHAIN_LM1 : Fld := ⟨.kp, 0x1E8, 48, 1⟩
def CAP_CHAIN_MX : Fld := ⟨.kp, 0x1E8, 49, 1⟩
def CAP_CHAIN_SR : Fld := ⟨.kp, 0x1E8, 50, 1⟩
def defCAP_CHAIN : RDef := ⟨0x1E8, 8, 1, [⟨0, 8, .ro, 64⟩, ⟨8, 4, .ro, 8⟩, ⟨12, 4, .ro, 8⟩, ⟨16, 4, .ro, 4⟩, ⟨20, 4, .ro, 8⟩, ⟨24, 5, .ro, 16⟩, ⟨32, 16, .ro, 2047⟩, ⟨48, 1, .ro, 1⟩, ⟨49, 1, .ro, 1⟩, ⟨50, 1, .ro, 1⟩]⟩

/-! KP_ID (R145) -/
def KP_ID_CORE : Fld := ⟨.kp, 0x0, 0, 15⟩
def KP_ID_LCORE : Fld := ⟨.kp, 0x0, 16, 15⟩
def KP_ID_PAVILION : Fld := ⟨.kp, 0x0, 32, 9⟩
def KP_ID_GARDEN : Fld := ⟨.kp, 0x0, 41, 2⟩
def KP_ID_ASSIGNED : Fld := ⟨.kp, 0x0, 43, 1⟩
def defKP_ID : RDef := ⟨0x0, 8, 1, [⟨0, 15, .ro, 0⟩, ⟨16, 15, .ro, 0⟩, ⟨32, 9, .ro, 0⟩, ⟨41, 2, .ro, 0⟩, ⟨43, 1, .ro, 0⟩]⟩

/-! KP_CTRL (R145) -/
def KP_CTRL_RUN : Fld := ⟨.kp, 0x8, 0, 1⟩
def KP_CTRL_ENTRY : Fld := ⟨.kp, 0x8, 2, 13⟩
def defKP_CTRL : RDef := ⟨0x8, 8, 1, [⟨0, 1, .rw, 0⟩, ⟨2, 13, .rw, 0⟩]⟩

/-! KP_STATUS (R145) -/
def KP_STATUS_STATE : Fld := ⟨.kp, 0x10, 0, 2⟩
def KP_STATUS_DONE : Fld := ⟨.kp, 0x10, 2, 1⟩
def KP_STATUS_FAULT : Fld := ⟨.kp, 0x10, 4, 4⟩
def KP_STATUS_PC : Fld := ⟨.kp, 0x10, 8, 13⟩
def KP_STATUS_WAIT : Fld := ⟨.kp, 0x10, 24, 4⟩
def defKP_STATUS : RDef := ⟨0x10, 8, 1, [⟨0, 2, .ro, 0⟩, ⟨2, 1, .w1c, 0⟩, ⟨4, 4, .ro, 0⟩, ⟨8, 13, .ro, 0⟩, ⟨24, 4, .ro, 0⟩]⟩

/-! KP_FLAGS (R145) -/
def KP_FLAGS_FLAGS : Fld := ⟨.kp, 0x18, 0, 64⟩
def defKP_FLAGS : RDef := ⟨0x18, 8, 1, [⟨0, 64, .ro, 0⟩]⟩

/-! KP_CYCLES (R145) -/
def KP_CYCLES_CYCLES : Fld := ⟨.kp, 0x20, 0, 64⟩
def defKP_CYCLES : RDef := ⟨0x20, 8, 1, [⟨0, 64, .ro, 0⟩]⟩

/-! KP_BELL (R145) -/
def KP_BELL_MEMBER : Fld := ⟨.kp, 0x28, 0, 16⟩
def KP_BELL_ARRIVED : Fld := ⟨.kp, 0x28, 16, 16⟩
def KP_BELL_UNSEEN : Fld := ⟨.kp, 0x28, 32, 16⟩
def defKP_BELL : RDef := ⟨0x28, 8, 1, [⟨0, 16, .rw, 0⟩, ⟨16, 16, .ro, 0⟩, ⟨32, 16, .ro, 0⟩]⟩

/-! KP_PORT_STATUS (R145) -/
def KP_PORT_STATUS_DESCERR : Fld := ⟨.kp, 0x58, 0, 1⟩
def KP_PORT_STATUS_XFERERR : Fld := ⟨.kp, 0x58, 1, 1⟩
def KP_PORT_STATUS_ERROP : Fld := ⟨.kp, 0x58, 8, 8⟩
def KP_PORT_STATUS_ERRCAUSE : Fld := ⟨.kp, 0x58, 16, 4⟩
def KP_PORT_STATUS_XFERCAUSE : Fld := ⟨.kp, 0x58, 20, 4⟩
def KP_PORT_STATUS_QDEPTH : Fld := ⟨.kp, 0x58, 24, 5⟩
def KP_PORT_STATUS_BUSY : Fld := ⟨.kp, 0x58, 29, 1⟩
def defKP_PORT_STATUS : RDef := ⟨0x58, 8, 1, [⟨0, 1, .w1c, 0⟩, ⟨1, 1, .w1c, 0⟩, ⟨8, 8, .ro, 0⟩, ⟨16, 4, .ro, 0⟩, ⟨20, 4, .ro, 0⟩, ⟨24, 5, .ro, 0⟩, ⟨29, 1, .ro, 0⟩]⟩

/-! KP_POOL_n (R145) -/
def KP_POOL_BASE (n : Nat) : Fld := ⟨.kp, 0x80 + 8 * n, 0, 15⟩
def KP_POOL_SIZE (n : Nat) : Fld := ⟨.kp, 0x80 + 8 * n, 15, 15⟩
def KP_POOL_OUTST (n : Nat) : Fld := ⟨.kp, 0x80 + 8 * n, 30, 15⟩
def KP_POOL_GRANTS (n : Nat) : Fld := ⟨.kp, 0x80 + 8 * n, 45, 6⟩
def KP_POOL_PEND (n : Nat) : Fld := ⟨.kp, 0x80 + 8 * n, 51, 5⟩
def KP_POOL_OPEN (n : Nat) : Fld := ⟨.kp, 0x80 + 8 * n, 56, 1⟩
def KP_POOL_CLOSING (n : Nat) : Fld := ⟨.kp, 0x80 + 8 * n, 57, 1⟩
def defKP_POOL : RDef := ⟨0x80, 8, 8, [⟨0, 15, .ro, 0⟩, ⟨15, 15, .ro, 0⟩, ⟨30, 15, .ro, 0⟩, ⟨45, 6, .ro, 0⟩, ⟨51, 5, .ro, 0⟩, ⟨56, 1, .ro, 0⟩, ⟨57, 1, .ro, 0⟩]⟩

/-! KP_GRANT_n (R145) -/
def KP_GRANT_STATE (n : Nat) : Fld := ⟨.kp, 0x100 + 8 * n, 0, 2⟩
def KP_GRANT_REASON (n : Nat) : Fld := ⟨.kp, 0x100 + 8 * n, 2, 2⟩
def KP_GRANT_POOL (n : Nat) : Fld := ⟨.kp, 0x100 + 8 * n, 4, 3⟩
def KP_GRANT_WBASE (n : Nat) : Fld := ⟨.kp, 0x100 + 8 * n, 8, 15⟩
def KP_GRANT_WLEN (n : Nat) : Fld := ⟨.kp, 0x100 + 8 * n, 23, 15⟩
def KP_GRANT_DEST (n : Nat) : Fld := ⟨.kp, 0x100 + 8 * n, 38, 16⟩
def defKP_GRANT : RDef := ⟨0x100, 8, 16, [⟨0, 2, .ro, 0⟩, ⟨2, 2, .ro, 0⟩, ⟨4, 3, .ro, 0⟩, ⟨8, 15, .ro, 0⟩, ⟨23, 15, .ro, 0⟩, ⟨38, 16, .ro, 0⟩]⟩

/-! CAP_KEEPER (R146) -/
def CAP_KEEPER_SREGS : Fld := ⟨.kp, 0x1F8, 0, 8⟩
def CAP_KEEPER_AREGS : Fld := ⟨.kp, 0x1F8, 8, 8⟩
def CAP_KEEPER_PREGS : Fld := ⟨.kp, 0x1F8, 16, 8⟩
def CAP_KEEPER_QDEPTH : Fld := ⟨.kp, 0x1F8, 24, 8⟩
def CAP_KEEPER_FLAGS : Fld := ⟨.kp, 0x1F8, 32, 8⟩
def CAP_KEEPER_BELLS : Fld := ⟨.kp, 0x1F8, 40, 8⟩
def CAP_KEEPER_POOLS : Fld := ⟨.kp, 0x1F8, 48, 4⟩
def CAP_KEEPER_GRANTS : Fld := ⟨.kp, 0x1F8, 52, 5⟩
def CAP_KEEPER_PSTORE : Fld := ⟨.kp, 0x1F8, 57, 6⟩
def defCAP_KEEPER : RDef := ⟨0x1F8, 8, 1, [⟨0, 8, .ro, 32⟩, ⟨8, 8, .ro, 16⟩, ⟨16, 8, .ro, 8⟩, ⟨24, 8, .ro, 16⟩, ⟨32, 8, .ro, 64⟩, ⟨40, 8, .ro, 16⟩, ⟨48, 4, .ro, 8⟩, ⟨52, 5, .ro, 16⟩, ⟨57, 6, .ro, 32⟩]⟩

/-! PV_SPAD_CTL (R183) -/
def PV_SPAD_CTL_ZERO : Fld := ⟨.pv, 0x800, 0, 1⟩
def PV_SPAD_CTL_BUSY : Fld := ⟨.pv, 0x800, 1, 1⟩
def PV_SPAD_CTL_SCRUBEN : Fld := ⟨.pv, 0x800, 2, 1⟩
def PV_SPAD_CTL_SCRUBROUNDS : Fld := ⟨.pv, 0x800, 8, 8⟩
def defPV_SPAD_CTL : RDef := ⟨0x800, 8, 1, [⟨0, 1, .wo, 0⟩, ⟨1, 1, .ro, 0⟩, ⟨2, 1, .rw, 1⟩, ⟨8, 8, .rw, 16⟩]⟩

/-! PV_SPAD_REPAIR (R183) -/
def PV_SPAD_REPAIR_CORE : Fld := ⟨.pv, 0x808, 0, 6⟩
def PV_SPAD_REPAIR_BANK : Fld := ⟨.pv, 0x808, 6, 5⟩
def PV_SPAD_REPAIR_LINES : Fld := ⟨.pv, 0x808, 16, 7⟩
def PV_SPAD_REPAIR_RLANES : Fld := ⟨.pv, 0x808, 23, 4⟩
def PV_SPAD_REPAIR_WLANES : Fld := ⟨.pv, 0x808, 27, 4⟩
def PV_SPAD_REPAIR_EXHAUSTED : Fld := ⟨.pv, 0x808, 31, 1⟩
def defPV_SPAD_REPAIR : RDef := ⟨0x808, 8, 1, [⟨0, 6, .rw, 0⟩, ⟨6, 5, .rw, 0⟩, ⟨16, 7, .ro, 0⟩, ⟨23, 4, .ro, 0⟩, ⟨27, 4, .ro, 0⟩, ⟨31, 1, .ro, 0⟩]⟩

/-! PV_SPAD_n (R183) -/
def PV_SPAD_CE (n : Nat) : Fld := ⟨.pv, 0xA00 + 8 * n, 0, 16⟩
def PV_SPAD_UE (n : Nat) : Fld := ⟨.pv, 0xA00 + 8 * n, 16, 8⟩
def PV_SPAD_OUTWIN (n : Nat) : Fld := ⟨.pv, 0xA00 + 8 * n, 24, 16⟩
def PV_SPAD_ADDR (n : Nat) : Fld := ⟨.pv, 0xA00 + 8 * n, 40, 16⟩
def defPV_SPAD : RDef := ⟨0xA00, 8, 64, [⟨0, 16, .rc, 0⟩, ⟨16, 8, .rc, 0⟩, ⟨24, 16, .rc, 0⟩, ⟨40, 16, .rc, 0⟩]⟩

/-! PV_FAB_SEL (R231) -/
def PV_FAB_SEL_CORE : Fld := ⟨.pv, 0x100, 0, 6⟩
def PV_FAB_SEL_PORT : Fld := ⟨.pv, 0x100, 6, 3⟩
def PV_FAB_SEL_SLICE : Fld := ⟨.pv, 0x100, 9, 2⟩
def defPV_FAB_SEL : RDef := ⟨0x100, 8, 1, [⟨0, 6, .rw, 0⟩, ⟨6, 3, .rw, 0⟩, ⟨9, 2, .rw, 0⟩]⟩

/-! PV_FAB_CTL (R231) -/
def PV_FAB_CTL_HOLD : Fld := ⟨.pv, 0x108, 0, 4⟩
def PV_FAB_CTL_SHOLD : Fld := ⟨.pv, 0x108, 4, 4⟩
def PV_FAB_CTL_ARM : Fld := ⟨.pv, 0x108, 8, 4⟩
def PV_FAB_CTL_MARK : Fld := ⟨.pv, 0x108, 12, 4⟩
def defPV_FAB_CTL : RDef := ⟨0x108, 8, 1, [⟨0, 4, .rw, 0⟩, ⟨4, 4, .rw, 0⟩, ⟨8, 4, .wo, 0⟩, ⟨12, 4, .wo, 0⟩]⟩

/-! PV_FAB_STATUS (R231) -/
def PV_FAB_STATUS_FPQUIET : Fld := ⟨.pv, 0x110, 0, 4⟩
def PV_FAB_STATUS_STAGEERR : Fld := ⟨.pv, 0x110, 4, 1⟩
def PV_FAB_STATUS_STAGELOCK : Fld := ⟨.pv, 0x110, 5, 1⟩
def PV_FAB_STATUS_AVEPEND : Fld := ⟨.pv, 0x110, 16, 32⟩
def defPV_FAB_STATUS : RDef := ⟨0x110, 8, 1, [⟨0, 4, .ro, 0⟩, ⟨4, 1, .w1c, 0⟩, ⟨5, 1, .ro, 0⟩, ⟨16, 32, .ro, 0⟩]⟩

/-! PV_GEN (R231) -/
def PV_GEN_GEN0 : Fld := ⟨.pv, 0x118, 0, 8⟩
def PV_GEN_GEN1 : Fld := ⟨.pv, 0x118, 8, 8⟩
def PV_GEN_GEN2 : Fld := ⟨.pv, 0x118, 16, 8⟩
def PV_GEN_GEN3 : Fld := ⟨.pv, 0x118, 24, 8⟩
def defPV_GEN : RDef := ⟨0x118, 8, 1, [⟨0, 8, .ro, 0⟩, ⟨8, 8, .ro, 0⟩, ⟨16, 8, .ro, 0⟩, ⟨24, 8, .ro, 0⟩]⟩

/-! PV_AVE_ACTIVE (R231) -/
def PV_AVE_ACTIVE_VALID (n : Nat) : Fld := ⟨.pv, 0x20000 + 8 * n, 0, 1⟩
def PV_AVE_ACTIVE_GARDEN (n : Nat) : Fld := ⟨.pv, 0x20000 + 8 * n, 1, 2⟩
def PV_AVE_ACTIVE_AVENUE (n : Nat) : Fld := ⟨.pv, 0x20000 + 8 * n, 3, 10⟩
def PV_AVE_ACTIVE_OUTMASK (n : Nat) : Fld := ⟨.pv, 0x20000 + 8 * n, 13, 5⟩
def PV_AVE_ACTIVE_NSL (n : Nat) : Fld := ⟨.pv, 0x20000 + 8 * n, 18, 2⟩
def PV_AVE_ACTIVE_ESL (n : Nat) : Fld := ⟨.pv, 0x20000 + 8 * n, 20, 2⟩
def PV_AVE_ACTIVE_SSL (n : Nat) : Fld := ⟨.pv, 0x20000 + 8 * n, 22, 2⟩
def PV_AVE_ACTIVE_WSL (n : Nat) : Fld := ⟨.pv, 0x20000 + 8 * n, 24, 2⟩
def PV_AVE_ACTIVE_LSL (n : Nat) : Fld := ⟨.pv, 0x20000 + 8 * n, 28, 2⟩
def PV_AVE_ACTIVE_DRAINED (n : Nat) : Fld := ⟨.pv, 0x20000 + 8 * n, 30, 1⟩
def defPV_AVE_ACTIVE : RDef := ⟨0x20000, 8, 2048, [⟨0, 1, .ro, 0⟩, ⟨1, 2, .ro, 0⟩, ⟨3, 10, .ro, 0⟩, ⟨13, 5, .ro, 0⟩, ⟨18, 2, .ro, 0⟩, ⟨20, 2, .ro, 0⟩, ⟨22, 2, .ro, 0⟩, ⟨24, 2, .ro, 0⟩, ⟨28, 2, .ro, 0⟩, ⟨30, 1, .ro, 0⟩]⟩

/-! PV_LINK_CNT (R232) -/
def PV_LINK_CNT_CE (n : Nat) : Fld := ⟨.pv, 0x10000 + 8 * n, 0, 16⟩
def PV_LINK_CNT_UE (n : Nat) : Fld := ⟨.pv, 0x10000 + 8 * n, 16, 8⟩
def PV_LINK_CNT_HCRC (n : Nat) : Fld := ⟨.pv, 0x10000 + 8 * n, 24, 8⟩
def PV_LINK_CNT_STALE (n : Nat) : Fld := ⟨.pv, 0x10000 + 8 * n, 32, 16⟩
def PV_LINK_CNT_DOWN (n : Nat) : Fld := ⟨.pv, 0x10000 + 8 * n, 48, 15⟩
def PV_LINK_CNT_UP (n : Nat) : Fld := ⟨.pv, 0x10000 + 8 * n, 63, 1⟩
def defPV_LINK_CNT : RDef := ⟨0x10000, 8, 512, [⟨0, 16, .rc, 0⟩, ⟨16, 8, .rc, 0⟩, ⟨24, 8, .rc, 0⟩, ⟨32, 16, .rc, 0⟩, ⟨48, 15, .rc, 0⟩, ⟨63, 1, .ro, 0⟩]⟩

/-! PV_FP_ROUTE_n (R232) -/
def PV_FP_ROUTE_ENTRY_0 (n : Nat) : Fld := ⟨.pv, 0x200 + 8 * n, 0, 3⟩
def PV_FP_ROUTE_ENTRY_1 (n : Nat) : Fld := ⟨.pv, 0x200 + 8 * n, 3, 3⟩
def PV_FP_ROUTE_ENTRY_2 (n : Nat) : Fld := ⟨.pv, 0x200 + 8 * n, 6, 3⟩
def PV_FP_ROUTE_ENTRY_3 (n : Nat) : Fld := ⟨.pv, 0x200 + 8 * n, 9, 3⟩
def PV_FP_ROUTE_ENTRY_4 (n : Nat) : Fld := ⟨.pv, 0x200 + 8 * n, 12, 3⟩
def PV_FP_ROUTE_ENTRY_5 (n : Nat) : Fld := ⟨.pv, 0x200 + 8 * n, 15, 3⟩
def PV_FP_ROUTE_ENTRY_6 (n : Nat) : Fld := ⟨.pv, 0x200 + 8 * n, 18, 3⟩
def PV_FP_ROUTE_ENTRY_7 (n : Nat) : Fld := ⟨.pv, 0x200 + 8 * n, 21, 3⟩
def PV_FP_ROUTE_ENTRY_8 (n : Nat) : Fld := ⟨.pv, 0x200 + 8 * n, 24, 3⟩
def PV_FP_ROUTE_ENTRY_9 (n : Nat) : Fld := ⟨.pv, 0x200 + 8 * n, 27, 3⟩
def PV_FP_ROUTE_ENTRY_10 (n : Nat) : Fld := ⟨.pv, 0x200 + 8 * n, 30, 3⟩
def PV_FP_ROUTE_ENTRY_11 (n : Nat) : Fld := ⟨.pv, 0x200 + 8 * n, 33, 3⟩
def PV_FP_ROUTE_ENTRY_12 (n : Nat) : Fld := ⟨.pv, 0x200 + 8 * n, 36, 3⟩
def PV_FP_ROUTE_ENTRY_13 (n : Nat) : Fld := ⟨.pv, 0x200 + 8 * n, 39, 3⟩
def PV_FP_ROUTE_ENTRY_14 (n : Nat) : Fld := ⟨.pv, 0x200 + 8 * n, 42, 3⟩
def PV_FP_ROUTE_ENTRY_15 (n : Nat) : Fld := ⟨.pv, 0x200 + 8 * n, 45, 3⟩
def defPV_FP_ROUTE : RDef := ⟨0x200, 8, 27, [⟨0, 3, .ro, 0⟩, ⟨3, 3, .ro, 0⟩, ⟨6, 3, .ro, 0⟩, ⟨9, 3, .ro, 0⟩, ⟨12, 3, .ro, 0⟩, ⟨15, 3, .ro, 0⟩, ⟨18, 3, .ro, 0⟩, ⟨21, 3, .ro, 0⟩, ⟨24, 3, .ro, 0⟩, ⟨27, 3, .ro, 0⟩, ⟨30, 3, .ro, 0⟩, ⟨33, 3, .ro, 0⟩, ⟨36, 3, .ro, 0⟩, ⟨39, 3, .ro, 0⟩, ⟨42, 3, .ro, 0⟩, ⟨45, 3, .ro, 0⟩]⟩

/-! OR_SEL (R276) -/
def OR_SEL_ORANGERY : Fld := ⟨.ora, 0x1F0, 0, 4⟩
def defOR_SEL : RDef := ⟨0x1F0, 8, 1, [⟨0, 4, .rw, 0⟩]⟩

/-! OR_STATUS (R277) -/
def OR_STATUS_PRESENT : Fld := ⟨.ora, 0x0, 0, 1⟩
def OR_STATUS_ENGINE : Fld := ⟨.ora, 0x0, 1, 1⟩
def OR_STATUS_READY : Fld := ⟨.ora, 0x0, 2, 1⟩
def OR_STATUS_FAULT : Fld := ⟨.ora, 0x0, 3, 1⟩
def defOR_STATUS : RDef := ⟨0x0, 8, 1, [⟨0, 1, .ro, 1⟩, ⟨1, 1, .ro, 1⟩, ⟨2, 1, .ro, 0⟩, ⟨3, 1, .ro, 0⟩]⟩

/-! OR_LINK_STATUS (R277) -/
def OR_LINK_STATUS_RATE0 : Fld := ⟨.ora, 0x8, 0, 2⟩
def OR_LINK_STATUS_RATE1 : Fld := ⟨.ora, 0x8, 2, 2⟩
def OR_LINK_STATUS_HALF0 : Fld := ⟨.ora, 0x8, 4, 1⟩
def OR_LINK_STATUS_HALF1 : Fld := ⟨.ora, 0x8, 5, 1⟩
def OR_LINK_STATUS_REP0 : Fld := ⟨.ora, 0x8, 6, 3⟩
def OR_LINK_STATUS_REP1 : Fld := ⟨.ora, 0x8, 9, 3⟩
def defOR_LINK_STATUS : RDef := ⟨0x8, 8, 1, [⟨0, 2, .ro, 0⟩, ⟨2, 2, .ro, 0⟩, ⟨4, 1, .ro, 0⟩, ⟨5, 1, .ro, 0⟩, ⟨6, 3, .ro, 0⟩, ⟨9, 3, .ro, 0⟩]⟩

/-! OR_LINK_CNT (R277) -/
def OR_LINK_CNT_CRC : Fld := ⟨.ora, 0x10, 0, 16⟩
def OR_LINK_CNT_RETRY : Fld := ⟨.ora, 0x10, 16, 16⟩
def OR_LINK_CNT_RETRAIN : Fld := ⟨.ora, 0x10, 32, 8⟩
def defOR_LINK_CNT : RDef := ⟨0x10, 8, 1, [⟨0, 16, .rc, 0⟩, ⟨16, 16, .rc, 0⟩, ⟨32, 8, .rc, 0⟩]⟩

/-! OR_MEM_CTL (R277) -/
def OR_MEM_CTL_SCRUBEN : Fld := ⟨.ora, 0x18, 0, 1⟩
def OR_MEM_CTL_SCRUBHOURS : Fld := ⟨.ora, 0x18, 8, 8⟩
def OR_MEM_CTL_RETRAINROUNDS : Fld := ⟨.ora, 0x18, 16, 16⟩
def defOR_MEM_CTL : RDef := ⟨0x18, 8, 1, [⟨0, 1, .rw, 1⟩, ⟨8, 8, .rw, 24⟩, ⟨16, 16, .rw, 1526⟩]⟩

/-! OR_MEM_STATUS (R277) -/
def OR_MEM_STATUS_TRAINED : Fld := ⟨.ora, 0x20, 0, 1⟩
def OR_MEM_STATUS_SLOW : Fld := ⟨.ora, 0x20, 1, 1⟩
def OR_MEM_STATUS_SPARELOW : Fld := ⟨.ora, 0x20, 2, 1⟩
def OR_MEM_STATUS_SPAREOUT : Fld := ⟨.ora, 0x20, 3, 1⟩
def OR_MEM_STATUS_HELD : Fld := ⟨.ora, 0x20, 4, 4⟩
def OR_MEM_STATUS_RETIRED : Fld := ⟨.ora, 0x20, 8, 23⟩
def defOR_MEM_STATUS : RDef := ⟨0x20, 8, 1, [⟨0, 1, .ro, 0⟩, ⟨1, 1, .ro, 0⟩, ⟨2, 1, .ro, 0⟩, ⟨3, 1, .ro, 0⟩, ⟨4, 4, .ro, 0⟩, ⟨8, 23, .ro, 0⟩]⟩

/-! OR_MEM_CNT (R277) -/
def OR_MEM_CNT_CE : Fld := ⟨.ora, 0x28, 0, 16⟩
def OR_MEM_CNT_UE : Fld := ⟨.ora, 0x28, 16, 8⟩
def OR_MEM_CNT_RETIRE : Fld := ⟨.ora, 0x28, 24, 8⟩
def OR_MEM_CNT_LECC : Fld := ⟨.ora, 0x28, 32, 16⟩
def OR_MEM_CNT_RETRAIN : Fld := ⟨.ora, 0x28, 48, 8⟩
def defOR_MEM_CNT : RDef := ⟨0x28, 8, 1, [⟨0, 16, .rc, 0⟩, ⟨16, 8, .rc, 0⟩, ⟨24, 8, .rc, 0⟩, ⟨32, 16, .rc, 0⟩, ⟨48, 8, .rc, 0⟩]⟩

/-! OR_ENG_CMD (R277) -/
def OR_ENG_CMD_CMD : Fld := ⟨.ora, 0x40, 0, 4⟩
def OR_ENG_CMD_GARDEN : Fld := ⟨.ora, 0x40, 4, 2⟩
def OR_ENG_CMD_SCALE : Fld := ⟨.ora, 0x40, 32, 32⟩
def defOR_ENG_CMD : RDef := ⟨0x40, 8, 1, [⟨0, 4, .wo, 0⟩, ⟨4, 2, .wo, 0⟩, ⟨32, 32, .wo, 0⟩]⟩

/-! OR_ENG_STATUS (R277) -/
def OR_ENG_STATUS_STATE0 : Fld := ⟨.ora, 0x48, 0, 3⟩
def OR_ENG_STATUS_STATE1 : Fld := ⟨.ora, 0x48, 3, 3⟩
def OR_ENG_STATUS_STATE2 : Fld := ⟨.ora, 0x48, 6, 3⟩
def OR_ENG_STATUS_STATE3 : Fld := ⟨.ora, 0x48, 9, 3⟩
def OR_ENG_STATUS_CMDERR : Fld := ⟨.ora, 0x48, 12, 1⟩
def OR_ENG_STATUS_PLANERR : Fld := ⟨.ora, 0x48, 13, 1⟩
def OR_ENG_STATUS_LAYER : Fld := ⟨.ora, 0x48, 16, 16⟩
def defOR_ENG_STATUS : RDef := ⟨0x48, 8, 1, [⟨0, 3, .ro, 0⟩, ⟨3, 3, .ro, 0⟩, ⟨6, 3, .ro, 0⟩, ⟨9, 3, .ro, 0⟩, ⟨12, 1, .w1c, 0⟩, ⟨13, 1, .w1c, 0⟩, ⟨16, 16, .ro, 0⟩]⟩

/-! OR_ENG_CNT (R277) -/
def OR_ENG_CNT_PARTIAL : Fld := ⟨.ora, 0x50, 0, 16⟩
def OR_ENG_CNT_LATE : Fld := ⟨.ora, 0x50, 16, 16⟩
def OR_ENG_CNT_NONFINITE : Fld := ⟨.ora, 0x50, 32, 16⟩
def OR_ENG_CNT_POISONED : Fld := ⟨.ora, 0x50, 48, 16⟩
def defOR_ENG_CNT : RDef := ⟨0x50, 8, 1, [⟨0, 16, .rc, 0⟩, ⟨16, 16, .rc, 0⟩, ⟨32, 16, .rc, 0⟩, ⟨48, 16, .rc, 0⟩]⟩

/-! OR_ARENA_g (R277) -/
def OR_ARENA_BASE (n : Nat) : Fld := ⟨.ora, 0x60 + 8 * n, 0, 25⟩
def OR_ARENA_SIZE (n : Nat) : Fld := ⟨.ora, 0x60 + 8 * n, 32, 25⟩
def defOR_ARENA : RDef := ⟨0x60, 8, 4, [⟨0, 25, .rw, 0⟩, ⟨32, 25, .rw, 0⟩]⟩

/-! OR_LAYER_SEL (R278) -/
def OR_LAYER_SEL_LAYER : Fld := ⟨.ora, 0x80, 0, 16⟩
def defOR_LAYER_SEL : RDef := ⟨0x80, 8, 1, [⟨0, 16, .rw, 0⟩]⟩

/-! OR_LAYER_PARTIAL (R278) -/
def OR_LAYER_PARTIAL_PARTIAL (n : Nat) : Fld := ⟨.ora, 0x800000 + 8 * n, 0, 64⟩
def defOR_LAYER_PARTIAL : RDef := ⟨0x800000, 8, 65536, [⟨0, 64, .ro, 0⟩]⟩

/-! OR_LAYER_Ww (R278) -/
def OR_LAYER_W_WORD (n : Nat) : Fld := ⟨.ora, 0x1000000 + 8 * n, 0, 64⟩
def defOR_LAYER_W : RDef := ⟨0x1000000, 8, 524288, [⟨0, 64, .rw, 0⟩]⟩

/-! CAP_ORANGERY (R279) -/
def CAP_ORANGERY_COUNT : Fld := ⟨.ora, 0x1F8, 0, 8⟩
def CAP_ORANGERY_ENGINE : Fld := ⟨.ora, 0x1F8, 8, 1⟩
def CAP_ORANGERY_LAYERSM1 : Fld := ⟨.ora, 0x1F8, 16, 16⟩
def CAP_ORANGERY_SLOTS : Fld := ⟨.ora, 0x1F8, 32, 25⟩
def defCAP_ORANGERY : RDef := ⟨0x1F8, 8, 1, [⟨0, 8, .ro, 16⟩, ⟨8, 1, .ro, 1⟩, ⟨16, 16, .ro, 65535⟩, ⟨32, 25, .ro, 16777216⟩]⟩

/-! GD_SEL (R316) -/
def GD_SEL_GARDEN : Fld := ⟨.gd, 0x0, 0, 2⟩
def defGD_SEL : RDef := ⟨0x0, 8, 1, [⟨0, 2, .rw, 0⟩]⟩

/-! GD_STATUS (R316) -/
def GD_STATUS_STATE : Fld := ⟨.gd, 0x8, 0, 4⟩
def GD_STATUS_MODE : Fld := ⟨.gd, 0x8, 4, 1⟩
def GD_STATUS_UPDATE : Fld := ⟨.gd, 0x8, 5, 1⟩
def GD_STATUS_SHORT : Fld := ⟨.gd, 0x8, 6, 1⟩
def GD_STATUS_DEFERRED : Fld := ⟨.gd, 0x8, 7, 1⟩
def GD_STATUS_GEN : Fld := ⟨.gd, 0x8, 8, 8⟩
def GD_STATUS_SIZE : Fld := ⟨.gd, 0x8, 16, 15⟩
def GD_STATUS_PAVILIONS : Fld := ⟨.gd, 0x8, 32, 9⟩
def GD_STATUS_RESERVE : Fld := ⟨.gd, 0x8, 42, 15⟩
def GD_STATUS_STAGELOCK : Fld := ⟨.gd, 0x8, 57, 1⟩
def defGD_STATUS : RDef := ⟨0x8, 8, 1, [⟨0, 4, .ro, 0⟩, ⟨4, 1, .ro, 0⟩, ⟨5, 1, .ro, 0⟩, ⟨6, 1, .ro, 0⟩, ⟨7, 1, .ro, 0⟩, ⟨8, 8, .ro, 0⟩, ⟨16, 15, .ro, 0⟩, ⟨32, 9, .ro, 0⟩, ⟨42, 15, .ro, 0⟩, ⟨57, 1, .ro, 0⟩]⟩

/-! GD_ORIGIN (R316) -/
def GD_ORIGIN_VX : Fld := ⟨.gd, 0x10, 0, 5⟩
def GD_ORIGIN_VY : Fld := ⟨.gd, 0x10, 5, 5⟩
def GD_ORIGIN_W : Fld := ⟨.gd, 0x10, 10, 5⟩
def GD_ORIGIN_H : Fld := ⟨.gd, 0x10, 15, 5⟩
def defGD_ORIGIN : RDef := ⟨0x10, 8, 1, [⟨0, 5, .ro, 0⟩, ⟨5, 5, .ro, 0⟩, ⟨10, 5, .ro, 0⟩, ⟨15, 5, .ro, 0⟩]⟩

/-! GD_GRANT (R316) -/
def GD_GRANT_PEER : Fld := ⟨.gd, 0x18, 0, 16⟩
def GD_GRANT_HOST : Fld := ⟨.gd, 0x18, 16, 2⟩
def defGD_GRANT : RDef := ⟨0x18, 8, 1, [⟨0, 16, .ro, 0⟩, ⟨16, 2, .ro, 0⟩]⟩

/-! GD_GRANT_STAGED (R316) -/
def GD_GRANT_STAGED_STAGED : Fld := ⟨.gd, 0x20, 0, 18⟩
def defGD_GRANT_STAGED : RDef := ⟨0x20, 8, 1, [⟨0, 18, .rw, 0⟩]⟩

/-! GD_RELIEF (R316) -/
def GD_RELIEF_MOVED : Fld := ⟨.gd, 0x28, 0, 16⟩
def GD_RELIEF_ACTIVE : Fld := ⟨.gd, 0x28, 16, 3⟩
def defGD_RELIEF : RDef := ⟨0x28, 8, 1, [⟨0, 16, .ro, 0⟩, ⟨16, 3, .ro, 0⟩]⟩

/-! GD_CHAN (R316) -/
def GD_CHAN_CHAN : Fld := ⟨.gd, 0x30, 0, 64⟩
def defGD_CHAN : RDef := ⟨0x30, 8, 1, [⟨0, 64, .ro, 0⟩]⟩

/-! GD_CFG (R316) -/
def GD_CFG_ANNEX : Fld := ⟨.gd, 0x38, 0, 1⟩
def defGD_CFG : RDef := ⟨0x38, 8, 1, [⟨0, 1, .rw, 0⟩]⟩

/-! GD_PAV_n (R316) -/
def GD_PAV_PAV (n : Nat) : Fld := ⟨.gd, 0x40 + 8 * n, 0, 64⟩
def defGD_PAV : RDef := ⟨0x40, 8, 7, [⟨0, 64, .ro, 0⟩]⟩

/-! GD_MAP_SEL (R316) -/
def GD_MAP_SEL_LCORE : Fld := ⟨.gd, 0x80, 0, 15⟩
def GD_MAP_SEL_STAGED : Fld := ⟨.gd, 0x80, 15, 1⟩
def defGD_MAP_SEL : RDef := ⟨0x80, 8, 1, [⟨0, 15, .rw, 0⟩, ⟨15, 1, .rw, 0⟩]⟩

/-! GD_MAP_DATA (R316) -/
def GD_MAP_DATA_ENTRIES : Fld := ⟨.gd, 0x88, 0, 64⟩
def defGD_MAP_DATA : RDef := ⟨0x88, 8, 1, [⟨0, 64, .rw, 0⟩]⟩

/-! GD_WIN_A_n (R316) -/
def GD_WIN_A_LBASE (n : Nat) : Fld := ⟨.gd, 0x100 + 16 * n, 0, 25⟩
def GD_WIN_A_PBASE (n : Nat) : Fld := ⟨.gd, 0x100 + 16 * n, 32, 25⟩
def defGD_WIN_A : RDef := ⟨0x100, 16, 16, [⟨0, 25, .ro, 0⟩, ⟨32, 25, .ro, 0⟩]⟩

/-! GD_WSTAGE_A_n (R316) -/
def GD_WSTAGE_A_LBASE (n : Nat) : Fld := ⟨.gd, 0x200 + 16 * n, 0, 25⟩
def GD_WSTAGE_A_PBASE (n : Nat) : Fld := ⟨.gd, 0x200 + 16 * n, 32, 25⟩
def defGD_WSTAGE_A : RDef := ⟨0x200, 16, 16, [⟨0, 25, .rw, 0⟩, ⟨32, 25, .rw, 0⟩]⟩

/-! GD_WIN_B_n (R316) -/
def GD_WIN_B_SIZE (n : Nat) : Fld := ⟨.gd, 0x108 + 16 * n, 0, 25⟩
def GD_WIN_B_RD (n : Nat) : Fld := ⟨.gd, 0x108 + 16 * n, 32, 1⟩
def GD_WIN_B_WR (n : Nat) : Fld := ⟨.gd, 0x108 + 16 * n, 33, 1⟩
def GD_WIN_B_HOST (n : Nat) : Fld := ⟨.gd, 0x108 + 16 * n, 34, 1⟩
def GD_WIN_B_KEEP (n : Nat) : Fld := ⟨.gd, 0x108 + 16 * n, 35, 1⟩
def defGD_WIN_B : RDef := ⟨0x108, 16, 16, [⟨0, 25, .ro, 0⟩, ⟨32, 1, .ro, 0⟩, ⟨33, 1, .ro, 0⟩, ⟨34, 1, .ro, 0⟩, ⟨35, 1, .ro, 0⟩]⟩

/-! GD_WSTAGE_B_n (R316) -/
def GD_WSTAGE_B_SIZE (n : Nat) : Fld := ⟨.gd, 0x208 + 16 * n, 0, 25⟩
def GD_WSTAGE_B_RD (n : Nat) : Fld := ⟨.gd, 0x208 + 16 * n, 32, 1⟩
def GD_WSTAGE_B_WR (n : Nat) : Fld := ⟨.gd, 0x208 + 16 * n, 33, 1⟩
def GD_WSTAGE_B_HOST (n : Nat) : Fld := ⟨.gd, 0x208 + 16 * n, 34, 1⟩
def GD_WSTAGE_B_KEEP (n : Nat) : Fld := ⟨.gd, 0x208 + 16 * n, 35, 1⟩
def defGD_WSTAGE_B : RDef := ⟨0x208, 16, 16, [⟨0, 25, .rw, 0⟩, ⟨32, 1, .rw, 0⟩, ⟨33, 1, .rw, 0⟩, ⟨34, 1, .rw, 0⟩, ⟨35, 1, .rw, 0⟩]⟩

/-! PM_ID (R352) -/
def PM_ID_FWMINOR : Fld := ⟨.pm, 0x0, 0, 8⟩
def PM_ID_FWMAJOR : Fld := ⟨.pm, 0x0, 8, 8⟩
def PM_ID_FWBUILD : Fld := ⟨.pm, 0x0, 16, 32⟩
def PM_ID_HWREV : Fld := ⟨.pm, 0x0, 48, 8⟩
def defPM_ID : RDef := ⟨0x0, 8, 1, [⟨0, 8, .ro, 0⟩, ⟨8, 8, .ro, 0⟩, ⟨16, 32, .ro, 0⟩, ⟨48, 8, .ro, 0⟩]⟩

/-! PM_STATUS (R352) -/
def PM_STATUS_STATE : Fld := ⟨.pm, 0x8, 0, 3⟩
def PM_STATUS_RESTARTS : Fld := ⟨.pm, 0x8, 8, 8⟩
def PM_STATUS_INCIDENT : Fld := ⟨.pm, 0x8, 16, 1⟩
def PM_STATUS_OPEN : Fld := ⟨.pm, 0x8, 32, 16⟩
def defPM_STATUS : RDef := ⟨0x8, 8, 1, [⟨0, 3, .ro, 0⟩, ⟨8, 8, .ro, 0⟩, ⟨16, 1, .ro, 0⟩, ⟨32, 16, .ro, 0⟩]⟩

/-! PM_ROUND (R352) -/
def PM_ROUND_ROUND : Fld := ⟨.pm, 0x10, 0, 48⟩
def defPM_ROUND : RDef := ⟨0x10, 8, 1, [⟨0, 48, .ro, 0⟩]⟩

/-! PM_MBX_SEL (R352) -/
def PM_MBX_SEL_CHANNEL : Fld := ⟨.pm, 0x18, 0, 6⟩
def defPM_MBX_SEL : RDef := ⟨0x18, 8, 1, [⟨0, 6, .rw, 0⟩]⟩

/-! PM_MBX_CTL (R352) -/
def PM_MBX_CTL_POST : Fld := ⟨.pm, 0x20, 0, 1⟩
def PM_MBX_CTL_TAKE : Fld := ⟨.pm, 0x20, 1, 1⟩
def PM_MBX_CTL_ABORT : Fld := ⟨.pm, 0x20, 2, 1⟩
def PM_MBX_CTL_RESET : Fld := ⟨.pm, 0x20, 3, 1⟩
def defPM_MBX_CTL : RDef := ⟨0x20, 8, 1, [⟨0, 1, .wo, 0⟩, ⟨1, 1, .wo, 0⟩, ⟨2, 1, .wo, 0⟩, ⟨3, 1, .wo, 0⟩]⟩

/-! PM_MBX_STATUS (R352) -/
def PM_MBX_STATUS_INUSED : Fld := ⟨.pm, 0x28, 0, 4⟩
def PM_MBX_STATUS_OUTUSED : Fld := ⟨.pm, 0x28, 4, 4⟩
def PM_MBX_STATUS_FILL : Fld := ⟨.pm, 0x28, 8, 10⟩
def PM_MBX_STATUS_OUTLEN : Fld := ⟨.pm, 0x28, 18, 10⟩
def PM_MBX_STATUS_OVERRUN : Fld := ⟨.pm, 0x28, 28, 1⟩
def PM_MBX_STATUS_INFULL : Fld := ⟨.pm, 0x28, 29, 1⟩
def PM_MBX_STATUS_BOUND : Fld := ⟨.pm, 0x28, 30, 2⟩
def PM_MBX_STATUS_SESSION : Fld := ⟨.pm, 0x28, 32, 32⟩
def defPM_MBX_STATUS : RDef := ⟨0x28, 8, 1, [⟨0, 4, .ro, 0⟩, ⟨4, 4, .ro, 0⟩, ⟨8, 10, .ro, 0⟩, ⟨18, 10, .ro, 0⟩, ⟨28, 1, .w1c, 0⟩, ⟨29, 1, .w1c, 0⟩, ⟨30, 2, .ro, 0⟩, ⟨32, 32, .ro, 0⟩]⟩

/-! PM_MBX_IN (R352) -/
def PM_MBX_IN_DATA : Fld := ⟨.pm, 0x30, 0, 64⟩
def defPM_MBX_IN : RDef := ⟨0x30, 8, 1, [⟨0, 64, .wo, 0⟩]⟩

/-! PM_MBX_OUT (R352) -/
def PM_MBX_OUT_DATA : Fld := ⟨.pm, 0x38, 0, 64⟩
def defPM_MBX_OUT : RDef := ⟨0x38, 8, 1, [⟨0, 64, .ro, 0⟩]⟩

/-! PM_MBX_CNT (R352) -/
def PM_MBX_CNT_ACCEPTED : Fld := ⟨.pm, 0x40, 0, 16⟩
def PM_MBX_CNT_DEAD : Fld := ⟨.pm, 0x40, 16, 16⟩
def PM_MBX_CNT_REPEAT : Fld := ⟨.pm, 0x40, 32, 16⟩
def defPM_MBX_CNT : RDef := ⟨0x40, 8, 1, [⟨0, 16, .rc, 0⟩, ⟨16, 16, .rc, 0⟩, ⟨32, 16, .rc, 0⟩]⟩

/-! LN_SEL (R394) -/
def LN_SEL_INDEX : Fld := ⟨.ln, 0x0, 0, 5⟩
def LN_SEL_KIND : Fld := ⟨.ln, 0x0, 5, 2⟩
def defLN_SEL : RDef := ⟨0x0, 8, 1, [⟨0, 5, .rw, 0⟩, ⟨5, 2, .rw, 0⟩]⟩

/-! LN_HOST_STATUS (R394) -/
def LN_HOST_STATUS_PRESENT : Fld := ⟨.ln, 0x100, 0, 1⟩
def LN_HOST_STATUS_MODE : Fld := ⟨.ln, 0x100, 1, 1⟩
def LN_HOST_STATUS_UPA : Fld := ⟨.ln, 0x100, 2, 1⟩
def LN_HOST_STATUS_UPB : Fld := ⟨.ln, 0x100, 3, 1⟩
def LN_HOST_STATUS_SPARE : Fld := ⟨.ln, 0x100, 4, 1⟩
def LN_HOST_STATUS_SPAREID : Fld := ⟨.ln, 0x100, 5, 2⟩
def LN_HOST_STATUS_PTP : Fld := ⟨.ln, 0x100, 7, 1⟩
def LN_HOST_STATUS_PAUSED : Fld := ⟨.ln, 0x100, 8, 8⟩
def LN_HOST_STATUS_XOFF : Fld := ⟨.ln, 0x100, 16, 1⟩
def defLN_HOST_STATUS : RDef := ⟨0x100, 8, 1, [⟨0, 1, .ro, 1⟩, ⟨1, 1, .ro, 0⟩, ⟨2, 1, .ro, 0⟩, ⟨3, 1, .ro, 0⟩, ⟨4, 1, .ro, 0⟩, ⟨5, 2, .ro, 0⟩, ⟨7, 1, .ro, 0⟩, ⟨8, 8, .ro, 0⟩, ⟨16, 1, .ro, 0⟩]⟩

/-! LN_HOST_MAC (R394) -/
def LN_HOST_MAC_MAC : Fld := ⟨.ln, 0x108, 0, 48⟩
def defLN_HOST_MAC : RDef := ⟨0x108, 8, 1, [⟨0, 48, .ro, 0⟩]⟩

/-! LN_HOST_CFG (R394) -/
def LN_HOST_CFG_VID : Fld := ⟨.ln, 0x110, 0, 12⟩
def LN_HOST_CFG_TAGGED : Fld := ⟨.ln, 0x110, 12, 1⟩
def LN_HOST_CFG_PCP : Fld := ⟨.ln, 0x110, 13, 3⟩
def LN_HOST_CFG_PFCEN : Fld := ⟨.ln, 0x110, 16, 8⟩
def LN_HOST_CFG_UDP : Fld := ⟨.ln, 0x110, 24, 16⟩
def LN_HOST_CFG_V6 : Fld := ⟨.ln, 0x110, 40, 1⟩
def LN_HOST_CFG_V4 : Fld := ⟨.ln, 0x110, 41, 1⟩
def defLN_HOST_CFG : RDef := ⟨0x110, 8, 1, [⟨0, 12, .ro, 0⟩, ⟨12, 1, .ro, 0⟩, ⟨13, 3, .ro, 0⟩, ⟨16, 8, .ro, 0⟩, ⟨24, 16, .ro, 0⟩, ⟨40, 1, .ro, 0⟩, ⟨41, 1, .ro, 0⟩]⟩

/-! LN_HOST_MAC_CNT (R394) -/
def LN_HOST_MAC_CNT_FCS : Fld := ⟨.ln, 0x118, 0, 16⟩
def LN_HOST_MAC_CNT_DROP : Fld := ⟨.ln, 0x118, 16, 16⟩
def LN_HOST_MAC_CNT_PFCTX : Fld := ⟨.ln, 0x118, 32, 16⟩
def LN_HOST_MAC_CNT_PFCRX : Fld := ⟨.ln, 0x118, 48, 16⟩
def defLN_HOST_MAC_CNT : RDef := ⟨0x118, 8, 1, [⟨0, 16, .rc, 0⟩, ⟨16, 16, .rc, 0⟩, ⟨32, 16, .rc, 0⟩, ⟨48, 16, .rc, 0⟩]⟩

/-! LN_HOST_FEC_CNT (R394) -/
def LN_HOST_FEC_CNT_CORR : Fld := ⟨.ln, 0x120, 0, 32⟩
def LN_HOST_FEC_CNT_UNCORR : Fld := ⟨.ln, 0x120, 32, 16⟩
def defLN_HOST_FEC_CNT : RDef := ⟨0x120, 8, 1, [⟨0, 32, .rc, 0⟩, ⟨32, 16, .rc, 0⟩]⟩

/-! LN_ITURN_CNT (R394) -/
def LN_ITURN_CNT_FORMAT : Fld := ⟨.ln, 0x128, 0, 8⟩
def LN_ITURN_CNT_UNKNOWN : Fld := ⟨.ln, 0x128, 8, 8⟩
def LN_ITURN_CNT_AUTH : Fld := ⟨.ln, 0x128, 16, 8⟩
def LN_ITURN_CNT_DUP : Fld := ⟨.ln, 0x128, 24, 8⟩
def LN_ITURN_CNT_WINDOW : Fld := ⟨.ln, 0x128, 32, 8⟩
def LN_ITURN_CNT_BUSY : Fld := ⟨.ln, 0x128, 40, 8⟩
def LN_ITURN_CNT_PARCEL : Fld := ⟨.ln, 0x128, 48, 8⟩
def LN_ITURN_CNT_BUFFER : Fld := ⟨.ln, 0x128, 56, 8⟩
def defLN_ITURN_CNT : RDef := ⟨0x128, 8, 1, [⟨0, 8, .rc, 0⟩, ⟨8, 8, .rc, 0⟩, ⟨16, 8, .rc, 0⟩, ⟨24, 8, .rc, 0⟩, ⟨32, 8, .rc, 0⟩, ⟨40, 8, .rc, 0⟩, ⟨48, 8, .rc, 0⟩, ⟨56, 8, .rc, 0⟩]⟩

/-! LN_ITURN_STAT (R394) -/
def LN_ITURN_STAT_SESSIONS : Fld := ⟨.ln, 0x130, 0, 7⟩
def LN_ITURN_STAT_PENDING : Fld := ⟨.ln, 0x130, 7, 7⟩
def LN_ITURN_STAT_PARCELS : Fld := ⟨.ln, 0x130, 14, 9⟩
def LN_ITURN_STAT_RETX : Fld := ⟨.ln, 0x130, 32, 16⟩
def LN_ITURN_STAT_ECE : Fld := ⟨.ln, 0x130, 48, 16⟩
def defLN_ITURN_STAT : RDef := ⟨0x130, 8, 1, [⟨0, 7, .ro, 0⟩, ⟨7, 7, .ro, 0⟩, ⟨14, 9, .ro, 0⟩, ⟨32, 16, .rc, 0⟩, ⟨48, 16, .rc, 0⟩]⟩

/-! LN_PEER_STATUS (R417) -/
def LN_PEER_STATUS_PRESENT : Fld := ⟨.ln, 0x200, 0, 1⟩
def LN_PEER_STATUS_UP : Fld := ⟨.ln, 0x200, 1, 1⟩
def LN_PEER_STATUS_SPARE : Fld := ⟨.ln, 0x200, 2, 1⟩
def LN_PEER_STATUS_SPAREID : Fld := ⟨.ln, 0x200, 3, 1⟩
def LN_PEER_STATUS_PAUSED : Fld := ⟨.ln, 0x200, 4, 7⟩
def LN_PEER_STATUS_XOFF : Fld := ⟨.ln, 0x200, 11, 7⟩
def LN_PEER_STATUS_DISCARD : Fld := ⟨.ln, 0x200, 18, 4⟩
def LN_PEER_STATUS_AVEPEND : Fld := ⟨.ln, 0x200, 30, 32⟩
def defLN_PEER_STATUS : RDef := ⟨0x200, 8, 1, [⟨0, 1, .ro, 1⟩, ⟨1, 1, .ro, 0⟩, ⟨2, 1, .ro, 0⟩, ⟨3, 1, .ro, 0⟩, ⟨4, 7, .ro, 0⟩, ⟨11, 7, .ro, 0⟩, ⟨18, 4, .ro, 0⟩, ⟨30, 32, .ro, 0⟩]⟩

/-! LN_PEER_CNT (R417) -/
def LN_PEER_CNT_STALE : Fld := ⟨.ln, 0x208, 0, 16⟩
def LN_PEER_CNT_DOWN : Fld := ⟨.ln, 0x208, 16, 16⟩
def LN_PEER_CNT_UNKNOWN : Fld := ⟨.ln, 0x208, 32, 16⟩
def LN_PEER_CNT_FORMAT : Fld := ⟨.ln, 0x208, 48, 8⟩
def LN_PEER_CNT_UNCORR : Fld := ⟨.ln, 0x208, 56, 8⟩
def defLN_PEER_CNT : RDef := ⟨0x208, 8, 1, [⟨0, 16, .rc, 0⟩, ⟨16, 16, .rc, 0⟩, ⟨32, 16, .rc, 0⟩, ⟨48, 8, .rc, 0⟩, ⟨56, 8, .rc, 0⟩]⟩

/-! LN_SPARE_STATUS (R417) -/
def LN_SPARE_STATUS_PRESENT : Fld := ⟨.ln, 0x300, 0, 1⟩
def LN_SPARE_STATUS_INUSE : Fld := ⟨.ln, 0x300, 1, 1⟩
def LN_SPARE_STATUS_CARRIES : Fld := ⟨.ln, 0x300, 2, 7⟩
def defLN_SPARE_STATUS : RDef := ⟨0x300, 8, 1, [⟨0, 1, .ro, 1⟩, ⟨1, 1, .ro, 0⟩, ⟨2, 7, .ro, 0⟩]⟩

/-! LN_LANT_STATUS (R417) -/
def LN_LANT_STATUS_PRESENT : Fld := ⟨.ln, 0x400, 0, 1⟩
def LN_LANT_STATUS_ACTIVE : Fld := ⟨.ln, 0x400, 1, 1⟩
def LN_LANT_STATUS_USABLE : Fld := ⟨.ln, 0x400, 2, 2⟩
def LN_LANT_STATUS_SWITCHES : Fld := ⟨.ln, 0x400, 4, 8⟩
def defLN_LANT_STATUS : RDef := ⟨0x400, 8, 1, [⟨0, 1, .ro, 1⟩, ⟨1, 1, .ro, 0⟩, ⟨2, 2, .ro, 0⟩, ⟨4, 8, .rc, 0⟩]⟩

/-! IH_STATUS (R438) -/
def IH_STATUS_READY : Fld := ⟨.ih, 0x0, 0, 1⟩
def IH_STATUS_SCAN : Fld := ⟨.ih, 0x0, 1, 1⟩
def IH_STATUS_DEGRADED : Fld := ⟨.ih, 0x0, 2, 1⟩
def IH_STATUS_SPARELOW : Fld := ⟨.ih, 0x0, 3, 1⟩
def IH_STATUS_WORN : Fld := ⟨.ih, 0x0, 4, 1⟩
def IH_STATUS_DIESLOST : Fld := ⟨.ih, 0x0, 8, 7⟩
def defIH_STATUS : RDef := ⟨0x0, 8, 1, [⟨0, 1, .ro, 0⟩, ⟨1, 1, .ro, 0⟩, ⟨2, 1, .ro, 0⟩, ⟨3, 1, .ro, 0⟩, ⟨4, 1, .ro, 0⟩, ⟨8, 7, .ro, 0⟩]⟩

/-! IH_CAPACITY (R438) -/
def IH_CAPACITY_FREE : Fld := ⟨.ih, 0x8, 0, 32⟩
def IH_CAPACITY_TOTAL : Fld := ⟨.ih, 0x8, 32, 32⟩
def defIH_CAPACITY : RDef := ⟨0x8, 8, 1, [⟨0, 32, .ro, 0⟩, ⟨32, 32, .ro, 0⟩]⟩

/-! IH_WEAR (R438) -/
def IH_WEAR_AVG : Fld := ⟨.ih, 0x10, 0, 16⟩
def IH_WEAR_MAX : Fld := ⟨.ih, 0x10, 16, 16⟩
def IH_WEAR_RATED : Fld := ⟨.ih, 0x10, 32, 16⟩
def IH_WEAR_SPAREMIN : Fld := ⟨.ih, 0x10, 48, 8⟩
def defIH_WEAR : RDef := ⟨0x10, 8, 1, [⟨0, 16, .ro, 0⟩, ⟨16, 16, .ro, 0⟩, ⟨32, 16, .ro, 40000⟩, ⟨48, 8, .ro, 0⟩]⟩

/-! IH_CNT (R438) -/
def IH_CNT_SOFT : Fld := ⟨.ih, 0x18, 0, 16⟩
def IH_CNT_REFRESH : Fld := ⟨.ih, 0x18, 16, 16⟩
def IH_CNT_REBUILD : Fld := ⟨.ih, 0x18, 32, 8⟩
def IH_CNT_GROWN : Fld := ⟨.ih, 0x18, 40, 8⟩
def IH_CNT_LOST : Fld := ⟨.ih, 0x18, 48, 8⟩
def defIH_CNT : RDef := ⟨0x18, 8, 1, [⟨0, 16, .rc, 0⟩, ⟨16, 16, .rc, 0⟩, ⟨32, 8, .rc, 0⟩, ⟨40, 8, .rc, 0⟩, ⟨48, 8, .rc, 0⟩]⟩

/-! IH_JOB (R438) -/
def IH_JOB_KIND : Fld := ⟨.ih, 0x20, 0, 2⟩
def IH_JOB_GARDEN : Fld := ⟨.ih, 0x20, 2, 2⟩
def IH_JOB_CHECKPOINT : Fld := ⟨.ih, 0x20, 8, 32⟩
def IH_JOB_DONEGIB : Fld := ⟨.ih, 0x20, 40, 24⟩
def defIH_JOB : RDef := ⟨0x20, 8, 1, [⟨0, 2, .ro, 0⟩, ⟨2, 2, .ro, 0⟩, ⟨8, 32, .ro, 0⟩, ⟨40, 24, .ro, 0⟩]⟩

/-! SD_COUNT (R466) -/
def SD_COUNT_COUNT : Fld := ⟨.sd, 0x0, 0, 64⟩
def defSD_COUNT : RDef := ⟨0x0, 8, 1, [⟨0, 64, .ro, 0⟩]⟩

/-! SD_EPOCH (R466) -/
def SD_EPOCH_EPOCH : Fld := ⟨.sd, 0x8, 0, 64⟩
def defSD_EPOCH : RDef := ⟨0x8, 8, 1, [⟨0, 64, .ro, 0⟩]⟩

/-! SD_NEXT_CHIME (R466) -/
def SD_NEXT_CHIME_T : Fld := ⟨.sd, 0x28, 0, 64⟩
def defSD_NEXT_CHIME : RDef := ⟨0x28, 8, 1, [⟨0, 64, .ro, 18446744073709551615⟩]⟩

/-! SD_SNAP_T (R466) -/
def SD_SNAP_T_T : Fld := ⟨.sd, 0x30, 0, 64⟩
def defSD_SNAP_T : RDef := ⟨0x30, 8, 1, [⟨0, 64, .ro, 0⟩]⟩

/-! SD_TIME (R466) -/
def SD_TIME_SOURCE : Fld := ⟨.sd, 0x10, 0, 2⟩
def SD_TIME_LOCKED : Fld := ⟨.sd, 0x10, 2, 1⟩
def SD_TIME_HOLDOVER : Fld := ⟨.sd, 0x10, 3, 1⟩
def SD_TIME_SYNCFAULT : Fld := ⟨.sd, 0x10, 4, 1⟩
def SD_TIME_STEPPED : Fld := ⟨.sd, 0x10, 5, 1⟩
def SD_TIME_TRIM : Fld := ⟨.sd, 0x10, 32, 32⟩
def defSD_TIME : RDef := ⟨0x10, 8, 1, [⟨0, 2, .ro, 0⟩, ⟨2, 1, .ro, 0⟩, ⟨3, 1, .ro, 0⟩, ⟨4, 1, .w1c, 0⟩, ⟨5, 1, .w1c, 0⟩, ⟨32, 32, .ro, 0⟩]⟩

/-! SD_OFFSET (R466) -/
def SD_OFFSET_OFFSET : Fld := ⟨.sd, 0x18, 0, 32⟩
def defSD_OFFSET : RDef := ⟨0x18, 8, 1, [⟨0, 32, .ro, 0⟩]⟩

/-! SD_STAGE (R466) -/
def SD_STAGE_ID : Fld := ⟨.sd, 0x20, 0, 8⟩
def SD_STAGE_PENDING : Fld := ⟨.sd, 0x20, 8, 9⟩
def SD_STAGE_OPEN : Fld := ⟨.sd, 0x20, 17, 1⟩
def SD_STAGE_DISCARDED : Fld := ⟨.sd, 0x20, 18, 1⟩
def defSD_STAGE : RDef := ⟨0x20, 8, 1, [⟨0, 8, .ro, 0⟩, ⟨8, 9, .ro, 0⟩, ⟨17, 1, .ro, 0⟩, ⟨18, 1, .ro, 0⟩]⟩

/-! SD_CNT (R466) -/
def SD_CNT_DISCARDS : Fld := ⟨.sd, 0x38, 0, 16⟩
def SD_CNT_LATE : Fld := ⟨.sd, 0x38, 16, 16⟩
def SD_CNT_SYNCREJECT : Fld := ⟨.sd, 0x38, 32, 16⟩
def SD_CNT_HOLDOVERS : Fld := ⟨.sd, 0x38, 48, 16⟩
def defSD_CNT : RDef := ⟨0x38, 8, 1, [⟨0, 16, .rc, 0⟩, ⟨16, 16, .rc, 0⟩, ⟨32, 16, .rc, 0⟩, ⟨48, 16, .rc, 0⟩]⟩

/-! PV_CLK_STATUS (R467) -/
def PV_CLK_STATUS_SOURCE : Fld := ⟨.pv, 0x40, 0, 2⟩
def PV_CLK_STATUS_LOCKED : Fld := ⟨.pv, 0x40, 2, 1⟩
def PV_CLK_STATUS_HOLDOVER : Fld := ⟨.pv, 0x40, 3, 1⟩
def PV_CLK_STATUS_DEPTH : Fld := ⟨.pv, 0x40, 4, 9⟩
def PV_CLK_STATUS_DIV : Fld := ⟨.pv, 0x40, 13, 3⟩
def PV_CLK_STATUS_DERATE : Fld := ⟨.pv, 0x40, 16, 3⟩
def PV_CLK_STATUS_SDERR : Fld := ⟨.pv, 0x40, 19, 1⟩
def PV_CLK_STATUS_RECORDS : Fld := ⟨.pv, 0x40, 20, 4⟩
def defPV_CLK_STATUS : RDef := ⟨0x40, 8, 1, [⟨0, 2, .ro, 0⟩, ⟨2, 1, .ro, 0⟩, ⟨3, 1, .ro, 0⟩, ⟨4, 9, .ro, 0⟩, ⟨13, 3, .ro, 0⟩, ⟨16, 3, .ro, 0⟩, ⟨19, 1, .w1c, 0⟩, ⟨20, 4, .ro, 0⟩]⟩

/-! PV_CLK_CNT (R467) -/
def PV_CLK_CNT_STRETCH : Fld := ⟨.pv, 0x48, 0, 32⟩
def PV_CLK_CNT_SWITCH : Fld := ⟨.pv, 0x48, 32, 8⟩
def PV_CLK_CNT_REALIGN : Fld := ⟨.pv, 0x48, 40, 8⟩
def PV_CLK_CNT_EDGE : Fld := ⟨.pv, 0x48, 48, 8⟩
def defPV_CLK_CNT : RDef := ⟨0x48, 8, 1, [⟨0, 32, .rc, 0⟩, ⟨32, 8, .rc, 0⟩, ⟨40, 8, .rc, 0⟩, ⟨48, 8, .rc, 0⟩]⟩

/-! PV_CLK_CFG (R467) -/
def PV_CLK_CFG_MARGINMIN : Fld := ⟨.pv, 0x50, 0, 4⟩
def PV_CLK_CFG_STRETCHLIMIT : Fld := ⟨.pv, 0x50, 8, 24⟩
def defPV_CLK_CFG : RDef := ⟨0x50, 8, 1, [⟨0, 4, .ro, 0⟩, ⟨8, 24, .ro, 0⟩]⟩

/-! PV_CLK_MARGIN (R467) -/
def PV_CLK_MARGIN_MON_0 : Fld := ⟨.pv, 0x58, 0, 4⟩
def PV_CLK_MARGIN_MON_1 : Fld := ⟨.pv, 0x58, 4, 4⟩
def PV_CLK_MARGIN_MON_2 : Fld := ⟨.pv, 0x58, 8, 4⟩
def PV_CLK_MARGIN_MON_3 : Fld := ⟨.pv, 0x58, 12, 4⟩
def PV_CLK_MARGIN_MON_4 : Fld := ⟨.pv, 0x58, 16, 4⟩
def PV_CLK_MARGIN_MON_5 : Fld := ⟨.pv, 0x58, 20, 4⟩
def PV_CLK_MARGIN_MON_6 : Fld := ⟨.pv, 0x58, 24, 4⟩
def PV_CLK_MARGIN_MON_7 : Fld := ⟨.pv, 0x58, 28, 4⟩
def PV_CLK_MARGIN_MON_8 : Fld := ⟨.pv, 0x58, 32, 4⟩
def PV_CLK_MARGIN_MON_9 : Fld := ⟨.pv, 0x58, 36, 4⟩
def PV_CLK_MARGIN_MON_10 : Fld := ⟨.pv, 0x58, 40, 4⟩
def PV_CLK_MARGIN_MON_11 : Fld := ⟨.pv, 0x58, 44, 4⟩
def PV_CLK_MARGIN_MON_12 : Fld := ⟨.pv, 0x58, 48, 4⟩
def PV_CLK_MARGIN_MON_13 : Fld := ⟨.pv, 0x58, 52, 4⟩
def PV_CLK_MARGIN_MON_14 : Fld := ⟨.pv, 0x58, 56, 4⟩
def PV_CLK_MARGIN_MON_15 : Fld := ⟨.pv, 0x58, 60, 4⟩
def defPV_CLK_MARGIN : RDef := ⟨0x58, 8, 1, [⟨0, 4, .rc, 15⟩, ⟨4, 4, .rc, 15⟩, ⟨8, 4, .rc, 15⟩, ⟨12, 4, .rc, 15⟩, ⟨16, 4, .rc, 15⟩, ⟨20, 4, .rc, 15⟩, ⟨24, 4, .rc, 15⟩, ⟨28, 4, .rc, 15⟩, ⟨32, 4, .rc, 15⟩, ⟨36, 4, .rc, 15⟩, ⟨40, 4, .rc, 15⟩, ⟨44, 4, .rc, 15⟩, ⟨48, 4, .rc, 15⟩, ⟨52, 4, .rc, 15⟩, ⟨56, 4, .rc, 15⟩, ⟨60, 4, .rc, 15⟩]⟩

/-! PW_STATUS (R501) -/
def PW_STATUS_PGOOD : Fld := ⟨.pw, 0x0, 0, 1⟩
def PW_STATUS_ALERTHOLD : Fld := ⟨.pw, 0x0, 1, 1⟩
def PW_STATUS_ALERTSRC : Fld := ⟨.pw, 0x0, 2, 5⟩
def PW_STATUS_TRIP : Fld := ⟨.pw, 0x0, 7, 1⟩
def PW_STATUS_CAPIDX : Fld := ⟨.pw, 0x0, 8, 3⟩
def PW_STATUS_CONVOK : Fld := ⟨.pw, 0x0, 16, 8⟩
def PW_STATUS_PLOTSOFF : Fld := ⟨.pw, 0x0, 24, 6⟩
def defPW_STATUS : RDef := ⟨0x0, 8, 1, [⟨0, 1, .ro, 0⟩, ⟨1, 1, .ro, 0⟩, ⟨2, 5, .ro, 0⟩, ⟨7, 1, .ro, 0⟩, ⟨8, 3, .ro, 0⟩, ⟨16, 8, .ro, 0⟩, ⟨24, 6, .ro, 0⟩]⟩

/-! PW_CAP (R501) -/
def PW_CAP_CAP : Fld := ⟨.pw, 0x8, 0, 16⟩
def PW_CAP_WIN1 : Fld := ⟨.pw, 0x8, 16, 16⟩
def PW_CAP_WIN2 : Fld := ⟨.pw, 0x8, 32, 16⟩
def PW_CAP_HALVED : Fld := ⟨.pw, 0x8, 48, 1⟩
def defPW_CAP : RDef := ⟨0x8, 8, 1, [⟨0, 16, .ro, 16000⟩, ⟨16, 16, .ro, 1000⟩, ⟨32, 16, .ro, 16000⟩, ⟨48, 1, .ro, 0⟩]⟩

/-! PW_INPUT (R501) -/
def PW_INPUT_VOLT : Fld := ⟨.pw, 0x10, 0, 16⟩
def PW_INPUT_CURR : Fld := ⟨.pw, 0x10, 16, 16⟩
def PW_INPUT_POWER : Fld := ⟨.pw, 0x10, 32, 16⟩
def defPW_INPUT : RDef := ⟨0x10, 8, 1, [⟨0, 16, .ro, 0⟩, ⟨16, 16, .ro, 0⟩, ⟨32, 16, .ro, 0⟩]⟩

/-! PW_AVG (R501) -/
def PW_AVG_AVG1 : Fld := ⟨.pw, 0x18, 0, 16⟩
def PW_AVG_AVG2 : Fld := ⟨.pw, 0x18, 16, 16⟩
def PW_AVG_PEAK : Fld := ⟨.pw, 0x18, 32, 16⟩
def defPW_AVG : RDef := ⟨0x18, 8, 1, [⟨0, 16, .ro, 0⟩, ⟨16, 16, .ro, 0⟩, ⟨32, 16, .rc, 0⟩]⟩

/-! PW_CNT (R501) -/
def PW_CNT_PIN : Fld := ⟨.pw, 0x20, 0, 16⟩
def PW_CNT_INTERNAL : Fld := ⟨.pw, 0x20, 16, 16⟩
def PW_CNT_CAPSTEP : Fld := ⟨.pw, 0x20, 32, 16⟩
def PW_CNT_HALVE : Fld := ⟨.pw, 0x20, 48, 8⟩
def PW_CNT_SHORT : Fld := ⟨.pw, 0x20, 56, 8⟩
def defPW_CNT : RDef := ⟨0x20, 8, 1, [⟨0, 16, .rc, 0⟩, ⟨16, 16, .rc, 0⟩, ⟨32, 16, .rc, 0⟩, ⟨48, 8, .rc, 0⟩, ⟨56, 8, .rc, 0⟩]⟩

/-! PW_THERM (R501) -/
def PW_THERM_TJMAX : Fld := ⟨.pw, 0x28, 0, 8⟩
def PW_THERM_TJPAV : Fld := ⟨.pw, 0x28, 8, 9⟩
def PW_THERM_MEMMAX : Fld := ⟨.pw, 0x28, 24, 8⟩
def PW_THERM_MEMOR : Fld := ⟨.pw, 0x28, 32, 4⟩
def PW_THERM_TRIPPED : Fld := ⟨.pw, 0x28, 36, 1⟩
def PW_THERM_CAUSE : Fld := ⟨.pw, 0x28, 37, 2⟩
def PW_THERM_THOT : Fld := ⟨.pw, 0x28, 48, 8⟩
def defPW_THERM : RDef := ⟨0x28, 8, 1, [⟨0, 8, .ro, 0⟩, ⟨8, 9, .ro, 0⟩, ⟨24, 8, .ro, 0⟩, ⟨32, 4, .ro, 0⟩, ⟨36, 1, .ro, 0⟩, ⟨37, 2, .ro, 0⟩, ⟨48, 8, .ro, 0⟩]⟩

/-! PW_CONV_n (R501) -/
def PW_CONV_OK (n : Nat) : Fld := ⟨.pw, 0x100 + 8 * n, 0, 1⟩
def PW_CONV_FAULT (n : Nat) : Fld := ⟨.pw, 0x100 + 8 * n, 1, 1⟩
def PW_CONV_ALERT (n : Nat) : Fld := ⟨.pw, 0x100 + 8 * n, 2, 1⟩
def PW_CONV_TEMP (n : Nat) : Fld := ⟨.pw, 0x100 + 8 * n, 8, 8⟩
def PW_CONV_CURR (n : Nat) : Fld := ⟨.pw, 0x100 + 8 * n, 16, 16⟩
def defPW_CONV : RDef := ⟨0x100, 8, 24, [⟨0, 1, .ro, 0⟩, ⟨1, 1, .ro, 0⟩, ⟨2, 1, .ro, 0⟩, ⟨8, 8, .ro, 0⟩, ⟨16, 16, .ro, 0⟩]⟩

/-! PW_PLOT_n (R501) -/
def PW_PLOT_ON (n : Nat) : Fld := ⟨.pw, 0x200 + 8 * n, 0, 1⟩
def PW_PLOT_SHORT (n : Nat) : Fld := ⟨.pw, 0x200 + 8 * n, 1, 1⟩
def PW_PLOT_LIMIT (n : Nat) : Fld := ⟨.pw, 0x200 + 8 * n, 2, 1⟩
def PW_PLOT_STAGING (n : Nat) : Fld := ⟨.pw, 0x200 + 8 * n, 3, 1⟩
def PW_PLOT_HALF (n : Nat) : Fld := ⟨.pw, 0x200 + 8 * n, 4, 1⟩
def PW_PLOT_DEAD (n : Nat) : Fld := ⟨.pw, 0x200 + 8 * n, 5, 1⟩
def PW_PLOT_TEMP (n : Nat) : Fld := ⟨.pw, 0x200 + 8 * n, 8, 8⟩
def PW_PLOT_CURR (n : Nat) : Fld := ⟨.pw, 0x200 + 8 * n, 16, 12⟩
def defPW_PLOT : RDef := ⟨0x200, 8, 36, [⟨0, 1, .ro, 0⟩, ⟨1, 1, .ro, 0⟩, ⟨2, 1, .ro, 0⟩, ⟨3, 1, .ro, 0⟩, ⟨4, 1, .ro, 0⟩, ⟨5, 1, .ro, 0⟩, ⟨8, 8, .ro, 0⟩, ⟨16, 12, .ro, 0⟩]⟩

/-! PV_REG_STATUS (R502) -/
def PV_REG_STATUS_PHASEOK : Fld := ⟨.pv, 0x60, 0, 8⟩
def PV_REG_STATUS_LOST : Fld := ⟨.pv, 0x60, 8, 4⟩
def PV_REG_STATUS_ON : Fld := ⟨.pv, 0x60, 12, 1⟩
def PV_REG_STATUS_OFFPHASE : Fld := ⟨.pv, 0x60, 13, 1⟩
def PV_REG_STATUS_OFFHEAT : Fld := ⟨.pv, 0x60, 14, 1⟩
def PV_REG_STATUS_POWERING : Fld := ⟨.pv, 0x60, 15, 1⟩
def PV_REG_STATUS_CORESON : Fld := ⟨.pv, 0x60, 16, 7⟩
def PV_REG_STATUS_THOK : Fld := ⟨.pv, 0x60, 23, 1⟩
def PV_REG_STATUS_VSET : Fld := ⟨.pv, 0x60, 24, 10⟩
def PV_REG_STATUS_VOUT : Fld := ⟨.pv, 0x60, 34, 10⟩
def PV_REG_STATUS_VOFF : Fld := ⟨.pv, 0x60, 44, 3⟩
def PV_REG_STATUS_PHASEIDX : Fld := ⟨.pv, 0x60, 47, 3⟩
def PV_REG_STATUS_HEATIDX : Fld := ⟨.pv, 0x60, 50, 3⟩
def defPV_REG_STATUS : RDef := ⟨0x60, 8, 1, [⟨0, 8, .ro, 0⟩, ⟨8, 4, .ro, 0⟩, ⟨12, 1, .ro, 0⟩, ⟨13, 1, .ro, 0⟩, ⟨14, 1, .ro, 0⟩, ⟨15, 1, .ro, 0⟩, ⟨16, 7, .ro, 0⟩, ⟨23, 1, .ro, 0⟩, ⟨24, 10, .ro, 0⟩, ⟨34, 10, .ro, 0⟩, ⟨44, 3, .ro, 0⟩, ⟨47, 3, .ro, 0⟩, ⟨50, 3, .ro, 0⟩]⟩

/-! PV_REG_CNT (R502) -/
def PV_REG_CNT_PHASEFAULT : Fld := ⟨.pv, 0x68, 0, 8⟩
def PV_REG_CNT_THERMOFF : Fld := ⟨.pv, 0x68, 8, 8⟩
def PV_REG_CNT_LIMIT : Fld := ⟨.pv, 0x68, 16, 16⟩
def defPV_REG_CNT : RDef := ⟨0x68, 8, 1, [⟨0, 8, .rc, 0⟩, ⟨8, 8, .rc, 0⟩, ⟨16, 16, .rc, 0⟩]⟩

/-! PV_THERM (R502) -/
def PV_THERM_TJ : Fld := ⟨.pv, 0x70, 0, 8⟩
def PV_THERM_TJPEAK : Fld := ⟨.pv, 0x70, 8, 8⟩
def PV_THERM_THTJ : Fld := ⟨.pv, 0x70, 16, 8⟩
def defPV_THERM : RDef := ⟨0x70, 8, 1, [⟨0, 8, .ro, 0⟩, ⟨8, 8, .rc, 0⟩, ⟨16, 8, .ro, 0⟩]⟩

/-! WD_STATUS (R583) -/
def WD_STATUS_PATROLMIN : Fld := ⟨.wd, 0x0, 0, 11⟩
def WD_STATUS_CKPTMIN : Fld := ⟨.wd, 0x0, 16, 14⟩
def WD_STATUS_WATCHDOGMS : Fld := ⟨.wd, 0x0, 32, 20⟩
def defWD_STATUS : RDef := ⟨0x0, 8, 1, [⟨0, 11, .ro, 0⟩, ⟨16, 14, .ro, 0⟩, ⟨32, 20, .ro, 0⟩]⟩

/-! WD_INC_LAST (R583) -/
def WD_INC_LAST_LAST : Fld := ⟨.wd, 0x8, 0, 48⟩
def WD_INC_LAST_OVERWRITTEN : Fld := ⟨.wd, 0x8, 48, 16⟩
def defWD_INC_LAST : RDef := ⟨0x8, 8, 1, [⟨0, 48, .ro, 0⟩, ⟨48, 16, .rc, 0⟩]⟩

/-! WD_INC_ACK (R583) -/
def WD_INC_ACK_ACKED : Fld := ⟨.wd, 0x10, 0, 48⟩
def defWD_INC_ACK : RDef := ⟨0x10, 8, 1, [⟨0, 48, .ro, 0⟩]⟩

/-! WD_AVAIL (R583) -/
def WD_AVAIL_DOWNUS : Fld := ⟨.wd, 0x18, 0, 40⟩
def WD_AVAIL_RECOVERIES : Fld := ⟨.wd, 0x18, 40, 16⟩
def defWD_AVAIL : RDef := ⟨0x18, 8, 1, [⟨0, 40, .ro, 0⟩, ⟨40, 16, .ro, 0⟩]⟩

/-! WD_PATROL (R583) -/
def WD_PATROL_RECENT : Fld := ⟨.wd, 0x20, 0, 16⟩
def WD_PATROL_OVERDUE : Fld := ⟨.wd, 0x20, 16, 16⟩
def WD_PATROL_FORCED : Fld := ⟨.wd, 0x20, 32, 16⟩
def defWD_PATROL : RDef := ⟨0x20, 8, 1, [⟨0, 16, .ro, 0⟩, ⟨16, 16, .ro, 0⟩, ⟨32, 16, .rc, 0⟩]⟩

/-! WD_CNT (R583) -/
def WD_CNT_WFAIL : Fld := ⟨.wd, 0x28, 0, 16⟩
def WD_CNT_PFAIL : Fld := ⟨.wd, 0x28, 16, 8⟩
def WD_CNT_HANG : Fld := ⟨.wd, 0x28, 24, 8⟩
def WD_CNT_REPLAY : Fld := ⟨.wd, 0x28, 32, 16⟩
def WD_CNT_RESTORE : Fld := ⟨.wd, 0x28, 48, 8⟩
def WD_CNT_POISON : Fld := ⟨.wd, 0x28, 56, 8⟩
def defWD_CNT : RDef := ⟨0x28, 8, 1, [⟨0, 16, .rc, 0⟩, ⟨16, 8, .rc, 0⟩, ⟨24, 8, .rc, 0⟩, ⟨32, 16, .rc, 0⟩, ⟨48, 8, .rc, 0⟩, ⟨56, 8, .rc, 0⟩]⟩

/-! WD_GARDEN_g (R583) -/
def WD_GARDEN_RUNS (n : Nat) : Fld := ⟨.wd, 0x40 + 8 * n, 0, 3⟩
def WD_GARDEN_TAINT (n : Nat) : Fld := ⟨.wd, 0x40 + 8 * n, 3, 3⟩
def WD_GARDEN_HANG (n : Nat) : Fld := ⟨.wd, 0x40 + 8 * n, 6, 1⟩
def WD_GARDEN_VOUCHED (n : Nat) : Fld := ⟨.wd, 0x40 + 8 * n, 8, 2⟩
def WD_GARDEN_TAKEDUE (n : Nat) : Fld := ⟨.wd, 0x40 + 8 * n, 10, 1⟩
def WD_GARDEN_BOUND (n : Nat) : Fld := ⟨.wd, 0x40 + 8 * n, 32, 20⟩
def defWD_GARDEN : RDef := ⟨0x40, 8, 4, [⟨0, 3, .ro, 0⟩, ⟨3, 3, .ro, 0⟩, ⟨6, 1, .ro, 0⟩, ⟨8, 2, .ro, 0⟩, ⟨10, 1, .ro, 0⟩, ⟨32, 20, .ro, 0⟩]⟩

/-! WD_PAV_STATUS (R584) -/
def WD_PAV_STATUS_QUEUE : Fld := ⟨.pv, 0xC0, 0, 11⟩
def WD_PAV_STATUS_BUSY : Fld := ⟨.pv, 0xC0, 11, 1⟩
def WD_PAV_STATUS_CORE : Fld := ⟨.pv, 0xC0, 12, 6⟩
def WD_PAV_STATUS_SEGMENT : Fld := ⟨.pv, 0xC0, 18, 6⟩
def defWD_PAV_STATUS : RDef := ⟨0xC0, 8, 1, [⟨0, 11, .ro, 0⟩, ⟨11, 1, .ro, 0⟩, ⟨12, 6, .ro, 0⟩, ⟨18, 6, .ro, 0⟩]⟩

/-! WD_PAV_CNT (R584) -/
def WD_PAV_CNT_JUDGED : Fld := ⟨.pv, 0xC8, 0, 32⟩
def WD_PAV_CNT_FAILED : Fld := ⟨.pv, 0xC8, 32, 16⟩
def WD_PAV_CNT_UNKNOWN : Fld := ⟨.pv, 0xC8, 48, 8⟩
def defWD_PAV_CNT : RDef := ⟨0xC8, 8, 1, [⟨0, 32, .rc, 0⟩, ⟨32, 16, .rc, 0⟩, ⟨48, 8, .rc, 0⟩]⟩

/-! WD_CORE_n (R584) -/
def WD_CORE_DONE (n : Nat) : Fld := ⟨.pv, 0xC00 + 8 * n, 0, 48⟩
def WD_CORE_SEGS (n : Nat) : Fld := ⟨.pv, 0xC00 + 8 * n, 48, 6⟩
def WD_CORE_RUNG (n : Nat) : Fld := ⟨.pv, 0xC00 + 8 * n, 54, 2⟩
def WD_CORE_MARKS (n : Nat) : Fld := ⟨.pv, 0xC00 + 8 * n, 56, 2⟩
def WD_CORE_SUSPECT (n : Nat) : Fld := ⟨.pv, 0xC00 + 8 * n, 58, 1⟩
def WD_CORE_PROBATION (n : Nat) : Fld := ⟨.pv, 0xC00 + 8 * n, 59, 1⟩
def defWD_CORE : RDef := ⟨0xC00, 8, 64, [⟨0, 48, .ro, 0⟩, ⟨48, 6, .ro, 0⟩, ⟨54, 2, .ro, 0⟩, ⟨56, 2, .ro, 0⟩, ⟨58, 1, .ro, 0⟩, ⟨59, 1, .ro, 0⟩]⟩

/-! CAP_UNITS (R645) -/
def CAP_UNITS_LANTERN : Fld := ⟨.cap, 0x0, 0, 5⟩
def CAP_UNITS_ORANGERY : Fld := ⟨.cap, 0x0, 8, 16⟩
def CAP_UNITS_ENGINE : Fld := ⟨.cap, 0x0, 24, 16⟩
def CAP_UNITS_GRADE : Fld := ⟨.cap, 0x0, 40, 2⟩
def CAP_UNITS_S : Fld := ⟨.cap, 0x0, 42, 1⟩
def CAP_UNITS_H : Fld := ⟨.cap, 0x0, 43, 1⟩
def CAP_UNITS_N : Fld := ⟨.cap, 0x0, 44, 1⟩
def CAP_UNITS_EXPOSED : Fld := ⟨.cap, 0x0, 48, 16⟩
def defCAP_UNITS : RDef := ⟨0x0, 8, 1, [⟨0, 5, .ro, 0⟩, ⟨8, 16, .ro, 0⟩, ⟨24, 16, .ro, 0⟩, ⟨40, 2, .ro, 0⟩, ⟨42, 1, .ro, 0⟩, ⟨43, 1, .ro, 0⟩, ⟨44, 1, .ro, 0⟩, ⟨48, 16, .ro, 0⟩]⟩

/-! PV_AVE_STAGED (R232) -/
def PV_AVE_STAGED_VALID (n : Nat) : Fld := ⟨.pv, 0x40000 + 8 * n, 0, 1⟩
def PV_AVE_STAGED_GARDEN (n : Nat) : Fld := ⟨.pv, 0x40000 + 8 * n, 1, 2⟩
def PV_AVE_STAGED_AVENUE (n : Nat) : Fld := ⟨.pv, 0x40000 + 8 * n, 3, 10⟩
def PV_AVE_STAGED_OUTMASK (n : Nat) : Fld := ⟨.pv, 0x40000 + 8 * n, 13, 5⟩
def PV_AVE_STAGED_NSL (n : Nat) : Fld := ⟨.pv, 0x40000 + 8 * n, 18, 2⟩
def PV_AVE_STAGED_ESL (n : Nat) : Fld := ⟨.pv, 0x40000 + 8 * n, 20, 2⟩
def PV_AVE_STAGED_SSL (n : Nat) : Fld := ⟨.pv, 0x40000 + 8 * n, 22, 2⟩
def PV_AVE_STAGED_WSL (n : Nat) : Fld := ⟨.pv, 0x40000 + 8 * n, 24, 2⟩
def PV_AVE_STAGED_LSL (n : Nat) : Fld := ⟨.pv, 0x40000 + 8 * n, 28, 2⟩
def defPV_AVE_STAGED : RDef := ⟨0x40000, 8, 2048, [⟨0, 1, .rw, 0⟩, ⟨1, 2, .rw, 0⟩, ⟨3, 10, .rw, 0⟩, ⟨13, 5, .rw, 0⟩, ⟨18, 2, .rw, 0⟩, ⟨20, 2, .rw, 0⟩, ⟨22, 2, .rw, 0⟩, ⟨24, 2, .rw, 0⟩, ⟨28, 2, .rw, 0⟩]⟩

/-! PV_FP_STAGE_n (R232) -/
def PV_FP_STAGE_ENTRY_0 (n : Nat) : Fld := ⟨.pv, 0x300 + 8 * n, 0, 3⟩
def PV_FP_STAGE_ENTRY_1 (n : Nat) : Fld := ⟨.pv, 0x300 + 8 * n, 3, 3⟩
def PV_FP_STAGE_ENTRY_2 (n : Nat) : Fld := ⟨.pv, 0x300 + 8 * n, 6, 3⟩
def PV_FP_STAGE_ENTRY_3 (n : Nat) : Fld := ⟨.pv, 0x300 + 8 * n, 9, 3⟩
def PV_FP_STAGE_ENTRY_4 (n : Nat) : Fld := ⟨.pv, 0x300 + 8 * n, 12, 3⟩
def PV_FP_STAGE_ENTRY_5 (n : Nat) : Fld := ⟨.pv, 0x300 + 8 * n, 15, 3⟩
def PV_FP_STAGE_ENTRY_6 (n : Nat) : Fld := ⟨.pv, 0x300 + 8 * n, 18, 3⟩
def PV_FP_STAGE_ENTRY_7 (n : Nat) : Fld := ⟨.pv, 0x300 + 8 * n, 21, 3⟩
def PV_FP_STAGE_ENTRY_8 (n : Nat) : Fld := ⟨.pv, 0x300 + 8 * n, 24, 3⟩
def PV_FP_STAGE_ENTRY_9 (n : Nat) : Fld := ⟨.pv, 0x300 + 8 * n, 27, 3⟩
def PV_FP_STAGE_ENTRY_10 (n : Nat) : Fld := ⟨.pv, 0x300 + 8 * n, 30, 3⟩
def PV_FP_STAGE_ENTRY_11 (n : Nat) : Fld := ⟨.pv, 0x300 + 8 * n, 33, 3⟩
def PV_FP_STAGE_ENTRY_12 (n : Nat) : Fld := ⟨.pv, 0x300 + 8 * n, 36, 3⟩
def PV_FP_STAGE_ENTRY_13 (n : Nat) : Fld := ⟨.pv, 0x300 + 8 * n, 39, 3⟩
def PV_FP_STAGE_ENTRY_14 (n : Nat) : Fld := ⟨.pv, 0x300 + 8 * n, 42, 3⟩
def PV_FP_STAGE_ENTRY_15 (n : Nat) : Fld := ⟨.pv, 0x300 + 8 * n, 45, 3⟩
def defPV_FP_STAGE : RDef := ⟨0x300, 8, 27, [⟨0, 3, .rw, 0⟩, ⟨3, 3, .rw, 0⟩, ⟨6, 3, .rw, 0⟩, ⟨9, 3, .rw, 0⟩, ⟨12, 3, .rw, 0⟩, ⟨15, 3, .rw, 0⟩, ⟨18, 3, .rw, 0⟩, ⟨21, 3, .rw, 0⟩, ⟨24, 3, .rw, 0⟩, ⟨27, 3, .rw, 0⟩, ⟨30, 3, .rw, 0⟩, ⟨33, 3, .rw, 0⟩, ⟨36, 3, .rw, 0⟩, ⟨39, 3, .rw, 0⟩, ⟨42, 3, .rw, 0⟩, ⟨45, 3, .rw, 0⟩]⟩

end Reg

/-- The registers of a block (R10). -/
def regDefs : Blk → List RDef
  | .kp => [Reg.defKP_CUBE_STATUS, Reg.defCAP_CUBE, Reg.defKP_CHAIN_STATUS, Reg.defKP_CHAIN_SEED, Reg.defCAP_CHAIN, Reg.defKP_ID, Reg.defKP_CTRL, Reg.defKP_STATUS] ++
      [Reg.defKP_FLAGS, Reg.defKP_CYCLES, Reg.defKP_BELL, Reg.defKP_PORT_STATUS, Reg.defKP_POOL, Reg.defKP_GRANT, Reg.defCAP_KEEPER]
  | .pv => [Reg.defPV_SEL, Reg.defPV_SPAD_CTL, Reg.defPV_SPAD_REPAIR, Reg.defPV_SPAD, Reg.defPV_FAB_SEL, Reg.defPV_FAB_CTL, Reg.defPV_FAB_STATUS, Reg.defPV_GEN] ++
      [Reg.defPV_AVE_ACTIVE, Reg.defPV_LINK_CNT, Reg.defPV_FP_ROUTE, Reg.defPV_CLK_STATUS, Reg.defPV_CLK_CNT, Reg.defPV_CLK_CFG, Reg.defPV_CLK_MARGIN, Reg.defPV_REG_STATUS] ++
      [Reg.defPV_REG_CNT, Reg.defPV_THERM, Reg.defWD_PAV_STATUS, Reg.defWD_PAV_CNT, Reg.defWD_CORE, Reg.defPV_AVE_STAGED, Reg.defPV_FP_STAGE]
  | .ora => [Reg.defOR_SEL, Reg.defOR_STATUS, Reg.defOR_LINK_STATUS, Reg.defOR_LINK_CNT, Reg.defOR_MEM_CTL, Reg.defOR_MEM_STATUS, Reg.defOR_MEM_CNT, Reg.defOR_ENG_CMD] ++
      [Reg.defOR_ENG_STATUS, Reg.defOR_ENG_CNT, Reg.defOR_ARENA, Reg.defOR_LAYER_SEL, Reg.defOR_LAYER_PARTIAL, Reg.defOR_LAYER_W, Reg.defCAP_ORANGERY]
  | .gd => [Reg.defGD_SEL, Reg.defGD_STATUS, Reg.defGD_ORIGIN, Reg.defGD_GRANT, Reg.defGD_GRANT_STAGED, Reg.defGD_RELIEF, Reg.defGD_CHAN, Reg.defGD_CFG] ++
      [Reg.defGD_PAV, Reg.defGD_MAP_SEL, Reg.defGD_MAP_DATA, Reg.defGD_WIN_A, Reg.defGD_WSTAGE_A, Reg.defGD_WIN_B, Reg.defGD_WSTAGE_B]
  | .ln => [Reg.defLN_SEL, Reg.defLN_HOST_STATUS, Reg.defLN_HOST_MAC, Reg.defLN_HOST_CFG, Reg.defLN_HOST_MAC_CNT, Reg.defLN_HOST_FEC_CNT, Reg.defLN_ITURN_CNT, Reg.defLN_ITURN_STAT] ++
      [Reg.defLN_PEER_STATUS, Reg.defLN_PEER_CNT, Reg.defLN_SPARE_STATUS, Reg.defLN_LANT_STATUS]
  | .ih => [Reg.defIH_STATUS, Reg.defIH_CAPACITY, Reg.defIH_WEAR, Reg.defIH_CNT, Reg.defIH_JOB]
  | .pm => [Reg.defPM_ID, Reg.defPM_STATUS, Reg.defPM_ROUND, Reg.defPM_MBX_SEL, Reg.defPM_MBX_CTL, Reg.defPM_MBX_STATUS, Reg.defPM_MBX_IN, Reg.defPM_MBX_OUT] ++
      [Reg.defPM_MBX_CNT]
  | .sd => [Reg.defSD_COUNT, Reg.defSD_EPOCH, Reg.defSD_NEXT_CHIME, Reg.defSD_SNAP_T, Reg.defSD_TIME, Reg.defSD_OFFSET, Reg.defSD_STAGE, Reg.defSD_CNT]
  | .pw => [Reg.defPW_STATUS, Reg.defPW_CAP, Reg.defPW_INPUT, Reg.defPW_AVG, Reg.defPW_CNT, Reg.defPW_THERM, Reg.defPW_CONV, Reg.defPW_PLOT]
  | .wd => [Reg.defWD_STATUS, Reg.defWD_INC_LAST, Reg.defWD_INC_ACK, Reg.defWD_AVAIL, Reg.defWD_PATROL, Reg.defWD_CNT, Reg.defWD_GARDEN]
  | .cap => [Reg.defCAP_UNITS]

end Sys2Proof.Machine
end

