-- ==== Sys2Proof/Machine/State.lean ====
section
/-! DEFINITION. The state of the module as plain data: every register file, queue, store, counter, mode and pin the
spec names, the queue of waiting commands, the reasons a step stops, and the state right after reset.
A field of sparse kind (FMap) that lists nothing stands for units all at their reset values. -/

namespace Sys2Proof.Machine

/-- Why the module's behaviour ends. -/
inductive Fault where
  /-- Raised by the busbar commands for a voltage beyond the absolute maximum ratings, where R630 says the
  module's behaviour is not defined. Safe: nothing is claimed of the module after it. -/
  | absoluteMaximum
  deriving DecidableEq, Repr

/-- Why a command has no meaning. -/
inductive Refusal where
  /-- An arm of exec that has no meaning yet. Safe. -/
  | notModelled (mnemonic : String)
  deriving DecidableEq, Repr

/-- One core site: keeper, cubes, chain unit, porter, credit unit, scratchpad, local ends of the fabric. -/
structure Core where
  /-- KP_ registers by offset (R144) -/
  regs : RegFile := []
  /-- s0-s31, a0-a15, p0-p7 (R91) -/
  s : FMap Word := []
  a : FMap Addr := []
  p : FMap Bool := []
  /-- issue cycle at which each scalar register (0-31), address register (32-47), predicate (48-55) is ready (R104) -/
  ready : FMap Nat := []
  /-- program store by word index, and its words with a double-bit or single-bit error (R92, R93) -/
  pstore : FMap W32 := []
  pstoreBad : List Nat := []
  pstoreCe : List Nat := []
  /-- register file with an uncorrectable error (R141, cause 0x6) -/
  regBad : Bool := false
  /-- corrected fetches (R93) -/
  pstoreCorr : Nat := 0
  /-- scratchpad bytes by offset (R147); poisoned and single-bit-error 8 B words by word index (R175-R178) -/
  spad : FMap Byte := []
  spadUe : List Nat := []
  spadCe : List Nat := []
  /-- corrected words waiting for their write-back (R176) -/
  spadWb : List Nat := []
  /-- scrub passes that corrected a line, by bank x 6,144 + line; lines that have come to hold an uncorrectable word (R181) -/
  spadScrub : FMap Nat := []
  spadWeak : List Nat := []
  /-- the scrub period of the last pass, plus one (R179) -/
  scrubbed : Nat := 0
  /-- lines redirected to spares (bank x 6,144 + line) in the order of their repairs, lines with a repair in progress (R181) -/
  spadRedir : List Nat := []
  spadCopying : List Nat := []
  /-- banks with no spare line left for a repair (R182); spare bond lanes in use, by bank x 2 + port (R180) -/
  spadExhausted : List Nat := []
  lanes : FMap Nat := []
  /-- the wait in progress (R118-R121) -/
  wait : Wait := {}
  /-- the postmaster has recorded the keeper's fault (R141) -/
  faultSeen : Bool := false
  /-- program order of issue: next number (R108) -/
  seq : Nat := 0
  cubeQ : List QSlot := []
  chainQ : List QSlot := []
  portQ : List QSlot := []
  cubeRun : Option CubeRun := none
  /-- the check of the chain at the head of the queue: not made, or whether it broke a rule (R83) -/
  chainBad : Option Bool := none
  chainRun : Option ChainRun := none
  /-- chains whose beats are done and whose completion is to come, oldest first (R82, R84) -/
  chainTail : List ChainRun := []
  portRun : List PortRun := []
  /-- accumulators: key cube x 4,096 + tile x 64 + element (R32); tiles tagged INT32, poisoned (R35) -/
  acc : FMap W32 := []
  accInt : List Nat := []
  accPoison : List Nat := []
  /-- single-bit errors corrected in accumulators and in tallies and envelope slots (R35, R87) -/
  accCe : Nat := 0
  tallyCe : Nat := 0
  /-- stationary planes: key (cube x 2 + plane) x 64 + k x 8 + j (R24); which plane is front -/
  planes : FMap (BitVec 16) := []
  front : List Bool := [false, false]
  /-- tallies: key tally x 64 + lane (R70); poisoned tallies (R87) -/
  tally : FMap W32 := []
  tallyPoison : List Nat := []
  env : FMap EnvSlot := []
  /-- draw count of the stochastic-rounding generator (R74) -/
  draws : Word := 0
  pools : FMap Pool := []
  grants : FMap Slot := []
  /-- closed envelope records waiting for the warden (R79, R540) -/
  outbox : List (List Word) := []
  /-- packets and bundles this core sends, before injection (R208) -/
  out : List Packet := []
  aveOut : List (Nat × Bundle) := []
  /-- packets delivered to the local port and not yet acted on; payload bytes of an avenue beyond an ARECV's count -/
  inbox : List Packet := []
  aveIn : FMap (List Byte) := []
  /-- the requester ranked directly below the keeper in the next cycle: 0 porter, 1 remote port (R157) -/
  promoted : List Nat := []
  deriving DecidableEq, Repr

/-- One pavilion: its register set (PV_, WD_), thoroughfare, compute domain, warden and patrol engine. -/
structure Pav where
  regs : RegFile := []
  /-- garden owning it (R280) -/
  owner : Option Nat := none
  /-- thoroughfare powered (R227) -/
  powered : Bool := false
  /-- clock: the sundial count at which the input stopped, the source chosen and not yet locked to, dark (R444) -/
  hold : Nat := 0
  newSource : Option Nat := none
  dark : Bool := true
  /-- ticks by which the sundial copy stands behind the master, negative when it is ahead; whether it holds until the master reaches it (R452) -/
  sdLag : Int := 0
  sdHold : Bool := false
  /-- map store and window table, active and staged (R208, R287, R291) -/
  map : FMap Nat := []
  mapStaged : FMap Nat := []
  windows : List Window := []
  windowsStaged : List Window := []
  /-- SEQ of entries, by entry index x 2 for a source and x 2 + 1 for a delivery entry (R216) -/
  seqs : FMap Nat := []
  /-- links marked down, by core index x 4 + side (R230, R447) -/
  downLinks : List Nat := []
  /-- failed alignments per core index x 4 + side (R447) -/
  alignFails : FMap Nat := []
  /-- input queues, one flit an entry: footpath key ((core index x 5 + port) x 4 + slice) x 2 + class, avenue key
  (core index x 5 + port) x 4 + slice (R191) -/
  fq : FMap (List Flit) := []
  aq : FMap (List AveFlit) := []
  /-- by input queue: the next flit of a packet or bundle that a core or an endpoint is sending into it -/
  entering : FMap Flit := []
  aveEntering : FMap AveFlit := []
  /-- by footpath queue: the output and slice its packet under way holds, and the last of its flits to go (R194); queues whose packet or
  bundle is being discarded (R219) -/
  holds : FMap (Nat × Nat × Flit) := []
  dropping : List Nat := []
  aveDropping : List Nat := []
  /-- the input served last, plus one, by output slice and class: ((core index x 5 + output) x 4 + slice) x 2 + class (R194) -/
  rotate : FMap Nat := []
  /-- gate buffers of the links from other pavilions, oldest entry first, by core index x 5 + port; those whose newest entry is of the sender's
  present cycle (R198) -/
  gates : FMap (List GateEntry) := []
  gateOpen : List Nat := []
  /-- the slice a stile served last, plus one, by core index x 5 + output (R186) -/
  stile : FMap Nat := []
  /-- source entries with a drain marker to inject, by entry index (R223) -/
  markers : List Nat := []
  /-- planned index, contributions not shown in a register, output behind VSET (R477, R476) -/
  planned : Nat := 0
  suspectIdx : Nat := 0
  unownedIdx : Nat := 0
  capIdx : Nat := 0
  pendingIdx : Option Nat := none
  /-- switch-off in progress; power-on deferred (R487) -/
  switchingOff : Bool := false
  powerOnWait : Bool := false
  /-- stretched periods of the round (R449) -/
  stretchRound : Nat := 0
  /-- the unit's own T_HOT, °C (R497, R653); since when every sample has been at or above it, and below it by 5 °C -/
  tHot : Nat := 100
  hotSince : Option Nat := none
  coolSince : Option Nat := none
  /-- warden: envelope table, seal marks, rotation (R541, R546) -/
  envelopes : List Envelope := []
  sealMark : Bool := false
  beforeMark : FMap Nat := []
  warden : Nat := 0
  /-- patrol engine: running segment's core and segment, queued events of that core (R557) -/
  segRun : Option (Nat × Nat) := none
  queued : List (Nat × Nat) := []
  deriving DecidableEq, Repr

/-- A site's patrol state (R555-R563): segments passed, start and completion, deadline, marks, probation. -/
structure Site where
  retired : Bool := false
  /-- segments passed in the current patrol -/
  segs : List Nat := []
  began : Nat := 0
  lastDone : Nat := 0
  /-- start of the last completed patrol; when the patrol in progress last began anew; start of the running segment -/
  doneBegan : Option Nat := none
  restart : Nat := 0
  segAt : Nat := 0
  received : Nat := 0
  marks : List Nat := []
  suspect : Bool := false
  /-- a suspect event not yet acted on (R561) -/
  event : Bool := false
  targeted : Bool := false
  probation : Option Nat := none
  forced : Option Nat := none
  deriving DecidableEq, Repr

/-- One orangery and its memory device (R233-R279). -/
structure Ora where
  regs : RegFile := []
  /-- 64 B blocks with a correctable error, with an uncorrectable one that no read has found, poisoned; corrected ones awaiting their
  write-back: by block of the device (R244-R246) -/
  ce : List Nat := []
  bad : List Nat := []
  poison : List Nat := []
  wb : List Nat := []
  /-- the scrub period of the last pass, plus one (R247) -/
  scrubbed : Nat := 0
  /-- scrub passes that corrected a block of a row; rows that held an uncorrectable block; retired rows with their
  spares (R248) -/
  rowScrub : FMap Nat := []
  rowBad : List Nat := []
  rowRetired : FMap Nat := []
  /-- granule sums by slot, written masks by local 128 B block, freeze-mask bytes by slot x 128 + byte (R263) -/
  sums : FMap Word := []
  written : FMap Nat := []
  masks : FMap Byte := []
  /-- by garden: late sign writes since the last ARM, COMMIT or DISCARD; a deferred DISARM; the step scale (R268) -/
  lateSince : FMap Nat := []
  deferDisarm : List Nat := []
  scale : FMap W32 := []
  /-- channel checks (R242): next channel in rotation, the round of the rotation's last check plus one, each channel's temperature at its
  last check, channels to be checked first with the round of the report, the temperatures of the dies (R240); bandwidth limit 0 none, 1
  half, 2 a quarter (R499) -/
  nextCh : Nat := 0
  checked : Nat := 0
  /-- the channel held for a check or a retrain; OR_MEM_STATUS.HELD shows the low four bits of it plus 1 (R242, log entry 34) -/
  held : Option Nat := none
  retraining : Bool := false
  chTemp : List Int := []
  early : List (Nat × Nat) := []
  dieTemp : List Int := []
  limit : Nat := 0
  /-- packets that have reached the orangery, in arrival order (R235) -/
  inbox : List Packet := []
  deriving DecidableEq, Repr

/-- What a run of a step failed on (R554): sites charged with failing records, keeper faults as logical core and PC,
uncorrectable scratchpad words as logical core and word, uncorrectable blocks as orangery and block. -/
structure Fails where
  sites : List Nat := []
  faults : List (Nat × Nat) := []
  words : List (Nat × Nat) := []
  blocks : List (Nat × Nat) := []
  deriving DecidableEq, Repr

/-- One garden (R280-R316) and its step state (R342, R548-R573). -/
structure Gdn where
  regs : RegFile := []
  prot : Protection := {}
  /-- planned divider index (R302, R440) -/
  divider : Nat := 0
  image : Option Image := none
  measure : List Byte := []
  chain : List Byte := []
  /-- logical core to physical core (R287) -/
  place : FMap Nat := []
  /-- routed avenues; reliefs each logical core has undergone (R313) -/
  trees : List Tree := []
  reliefs : FMap Nat := []
  lastSeal : Nat := 0
  /-- the step's COMMIT has been written and its seal not answered; a taint raised meanwhile (R549) -/
  committing : Bool := false
  nextTaint : Nat := 0
  sealTick : Nat := 0
  runStart : Nat := 0
  startedAt : Nat := 0
  restoreStep : Nat := 0
  hang : Option Hang := none
  /-- the watchdog: last restart and whether it is running (R569) -/
  wdFrom : Nat := 0
  wdOn : Bool := false
  fails : Fails := {}
  prevFails : Fails := {}
  /-- recovery decided and not begun: cause and strength (R568) -/
  recover : Option (Nat × Nat) := none
  /-- logical cores to be moved; those of them to be loaded from the image (R309, R554) -/
  toMove : List Nat := []
  fromImage : List Nat := []
  /-- contexts poisoned whose owning letter is still to come, with its channel (R573); the channel of GARDEN_START -/
  owed : List (Word × Nat) := []
  startCh : Nat := 64
  /-- counted time under way (R582); the recovery decided is one whose time is not counted -/
  down : Option Down := none
  uncounted : Bool := false
  /-- a relief no variant could place: the `arg` and the CAUSE of its change, for the attempts that follow (R310) -/
  stuck : Option (Nat × Nat) := none
  deriving DecidableEq, Repr

/-- One mailbox channel (R322-R328, R346-R348). -/
structure Chan where
  regs : RegFile := []
  bound : Nat := 0
  session : Nat := 0
  role : Nat := 0
  inSlots : List Slotted := []
  outSlots : List Receipt := []
  heldOut : List Receipt := []
  forming : List Word := []
  outPos : Nat := 0
  lastSeq : Option Nat := none
  recent : List (Nat × Option Receipt) := []
  /-- this path's copies of the select registers (R6, R10, R346) -/
  pvSel : Word := 0
  orSel : Word := 0
  gdSel : Word := 0
  lnSel : Word := 0
  mbxSel : Option Nat := none
  deriving DecidableEq, Repr

/-- A port of a lantern (host, peer or spare) or a lantern itself (R394, R417): its registers; of a peer port, the module and
port of its last partner, the source address and the count of the last valid PROBE, the frames sent, oldest first. -/
structure Port where
  regs : RegFile := []
  partner : Option (Word × Nat) := none
  partnerMac : Nat := 0
  lastProbe : Nat := 0
  frames : List PeerTx := []
  rx : Nat := 0
  deriving DecidableEq, Repr

/-- A garden, the cores a load writes, the engines' private state for the plan it had and whether that was armed, as they stood
before the load (R307). During a relief: sites whose contents are still to be copied, as they stood before being overwritten (R312). -/
structure Saved where
  gdn : Gdn := {}
  cores : List (Nat × Core) := []
  kept : Option Checkpoint := none
  armed : Bool := false
  deriving DecidableEq, Repr

/-- The postmaster (R317-R339): what is not in PM_ registers. -/
structure Post where
  accepted : List Accepted := []
  jobs : List Job := []
  saved : FMap Saved := []
  stages : List Stage := []
  /-- DISCARD messages on their way: unit and stage ID -/
  discarded : List (Nat × Nat) := []
  nextStage : Nat := 0
  nextJob : Nat := 1
  scanFrom : Nat := 0
  nextSession : Nat := 1
  nextParcel : Nat := 1
  postmarks : Nat := 0
  markRound : Nat := 0
  /-- the take or restore the icehouse is at (R428) -/
  iceJob : Option Nat := none
  capE : Nat := 0
  capReserve : Nat := 0
  shorts : Nat := 0
  /-- the rounds of the last sweep, second scan and decisions, each plus one (R320) -/
  swept : Nat := 0
  scanned : Nat := 0
  decided : Nat := 0
  /-- when the postmaster began to restart (R319); the dark pavilions its footpath tables route around (R211) -/
  restartAt : Nat := 0
  routed : List Nat := []
  /-- packets that have reached the postmaster's endpoint (R188) -/
  inbox : List Packet := []
  /-- counted time since the start, and that before it since power-on, in µs (R582) -/
  counted : List Counted := []
  countedBefore : Nat := 0
  deriving DecidableEq, Repr

/-- The host bridge (R353-R393). -/
structure Bridge where
  sessions : FMap Session := []
  parcels : FMap Parcel := []
  /-- ended sessions and the reason their frames are answered with (R376) -/
  ended : FMap Nat := []
  /-- source addresses answered with GONE in a round, and that round -/
  goneSent : List Nat := []
  goneRound : Nat := 0
  /-- frames sent, oldest first: the module's output -/
  sentFrames : List TxFrame := []
  /-- frames of other protocols sent, oldest first -/
  answers : List Answer := []
  /-- frames that a paused priority keeps from being sent (R358), oldest first -/
  waiting : List TxFrame := []
  answersWaiting : List Answer := []
  /-- a CE mark has come on a frame of the public session since its last frame (R360, R363) -/
  publicCe : Bool := false
  /-- parcel data awaiting DEVWRITE acknowledgements; frames being built from READ packets -/
  dataIn : List DataIn := []
  builds : List Build := []
  nextRet : Nat := 0
  inbox : List Packet := []
  /-- the bridge's own copies of the gardens' windows and grants (R653) -/
  prot : FMap Protection := []
  deriving DecidableEq, Repr

/-- The PTP and SYNC_IN discipline (R361, R362, R453-R456): offsets in range in a row, the stamp of the last accepted
SYNC_IN edge, the count of the last Sync or edge or of the source's chime, whether an edge has been accepted since it; the
data set of the master followed, where its last Sync came from, the Delay_Req interval and departure, the path delay and the last Sync's times. Stamps are
in 1/16 tick, times of the master and delays in 1/16 ns. -/
structure Discipline where
  inRange : Nat := 0
  lastEdge : Option Int := none
  lastSync : Nat := 0
  firstEdge : Bool := true
  master : Option (List Nat) := none
  syncPath : Path := {}
  delayInterval : Nat := 100000000
  delayAt : Nat := 0
  delaySent : Option Int := none
  pathDelay : Int := 0
  t1 : Int := 0
  t2 : Int := 0
  deriving DecidableEq, Repr

/-- The icehouse (R418-R438, R527-R538, R581, R586-R591): `dirSeqs` are the sequence numbers of the directory's copies, `slots` the
firmware put into a slot since manufacture, `slotLost` the slots a stripe of which is lost. -/
structure Ice where
  regs : RegFile := []
  checkpoints : List Checkpoint := []
  incidents : List Incident := []
  repairs : List Repair := []
  freq : FMap Freq := []
  config : FMap Word := []
  dirSeqs : List Nat := [1, 2, 3, 4]
  activeSlot : Nat := 0
  trial : Bool := false
  tries : Nat := 0
  slots : FMap Firmware := []
  slotLost : List Nat := []
  staging : FMap Byte := []
  stagingLen : Nat := 0
  stagingDone : Bool := false
  ownerKey : List Byte := []
  /-- blocks erased since manufacture (R423); the next checkpoint ID, never used before (R427) -/
  erased : Nat := 0
  nextCkpt : Nat := 1
  /-- the highest incident number acknowledged (R581) -/
  acked : Nat := 0
  softBlocks : List Nat := []
  grown : List Nat := []
  spares : FMap Nat := []
  diesLost : List Nat := []
  dieTemp : FMap Nat := []
  lostStripes : List Nat := []
  written : FMap Nat := []
  logCap : Nat := 1073741824
  trained : List Nat := []
  /-- the refresh period of the last reading of every stripe, plus one (R425) -/
  refreshed : Nat := 0
  deriving DecidableEq, Repr

/-- Power delivery (R468-R500): what is not in PW_ registers. -/
structure Power where
  /-- units without their edge regulator: orangery n, lantern 16 + n, postmaster 32, icehouse 33, lodge ROM 34, sundial master 35
  (R469, R471) -/
  edgeFailed : List Nat := []
  /-- the 500 µs after the last source released, since when; since when the alert hold is in force, halvings in it (R494, R495); vertical modules
  whose alert is asserted (R493) -/
  holdCount : Bool := false
  releasedAt : Nat := 0
  heldFrom : Nat := 0
  halvings : Nat := 0
  alerting : List Nat := []
  /-- means of the rounds, newest first, and the loop's count of quiet rounds (R490) -/
  history : List Nat := []
  quiet : Nat := 0
  /-- the round of the loop's last run, plus one -/
  looped : Nat := 0
  /-- stage one stopped, or the module stopped (R471, R472) -/
  stopped : Bool := true
  deriving DecidableEq, Repr

/-- The start in progress or the last one (R503-R526, R539): its kind, the stage that comes next, what bring-up finds, whether
stage 4 has ended; the kind of a reset accepted and not begun; RST_N accepted and low; whether the busbar is absent. -/
structure Start where
  kind : Nat := 0
  stage : Nat := 0
  running : Bool := false
  edgeDone : Bool := false
  found : BootFindings := {}
  want : Option Nat := none
  rstLow : Bool := false
  busbarAbsent : Bool := true
  reports : FMap Report := []
  holdEnable : Bool := false
  holdStage : Nat := 0
  lodgeFallback : Bool := false
  began : Nat := 0
  edgeBegan : Nat := 0
  rstHold : Bool := false
  records : Option (List Repair × FMap Freq) := none
  deriving DecidableEq, Repr

/-- The franking unit (R317, R590-R595) and its lock. -/
structure Frank where
  lockHash : List Byte := []
  lockFwId : Word := 0
  lockSvn : Nat := 0
  lockKeyid : Nat := 0
  lockSlot : Nat := 0
  lockTrial : Bool := false
  lockRom : Nat := 0
  captured : Bool := false
  identity : Bool := false
  deriving DecidableEq, Repr

/-- Pins (R631): inputs as driven, outputs as asserted. -/
structure Pins where
  rstN : Bool := true
  pwrAlertN : Bool := true
  syncIn : Bool := false
  refclk : Bool := true
  pgood : Bool := false
  thermTrip : Bool := false
  deriving DecidableEq, Repr

/-- Test access (R351, R539, R606). -/
structure Test where
  postData : Word := 0
  postDone : Bool := false
  ownerWords : FMap Word := []
  ownerResult : Nat := 0
  clrResult : Nat := 0
  pavResult : Nat := 0
  bootOut : List Byte := []
  deriving DecidableEq, Repr

/-- A swap of a peer port, or of host port h as 0x80 + h, to a spare port (R414): `phase` 0 while its partner or link is
waited for, 1 once found, 2 once the spare carries the port. -/
structure Swap where
  port : Nat
  spare : Nat
  auto : Bool
  phase : Nat
  began : Nat
  job : Nat
  deriving DecidableEq, Repr

/-- The whole module. -/
structure State where
  cores : FMap Core := []
  pavs : FMap Pav := []
  sites : FMap Site := []
  oras : FMap Ora := []
  gardens : FMap Gdn := []
  chans : FMap Chan := []
  hostPorts : FMap Port := []
  peerPorts : FMap Port := []
  sparePorts : FMap Port := []
  lanterns : FMap Port := []
  cartridges : FMap Cartridge := []
  swaps : List Swap := []
  sends : List PeerEntry := []
  recvs : List PeerEntry := []
  /-- packets an endpoint offers to the fabric, by destination code -/
  endOut : FMap (List Packet) := []
  /-- ingress buffers of the peer ports, by port x 8 + priority: attach router, slice, bundle (R402, R405) -/
  endAve : FMap (List (Nat × Nat × Bundle)) := []
  /-- slow-tier bytes by device address (R8) -/
  slow : FMap Byte := []
  /-- bundles that have reached the peer bridges, by bridge, with attach router x 4 + slice (R401) -/
  bridgeOut : FMap (List (Nat × Bundle)) := []
  /-- acknowledgements and notices delivered to the host bridge -/
  bridge : Bridge := {}
  pm : RegFile := []
  sd : RegFile := []
  pw : RegFile := []
  wd : RegFile := []
  post : Post := {}
  disc : Discipline := {}
  ice : Ice := {}
  power : Power := {}
  start : Start := {}
  frank : Frank := {}
  pins : Pins := {}
  test : Test := {}
  /-- answers of the SMBus port, oldest first: a value read, or none for a NACK (R349, R350) -/
  smbOut : List (Option Word) := []
  /-- generation tags held by the endpoints: orangeries, host bridge, peer bridges, by unit x 4 + garden (R218) -/
  tags : FMap (BitVec 8) := []
  /-- stage records of each chime unit: 0-431 thoroughfares, 432-447 orangeries, 448 host bridge, 449-452 peer
  bridges, 453 power controller, 454 sundial master (R457, R653) -/
  records : FMap (List StageRec) := []
  /-- shadows by block x 2^32 + instance x 256 + word (R613), and the chime units without valid shadows (R616) -/
  shadows : FMap Word := []
  shadowInvalid : List Nat := []
  /-- configuration copies: in force and staged (R534) -/
  cfgActive : FMap Word := []
  cfgStaged : FMap Word := []
  /-- address errors counted against each garden (R9) -/
  addrErr : FMap Nat := []
  /-- the sundial source: locked to REFCLK, in holdover -/
  srcLocked : Bool := false
  srcHoldover : Bool := false
  /-- incidents and findings that units have met and the postmaster's sweep has not yet polled (R17, R320) -/
  met : List Incident := []
  metRepairs : List Repair := []
  boot : Nat := 0
  nextIncident : Nat := 1
  /-- rounds the busbar has stayed between 60 and 62 V since the last incident (R627) -/
  highSince : Option Nat := none
  /-- bells arrived: garden x 16 + bell to arrivals are in KP_BELL; releases on their way (garden x 16 + bell, core) -/
  bellRel : List (Nat × Nat) := []
  /-- slow-tier ranges released by a window's removal and not yet zeroed (R299) -/
  toZero : List (Nat × Nat) := []
  /-- the model's own count of free values drawn (not the spec's) -/
  freeCtr : Nat := 0
  /-- the commands that wait, first in first out -/
  pending : List Instr := []
  deriving DecidableEq, Repr

/-- The module right after reset: every register at the value its table gives (an unlisted register reads that
value), every store empty, the busbar absent, no command waiting. -/
def State.reset : State := {}

end Sys2Proof.Machine
end

