-- ==== Sys2Proof/Machine/Ops.lean ====
section
/-! DEFINITION. The named operations over the state that the meanings share: registers by field, the units and their
places on the die, scratchpad words with their error marks, incidents and taints. -/

namespace Sys2Proof.Machine

/-- What a command answers. -/
abbrev Res := Host.Outcome State Fault Refusal

/-! ### Registers by field (R12-R14) -/

/-- A register's word right after reset. -/
def resetWordOf (d : RDef) : Nat := d.flds.foldl (fun a f => a + f.rst % 2 ^ f.w * 2 ^ f.lo) 0

/-- Whether a register, or one of its array, stands at an offset. -/
def regCovers (d : RDef) (off : Nat) : Bool :=
  d.off ≤ off && (off - d.off) % d.stride = 0 && (off - d.off) / d.stride < d.count

/-- The register at an offset. -/
def findReg (off : Nat) : List RDef → Option RDef
  | [] => none
  | d :: ds => if regCovers d off then some d else findReg off ds

/-- What a register of a block holds until it is written. -/
def regReset (b : Blk) (off : Nat) : Word :=
  match findReg off (regDefs b) with
  | none => 0
  | some d => BitVec.ofNat 64 (resetWordOf d)

def getReg (b : Blk) (off : Nat) (m : RegFile) : Word := Fm.get (regReset b off) off m
def setReg (b : Blk) (off : Nat) (v : Word) (m : RegFile) : RegFile := Fm.set (regReset b off) off v m

/-- Bits [lo + w - 1 : lo] of a word. -/
def bitsOf (x : Word) (lo w : Nat) : Nat := x.toNat / 2 ^ lo % 2 ^ w

/-- A word with bits [lo + w - 1 : lo] replaced. -/
def withBits (x : Word) (lo w v : Nat) : Word :=
  BitVec.ofNat 64 (x.toNat - x.toNat / 2 ^ lo % 2 ^ w * 2 ^ lo + v % 2 ^ w * 2 ^ lo)

/-- A register field. -/
def getF (f : Fld) (m : RegFile) : Nat := bitsOf (getReg f.blk f.off m) f.lo f.w
def setF (f : Fld) (v : Nat) (m : RegFile) : RegFile := setReg f.blk f.off (withBits (getReg f.blk f.off m) f.lo f.w v) m

/-- A counter field that stops at its largest value. -/
def incF (f : Fld) (n : Nat) (m : RegFile) : RegFile := setF f (min (getF f m + n) (2 ^ f.w - 1)) m

def flagF (f : Fld) (m : RegFile) : Bool := getF f m = 1

/-! ### Writes and reads under the access codes (R13, R14) -/

/-- What a write leaves in one field: RW takes the value, W1C clears the bits written as 1, RO, RC and WO keep. -/
def fieldWritten (d : FDef) (old v : Nat) : Nat :=
  match d.acc with
  | .rw => v
  | .w1c => old &&& ((2 ^ d.w - 1) ^^^ v)
  | .ro | .rc => old
  | .wo => 0

/-- What a read shows of one field. -/
def fieldShown (d : FDef) (old : Nat) : Nat := match d.acc with | .wo => 0 | _ => old

/-- What a read leaves in one field: RC clears. -/
def fieldAfterRead (d : FDef) (old : Nat) : Nat := match d.acc with | .rc => 0 | _ => old

/-- A word with every field of a register mapped; bits outside the fields are reserved and zero (R13). -/
def mapFields (ds : List FDef) (g : FDef → Nat → Nat) (x : Word) : Word :=
  ds.foldl (fun a d => withBits a d.lo d.w (g d (bitsOf x d.lo d.w))) 0

/-- A register write under the access codes: an offset no register defines ignores it (R10). -/
def busWrite (b : Blk) (off : Nat) (v : Word) (m : RegFile) : RegFile :=
  match findReg off (regDefs b) with
  | none => m
  | some d => setReg b off (mapFields d.flds (fun f old => fieldWritten f old (bitsOf v f.lo f.w)) (getReg b off m)) m

/-- A register read: what it shows, and the registers after it. -/
def busRead (b : Blk) (off : Nat) (m : RegFile) : Word × RegFile :=
  match findReg off (regDefs b) with
  | none => (0, m)
  | some d => (mapFields d.flds fieldShown (getReg b off m), setReg b off (mapFields d.flds fieldAfterRead (getReg b off m)) m)

/-! ### Time and configuration (R12, R450, R528) -/

/-- Ticks of 10 ns. -/
def ticksPerUs : Nat := 100
def ticksPerMs : Nat := 100000
def ticksPerSec : Nat := 100000000
def ticksPerMin : Nat := 6000000000

def cfgPatrolMin : Nat := 0x0001
def cfgCkptMin : Nat := 0x0002
def cfgWatchdogMs : Nat := 0x0003
def cfgIdleS : Nat := 0x0004
def cfgIhRefresh : Nat := 0x0005
def cfgMarginMin : Nat := 0x0006
def cfgStretchLimit : Nat := 0x0007
def cfgTHot : Nat := 0x0008
def cfgSmbAddr : Nat := 0x0009
def cfgPtpDomain : Nat := 0x000A
def cfgSwapAuto : Nat := 0x000B
def cfgSwapFec : Nat := 0x000C
def cfgSwapTx : Nat := 0x000D
/-- Field n of a host port; the VLAN of a peer port. -/
def cfgHost (h n : Nat) : Nat := 0x0100 + 0x10 * h + n
def cfgPeerVlan (p : Nat) : Nat := 0x0200 + p

/-- The factory address of a host port: the spec gives no value. -/
def factoryMac (h : Nat) : Nat := Config.factoryMac h

/-- The default of a configuration field (R528). -/
def cfgDefault (f : Nat) : Word :=
  match f with
  | 0x0001 => 20
  | 0x0002 => 30
  | 0x0003 => 10000
  | 0x0004 => 30
  | 0x0005 => 24
  | 0x0006 => 4
  | 0x0007 => 12452
  | 0x0008 => 100
  | 0x0009 => 0x5C
  | 0x000B => 1
  | 0x000C => 64
  | 0x000D => 30
  | 0x0100 => BitVec.ofNat 64 (factoryMac 0)
  | 0x0110 => BitVec.ofNat 64 (factoryMac 1)
  | 0x0102 | 0x0112 => 0x6000
  | 0x0103 | 0x0113 => 0x08
  | 0x0104 | 0x0114 => 47901
  | _ => 0

/-! ### Places on the die (R7) -/

def coreX (c : Nat) : Nat := c % 144
def coreY (c : Nat) : Nat := c / 144
def coreId (x y : Nat) : Nat := y * 144 + x
def pavOf (c : Nat) : Nat := coreY c / 8 * 18 + coreX c / 8
/-- The core index within the pavilion. -/
def coreIdx (c : Nat) : Nat := coreY c % 8 * 8 + coreX c % 8
def coreAt (p idx : Nat) : Nat := coreId (p % 18 * 8 + idx % 8) (p / 18 * 8 + idx / 8)
/-- The cores of a pavilion. -/
def coresOf (p : Nat) : List Nat := (List.range 64).map (coreAt p)
def plotOf (p : Nat) : Nat := p / 18 / 4 * 6 + p % 18 / 3
/-- The pavilions of a plot. -/
def plotPavs (q : Nat) : List Nat :=
  (List.range 4).flatMap fun dy => (List.range 3).map fun dx => (q / 6 * 4 + dy) * 18 + q % 6 * 3 + dx

/-! ### Units of the state -/

namespace State
variable (s : State)

def core (c : Nat) : Core := Fm.get {} c s.cores
def setCore (c : Nat) (k : Core) : State := { s with cores := Fm.set {} c k s.cores }
def updCore (c : Nat) (f : Core → Core) : State := s.setCore c (f (s.core c))
def pav (p : Nat) : Pav := Fm.get {} p s.pavs
def setPav (p : Nat) (v : Pav) : State := { s with pavs := Fm.set {} p v s.pavs }
def updPav (p : Nat) (f : Pav → Pav) : State := s.setPav p (f (s.pav p))
def site (c : Nat) : Site := Fm.get {} c s.sites
def updSite (c : Nat) (f : Site → Site) : State := { s with sites := Fm.set {} c (f (s.site c)) s.sites }
def orang (o : Nat) : Ora := Fm.get {} o s.oras
def setOra (o : Nat) (v : Ora) : State := { s with oras := Fm.set {} o v s.oras }
def updOra (o : Nat) (f : Ora → Ora) : State := s.setOra o (f (s.orang o))
def garden (g : Nat) : Gdn := Fm.get {} g s.gardens
def updGarden (g : Nat) (f : Gdn → Gdn) : State := { s with gardens := Fm.set {} g (f (s.garden g)) s.gardens }
def chan (n : Nat) : Chan := Fm.get {} n s.chans
def updChan (n : Nat) (f : Chan → Chan) : State := { s with chans := Fm.set {} n (f (s.chan n)) s.chans }
def hostPort (n : Nat) : Port := Fm.get {} n s.hostPorts
def updHostPort (n : Nat) (f : Port → Port) : State := { s with hostPorts := Fm.set {} n (f (s.hostPort n)) s.hostPorts }
def peerPort (n : Nat) : Port := Fm.get {} n s.peerPorts
def updPeerPort (n : Nat) (f : Port → Port) : State := { s with peerPorts := Fm.set {} n (f (s.peerPort n)) s.peerPorts }
def sparePort (n : Nat) : Port := Fm.get {} n s.sparePorts
def updSparePort (n : Nat) (f : Port → Port) : State := { s with sparePorts := Fm.set {} n (f (s.sparePort n)) s.sparePorts }
def lantern (n : Nat) : Port := Fm.get {} n s.lanterns
def updLantern (n : Nat) (f : Port → Port) : State := { s with lanterns := Fm.set {} n (f (s.lantern n)) s.lanterns }
def cartridge (n : Nat) : Cartridge := Fm.get {} n s.cartridges
def updCartridge (n : Nat) (f : Cartridge → Cartridge) : State :=
  { s with cartridges := Fm.set {} n (f (s.cartridge n)) s.cartridges }
def updPost (f : Post → Post) : State := { s with post := f s.post }
def updIce (f : Ice → Ice) : State := { s with ice := f s.ice }
def updPower (f : Power → Power) : State := { s with power := f s.power }
def setPm (f : Fld) (v : Nat) : State := { s with pm := setF f v s.pm }
def setSd (f : Fld) (v : Nat) : State := { s with sd := setF f v s.sd }
def setPw (f : Fld) (v : Nat) : State := { s with pw := setF f v s.pw }
def setWd (f : Fld) (v : Nat) : State := { s with wd := setF f v s.wd }
def incWd (f : Fld) (n : Nat) : State := { s with wd := incF f n s.wd }
def incPw (f : Fld) (n : Nat) : State := { s with pw := incF f n s.pw }
def incSd (f : Fld) (n : Nat) : State := { s with sd := incF f n s.sd }

/-- The sundial count, its round of 2^16 ticks and the tick within the round. -/
def now : Nat := getF Reg.SD_COUNT_COUNT s.sd
def round : Nat := s.now / 65536
def tick : Nat := s.now % 65536

/-- A configuration value in force. -/
def cfg (f : Nat) : Word := Fm.get (cfgDefault f) f s.cfgActive
def cfgNat (f : Nat) : Nat := (s.cfg f).toNat

/-- The garden that owns a core's pavilion (R280). -/
def ownerOf (c : Nat) : Option Nat := (s.pav (pavOf c)).owner

/-- The tag of a garden in a pavilion's thoroughfare (R218). -/
def pavTag (p g : Nat) : BitVec 8 :=
  BitVec.ofNat 8 (bitsOf (getReg .pv Reg.PV_GEN_GEN0.off (s.pav p).regs) (8 * g) 8)

/-- A free value (log entry 7) and the state after it is drawn. -/
def draw : Word × State := (Config.freeWord s.freeCtr, { s with freeCtr := s.freeCtr + 1 })

end State

/-- Register fields of the units. -/
def Core.getF (k : Core) (f : Fld) : Nat := Machine.getF f k.regs
def Core.setF (k : Core) (f : Fld) (v : Nat) : Core := { k with regs := Machine.setF f v k.regs }
def Core.incF (k : Core) (f : Fld) (n : Nat) : Core := { k with regs := Machine.incF f n k.regs }
def Pav.getF (k : Pav) (f : Fld) : Nat := Machine.getF f k.regs
def Pav.setF (k : Pav) (f : Fld) (v : Nat) : Pav := { k with regs := Machine.setF f v k.regs }
def Pav.incF (k : Pav) (f : Fld) (n : Nat) : Pav := { k with regs := Machine.incF f n k.regs }
def Ora.getF (k : Ora) (f : Fld) : Nat := Machine.getF f k.regs
def Ora.setF (k : Ora) (f : Fld) (v : Nat) : Ora := { k with regs := Machine.setF f v k.regs }
def Ora.incF (k : Ora) (f : Fld) (n : Nat) : Ora := { k with regs := Machine.incF f n k.regs }
def Gdn.getF (k : Gdn) (f : Fld) : Nat := Machine.getF f k.regs
def Gdn.setF (k : Gdn) (f : Fld) (v : Nat) : Gdn := { k with regs := Machine.setF f v k.regs }
def Gdn.incF (k : Gdn) (f : Fld) (n : Nat) : Gdn := { k with regs := Machine.incF f n k.regs }
def Chan.getF (k : Chan) (f : Fld) : Nat := Machine.getF f k.regs
def Chan.setF (k : Chan) (f : Fld) (v : Nat) : Chan := { k with regs := Machine.setF f v k.regs }
def Chan.incF (k : Chan) (f : Fld) (n : Nat) : Chan := { k with regs := Machine.incF f n k.regs }
def Port.getF (k : Port) (f : Fld) : Nat := Machine.getF f k.regs
def Port.setF (k : Port) (f : Fld) (v : Nat) : Port := { k with regs := Machine.setF f v k.regs }
def Port.incF (k : Port) (f : Fld) (n : Nat) : Port := { k with regs := Machine.incF f n k.regs }
def Ice.getF (k : Ice) (f : Fld) : Nat := Machine.getF f k.regs
def Ice.setF (k : Ice) (f : Fld) (v : Nat) : Ice := { k with regs := Machine.setF f v k.regs }
def Ice.incF (k : Ice) (f : Fld) (n : Nat) : Ice := { k with regs := Machine.incF f n k.regs }

/-! ### Commands that name a unit (R7) -/

/-- A command at a core, a pavilion, ...: a number beyond R7's names no unit, and nothing happens (log entry 38). -/
def onCore (c : Nat) (s : State) (f : State → State) : Res :=
  if c < Config.coreSites then .next (f s) else .next s
def onPav (p : Nat) (s : State) (f : State → State) : Res :=
  if p < Config.pavilions then .next (f s) else .next s
def onOra (o : Nat) (s : State) (f : State → State) : Res :=
  if Config.orangeryPresent o then .next (f s) else .next s
def onGarden (g : Nat) (s : State) (f : State → State) : Res := if g < 4 then .next (f s) else .next s
def onChan (n : Nat) (s : State) (f : State → State) : Res := if n < 64 then .next (f s) else .next s
/-- A command whose operands satisfy `ok`; otherwise nothing happens (log entry 38). -/
def onUnit (ok : Bool) (s : State) (f : State → State) : Res := if ok then .next (f s) else .next s

/-! ### Bytes and words (R11) -/

/-- The bytes of a value, least significant first. -/
def leBytes : Nat → Nat → List Byte
  | 0, _ => []
  | n + 1, v => BitVec.ofNat 8 v :: leBytes n (v / 256)

/-- The value of bytes, least significant first. -/
def leVal : List Byte → Nat
  | [] => 0
  | b :: bs => b.toNat + 256 * leVal bs

/-- `n` bytes of a store from `off`. -/
def readBytes (m : FMap Byte) (off : Nat) : Nat → List Byte
  | 0 => []
  | n + 1 => Fm.get 0 off m :: readBytes m (off + 1) n

/-- Bytes written to a store from `off`. -/
def writeBytes (off : Nat) : List Byte → FMap Byte → FMap Byte
  | [], m => m
  | b :: bs, m => writeBytes (off + 1) bs (Fm.set 0 off b m)

/-- 64-bit words of a store from `off`. -/
def readWords (m : FMap Byte) (off : Nat) : Nat → List Word
  | 0 => []
  | n + 1 => BitVec.ofNat 64 (leVal (readBytes m off 8)) :: readWords m (off + 8) n

/-- Consecutive slices of `n` elements. -/
def chunks {α : Type} (n : Nat) : Nat → List α → List (List α)
  | 0, _ => []
  | k + 1, l => l.take n :: chunks n k (l.drop n)

/-- A sorted list with no repeats: insert, remove. -/
def sins (a : Nat) : List Nat → List Nat
  | [] => [a]
  | b :: l => if a < b then a :: b :: l else if a = b then b :: l else b :: sins a l
def sdel (a : Nat) (l : List Nat) : List Nat := l.filter (· ≠ a)

/-! ### Incidents and taints (R549, R578-R581) -/

/-- Size of a record in the log (R578). -/
def incidentSize (i : Incident) : Nat := 64 + (i.detail.length + 7) / 8 * 8

def logSize (l : List Incident) : Nat := l.foldl (fun a i => a + incidentSize i) 0

/-- Room made in the ring: the oldest acknowledged record goes first, else the oldest, which is counted (R581). -/
def trimLog (cap acked : Nat) : Nat → List Incident × Nat → List Incident × Nat
  | 0, r => r
  | fuel + 1, (l, lost) =>
    if logSize l ≤ cap then (l, lost)
    else match l.find? (fun i => i.number ≤ acked) with
      | some i => trimLog cap acked fuel (l.filter (fun j => j.number ≠ i.number), lost)
      | none => trimLog cap acked fuel (l.drop 1, lost + 1)

/-- Two incidents of one kind and unit that arose in one round of one start are one record (R578). -/
def mergesWith (i j : Incident) : Bool :=
  j.kind = i.kind && j.unit = i.unit && j.unitId = i.unitId && j.boot = i.boot && j.sundial / 65536 = i.sundial / 65536

namespace State
variable (s : State)

/-- The temperature and voltage of the unit's nearest sensor, and the divider in force (R578). -/
def sensorOf (unit unitId : Nat) : Nat × Nat × Nat :=
  let warm (t : Nat) : Nat := ((BitVec.ofNat 8 t).signExtend 12 ++ 0#4).toNat
  let ofPav (p : Nat) : Nat × Nat × Nat :=
    let v := s.pav p
    (warm (v.getF Reg.PV_THERM_TJ), v.getF Reg.PV_REG_STATUS_VOUT, v.getF Reg.PV_CLK_STATUS_DIV)
  match unit with
  | 1 => ofPav (pavOf unitId)
  | 2 => ofPav unitId
  | 3 => (warm (getF (Reg.PW_PLOT_TEMP unitId) s.pw), 0, 0)
  | 4 =>
    let t := (s.orang unitId).dieTemp
    (if t.isEmpty then 0x8000 else (t.foldl max (t.headD 0) * 16 % 65536).toNat, 0, 0)
  | 6 => (((s.cartridge (2 * unitId + (s.lantern unitId).getF Reg.LN_LANT_STATUS_ACTIVE)).temp.toInt * 16 % 65536).toNat, 0, 0)
  | _ => (0x8000, 0, 0)

/-- The open step of a garden (R342). -/
def openStep (g : Nat) : Nat := (s.garden g).lastSeal + 1

/-- An incident as it is when raised: the count, the start, what the unit's sensor reads, the garden's tag and step (R578). -/
def stamp (i : Incident) : Incident :=
  let (t, v, d) := s.sensorOf i.unit i.unitId
  let g := i.garden
  { i with boot := s.boot, sundial := s.now, temp := t, volt := v, div := d,
           gen := if g < 4 then (s.garden g).getF Reg.GD_STATUS_GEN else 0,
           step := if g < 4 then s.openStep g else 0 }

/-- Append a record to the incident log under the next number (R578, R581). -/
def record (i : Incident) : State :=
  let r : Incident := { i with number := s.nextIncident }
  let all := s.ice.incidents ++ [r]
  let (l, lost) := trimLog s.ice.logCap (getF Reg.WD_INC_ACK_ACKED s.wd) all.length (all, 0)
  let s := s.updIce fun h => { h with incidents := l }
  { (s.setWd Reg.WD_INC_LAST_LAST r.number).incWd Reg.WD_INC_LAST_OVERWRITTEN lost with nextIncident := s.nextIncident + 1 }

/-- A stamped incident goes into the log: merged into a record of its round, else appended. -/
def log (i : Incident) : State :=
  if s.ice.incidents.any (mergesWith i) then
    s.updIce fun h => { h with incidents := h.incidents.map fun j => if mergesWith i j then { j with repeats := j.repeats + 1 } else j }
  else s.record i

/-- The postmaster raises an incident of its own. -/
def raise (i : Incident) : State := s.log (s.stamp i)

/-- A unit meets an incident: it stands there until the postmaster's sweep polls the unit (R17, R320). -/
def report (i : Incident) : State := { s with met := s.met ++ [s.stamp i] }

/-- A garden has an open step while it runs or recovers (R307, R549). -/
def stepOpen (g : Nat) : Bool :=
  let st := (s.garden g).getF Reg.GD_STATUS_STATE
  st = 5 || st = 6

/-- Taint a garden's open step: the first taint decides the reason, and one raised after COMMIT is the next step's
(R549). -/
def taint (g reason : Nat) : State :=
  if !s.stepOpen g then s
  else if (s.garden g).committing then
    s.updGarden g fun d => if d.nextTaint = 0 then { d with nextTaint := reason } else d
  else if getF (Reg.WD_GARDEN_TAINT g) s.wd = 0 then s.setWd (Reg.WD_GARDEN_TAINT g) reason
  else s

def taintOpt (g : Option Nat) (reason : Nat) : State :=
  match g with
  | none => s
  | some g => s.taint g reason

def raiseAt (kind unit unitId : Nat) (g : Option Nat) (op : Nat := 0) (action : Nat := 0) : State :=
  s.raise { kind := kind, unit := unit, unitId := unitId, garden := g.getD 0xFF, op := op, action := action }

/-- The same of a unit, a number and a garden. -/
def reportAt (kind unit unitId : Nat) (g : Option Nat) (op : Nat := 0) (action : Nat := 0) : State :=
  s.report { kind := kind, unit := unit, unitId := unitId, garden := g.getD 0xFF, op := op, action := action }

/-- An entry of the repair map (R536). -/
def repair (r : Repair) : State :=
  if s.ice.repairs.contains r then s else s.updIce fun h => { h with repairs := h.repairs ++ [r] }

/-- A finding of a unit that the postmaster will put into the repair map when its sweep polls the unit (R17, R320). -/
def reportRepair (r : Repair) : State := { s with metRepairs := s.metRepairs ++ [r] }

/-- What the sweep finds: the incidents that units have met are recorded, their findings enter the repair map (R320). -/
def pollUnits : State :=
  let is := s.met
  let rs := s.metRepairs
  rs.foldl repair (is.foldl log { s with met := [], metRepairs := [] })

/-- An uncorrectable error in a core's storage: incident UE_STORAGE and a taint of reason 3 (R35, R87, R177). -/
def coreUe (c op : Nat) : State :=
  (s.report { kind := 0x10, unit := 1, unitId := c, garden := (s.ownerOf c).getD 0xFF, op := op,
              flags := if (s.ownerOf c).any s.stepOpen then 1 else 0 }).taintOpt (s.ownerOf c) 3

/-- The logical core of a garden that a core holds. -/
def lcoreOf (g c : Nat) : Option Nat := ((s.garden g).place.find? fun e => e.2 = c).map Prod.fst

/-- Words of a core's scratchpad that its garden's run failed on (R554). -/
def noteWords (c : Nat) (ws : List Nat) : State :=
  match s.ownerOf c with
  | none => s
  | some g =>
    match s.lcoreOf g c with
    | none => s
    | some l => s.updGarden g fun d => { d with fails := { d.fails with words := d.fails.words ++ ws.map fun w => (l, w) } }

/-- A mark on a site; a second within PATROL_MIN makes it suspect (R561). -/
def markSite (c : Nat) : State :=
  s.updSite c fun x =>
    let recent := x.marks.any fun m => s.now < m + s.cfgNat cfgPatrolMin * ticksPerMin
    { x with marks := x.marks ++ [s.now], suspect := x.suspect || recent, event := x.event || recent }

/-- A double-bit error in accumulators, tallies or envelope slots: as any storage, and a mark on the site (R561). -/
def coreUeMark (c op : Nat) : State := (s.coreUe c op).markSite c

/-- An address error of an access by a garden to a scratchpad or the slow tier (R9). -/
def addrError (g : Nat) : State := { s with addrErr := Fm.upd 0 g (· + 1) s.addrErr }

end State

/-! ### A core's scratchpad (R147-R178) -/

def spadBytes : Nat := 0x600000

/-- Whether `n` bytes from `off` lie in the populated scratchpad (R101). -/
def inSpad (off n : Nat) : Bool := off + n ≤ spadBytes

/-- The words a byte range touches, and whether a word lies in the range whole. -/
def wordIn (lo n w : Nat) : Bool := 0 < n && lo / 8 ≤ w && w ≤ (lo + n - 1) / 8
def wordWhole (lo n w : Nat) : Bool := lo ≤ 8 * w && 8 * w + 8 ≤ lo + n

def Core.spadRead (k : Core) (off n : Nat) : List Byte := readBytes k.spad off n
def Core.spadWord (k : Core) (off : Nat) : Word := BitVec.ofNat 64 (leVal (k.spadRead off 8))

/-- A scratchpad write: a word replaced whole loses its error mark and its waiting write-back; one written in part
keeps its poison (R176, R178). -/
def Core.spadWrite (off : Nat) (bs : List Byte) (k : Core) : Core :=
  { k with spad := writeBytes off bs k.spad,
           spadUe := k.spadUe.filter (fun w => !wordWhole off bs.length w),
           spadCe := k.spadCe.filter (fun w => !wordWhole off bs.length w),
           spadWb := k.spadWb.filter (fun w => !wordIn off bs.length w) }

/-- Whether a read of the range meets an uncorrectable word (R177). -/
def Core.spadPoisoned (k : Core) (off n : Nat) : Bool := k.spadUe.any (wordIn off n)

/-- What a read of a byte range does beside returning bytes: a word with a single-bit error is corrected in the data, counted, and waits for
its write-back, until which every read finds the error again (R176); uncorrectable words are counted, reported and taint the step
(R177). -/
def State.spadTouch (s : State) (c off n op : Nat) : State :=
  let k := s.core c
  let ce := k.spadCe.filter (wordIn off n)
  let ue := k.spadUe.filter (wordIn off n)
  if ce.isEmpty && ue.isEmpty then s else
  let s := s.updCore c fun k => { k with spadWb := ce.foldl (fun l w => sins w l) k.spadWb }
  let s := s.updPav (pavOf c) fun p =>
    (p.incF (Reg.PV_SPAD_CE (coreIdx c)) ce.length).incF (Reg.PV_SPAD_UE (coreIdx c)) ue.length
  if ue.isEmpty then s else (s.noteWords c ue).coreUe c op

/-- Set one of a core's flags (R116). -/
def Core.setFlag (f : Nat) (k : Core) : Core := k.setF Reg.KP_FLAGS_FLAGS (k.getF Reg.KP_FLAGS_FLAGS ||| 2 ^ f)
def Core.clearFlags (mask : Nat) (k : Core) : Core :=
  k.setF Reg.KP_FLAGS_FLAGS (k.getF Reg.KP_FLAGS_FLAGS &&& ((2 ^ 64 - 1) ^^^ mask))
def Core.flag (k : Core) (f : Nat) : Bool := (k.getF Reg.KP_FLAGS_FLAGS).testBit f

/-- A core's arrays take writes of the postmaster: its pavilion's domain is on, it is not being zeroed, and no keeper of it has RUN (R162, R170,
R174). -/
def State.takesWrites (s : State) (c : Nat) : Bool :=
  (s.pav (pavOf c)).getF Reg.PV_REG_STATUS_ON = 1 && (s.pav (pavOf c)).getF Reg.PV_SPAD_CTL_BUSY = 0 &&
    (coresOf (pavOf c)).all fun d => (s.core d).getF Reg.KP_CTRL_RUN = 0

/-- The compute domain of a core's pavilion is on, and the pavilion is not being zeroed (R167, R170, R174). -/
def State.computeOn (s : State) (c : Nat) : Bool :=
  (s.pav (pavOf c)).getF Reg.PV_REG_STATUS_ON = 1 && (s.pav (pavOf c)).getF Reg.PV_SPAD_CTL_BUSY = 0

/-- A patrol segment runs on a core (R557). -/
def Pav.testing (v : Pav) (c : Nat) : Bool := match v.segRun with | some x => x.1 = c | none => false

/-- The keeper's wait goes on: the compute clock runs, and no patrol segment holds the core (R557). -/
def State.keeperOn (s : State) (c : Nat) : Bool := s.computeOn c && !(s.pav (pavOf c)).testing c

end Sys2Proof.Machine
end

