-- ==== Sys2Proof/Machine/Operands.lean ====
section
/-! DEFINITION. The keeper's operand forms: the fields of an instruction word (R95, R96), which registers they name and
which bits must be zero (R97-R100), and the registers themselves (R91). -/

namespace Sys2Proof.Machine

/-! ### Fields of an instruction word (R95, R96) -/

def opOf (w : W32) : Nat := w.toNat / 2 ^ 26
def pnOf (w : W32) : Bool := w.toNat / 2 ^ 25 % 2 = 1
def prOf (w : W32) : Nat := w.toNat / 2 ^ 22 % 8
def dOf (w : W32) : Nat := w.toNat / 2 ^ 17 % 32
def aOf (w : W32) : Nat := w.toNat / 2 ^ 12 % 32
def bOf (w : W32) : Nat := w.toNat / 2 ^ 7 % 32
def fnOf (w : W32) : Nat := w.toNat % 128
/-- IMM12, unsigned and sign-extended. -/
def immOf (w : W32) : Nat := w.toNat % 4096
def simmOf (w : W32) : Int := toSigned 12 (immOf w)
/-- IMM17 unsigned; OFF22 signed. -/
def imm17Of (w : W32) : Nat := w.toNat % 2 ^ 17
def off22Of (w : W32) : Nat := w.toNat % 2 ^ 22
def soff22Of (w : W32) : Int := toSigned 22 (off22Of w)

/-! ### Registers (R91): s0 reads as zero and p0 as 1, and writes to them are discarded -/

def Core.sReg (k : Core) (i : Nat) : Word := if i = 0 then 0 else Fm.get 0 i k.s
def Core.setS (k : Core) (i : Nat) (v : Word) : Core := if i = 0 then k else { k with s := Fm.set 0 i v k.s }
def Core.aReg (k : Core) (i : Nat) : Addr := Fm.get 0 i k.a
def Core.setA (k : Core) (i : Nat) (v : Addr) : Core := { k with a := Fm.set 0 i v k.a }
def Core.pReg (k : Core) (i : Nat) : Bool := i = 0 || Fm.get false i k.p
def Core.setP (k : Core) (i : Nat) (v : Bool) : Core := if i = 0 then k else { k with p := Fm.set false i v k.p }

/-- Register numbers of the interlock: scalar, address, predicate (R104). -/
def rS (i : Nat) : Nat := i
def rA (i : Nat) : Nat := 32 + i
def rP (i : Nat) : Nat := 48 + i

/-- An address register plus a signed displacement, modulo 2^48. -/
def Core.addr (k : Core) (a : Nat) (disp : Int) : Nat := ((k.aReg a).toNat + disp) % (2 ^ 48 : Nat) |>.toNat

/-! ### The encoding checks (R95, R97-R100) -/

/-- What a register field of an opcode is. -/
inductive FieldUse where
  | zero   -- not used: must be zero
  | sreg | areg | preg
  | pool   -- a credit pool, 0-7
  | slot   -- a grant slot, 0-15
  deriving DecidableEq, Repr

/-- The cause a field's value raises (R97). -/
def FieldUse.bad : FieldUse → Nat → Option Nat
  | .zero, v => if v = 0 then none else some 1
  | .sreg, _ => none
  | .areg, v => if v < 16 then none else some 2
  | .preg, v => if v < 8 then none else some 2
  | .pool, v => if v < 8 then none else some 1
  | .slot, v => if v < 16 then none else some 1

/-- The format of an opcode with its fields' uses and the check of its remaining bits (true: allowed). -/
inductive OpForm where
  | r (d a b : FieldUse) (fnOk : Nat → Nat → Bool)
  | i (d a : FieldUse) (immOk : Nat → Bool)
  | u (d : FieldUse) (immOk : Nat → Bool)
  | j (zero : Bool)

/-- A KRD or KWR index names a register (R144). -/
def krIndexOk (i : Nat) : Bool := (findReg (8 * i) (regDefs .kp)).isSome

def anyImm (_ : Nat) : Bool := true
def fnZero (_ f : Nat) : Bool := f = 0

/-- The opcodes of R98. -/
def opForm : Nat → Option OpForm
  | 0x01 => some (.j true)
  | 0x02 => some (.j true)
  | 0x04 => some (.r .sreg .sreg .sreg fun _ f => f ≤ 0x0E)
  | 0x05 | 0x06 | 0x07 | 0x08 => some (.i .sreg .sreg anyImm)
  | 0x09 => some (.i .sreg .sreg fun m => m / 256 = 0 && m / 64 % 4 < 3)
  | 0x0A | 0x0B => some (.u .sreg anyImm)
  | 0x0C => some (.r .preg .sreg .sreg fun _ f => f < 7)
  | 0x0D => some (.i .preg .sreg fun m => m / 512 < 7)
  | 0x0E => some (.r .preg .preg .preg fun _ f => f < 4)
  | 0x10 | 0x11 | 0x12 | 0x13 => some (.i .sreg .areg anyImm)
  | 0x14 => some (.i .areg .areg anyImm)
  | 0x15 => some (.r .areg .areg .sreg fnZero)
  | 0x16 => some (.r .areg .sreg .zero fnZero)
  | 0x17 => some (.r .sreg .areg .zero fnZero)
  | 0x18 | 0x19 => some (.j false)
  | 0x1A => some (.r .zero .sreg .zero fnZero)
  | 0x20 | 0x21 | 0x22 => some (.i .zero .areg anyImm)
  | 0x23 => some (.i .preg .sreg fun m => m < 8)
  | 0x24 => some (.i .zero .zero fun m => m < 64)
  | 0x25 => some (.i .zero .sreg fun m => if m / 2048 = 0 then m < 64 else m = 2048)
  | 0x26 => some (.i .preg .sreg fun m => m < 128)
  | 0x27 => some (.r .preg .areg .sreg fun b f => f < 16 && f % 8 < 7 && b % 2 = 0)
  | 0x28 => some (.i .zero .sreg fun m => m = 0)
  | 0x29 => some (.i .zero .sreg anyImm)
  | 0x2C => some (.i .zero .sreg fun m => m < 64)
  | 0x2D => some (.r .slot .areg .sreg fun _ f => f < 16)
  | 0x30 => some (.r .pool .areg .sreg fnZero)
  | 0x31 => some (.r .pool .zero .sreg fnZero)
  | 0x32 => some (.r .slot .sreg .sreg fnZero)
  | 0x33 => some (.i .preg .sreg fun m => m < 16)
  | 0x34 => some (.i .zero .zero fun m => m < 16)
  | 0x35 => some (.i .preg .sreg fun m => m < 16)
  | 0x38 => some (.u .sreg fun m => m = 0)
  | 0x39 => some (.i .sreg .zero anyImm)
  | 0x3A => some (.i .zero .sreg anyImm)
  | _ => none

/-- The smaller of two fault causes: of several, the lowest is recorded (log entry 16). -/
def orCause : Option Nat → Option Nat → Option Nat
  | none, y => y
  | x, none => x
  | some x, some y => some (min x y)

def when1 (ok : Bool) : Option Nat := if ok then none else some 1

/-- The cause an instruction word's encoding raises, whether or not it executes (R95). -/
def encCause (w : W32) : Option Nat :=
  match opForm (opOf w) with
  | none => some 1
  | some (.j z) => when1 (!z || off22Of w = 0)
  | some (.u d ok) => orCause (d.bad (dOf w)) (when1 (ok (imm17Of w)))
  | some (.i d a ok) =>
    let index := if opOf w = 0x39 ∨ opOf w = 0x3A then (if krIndexOk (immOf w) then none else some 5) else none
    let fclr := when1 (opOf w ≠ 0x25 || immOf w / 2048 = 1 || aOf w = 0)
    orCause (orCause (d.bad (dOf w)) (a.bad (aOf w))) (orCause (when1 (ok (immOf w))) (orCause index fclr))
  | some (.r d a b ok) =>
    orCause (orCause (d.bad (dOf w)) (a.bad (aOf w))) (orCause (b.bad (bOf w)) (when1 (ok (bOf w) (fnOf w))))

end Sys2Proof.Machine
end

