-- ==== Sys2Proof/Machine/Credit.lean ====
section
/-! DEFINITION. Credit pools, the credit unit that serves them (R126-R132, R163), and the packets a core sends. -/

namespace Sys2Proof.Machine

/-- Logical cores of a garden (R125); none for a core of no garden. -/
def State.gardenSize (s : State) (g : Option Nat) : Nat :=
  match g with
  | none => 0
  | some g => (s.garden g).getF Reg.GD_STATUS_SIZE

/-- A packet a core offers to its router; the router stamps tag, garden and source at injection (R208). -/
def Core.send (p : Packet) (k : Core) : Core := { k with out := k.out ++ [p] }

def Core.pool (k : Core) (d : Nat) : Pool := Fm.get {} d k.pools
def Core.setPool (k : Core) (d : Nat) (p : Pool) : Core := { k with pools := Fm.set {} d p k.pools }
def Core.slot (k : Core) (d : Nat) : Slot := Fm.get {} d k.grants
def Core.setSlot (k : Core) (d : Nat) (v : Slot) : Core := { k with grants := Fm.set {} d v k.grants }

/-- Space held by outstanding grants with their padding, 256 B units. -/
def Pool.used (p : Pool) : Nat := p.grants.foldl (fun a g => a + g.pad + g.wlen) 0

/-- CANSWER (R203): state, reason, slot, window and grant number, to the sender's physical code. -/
def answerPacket (src : Nat) (state reason slot wbase wlen num : Nat) : Packet :=
  { type := 6, dest := src, src := 0, addr := 0, naming := .physical,
    payload := leBytes 8 (state + reason * 4 + slot * 16 + wbase * 2 ^ 8 + wlen * 2 ^ 23 + num * 2 ^ 38) }

def refuse (r : CreditReq) (reason : Nat) : Packet := answerPacket r.src 3 reason r.slot 0 0 0

/-- Where a window of `len` units would go: padding, offset in the pool, head after it (R128). -/
def Pool.place (p : Pool) (len : Nat) : Nat × Nat × Nat :=
  if len ≤ p.size - p.head then (0, p.head, if p.head + len = p.size then 0 else p.head + len)
  else (p.size - p.head, 0, if len = p.size then 0 else len)

/-- A window fits now: the ring has room for it with its padding, and fewer than 32 grants are outstanding. -/
def Pool.fits (p : Pool) (len : Nat) : Bool :=
  p.used + (p.place len).1 + len ≤ p.size && p.grants.length < 32

/-- Grant a window to a request. -/
def Pool.grant (p : Pool) (r : CreditReq) : Pool × Packet :=
  let (pad, at_, head) := p.place r.len
  let base := p.base + at_
  ({ p with head := head, next := (p.next + 1) % 64,
            grants := p.grants ++ [{ num := p.next, pad := pad, wbase := base, wlen := r.len }] },
   answerPacket r.src 2 0 r.slot base r.len p.next)

/-- Serve the waiting requests in arrival order until one does not fit (R128). -/
def servePool : List CreditReq → Pool → Pool × List Packet
  | [], p => ({ p with waiting := [] }, [])
  | r :: rs, p =>
    if p.fits r.len then
      let (p, a) := p.grant r
      let (p, as) := servePool rs p
      (p, a :: as)
    else ({ p with waiting := r :: rs }, [])

/-- A closed pool: its grant numbering goes on (R163). -/
def Pool.closed (p : Pool) : Pool := { next := p.next }

/-- CPOOL with size 0 (R126): waiting requests are refused with reason 1. -/
def Pool.close (p : Pool) : Pool × List Packet :=
  if !p.isOpen || p.closing then (p, [])
  else
    (if p.grants.isEmpty then p.closed else { p with isOpen := false, closing := true, waiting := [] },
     p.waiting.map (refuse · 1))

/-- CFREE of n grants (R131): a closing pool closes with its last grant, an open one serves who now fits. -/
def Pool.free (p : Pool) (n : Nat) : Pool × List Packet :=
  let p := { p with grants := p.grants.drop n }
  if p.closing then (if p.grants.isEmpty then p.closed else p, []) else servePool p.waiting p

/-- Requests waiting at a core, over all its pools (R129). -/
def Core.waitingCount (k : Core) : Nat := k.pools.foldl (fun a e => a + e.2.waiting.length) 0

/-- A request that arrives: refused with the lowest reason that holds (R129), else it waits its turn and is served. -/
def Core.credit (k : Core) (d : Nat) (r : CreditReq) (rsvOk : Bool) : Core :=
  let p := k.pool d
  if !p.isOpen || p.closing then k.send (refuse r 1)
  else if !rsvOk || r.len = 0 || p.size < r.len then k.send (refuse r 2)
  else if 16 ≤ k.waitingCount then k.send (refuse r 3)
  else if p.waiting.isEmpty && p.fits r.len then
    let (p, a) := p.grant r
    (k.setPool d p).send a
  else k.setPool d { p with waiting := p.waiting ++ [r] }

/-- Core reset (R142): every pool closed, its waiting requests refused, its numbering kept; every slot empty. -/
def Core.resetCredits (k : Core) : Core :=
  { k with pools := (k.pools.map fun e => (e.1, e.2.closed)).filter (fun e => e.2 ≠ {}),
           grants := [],
           out := k.out ++ k.pools.flatMap fun e => e.2.waiting.map (refuse · 1) }

end Sys2Proof.Machine
end

