-- ==== Sys2Proof/Machine/Flags.lean ====
section
/-! DEFINITION. The conditions a keeper tests (R100) and the results of its ALU (R98, R99). -/

namespace Sys2Proof.Machine

/-- The conditions of CMP, CMPI and WAITW (R100). -/
def condHolds (c : Nat) (x y : Word) : Bool :=
  match c with
  | 0 => x == y
  | 1 => x != y
  | 2 => x.slt y
  | 3 => x.sle y
  | 4 => x.ult y
  | 5 => x.ule y
  | 6 => (x &&& y) != 0
  | _ => false

/-- The ALU operations (R99). -/
def aluOp (fn : Nat) (x y : Word) : Word :=
  let n := y.toNat % 64
  match fn with
  | 0x0 => x + y
  | 0x1 => x - y
  | 0x2 => x &&& y
  | 0x3 => x ||| y
  | 0x4 => x ^^^ y
  | 0x5 => x <<< n
  | 0x6 => x >>> n
  | 0x7 => x.sshiftRight n
  | 0x8 => x * y
  | 0x9 => BitVec.ofInt 64 (x.toInt * y.toInt / (2 ^ 64 : Nat))
  | 0xA => BitVec.ofNat 64 (x.toNat * y.toNat / 2 ^ 64)
  | 0xB => if x.slt y then x else y
  | 0xC => if x.slt y then y else x
  | 0xD => if x.ult y then x else y
  | _ => if x.ult y then y else x

/-- The shifts of SHI (R98). -/
def shiOp (imm : Nat) (x : Word) : Word :=
  match imm / 64 with
  | 0 => x <<< (imm % 64)
  | 1 => x >>> (imm % 64)
  | _ => x.sshiftRight (imm % 64)

/-- The predicate operations of PLOG (R98). -/
def plogOp (fn : Nat) (x y : Bool) : Bool :=
  match fn with
  | 0 => x && y
  | 1 => x || y
  | 2 => x != y
  | _ => x && !y

end Sys2Proof.Machine
end

