-- ==== Sys2Proof/Machine/KeeperOps.lean ====
section
/-! DEFINITION. The keeper's cycle: fetch, the checks of R95-R97, the interlock of R104, the fault of R141, the start
and end of a wait, and the KP_ registers as they read. -/

namespace Sys2Proof.Machine

/-! ### KP_ registers as they read (R52, R88, R144, R145) -/

def poolWord (p : Pool) : Nat :=
  p.base + p.size * 2 ^ 15 + p.used * 2 ^ 30 + p.grants.length * 2 ^ 45 + p.waiting.length * 2 ^ 51 +
    (if p.isOpen then 2 ^ 56 else 0) + (if p.closing then 2 ^ 57 else 0)

def slotWord (v : Slot) : Nat :=
  v.state + v.reason * 4 + v.pool * 16 + v.wbase * 2 ^ 8 + v.wlen * 2 ^ 23 + v.dest * 2 ^ 38

/-- A descriptor is executing; a chain is running (R52, R88). -/
def Core.cubeBusy (k : Core) : Bool := match k.cubeRun with | some r => !r.rejected | none => false
def Core.chainBusy (k : Core) : Bool := k.chainRun.isSome || !k.chainTail.isEmpty

/-- A KP_ register of core `c`: the identity, queue depths, pools and slots are views of the state. -/
def Core.kpRead (k : Core) (c off : Nat) : Word :=
  let w := getReg .kp off k.regs
  if off = 0x000 then withBits (withBits w 0 15 c) 32 9 (pavOf c)
  else if off = 0x040 then withBits (withBits w 24 5 k.cubeQ.length) 29 1 (if k.cubeBusy then 1 else 0)
  else if off = 0x048 then withBits (withBits w 16 5 k.chainQ.length) 21 1 (if k.chainBusy then 1 else 0)
  else if off = 0x058 then withBits (withBits w 24 5 k.portQ.length) 29 1 (if k.portRun.isEmpty then 0 else 1)
  else if 0x080 ≤ off ∧ off < 0x0C0 ∧ off % 8 = 0 then BitVec.ofNat 64 (poolWord (k.pool ((off - 0x080) / 8)))
  else if 0x100 ≤ off ∧ off < 0x180 ∧ off % 8 = 0 then BitVec.ofNat 64 (slotWord (k.slot ((off - 0x100) / 8)))
  else if (findReg off (regDefs .kp)).isNone then 0
  else w

/-- A write of KP_CHAIN_SEED loads the generator (R74). -/
def Core.seed (v : Word) (k : Core) : Core :=
  { k with regs := setReg .kp Reg.KP_CHAIN_SEED_SEED.off v k.regs, draws := 0 }

/-- The write of a keeper's KWR: the seed and W1C fields only (R145). -/
def Core.kwr (k : Core) (off : Nat) (v : Word) : Core :=
  if off = Reg.KP_CHAIN_SEED_SEED.off then k.seed v
  else match findReg off (regDefs .kp) with
    | none => k
    | some d =>
      { k with regs := setReg .kp off (mapFields d.flds (fun f old => if f.acc = .w1c then fieldWritten f old (bitsOf v f.lo f.w) else old)
                  (getReg .kp off k.regs)) k.regs }

/-! ### Issue (R102, R104) -/

def Core.pc (k : Core) : Nat := k.getF Reg.KP_STATUS_PC
def Core.cycles (k : Core) : Nat := k.getF Reg.KP_CYCLES_CYCLES
def Core.setCycles (k : Core) (n : Nat) : Core := k.setF Reg.KP_CYCLES_CYCLES n

/-- The keeper waits for the registers an instruction reads (R104). -/
def Core.interlock (regs : List Nat) (k : Core) : Core :=
  let t := regs.foldl (fun a r => max a (Fm.get 0 r k.ready)) k.cycles
  if t = k.cycles then k else k.setCycles t

/-- A result is ready `lat` cycles after the issue (R98). -/
def Core.readyIn (r lat : Nat) (k : Core) : Core :=
  { k with ready := Fm.set 0 r (if lat ≤ 1 then 0 else k.cycles + lat) k.ready }

/-- The instruction has issued and fetch goes on at word `pc`, `occ` cycles later. -/
def Core.goTo (pc occ : Nat) (k : Core) : Core := (k.setF Reg.KP_STATUS_PC pc).setCycles (k.cycles + occ)
def Core.goOn (occ : Nat) (k : Core) : Core := k.goTo (k.pc + 1) occ

/-- A keeper fault (R141): the cause is recorded, the PC is the faulting instruction's, the keeper stops. -/
def Core.fault (cause : Nat) (k : Core) : Core :=
  { ((k.setF Reg.KP_STATUS_FAULT cause).setF Reg.KP_STATUS_STATE 3).setF Reg.KP_STATUS_WAIT 0 with wait := {}, faultSeen := false }

/-- The keeper fetches: it is running and its pavilion computes. -/
def State.keeperRuns (s : State) (c : Nat) : Bool := (s.core c).getF Reg.KP_STATUS_STATE = 1 && s.computeOn c

/-- The word at the PC, or the cause of R141 (R92, R93). A single-bit error is corrected and counted. -/
def Core.fetch (k : Core) : Option W32 :=
  if k.regBad || k.pstoreBad.contains k.pc then none else some (Fm.get 0 k.pc k.pstore)

/-- What an executing instruction does: it raises a fault, goes on after `occ` cycles, jumps to a byte address, begins a
wait, or halts. -/
inductive KOut where
  | fault (cause : Nat)
  | goes (s : State) (occ : Nat)
  | jump (s : State) (target : Int)
  | wait (s : State)
  | halt (s : State)

/-- A fetch that meets a single-bit error corrects it and counts it (R93). -/
def Core.corrected (k : Core) : Core :=
  if k.pstoreCe.contains k.pc then { k with pstoreCe := k.pstoreCe.filter (· ≠ k.pc), pstoreCorr := k.pstoreCorr + 1 } else k

/-- What becomes of the keeper of core `c`, which had state `s`, after the body of an instruction; `last`: fetch cannot go on at
the next word (R102). -/
def keeperAfter (c : Nat) (s : State) (last : Bool) : KOut → State
  | .fault x => s.updCore c (Core.fault (if last then min x 4 else x))
  | .goes t occ => if last then s.updCore c (Core.fault 4) else t.updCore c (Core.goOn occ)
  | .jump t target =>
    if 0 ≤ target ∧ target ≤ 0x7FFC then t.updCore c (Core.goTo (target.toNat / 4) 2) else s.updCore c (Core.fault 4)
  | .wait t => if last then s.updCore c (Core.fault 4) else t
  | .halt t => t

/-- One instruction of opcode `op` at the keeper of core `c`. The event does not arise where the keeper is not running
or the word at its PC is another instruction's; an undefined opcode there is the fault of R95 (log entry 3). Every word fetched is
corrected (R93), and the registers an instruction reads are waited for as it issues (R104). -/
def keeperExec (op : Nat) (reads : W32 → List Nat) (body : W32 → State → KOut) (c : Nat) (s : State) : State :=
  let k := s.core c
  if !s.keeperRuns c then s
  else match k.fetch with
  | none => s.updCore c (Core.fault 6)
  | some w =>
    if opOf w ≠ op ∧ (opForm (opOf w)).isSome then s
    else
      let s := s.updCore c Core.corrected
      match encCause w with
      | some x => s.updCore c (Core.fault x)
      | none =>
        let last := k.pc = 0x1FFF
        if k.pReg (prOf w) = pnOf w then
          if last then s.updCore c (Core.fault 4) else s.updCore c (Core.goOn 1)
        else keeperAfter c s last (body w (s.updCore c (Core.interlock (rP (prOf w) :: reads w))))

/-- A keeper instruction's command. -/
def keeperOp (op : Nat) (reads : W32 → List Nat) (body : Nat → W32 → State → KOut) (c : Nat) (s : State) : Res :=
  onCore c s (keeperExec op reads (body c) c)

/-- An instruction that changes its own core only, in `occ` cycles. -/
def onlyCore (f : W32 → Core → Core) (occ : Nat := 1) (c : Nat) (w : W32) (s : State) : KOut :=
  .goes (s.updCore c (f w)) occ

/-! ### Waits (R118) -/

/-- KP_STATUS.WAIT of a wait. -/
def waitCode : WaitKind → Nat
  | .none => 0
  | .flag .. => 1
  | .word .. => 2
  | .sundial _ => 3
  | .delay _ => 4
  | .bell _ => 5
  | .grant _ => 6
  | .queueIdle _ => 7
  | .queueFull .. => 8

def Core.startWait (kind : WaitKind) (dst timeout : Nat) (k : Core) : Core :=
  { (k.setF Reg.KP_STATUS_STATE 2).setF Reg.KP_STATUS_WAIT (waitCode kind) with
    wait := { kind := kind, dst := dst, timeout := timeout } }

/-- A wait retires `t - t0` cycles after its issue, and the next instruction issues in the cycle after (R118). -/
def Core.endWait (elapsed : Nat) (k : Core) : Core :=
  { ((k.setF Reg.KP_STATUS_STATE 1).setF Reg.KP_STATUS_WAIT 0).goOn (elapsed + 1) with wait := {} }

/-- The queues and units of QWAIT's mask: no slot reserved or occupied, units idle (R105). -/
def Core.queuesIdle (k : Core) (mask : Nat) : Bool :=
  (mask % 2 = 0 || (k.cubeQ.isEmpty && k.cubeRun.isNone)) &&
  (mask / 2 % 2 = 0 || (k.chainQ.isEmpty && k.chainRun.isNone && k.chainTail.isEmpty)) &&
  (mask / 4 % 2 = 0 || (k.portQ.isEmpty && k.portRun.isEmpty))

/-- The sundial copy of a pavilion's thoroughfare (R452). -/
def State.sundialOf (s : State) (p : Nat) : Nat := ((s.now : Int) - (s.pav p).sdLag).toNat

def Core.arrived (k : Core) (b : Nat) : Bool := (k.getF Reg.KP_BELL_ARRIVED).testBit b
def Core.unseen (k : Core) (b : Nat) : Bool := (k.getF Reg.KP_BELL_UNSEEN).testBit b
def Core.member (k : Core) (b : Nat) : Bool := (k.getF Reg.KP_BELL_MEMBER).testBit b
def setBit (x b : Nat) : Nat := x ||| 2 ^ b
def clearBit (x b : Nat) : Nat := if x.testBit b then x - 2 ^ b else x

/-- The condition a waiting keeper tests each cycle. -/
def State.waitHolds (s : State) (c : Nat) : Bool :=
  let k := s.core c
  match k.wait.kind with
  | .flag f _ => k.flag f
  | .sundial t => t.toNat ≤ s.sundialOf (pavOf c)
  | .bell b => !k.arrived b
  | .grant d => (k.slot d).state ≠ 1
  | .queueIdle m => k.queuesIdle m
  | _ => false

/-- A wait tested each cycle and bounded by a timeout; a wait for the sundial has none (R120). -/
def timedWait : WaitKind → Bool
  | .flag .. | .bell _ | .grant _ | .queueIdle _ => true
  | _ => false

/-! ### Queues (R105-R108) -/

def Core.queue (k : Core) : QUnit → List QSlot
  | .cube => k.cubeQ
  | .chain => k.chainQ
  | .port => k.portQ

def Core.setQueue (k : Core) (u : QUnit) (q : List QSlot) : Core :=
  match u with
  | .cube => { k with cubeQ := q }
  | .chain => { k with chainQ := q }
  | .port => { k with portQ := q }

/-- Words of the descriptor at an address: 4, or for a chain 5 and one for each stage. -/
def Core.descWords (k : Core) (u : QUnit) (addr : Nat) : Nat :=
  match u with
  | .chain => 6 + bitsOf (k.spadWord addr) 0 3
  | _ => 4

/-- The descriptor lies at an allowed address, whole inside the scratchpad. -/
def Core.descOk (k : Core) (u : QUnit) (addr : Nat) : Bool :=
  addr % (if u = .chain then 8 else 32) = 0 && inSpad addr 8 && inSpad addr (8 * k.descWords u addr)

/-- Reserve a slot: the descriptor is read now, and a chain's scalars are captured. -/
def State.reserve (s : State) (c : Nat) (u : QUnit) (addr op : Nat) : State :=
  let n := (s.core c).descWords u addr
  let s := s.spadTouch c addr (8 * n) (0x1000 + op)
  s.updCore c fun k =>
    let scal := if u = .chain then (List.range 32).map (fun i => (k.sReg i).setWidth 32) else []
    let slot : QSlot := { seq := k.seq, words := readWords k.spad addr n, scal := scal }
    { k.setQueue u (k.queue u ++ [slot]) with seq := k.seq + 1 }

/-- QCUBE, QCHAIN, QPORT: reserve a slot, or stall on a full queue. -/
def queueIssue (u : QUnit) (scale : Int) (c : Nat) (w : W32) (s : State) : KOut :=
  let k := s.core c
  let addr := k.addr (aOf w) (simmOf w * scale)
  if !k.descOk u addr then .fault 3
  else if 16 ≤ (k.queue u).length then
    .wait (s.updCore c (Core.startWait (.queueFull (match u with | .cube => 0 | .chain => 1 | .port => 2) addr) 0 0))
  else .goes (s.reserve c u addr (opOf w)) 1

end Sys2Proof.Machine
end

