-- ==== Sys2Proof/Machine/CubeOps.lean ====
section
/-! DEFINITION. The cube's arithmetic: operand tiles (R27-R29), MX scales (R30, R31), one group added into an
accumulator element (R32, R33, R37, R38), descriptor fields and their checks (R41-R46). -/

namespace Sys2Proof.Machine

/-! ### Descriptor fields (R42) -/

/-- A cube descriptor, decoded. -/
structure CubeDesc where
  op : Nat
  afmt : Nat
  sfmt : Nat
  pair : Nat
  trans : Bool
  mxa : Bool
  mxs : Bool
  negp : Bool
  dual : Bool
  neg2 : Bool
  acc : Bool
  flagen : Bool
  flag : Nat
  mt : Nat
  nt : Nat
  ks : Nat
  accbase : Nat
  abase : Nat
  asm : Nat
  ask : Nat
  axp : Bool
  sbase : Nat
  ssk : Nat
  ssn : Nat
  ascale : Nat
  sscale : Nat
  dst2 : Nat
  rsv : Nat
  deriving DecidableEq, Repr

def wordAt (ws : List Word) (i : Nat) : Word := ws.getD i 0
def bitAt (x : Word) (i : Nat) : Bool := bitsOf x i 1 = 1

def decodeCube (ws : List Word) : CubeDesc :=
  let w0 := wordAt ws 0
  let w1 := wordAt ws 1
  let w2 := wordAt ws 2
  let w3 := wordAt ws 3
  { op := bitsOf w0 0 8, afmt := bitsOf w0 8 4, sfmt := bitsOf w0 12 4, pair := bitsOf w0 16 2,
    trans := bitAt w0 18, mxa := bitAt w0 19, mxs := bitAt w0 20, negp := bitAt w0 21, dual := bitAt w0 22,
    neg2 := bitAt w0 23, acc := bitAt w0 24, flagen := bitAt w0 25, flag := bitsOf w0 26 6,
    mt := bitsOf w0 32 6 + 1, nt := bitsOf w0 38 6 + 1, ks := bitsOf w0 44 12 + 1, accbase := bitsOf w0 56 6,
    abase := bitsOf w1 0 23, asm := bitsOf w1 23 20, ask := bitsOf w1 43 20, axp := bitAt w1 63,
    sbase := bitsOf w2 0 23, ssk := bitsOf w2 23 20, ssn := bitsOf w2 43 20,
    ascale := bitsOf w3 0 23, sscale := bitsOf w3 23 23, dst2 := bitsOf w3 46 6,
    rsv := bitsOf w0 62 2 + bitsOf w2 63 1 + bitsOf w3 52 12 }

/-- 4-bit and 6-bit formats (R27). -/
def packed (f : Nat) : Bool := f = 2 || f = 3 || f = 4

/-- Elements along K of a group: 16 for packed formats (R23). -/
def kappa (f : Nat) : Nat := if packed f then 16 else 8

/-- Bytes of a tile or block (R29). -/
def tileBytes (f : Nat) : Nat := 8 * kappa f * fmtBits f / 8

/-- The pairings of R28. -/
def pairingOk (a s : Nat) : Bool :=
  ((a = 0 || a = 1) && (s = 0 || s = 1)) || (packed a && packed s) || (a = s && (a = 5 || a = 6 || a = 7))

namespace CubeDesc
variable (d : CubeDesc)

/-- The cubes a descriptor uses (R26). -/
def cubes : List Nat := if d.pair = 0 then [0] else if d.pair = 1 then [1] else [0, 1]
/-- A tiles and S blocks it reads. -/
def ma : Nat := if d.pair = 3 then 2 * d.mt else d.mt
def ns : Nat := if d.pair = 2 then 2 * d.nt else d.nt
/-- The A tile and the S block cube `c` takes at m, n. -/
def aIdx (c m : Nat) : Nat := if d.pair = 3 then 2 * m + c else m
def sIdx (c n : Nat) : Nat := if d.pair = 2 then 2 * n + c else n
def aAddr (r k : Nat) : Nat := d.abase + r * d.asm * 32 + k * d.ask * 32
def sAddr (s k : Nat) : Nat := d.sbase + k * d.ssk * 32 + s * d.ssn * 32
/-- The scale block of group k. -/
def sblk (k : Nat) : Nat := k * kappa d.afmt / 32
def asAddr (r k : Nat) : Nat := d.ascale + (d.sblk k * d.ma + r) * 8
def ssAddr (s k : Nat) : Nat := d.sscale + (d.sblk k * d.ns + s) * 8
/-- The destination tiles of each cube (R26). -/
def tile (m n : Nat) : Nat := d.accbase + m * d.nt + n
def tile2 (m n : Nat) : Nat := d.dst2 + m * d.nt + n
def size : Nat := d.mt * d.nt

/-- The tiles an MMA or a ZERO writes, as cube x 64 + tile. -/
def tiles : List Nat :=
  d.cubes.flatMap fun c =>
    if d.op = 2 then (List.range d.mt).map (fun i => c * 64 + d.accbase + i)
    else (List.range d.size).map (fun i => c * 64 + d.accbase + i) ++
      (if d.dual then (List.range d.size).map (fun i => c * 64 + d.dst2 + i) else [])

/-- Every operand and scale byte lies in the scratchpad (R46, cause 0x6): the last of each stream does. -/
def bytesOk : Bool :=
  inSpad (d.aAddr (d.ma - 1) (d.ks - 1)) (tileBytes d.afmt) && inSpad (d.sAddr (d.ns - 1) (d.ks - 1)) (tileBytes d.sfmt) &&
  (!d.mxa || inSpad (d.asAddr (d.ma - 1) (d.ks - 1)) 8) && (!d.mxs || inSpad (d.ssAddr (d.ns - 1) (d.ks - 1)) 8)

/-- The lowest-numbered cause of R46 that a descriptor meets. -/
def reject (d : CubeDesc) (accInt : List Nat) : Option Nat :=
  if d.op = 2 then (if 64 < d.accbase + d.mt then some 3 else none)
  else if d.op ≠ 1 ∨ d.rsv ≠ 0 then some 1
  else if !pairingOk d.afmt d.sfmt then some 2
  else if 64 < d.accbase + d.size then some 3
  else if (d.trans && packed d.sfmt) || (d.axp && packed d.afmt) then some 4
  else if (d.mxa || d.mxs) && 5 ≤ d.afmt then some 5
  else if d.abase % 32 ≠ 0 || d.sbase % 32 ≠ 0 || (d.mxa && d.ascale % 8 ≠ 0) || (d.mxs && d.sscale % 8 ≠ 0) || !d.bytesOk then some 6
  else if d.dual && (64 < d.dst2 + d.size || (d.dst2 < d.accbase + d.size && d.accbase < d.dst2 + d.size)) then some 7
  else if d.acc && d.tiles.any (fun t => accInt.contains t ≠ (d.afmt = 7)) then some 8
  else none

end CubeDesc

/-! ### One group (R30-R33, R37, R38) -/

/-- Flags of KP_CUBE_STATUS an element's sum raises: bits 1 INVALID, 2 OVERFLOW, 3 SCALE_NAN, 4 INT_SAT. -/
abbrev CubeFlags := Nat

/-- A magnitude m · 2^e truncated toward zero to a multiple of 2^q, in units of 2^q. -/
def truncTo (neg : Bool) (m : Nat) (e q : Int) : Int :=
  let v : Nat := if q ≤ e then m * 2 ^ (e - q).toNat else m / 2 ^ (q - e).toNat
  if neg then -(v : Int) else v

/-- The largest leading exponent among nonzero finite values. -/
def topExp : List FV → Option Int
  | [] => none
  | .fin _ m e :: xs =>
    if m = 0 then topExp xs
    else match topExp xs with
      | none => some (leadExp m e)
      | some t => some (max t (leadExp m e))
  | _ :: xs => topExp xs

/-- The aligned, truncated sum of finite addends, in units of 2^q. -/
def alignedSum (q : Int) : List FV → Int
  | [] => 0
  | .fin s m e :: xs => truncTo s m e q + alignedSum q xs
  | _ :: xs => alignedSum q xs

/-- The sum of finite addends as R37 forms it: aligned to the largest magnitude, truncated at 48 fraction bits below its
leading bit, summed exactly. -/
def groupSum (xs : List FV) : FV :=
  match topExp xs with
  | none => .fin (xs.all FV.signBit) 0 0
  | some t => FV.ofInt (alignedSum (t - 48) xs) (t - 48)

/-- A floating-point group into an element: products (already scaled), and the accumulator's value when it adds. -/
def fpElem (pairs : List (FV × FV)) (scale : Int) (neg : Bool) (c : Option FV) : Nat × CubeFlags :=
  let prods := pairs.map fun p => FV.mul p.1 p.2
  let adds := prods.map fun p => let v := p.1.scale scale; if neg then v.neg else v
  let xs := match c with | none => adds | some v => v :: adds
  if pairs.any (fun p => p.1.isNan || p.2.isNan) || (match c with | some v => v.isNan | none => false) then (fp32.nanCode, 0)
  else if prods.any Prod.snd then (fp32.nanCode, 2)
  else if xs.any (fun v => v = .inf true) && xs.any (fun v => v = .inf false) then (fp32.nanCode, 2)
  else if xs.any (fun v => v = .inf true) then ((fp32.encode (.inf true)).1, 0)
  else if xs.any (fun v => v = .inf false) then ((fp32.encode (.inf false)).1, 0)
  else
    let (r, o) := fp32.encode (groupSum xs)
    (r, if o then 4 else 0)

/-- An INT8 group into an INT32 element (R33). -/
def intElem (pairs : List (Nat × Nat)) (neg : Bool) (c : Option Nat) : Nat × CubeFlags :=
  let sum := pairs.foldl (fun a p => a + toSigned 8 p.1 * toSigned 8 p.2) 0
  let base := match c with | none => 0 | some x => toSigned 32 x
  let (r, o) := saturate (-(2 ^ 31)) (2 ^ 31 - 1) (base + (if neg then -sum else sum))
  (ofSigned 32 r, if o then 16 else 0)

/-! ### Tiles in scratchpad (R29, R152) -/

/-- A tile or block as one packed number. -/
def Core.tileVal (k : Core) (addr n : Nat) : Nat := leVal (k.spadRead addr n)

/-- Element (i, x) of an A tile; with AXP stored element (x, i). -/
def aElem (d : CubeDesc) (tile i x : Nat) : Nat :=
  packedElem tile (fmtBits d.afmt) (if d.axp then x * 8 + i else i * kappa d.afmt + x)

/-- Entry of an S block feeding cell column j at depth x; TRANS swaps the indices (R25). -/
def sElem (d : CubeDesc) (blk x j : Nat) : Nat := packedElem blk (fmtBits d.sfmt) (if d.trans then j * 8 + x else x * 8 + j)

def codeVal (f x : Nat) : FV := match fltOf f with | some t => t.decode x | none => .nan

/-- One element of a group's result with the flags it raises. -/
def groupElem (d : CubeDesc) (a s asc ssc : Nat) (neg : Bool) (c : Option W32) (i j : Nat) : W32 × CubeFlags :=
  let codes := (List.range (kappa d.afmt)).map fun x => (aElem d a i x, sElem d s x j)
  let ea := if d.mxa then packedElem asc 8 i else 127
  let es := if d.mxs then packedElem ssc 8 j else 127
  let r :=
    if d.afmt = 7 then intElem codes neg (c.map BitVec.toNat)
    else if ea = 255 ∨ es = 255 then (fp32.nanCode, 8)
    else fpElem (codes.map fun p => (codeVal d.afmt p.1, codeVal d.sfmt p.2)) ((ea : Int) + es - 254) neg
      (c.map fun x => fp32.decode x.toNat)
  (BitVec.ofNat 32 r.1, r.2)

/-! ### Accumulators -/

def accKey (t e : Nat) : Nat := t / 64 * 4096 + t % 64 * 64 + e
def Core.accElem (k : Core) (t e : Nat) : W32 := Fm.get 0 (accKey t e) k.acc
def Core.setAccElem (k : Core) (t e : Nat) (v : W32) : Core := { k with acc := Fm.set 0 (accKey t e) v k.acc }

/-- Sticky flags of KP_CUBE_STATUS. -/
def Core.orCube (fl : CubeFlags) (k : Core) : Core :=
  if fl = 0 then k else { k with regs := setReg .kp 0x40 (getReg .kp 0x40 k.regs ||| BitVec.ofNat 64 fl) k.regs }

/-- Mark a tile's type; mark or clear its poison. -/
def Core.tagTile (t : Nat) (int : Bool) (k : Core) : Core := { k with accInt := if int then sins t k.accInt else sdel t k.accInt }
def Core.poisonTile (t : Nat) (bad : Bool) (k : Core) : Core :=
  { k with accPoison := if bad then sins t k.accPoison else sdel t k.accPoison }

/-- Add or write one group into tile `t` of a cube: `fresh` overwrites. -/
def addGroup (d : CubeDesc) (a s asc ssc t : Nat) (neg fresh bad : Bool) (k : Core) : Core :=
  let k := if fresh then (k.tagTile t (d.afmt = 7)).poisonTile t bad else if bad then k.poisonTile t true else k
  (List.range 64).foldl (fun k e =>
    let c := if fresh then none else some (k.accElem t e)
    let (v, fl) := groupElem d a s asc ssc neg c (e / 8) (e % 8)
    (k.setAccElem t e v).orCube fl) k

/-- The entries of an S block as the plane holds them (R24): 16 bits each, a packed format's two values in one. -/
def planeEntry (d : CubeDesc) (blk e : Nat) : BitVec 16 :=
  let w := fmtBits d.sfmt
  if packed d.sfmt then BitVec.ofNat 16 (packedElem blk w e + packedElem blk w (64 + e) * 256)
  else BitVec.ofNat 16 (packedElem blk w e)

/-- Load a block into the back plane of a cube; the planes exchange roles at its first group (R24). -/
def loadPlane (d : CubeDesc) (c blk : Nat) (k : Core) : Core :=
  let back := if k.front.getD c false then 0 else 1
  let key := (c * 2 + back) * 64
  { k with planes := (List.range 64).foldl (fun m e => Fm.set 0 (key + e) (planeEntry d blk e) m) k.planes,
           front := (List.range 2).map fun i => if i = c then !(k.front.getD c false) else k.front.getD i false }

/-- The visit of cube `c` at (n, x, m): one group into its tile, and into the second destination with DUAL (R44). -/
def visit (d : CubeDesc) (c n x m : Nat) (k : Core) : Core :=
  let aA := d.aAddr (d.aIdx c m) x
  let sA := d.sAddr (d.sIdx c n) x
  let a := k.tileVal aA (tileBytes d.afmt)
  let s := k.tileVal sA (tileBytes d.sfmt)
  let asc := if d.mxa then k.tileVal (d.asAddr (d.aIdx c m) x) 8 else 0
  let ssc := if d.mxs then k.tileVal (d.ssAddr (d.sIdx c n) x) 8 else 0
  let bad := k.spadPoisoned aA (tileBytes d.afmt) || k.spadPoisoned sA (tileBytes d.sfmt) ||
    (d.mxa && k.spadPoisoned (d.asAddr (d.aIdx c m) x) 8) || (d.mxs && k.spadPoisoned (d.ssAddr (d.sIdx c n) x) 8)
  let fresh := !d.acc && x = 0
  let k := addGroup d a s asc ssc (c * 64 + d.tile m n) d.negp fresh bad k
  if d.dual then addGroup d a s asc ssc (c * 64 + d.tile2 m n) d.neg2 fresh bad k else k

/-- The groups of an MMA in the order of R44. -/
def runMma (d : CubeDesc) (k : Core) : Core :=
  (List.range d.nt).foldl (fun k n =>
    (List.range d.ks).foldl (fun k x =>
      let k := d.cubes.foldl (fun k c => loadPlane d c (k.tileVal (d.sAddr (d.sIdx c n) x) (tileBytes d.sfmt)) k) k
      (List.range d.mt).foldl (fun k m => d.cubes.foldl (fun k c => visit d c n x m k) k) k) k) k

/-- The byte ranges an MMA reads, each once for every (n, k) set that reads it. -/
def mmaReads (d : CubeDesc) : List (Nat × Nat) :=
  (List.range d.nt).flatMap fun n => (List.range d.ks).flatMap fun x =>
    (d.cubes.map (fun c => (d.sAddr (d.sIdx c n) x, tileBytes d.sfmt))).eraseDups ++
    (if d.mxs then (d.cubes.map fun c => (d.ssAddr (d.sIdx c n) x, 8)).eraseDups else []) ++
    (List.range d.mt).flatMap fun m =>
      (d.cubes.map fun c => (d.aAddr (d.aIdx c m) x, tileBytes d.afmt)).eraseDups ++
      (if d.mxa then (d.cubes.map fun c => (d.asAddr (d.aIdx c m) x, 8)).eraseDups else [])

/-! ### The scoreboard with the chain unit (R34) -/

/-- The accumulator tiles a chain descriptor reads on its beats from `b0`. -/
def chainTiles (ws : List Word) (b0 : Nat) : List Nat :=
  let beats := bitsOf (wordAt ws 0) 13 16 + 1
  [wordAt ws 1, wordAt ws 2].flatMap fun w =>
    if bitsOf w 0 2 = 1 then
      (List.range (min 64 (beats - b0))).map fun i => bitsOf w 20 1 * 64 + (bitsOf w 8 6 + (b0 + i) * bitsOf w 14 6) % 64
    else []

/-- No chain issued before `seq` still has a read of one of the tiles to make; a rejected chain makes none. -/
def Core.chainsClear (k : Core) (seq : Nat) (ts : List Nat) : Bool :=
  (if k.chainBad = some true then k.chainQ.drop 1 else k.chainQ).all (fun q => seq < q.seq || (chainTiles q.words 0).all fun t => !ts.contains t) &&
  (match k.chainRun with
   | none => true
   | some r => seq < r.slot.seq || (chainTiles r.slot.words r.beat).all fun t => !ts.contains t)

/-- No cube descriptor issued before `seq` is still to write one of the tiles. -/
def Core.cubesClear (k : Core) (seq : Nat) (ts : List Nat) : Bool :=
  k.cubeQ.all (fun q => seq < q.seq || (decodeCube q.words).tiles.all fun t => !ts.contains t) &&
  (match k.cubeRun with
   | none => true
   | some r => r.rejected || seq < r.slot.seq || (decodeCube r.slot.words).tiles.all fun t => !ts.contains t)

end Sys2Proof.Machine
end

