-- ==== Sys2Proof/Machine/Func.lean ====
section
/-! DEFINITION. The nine chain operations whose result R651 bounds and does not fix: RCP, RSQRT, EXP2, LOG2, EXP, TANH,
SIGM, SILU and GELU. Each is computed far beyond FP32's precision, and the free value of Config is taken where it lies
within the bound of R65's Accuracy column (log entry 8). -/

namespace Sys2Proof.Machine

/-- Fraction bits of the fixed-point numbers below. -/
def fixBits : Nat := 160

/-- ln 2 and √(2/π), in units of 2^-160, rounded down. -/
def fixLn2 : Int := 1013035739299659071135698605846798551586536899366
def fixGelu : Int := 1166109592014436081468383460887399764390691815008

def fixOne : Int := (2 ^ fixBits : Nat)
def fixMul (a b : Int) : Int := a * b / fixOne
def fixDiv (a b : Int) : Int := a * fixOne / b

/-- A finite value in fixed point, limited to ±256: beyond it each function below is at its limit to within far less than
the smallest FP32 step. -/
def fixOf (neg : Bool) (m : Nat) (e : Int) : Int :=
  let lim : Int := 256 * fixOne
  let mag : Int :=
    if 9 < leadExp m e then lim
    else if -(fixBits : Int) ≤ e then (m * 2 ^ (e + fixBits).toNat : Nat) else (m / 2 ^ (-(e + fixBits)).toNat : Nat)
  if neg then -(min mag lim) else min mag lim

/-- The series of e^r for |r| at most 1: the terms from number `n` on, `t` being the term of number n - 1. -/
def fixExpFrom (r : Int) : Nat → Nat → Int → Int
  | 0, _, _ => 0
  | k + 1, n, t => let u := fixMul t r / n; u + fixExpFrom r k (n + 1) u

/-- e^y as a value a · 2^(k - 160), by y = k · ln 2 + r. -/
def fixExp (y : Int) : Int × Int :=
  let k := y / fixLn2
  (fixOne + fixExpFrom (y - k * fixLn2) 48 1 fixOne, k)

/-- e^y in fixed point, for y not above 0. -/
def fixExpNeg (y : Int) : Int :=
  let r := fixExp y
  if 0 ≤ r.2 then r.1 * 2 ^ r.2.toNat else r.1 / 2 ^ (-r.2).toNat

/-- The series of 2 · artanh z: the terms from exponent `n` on, `p` being z to that exponent. -/
def fixLnFrom (z2 : Int) : Nat → Nat → Int → Int
  | 0, _, _ => 0
  | k + 1, n, p => 2 * p / n + fixLnFrom z2 k (n + 2) (fixMul p z2)

/-- log2 of m · 2^e, m above 0. -/
def fixLog2 (m : Nat) (e : Int) : Int :=
  let t : Int := (m * 2 ^ fixBits / 2 ^ Nat.log2 m : Nat)
  let z := fixDiv (t - fixOne) (t + fixOne)
  leadExp m e * fixOne + fixDiv (fixLnFrom (fixMul z z) 56 1 z) fixLn2

/-- 1 / (1 + e^-y). -/
def fixSigm (y : Int) : Int :=
  let g := fixExpNeg (-(y.natAbs : Int))
  if y < 0 then fixDiv g (fixOne + g) else fixDiv fixOne (fixOne + g)

/-- tanh y. -/
def fixTanh (y : Int) : Int :=
  let g := fixExpNeg (-(2 * y.natAbs : Nat))
  let t := fixDiv (fixOne - g) (fixOne + g)
  if y < 0 then -t else t

/-- A fixed-point number as a value. -/
def fvFix (x : Int) : FV := FV.ofInt x (-(fixBits : Int))

/-- The function of a finite value away from the special values of R66, to a relative precision far beyond FP32's, or, where
R65 allows an absolute error, to an absolute one (R65). -/
def unaryExact (opc : Nat) (neg : Bool) (m : Nat) (e : Int) : FV :=
  let x := fixOf neg m e
  match opc with
  | 0x10 => .fin neg (2 ^ (fixBits + 64) / m) (-e - (fixBits + 64 : Nat))
  | 0x11 =>
    let k : Int := if e % 2 = 0 then 0 else 1
    .fin false (isqrt (2 ^ (2 * fixBits) / (m * 2 ^ k.toNat))) (-(e - k) / 2 - fixBits)
  | 0x13 =>
    let k := x / fixOne
    .fin false (fixExp (fixMul (x - k * fixOne) fixLn2)).1.natAbs ((fixExp (fixMul (x - k * fixOne) fixLn2)).2 + k - fixBits)
  | 0x14 => fvFix (fixLog2 m e)
  | 0x15 => let r := fixExp x; .fin false r.1.natAbs (r.2 - fixBits)
  | 0x16 => fvFix (fixTanh x)
  | 0x17 => fvFix (fixSigm x)
  | 0x18 => (FV.mul (.fin neg m e) (fvFix (fixSigm x))).1
  | _ =>
    let u := fixMul fixGelu (x + 44715 * fixMul (fixMul x x) x / 1000000)
    (FV.mul (.fin neg m (e - 1)) (fvFix (fixOne + fixTanh (max (-(256 * fixOne)) (min u (256 * fixOne)))))).1

/-- The bound of R65's Accuracy column: units in the last place, and the exponent of the absolute error where one is
given. -/
def unaryBound : Nat → Nat × Option Int
  | 0x10 | 0x11 => (1, none)
  | 0x13 | 0x14 => (2, none)
  | 0x15 => (3, none)
  | 0x16 | 0x17 => (4, some (-24))
  | _ => (8, some (-22))

/-- The exponent of the FP32 unit in the last place at a magnitude m · 2^e, m having many more bits than FP32; a
magnitude just under a power of two counts as that power. -/
def ulpExp (m : Nat) (e : Int) : Int :=
  max (leadExp (m + m / 2 ^ 64) e - fp32.mb) fp32.qmin

/-- Whether a value lies within the bound of an exact one; an infinity stands for 2^128, where FP32's next step would
be. 2^-64 of a unit is allowed for the precision of the exact value. -/
def withinBound (opc : Nat) : FV → FV → Bool
  | .fin s n d, .fin neg m e =>
    let u := ulpExp m e
    let q := min (min d e) (u - 64)
    let q := match (unaryBound opc).2 with | some a => min q a | none => q
    let lim := max (scaleTo false (unaryBound opc).1 u q) (match (unaryBound opc).2 with | some a => scaleTo false 1 a q | none => 0)
    (scaleTo s n d q - scaleTo neg m e q).natAbs ≤ lim + scaleTo false 1 (u - 64) q
  | .inf s, .fin neg m e => s = neg && withinTop m e
  | _, _ => false
where
  withinTop (m : Nat) (e : Int) : Bool :=
    let u := ulpExp m e
    let q := min (min 128 e) (u - 64)
    (scaleTo false 1 128 q - scaleTo false m e q).natAbs ≤ scaleTo false (unaryBound opc).1 u q + scaleTo false 1 (u - 64) q

/-- The FP32 result of one of the nine operations, and whether a finite result lies beyond the range (R65, R66, R651): the
free value of Config where the bound admits it, else the nearest value. -/
def unaryResult (opc key : Nat) (neg : Bool) (m : Nat) (e : Int) : Nat × Bool :=
  let v := unaryExact opc neg m e
  let c := (Config.chainFunction opc key (BitVec.ofNat 32 (fp32.encode (.fin neg m e)).1)).toNat
  if withinBound opc (fp32.decode c) v then (c, (fp32.decode c).isInf) else fp32.encode v

end Sys2Proof.Machine
end

