-- ==== Sys2Proof/Machine/ChainOps.lean ====
section
/-! DEFINITION. The chain unit's arithmetic: stage operations on lanes (R65-R71, R649-R651), conversion (R73-R76),
packing (R59-R62), envelope statistics (R77-R79), descriptor fields and their checks (R80, R81, R83). -/

namespace Sys2Proof.Machine

/-- The values of a beat, one code per lane. -/
abbrev Lanes := List Nat

/-- Flags of KP_CHAIN_STATUS by bit: 1 INVALID, 2 OVERFLOW, 3 SAT, 4 CVT_NAN, 5 SCALE_NAN. -/
abbrev ChainFlags := Nat

/-- Zip three lists. -/
def zip3 (f : Nat → Nat → Nat → Nat × ChainFlags) : Lanes → Lanes → Lanes → List (Nat × ChainFlags)
  | a :: as, b :: bs, c :: cs => f a b c :: zip3 f as bs cs
  | _, _, _ => []

def orFlags (l : List (Nat × ChainFlags)) : Lanes × ChainFlags := (l.map Prod.fst, l.foldl (fun a p => a ||| p.2) 0)

/-! ### Descriptor (R64, R80, R81) -/

structure ChainHdr where
  nst : Nat
  lm : Bool
  f16 : Bool
  waitprev : Bool
  flagen : Bool
  flag : Nat
  beats : Nat
  period : Nat
  rsv : Nat
  deriving DecidableEq, Repr

structure Stream where
  kind : Nat
  fmt : Nat
  xp : Bool
  pend : Bool
  base : Nat
  stride : Nat
  stg : Nat
  tbase : Nat
  tstep : Nat
  cube : Nat
  rsv : Nat
  deriving DecidableEq, Repr

structure StageWord where
  opc : Nat
  srca : Nat
  srcb : Nat
  srcc : Nat
  mode : Nat
  tally : Nat
  scope : Nat
  across : Bool
  rsv : Nat
  imm : Nat
  deriving DecidableEq, Repr

structure ChainDesc where
  hdr : ChainHdr
  in0 : Stream
  in1 : Stream
  out0 : Stream
  out1 : Stream
  stages : List StageWord
  deriving DecidableEq, Repr

def decodeHdr (w : Word) : ChainHdr :=
  { nst := bitsOf w 0 3 + 1, lm := bitAt w 3, f16 := bitAt w 4, waitprev := bitAt w 5, flagen := bitAt w 6,
    flag := bitsOf w 7 6, beats := bitsOf w 13 16 + 1, period := bitsOf w 29 12 + 1, rsv := bitsOf w 41 23 }

def decodeStream (w : Word) : Stream :=
  { kind := bitsOf w 0 2, fmt := bitsOf w 2 4, xp := bitAt w 6, pend := bitAt w 7, base := bitsOf w 8 23,
    stride := bitsOf w 31 20, stg := bitsOf w 51 3, tbase := bitsOf w 8 6, tstep := bitsOf w 14 6, cube := bitsOf w 20 1,
    rsv := bitsOf w 54 10 + (if bitsOf w 0 2 = 1 then bitsOf w 21 30 else 0) }

def decodeStage (w : Word) : StageWord :=
  { opc := bitsOf w 0 6, srca := bitsOf w 6 6, srcb := bitsOf w 12 6, srcc := bitsOf w 18 6, mode := bitsOf w 24 8,
    tally := bitsOf w 32 3, scope := bitsOf w 35 2, across := bitAt w 37, rsv := bitsOf w 38 2, imm := bitsOf w 40 24 }

def decodeChain (ws : List Word) : ChainDesc :=
  let h := decodeHdr (wordAt ws 0)
  { hdr := h, in0 := decodeStream (wordAt ws 1), in1 := decodeStream (wordAt ws 2), out0 := decodeStream (wordAt ws 3),
    out1 := decodeStream (wordAt ws 4), stages := (List.range h.nst).map fun i => decodeStage (wordAt ws (5 + i)) }

def ChainHdr.lanes (h : ChainHdr) : Nat := if h.lm then 128 else 64
/-- The working format of lane mode 1 (R55), FP32 in lane mode 0. -/
def ChainHdr.flt (h : ChainHdr) : Flt := if h.lm then (if h.f16 then fp16 else bf16) else fp32
def ChainHdr.wfCode (h : ChainHdr) : Nat := if h.f16 then 6 else 5
/-- Bytes of a beat of a format (R59). -/
def ChainHdr.beatBytes (h : ChainHdr) (fmt : Nat) : Nat := h.lanes * fmtBits fmt / 8

/-- Operands an operation uses; none for an undefined OPC (R65). -/
def opArity : Nat → Option Nat
  | 0x00 | 0x07 | 0x08 | 0x10 | 0x11 | 0x12 | 0x13 | 0x14 | 0x15 | 0x16 | 0x17 | 0x18 | 0x19 => some 1
  | 0x20 | 0x21 | 0x22 | 0x24 | 0x2A | 0x2B | 0x2C | 0x2D | 0x2E | 0x2F => some 1
  | 0x01 | 0x02 | 0x03 | 0x05 | 0x06 | 0x25 | 0x26 | 0x27 | 0x28 => some 2
  | 0x30 | 0x31 | 0x32 | 0x33 | 0x34 | 0x35 | 0x36 | 0x37 | 0x38 | 0x39 | 0x3A => some 2
  | 0x04 | 0x09 | 0x29 => some 3
  | _ => none

/-- Operations permitted in lane mode 1 (R65). -/
def opMode1 (opc : Nat) : Bool := opc ≤ 0x20 || opc = 0x28 || opc = 0x29 || opc = 0x2F

/-- Operations that read INT32 lanes and a sign-extended IMM (R55, R58). Operations that are neither floating-point nor integer read an
IMM source as floating-point ones do: R58 does not say (log entry 77). -/
def opInt (opc : Nat) : Bool := opc = 0x22 || 0x30 ≤ opc

def opReduces (opc : Nat) : Bool := 0x2A ≤ opc && opc ≤ 0x2E

def StageWord.sources (t : StageWord) : List Nat := [t.srca, t.srcb, t.srcc].take ((opArity t.opc).getD 0)

/-- An MX conversion, the beats its blocks span and the blocks that complete together (R75). -/
def StageWord.isMx (t : StageWord) : Bool := t.opc = 0x20 && t.mode.testBit 5
def StageWord.mxg (t : StageWord) : Nat := t.mode / 64
def mxBeats (g : Nat) : Nat := match g with | 0 => 1 | 1 => 4 | 2 => 2 | _ => 4
def StageWord.span (t : StageWord) : Nat := if t.isMx then mxBeats t.mxg else 1
def mxBlocks (h : ChainHdr) (g : Nat) : Nat :=
  if h.lm then 4 else match g with | 0 => 2 | 1 => 8 | 2 => 4 | _ => 8

/-! ### Descriptor checks (R83) -/

/-- A broken rule: its cause and the stage, 0 for the header. -/
abbrev Broken := Nat × Nat

def brk (ok : Bool) (cause stage : Nat) : List Broken := if ok then [] else [(cause, stage)]

/-- Rules of an input or sink stream; `k` is 0-3 for IN0, IN1, OUT0, OUT1. XP on OUT0, and XP or PEND where R81 gives them no meaning, are
ignored; of a sink with SCALE only a reserved FMT is refused (log entry 77). -/
def streamBroken (d : ChainDesc) (k : Nat) (s : Stream) : List Broken :=
  let h := d.hdr
  let common := brk (s.rsv = 0) 1 0 ++ brk (s.kind ≠ 3) 2 0
  if s.kind = 1 then common ++ brk (k < 2) 2 0 ++ brk (!h.lm) 4 0
  else if s.kind ≠ 2 then common
  else
    let stage := if k < 2 then none else d.stages[s.stg]?
    let stgOk := k < 2 || s.stg < h.nst
    if k = 3 && s.xp then
      let mx := match stage with | some t => t.isMx | none => false
      let blocks := match stage with | some t => h.beats / t.span * mxBlocks h t.mxg | none => 0
      common ++ brk stgOk 6 0 ++ brk ((!stgOk || mx) && s.fmt ≤ 10) 3 0 ++ brk (s.base % 8 = 0 && (!mx || inSpad s.base blocks)) 5 0
    else
      let fmtOk :=
        if k < 2 then !(h.lm && (s.fmt = 5 || s.fmt = 6) && s.fmt ≠ h.wfCode) &&
          !(s.xp && (fmtBits s.fmt ≠ 8 && fmtBits s.fmt ≠ 16 && fmtBits s.fmt ≠ 32))
        else
          s.fmt = 10 || (if h.lm then s.fmt = h.wfCode else s.fmt = 8 || s.fmt = 9) ||
          (match stage with
           | some t => (t.opc = 0x20 && s.fmt = t.mode % 16) || (t.opc = 0x21 && s.fmt = 5)
           | none => s.fmt ≤ 7)
      let n := if 2 ≤ k && s.pend then h.beats / h.period else h.beats
      let bytesOk := n = 0 || inSpad (s.base + 8 * (n - 1) * s.stride) (h.beatBytes s.fmt)
      common ++ brk (s.fmt ≤ 10 && fmtOk) 3 0 ++ brk (!(h.lm && (s.fmt = 8 || s.fmt = 9))) 4 0 ++
        brk (s.base % 8 = 0 && bytesOk) 5 0 ++ brk stgOk 6 0

/-- A source code a stage may not name (R56). -/
def sourceOk (d : ChainDesc) (i s : Nat) : Bool :=
  if s < 8 then s < i
  else if s = 8 then d.in0.kind ≠ 0
  else if s = 9 then d.in1.kind ≠ 0
  else s < 0x0D || (0x10 ≤ s && s < 0x18) || 0x20 ≤ s

def StageWord.envSlot (t : StageWord) : Nat := t.imm / 2 ^ 16 % 4
def StageWord.envId (t : StageWord) : Nat := t.imm % 2 ^ 16
def StageWord.opens (t : StageWord) : Bool := t.mode.testBit 1
def StageWord.closes (t : StageWord) : Bool := t.mode.testBit 0

/-- Rules of stage `i`; where two ENV stages name one slot the later one breaks the rule (log entry 77). -/
def stageBroken (d : ChainDesc) (env : FMap EnvSlot) (i : Nat) (t : StageWord) : List Broken :=
  let h := d.hdr
  let target := t.mode % 16
  brk ((opArity t.opc).isSome && t.rsv = 0 && !(t.opc = 0x24 && 6 < t.mode) && !(t.opc = 0x28 && t.mode % 8 = 7)) 1 i ++
  brk (t.sources.all (sourceOk d i)) 2 i ++
  brk (!h.lm || (opArity t.opc).isNone || opMode1 t.opc) 4 i ++
  brk (t.opc ≠ 0x20 ||
    ((if h.lm then target < 5 || target = 7 else target < 8 || target = 9) &&
     (!t.isMx || (target < 5 && h.beats % t.span = 0 && (!h.lm || t.mxg = 0))))) 7 i ++
  (if t.opc = 0x2F then
    let e := Fm.get {} t.envSlot env
    brk ((t.opens || (e.isOpen && e.envid = t.envId)) &&
      (d.stages.take i).all (fun u => u.opc ≠ 0x2F || u.envSlot ≠ t.envSlot)) 8 i
   else [])

/-- The stages numbered. -/
def numbered {α : Type} : Nat → List α → List (Nat × α)
  | _, [] => []
  | i, a :: as => (i, a) :: numbered (i + 1) as

/-- The lowest cause, and with it the lowest stage. -/
def lowest : List Broken → Option Broken
  | [] => none
  | b :: bs => match lowest bs with
    | none => some b
    | some m => some (if b.1 < m.1 || (b.1 = m.1 && b.2 ≤ m.2) then b else m)

/-! ### How long a chain takes (R65, R84, R85) -/

/-- Scratchpad bytes a stream moves per beat. -/
def ChainHdr.streamBytes (h : ChainHdr) (s : Stream) : Nat := if s.kind = 2 then h.beatBytes s.fmt else 0

/-- The beat interval of a chain, in compute cycles (R85). -/
def ChainDesc.interval (d : ChainDesc) : Nat :=
  let h := d.hdr
  let scale := match d.stages[d.out1.stg]? with | some t => mxBlocks h t.mxg | none => 0
  let wr := h.streamBytes d.out0 + (if d.out1.kind = 2 && d.out1.xp then scale else h.streamBytes d.out1)
  let rd := h.streamBytes d.in0 + h.streamBytes d.in1
  let twice := d.in0.kind = 1 && d.in1.kind = 1 && d.in0.cube = d.in1.cube
  max (max 1 (if twice then 2 else 1)) (max ((rd + 255) / 256) ((wr + 255) / 256))

/-- The latency of a stage (R65). -/
def stageLatency (interval : Nat) (t : StageWord) : Nat :=
  match t.opc with
  | 0x01 | 0x02 | 0x03 | 0x21 | 0x32 => 3
  | 0x04 => 4
  | 0x10 | 0x11 | 0x12 => 5
  | 0x13 | 0x14 => 6
  | 0x15 => 7
  | 0x16 | 0x17 => 8
  | 0x18 | 0x19 => 10
  | 0x20 => if t.isMx then 5 + (t.span - 1) * interval else 2
  | 0x22 | 0x25 => 2
  | 0x2A | 0x2D => (match t.scope with | 0 => 2 | 3 => 8 | _ => 5)
  | 0x2B | 0x2C | 0x2E => (match t.scope with | 0 => 1 | 3 => 5 | _ => 3)
  | _ => 1

/-- The ready times of stages, given those of the stages before (R84). -/
def readyTimes (d : ChainDesc) : List Nat → List StageWord → List Nat
  | ts, [] => ts
  | ts, t :: rest =>
    let src (s : Nat) : Nat :=
      if s < 8 then ts.getD s 0
      else if s = 8 then (if d.in0.kind = 1 then 1 else 6)
      else if s = 9 then (if d.in1.kind = 1 then 1 else 6)
      else 0
    readyTimes d (ts ++ [t.sources.foldl (fun m s => max m (src s)) 0 + stageLatency d.interval t]) rest

/-- The depth of a chain (R84). -/
def ChainDesc.depth (d : ChainDesc) : Nat :=
  let ts := readyTimes d [] d.stages
  let sinks := ([d.out0, d.out1].filter fun s => s.kind = 2).map fun s => ts.getD s.stg 0 + 1
  let own := (numbered 0 d.stages).map fun p =>
    if p.2.opc = 0x2F then ts.getD p.1 0 + 2 else if opReduces p.2.opc && p.2.across then ts.getD p.1 0 else 0
  (sinks ++ own).foldl max 0

/-- The rule a chain descriptor breaks, if any (R83). -/
def ChainDesc.reject (d : ChainDesc) (env : FMap EnvSlot) : Option Broken :=
  lowest (brk (d.hdr.rsv = 0) 1 0 ++ streamBroken d 0 d.in0 ++ streamBroken d 1 d.in1 ++ streamBroken d 2 d.out0 ++
    streamBroken d 3 d.out1 ++ (numbered 0 d.stages).flatMap fun p => stageBroken d env p.1 p.2)

/-- DESC_ERR, and where it was clear the cause and the stage (R83). -/
def Core.chainErr (b : Broken) (k : Core) : Core :=
  let k := if k.getF Reg.KP_CHAIN_STATUS_DESCERR = 1 then k
    else (k.setF Reg.KP_CHAIN_STATUS_ERRCAUSE b.1).setF Reg.KP_CHAIN_STATUS_ERRSTAGE b.2
  k.setF Reg.KP_CHAIN_STATUS_DESCERR 1

/-- A chain that has reached the head of the queue is checked there, once, against the slots as they then stand (R83, R84). -/
def Core.chainJudge (k : Core) : Core :=
  match k.chainBad, k.chainQ with
  | none, q :: _ =>
    if !q.entered then k
    else match (decodeChain q.words).reject k.env with
      | some b => { k.chainErr b with chainBad := some true }
      | none => { k with chainBad := some false }
  | _, _ => k

/-! ### Lane operations -/

/-- An FP32 result with its overflow, in lane mode 1 rounded to the working format (R66, R67). -/
def froundCode (h : ChainHdr) (r : Nat × Bool) : Nat × ChainFlags :=
  let (c, o) := r
  if h.lm then
    let (c2, o2) := h.flt.encode (fp32.decode c)
    (c2, if o || o2 then 4 else 0)
  else (c, if o then 4 else 0)

/-- A value rounded to FP32, and in lane mode 1 to the working format (R66, R67). -/
def fround (h : ChainHdr) (v : FV) : Nat × ChainFlags := froundCode h (fp32.encode v)

/-- The canonical NaN of the lanes. -/
def laneNan (h : ChainHdr) : Nat := h.flt.nanCode

/-- The result of an operation that may be invalid (R66). -/
def invalidOr (h : ChainHdr) (r : FV × Bool) : Nat × ChainFlags :=
  if r.2 then (laneNan h, 2) else fround h r.1

/-- The smaller or larger of two codes, -0 below +0 (R66). -/
def pick (h : ChainHdr) (larger : Bool) (a b : Nat) : Nat :=
  let x := h.flt.decode a
  let y := h.flt.decode b
  if (if larger then x.below y else y.below x) then b else a

/-- The special values of the single-operand functions (R66). -/
def specialValue (opc : Nat) (v : FV) : Option FV :=
  match opc, v with
  | 0x10, .fin s 0 _ => some (.inf s)
  | 0x10, .inf s => some (.fin s 0 0)
  | 0x11, .fin s 0 _ => some (.inf s)
  | 0x11, .inf false => some (.fin false 0 0)
  | 0x13, .inf s => some (if s then .fin false 0 0 else .inf false)
  | 0x15, .inf s => some (if s then .fin false 0 0 else .inf false)
  | 0x14, .fin _ 0 _ => some (.inf true)
  | 0x14, .inf false => some (.inf false)
  | 0x16, .fin s 0 _ => some (.fin s 0 0)
  | 0x16, .inf s => some (.fin s 1 0)
  | 0x17, .inf s => some (if s then .fin false 0 0 else .fin false 1 0)
  | 0x18, .inf s => some (if s then .fin true 0 0 else .inf false)
  | 0x19, .inf s => some (if s then .fin true 0 0 else .inf false)
  | _, _ => none

def FV.belowZero (v : FV) : Bool := v.signBit && !v.isZero

/-- The lanes' format, as the functions of R651 may depend on it. -/
def ChainHdr.key (h : ChainHdr) : Nat := if h.lm then (if h.f16 then 2 else 1) else 0

/-- A single-operand function of a value that is no NaN (R65, R66, R651): SQRT is correctly rounded; the bits of the
others are open within their bound, but for the special values (log entry 8). -/
def unaryFn (h : ChainHdr) (opc a : Nat) : Nat × ChainFlags :=
  let v := h.flt.decode a
  if (opc = 0x11 || opc = 0x12 || opc = 0x14) && v.belowZero then (laneNan h, 2)
  else if opc = 0x12 then fround h v.sqrt
  else match specialValue opc v with
    | some r => fround h r
    | none => match v with
      | .fin s m e => froundCode h (unaryResult opc h.key s m e)
      | _ => (laneNan h, 0)

/-- CMP (R649). -/
def cmpHolds (cond : Nat) (x y : FV) : Bool :=
  let un := x.isNan || y.isNan
  match cond with
  | 0 => x.eqv y
  | 1 => un || !x.eqv y
  | 2 => x.lt y
  | 3 => !un && !y.lt x
  | 4 => y.lt x
  | 5 => !un && !x.lt y
  | _ => un

/-- The fused multiply-add of values, none a NaN. -/
def fmaVal (a b c : FV) : FV × Bool :=
  let p := FV.mul a b
  if p.2 then (.nan, true) else FV.add p.1 c

/-- A floating-point stage on one lane (R65, R66). A NaN operand gives the NaN before an invalid product beside it is looked at (log
entry 77). -/
def fpLane (h : ChainHdr) (opc mode a b c : Nat) : Nat × ChainFlags :=
  let x := h.flt.decode a
  let y := h.flt.decode b
  let z := h.flt.decode c
  let ar := (opArity opc).getD 1
  if opc = 0x28 then ((if cmpHolds (mode % 8) x y then (if h.lm then 0xFFFF else 0xFFFFFFFF) else 0), 0)
  else if x.isNan || (2 ≤ ar && y.isNan) || (3 ≤ ar && z.isNan) then (laneNan h, 0)
  else match opc with
    | 0x01 => invalidOr h (FV.add x y)
    | 0x02 => invalidOr h (FV.add x y.neg)
    | 0x03 => invalidOr h (FV.mul x y)
    | 0x04 => invalidOr h (fmaVal x y z)
    | 0x05 => (pick h false a b, 0)
    | 0x06 => (pick h true a b, 0)
    | 0x07 => (a % 2 ^ (h.flt.width - 1), 0)
    | 0x08 => (a ^^^ 2 ^ (h.flt.width - 1), 0)
    | 0x09 => (pick h false (pick h true a b) c, 0)
    | _ => unaryFn h opc a

/-- An integer stage on one lane (R65). -/
def intLane (opc a b : Nat) : Nat :=
  let x := BitVec.ofNat 32 a
  let y := BitVec.ofNat 32 b
  let n := b % 32
  let r : W32 := match opc with
    | 0x30 => x + y
    | 0x31 => x - y
    | 0x32 => x * y
    | 0x33 => if y.slt x then y else x
    | 0x34 => if x.slt y then y else x
    | 0x35 => x &&& y
    | 0x36 => x ||| y
    | 0x37 => x ^^^ y
    | 0x38 => x <<< n
    | 0x39 => x >>> n
    | _ => x.sshiftRight n
  r.toNat

/-- The lane PERM takes for output lane l (R68). -/
def permLane (mode imm l : Nat) : Nat :=
  match mode with
  | 0 => l % 8 * 8 + l / 8
  | 1 => 63 - l
  | 2 => (l + imm) % 64
  | 3 => imm % 64
  | 4 => l / 8 * 8 + imm % 8
  | 5 => imm % 8 * 8 + l % 8
  | _ => l ^^^ (imm % 64)

def laneAt (a : Lanes) (l : Nat) : Nat := a.getD l 0

/-- PERM, SHUF, ZIP, UZP (R68, R69). -/
def movesLanes (opc mode imm : Nat) (a b : Lanes) : Lanes :=
  let o := mode % 2
  (List.range 64).map fun l =>
    match opc with
    | 0x24 => laneAt a (permLane mode imm l)
    | 0x25 => laneAt a (laneAt b l % 64)
    | 0x26 => laneAt (if l % 2 = 0 then a else b) (32 * o + l / 2)
    | _ => if l < 32 then laneAt a (2 * l + o) else laneAt b (2 * (l - 32) + o)

/-! ### Reductions (R70, R71) -/

def redGroup (scope l : Nat) : List Nat :=
  match scope with
  | 0 => [l]
  | 1 => (List.range 8).map fun t => l / 8 * 8 + t
  | 2 => (List.range 8).map fun t => t * 8 + l % 8
  | _ => List.range 64

/-- A sum of two values rounded to FP32. -/
def addRound (x y : FV) : FV × ChainFlags :=
  if x.isNan || y.isNan then (.nan, 0)
  else match FV.add x y with
    | (_, true) => (.nan, 2)
    | (v, false) => let (c, o) := fp32.encode v; (fp32.decode c, if o then 4 else 0)

def pairUp : List FV → List (FV × ChainFlags)
  | x :: y :: r => addRound x y :: pairUp r
  | [x] => [(x, 0)]
  | [] => []

/-- The pairwise tree in ascending lane order: `n` levels. -/
def treeSum : Nat → List FV × ChainFlags → FV × ChainFlags
  | 0, (l, fl) => (l.headD (.fin false 0 0), fl)
  | n + 1, (l, fl) => let p := pairUp l; treeSum n (p.map Prod.fst, p.foldl (fun a q => a ||| q.2) fl)

def treeLevels (scope : Nat) : Nat := match scope with | 0 => 0 | 3 => 6 | _ => 3

/-- The exact square of a value. -/
def FV.sq (v : FV) : FV := (FV.mul v v).1

/-- Maximum or minimum with NaN propagated (R66). -/
def pickRed (larger : Bool) (a b : Nat) : Nat :=
  if (fp32.decode a).isNan || (fp32.decode b).isNan then fp32.nanCode
  else if (if larger then (fp32.decode a).below (fp32.decode b) else (fp32.decode b).below (fp32.decode a)) then b else a

def absCode (a : Nat) : Nat := if (fp32.decode a).isNan then fp32.nanCode else a % 2 ^ 31

/-- The within-beat result of a reduction at lane l. -/
def reduceLane (opc scope : Nat) (a : Lanes) (l : Nat) : Nat × ChainFlags :=
  let xs := (redGroup scope l).map (laneAt a)
  match opc with
  | 0x2A | 0x2D =>
    let vs := xs.map fun c => let v := fp32.decode c; if opc = 0x2D then v.sq else v
    let (v, fl) := treeSum (treeLevels scope) (vs, 0)
    let (c, o) := fp32.encode v
    (c, fl ||| (if o then 4 else 0))
  | 0x2B => (xs.tail.foldl (pickRed true) (pickRed true (xs.headD 0) (xs.headD 0)), 0)
  | 0x2C => (xs.tail.foldl (pickRed false) (pickRed false (xs.headD 0) (xs.headD 0)), 0)
  | _ => ((xs.map absCode).foldl (pickRed true) 0, 0)

/-- The identity of R71. -/
def redIdentity : Nat → Nat
  | 0x2B => 0xFF800000
  | 0x2C => 0x7F800000
  | _ => 0

/-- The combination of a tally lane with a within-beat result. -/
def redCombine (opc t x : Nat) : Nat × ChainFlags :=
  match opc with
  | 0x2A | 0x2D => let (v, fl) := addRound (fp32.decode t) (fp32.decode x); ((fp32.encode v).1, fl)
  | 0x2C => (pickRed false t x, 0)
  | _ => (pickRed true t x, 0)

/-! ### Conversion (R73-R76) -/

/-- A magnitude rounded to an integer. -/
def roundInt (up : Nat → Nat → Nat → Bool) (m : Nat) (e : Int) : Nat :=
  if 0 ≤ e then m * 2 ^ e.toNat
  else
    let unit := 2 ^ (-e).toNat
    let q := m / unit
    if up q (m % unit) unit then q + 1 else q

/-- CVT of one value to target code `t` (R73); `up` is the rounding in use. -/
def cvtVal (t : Nat) (up : Nat → Nat → Nat → Bool) (v : FV) : Nat × ChainFlags :=
  match fltOf t with
  | some f =>
    match v with
    | .nan => if f.sp = .none then (0, 16) else (f.nanCode, 0)
    | .inf s => if f.sp = .ieee then (f.signed s (f.maxCode + 1), 0) else (f.signed s f.maxCode, 8)
    | .fin s m e =>
      let c := f.roundMag up m e
      if f.maxCode < c then (f.signed s f.maxCode, 8) else (f.signed s c, 0)
  | none =>
    let w := if t = 7 then 8 else 32
    let top : Int := 2 ^ (w - 1)
    match v with
    | .nan => (0, 16)
    | .inf s => (ofSigned w (if s then -top else top - 1), 8)
    | .fin s m e =>
      let n : Int := roundInt up m e
      let (r, o) := saturate (-top) (top - 1) (if s then -n else n)
      (ofSigned w r, if o then 8 else 0)

/-- SplitMix64 (R74). -/
def drawAt (seed : Word) (n : Nat) : Word :=
  let z := seed + BitVec.ofNat 64 (n + 1) * 0x9E3779B97F4A7C15
  let z := (z ^^^ (z >>> 30)) * 0xBF58476D1CE4E5B9
  let z := (z ^^^ (z >>> 27)) * 0x94D049BB133111EB
  z ^^^ (z >>> 31)

/-- The 16 random bits of a lane's draw. -/
def randomBits (seed : Word) (n : Nat) : Nat := (drawAt seed n).toNat / 2 ^ 48

def rounding (sr : Bool) (u : Nat) : Nat → Nat → Nat → Bool := if sr then fun _ => roundUpSr u else roundUp

/-- The block an element at (beat within the span, lane) belongs to (R75). -/
def mxBlockOf (g l : Nat) : Nat := match g with | 0 => l / 32 | 1 => l / 8 | 2 => l / 16 | _ => l % 8

def emaxOf (t : Nat) : Int := match t with | 0 => 8 | 1 => 15 | 2 => 4 | _ => 2

/-- The scale byte of a block (R75). -/
def mxScale (t : Nat) (vs : List FV) : Nat :=
  if vs.any (fun v => !v.isFin) then 255
  else match topExp vs with
    | none => 0
    | some x => (max 0 (min 254 (x - emaxOf t + 127))).toNat

/-- BFLO (R76). -/
def bfloLane (a : Nat) : Nat :=
  match fp32.decode a with
  | .nan => 0x7FC0
  | .inf _ => 0
  | v =>
    let hi := bf16.decode (cvtVal 5 roundUp v).1
    match FV.add v hi.neg with
    | (.fin s m e, _) => if m = 0 then 0 else (bf16.encode (.fin s m e)).1
    | _ => 0

/-! ### Streams (R59-R62) -/

/-- One element of an input stream as a lane (R60). A NaN element becomes the canonical NaN of the lanes: R60 speaks of values only
(log entry 77). -/
def unpackElem (h : ChainHdr) (fmt x : Nat) : Nat :=
  if fmt = 10 then (h.flt.encode (.fin (x = 1) 1 0)).1
  else if fmt = 7 then
    if h.lm then (h.flt.encode (FV.ofInt (toSigned 8 x) 0)).1 else ofSigned 32 (toSigned 8 x)
  else if fmt = 8 ∨ fmt = 9 then x
  else match fltOf fmt with
    | some f => (h.flt.encode (f.decode x)).1
    | none => 0

/-- The element of storage that lane l takes: with XP, blocks of 64 elements are transposed (R152, R154). -/
def xpIndex (xp : Bool) (l : Nat) : Nat := if xp then l / 64 * 64 + l % 8 * 8 + l % 64 / 8 else l

/-- The lanes of a beat from its bytes. -/
def unpackBeat (h : ChainHdr) (s : Stream) (bytes : List Byte) : Lanes :=
  let v := leVal bytes
  (List.range h.lanes).map fun l => unpackElem h s.fmt (packedElem v (fmtBits s.fmt) (xpIndex s.xp l))

/-- The bytes of a beat a sink writes (R61). -/
def packBeat (h : ChainHdr) (fmt : Nat) (a : Lanes) : List Byte :=
  let es := if fmt = 10 then a.map fun x => x / 2 ^ (if h.lm then 15 else 31) % 2 else a
  leBytes (h.beatBytes fmt) (packElems (fmtBits fmt) es)

/-! ### Envelope statistics (R77-R79) -/

def sat32 (n : Nat) : Nat := min n 0xFFFFFFFF

/-- One element seen by a slot; `x` is its value (R78). Its minimum and maximum put -0.0 below +0.0, as R66 has it for MIN and MAX (log
entry 77). -/
def EnvSlot.see (e : EnvSlot) (x : FV) : EnvSlot :=
  let e := { e with count := e.count + 1, nans := sat32 (e.nans + if x.isNan then 1 else 0),
                    infs := sat32 (e.infs + if x.isInf then 1 else 0), zeros := sat32 (e.zeros + if x.isZero then 1 else 0) }
  if x.isNan then e else
  let code : W32 := BitVec.ofNat 32 (fp32.encode x).1
  let e := { e with min := if x.below (fp32.decode e.min.toNat) then code else e.min,
                    max := if (fp32.decode e.max.toNat).below x then code else e.max }
  if x.isInf then e else
  let add (acc : Word) (v : FV) : Word := BitVec.ofNat 64 (fp64.encode (FV.add (fp64.decode acc.toNat) v).1).1
  { e with maxabs := if (fp32.decode e.maxabs.toNat).lt x.abs then BitVec.ofNat 32 (fp32.encode x.abs).1 else e.maxabs,
           sum := add e.sum x, sumsq := add e.sumsq x.sq }

/-- The record of a slot; word 7 takes the sundial when it is emitted (R79). -/
def EnvSlot.record (e : EnvSlot) (slot : Nat) (lm : Bool) : List Word :=
  [BitVec.ofNat 64 (e.envid + slot * 2 ^ 16 + (if lm then 2 ^ 18 else 0) + e.chains * 2 ^ 32), BitVec.ofNat 64 e.count,
   BitVec.ofNat 64 (e.nans + e.infs * 2 ^ 32), BitVec.ofNat 64 (e.zeros + e.maxabs.toNat * 2 ^ 32),
   BitVec.ofNat 64 (e.min.toNat + e.max.toNat * 2 ^ 32), e.sum, e.sumsq, 0]

/-! ### A beat through the stages -/

/-- What a chain's evaluation carries: tallies and envelope slots as they stand, status flags raised. -/
structure ChainEnv where
  tally : FMap W32
  env : FMap EnvSlot
  flags : ChainFlags
  deriving DecidableEq, Repr

/-- What stays the same over the beats of an evaluation. -/
structure ChainCtx where
  h : ChainHdr
  scal : List W32
  snap : FMap W32
  draws : List (Word × Word)   -- the generator's seed and draw count before each of the beats

def tallyLane (m : FMap W32) (t l : Nat) : Nat := (Fm.get 0 (t * 64 + l) m).toNat

/-- A 32-bit scalar as a lane: in lane mode 1 an FP32 value rounded to the working format (R57, R58, R72). -/
def scalarLane (h : ChainHdr) (x : Nat) : Nat × ChainFlags :=
  if h.lm then let (c, o) := h.flt.encode (fp32.decode x); (c, if o then 4 else 0) else (x, 0)

/-- The lanes of a source for the j-th beat of an evaluation, beat `b` of the chain (R56). -/
def sourceLanes (x : ChainCtx) (t : StageWord) (outs : List (List Lanes)) (ins : List (Lanes × Lanes)) (j b s : Nat) :
    Lanes × ChainFlags :=
  let h := x.h
  let all (p : Nat × ChainFlags) : Lanes × ChainFlags := (List.replicate h.lanes p.1, p.2)
  if s < 8 then ((outs.getD s []).getD j [], 0)
  else if s = 8 then ((ins.getD j ([], [])).1, 0)
  else if s = 9 then ((ins.getD j ([], [])).2, 0)
  else if s = 0x0A then
    all (if opInt t.opc then (ofSigned 32 (toSigned 24 t.imm), 0) else scalarLane h (t.imm * 256))
  else if s = 0x0B then (List.range h.lanes, 0)
  else if s = 0x0C then all (b % h.period, 0)
  else if s < 0x20 then
    if h.lm then all (scalarLane h (tallyLane x.snap (s - 0x10) 0))
    else ((List.range 64).map (tallyLane x.snap (s - 0x10)), 0)
  else all (scalarLane h ((x.scal.getD (s - 0x20) 0).toNat))

/-- A reduction stage over one beat (R70, R71). -/
def reduceBeat (t : StageWord) (first : Bool) (a : Lanes) (e : ChainEnv) : Lanes × ChainEnv :=
  let r := (List.range 64).map (reduceLane t.opc t.scope a)
  if !t.across then
    let (ls, fl) := orFlags r
    (ls, { e with flags := e.flags ||| fl })
  else
    let old (l : Nat) : Nat := if first then redIdentity t.opc else tallyLane e.tally t.tally l
    let c := (numbered 0 r).map fun p => let q := redCombine t.opc (old p.1) p.2.1; (q.1, q.2 ||| p.2.2)
    let (ls, fl) := orFlags c
    (ls, { e with tally := (numbered 0 ls).foldl (fun m p => Fm.set 0 (t.tally * 64 + p.1) (BitVec.ofNat 32 p.2) m) e.tally,
                  flags := e.flags ||| fl })

/-- The random bits of a lane on the j-th beat of an evaluation (R74). -/
def ChainCtx.random (x : ChainCtx) (j lane : Nat) : Nat :=
  let p := x.draws.getD j (0, 0)
  randomBits p.1 (p.2 + BitVec.ofNat 64 lane).toNat

/-- An MX conversion over the beats of one block span: the outputs and the scale bytes (R75). -/
def mxSpan (x : ChainCtx) (t : StageWord) (j0 : Nat) (as : List Lanes) : List Lanes × List Nat × ChainFlags :=
  let target := t.mode % 16
  let nb := mxBlocks x.h t.mxg
  let vals := as.map fun a => (numbered 0 a).map fun p => (mxBlockOf t.mxg p.1, x.h.flt.decode p.2)
  let scales := (List.range nb).map fun g => mxScale target ((vals.flatMap id).filterMap fun p => if p.1 = g then some p.2 else none)
  let outs := (numbered 0 vals).map fun jv =>
    (numbered 0 jv.2).map fun lv =>
      let e := scales.getD lv.2.1 0
      if e = 255 then (0, 32)
      else cvtVal target (rounding (t.mode.testBit 4) (x.random (j0 + jv.1) lv.1))
        (lv.2.2.scale (127 - (e : Int)))
  (outs.map fun o => (orFlags o).1, scales, outs.foldl (fun f o => f ||| (orFlags o).2) 0)

/-- A stage on one beat, for every operation but reductions, ENV and MX conversions. -/
def plainBeat (x : ChainCtx) (t : StageWord) (j : Nat) (a b c : Lanes) : Lanes × ChainFlags :=
  let h := x.h
  match t.opc with
  | 0x00 => (a, 0)
  | 0x20 => orFlags ((numbered 0 a).map fun p =>
      cvtVal (t.mode % 16) (rounding (t.mode.testBit 4) (x.random j p.1)) (h.flt.decode p.2))
  | 0x21 => (a.map bfloLane, 0)
  | 0x22 => (a.map fun v => (fp32.encode (FV.ofInt (toSigned 32 v) 0)).1, 0)
  | 0x24 | 0x25 | 0x26 | 0x27 => (movesLanes t.opc t.mode t.imm a b, 0)
  | 0x29 => orFlags (zip3 (fun p q r => (if r = 0 then q else p, 0)) a b c)
  | opc => if 0x30 ≤ opc then orFlags (zip3 (fun p q _ => (intLane opc p q, 0)) a b b)
           else orFlags (zip3 (fpLane h opc t.mode) a b c)

/-- A stage over the beats of an evaluation, the first of them beat `b0` of the chain: its outputs, and the scale bytes of
an MX conversion. Stages act one after another, so two that name one tally combine in stage order (log entry 77). -/
def runStage (x : ChainCtx) (b0 : Nat) (ins : List (Lanes × Lanes)) (outs : List (List Lanes)) (t : StageWord)
    (e : ChainEnv) : List Lanes × List Nat × ChainEnv :=
  let n := ins.length
  let src (s j : Nat) := sourceLanes x t outs ins j (b0 + j) s
  let ss := t.sources
  let get (i j : Nat) : Lanes := (src (ss.getD i (ss.getD 0 0x0B)) j).1
  let sfl := ss.foldl (fun f s => f ||| (src s 0).2) 0
  let e := { e with flags := e.flags ||| sfl }
  if t.isMx then
    let spans := chunks t.span (n / t.span) ((List.range n).map (get 0))
    let rs := (numbered 0 spans).map fun p => mxSpan x t (p.1 * t.span) p.2
    (rs.flatMap fun r => r.1, rs.flatMap fun r => r.2.1, { e with flags := rs.foldl (fun f r => f ||| r.2.2) e.flags })
  else if opReduces t.opc then
    let (ls, e) := (List.range n).foldl (fun (acc : List Lanes × ChainEnv) j =>
      let (l, e) := reduceBeat t ((b0 + j) % x.h.period = 0) (get 0 j) acc.2
      (acc.1 ++ [l], e)) ([], e)
    (ls, [], e)
  else if t.opc = 0x2F then
    let slot := (List.range n).foldl (fun sl j => (get 0 j).foldl (fun sl c => sl.see (x.h.flt.decode c)) sl)
      (Fm.get {} t.envSlot e.env)
    ((List.range n).map (get 0), [], { e with env := Fm.set {} t.envSlot slot e.env })
  else
    let rs := (List.range n).map fun j => plainBeat x t j (get 0 j) (get 1 j) (get 2 j)
    (rs.map Prod.fst, [], { e with flags := rs.foldl (fun f r => f ||| r.2) e.flags })

/-- All stages in order: each stage's outputs and its scale bytes. -/
def runStages (x : ChainCtx) (b0 : Nat) (ins : List (Lanes × Lanes)) :
    List StageWord → List (List Lanes) → List (List Nat) → ChainEnv → List (List Lanes) × List (List Nat) × ChainEnv
  | [], outs, scs, e => (outs, scs, e)
  | t :: ts, outs, scs, e =>
    let (o, sc, e) := runStage x b0 ins outs t e
    runStages x b0 ins ts (outs ++ [o]) (scs ++ [sc]) e

/-- What a sink writes for the beats of an evaluation: addresses and bytes (R61, R63, R75). -/
def sinkWrites (d : ChainDesc) (second : Bool) (s : Stream) (b0 n : Nat) (outs : List (List Lanes)) (scs : List (List Nat)) :
    List (Nat × List Byte) :=
  if s.kind ≠ 2 then []
  else if second && s.xp then
    let per := match d.stages[s.stg]? with | some t => mxBlocks d.hdr t.mxg * (b0 / t.span) | none => 0
    [(s.base + per, (scs.getD s.stg []).map (BitVec.ofNat 8))]
  else
    (List.range n).flatMap fun j =>
      let b := b0 + j
      let bytes := packBeat d.hdr s.fmt ((outs.getD s.stg []).getD j [])
      if s.pend then (if b % d.hdr.period = d.hdr.period - 1 then [(s.base + 8 * (b / d.hdr.period) * s.stride, bytes)] else [])
      else [(s.base + 8 * b * s.stride, bytes)]

/-- Beats that are evaluated together: the longest MX block of the chain. -/
def ChainDesc.spanBeats (d : ChainDesc) : Nat := d.stages.foldl (fun a t => max a t.span) 1

end Sys2Proof.Machine
end

