-- ==== Sys2Proof/Machine/Keeper.lean ====
section
/-! DEFINITION. The keeper's instructions (04_keeper.md), one meaning each. -/

namespace Sys2Proof.Machine

/-! ### Arithmetic on registers (R98-R100) -/

/-- A scalar result of latency `lat`. -/
def putS (d lat : Nat) (v : Word) (k : Core) : Core := (k.setS d v).readyIn (rS d) lat
def putA (d : Nat) (v : Addr) (k : Core) : Core := (k.setA d v).readyIn (rA d) 1
def putP (d : Nat) (v : Bool) (k : Core) : Core := (k.setP d v).readyIn (rP d) 1

/-- An instruction of format I on a scalar and the sign-extended immediate. -/
def immOp (op : Word → Word → Word) (w : W32) (k : Core) : Core :=
  putS (dOf w) 1 (op (k.sReg (aOf w)) (BitVec.ofInt 64 (simmOf w))) k

def readsA (w : W32) : List Nat := [rS (aOf w)]
def readsAB (w : W32) : List Nat := [rS (aOf w), rS (bOf w)]
def readsNone (_ : W32) : List Nat := []

def execNop (core : Nat) (s : State) : Res := keeperOp 0x01 readsNone (onlyCore fun _ k => k) core s

/-- HALT: stop fetching; STATE halted, DONE. -/
def execHalt (core : Nat) (s : State) : Res :=
  keeperOp 0x02 readsNone
    (fun c _ s => .halt (s.updCore c fun k => (k.setF Reg.KP_STATUS_STATE 0).setF Reg.KP_STATUS_DONE 1)) core s

def execAlu (core : Nat) (s : State) : Res :=
  keeperOp 0x04 readsAB
    (onlyCore fun w k => putS (dOf w) (if 8 ≤ fnOf w ∧ fnOf w ≤ 10 then 3 else 1)
      (aluOp (fnOf w) (k.sReg (aOf w)) (k.sReg (bOf w))) k) core s

def execAddi (core : Nat) (s : State) : Res := keeperOp 0x05 readsA (onlyCore (immOp (· + ·))) core s
def execAndi (core : Nat) (s : State) : Res := keeperOp 0x06 readsA (onlyCore (immOp (· &&& ·))) core s
def execOri (core : Nat) (s : State) : Res := keeperOp 0x07 readsA (onlyCore (immOp (· ||| ·))) core s
def execXori (core : Nat) (s : State) : Res := keeperOp 0x08 readsA (onlyCore (immOp (· ^^^ ·))) core s

def execShi (core : Nat) (s : State) : Res :=
  keeperOp 0x09 readsA (onlyCore fun w k => putS (dOf w) 1 (shiOp (immOf w) (k.sReg (aOf w))) k) core s

def execLi (core : Nat) (s : State) : Res :=
  keeperOp 0x0A readsNone (onlyCore fun w k => putS (dOf w) 1 (BitVec.ofInt 64 (toSigned 17 (imm17Of w))) k) core s

def execLis (core : Nat) (s : State) : Res :=
  keeperOp 0x0B (fun w => [rS (dOf w)])
    (onlyCore fun w k => putS (dOf w) 1 (k.sReg (dOf w) <<< 17 ||| BitVec.ofNat 64 (imm17Of w)) k) core s

def execCmp (core : Nat) (s : State) : Res :=
  keeperOp 0x0C readsAB
    (onlyCore fun w k => putP (dOf w) (condHolds (fnOf w) (k.sReg (aOf w)) (k.sReg (bOf w))) k) core s

def execCmpi (core : Nat) (s : State) : Res :=
  keeperOp 0x0D readsA
    (onlyCore fun w k => putP (dOf w)
      (condHolds (immOf w / 512) (k.sReg (aOf w)) (BitVec.ofInt 64 (toSigned 9 (immOf w % 512)))) k) core s

def execPlog (core : Nat) (s : State) : Res :=
  keeperOp 0x0E (fun w => [rP (aOf w), rP (bOf w)])
    (onlyCore fun w k => putP (dOf w) (plogOp (fnOf w) (k.pReg (aOf w)) (k.pReg (bOf w))) k) core s

/-! ### Loads and stores (R101, R159) -/

/-- The byte offset of a load or store of `n` bytes, when it is allowed (R101). -/
def lsAddr (n : Nat) (w : W32) (k : Core) : Option Nat :=
  let a := k.addr (aOf w) (simmOf w * n)
  if a % n = 0 && inSpad a n then some a else none

/-- LD, LDW: the word is returned as read even where it is uncorrectable (R177). -/
def loadOp (n : Nat) (c : Nat) (w : W32) (s : State) : KOut :=
  match lsAddr n w (s.core c) with
  | none => .fault 3
  | some a =>
    .goes ((s.spadTouch c a n (0x1000 + opOf w)).updCore c fun k =>
      putS (dOf w) 7 (BitVec.ofNat 64 (leVal (k.spadRead a n))) k) 1

/-- ST, STW. -/
def storeOp (n : Nat) (c : Nat) (w : W32) (s : State) : KOut :=
  match lsAddr n w (s.core c) with
  | none => .fault 3
  | some a => .goes (s.updCore c fun k => k.spadWrite a (leBytes n (k.sReg (dOf w)).toNat)) 1

def execLd (core : Nat) (s : State) : Res := keeperOp 0x10 (fun w => [rA (aOf w)]) (loadOp 8) core s
def execLdw (core : Nat) (s : State) : Res := keeperOp 0x11 (fun w => [rA (aOf w)]) (loadOp 4) core s
def execSt (core : Nat) (s : State) : Res := keeperOp 0x12 (fun w => [rA (aOf w), rS (dOf w)]) (storeOp 8) core s
def execStw (core : Nat) (s : State) : Res := keeperOp 0x13 (fun w => [rA (aOf w), rS (dOf w)]) (storeOp 4) core s

/-! ### Address registers -/

def execAdda (core : Nat) (s : State) : Res :=
  keeperOp 0x14 (fun w => [rA (aOf w)])
    (onlyCore fun w k => putA (dOf w) (k.aReg (aOf w) + BitVec.ofInt 48 (simmOf w)) k) core s

def execAddas (core : Nat) (s : State) : Res :=
  keeperOp 0x15 (fun w => [rA (aOf w), rS (bOf w)])
    (onlyCore fun w k => putA (dOf w) (k.aReg (aOf w) + (k.sReg (bOf w)).setWidth 48) k) core s

def execMova (core : Nat) (s : State) : Res :=
  keeperOp 0x16 readsA (onlyCore fun w k => putA (dOf w) ((k.sReg (aOf w)).setWidth 48) k) core s

def execMovs (core : Nat) (s : State) : Res :=
  keeperOp 0x17 (fun w => [rA (aOf w)]) (onlyCore fun w k => putS (dOf w) 1 ((k.aReg (aOf w)).setWidth 64) k) core s

/-! ### Control flow (R98, R102) -/

/-- The byte address a branch by OFF22 names. -/
def branchTarget (w : W32) (k : Core) : Int := (k.pc : Int) * 4 + soff22Of w * 4

def execBr (core : Nat) (s : State) : Res :=
  keeperOp 0x18 readsNone (fun c w s => .jump s (branchTarget w (s.core c))) core s

/-- CALL: s31 holds the byte address after the CALL. -/
def execCall (core : Nat) (s : State) : Res :=
  keeperOp 0x19 readsNone
    (fun c w s => .jump (s.updCore c fun k => putS 31 1 (BitVec.ofNat 64 (k.pc * 4 + 4)) k) (branchTarget w (s.core c))) core s

/-- JR: the low two bits of the target are ignored. -/
def execJr (core : Nat) (s : State) : Res :=
  keeperOp 0x1A readsA (fun c w s => .jump s (((s.core c).sReg (aOf w)).toNat / 4 * 4 : Nat)) core s

/-! ### Queues (R105-R108) -/

def execQcube (core : Nat) (s : State) : Res := keeperOp 0x20 (fun w => [rA (aOf w)]) (queueIssue .cube 32) core s
/-- QCHAIN captures s0-s31, and so reads them all (R104, R107). -/
def execQchain (core : Nat) (s : State) : Res :=
  keeperOp 0x21 (fun w => rA (aOf w) :: (List.range 32).map rS) (queueIssue .chain 8) core s

def execQport (core : Nat) (s : State) : Res := keeperOp 0x22 (fun w => [rA (aOf w)]) (queueIssue .port 32) core s

/-- A stalled issue goes through in the cycle after a slot frees (R106). -/
def execQueueStallRelease (core : Nat) (s : State) : Res :=
  onCore core s fun s =>
    let k := s.core core
    match k.wait.kind with
    | .queueFull u addr =>
      let unit : QUnit := if u = 0 then .cube else if u = 1 then .chain else .port
      if 16 ≤ (k.queue unit).length || !s.keeperOn core then s
      else if !k.descOk unit addr then s.updCore core (Core.fault 3)
      else (s.reserve core unit addr (0x20 + u)).updCore core (Core.endWait 0)
    | _ => s

/-- The oldest descriptor on its way enters the queue (R105). -/
def enterFirst : List QSlot → List QSlot
  | [] => []
  | q :: qs => if q.entered then q :: enterFirst qs else { q with entered := true } :: qs

/-- A chain that comes to the head of its queue is checked there (R83). -/
def execDescriptorEntry (core : Nat) (unit : QUnit) (s : State) : Res :=
  onCore core s fun s => s.updCore core fun k =>
    let k := k.setQueue unit (enterFirst (k.queue unit))
    if unit = .chain then k.chainJudge else k

/-! ### Flags and waits (R116-R121) -/

/-- A wait instruction whose timeout is s[A]. -/
def waitOp (kind : W32 → WaitKind) (c : Nat) (w : W32) (s : State) : KOut :=
  .wait (s.updCore c fun k => k.startWait (kind w) (dOf w) (k.sReg (aOf w)).toNat)

def execQwait (core : Nat) (s : State) : Res := keeperOp 0x23 readsA (waitOp fun w => .queueIdle (immOf w)) core s

def execFset (core : Nat) (s : State) : Res :=
  keeperOp 0x24 readsNone (onlyCore fun w k => k.setFlag (immOf w % 64)) core s

def execFclr (core : Nat) (s : State) : Res :=
  keeperOp 0x25 (fun w => if immOf w / 2048 = 1 then [rS (aOf w)] else [])
    (onlyCore fun w k => k.clearFlags (if immOf w / 2048 = 1 then (k.sReg (aOf w)).toNat else 2 ^ (immOf w % 64))) core s

def execWaitf (core : Nat) (s : State) : Res :=
  keeperOp 0x26 readsA (waitOp fun w => .flag (immOf w % 64) (immOf w / 64 % 2 = 1)) core s

/-- WAITW begins at its aligned word; its reads are WAITW_POLL's (R119). -/
def execWaitw (core : Nat) (s : State) : Res :=
  keeperOp 0x27 (fun w => [rA (aOf w), rS (bOf w), rS (bOf w + 1)])
    (fun c w s =>
      let k := s.core c
      let w32 := fnOf w / 8 % 2 = 1
      let n := if w32 then 4 else 8
      let a := (k.aReg (aOf w)).toNat
      if a % n = 0 && inSpad a n then
        .wait (s.updCore c fun k =>
          k.startWait (.word a (fnOf w % 8) w32 (k.sReg (bOf w))) (dOf w) (k.sReg (bOf w + 1)).toNat)
      else .fault 3) core s

/-- A poll of WAITW: the word is read, and tested six cycles later; the next read is 8 cycles on, and none is made
after the timeout (R119). -/
def execWaitwPoll (core : Nat) (s : State) : Res :=
  onCore core s fun s =>
    let k := s.core core
    match k.wait.kind with
    | .word a cond w32 ref =>
      if !s.keeperOn core then s else
      let n := if w32 then 4 else 8
      let x := BitVec.ofNat 64 (leVal (k.spadRead a n))
      let y := if w32 then BitVec.ofNat 64 (ref.toNat % 2 ^ 32) else ref
      let s := s.spadTouch core a n 0x1027
      let t := k.wait.elapsed
      if condHolds cond x y then s.updCore core fun k => (putP k.wait.dst true k).endWait (t + 6)
      else if k.wait.timeout < t + 8 then s.updCore core fun k => (putP k.wait.dst false k).endWait (t + 6)
      else s.updCore core fun k => { k with wait := { k.wait with elapsed := t + 8 } }
    | _ => s

def execWaitt (core : Nat) (s : State) : Res :=
  keeperOp 0x28 readsA (fun c w s => .wait (s.updCore c fun k => k.startWait (.sundial (k.sReg (aOf w))) 0 0)) core s

def execDelay (core : Nat) (s : State) : Res :=
  keeperOp 0x29 readsA
    (fun c w s => .wait (s.updCore c fun k => k.startWait (.delay ((k.sReg (aOf w)).toNat + immOf w)) 0 0)) core s

/-- DELAY retires after exactly its count; it takes 1 + count cycles (R98, R120). -/
def execDelayExpire (core : Nat) (s : State) : Res :=
  onCore core s fun s =>
    match (s.core core).wait.kind with
    | .delay n => if s.keeperOn core then s.updCore core (Core.endWait n) else s
    | _ => s

/-- The test of a wait succeeds `cycles` cycles after its issue, within its timeout (R118, R121). -/
def execWaitSuccess (core cycles : Nat) (s : State) : Res :=
  onCore core s fun s =>
    let k := s.core core
    let inTime := match k.wait.kind with | .sundial _ => true | _ => cycles ≤ k.wait.timeout
    if !s.keeperOn core || !s.waitHolds core || !inTime then s
    else s.updCore core fun k =>
      let k := match k.wait.kind with
        | .flag f true => k.clearFlags (2 ^ f)
        | _ => k
      let k := if timedWait k.wait.kind then putP k.wait.dst true k else k
      k.endWait cycles

/-- No test from t0 to t0 + T has succeeded: the wait retires in cycle t0 + T with its predicate clear (R118). -/
def execWaitTimeout (core : Nat) (s : State) : Res :=
  onCore core s fun s =>
    let k := s.core core
    if !s.keeperOn core || s.waitHolds core || !timedWait k.wait.kind then s
    else s.updCore core fun k => (putP k.wait.dst false k).endWait k.wait.timeout

/-! ### Sends, credits, bells (R122-R135) -/

/-- The logical core a scalar names, when the garden has it (R125). -/
def State.lcore (s : State) (c : Nat) (v : Word) : Option Nat :=
  if v.toNat < s.gardenSize (s.ownerOf c) then some v.toNat else none

def execFsig (core : Nat) (s : State) : Res :=
  keeperOp 0x2C readsA
    (fun c w s => match s.lcore c ((s.core c).sReg (aOf w)) with
      | none => .fault 9
      | some d => .goes (s.updCore c fun k =>
          k.send { type := 4, ord := true, setFlag := true, flag := immOf w % 64, dest := d, src := c, addr := 0 }) 1) core s

/-- FSEND into a granted window (R123): the packet carries pool, grant number and offset (R163). -/
def execFsend (core : Nat) (s : State) : Res :=
  keeperOp 0x2D (fun w => [rA (aOf w), rS (bOf w)])
    (fun c w s =>
      let k := s.core c
      let n := 8 * (fnOf w % 16 + 1)
      let a := (k.aReg (aOf w)).toNat
      let off := (k.sReg (bOf w)).toNat
      let v := k.slot (dOf w)
      if a % 8 ≠ 0 || !inSpad a n then .fault 3
      else if v.state ≠ 2 || off % 8 ≠ 0 || v.wlen * 256 < off + n then .fault 8
      else .goes ((s.spadTouch c a n 0x102D).updCore c fun k =>
        k.send { type := 1, ord := true, dest := v.dest, src := c, payload := k.spadRead a n,
                 addr := off + v.pool * 2 ^ 23 + v.num * 2 ^ 26 }) 1) core s

/-- CPOOL (R126). -/
def execCpool (core : Nat) (s : State) : Res :=
  keeperOp 0x30 (fun w => [rA (aOf w), rS (bOf w)])
    (fun c w s =>
      let k := s.core c
      let p := k.pool (dOf w)
      let base := (k.aReg (aOf w)).toNat
      let size := (k.sReg (bOf w)).toNat
      if size = 0 then
        .goes (s.updCore c fun k =>
          let (q, as) := p.close
          { k.setPool (dOf w) q with out := k.out ++ as }) 1
      else if base % 256 ≠ 0 || !inSpad base 1 then .fault 3
      else if p.isOpen || p.closing || size % 256 ≠ 0 || !inSpad base size then .fault 8
      else .goes (s.updCore c fun k =>
        k.setPool (dOf w) { isOpen := true, base := base / 256, size := size / 256, next := p.next }) 1) core s

/-- CFREE (R131). -/
def execCfree (core : Nat) (s : State) : Res :=
  keeperOp 0x31 (fun w => [rS (bOf w)])
    (fun c w s =>
      let k := s.core c
      let p := k.pool (dOf w)
      let n := (k.sReg (bOf w)).toNat
      if p.grants.length < n then .fault 8
      else .goes (s.updCore c fun k =>
        let (q, as) := p.free n
        { k.setPool (dOf w) q with out := k.out ++ as }) 1) core s

/-- CREQ (R127). -/
def execCreq (core : Nat) (s : State) : Res :=
  keeperOp 0x32 readsAB
    (fun c w s =>
      let k := s.core c
      let q := (k.sReg (bOf w)).toNat
      if (k.slot (dOf w)).state = 1 || q / 2 ^ 23 ≠ 0 || q / 8 % 32 ≠ 0 then .fault 8
      else match s.lcore c (k.sReg (aOf w)) with
        | none => .fault 9
        | some d => .goes (s.updCore c fun k =>
            (k.setSlot (dOf w) { state := 1, pool := q % 8, dest := d }).send
              { type := 5, ord := true, dest := d, src := c, addr := 0, payload := leBytes 8 (q + dOf w * 2 ^ 24) }) 1) core s

def execCwait (core : Nat) (s : State) : Res := keeperOp 0x33 readsA (waitOp fun w => .grant (immOf w % 16)) core s

def execCdrop (core : Nat) (s : State) : Res :=
  keeperOp 0x34 readsNone (onlyCore fun w k => k.setSlot (immOf w % 16) {}) core s

/-- BELL (R133): an arrival is registered once; a release that came unseen is consumed. -/
def execBell (core : Nat) (s : State) : Res :=
  keeperOp 0x35 readsA
    (fun c w s =>
      let b := immOf w % 16
      if !(s.core c).member b then .fault 7
      else .wait (s.updCore c fun k =>
        let k := if k.unseen b then k.setF Reg.KP_BELL_UNSEEN (clearBit (k.getF Reg.KP_BELL_UNSEEN) b)
          else k.setF Reg.KP_BELL_ARRIVED (setBit (k.getF Reg.KP_BELL_ARRIVED) b)
        k.startWait (.bell b) (dOf w) (k.sReg (aOf w)).toNat)) core s

/-! ### The sundial and the KP_ registers (R136, R144, R145) -/

def execSdr (core : Nat) (s : State) : Res :=
  keeperOp 0x38 readsNone
    (fun c w s => .goes (s.updCore c (putS (dOf w) 1 (BitVec.ofNat 64 (s.sundialOf (pavOf c))))) 1) core s

def execKrd (core : Nat) (s : State) : Res :=
  keeperOp 0x39 readsNone
    (fun c w s => .goes (s.updCore c fun k => putS (dOf w) 3 (k.kpRead c (8 * immOf w)) k) 1) core s

def execKwr (core : Nat) (s : State) : Res :=
  keeperOp 0x3A readsA (onlyCore fun w k => k.kwr (8 * immOf w) (k.sReg (aOf w))) core s

/-! ### RUN, the seed, core reset (R74, R142, R143) -/

/-- Setting RUN from 0 to 1 starts fetch at ENTRY with the registers as they stand (R143). -/
def Core.startRun (k : Core) : Core :=
  if k.getF Reg.KP_CTRL_RUN = 1 then k
  else ((k.setF Reg.KP_CTRL_RUN 1).setF Reg.KP_STATUS_STATE 1).setF Reg.KP_STATUS_PC (k.getF Reg.KP_CTRL_ENTRY)

/-- Clearing RUN halts the keeper; a wait in progress is abandoned without retiring (R143). A faulted keeper stays
faulted. -/
def Core.stopRun (k : Core) : Core :=
  if k.getF Reg.KP_CTRL_RUN = 0 then k
  else
    let k := k.setF Reg.KP_CTRL_RUN 0
    let k := if k.getF Reg.KP_STATUS_STATE = 3 then k else k.setF Reg.KP_STATUS_STATE 0
    { k.setF Reg.KP_STATUS_WAIT 0 with wait := {} }

def execRunSet (core : Nat) (s : State) : Res := onCore core s fun s => s.updCore core Core.startRun
def execRunClear (core : Nat) (s : State) : Res := onCore core s fun s => s.updCore core Core.stopRun
def execKpChainSeed (core : Nat) (seed : Word) (s : State) : Res := onCore core s fun s => s.updCore core (Core.seed seed)

/-- Core reset: keeper (R142), cubes (R36), chain unit (R86). Scratchpad, program store, ENTRY, MEMBER, the core's
identity and the grants' numbering are kept; replies on their way to other cores stay. -/
def Core.reset (k : Core) : Core :=
  let keep : RegFile := []
  let keep := setReg .kp 0x000 (getReg .kp 0x000 k.regs) keep
  let keep := Machine.setF Reg.KP_CTRL_ENTRY (k.getF Reg.KP_CTRL_ENTRY) keep
  let keep := Machine.setF Reg.KP_BELL_MEMBER (k.getF Reg.KP_BELL_MEMBER) keep
  let r := k.resetCredits
  { spad := k.spad, spadUe := k.spadUe, spadCe := k.spadCe, spadWb := k.spadWb, spadScrub := k.spadScrub,
    spadWeak := k.spadWeak, scrubbed := k.scrubbed, spadRedir := k.spadRedir, spadCopying := k.spadCopying, spadExhausted := k.spadExhausted, lanes := k.lanes,
    pstore := k.pstore, pstoreBad := k.pstoreBad, pstoreCe := k.pstoreCe, pstoreCorr := k.pstoreCorr,
    regs := keep, pools := r.pools, inbox := k.inbox, outbox := k.outbox,
    out := r.out.filter fun p => p.type = 3 || p.type = 6 || p.type = 7 || p.type = 8 }

/-- The postmaster may reset the core: the poll has recorded a keeper's fault (R142), and a member of a bell is reset only as
part of a garden reset or once relief has moved its work away, so never while it holds a logical core of a RUNNING garden (R135). -/
def State.mayReset (s : State) (c : Nat) : Bool :=
  let k := s.core c
  (k.getF Reg.KP_STATUS_STATE ≠ 3 || k.faultSeen) &&
    (k.getF Reg.KP_BELL_MEMBER = 0 || (s.ownerOf c).all fun g =>
      (s.garden g).getF Reg.GD_STATUS_STATE ≠ 5 || (s.lcoreOf g c).isNone)

/-- CORE_RESET (R142). -/
def execCoreReset (core : Nat) (s : State) : Res :=
  onCore core s fun s => if s.mayReset core then s.updCore core Core.reset else s

end Sys2Proof.Machine
end

