-- ==== Sys2Proof/WellFormed.lean ====
section
/-! DEFINITION. Which commands can happen: each unit a command names is one the module has (R1-R8), and each list of readings
has its length. -/

namespace Sys2Proof

open Machine

/-! ### Units (R4, R7) -/

def isCore (n : Nat) : Bool := decide (n < Config.coreSites)
def isPav (n : Nat) : Bool := decide (n < Config.pavilions)
def isGarden (n : Nat) : Bool := decide (n < 4)
def isChan (n : Nat) : Bool := decide (n < 64)
def isOra (n : Nat) : Bool := Config.orangeryPresent n
/-- A chime unit (R457, R653): thoroughfares, orangeries, host bridge, peer bridges, power controller, sundial master. -/
def isUnit (n : Nat) : Bool := decide (n < 455)

/-- Codes of the endpoints at the edge (R188): orangeries, postmaster, host bridge, peer bridges of the lanterns present. -/
def isEndpoint (n : Nat) : Bool :=
  (decide (0x7000 ≤ n) && Config.orangeryPresent (n - 0x7000)) || n = 0x7100 || (n = 0x7200 && Config.lanternPresent 2) ||
  (decide (0x7300 ≤ n) && Config.lanternPresent (n - 0x7300))

/-- Endpoints that READ, READ_DATA and ACK packets are for (R205, R207). -/
def takesPackets (n : Nat) : Bool := isCore n || (decide (0x7000 ≤ n) && Config.orangeryPresent (n - 0x7000)) || n = 0x7200

def isPath : WritePath → Bool
  | .chan n => decide (n < 65)
  | .smbus | .test | .postmaster => true

def sampleOk : Sample → Bool
  | .compute p _ | .thoroughfare p _ | .voltage p _ | .limit p => isPav p
  | .plot q _ _ => decide (q < 36)
  | .converter c _ _ => decide (c < 24)
  | .receive n _ => decide (n < 20)
  | .busbar _ _ _ | .edge _ => true

def feedsOk : EdgeUnit → Bool
  | .orangery n => Config.orangeryPresent n
  | .lantern n => Config.lanternPresent n
  | .postmaster | .icehouse | .lodge | .sundial => true

/-- A source of an alert, and its converter or plot. -/
def alertOk (src unit : Nat) : Bool := src < 5 && (src ≠ 1 || unit < 24) && (src ≠ 2 || unit < 36)

/-- A command whose units exist. -/
def Instr.wf : Instr → Bool
  | .registerWrite path _ _ => isPath path
  | .nop core => isCore core
  | .halt core => isCore core
  | .alu core => isCore core
  | .addi core => isCore core
  | .andi core => isCore core
  | .ori core => isCore core
  | .xori core => isCore core
  | .shi core => isCore core
  | .li core => isCore core
  | .lis core => isCore core
  | .cmp core => isCore core
  | .cmpi core => isCore core
  | .plog core => isCore core
  | .ld core => isCore core
  | .ldw core => isCore core
  | .st core => isCore core
  | .stw core => isCore core
  | .adda core => isCore core
  | .addas core => isCore core
  | .mova core => isCore core
  | .movs core => isCore core
  | .br core => isCore core
  | .call core => isCore core
  | .jr core => isCore core
  | .qcube core => isCore core
  | .qchain core => isCore core
  | .qport core => isCore core
  | .queueStallRelease core => isCore core
  | .descriptorEntry core _ => isCore core
  | .qwait core => isCore core
  | .fset core => isCore core
  | .fclr core => isCore core
  | .waitf core => isCore core
  | .waitw core => isCore core
  | .waitwPoll core => isCore core
  | .waitt core => isCore core
  | .delay core => isCore core
  | .delayExpire core => isCore core
  | .waitSuccess core _ => isCore core
  | .waitTimeout core => isCore core
  | .fsig core => isCore core
  | .fsend core => isCore core
  | .cpool core => isCore core
  | .cfree core => isCore core
  | .creq core => isCore core
  | .cwait core => isCore core
  | .cdrop core => isCore core
  | .bell core => isCore core
  | .sdr core => isCore core
  | .krd core => isCore core
  | .kwr core => isCore core
  | .runSet core => isCore core
  | .runClear core => isCore core
  | .kpChainSeed core _ => isCore core
  | .coreReset core => isCore core
  | .mma core _ => isCore core
  | .mmaComplete core => isCore core
  | .zero core => isCore core
  | .zeroComplete core => isCore core
  | .cubeRejectComplete core => isCore core
  | .chainStart core => isCore core
  | .chainRejectComplete core => isCore core
  | .chainBeat core _ => isCore core
  | .chainComplete core _ => isCore core
  | .copy core => isCore core
  | .put core => isCore core
  | .get core => isCore core
  | .load core => isCore core
  | .store core => isCore core
  | .asend core => isCore core
  | .arecv core => isCore core
  | .prog core => isCore core
  | .porterRejectComplete core => isCore core
  | .porterComplete core => isCore core
  | .injection src _ => isCore src || isEndpoint src
  | .routePacket router port slice _ _ _ => isCore router && decide (port < 5) && decide (slice < 4)
  | .write core => isCore core
  | .read dest _ => takesPackets dest || dest = 0x7100
  | .readData dest => takesPackets dest
  | .signal core => isCore core
  | .creditRequest core => isCore core
  | .canswer core => isCore core
  | .ack dest => takesPackets dest
  | .notice core => isCore core
  | .devwrite ora _ => isOra ora
  | .avenueBundle router port slice _ => isCore router && decide (port < 5) && decide (slice < 4)
  | .drainMarker router port slice _ => isCore router && decide (port < 5) && decide (slice < 4)
  | .bellRelease g n c => isGarden g && decide (n < 16) && isCore c
  | .starvationPromote core _ => isCore core
  | .fpQuiet pav garden => isPav pav && isGarden garden
  | .pvFabArm pav _ => isPav pav
  | .pvFabMark pav _ => isPav pav
  | .linkDown router side => isCore router && decide (side < 4)
  | .gateBufferAlign router side _ _ => isCore router && decide (side < 4)
  | .scrubPass core _ _ => isCore core
  | .correctedWriteBack core _ => isCore core
  | .pvSpadZero pav => isPav pav
  | .zeroingComplete pav => isPav pav
  | .arm ora garden => isOra ora && isGarden garden
  | .prepare ora garden => isOra ora && isGarden garden
  | .commit ora garden _ => isOra ora && isGarden garden
  | .discard ora garden => isOra ora && isGarden garden
  | .disarm ora garden => isOra ora && isGarden garden
  | .normPassEnd ora garden _ => isOra ora && isGarden garden
  | .preparePassEnd ora garden _ => isOra ora && isGarden garden
  | .commitEnd ora garden _ _ => isOra ora && isGarden garden
  | .orArena ora garden _ => isOra ora && isGarden garden
  | .orLayerWord ora layer w _ => isOra ora && decide (layer < 65536) && decide (w < 8)
  | .channelCheck ora _ => isOra ora
  | .channelRetrainEnd ora => isOra ora
  | .mr4Read ora temps => isOra ora && decide (temps.length = 32)
  | .memoryScrub ora _ => isOra ora
  | .blockWriteBack ora _ => isOra ora
  | .rowRetire ora _ => isOra ora
  | .ucieRetrain ora module _ => isOra ora && decide (module < 2)
  | .ucieModuleDown ora module => isOra ora && decide (module < 2)
  | .sweep => true
  | .secondScan => true
  | .decisionPoint => true
  | .postmasterRestart => true
  | .restartResume => true
  | .post ch => isChan ch
  | .take ch => isChan ch
  | .abort ch => isChan ch
  | .pmMbxReset ch => isChan ch
  | .pmMbxIn ch _ => isChan ch
  | .pmMbxOut ch => isChan ch
  | .readReg _ _ => true
  | .writeReg _ _ _ => true
  | .status _ => true
  | .postwin _ => true
  | .openSession ch => isChan ch
  | .closeSession ch => isChan ch
  | .ping ch => isChan ch
  | .rekey ch => isChan ch
  | .sessionList ch => isChan ch
  | .sessionBind ch => isChan ch
  | .regRead ch => isChan ch
  | .regWrite ch => isChan ch
  | .mbxStatus ch => isChan ch
  | .mbxFlush ch => isChan ch
  | .gardenCreate ch => isChan ch
  | .gardenLoad ch => isChan ch
  | .gardenStart ch => isChan ch
  | .gardenStop ch => isChan ch
  | .gardenRelease ch => isChan ch
  | .protectSet ch => isChan ch
  | .slowTierZeroing _ _ => true
  | .gardenStatus ch => isChan ch
  | .sealStep ch => isChan ch
  | .updatePlan ch => isChan ch
  | .gardenReset ch => isChan ch
  | .parcelOpen ch => isChan ch
  | .parcelClose ch => isChan ch
  | .memFill ch => isChan ch
  | .checkpointTake ch => isChan ch
  | .checkpointCapture garden => isGarden garden
  | .takeComplete garden => isGarden garden
  | .checkpointList ch => isChan ch
  | .checkpointRestore ch => isChan ch
  | .restoreComplete garden => isGarden garden
  | .checkpointDrop ch => isChan ch
  | .icehouseStatus ch => isChan ch
  | .configStage ch => isChan ch
  | .configRead ch => isChan ch
  | .chimeSet ch => isChan ch
  | .powerCapSet ch => isChan ch
  | .dividerSet ch => isChan ch
  | .timeSource ch => isChan ch
  | .moduleReset ch => isChan ch
  | .incidentRead ch => isChan ch
  | .incidentAck ch => isChan ch
  | .snapshotRequest ch => isChan ch
  | .snapshotRead ch => isChan ch
  | .sensorRead ch => isChan ch
  | .capacityRead ch => isChan ch
  | .postmarkRequest ch => isChan ch
  | .stampRead ch => isChan ch
  | .firmwareStage ch => isChan ch
  | .firmwareActivate ch => isChan ch
  | .ownerKeySet ch => isChan ch
  | .peerAvenueOpen ch => isChan ch
  | .peerAvenueClose ch => isChan ch
  | .peerPortSwap ch => isChan ch
  | .peerStatus ch => isChan ch
  | .letter f _ => decide (f.path.port < 2)
  | .finished f _ _ => decide (f.path.port < 2)
  | .regReq f _ => decide (f.path.port < 2)
  | .parcelData f _ _ _ => decide (f.path.port < 2)
  | .parcelPull f _ _ _ => decide (f.path.port < 2)
  | .iturnAck f => decide (f.path.port < 2)
  | .retransmissionTimer _ _ => true
  | .sessionIdleTimeout _ => true
  | .unackedTimeout _ => true
  | .finishedTimeout _ => true
  | .unboundTimeout _ => true
  | .oldPhaseExpire _ => true
  | .keyLimit _ => true
  | .arpRequest h _ => decide (h.path.port < 2)
  | .neighbourSolicitation h _ _ => decide (h.path.port < 2)
  | .echoRequest h _ _ _ => decide (h.path.port < 2)
  | .pfcFrame peer port prio _ => (if peer then Config.peerPresent port else decide (port < 2)) && decide (prio < 8)
  | .pauseExpire peer port prio => (if peer then Config.peerPresent port else decide (port < 2)) && decide (prio < 8)
  | .pfcRefresh peer port prio => (if peer then Config.peerPresent port else decide (port < 2)) && decide (prio < 8)
  | .sync h _ _ _ _ => decide (h.path.port < 2)
  | .announce h _ _ => decide (h.path.port < 2)
  | .delayResp h _ _ _ _ => decide (h.path.port < 2)
  | .delayReq port _ => decide (port < 2)
  | .syncInEdge _ => true
  | .disciplineHoldover => true
  | .bundle port _ _ => Config.peerPresent port
  | .gensync port _ => Config.peerPresent port
  | .probe port _ _ _ => Config.peerPresent port
  | .probeSend port => Config.peerPresent port
  | .probeTimeout port => Config.peerPresent port
  | .blockLockLoss port => Config.peerPresent port
  | .peerLinkReturn port => Config.peerPresent port
  | .peerSend bridge => Config.lanternPresent bridge
  | .cartridgeExcursion lantern => Config.lanternPresent lantern
  | .cartridgeJudgement lantern _ _ => Config.lanternPresent lantern
  | .cartridgeRelease lantern cart => Config.lanternPresent lantern && decide (cart < 2)
  | .cartridgeInsert lantern cart => Config.lanternPresent lantern && decide (cart < 2)
  | .cartridgeReady lantern cart => Config.lanternPresent lantern && decide (cart < 2)
  | .autoSwap port _ => Config.peerPresent port
  | .swapPartnerFound spare _ _ => decide (spare < 2)
  | .swapTimeout spare => decide (spare < 2)
  | .refreshRead _ => true
  | .retentionRewrite block => decide (block < 128 * 7296)
  | .powerOnScan _ => true
  | .programFail block => decide (block < 128 * 7296)
  | .dieLost die => decide (die < 128)
  | .nandRetrain die _ => decide (die < 128)
  | .inputLoss pav => isPav pav
  | .sourceRetry pav => isPav pav
  | .goDark pav => isPav pav
  | .relock pav => isPav pav
  | .marginReport pav margins => isPav pav && decide (margins.length = 16) && margins.all (· < 16)
  | .tickStrobe _ _ => true
  | .fullCount => true
  | .stage unit _ => isUnit unit
  | .ackDeadline _ => true
  | .chime unit _ => isUnit unit
  | .stageDiscard unit _ => isUnit unit
  | .chimeApply unit => isUnit unit
  | .recordExpire unit _ => isUnit unit
  | .refclkLoss => true
  | .refclkReturn => true
  | .converterFail conv => decide (conv < 24)
  | .edgeRegulatorFail _ feeds => feedsOk feeds
  | .busbarUndervoltage _ _ => true
  | .busbarCollapse _ _ => true
  | .busbarOvervoltage _ _ => true
  | .busbarHigh _ => true
  | .phaseFault pav phase => isPav pav && decide (phase < 8)
  | .plotShort plot => decide (plot < 36)
  | .thoroughfareRegulatorFault pav => isPav pav
  | .domainPowerOn pav => isPav pav
  | .coreSwitchOn pav _ => isPav pav
  | .halfSlope pav _ => isPav pav
  | .domainOnComplete pav => isPav pav
  | .domainSwitchOff pav => isPav pav
  | .switchOffComplete pav => isPav pav
  | .capLoop _ => true
  | .fastLimiter _ _ => true
  | .alertAssert source unit _ => alertOk source unit
  | .alertHoldEnd => true
  | .capHalving => true
  | .sensorSample sample => sampleOk sample
  | .heatContributionRise pav => isPav pav
  | .heatContributionFall pav => isPav pav
  | .coldBoot _ => true
  | .fullBringUp _ => true
  | .warmFastPath _ => true
  | .settle => true
  | .rstNAccept _ => true
  | .rstNRise _ => true
  | .bootrpt _ => true
  | .stagehold _ _ => true
  | .pavtest pav _ => isPav pav
  | .ownerload _ _ _ => true
  | .ownerclr => true
  | .wardenJudge pav core => isPav pav && isCore core && decide (core / 144 / 8 * 18 + core % 144 / 8 = pav)
  | .reliefCopy garden _ => isGarden garden
  | .patrolSegment core _ _ => isCore core
  | .patrolSegmentEnd core _ => isCore core
  | .patrolAbandon core => isCore core
  | .probationEnd core => isCore core
  | .markExpire core => isCore core
  | .patrolDeadline core => isCore core
  | .forcedReliefTimeout core => isCore core
  | .hangWatchdog garden _ => isGarden garden
  | .avenueStall garden _ _ => isGarden garden
  | .autoCheckpoint garden => isGarden garden
  | .alertSourceRelease source unit => alertOk source unit
  | .hostLinkUp port link => decide (port < 2) && decide (link < 2)
  | .hostLinkDown port link => decide (port < 2) && decide (link < 2)
  | .outputWithinVset pav => isPav pav
  | .memFillComplete garden => isGarden garden
  | .firmwareCopyComplete => true
  | .lineRedirect core _ _ => isCore core

end Sys2Proof
end

