-- ==== Sys2Proof/Machine/FabricOps.lean ====
section
/-! DEFINITION. The fabric's parts that commands share (06_fabric.md): head checks, the garden view and its windows
(R291-R293), endpoints and attach routers (R188), footpath tables and slices (R189, R190, R209, R210), queues (R191,
R192), discards and their counters (R219, R228-R230), avenue entries (R212, R213). -/

namespace Sys2Proof.Machine

/-! ### Contexts held while a hang is handled (R571, R572) -/

/-- A context ID: 1 the step, 2 a parcel, 3 a peer avenue, 4 a letter. -/
def ctxOf (kind g ident : Nat) : Word := BitVec.ofNat 64 (kind * 2 ^ 56 + g * 2 ^ 48 + ident)

/-- A suspect of a hang other than the step and the one whose turn it is waits (R572, log entry 32). -/
def State.heldCtx (s : State) (g : Nat) (ctx : Word) : Bool :=
  match (s.garden g).hang with
  | none => false
  | some h => h.suspects.contains ctx && h.current ≠ ctx

/-- A peer avenue's entries hold its bundles. -/
def State.heldAve (s : State) (g ave port : Nat) : Bool := s.heldCtx g (ctxOf 3 g (ave + port * 65536))

/-! ### Head checks (R201, R202, R214) -/

/-- One byte through the CRC-8 register, polynomial x^8 + x^2 + x + 1. -/
def crc8Bits : Nat → Byte → Byte
  | 0, c => c
  | n + 1, c => crc8Bits n (if c.msb then (c <<< 1) ^^^ 0x07 else c <<< 1)

def crc8 (bs : List Byte) : Byte := bs.foldl (fun c b => crc8Bits 8 (c ^^^ b)) 0

def bitIf (b : Bool) (n : Nat) : Nat := if b then 2 ^ n else 0

/-- Header bytes 0-6 and 8-15 of a footpath packet (R201). -/
def Packet.headBytes (p : Packet) : List Byte :=
  leBytes 7 (p.type + bitIf p.ord 4 + bitIf p.setFlag 5 + p.flag * 2 ^ 6 + p.gen.toNat * 2 ^ 12 + p.garden * 2 ^ 20 +
    p.dest * 2 ^ 22 + p.src * 2 ^ 38) ++
  leBytes 8 (p.addr + p.payload.length / 8 * 2 ^ 48)

def Packet.headCrc (p : Packet) : Byte := crc8 p.headBytes

/-- Header bytes 0-6 of an avenue bundle (R214). -/
def Bundle.headBytes (b : Bundle) : List Byte :=
  leBytes 7 (b.avenue + b.gen.toNat * 2 ^ 10 + b.garden * 2 ^ 18 + bitIf b.drain 20 + bitIf b.last 21 +
    b.payload.length / 8 * 2 ^ 22 + b.seq * 2 ^ 33)

def Bundle.headCrc (b : Bundle) : Byte := crc8 b.headBytes

/-- The reply class: types 3, 6, 7, 8 (R191). -/
def replyType (t : Nat) : Bool := t = 3 || t = 6 || t = 7 || t = 8

/-! ### Codes of endpoints (R188) -/

def codeOra (o : Nat) : Nat := 0x7000 + o
def codePost : Nat := 0x7100
def codeHost : Nat := 0x7200
def codePeer (lantern : Nat) : Nat := 0x7300 + lantern

/-- A spare port carries a peer port (R414). -/
def State.spareCarriesPeer (s : State) : Bool := s.swaps.any fun w => w.port < 16 && 2 ≤ w.phase

/-- The lantern of peer bridge k, and of a peer port (R397). -/
def bridgeLantern (k : Nat) : Nat := [0, 1, 3, 4].getD k 0
def portLantern (p : Nat) : Nat := bridgeLantern (p / 4)

/-- The swap that has moved a port to a spare (R414). -/
def State.swapOf (s : State) (port : Nat) : Option Swap := s.swaps.find? fun w => w.port = port && 2 ≤ w.phase

/-- The lantern whose bridge serves a peer port. -/
def State.bridgeOf (s : State) (port : Nat) : Nat := if (s.swapOf port).isSome then 2 else portLantern port

/-- The attach routers of a peer port, in ascending x (R397, R414). -/
def State.portAttach (s : State) (port : Nat) : List Nat :=
  if (s.swapOf port).isSome then (List.range 8).map fun i => coreId (68 + i) 0
  else
    let base := [8, 36, 92, 120].getD (port / 4) 0
    (List.range 4).map fun i => coreId (base + 4 * (port % 4) + i) 0

/-- Attach routers of an endpoint that is present: side, and the range of its edge coordinate. -/
def State.attach (s : State) (code : Nat) : Option (Nat × Nat × Nat) :=
  if 0x7000 ≤ code ∧ code < 0x7010 then
    let n := code - 0x7000
    if Config.orangeryPresent n then some (if n < 8 then 3 else 1, 24 * (n % 8), 24 * (n % 8) + 23) else none
  else match code with
    | 0x7100 => some (0, 64, 67)
    | 0x7200 => if Config.lanternPresent 2 then some (0, 68, 75) else none
    | 0x7300 => if Config.lanternPresent 0 then some (0, 8, 23) else none
    | 0x7301 => if Config.lanternPresent 1 then some (0, 36, 51) else none
    | 0x7302 => if s.spareCarriesPeer then some (0, 68, 75) else none
    | 0x7303 => if Config.lanternPresent 3 then some (0, 92, 107) else none
    | 0x7304 => if Config.lanternPresent 4 then some (0, 120, 135) else none
    | _ => none

def clampTo (lo hi x : Nat) : Nat := max lo (min hi x)

/-- The edge port that serves an endpoint for traffic of a router at (x, y): router and port. -/
def edgePort (a : Nat × Nat × Nat) (x y : Nat) : Nat × Nat :=
  match a with
  | (0, lo, hi) => (coreId (clampTo lo hi x) 0, 0)
  | (side, lo, hi) => (coreId (if side = 3 then 0 else 143) (clampTo lo hi y), side)

/-- The place of a sender: a core's router, or an endpoint's first attach router. -/
def State.placeOf (s : State) (code : Nat) : Nat × Nat :=
  if code < Config.coreSites then (coreX code, coreY code)
  else match s.attach code with
    | some (0, lo, _) => (lo, 0)
    | some (side, lo, _) => (if side = 3 then 0 else 143, lo)
    | none => (0, 0)

/-- The router and output port where a packet leaves the fabric: the local port of a core, or the edge port nearest its
source; none for a code that names no destination. -/
def State.exitOf (s : State) (src dest : Nat) : Option (Nat × Nat) :=
  if dest < Config.coreSites then some (dest, 4)
  else match s.attach dest with
    | none => none
    | some a => let (x, y) := s.placeOf src; some (edgePort a x y)

/-! ### The link of an orangery (R238) -/

def rateF (m : Nat) : Fld := if m = 0 then Reg.OR_LINK_STATUS_RATE0 else Reg.OR_LINK_STATUS_RATE1

/-- A UCIe module carries traffic at 16 or 32 GT/s: not while it is down or retraining. -/
def Ora.moduleUp (o : Ora) (m : Nat) : Bool := o.getF (rateF m) = 1 || o.getF (rateF m) = 2

/-- The module that carries a source's packets and the replies to it: its code modulo 2, or the other while that one is down or retraining;
none while neither carries, which holds them. -/
def Ora.carrier (o : Ora) (src : Nat) : Option Nat :=
  if o.moduleUp (src % 2) then some (src % 2) else if o.moduleUp (1 - src % 2) then some (1 - src % 2) else none

/-! ### The garden view (R233, R234, R291-R293) -/

/-- The orangery that owns a slow-tier address, and its local address there. -/
def oraOf (a : Nat) : Nat :=
  let i := a / 4096 % Config.orangeries
  if Config.suffixH then 2 * i else i
def localOf (a : Nat) : Nat := a / 4096 / Config.orangeries * 4096 + a % 4096
/-- The slow-tier address of a local address. -/
def slowOf (o l : Nat) : Nat := (l / 4096 * Config.orangeries + (if Config.suffixH then o / 2 else o)) * 4096 + l % 4096

inductive Access where
  | load | store | host
  deriving DecidableEq, Repr

def Window.holds (w : Window) (l : Nat) : Bool := w.lbase * 65536 ≤ l && l < (w.lbase + w.size) * 65536

def viewCores : Nat := 0x300000000000
def viewCoresEnd : Nat := 0x303200000000
def viewSlow : Nat := 0x310000000000
def viewSlowEnd : Nat := 0x328000000000

/-- A garden-view slow address through the windows: the slow-tier address of `n` bytes (R292, R293). -/
def slowWindow (ws : List Window) (a n : Nat) (acc : Access) : Option Nat :=
  if a < viewSlow ∨ viewSlowEnd ≤ a then none
  else
    let l := a - viewSlow
    match ws.find? (fun w => w.holds l) with
    | none => none
    | some w =>
      if w.holds (l + n - 1) && (match acc with | .load => w.rd | .store => w.wr | .host => w.host)
      then some (w.pbase * 65536 + l - w.lbase * 65536) else none

/-- A map entry: the physical core of a garden-logical core (R287). -/
def mapCore (m : FMap Nat) (l : Nat) : Option Nat :=
  let e := Fm.get 0 l m
  if e / 0x8000 % 2 = 1 then some (e % 0x8000) else none

/-- A device address of a garden, translated by its pavilion's windows and map: destination code and ADDR (R293). -/
def Pav.translate (v : Pav) (a n : Nat) (acc : Access) : Option (Nat × Nat) :=
  if viewCores ≤ a ∧ a < viewCoresEnd then
    if acc = .load then (mapCore v.map ((a - viewCores) / 0x800000)).map fun c => (c, (a - viewCores) % 0x800000) else none
  else (slowWindow v.windows a n acc).map fun p => (codeOra (oraOf p), p)

/-! ### Routers -/

/-- The router beyond a side (0 north, 1 east, 2 south, 3 west), inside the die. -/
def neighbour (r side : Nat) : Option Nat :=
  let x := coreX r
  let y := coreY r
  match side with
  | 0 => if y = 0 then none else some (coreId x (y - 1))
  | 1 => if x = 143 then none else some (coreId (x + 1) y)
  | 2 => if y = 191 then none else some (coreId x (y + 1))
  | 3 => if x = 0 then none else some (coreId (x - 1) y)
  | _ => none

def opposite (side : Nat) : Nat := (side + 2) % 4

/-- The word of a footpath table in dimension order (R210). -/
def dimEntry (p q : Nat) : Nat :=
  if q % 18 < p % 18 then 4 else if p % 18 < q % 18 then 2
  else if q / 18 < p / 18 then 1 else if p / 18 < q / 18 then 3 else 0
def dimWord (p n : Nat) : Word :=
  BitVec.ofNat 64 ((List.range 16).foldl (fun a e => a + dimEntry p (16 * n + e) * 2 ^ (3 * e)) 0)

/-- A table entry: active (base 0x200) or staged (0x300). -/
def State.fpWord (s : State) (base p n : Nat) : Word := Fm.get (dimWord p n) (base + 8 * n) (s.pav p).regs
def State.setFpWord (s : State) (base p n : Nat) (w : Word) : State :=
  s.updPav p fun v => { v with regs := Fm.set (dimWord p n) (base + 8 * n) w v.regs }
def State.fpEntry (s : State) (p q : Nat) : Nat := bitsOf (s.fpWord 0x200 p (q / 16)) (3 * (q % 16)) 3

/-- Where a packet goes from router `r`: an output port; none where the table says unreachable (R209). -/
def State.nextPort (s : State) (r : Nat) (exit : Nat × Nat) : Option Nat :=
  let p := pavOf r
  match s.fpEntry p (pavOf exit.1) with
  | 1 => some 0
  | 2 => some 1
  | 3 => some 2
  | 4 => some 3
  | 0 =>
    if coreX exit.1 < coreX r then some 3 else if coreX r < coreX exit.1 then some 1
    else if coreY exit.1 < coreY r then some 0 else if coreY r < coreY exit.1 then some 2
    else some exit.2
  | _ => none

def cntIdx (r port : Nat) : Nat := coreIdx r * 8 + port
def aveIdx (r port slice : Nat) : Nat := (coreIdx r * 8 + port) * 4 + slice
def fqKey (r port slice : Nat) (reply : Bool) : Nat := ((coreIdx r * 5 + port) * 4 + slice) * 2 + (if reply then 1 else 0)
def aqKey (r port slice : Nat) : Nat := (coreIdx r * 5 + port) * 4 + slice

/-! ### Avenue entries (R212, R213, R231) -/

structure AveEntry where
  valid : Bool
  garden : Nat
  avenue : Nat
  mask : Nat
  nsl : Nat
  esl : Nat
  ssl : Nat
  wsl : Nat
  lsl : Nat
  drained : Bool
  deriving DecidableEq, Repr

def decodeAve (w : Word) : AveEntry :=
  { valid := bitsOf w 0 1 = 1, garden := bitsOf w 1 2, avenue := bitsOf w 3 10, mask := bitsOf w 13 5, nsl := bitsOf w 18 2,
    esl := bitsOf w 20 2, ssl := bitsOf w 22 2, wsl := bitsOf w 24 2, lsl := bitsOf w 28 2, drained := bitsOf w 30 1 = 1 }

/-- The slice an entry takes on an output. -/
def AveEntry.sliceOn (e : AveEntry) (out : Nat) : Nat :=
  match out with | 0 => e.nsl | 1 => e.esl | 2 => e.ssl | 3 => e.wsl | _ => e.lsl
def AveEntry.goesTo (e : AveEntry) (out : Nat) : Bool := e.mask.testBit out

def aveActive : Nat := 0x20000
def aveStaged : Nat := 0x40000
def Pav.ave (v : Pav) (base i : Nat) : AveEntry := decodeAve (getReg .pv (base + 8 * i) v.regs)

/-- The entries of a router: (port, slice). -/
def entrySlots : List (Nat × Nat) := (List.range 5).flatMap fun p => [(p, 1), (p, 2), (p, 3)]

/-- The source entry, and the delivery entry, of a garden's avenue at a router (R213): the entry's port and slice. -/
def Pav.sourceEntry (v : Pav) (r g ave : Nat) : Option Nat :=
  [1, 2, 3].find? fun sl => let e := v.ave aveActive (aveIdx r 4 sl); e.valid && e.garden = g && e.avenue = ave
def Pav.deliveryEntry (v : Pav) (r g ave : Nat) : Option (Nat × Nat) :=
  entrySlots.find? fun ps =>
    let e := v.ave aveActive (aveIdx r ps.1 ps.2)
    e.valid && e.goesTo 4 && e.garden = g && e.avenue = ave

/-- Slices 1-3 of an output that an avenue drives are not for footpaths (R189); for the input of a core or an endpoint,
those with an entry. -/
def Pav.fpSlices (v : Pav) (r out : Nat) : List Nat :=
  0 :: [1, 2, 3].filter fun sl => entrySlots.all fun ps =>
    let e := v.ave aveActive (aveIdx r ps.1 ps.2)
    !(e.valid && e.goesTo out && e.sliceOn out = sl)
def Pav.fpInSlices (v : Pav) (r port : Nat) : List Nat :=
  0 :: [1, 2, 3].filter fun sl => !(v.ave aveActive (aveIdx r port sl)).valid

/-! ### Flits (R185) -/

/-- A header of 16 bytes and the payload, in flits of 32 bytes; a bundle's header has 8 (R214). -/
def Packet.flits (p : Packet) : Nat := (16 + p.payload.length + 31) / 32
def Bundle.flits (b : Bundle) : Nat := (8 + b.payload.length + 31) / 32

def Flit.last (f : Flit) : Bool := f.cut || f.idx + 1 = f.pkt.flits
def AveFlit.last (f : AveFlit) : Bool := f.cut || f.idx + 1 = f.bun.flits

/-- The flit after one, while there is one. -/
def Flit.next (f : Flit) : Option Flit := if f.last then none else some { f with idx := f.idx + 1 }
def AveFlit.next (f : AveFlit) : Option AveFlit := if f.last then none else some { f with idx := f.idx + 1 }

/-- The payload bytes a flit of a bundle carries. -/
def AveFlit.bytes (f : AveFlit) : List Byte :=
  if f.cut then [] else if f.idx = 0 then f.bun.payload.take 24 else (f.bun.payload.drop (32 * f.idx - 8)).take 32

/-! ### Queues (R191-R193) -/

/-- A receiving queue of 16 entries is on with five or more of them free (R192). -/
def queueOn (n : Nat) : Bool := n ≤ 11

def Pav.fqAt (v : Pav) (k : Nat) : List Flit := Fm.get [] k v.fq
def Pav.aqAt (v : Pav) (k : Nat) : List AveFlit := Fm.get [] k v.aq

def gateKey (r port : Nat) : Nat := coreIdx r * 5 + port
def Pav.gate (v : Pav) (r port : Nat) : List GateEntry := Fm.get [] (gateKey r port) v.gates

/-- Entries taken of an input queue: flits held in the gate buffer before it count (R193). -/
def Pav.fqTaken (v : Pav) (r port slice : Nat) (reply : Bool) : Nat :=
  (v.fqAt (fqKey r port slice reply)).length +
    ((v.gate r port).flatMap fun e => e.fp.filter fun x => x.1 = slice && replyType x.2.pkt.type = reply).length
def Pav.aqTaken (v : Pav) (r port slice : Nat) : Nat :=
  (v.aqAt (aqKey r port slice)).length + ((v.gate r port).flatMap fun e => e.ave.filter fun x => x.1 = slice).length

/-- Traffic of a garden has entered a pavilion: it is not quiet (R224). -/
def Pav.noise (g : Nat) (v : Pav) : Pav :=
  v.setF Reg.PV_FAB_STATUS_FPQUIET (v.getF Reg.PV_FAB_STATUS_FPQUIET &&& (15 ^^^ 2 ^ g))

def State.pushFq (s : State) (r port slice : Nat) (f : Flit) : State :=
  s.updPav (pavOf r) fun v =>
    { v.noise f.pkt.garden with fq := Fm.upd [] (fqKey r port slice (replyType f.pkt.type)) (· ++ [f]) v.fq }
def State.popFq (s : State) (r port slice : Nat) (reply : Bool) : State :=
  s.updPav (pavOf r) fun v => { v with fq := Fm.upd [] (fqKey r port slice reply) (List.drop 1) v.fq }
def State.pushAq (s : State) (r port slice : Nat) (f : AveFlit) : State :=
  s.updPav (pavOf r) fun v => { v.noise f.bun.garden with aq := Fm.upd [] (aqKey r port slice) (· ++ [f]) v.aq }
def State.popAq (s : State) (r port slice : Nat) : State :=
  s.updPav (pavOf r) fun v => { v with aq := Fm.upd [] (aqKey r port slice) (List.drop 1) v.aq }

/-- The footpath slice a packet takes among those of an output: by source and destination when ordered, else the one
whose queue has most room, the lower on a tie (R190). `len` is how much of a slice's queue is taken. -/
def pickSlice (p : Packet) (slices : List Nat) (len : Nat → Nat) : Nat :=
  if p.ord then slices.getD ((p.src ^^^ p.dest) % slices.length) 0
  else slices.foldl (fun b sl => if len sl < len b then sl else b) 0

/-! ### Gate buffers (R186, R198-R200, R446) -/

/-- A link between two pavilions, which has a gate buffer in each direction; between two plots it is a stile. -/
def isSeam (r side : Nat) : Bool := (neighbour r side).any fun q => pavOf q ≠ pavOf r
def isStile (r side : Nat) : Bool := (neighbour r side).any fun q => plotOf (pavOf q) ≠ plotOf (pavOf r)

def GateEntry.holds (e : GateEntry) (slice : Nat) : Bool := e.fp.any (fun x => x.1 = slice) || e.ave.any (fun x => x.1 = slice)
def GateEntry.size (e : GateEntry) : Nat := e.fp.length + e.ave.length

/-- The flits of an entry go into the queues they are bound for. -/
def State.landEntry (s : State) (r port : Nat) (e : GateEntry) : State :=
  let s := e.fp.foldl (fun s x => s.pushFq r port x.1 x.2) s
  e.ave.foldl (fun s x => s.pushAq r port x.1 x.2) s

/-- An aligned gate buffer begins with four empty entries (R446); one whose link is held off is read out, its flits having places in their
queues (log entry 79). -/
def State.openGate (s : State) (r side : Nat) : State :=
  s.updPav (pavOf r) fun v => { v with gates := Fm.set [] (gateKey r side) (List.replicate 4 {}) v.gates, gateOpen := sdel (gateKey r side) v.gateOpen }
def State.closeGate (s : State) (r side : Nat) : State :=
  let s := ((s.pav (pavOf r)).gate r side).foldl (fun s e => s.landEntry r side e) s
  s.updPav (pavOf r) fun v => { v with gates := Fm.del (gateKey r side) v.gates, gateOpen := sdel (gateKey r side) v.gateOpen }

/-! ### Discards -/

def State.bumpLink (s : State) (r port : Nat) (f : Nat → Fld) (n : Nat := 1) : State :=
  s.updPav (pavOf r) fun v => v.incF (f (cntIdx r port)) n

/-- An error of the fabric: incident FABRIC and a taint (R228, R229, R549). -/
def State.fabricError (s : State) (r g op : Nat) : State :=
  (s.report { kind := 0x11, unit := 1, unitId := r, garden := g, op := op, flags := 1 }).taint g 3

/-- The link of a router's side is aligned and passes traffic (R231). -/
def State.linkUp (s : State) (r side : Nat) : Bool :=
  (s.pav (pavOf r)).getF (Reg.PV_LINK_CNT_UP (cntIdx r side)) = 1
/-- A link passes flits from router `r` once both its directions are aligned (R200). -/
def State.linkPasses (s : State) (r side : Nat) : Bool :=
  match neighbour r side with
  | none => false
  | some q => s.linkUp q (opposite side) && (!isSeam r side || s.linkUp r side)
def State.linkMarkedDown (s : State) (r side : Nat) : Bool := (s.pav (pavOf r)).downLinks.contains (coreIdx r * 4 + side)

/-- What the head comparison at a router input finds (R219, R228, R229): keep, or a discard counted there. -/
inductive HeadCheck where
  | pass | double | crc | stale
  deriving DecidableEq, Repr

def checkHead (err : FlitErr) (crcOk tagOk : Bool) : HeadCheck :=
  match err with
  | .double => .double
  | _ => if !crcOk then .crc else if !tagOk then .stale else .pass

def flitMask : FlitErr → Byte
  | .head m => m
  | _ => 0

/-- The counters and incidents of a check at input (r, port). -/
def State.countCheck (s : State) (r port g op : Nat) : HeadCheck → State
  | .pass => s
  | .double => (s.bumpLink r port Reg.PV_LINK_CNT_UE).fabricError r g op
  | .crc => (s.bumpLink r port Reg.PV_LINK_CNT_HCRC).fabricError r g op
  | .stale => s.bumpLink r port Reg.PV_LINK_CNT_STALE

def State.countCorrected (s : State) (r port : Nat) : FlitErr → State
  | .corrected => s.bumpLink r port Reg.PV_LINK_CNT_CE
  | _ => s

/-- The tag an endpoint holds for a garden (R218): orangeries 0-15, host bridge 16, peer bridges 17-21; the postmaster's is the one it
keeps in GD_STATUS. -/
def endpointIdx (code : Nat) : Nat := if code < 0x7010 then code - 0x7000 else if code = codeHost then 16 else 17 + (code - 0x7300)
def State.endTag (s : State) (code g : Nat) : BitVec 8 :=
  if code = codePost then BitVec.ofNat 8 ((s.garden g).getF Reg.GD_STATUS_GEN) else Fm.get 0 (endpointIdx code * 4 + g) s.tags

end Sys2Proof.Machine
end

