-- ==== Sys2Proof/Machine/PortOps.lean ====
section
/-! DEFINITION. The porter: descriptor fields and checks (R109, R110, R114), transfer failures (R115), the division of
rows into packets and their acknowledgement (R204-R206), local copies (R113, R94), avenues (R213, R215). -/

namespace Sys2Proof.Machine

structure PortDesc where
  op : Nat
  flagen : Bool
  flag : Nat
  rflagen : Bool
  rflag : Nat
  fence : Bool
  rows : Nat
  grant : Nat
  target : Nat
  src : Nat
  dst : Nat
  len : Nat
  sstr : Nat
  dstr : Nat
  rsv : Nat
  deriving DecidableEq, Repr

/-- A porter descriptor; lengths and strides in bytes (R109). -/
def decodePort (ws : List Word) : PortDesc :=
  let w0 := wordAt ws 0
  let w1 := wordAt ws 1
  let w2 := wordAt ws 2
  let w3 := wordAt ws 3
  { op := bitsOf w0 0 8, flagen := bitAt w0 8, flag := bitsOf w0 9 6, rflagen := bitAt w0 15, rflag := bitsOf w0 16 6,
    fence := bitAt w0 22, rows := bitsOf w0 23 12 + 1, grant := bitsOf w0 35 4, target := bitsOf w0 39 16,
    src := bitsOf w1 0 48, dst := bitsOf w2 0 48, len := (bitsOf w3 0 20 + 1) * 8,
    sstr := bitsOf w3 20 22 * 8, dstr := bitsOf w3 42 22 * 8, rsv := bitsOf w0 55 9 + bitsOf w1 48 16 + bitsOf w2 48 16 }

namespace PortDesc
variable (d : PortDesc)

def localSrc : Bool := d.op = 1 || d.op = 2 || d.op = 5 || d.op = 6 || d.op = 8
def localDst : Bool := d.op = 1 || d.op = 3 || d.op = 4 || d.op = 7
def srcAt (r : Nat) : Nat := d.src + r * d.sstr
def dstAt (r : Nat) : Nat := d.dst + r * d.dstr
def total : Nat := d.rows * d.len

/-- The lowest cause of rejection (R114). -/
def reject : Option Nat :=
  if d.op = 0 || 8 < d.op || d.rsv ≠ 0 then some 1
  else if (d.localSrc && (d.src % 8 ≠ 0 || !inSpad (d.srcAt (d.rows - 1)) d.len)) ||
      (d.localDst && (d.dst % 8 ≠ 0 || !inSpad (d.dstAt (d.rows - 1)) d.len)) then some 2
  else if d.op = 8 && (d.rows ≠ 1 || d.dst % 8 ≠ 0 || 0x8000 < d.dst + d.len) then some 3
  else none

/-- Bytes of the packet that begins at byte `off` of row `r` (R204). -/
def packetLen (r off : Nat) : Nat :=
  let n := min (8192 - off % 8192) (d.len - off)
  if d.op = 4 then min n (4096 - (d.srcAt r + off) % 4096)
  else if d.op = 5 then min n (4096 - (d.dstAt r + off) % 4096)
  else n

end PortDesc

/-- DESC_ERR, and where it was clear OP and cause (R114). -/
def Core.portErr (op cause : Nat) (k : Core) : Core :=
  let k := if k.getF Reg.KP_PORT_STATUS_DESCERR = 1 then k
    else (k.setF Reg.KP_PORT_STATUS_ERROP op).setF Reg.KP_PORT_STATUS_ERRCAUSE cause
  k.setF Reg.KP_PORT_STATUS_DESCERR 1

/-- XFER_ERR, and where it was clear the cause (R115). -/
def Core.xferErr (cause : Nat) (k : Core) : Core :=
  let k := if k.getF Reg.KP_PORT_STATUS_XFERERR = 1 then k else k.setF Reg.KP_PORT_STATUS_XFERCAUSE cause
  k.setF Reg.KP_PORT_STATUS_XFERERR 1

/-- A started transfer stops. -/
def PortRun.fail (cause : Nat) (r : PortRun) : PortRun := { r with failed := cause, finished := true, outst := [] }

/-- A run of a core replaced by its place in the order of starts. -/
def Core.setRun (i : Nat) (r : PortRun) (k : Core) : Core := { k with portRun := k.portRun.set i r }

def State.failRun (s : State) (c i : Nat) (r : PortRun) (cause : Nat) : State :=
  s.updCore c fun k => (k.xferErr cause).setRun i (r.fail cause)

/-- The first uncorrectable word in a byte range, as bytes before it. -/
def Core.badAt (k : Core) (off n : Nat) : Option Nat :=
  match k.spadUe.find? (wordIn off n) with
  | none => none
  | some w => some (8 * w - off)

/-- Of the bytes before an uncorrectable word any whole number of units may have been moved (R115): a free number. -/
def State.freePrefix (s : State) (n : Nat) : Nat × State :=
  let (w, s) := s.draw
  (w.toNat % (n / 8 + 1) * 8, s)

/-! ### Packets of PUT, GET, LOAD and STORE (R204-R206) -/

/-- The packet for `n` bytes at byte `off` of the run's row; `bs` the data of a PUT or a STORE. -/
def PortRun.packet (r : PortRun) (d : PortDesc) (c n : Nat) (bs : List Byte) (last : Bool) : Packet :=
  let s := d.srcAt r.row + r.off
  let t := d.dstAt r.row + r.off
  match d.op with
  | 2 => { type := 1, dest := d.target, src := c, payload := bs, setFlag := d.rflagen && last, flag := d.rflag,
           addr := t + r.grant.pool * 2 ^ 23 + r.grant.num * 2 ^ 26 }
  | 5 => { type := 9, dest := 0, src := c, payload := bs, addr := t, naming := .device }
  | 3 => { type := 2, dest := d.target, src := c, addr := s, payload := leBytes 8 (t + n / 8 * 2 ^ 23) }
  | _ => { type := 2, dest := 0, src := c, addr := s, payload := leBytes 8 (t + n / 8 * 2 ^ 23), naming := .device }

/-- What awaits an answer after the packet: ADDR of a WRITE or DEVWRITE, return offset of a READ, and the length. -/
def PortRun.awaits (r : PortRun) (d : PortDesc) (n : Nat) (p : Packet) : Nat × Nat :=
  if d.op = 2 || d.op = 5 then (p.addr, n) else (d.dstAt r.row + r.off, n)

def PortRun.advance (r : PortRun) (d : PortDesc) (n : Nat) : PortRun :=
  if r.off + n < d.len then { r with off := r.off + n } else { r with off := 0, row := r.row + 1 }

/-- The device address of a LOAD's or STORE's packet is in the garden's windows (R293). -/
def State.deviceOk (s : State) (c : Nat) (d : PortDesc) (r : PortRun) (n : Nat) : Bool :=
  let v := s.pav (pavOf c)
  match d.op with
  | 4 => (v.translate (d.srcAt r.row + r.off) n .load).isSome
  | 5 => (v.translate (d.dstAt r.row + r.off) n .store).isSome
  | _ => true

/-- Offer packets of run `i` while at most 32 await an answer, the last of a PUT with RFLAG after every earlier one is
acknowledged; all answered, the transfer is complete (R112, R205, R206). -/
def pump (c i : Nat) (d : PortDesc) : Nat → State → PortRun → State
  | 0, s, r => s.updCore c (Core.setRun i r)
  | fuel + 1, s, r =>
    let done := r.row = d.rows
    if r.finished then s.updCore c (Core.setRun i r)
    else if done then s.updCore c (Core.setRun i { r with finished := r.outst.isEmpty })
    else if 32 ≤ r.outst.length then s.updCore c (Core.setRun i r)
    else
      let n := d.packetLen r.row r.off
      let last := r.row + 1 = d.rows && r.off + n = d.len
      if d.op = 2 && d.rflagen && last && !r.outst.isEmpty then s.updCore c (Core.setRun i r)
      else if !s.deviceOk c d r n then s.failRun c i r 4
      else if d.op = 2 || d.op = 5 then
        let a := d.srcAt r.row + r.off
        let s := s.spadTouch c a n (0x4000 + d.op)
        match (s.core c).badAt a n with
        | some q =>
          let (m, s) := s.freePrefix q
          let s := if m = 0 then s else s.updCore c fun k => k.send (r.packet d c m (k.spadRead a m) false)
          s.failRun c i r 6
        | none =>
          let p := r.packet d c n ((s.core c).spadRead a n) last
          pump c i d fuel (s.updCore c (Core.send p)) { r.advance d n with outst := r.outst ++ [r.awaits d n p] }
      else
        let p := r.packet d c n [] last
        pump c i d fuel (s.updCore c (Core.send p)) { r.advance d n with outst := r.outst ++ [r.awaits d n p] }

def State.pumpRun (s : State) (c i : Nat) (r : PortRun) : State := pump c i (decodePort r.slot.words) 34 s r

/-! ### Local copies -/

/-- A row read from the scratchpad: its bytes up to an uncorrectable word, of which a free number counts as moved, and
whether it is whole. -/
def State.readRow (s : State) (c off n op : Nat) : List Byte × Bool × State :=
  let s := s.spadTouch c off n op
  match (s.core c).badAt off n with
  | none => ((s.core c).spadRead off n, true, s)
  | some q => let (m, s) := s.freePrefix q; ((s.core c).spadRead off m, false, s)

/-- COPY, row by row (R113). -/
def copyRows (c : Nat) (d : PortDesc) : Nat → Nat → State → State × Bool
  | 0, _, s => (s, true)
  | n + 1, row, s =>
    let (bs, ok, s) := s.readRow c (d.srcAt row) d.len 0x4001
    let s := s.updCore c (Core.spadWrite (d.dstAt row) bs)
    if ok then copyRows c d n (row + 1) s else (s, false)

/-- Bytes into the program store: whole words (R94, R110). -/
def Core.progWrite (off : Nat) (bs : List Byte) (k : Core) : Core :=
  let n := bs.length / 4
  let w := off / 4
  { k with pstore := (numbered 0 (chunks 4 n bs)).foldl (fun m p => Fm.set 0 (w + p.1) (BitVec.ofNat 32 (leVal p.2)) m) k.pstore,
           pstoreBad := k.pstoreBad.filter (fun i => i < w || w + n ≤ i),
           pstoreCe := k.pstoreCe.filter (fun i => i < w || w + n ≤ i) }

/-! ### Avenues (R213, R215) -/

/-- The rows of an ASEND as one stream, up to an uncorrectable word. -/
def sendRows (c : Nat) (d : PortDesc) : Nat → Nat → State → List Byte → List Byte × Bool × State
  | 0, _, s, acc => (acc, true, s)
  | n + 1, row, s, acc =>
    let (bs, ok, s) := s.readRow c (d.srcAt row) d.len 0x4006
    if ok then sendRows c d n (row + 1) s (acc ++ bs) else (acc ++ bs, false, s)

/-- The stream cut into bundles of 8 KiB; the last of a whole stream has LAST. -/
def cutBundles (ave : Nat) (src : Nat) (whole : Bool) : Nat → List Byte → List Bundle
  | 0, _ => []
  | n + 1, bs =>
    if bs.isEmpty then []
    else
      let rest := bs.drop 8192
      { avenue := ave, src := src, payload := bs.take 8192, last := whole && rest.isEmpty } :: cutBundles ave src whole n rest

/-- Write bytes into the rows of an ARECV from the byte it has reached. -/
def putRows (d : PortDesc) : Nat → Nat → List Byte → Core → Core
  | 0, _, _, k => k
  | fuel + 1, got, bs, k =>
    if bs.isEmpty then k
    else
      let n := min bs.length (d.len - got % d.len)
      putRows d fuel (got + n) (bs.drop n) (k.spadWrite (d.dstAt (got / d.len) + got % d.len) (bs.take n))

/-- Give the bytes that have arrived on an avenue to the ARECVs posted for it, in queue order (R215). -/
def fillRecv (ave : Nat) : List PortRun → List Byte → Core → List PortRun × List Byte × Core
  | [], bs, k => ([], bs, k)
  | r :: rs, bs, k =>
    let d := decodePort r.slot.words
    if d.op ≠ 7 || r.finished || d.target ≠ ave then
      let (rs, bs, k) := fillRecv ave rs bs k
      (r :: rs, bs, k)
    else
      let n := min bs.length (d.total - r.got)
      let k := putRows d (d.rows + 1) r.got (bs.take n) k
      let r := { r with got := r.got + n, finished := r.got + n = d.total }
      let (rs, bs, k) := fillRecv ave rs (bs.drop n) k
      (r :: rs, bs, k)

def Core.receive (ave : Nat) (bs : List Byte) (k : Core) : Core :=
  let (rs, left, k) := fillRecv ave k.portRun (Fm.get [] ave k.aveIn ++ bs) k
  { k with portRun := rs, aveIn := Fm.set [] ave left k.aveIn }

/-- An ARECV is posted on an avenue (R215). -/
def Core.recvPosted (k : Core) (ave : Nat) : Bool :=
  k.portRun.any fun r => let d := decodePort r.slot.words; d.op = 7 && !r.finished && d.target = ave

/-! ### Start and completion (R111, R114) -/

/-- The head descriptor of the porter queue, when it has entered and FENCE does not hold it back. -/
def Core.portHead (k : Core) : Option QSlot :=
  match k.portQ with
  | q :: _ => if q.entered && (!(decodePort q.words).fence || k.portRun.isEmpty) then some q else none
  | [] => none

def Core.pushRun (r : PortRun) (k : Core) : Core := { k with portQ := k.portQ.drop 1, portRun := k.portRun ++ [r] }

/-- The porter starts the head descriptor when its OP is `op`: checked under R114, then `body` with the run's place. -/
def portStart (op : Nat) (body : Nat → PortDesc → PortRun → State → State) (c : Nat) (s : State) : Res :=
  onCore c s fun s =>
    let k := s.core c
    match k.portHead with
    | none => s
    | some q =>
      let d := decodePort q.words
      if d.op ≠ op || !s.computeOn c then s
      else match d.reject with
      | some x => s.updCore c fun k => (k.portErr d.op x).pushRun { slot := q, op := d.op, rejected := true, finished := true }
      | none =>
        let r : PortRun := { slot := q, op := d.op }
        let i := k.portRun.length
        body i d r (s.updCore c fun k => { k.pushRun r with promoted := sdel 0 k.promoted })

/-- The flag of the oldest run, which leaves the porter (R111). -/
def Core.retireRun (k : Core) : Core :=
  match k.portRun with
  | [] => k
  | r :: rs =>
    let d := decodePort r.slot.words
    let k := { k with portRun := rs }
    if d.flagen then k.setFlag d.flag else k

end Sys2Proof.Machine
end

