-- ==== Sys2Proof/Machine/Fabric.lean ====
section
/-! DEFINITION. The fabric's commands (06_fabric.md) and what packets do where they arrive (05_scratchpad.md, R160-R166;
04_keeper.md, R122-R135). -/

namespace Sys2Proof.Machine

/-! ### Injection (R188, R190, R208, R218) -/

/-- A thoroughfare passes traffic: powered, and not dark (R227, R444). -/
def State.fabricOn (s : State) (r : Nat) : Bool := (s.pav (pavOf r)).powered && !(s.pav (pavOf r)).dark

def State.held (s : State) (r g : Nat) : Bool := ((s.pav (pavOf r)).getF Reg.PV_FAB_CTL_HOLD).testBit g

/-- The first flit of a packet goes into an input queue of router `r`, on the footpath slice the packet takes; the others follow. None while
that queue is off or another packet is entering it. -/
def State.enter (s : State) (r port : Nat) (p : Packet) : Option State :=
  let v := s.pav (pavOf r)
  let reply := replyType p.type
  let sl := pickSlice p (v.fpInSlices r port) fun x => v.fqTaken r port x reply
  let key := fqKey r port sl reply
  if !queueOn (v.fqTaken r port sl reply) || (Fm.look key v.entering).isSome then none
  else
    let f : Flit := { pkt := p }
    some ((s.pushFq r port sl f).updPav (pavOf r) fun v =>
      { v with entering := match f.next with | some n => Fm.put key n v.entering | none => v.entering })

/-- The next flit of a packet of one class that is entering at a router's port, where its queue is on. -/
def State.enterOn (s : State) (r port : Nat) (reply : Bool) : Option State :=
  let v := s.pav (pavOf r)
  match [0, 1, 2, 3].find? fun sl => (Fm.look (fqKey r port sl reply) v.entering).isSome && queueOn (v.fqTaken r port sl reply) with
  | none => none
  | some sl =>
    let key := fqKey r port sl reply
    (Fm.look key v.entering).map fun f => (s.pushFq r port sl f).updPav (pavOf r) fun v =>
      { v with entering := match f.next with | some n => Fm.put key n v.entering | none => Fm.del key v.entering }

/-- The same of a bundle, on an avenue's slice. -/
def State.enterAve (s : State) (r port sl : Nat) (f : AveFlit) : State :=
  let key := aqKey r port sl
  (s.pushAq r port sl f).updPav (pavOf r) fun v =>
    { v with aveEntering := match f.next with | some n => Fm.put key n v.aveEntering | none => Fm.del key v.aveEntering }

/-- The slices of a port whose avenue queue is on, with the flit that is to enter it next. -/
def Pav.aveNext (v : Pav) (r port : Nat) : Option (Nat × AveFlit) :=
  [1, 2, 3].findSome? fun sl =>
    match Fm.look (aqKey r port sl) v.aveEntering with
    | some f => if queueOn (v.aqTaken r port sl) then some (sl, f) else none
    | none => none
def Pav.aveFree (v : Pav) (r port sl : Nat) : Bool :=
  (Fm.look (aqKey r port sl) v.aveEntering).isNone && queueOn (v.aqTaken r port sl)

/-- Bytes an access of a packet covers. -/
def Packet.span (p : Packet) : Nat := if p.type = 2 then leVal p.payload / 2 ^ 23 % 2 ^ 11 * 8 else p.payload.length

/-- DEST and ADDR as the fabric knows them (R208, R293). -/
def Pav.resolve (v : Pav) (p : Packet) : Option (Nat × Nat) :=
  match p.naming with
  | .physical => some (p.dest, p.addr)
  | .core => (mapCore v.map p.dest).map fun c => (c, p.addr)
  | .device => v.translate p.addr p.span (if p.type = 2 then .load else .store)

/-- The transfer whose packet cannot be translated stops with cause 4 (R293). -/
def State.failDevice (s : State) (c : Nat) (p : Packet) : State :=
  let key := if p.type = 2 then leVal p.payload % 2 ^ 23 else p.addr
  match (s.core c).portRun.findIdx? (fun r => (r.op = 4 || r.op = 5) && r.outst.any fun o => o.1 = key) with
  | none => s
  | some i => match (s.core c).portRun[i]? with
    | none => s
    | some r => s.failRun c i r 4

def Packet.stamp (p : Packet) (dest addr src g : Nat) (tag : BitVec 8) : Packet :=
  let q := { p with dest := dest, addr := addr, src := src, garden := g, gen := tag, naming := .physical }
  { q with hcrc := q.headCrc }

/-- A core's next packet of a class, its replies and its requests each in order: it enters at its router, is discarded, or waits. Injection
hold stops requests. -/
def State.injectClass (s : State) (c g : Nat) (reply : Bool) : Option State :=
  let out := (s.core c).out
  match out.find? fun p => replyType p.type = reply with
  | none => none
  | some p =>
    let pop (s : State) : State := s.updCore c fun k => { k with out := out.erase p }
    let v := s.pav (pavOf c)
    if !s.computeOn c || (!reply && s.held c g) then none
    else match v.resolve p with
    | none => some (if p.naming = .device then (pop s).failDevice c p else (pop s).bumpLink c 4 Reg.PV_LINK_CNT_DOWN)
    | some (dest, addr) =>
      match s.exitOf c dest with
      | none => some ((pop s).bumpLink c 4 Reg.PV_LINK_CNT_DOWN)
      | some _ => (pop s).enter c 4 (p.stamp dest addr c g (s.pavTag (pavOf c) g))

/-- A core sends a flit: of a reply before one of a request, which therefore never keeps a reply waiting (R196). -/
def State.injectCore (s : State) (c : Nat) : State :=
  match s.ownerOf c with
  | none => s
  | some g =>
    if !s.fabricOn c then s
    else ((s.enterOn c 4 true) <|> (s.injectClass c g true) <|> (s.enterOn c 4 false) <|> (s.injectClass c g false)).getD s

/-- The last flit of a bundle of an avenue is in the fabric: its ASEND has one less to send. -/
def Core.bundleSent (ave : Nat) (k : Core) : Core :=
  let n := k.portRun.findIdx fun r => r.op = 6 && r.toInject ≠ 0 && (decodePort r.slot.words).target = ave
  { k with portRun := k.portRun.modify n fun r => { r with toInject := r.toInject - 1, finished := r.toInject = 1 } }

/-- A bundle's flit enters at the local port. -/
def State.sendAve (s : State) (c sl : Nat) (f : AveFlit) : State :=
  let s := s.enterAve c 4 sl f
  if f.last && !f.bun.drain then s.updCore c (Core.bundleSent f.bun.avenue) else s

/-- The bundle a source entry makes of what is sent on it: tag, garden and number are the entry's (R213, R216). -/
def State.numbered (s : State) (c sl : Nat) (b : Bundle) : Bundle :=
  let v := s.pav (pavOf c)
  let e := v.ave aveActive (aveIdx c 4 sl)
  let q := { b with garden := e.garden, gen := s.pavTag (pavOf c) e.garden, seq := Fm.get 0 (aveIdx c 4 sl * 2) v.seqs, src := c }
  { q with hcrc := q.headCrc }

/-- A source entry takes a core's next flit: of a bundle under way, a drain marker, or a bundle that its queue has room for, which it
numbers. A drain marker does not advance the number (R216, R223). -/
def State.injectBundle (s : State) (c : Nat) : State :=
  let v := s.pav (pavOf c)
  let marked := [1, 2, 3].find? fun sl => v.markers.contains (aveIdx c 4 sl) && v.aveFree c 4 sl
  let mine (x : Nat × Bundle) : Bool := v.aveFree c 4 x.1 && !s.held c (v.ave aveActive (aveIdx c 4 x.1)).garden
  if !s.fabricOn c then s
  else match v.aveNext c 4, marked with
  | some (sl, f), _ => s.sendAve c sl f
  | none, some sl =>
    let e := v.ave aveActive (aveIdx c 4 sl)
    let s := s.updPav (pavOf c) fun v => { v with markers := sdel (aveIdx c 4 sl) v.markers }
    if e.valid then s.sendAve c sl { bun := s.numbered c sl { avenue := e.avenue, drain := true } } else s
  | none, none =>
    if !s.computeOn c then s
    else match (s.core c).aveOut.find? mine with
    | none => s
    | some (sl, b) =>
      let e := v.ave aveActive (aveIdx c 4 sl)
      let s := s.updCore c fun k => { k with aveOut := k.aveOut.erase (sl, b) }
      if !e.valid || e.avenue ≠ b.avenue then (s.updCore c (Core.bundleSent b.avenue)).bumpLink c 4 Reg.PV_LINK_CNT_DOWN
      else
        let q := s.numbered c sl b
        (s.sendAve c sl { bun := q }).updPav (pavOf c) fun v =>
          { v with seqs := Fm.set 0 (aveIdx c 4 sl * 2) ((q.seq + 1) % 65536) v.seqs }

/-- The routers of an endpoint's range and the side of their edge ports. -/
def attachRouters (a : Nat × Nat × Nat) : List (Nat × Nat) :=
  (List.range (a.2.2 + 1 - a.2.1)).map fun i =>
    match a.1 with
    | 0 => (coreId (a.2.1 + i) 0, 0)
    | side => (coreId (if side = 3 then 0 else 143) (a.2.1 + i), side)

/-- A packet of an endpoint begins to enter by its attach router. -/
def State.startEnd (s : State) (code : Nat) (a : Nat × Nat × Nat) (p : Packet) : Option State :=
  let pop (s : State) : State := { s with endOut := Fm.upd [] code (fun l => l.erase p) s.endOut }
  let (x, y) := s.placeOf p.dest
  let (r, side) := edgePort a x y
  if !s.fabricOn r then none
  else match s.exitOf code p.dest with
  | none => some ((pop s).bumpLink r side Reg.PV_LINK_CNT_DOWN)
  | some _ => (pop s).enter r side (p.stamp p.dest p.addr code p.garden (s.pavTag (pavOf r) p.garden))

/-- Packets that wait in an orangery (R242): the manual gives no number (log entry 81). -/
def oraDepth : Nat := 64

/-- An endpoint takes a sender's packet: an orangery while a UCIe module carries it and it has room (R238, R242). -/
def State.endTakes (s : State) (code src : Nat) : Bool :=
  if 0x7000 ≤ code ∧ code < 0x7010 then
    let o := s.orang (code - 0x7000)
    (o.carrier src).isSome && o.inbox.length < oraDepth
  else true

/-- An endpoint gives a packet: an orangery's reply while a module carries it (R238). -/
def State.endGives (s : State) (code : Nat) (p : Packet) : Bool :=
  if 0x7000 ≤ code ∧ code < 0x7010 then ((s.orang (code - 0x7000)).carrier p.dest).isSome else true

/-- An endpoint's next flit enters the fabric: replies before requests. -/
def State.injectEnd (s : State) (code : Nat) : State :=
  match s.attach code with
  | none => s
  | some a =>
    let out := Fm.get [] code s.endOut
    let on (reply : Bool) : Option State :=
      ((attachRouters a).findSome? fun x => if s.fabricOn x.1 then s.enterOn x.1 x.2 reply else none) <|>
        (out.filter fun p => replyType p.type = reply && s.endGives code p).findSome? (s.startEnd code a)
    ((on true) <|> (on false)).getD s

/-- A peer bridge's next flit enters by its attach router: of a bundle under way, else of the lowest port and priority whose entry is
on. -/
def State.injectPeer (s : State) (code : Nat) : State :=
  let next := match s.attach code with
    | none => none
    | some a => (attachRouters a).findSome? fun x =>
        if s.fabricOn x.1 then ((s.pav (pavOf x.1)).aveNext x.1 0).map fun y => (x.1, y.1, y.2) else none
  let can (k : Nat) : Bool := s.bridgeOf (k / 8) = code - codePeer 0 &&
    (match Fm.get [] k s.endAve with
     | [] => false
     | (r, sl, b) :: _ => s.fabricOn r && !s.heldAve b.garden b.avenue (k / 8) && (s.pav (pavOf r)).aveFree r 0 sl)
  match next with
  | some (r, sl, f) => s.enterAve r 0 sl f
  | none =>
    match (List.range 128).find? can with
    | none => s
    | some k =>
      match Fm.get [] k s.endAve with
      | [] => s
      | (r, sl, b) :: bs => ({ s with endAve := Fm.set [] k bs s.endAve }).enterAve r 0 sl { bun := b }

def execInjection (src : Nat) (avenue : Bool) (s : State) : Res :=
  onUnit (isCore src || isEndpoint src) s fun s =>
    if src < Config.coreSites then (if avenue then s.injectBundle src else s.injectCore src)
    else if avenue then s.injectPeer src else s.injectEnd src

/-! ### Routing (R194, R195, R209, R219, R228-R230) -/

/-- The packet types an endpoint takes: an orangery READ and DEVWRITE, the host bridge READ_DATA, ACK and NOTICE, the postmaster READ; another
is discarded as a reserved type is (R203, log entry 78). -/
def endTypes (code : Nat) : List Nat := if code = codeHost then [3, 7, 8] else if code = codePost then [2] else [2, 9]

/-- A whole packet has left by an endpoint's edge port. -/
def State.deliverEnd (s : State) (r side : Nat) (p : Packet) : State :=
  if !(endTypes p.dest).contains p.type then s.bumpLink r side Reg.PV_LINK_CNT_DOWN
  else if 0x7000 ≤ p.dest ∧ p.dest < 0x7010 then s.updOra (p.dest - 0x7000) fun o => { o with inbox := o.inbox ++ [p] }
  else if p.dest = codeHost then { s with bridge := { s.bridge with inbox := s.bridge.inbox ++ [p] } }
  else if p.dest = codePost then s.updPost fun x => { x with inbox := x.inbox ++ [p] }
  else s.bumpLink r side Reg.PV_LINK_CNT_DOWN

/-- A local port takes a packet: replies without waiting, a READ while fewer than eight wait (R160, R196); it holds
everything off while the compute domain is off (R167) or a patrol segment runs on the core (R557). -/
def State.localTakes (s : State) (c : Nat) (p : Packet) : Bool :=
  s.computeOn c && !(s.pav (pavOf c)).testing c &&
    (p.type ≠ 2 || ((s.core c).inbox.filter fun q => q.type = 2).length < 8)

def State.deliverCore (s : State) (r port : Nat) (p : Packet) : State :=
  if p.type = 0 || 9 ≤ p.type then s.bumpLink r port Reg.PV_LINK_CNT_DOWN
  else s.updCore r fun k => { k with inbox := k.inbox ++ [p] }

/-- The output and slice of the flit at the front of a footpath input: what its packet holds, or for a head flit what the tables and R190
give; none where the packet has nowhere to go (R209). -/
def State.bound (s : State) (r : Nat) (key : Nat) (f : Flit) : Option (Nat × Nat) :=
  let v := s.pav (pavOf r)
  match Fm.look key v.holds with
  | some x => some (x.1, x.2.1)
  | none =>
    match s.exitOf f.pkt.src f.pkt.dest with
    | none => none
    | some exit =>
      match s.nextPort r exit with
      | none => none
      | some out =>
        let taken (x : Nat) : Nat := match neighbour r out with
          | none => 0
          | some q => if out = 4 then 0 else (s.pav (pavOf q)).fqTaken q (opposite out) x (replyType f.pkt.type)
        some (out, pickSlice f.pkt (v.fpSlices r out) taken)

/-- The entry that the sender of a link is writing in its present cycle, if it has room for a flit on a slice: a stile's takes two (R186,
R198). -/
def State.openEntry (s : State) (r out slice : Nat) : Option GateEntry :=
  match neighbour r out with
  | none => none
  | some q =>
    let v := s.pav (pavOf q)
    let key := gateKey q (opposite out)
    if !v.gateOpen.contains key then none
    else match (v.gate q (opposite out)).getLast? with
      | none => none
      | some e => if e.holds slice || (isStile r out && 2 ≤ e.size) then none else some e

/-- The sender of a link can write a flit on a slice: into its open entry, or a new one while the buffer holds fewer than six (R199). -/
def State.gateTakes (s : State) (r out slice : Nat) : Bool :=
  match neighbour r out with
  | none => true
  | some q => !isSeam r out || (s.openEntry r out slice).isSome || ((s.pav (pavOf q)).gate q (opposite out)).length < 6

/-- What waits for an output slice could move there now: the endpoint or the receiving queue takes it. A flit for a link that is down does not
wait. -/
def State.canGo (s : State) (r out slice : Nat) (f : Flit) : Bool :=
  if out = 4 then (if f.idx = 0 then s.localTakes r f.pkt else s.computeOn r && !(s.pav (pavOf r)).testing r)
  else match neighbour r out with
  | none => s.endTakes f.pkt.dest f.pkt.src
  | some q => s.linkPasses r out && queueOn ((s.pav (pavOf q)).fqTaken q (opposite out) slice (replyType f.pkt.type)) &&
      s.gateTakes r out slice

/-- The footpath inputs of a router whose front flit waits for an output slice and could go: 5 ports x 4 slices, numbered port x 4 + slice. -/
def State.wanting (s : State) (r out slice : Nat) (reply : Bool) : List (Nat × Flit) :=
  (List.range 20).filterMap fun i =>
    let key := fqKey r (i / 4) (i % 4) reply
    let v := s.pav (pavOf r)
    match v.fqAt key with
    | [] => none
    | f :: _ =>
      if (v.dropping.contains key && f.idx ≠ 0) || (f.idx = 0 && s.pavTag (pavOf r) f.pkt.garden ≠ f.pkt.gen) then none
      else if s.bound r key f = some (out, slice) && s.canGo r out slice f then some (i, f) else none

def rotKey (r out slice : Nat) (reply : Bool) : Nat := ((coreIdx r * 5 + out) * 4 + slice) * 2 + (if reply then 1 else 0)

/-- The output slice serves input `i` next: replies go before requests; a packet under way of the class holds the slice; else the inputs with a
head flit are served in rotating order (R194, log entry 79). -/
def State.serves (s : State) (r out slice : Nat) (reply : Bool) (i : Nat) (f : Flit) : Bool :=
  let v := s.pav (pavOf r)
  let holders := (List.range 20).filter fun j => (Fm.look (fqKey r (j / 4) (j % 4) reply) v.holds).any fun x => x.1 = out && x.2.1 = slice
  let turn (j : Nat) : Nat := (j + 20 - Fm.get 0 (rotKey r out slice reply) v.rotate) % 20
  (reply || (s.wanting r out slice true).isEmpty) &&
    (if f.idx = 0 then holders.isEmpty && (s.wanting r out slice reply).all fun x => turn i ≤ turn x.1 else holders.contains i)

/-- A slice of an output link has a flit that is ready and on, a footpath's or an avenue's (R186). -/
def State.sliceReady (s : State) (aveReady : Nat → Nat → Nat → Bool) (r out slice : Nat) : Bool :=
  !(s.wanting r out slice true).isEmpty || !(s.wanting r out slice false).isEmpty || aveReady r out slice

/-- A stile with more than two slices ready serves them in rotating order, after the last it served (R186). -/
def State.stileServes (s : State) (aveReady : Nat → Nat → Nat → Bool) (r out slice : Nat) : Bool :=
  let last := Fm.get 0 (coreIdx r * 5 + out) (s.pav (pavOf r)).stile
  let turn (x : Nat) : Nat := (x + 4 - last % 4) % 4
  let e : GateEntry := (s.openEntry r out slice).getD {}
  let others := [0, 1, 2, 3].filter fun x => x ≠ slice && !e.holds x && s.sliceReady aveReady r out x
  !isStile r out || others.length + e.size < 2 || others.all fun x => turn slice < turn x

/-- A flit is put on an output link: into the receiving queue, or into the gate buffer's entry of the sender's cycle. -/
def State.putEntry (s : State) (r out slice : Nat) (fp : List (Nat × Flit)) (ave : List (Nat × AveFlit)) : State :=
  match neighbour r out with
  | none => s
  | some q =>
    if !isSeam r out then s.landEntry q (opposite out) { fp := fp, ave := ave }
    else
      let key := gateKey q (opposite out)
      let s := if isStile r out then s.updPav (pavOf r) fun v => { v with stile := Fm.set 0 (coreIdx r * 5 + out) (slice + 1) v.stile } else s
      let mine := s.openEntry r out slice
      s.updPav (pavOf q) fun v =>
        let g := v.gate q (opposite out)
        let g := match mine with
          | some e => g.dropLast ++ [{ fp := e.fp ++ fp, ave := e.ave ++ ave }]
          | none => g ++ [{ fp := fp, ave := ave }]
        let v := (fp.map fun x => x.2.pkt.garden).foldl (fun v g => Pav.noise g v) v
        let v := (ave.map fun x => x.2.bun.garden).foldl (fun v g => Pav.noise g v) v
        { v with gates := Fm.set [] key g v.gates, gateOpen := sins key v.gateOpen }

/-- A cycle of the link that comes into a port across a seam: the receiver reads the oldest entry of more than two, and at two or fewer it
reads none while the sender writes one without flits (R198, R199, log entry 79). -/
def State.gateCycle (s : State) (r port : Nat) : State :=
  if !isSeam r port then s
  else
    let key := gateKey r port
    match (s.pav (pavOf r)).gate r port with
    | [] => s
    | e :: es =>
      if 2 ≤ es.length then
        (s.updPav (pavOf r) fun v => { v with gates := Fm.set [] key es v.gates, gateOpen := sdel key v.gateOpen }).landEntry r port e
      else s.updPav (pavOf r) fun v => { v with gates := Fm.set [] key (e :: es ++ [{}]) v.gates, gateOpen := sdel key v.gateOpen }

/-- A flit at the front of a footpath input is discarded, and with it the rest of its packet, a flit at a time. -/
def State.discardFq (s : State) (r port slice : Nat) (reply : Bool) (f : Flit) : State :=
  let key := fqKey r port slice reply
  (s.popFq r port slice reply).updPav (pavOf r) fun v =>
    { v with dropping := if f.last then sdel key v.dropping else sins key v.dropping, holds := Fm.del key v.holds }

/-- The front flit of a footpath input moves: its output serves it, or it is discarded there. -/
def State.flitGoes (s : State) (aveReady : Nat → Nat → Nat → Bool) (r port slice : Nat) (f : Flit) : Bool :=
  let reply := replyType f.pkt.type
  match s.bound r (fqKey r port slice reply) f with
  | none => true
  | some (out, lane) => (out < 4 && s.linkMarkedDown r out) ||
      (s.canGo r out lane f && s.serves r out lane reply (port * 4 + slice) f && s.stileServes aveReady r out lane)

/-- A flit that moves goes one hop, is delivered, or is discarded. A flit that `cuts` its packet is the last of it to go on. -/
def State.forwardFlit (s : State) (r port slice : Nat) (f : Flit) (cuts : Bool) : State :=
  let reply := replyType f.pkt.type
  let key := fqKey r port slice reply
  let drop : State := (s.discardFq r port slice reply f).bumpLink r port Reg.PV_LINK_CNT_DOWN
  match s.bound r key f with
  | none => drop
  | some (out, lane) =>
    if out < 4 && s.linkMarkedDown r out then drop
    else if out < 4 && (neighbour r out).isNone && f.idx = 0 && s.endTag f.pkt.dest f.pkt.garden ≠ f.pkt.gen then
      (s.discardFq r port slice reply f).bumpLink r out Reg.PV_LINK_CNT_STALE
    else
      let g := { f with cut := f.cut || cuts }
      let s := if f.idx = 0 then s.updPav (pavOf r) fun v =>
          { v with rotate := Fm.set 0 (rotKey r out lane reply) (port * 4 + slice + 1) v.rotate } else s
      let s := if cuts then s.discardFq r port slice reply f
        else (s.popFq r port slice reply).updPav (pavOf r) fun v =>
          { v with holds := if f.last then Fm.del key v.holds else Fm.put key (out, lane, f) v.holds }
      if out = 4 then (if f.last && !g.cut then s.deliverCore r port f.pkt else s)
      else match neighbour r out with
      | none => if f.last && !g.cut then s.deliverEnd r out f.pkt else s
      | some _ => s.putEntry r out lane [(lane, g)] []

/-! ### Avenues (R197, R213-R216, R225) -/

/-- The peer bridge at a north-edge router. -/
def State.peerBridgeAt (s : State) (r : Nat) : Option Nat :=
  [0, 1, 2, 3, 4].findSome? fun n =>
    match s.attach (codePeer n) with
    | some (_, lo, hi) => if coreY r = 0 && lo ≤ coreX r && coreX r ≤ hi then some (codePeer n) else none
    | none => none

/-- An output of an entry's mask can take the flit now: the local one where the garden's core has an ARECV posted (R213, R215). -/
def State.branchOn (s : State) (r : Nat) (e : AveEntry) (f : AveFlit) (out : Nat) : Bool :=
  if out = 4 then f.bun.drain || f.cut ||
    (s.computeOn r && s.ownerOf r = some f.bun.garden && e.garden = f.bun.garden && (s.core r).recvPosted f.bun.avenue)
  else match neighbour r out with
  | none => match s.peerBridgeAt r with
    | none => true
    | some code => queueOn ((Fm.get [] code s.bridgeOut).filter fun x => x.1 = r * 4 + e.sliceOn out).length
  | some q => s.linkMarkedDown r out ||
      (s.linkPasses r out && queueOn ((s.pav (pavOf q)).aqTaken q (opposite out) (e.sliceOn out)) && s.gateTakes r out (e.sliceOn out))

/-- The entry that drives an avenue slice of an output has a flit that could move. -/
def State.aveReady (s : State) (r out slice : Nat) : Bool :=
  let v := s.pav (pavOf r)
  entrySlots.any fun ps =>
    let e := v.ave aveActive (aveIdx r ps.1 ps.2)
    e.valid && e.goesTo out && e.sliceOn out = slice &&
      match v.aqAt (aqKey r ps.1 ps.2) with
      | [] => false
      | f :: _ => !(v.aveDropping.contains (aqKey r ps.1 ps.2) && f.idx ≠ 0) && ((List.range 5).filter e.goesTo).all (s.branchOn r e f)

/-- Local delivery: a marker sets DRAINED; the SEQ of a bundle's head is checked and its bytes go to the ARECVs (R216, R225). -/
def State.deliverFlit (s : State) (r port sl : Nat) (f : AveFlit) : State :=
  let i := aveIdx r port sl
  let b := f.bun
  if b.drain then s.updPav (pavOf r) fun v => v.setF (Reg.PV_AVE_ACTIVE_DRAINED i) 1
  else
    let want := Fm.get 0 (i * 2 + 1) (s.pav (pavOf r)).seqs
    let s := if f.idx ≠ 0 || b.seq = want then s else (s.bumpLink r port Reg.PV_LINK_CNT_UE).fabricError r b.garden 0
    let s := if f.idx ≠ 0 then s else s.updPav (pavOf r) fun v => { v with seqs := Fm.set 0 (i * 2 + 1) ((b.seq + 1) % 65536) v.seqs }
    s.updCore r (Core.receive b.avenue f.bytes)

/-- A flit goes out on one output of its entry; a peer bridge takes the whole bundle with its last flit. -/
def State.branch (r port sl : Nat) (e : AveEntry) (f : AveFlit) (s : State) (out : Nat) : State :=
  if out = 4 then s.deliverFlit r port sl f
  else match neighbour r out with
  | none => match s.peerBridgeAt r with
    | none => if f.idx = 0 then s.bumpLink r port Reg.PV_LINK_CNT_DOWN else s
    | some code =>
      if !f.last || f.cut then s
      else if s.endTag code f.bun.garden ≠ f.bun.gen then s.bumpLink r out Reg.PV_LINK_CNT_STALE
      else { s with bridgeOut := Fm.upd [] code (· ++ [(r * 4 + e.sliceOn out, f.bun)]) s.bridgeOut }
  | some _ =>
    if s.linkMarkedDown r out then (if f.idx = 0 then s.bumpLink r port Reg.PV_LINK_CNT_DOWN else s)
    else s.putEntry r out (e.sliceOn out) [] [(e.sliceOn out, f)]

/-- The flit at the front of an avenue input is discarded, and the rest of its bundle with it. -/
def State.discardAq (s : State) (r port sl : Nat) (f : AveFlit) : State :=
  let key := aqKey r port sl
  (s.popAq r port sl).updPav (pavOf r) fun v => { v with aveDropping := if f.last then sdel key v.aveDropping else sins key v.aveDropping }

/-- What a router finds in a flit at the front of an input (R219, R228, R229): a head's check and tag are compared, a later flit's check bits
only. -/
def flitCheck (err : FlitErr) (head crcOk tagOk : Bool) : HeadCheck :=
  if head then checkHead err crcOk tagOk else if err = .double then .double else .pass

/-- The front flit of an avenue input: discarded, forwarded to every output of its entry in one move, or waiting. `may` says which flits the
command moves. -/
def State.moveFlit (s : State) (r port sl : Nat) (err : FlitErr) (may : AveEntry → Bundle → Bool) : State :=
  let v := s.pav (pavOf r)
  match v.aqAt (aqKey r port sl) with
  | [] => s
  | f :: _ =>
    let b := f.bun
    let e := v.ave aveActive (aveIdx r port sl)
    if !s.fabricOn r || !may e b then s
    else if v.aveDropping.contains (aqKey r port sl) && f.idx ≠ 0 then s.discardAq r port sl f
    else
      let chk := flitCheck err (f.idx = 0) ((b.hcrc ^^^ flitMask err) = b.headCrc) (s.pavTag (pavOf r) b.garden = b.gen)
      let t := s.countCorrected r port err
      if f.idx = 0 && chk ≠ .pass then (t.discardAq r port sl f).countCheck r port b.garden 0 chk
      else if !e.valid then (t.discardAq r port sl f).bumpLink r port Reg.PV_LINK_CNT_DOWN
      else
        let outs := (List.range 5).filter e.goesTo
        let g := { f with cut := f.cut || chk ≠ .pass }
        if outs.all (fun out => s.branchOn r e g out && (4 ≤ out || s.stileServes s.aveReady r out (e.sliceOn out))) then
          if chk = .pass then outs.foldl (State.branch r port sl e g) (t.popAq r port sl)
          else (outs.foldl (State.branch r port sl e g) (t.discardAq r port sl f)).countCheck r port b.garden 0 chk
        else s

def routeFits (router port slice : Nat) : Bool := router < Config.coreSites && port < 5 && slice < 4

/-- The front flit of a footpath input. -/
def State.routeFlit (s : State) (r port slice : Nat) (reply : Bool) (err : FlitErr) : State :=
  let v := s.pav (pavOf r)
  match v.fqAt (fqKey r port slice reply) with
  | [] => s
  | f :: _ =>
    if !s.fabricOn r then s
    else if v.dropping.contains (fqKey r port slice reply) && f.idx ≠ 0 then s.discardFq r port slice reply f
    else
      let p := f.pkt
      let chk := flitCheck err (f.idx = 0) ((p.hcrc ^^^ flitMask err) = p.headCrc) (s.pavTag (pavOf r) p.garden = p.gen)
      let t := s.countCorrected r port err
      if f.idx = 0 && chk ≠ .pass then (t.discardFq r port slice reply f).countCheck r port p.garden (0x5000 + p.type) chk
      else if !s.flitGoes s.aveReady r port slice f then s
      else if chk ≠ .pass then (t.forwardFlit r port slice f true).countCheck r port p.garden (0x5000 + p.type) chk
      else t.forwardFlit r port slice f false

/-- ROUTE_PACKET (R194, R209, R219): a cycle at an input of a router. Across a seam the gate buffer moves; the flit at the front is compared, then
discarded or forwarded. A bundle at a delivery entry is AVENUE_BUNDLE's or DRAIN_MARKER's. -/
def execRoutePacket (router port slice : Nat) (reply avenue : Bool) (err : FlitErr) (s : State) : Res :=
  onUnit (routeFits router port slice) s fun s =>
    let s := s.gateCycle router port
    if avenue then s.moveFlit router port slice err fun e _ => !(e.valid && e.goesTo 4)
    else s.routeFlit router port slice reply err

def execAvenueBundle (router port slice : Nat) (err : FlitErr) (s : State) : Res :=
  onUnit (routeFits router port slice) s fun s =>
    (s.gateCycle router port).moveFlit router port slice err fun _ b => !b.drain

def execDrainMarker (router port slice : Nat) (err : FlitErr) (s : State) : Res :=
  onUnit (routeFits router port slice) s fun s =>
    (s.gateCycle router port).moveFlit router port slice err fun _ b => b.drain

/-! ### Arrivals at a core -/

/-- The oldest packet of a type that no earlier ordered packet of its sender precedes (R124). -/
def firstOf (t : Nat) : List Packet → List Packet → Option (Packet × List Packet)
  | _, [] => none
  | seen, p :: ps =>
    if p.type = t then
      (if p.ord && seen.any (fun q => q.ord && q.src = p.src) then none else some (p, seen ++ ps))
    else firstOf t (seen ++ [p]) ps

/-- A core acts on its next packet of a type; one whose tag no longer matches is discarded as STALE (R164, R219). -/
def State.arrival (s : State) (c t : Nat) (f : Packet → State → State) : State :=
  if !s.computeOn c then s
  else match firstOf t [] (s.core c).inbox with
  | none => s
  | some (p, rest) =>
    let s := s.updCore c fun k => { k with inbox := rest }
    if s.pavTag (pavOf c) p.garden ≠ p.gen then s.bumpLink c 4 Reg.PV_LINK_CNT_STALE else f p s

/-- A reply to a packet's sender. -/
def Packet.replyTo (p : Packet) (t : Nat) (addr : Nat) (payload : List Byte) : Packet :=
  { type := t, dest := p.src, addr := addr, payload := payload, garden := p.garden, naming := .physical }

/-- The window a write packet names holds all its bytes (R164): scratchpad offset of its first byte. -/
def Core.windowFor (k : Core) (p : Packet) : Option Nat :=
  let off := p.addr % 2 ^ 23
  match (k.pool (p.addr / 2 ^ 23 % 8)).grants.find? (fun g => g.num = p.addr / 2 ^ 26 % 64) with
  | none => none
  | some g => if off + p.payload.length ≤ g.wlen * 256 then some (g.wbase * 256 + off) else none

/-- WRITE (R164, R165, R205): into its window, acknowledged when it is a PUT's, with the flag of SETFLAG after its
bytes; or discarded, with a NOTICE to a PUT, which says which packet it is about. -/
def execWrite (core : Nat) (s : State) : Res :=
  onCore core s fun s => s.arrival core 1 fun p s =>
    let s := s.updCore core fun k => { k with promoted := sdel 1 k.promoted }
    match (s.core core).windowFor p with
    | some a => s.updCore core fun k =>
        let k := k.spadWrite a p.payload
        let k := if p.setFlag then k.setFlag p.flag else k
        if p.ord then k else k.send (p.replyTo 7 p.addr [])
    | none =>
      let s := s.updPav (pavOf core) fun v => v.incF (Reg.PV_SPAD_OUTWIN (coreIdx core)) 1
      if p.ord then s else s.updCore core fun k => k.send { p.replyTo 8 1 [] with about := p.addr }

/-- A read of a scratchpad stride: bytes beyond the populated part read as zero (R9, R161). -/
def Core.strideRead (k : Core) (a n : Nat) : List Byte :=
  k.spadRead a (min n (spadBytes - a)) ++ List.replicate (n - min n (spadBytes - a)) 0

def State.spadAddrError (s : State) (c g : Nat) : State :=
  (s.updPav (pavOf c) fun v => v.incF (Reg.PV_SPAD_ADDR (coreIdx c)) 1).addrError g

/-- READ at a core's remote port (R161, R207): answered from the scratchpad as it stands. -/
def State.readCore (s : State) (c : Nat) : State :=
  s.arrival c 2 fun p s =>
    let n := p.span
    let ret := leVal p.payload % 2 ^ 23
    let inn := min n (spadBytes - p.addr)
    let s := if spadBytes < p.addr + n then s.spadAddrError c p.garden else s
    let s := s.spadTouch c p.addr inn 0x5002
    s.updCore c fun k =>
      { k.send { p.replyTo 3 ret (k.strideRead p.addr n) with bad := k.badAt p.addr inn } with promoted := sdel 1 k.promoted }

/-- The porter transfer that an answer belongs to. -/
def findRun (rs : List PortRun) (ok : PortRun → Bool) : Option (Nat × PortRun) :=
  match rs.findIdx? ok with
  | none => none
  | some i => (rs[i]?).map fun r => (i, r)

/-- Drop one outstanding entry. -/
def dropOut (o : Nat × Nat) (r : PortRun) : PortRun := { r with outst := r.outst.erase o }

/-- The read results that a GET or LOAD holds, written in the order of its packets up to the first still to come; an uncorrectable word stops
it there, so that every row before has been moved in full and no later one (R115, log entry 78). -/
def landReads (c i : Nat) : Nat → PortRun → State → State
  | 0, r, s => s.pumpRun c i r
  | n + 1, r, s =>
    match r.outst with
    | [] => s.pumpRun c i r
    | o :: _ =>
      match r.came.find? fun x => x.1 = o.1 && x.2.1.length = o.2 with
      | none => s.pumpRun c i r
      | some x =>
        let r := { dropOut o r with came := r.came.erase x }
        match x.2.2 with
        | none => landReads c i n r (s.updCore c (Core.spadWrite x.1 x.2.1))
        | some q =>
          let (m, s) := s.freePrefix q
          (s.updCore c (Core.spadWrite x.1 (x.2.1.take m))).failRun c i r 6

/-- READ_DATA at the porter that asked (R115, R204): to be written at its return offset. -/
def State.readDataCore (s : State) (c : Nat) : State :=
  s.arrival c 3 fun p s =>
    let o := (p.addr, p.payload.length)
    let mine (r : PortRun) : Bool := (r.op = 3 || r.op = 4) &&
      (r.came.filter fun x => (x.1, x.2.1.length) = o).length < (r.outst.filter (· = o)).length
    match findRun (s.core c).portRun mine with
    | none => s
    | some (i, r) => landReads c i (r.outst.length + 1) { r with came := r.came ++ [(p.addr, p.payload, p.bad)] } s

def execSignal (core : Nat) (s : State) : Res :=
  onCore core s fun s => s.arrival core 4 fun p s => s.updCore core (Core.setFlag p.flag)

/-- CREQ at the credit unit (R128, R129). -/
def execCreditRequest (core : Nat) (s : State) : Res :=
  onCore core s fun s => s.arrival core 5 fun p s =>
    let q := leVal p.payload
    s.updCore core fun k =>
      k.credit (q % 8) { src := p.src, slot := q / 2 ^ 24 % 16, len := q / 2 ^ 8 % 2 ^ 15, order := 0 }
        (q / 8 % 32 = 0 && q / 2 ^ 23 % 2 = 0 && q / 2 ^ 28 = 0)

/-- CANSWER (R130): a slot that is no longer pending discards it. -/
def execCanswer (core : Nat) (s : State) : Res :=
  onCore core s fun s => s.arrival core 6 fun p s =>
    let q := leVal p.payload
    let d := q / 16 % 16
    s.updCore core fun k =>
      let v := k.slot d
      if v.state ≠ 1 then k
      else if q % 4 = 2 then k.setSlot d { v with state := 2, wbase := q / 2 ^ 8 % 2 ^ 15, wlen := q / 2 ^ 23 % 2 ^ 15, num := q / 2 ^ 38 % 64 }
      else k.setSlot d { v with state := 3, reason := q / 4 % 4 }

/-- The transfer an ACK from `src` at `addr` acknowledges. -/
def Pav.acked (v : Pav) (p : Packet) (r : PortRun) (o : Nat × Nat) : Bool :=
  let d := decodePort r.slot.words
  if r.op = 2 then o.1 = p.addr && mapCore v.map d.target = some p.src
  else r.op = 5 && v.translate o.1 o.2 .store = some (p.src, p.addr)

/-- ACK at the porter (R205, R206, R112). -/
def State.ackCore (s : State) (c : Nat) : State :=
  s.arrival c 7 fun p s =>
    let v := s.pav (pavOf c)
    match findRun (s.core c).portRun (fun r => r.outst.any (v.acked p r)) with
    | none => s
    | some (i, r) => s.pumpRun c i { r with outst := r.outst.eraseP (v.acked p r) }

/-- NOTICE at the porter (R115, R165, R404): reason 1 stops the PUT whose packet was discarded with cause 1, reason 2 the ASEND whose
bundle was dropped with cause 7. -/
def execNotice (core : Nat) (s : State) : Res :=
  onCore core s fun s => s.arrival core 8 fun p s =>
    let v := s.pav (pavOf core)
    let mine (r : PortRun) : Bool :=
      if p.addr % 16 = 1 then r.op = 2 && r.outst.any (fun o => o.1 = p.about) && mapCore v.map (decodePort r.slot.words).target = some p.src
      else r.op = 6 && r.failed = 0
    match findRun (s.core core).portRun mine with
    | none => s
    | some (i, r) => s.failRun core i r (if p.addr % 16 = 1 then 1 else 7)

/-! ### Bells (R134) -/

/-- The cores of a garden that are members of a bell: the member bits follow the logical cores (R311). -/
def State.bellMembers (s : State) (g b : Nat) : List Nat :=
  (s.cores.filter fun e => s.ownerOf e.1 = some g && e.2.member b).map Prod.fst

/-- A release at a member: ARRIVED clears; UNSEEN is set where no BELL waits on the bell. -/
def Core.release (b : Nat) (k : Core) : Core :=
  let k := k.setF Reg.KP_BELL_ARRIVED (clearBit (k.getF Reg.KP_BELL_ARRIVED) b)
  if k.wait.kind = .bell b then k else k.setF Reg.KP_BELL_UNSEEN (setBit (k.getF Reg.KP_BELL_UNSEEN) b)

/-- BELL_RELEASE: once every member has arrived the release is on its way to each of them; this one reaches `core`. For a
core under a patrol segment it is queued, still on its way, until the segment is over (R557). -/
def execBellRelease (garden bell core : Nat) (s : State) : Res :=
  onUnit (decide (garden < 4) && decide (bell < 16) && decide (core < Config.coreSites)) s fun s =>
    let id := garden * 16 + bell
    let ms := s.bellMembers garden bell
    let s := if s.bellRel.all (fun e => e.1 ≠ id) && !ms.isEmpty && ms.all (fun c => (s.core c).arrived bell)
      then { s with bellRel := s.bellRel ++ ms.map fun c => (id, c) } else s
    if !s.bellRel.contains (id, core) then s
    else
      let v := s.pav (pavOf core)
      if v.testing core then
        if v.queued.contains (core, 64 + bell) then s else s.updPav (pavOf core) fun v => { v with queued := v.queued ++ [(core, 64 + bell)] }
      else { s with bellRel := s.bellRel.erase (id, core) }.updCore core (Core.release bell)

/-! ### Ranks, quiet, markers, links -/

/-- A request of a core's porter, or of its remote port, is ready: a descriptor under way or at the head, a packet to be written or read. -/
def Core.requests (k : Core) (remote : Bool) : Bool :=
  if remote then k.inbox.any fun p => p.type = 1 || p.type = 2 else k.portHead.isSome || k.portRun.any fun r => !r.finished

/-- STARVATION_PROMOTE (R157): a request of the porter or the remote port that is ready and unserved ranks directly below the keeper in the
next cycle. -/
def execStarvationPromote (core : Nat) (remote : Bool) (s : State) : Res :=
  onCore core s fun s =>
    if s.computeOn core && (s.core core).requests remote then
      s.updCore core fun k => { k with promoted := sins (if remote then 1 else 0) k.promoted }
    else s

/-- A transfer's packet that awaits an answer is still to be sent. -/
def Packet.unsent (o : Nat × Nat) (p : Packet) : Bool :=
  ((p.type = 1 || p.type = 9) && p.addr = o.1 && p.payload.length = o.2) ||
    (p.type = 2 && leVal p.payload % 2 ^ 23 = o.1 && p.span = o.2)

/-- A request of a core awaiting its reply: packets of a transfer that have left, a pending slot whose request has left and waits in no
credit unit (R224). -/
def State.awaitsReply (s : State) (c : Nat) : Bool :=
  let k := s.core c
  let v := s.pav (pavOf c)
  k.portRun.any (fun r => r.outst.any fun o => !k.out.any (Packet.unsent o)) ||
  k.grants.any fun e => e.2.state = 1 && !(k.out.any fun p => p.type = 5 && leVal p.payload / 2 ^ 24 % 16 = e.1) &&
    (match mapCore v.map e.2.dest with
     | none => true
     | some t => !(s.core t).pools.any fun q => q.2.waiting.any fun w => w.src = c && w.slot = e.1)

/-- A flit of a garden is held in an input queue of a pavilion, or in a gate buffer before one (R224). -/
def Pav.holdsFlit (v : Pav) (g : Nat) : Bool :=
  v.fq.any (fun q => q.2.any fun f => f.pkt.garden = g) || v.aq.any (fun q => q.2.any fun f => f.bun.garden = g) ||
    v.gates.any fun q => q.2.any fun e => e.fp.any (fun x => x.2.pkt.garden = g) || e.ave.any fun x => x.2.bun.garden = g

/-- FP_QUIET (R224). -/
def execFpQuiet (pav garden : Nat) (s : State) : Res :=
  onUnit (decide (pav < Config.pavilions) && decide (garden < 4)) s fun s =>
    let v := s.pav pav
    if v.holdsFlit garden || (v.owner = some garden && (coresOf pav).any s.awaitsReply) then s
    else s.updPav pav fun v => v.setF Reg.PV_FAB_STATUS_FPQUIET (v.getF Reg.PV_FAB_STATUS_FPQUIET ||| 2 ^ garden)

/-- Every entry of a pavilion: core index, port, slice. -/
def pavEntries (pav : Nat) : List (Nat × Nat × Nat) := (coresOf pav).flatMap fun r => entrySlots.map fun ps => (r, ps.1, ps.2)

def State.armEntries (s : State) (pav mask : Nat) : State :=
  s.updPav pav fun v => (pavEntries pav).foldl (fun v x =>
    let i := aveIdx x.1 x.2.1 x.2.2
    let e := v.ave aveActive i
    if e.valid && e.goesTo 4 && mask.testBit e.garden && e.drained then v.setF (Reg.PV_AVE_ACTIVE_DRAINED i) 0 else v) v

def execPvFabArm (pav mask : Nat) (s : State) : Res := onPav pav s fun s => s.armEntries pav mask

/-- Each source entry of a garden is to inject a drain marker, after the last bundle it has accepted and when its queue is on (R216, R223). -/
def State.markEntries (s : State) (pav mask : Nat) : State :=
  s.updPav pav fun v =>
    { v with markers := (coresOf pav).foldl (fun l r => [1, 2, 3].foldl (fun l sl =>
        let e := v.ave aveActive (aveIdx r 4 sl)
        if e.valid && mask.testBit e.garden then sins (aveIdx r 4 sl) l else l) l) v.markers }

def execPvFabMark (pav mask : Nat) (s : State) : Res := onPav pav s fun s => s.markEntries pav mask

/-- A link's direction into a router is aligned, or is held off. -/
def State.setUp (s : State) (r side : Nat) (up : Bool) : State :=
  let s := if isSeam r side then (if up then s.openGate r side else s.closeGate r side) else s
  s.updPav (pavOf r) fun v => v.setF (Reg.PV_LINK_CNT_UP (cntIdx r side)) (if up then 1 else 0)

/-- A packet whose first flits have come over a link that brings no more is ended without the rest (log entry 79). -/
def Pav.cutShort (r side : Nat) (v : Pav) : Pav :=
  (List.range 8).foldl (fun v i =>
    let key := fqKey r side (i / 2) (i % 2 = 1)
    match (v.fqAt key).getLast? <|> (Fm.look key v.holds).map fun x => x.2.2 with
    | some f => if f.last then v else { v with fq := Fm.put key (v.fqAt key ++ [{ f with cut := true }]) v.fq }
    | none => v) v

/-- A link marked down: traffic bound for it is discarded from then on (R230). -/
def State.markDown (s : State) (r side : Nat) : State :=
  (s.setUp r side false).updPav (pavOf r) fun v =>
    { v.cutShort r side with downLinks := sins (coreIdx r * 4 + side) v.downLinks }

/-- LINK_DOWN (R230): the neighbouring thoroughfare has lost power or gone dark. -/
def execLinkDown (router side : Nat) (s : State) : Res :=
  onUnit (decide (router < Config.coreSites) && decide (side < 4)) s fun s =>
    match neighbour router side with
    | none => s
    | some r2 => if pavOf r2 = pavOf router || s.fabricOn r2 then s else s.markDown router side

/-- GATE_BUFFER_ALIGN (R446, R447): a link between two live pavilions that is held off is checked; `lo` and `hi` are the occupancies of its
gate buffer seen over the 256 cycles. Within the window of 3-5 (R199) it is marked UP, and eight failures mark it down. -/
def execGateBufferAlign (router side lo hi : Nat) (s : State) : Res :=
  onUnit (decide (router < Config.coreSites) && decide (side < 4)) s fun s =>
    match neighbour router side with
    | none => s
    | some r2 =>
      if pavOf r2 = pavOf router || !s.fabricOn r2 || !s.fabricOn router || s.linkUp router side then s
      else
        let key := coreIdx router * 4 + side
        if 3 ≤ lo && hi ≤ 5 then
          (s.setUp router side true).updPav (pavOf router) fun v =>
            { v.incF Reg.PV_CLK_CNT_REALIGN 1 with downLinks := sdel key v.downLinks, alignFails := Fm.del key v.alignFails }
        else
          let n := Fm.get 0 key (s.pav (pavOf router)).alignFails + 1
          if n < 8 then s.updPav (pavOf router) fun v => { v with alignFails := Fm.set 0 key n v.alignFails }
          else
            let s := s.updPav (pavOf router) fun v => { v with alignFails := Fm.del key v.alignFails }
            let s := (s.markDown router side).reportRepair { type := 8, source := 1, unit := pavOf router, a := coreIdx router + side * 64, b := 0 }
            s.reportAt 0x40 2 (pavOf router) (s.ownerOf router)

end Sys2Proof.Machine
end

