-- ==== Sys2Proof/Machine/OraOps.lean ====
section
/-! DEFINITION. The slow tier and the orangeries' shared parts (07_orangery.md): bytes and blocks, the layer table, the
checks of a plan, the layer-sign rule, granule sums. -/

namespace Sys2Proof.Machine

/-! ### Bytes and blocks (R233-R236, R244-R246) -/

def State.slowRead (s : State) (a n : Nat) : List Byte := readBytes s.slow a n

/-- Blocks a range of local addresses touches; those it covers whole. -/
def blockIn (l n b : Nat) : Bool := 0 < n && l / 64 ≤ b && b ≤ (l + n - 1) / 64
def blockWhole (l n b : Nat) : Bool := l ≤ 64 * b && 64 * b + 64 ≤ l + n

/-- Blocks are written: those covered whole lose every mark, and a correctable error of any other is corrected as it is merged, so that no
older content of it is written back (R236, R245, R246). -/
def Ora.wrote (whole touched : Nat → Bool) (o : Ora) : Ora :=
  { o with poison := o.poison.filter (fun b => !whole b), bad := o.bad.filter (fun b => !whole b),
           ce := o.ce.filter (fun b => !touched b), wb := o.wb.filter (fun b => !touched b) }

/-- A write of slow-tier bytes within one granule. -/
def State.slowWrite (s : State) (a : Nat) (bs : List Byte) : State :=
  let l := localOf a
  ({ s with slow := writeBytes a bs s.slow }).updOra (oraOf a) (Ora.wrote (blockWhole l bs.length) (blockIn l bs.length))

/-- A write of any length, granule by granule. -/
def slowWriteAll : Nat → Nat → List Byte → State → State
  | 0, _, _, s => s
  | fuel + 1, a, bs, s =>
    if bs.isEmpty then s
    else let n := 4096 - a % 4096; slowWriteAll fuel (a + n) (bs.drop n) (s.slowWrite a (bs.take n))
def State.slowWriteLong (s : State) (a : Nat) (bs : List Byte) : State := slowWriteAll (bs.length / 4096 + 2) a bs s

/-- A read of blocks: each correctable error is corrected in the data, counted, and waits for its write-back, until which every read finds
it again (R245); an uncorrectable block becomes poisoned, is counted and reported, and taints the step of the garden that read it
(R246). -/
def State.findErrs (s : State) (o : Nat) (read : Nat → Bool) (g : Option Nat) (op : Nat) : State :=
  let v := s.orang o
  let ce := v.ce.filter read
  let bad := (v.bad.filter read).foldl (fun l b => sins b l) (v.poison.filter read)
  if ce.isEmpty && bad.isEmpty then s
  else
    let s := s.updOra o fun v =>
      { (v.incF Reg.OR_MEM_CNT_CE ce.length).incF Reg.OR_MEM_CNT_UE bad.length with
        wb := ce.foldl (fun l b => sins b l) v.wb, poison := bad.foldl (fun l b => sins b l) v.poison, bad := v.bad.filter (fun b => !read b),
        rowBad := bad.foldl (fun r b => sins (Config.rowOf b) r) v.rowBad }
    if bad.isEmpty then s
    else
      let s := match g with
        | none => s
        | some g => s.updGarden g fun d => { d with fails := { d.fails with blocks := d.fails.blocks ++ bad.map fun b => (o, b) } }
      (s.report { kind := 0x10, unit := 4, unitId := o, garden := g.getD 0xFF, op := op,
                  flags := if g.any s.stepOpen then 1 else 0 }).taintOpt g 3

/-- A read of slow-tier bytes within one granule. -/
def State.slowTouch (s : State) (a n : Nat) (g : Option Nat) (op : Nat) : State :=
  s.findErrs (oraOf a) (blockIn (localOf a) n) g op

/-! ### Errors of a memory device and its link (R237, R240, R241, R244) -/

/-- Blocks of the usable part, and a block of the private part by its offset: usable 96 GiB, check 16 GiB, spare 8 GiB, private 8 GiB, in
the order of R241 (log entry 13). -/
def usableBlocks : Nat := 0x60000000
def privateBlock (off : Nat) : Nat := (0x1E00000000 + off) / 64
def layerBlock (id : Nat) : Nat := privateBlock (64 * id)
def sumBlock (slot : Nat) : Nat := privateBlock (0x400000 + 8 * slot)
/-- The block of the written masks of a local address, and those of a slot's freeze mask. -/
def writtenBlock (l : Nat) : Nat := privateBlock (0x8400000 + l / 128 * 2)
def maskBlocks (slot : Nat) : List Nat := [privateBlock (0x68400000 + 128 * slot), privateBlock (0x68400000 + 128 * slot + 64)]

/-- The symbols in error; two are corrected, more or an address that does not match are not (R244). -/
def BlockErr.symbols (e : BlockErr) : Nat := ((e.flips.filter fun f => f.2 ≠ 0).map Prod.fst).eraseDups.length
def BlockErr.real (e : BlockErr) : Bool := e.address || 0 < e.symbols
def BlockErr.correctable (e : BlockErr) : Bool := !e.address && e.symbols ≤ 2

/-- An error comes into a block: the data of one that cannot be corrected are read as they then stand. -/
def State.spoil (o : Nat) (s : State) (e : BlockErr) : State :=
  let v := s.orang o
  if !e.real || ((v.poison.contains e.block || v.bad.contains e.block) && e.correctable) then s
  else if e.correctable then s.updOra o fun v => { v with ce := sins e.block v.ce }
  else
    let s := s.updOra o fun v =>
      { v with ce := sdel e.block v.ce, wb := sdel e.block v.wb, bad := if v.poison.contains e.block then v.bad else sins e.block v.bad }
    if usableBlocks ≤ e.block then s
    else { s with slow := (e.flips.filter fun f => f.1 < 64).foldl (fun m f => Fm.upd 0 (slowOf o (64 * e.block + f.1)) (· ^^^ f.2) m) s.slow }

/-- What an orangery meets while a command acts. -/
def State.meets (s : State) (o : Nat) (e : MemErr) : State :=
  (e.blocks.foldl (State.spoil o) s).updOra o fun v =>
    ((v.incF Reg.OR_MEM_CNT_LECC e.lecc).incF Reg.OR_LINK_CNT_CRC e.crc).incF Reg.OR_LINK_CNT_RETRY e.retry

/-! ### Engine state (R267, R268) -/

def engState (g : Nat) : Fld := ⟨.ora, 0x48, 3 * g, 3⟩
def Ora.eng (o : Ora) (g : Nat) : Nat := o.getF (engState g)
def Ora.setEng (g v : Nat) (o : Ora) : Ora := o.setF (engState g) v
def Ora.cmdErr (o : Ora) : Ora := o.setF Reg.OR_ENG_STATUS_CMDERR 1
def engNone : Nat := 0
def engNorm : Nat := 1
def engCollect : Nat := 2
def engPreparing : Nat := 3
def engPrepared : Nat := 4
def engRefused : Nat := 5
def engCommitting : Nat := 6
def engFault : Nat := 7

/-- The engine is in FAULT for some garden (R277). -/
def Ora.faulted (o : Ora) : Bool := (List.range 4).any fun g => o.eng g = engFault

/-- An orangery lost: its granules cannot be reached (R239). -/
def Ora.lost (o : Ora) : Bool := o.getF Reg.OR_STATUS_FAULT = 1 && o.getF Reg.OR_STATUS_READY = 0

/-- Update engines are present (R3, R276). -/
def engines : Bool := !Config.suffixN

def Ora.arenaBase (o : Ora) (g : Nat) : Nat := o.getF (Reg.OR_ARENA_BASE g) * 65536
def Ora.arenaSize (o : Ora) (g : Nat) : Nat := o.getF (Reg.OR_ARENA_SIZE g) * 65536
def Ora.inArena (o : Ora) (g a : Nat) : Bool := o.arenaBase g ≤ a && a < o.arenaBase g + o.arenaSize g

/-! ### The layer table (R259, R260, R264) -/

structure Layer where
  id : Nat
  wbase : Nat
  garden : Nat
  valid : Bool
  mask : Bool
  mbase : Nat
  sbase : Nat
  granules : Nat
  slot : Nat
  normcount : Nat
  eta : Nat
  lambda : Nat
  beta1 : Nat
  beta2 : Nat
  floor : Nat
  rho : Nat
  rsv : Nat
  deriving DecidableEq, Repr

def layerOff (id w : Nat) : Nat := 0x1000000 + 64 * id + 8 * w

def decodeLayer (id : Nat) (ws : List Word) : Layer :=
  let w (i : Nat) := wordAt ws i
  { id := id, wbase := bitsOf (w 0) 0 48, garden := bitsOf (w 0) 48 2, valid := bitAt (w 0) 50, mask := bitAt (w 0) 51,
    mbase := bitsOf (w 1) 0 48, sbase := bitsOf (w 2) 0 48, granules := bitsOf (w 3) 0 29, slot := bitsOf (w 3) 32 25,
    normcount := bitsOf (w 4) 0 40, eta := bitsOf (w 5) 0 32, lambda := bitsOf (w 5) 32 32, beta1 := bitsOf (w 6) 0 32,
    beta2 := bitsOf (w 6) 32 32, floor := bitsOf (w 7) 0 32, rho := bitsOf (w 7) 32 32,
    rsv := bitsOf (w 0) 52 12 + bitsOf (w 1) 48 16 + bitsOf (w 2) 48 16 + bitsOf (w 3) 29 3 + bitsOf (w 3) 57 7 + bitsOf (w 4) 40 24 }

def Ora.layerWord (o : Ora) (id w : Nat) : Word := getReg .ora (layerOff id w) o.regs
def Ora.layer (o : Ora) (id : Nat) : Layer := decodeLayer id ((List.range 8).map (o.layerWord id))

/-- The valid descriptors, ascending. -/
def Ora.layers (o : Ora) : List Layer :=
  ((o.regs.filter fun e => 0x1000000 ≤ e.1 && e.1 < 0x1400000 && e.1 % 64 = 0).map fun e => o.layer ((e.1 - 0x1000000) / 64)).filter Layer.valid

def Ora.layersOf (o : Ora) (g : Nat) : List Layer := o.layers.filter fun l => l.garden = g

def ceilDiv (a b : Nat) : Nat := (a + b - 1) / b

namespace Layer
variable (l : Layer)

def q : Nat := ceilDiv l.granules Config.orangeries
/-- The regions of R260: base and extent. -/
def weights : Nat × Nat := (l.wbase, l.granules * 4096)
def momentum : Nat × Nat := (l.mbase, Config.orangeries * ceilDiv l.q 2 * 4096)
def signs : Nat × Nat := (l.sbase, Config.orangeries * ceilDiv l.q 32 * 4096)
def regions : List (Nat × Nat) := [l.weights, l.momentum, l.signs]

end Layer

/-- The companion rule (R259). -/
def companion (x d j : Nat) : Nat :=
  let q := j / Config.orangeries
  let o := j % Config.orangeries
  x + (Config.orangeries * (q / d) + o) * 4096 + q % d * (4096 / d)

/-! ### The checks of ARM (R266) -/

def overlaps (a b : Nat × Nat) : Bool := 0 < a.2 && 0 < b.2 && a.1 < b.1 + b.2 && b.1 < a.1 + a.2

/-- The rest of a range when others are taken from it. -/
def cutRange (r v : Nat × Nat) : List (Nat × Nat) :=
  if !overlaps r v then [r]
  else ([(r.1, v.1 - r.1), (v.1 + v.2, r.1 + r.2 - (v.1 + v.2))].filter fun x => 0 < x.2)
def cutRanges (rs vs : List (Nat × Nat)) : List (Nat × Nat) := vs.foldl (fun rs v => rs.flatMap fun r => cutRange r v) rs

def sumLen (rs : List (Nat × Nat)) : Nat := rs.foldl (fun a r => a + r.2) 0

def inside (a b : Nat × Nat) : Bool := b.1 ≤ a.1 && a.1 + a.2 ≤ b.1 + b.2

/-- A code of FP32 that is finite and not below zero. -/
def nonNeg (x : Nat) : Bool := let v := fp32.decode x; v.isFin && !v.belowZero
def unitRange (x : Nat) : Bool := nonNeg x && !(fp32.decode 0x3F800000).lt (fp32.decode x)

/-- One valid descriptor's rules; `others` are the other valid descriptors of the table, `arenas` all arenas. -/
def Layer.planOk (l : Layer) (arena : Nat × Nat) (arenas : List (Nat × Nat)) (others : List Layer) : Bool :=
  [l.wbase, l.mbase, l.sbase].all (fun b => b % 65536 = 0) &&
  l.regions.all (fun r => r.1 + r.2 ≤ Config.slowBytes) && inside l.signs arena &&
  [l.weights, l.momentum].all (fun r => !arenas.any (overlaps r) && others.all fun k => !k.regions.any (overlaps r)) &&
  l.slot + l.q ≤ 16777216 && others.all (fun k => !overlaps (l.slot, l.q) (k.slot, k.q)) &&
  1 ≤ l.normcount && l.normcount ≤ l.granules * 1024 && l.rsv = 0 &&
  nonNeg l.eta && nonNeg l.lambda && unitRange l.beta1 && unitRange l.beta2 && nonNeg l.floor

def Ora.planOk (o : Ora) (g : Nat) : Bool :=
  let arenas := (List.range 4).map fun h => (o.arenaBase h, o.arenaSize h)
  (o.layersOf g).all fun l => l.planOk (o.arenaBase g, o.arenaSize g) arenas (o.layers.filter fun k => k.id ≠ l.id)

/-! ### Granules of an orangery (R257, R259, R262, R263) -/

/-- The granules of a layer that an orangery owns: local index q and granule j. -/
def Layer.owned (l : Layer) (ora : Nat) : List (Nat × Nat) :=
  let i := if Config.suffixH then ora / 2 else ora
  let base := l.wbase / 4096 % Config.orangeries
  ((List.range l.q).map fun q => (q, q * Config.orangeries + (i + Config.orangeries - base) % Config.orangeries)).filter fun p => p.2 < l.granules

def Layer.wAddr (l : Layer) (j : Nat) : Nat := l.wbase + j * 4096
def Layer.mAddr (l : Layer) (j : Nat) : Nat := companion l.mbase 2 j
def Layer.sAddr (l : Layer) (j : Nat) : Nat := companion l.sbase 32 j

def Ora.writtenMask (o : Ora) (a : Nat) : Nat := Fm.get 0 (localOf a / 128) o.written

def sumSq (acc : Word) (v : FV) : Word := BitVec.ofNat 64 (fp64.encode (FV.add (fp64.decode acc.toNat) v.sq).1).1
def addF64 (a b : Word) : Word := BitVec.ofNat 64 (fp64.encode (FV.add (fp64.decode a.toNat) (fp64.decode b.toNat)).1).1
def subF64 (a b : Word) : Word := BitVec.ofNat 64 (fp64.encode (FV.add (fp64.decode a.toNat) (fp64.decode b.toNat).neg).1).1

/-- Elements of w bytes of a region. -/
def elemsOf (w n : Nat) (bs : List Byte) : List Nat := (chunks w n bs).map leVal

/-- The granule sum of stored weights. -/
def granuleSum (ws : List Nat) : Word := ws.foldl (fun a x => sumSq a (fp32.decode x)) 0

/-! ### The layer-sign rule (R250-R256) -/

/-- Coefficients formed once per layer at the start of a commit (R251). -/
structure Coef where
  a : FV
  lambda : FV
  beta1 : FV
  omb1 : FV
  beta2 : FV
  omb2 : FV

def r32 (v : FV) : FV := fp32.decode (fp32.encode v).1
def fone : FV := .fin false 1 0
def maxV (a b : FV) : FV := if a.lt b then b else a

def Layer.coef (l : Layer) (scale : Nat) : Coef :=
  let b1 := fp32.decode l.beta1
  let b2 := fp32.decode l.beta2
  { a := r32 (FV.mul (r32 (FV.mul (fp32.decode l.eta) (fp32.decode scale)).1) (maxV (fp32.decode l.rho) (fp32.decode l.floor))).1,
    lambda := fp32.decode l.lambda, beta1 := b1, omb1 := r32 (FV.add fone b1.neg).1, beta2 := b2, omb2 := r32 (FV.add fone b2.neg).1 }

/-- One element: weight and momentum codes and the sign bit give the new codes; none when a state or the result is not
finite (R254). -/
def signRule (k : Coef) (w m : Nat) (b : Bool) : Option (Nat × Nat) :=
  let wv := fp32.decode w
  let mv := bf16.decode m
  if !wv.isFin || !mv.isFin then none
  else
    let s (x : FV) : FV := if b then x.neg else x
    let c := r32 (FV.add (FV.mul k.beta1 mv).1 (s k.omb1)).1
    let u : FV := if c.isZero then .fin false 0 0 else if c.signBit then .fin true 1 0 else fone
    let mNew := (bf16.encode (FV.add (FV.mul k.beta2 mv).1 (s k.omb2)).1).1
    let t := r32 (FV.add u (FV.mul k.lambda wv).1).1
    let wNew := (fp32.encode (FV.add wv (FV.mul k.a t).1.neg).1).1
    if (fp32.decode wNew).isFin then some (wNew, mNew) else none

/-- The elements of a granule: weights, momenta, sign bits, freeze bits to new weights, new momenta and how many were left
unchanged under R254. -/
def signGranule (k : Coef) : List Nat → List Nat → List Bool → List Bool → List Nat × List Nat × Nat
  | w :: ws, m :: ms, b :: bs, f :: fs =>
    let (nw, nm, c) := signGranule k ws ms bs fs
    if f then (w :: nw, m :: nm, c)
    else match signRule k w m b with
      | some (w2, m2) => (w2 :: nw, m2 :: nm, c)
      | none => (w :: nw, m :: nm, c + 1)
  | _, _, _, _ => ([], [], 0)

/-- Bit e of a byte string, least significant first. -/
def bitsOfBytes (n : Nat) (bs : List Byte) : List Bool := (List.range n).map fun e => (bs.getD (e / 8) 0).getLsbD (e % 8)

/-- ρ of a layer from the sum of its squares and its count (R258): the FP32 value nearest to the exact root. -/
def rhoOf (sum : FV) (n : Nat) : Nat :=
  match sum with
  | .fin false m e =>
    if m = 0 ∨ n = 0 then 0
    else
      let t : Nat := 200 + (if e % 2 = 0 then 0 else 1)
      let r := isqrt (m * 2 ^ t / n)
      (fp32.encode (.fin false (2 * r + (if r * r * n = m * 2 ^ t then 0 else 1)) ((e - t) / 2 - 1))).1
  | .fin true _ _ => 0
  | .inf false => (fp32.encode (.inf false)).1
  | .inf true => 0
  | .nan => fp32.nanCode

/-- Written masks of an arena cleared, whole blocks of them (R263, R268). -/
def Ora.clearWritten (id g : Nat) (o : Ora) : Ora :=
  let mask (b : Nat) : Bool := privateBlock 0x8400000 ≤ b && b < privateBlock 0x68400000 &&
    o.inArena g (slowOf id ((b - privateBlock 0x8400000) * 4096))
  { o.wrote mask mask with written := o.written.filter fun e => !o.inArena g (slowOf id (e.1 * 128)) }

/-- LAYER of OR_ENG_STATUS: the layer a pass is at; a pass begins with the lowest (R269, log entry 13). -/
def Ora.setLayer (id : Nat) (o : Ora) : Ora := o.setF Reg.OR_ENG_STATUS_LAYER id
def Ora.firstLayer (g : Nat) (o : Ora) : Ora := match o.layersOf g with | [] => o | l :: _ => o.setLayer l.id

/-- The garden is back in COLLECT with clear written masks (R268). -/
def Ora.toCollect (id g : Nat) (o : Ora) : Ora := (o.clearWritten id g).setEng g engCollect

/-- DISCARD, and a garden reset in COLLECT, PREPARED or REFUSED (R268, R271). -/
def Ora.discard (id g : Nat) (o : Ora) : Ora := { o.toCollect id g with lateSince := Fm.del g o.lateSince }

def Ora.mayDiscard (o : Ora) (g : Nat) : Bool := o.eng g = engCollect || o.eng g = engPrepared || o.eng g = engRefused

end Sys2Proof.Machine
end

