-- ==== Sys2Proof/Machine/Orangery.lean ====
section
/-! DEFINITION. The orangeries' commands: arrivals, the update engine, descriptors and arenas, channels, scrubbing, rows,
the link (07_orangery.md). -/

namespace Sys2Proof.Machine

/-! ### Arrivals (R235, R236, R261, R270) -/

/-- The channel of one of a packet's blocks is held for a check or a retrain: the packet waits (R242). -/
def Ora.channelHeld (o : Ora) (l n : Nat) : Bool :=
  o.held.any fun ch => (List.range (n / 64 + 2)).any fun i => blockIn l n (l / 64 + i) && Config.channelOf (l / 64 + i) = ch

/-- The orangery applies the packet at the head of its arrivals, when it is of the type and its channels are free. A packet that has become
stale is counted at the edge port that faces the orangery (R219). -/
def State.oraArrival (s : State) (o t : Nat) (e : MemErr) (f : Packet → State → State) : State :=
  let v := s.orang o
  match v.inbox with
  | [] => s
  | p :: ps =>
    if p.type ≠ t || v.channelHeld (localOf p.addr) p.span then s
    else
      let s := (s.meets o e).updOra o fun v => { v with inbox := ps }
      if s.endTag (codeOra o) p.garden ≠ p.gen then
        match s.exitOf p.src (codeOra o) with
        | some x => s.bumpLink x.1 x.2 Reg.PV_LINK_CNT_STALE
        | none => s
      else f p s

def State.sendEnd (s : State) (code : Nat) (p : Packet) : State :=
  { s with endOut := Fm.upd [] code (· ++ [{ p with src := code }]) s.endOut }

/-- READ of slow-tier bytes: those beyond the populated tier read as zero and count as an address error (R9). -/
def State.readOra (s : State) (o : Nat) (e : MemErr) : State :=
  s.oraArrival o 2 e fun p s =>
    let n := p.span
    let inn := min n (Config.slowBytes - p.addr)
    let s := if Config.slowBytes < p.addr + n then s.addrError p.garden else s
    let s := s.slowTouch p.addr inn (some p.garden) 0x5002
    s.sendEnd (codeOra o) (p.replyTo 3 (leVal p.payload % 2 ^ 23) (s.slowRead p.addr inn ++ List.replicate (n - inn) 0))

/-- Set the written-mask bits of the 8 B units a packet writes (R261). -/
def Ora.markWritten (l n : Nat) (o : Ora) : Ora :=
  let units := (List.range (n / 8)).map fun i => l / 8 + i
  let set (m : FMap Nat) (u : Nat) : FMap Nat := Fm.upd 0 (u / 16) (fun x => x ||| 2 ^ (u % 16)) m
  { o with written := units.foldl set o.written }

/-- A write to the slow tier by a garden, through its arena's rules: in COLLECT it is watched, in PREPARING, PREPARED,
REFUSED or COMMITTING it is late and discarded (R261, R270). -/
def State.gardenWrite (s : State) (o g a : Nat) (bs : List Byte) : State :=
  let v := s.orang o
  let e := v.eng g
  if !engines || !v.inArena g a then s.slowWrite a bs
  else if engPreparing ≤ e && e ≤ engCommitting then
    s.updOra o fun v => { v.incF Reg.OR_ENG_CNT_LATE 1 with lateSince := Fm.upd 0 g (· + 1) v.lateSince }
  else if e = engCollect then (s.slowWrite a bs).updOra o (Ora.markWritten (localOf a) bs.length)
  else s.slowWrite a bs

/-- A write that covers only a part of a block reads it to merge (R236). -/
def State.mergeReads (s : State) (o g a n : Nat) : State :=
  s.findErrs o (fun b => blockIn (localOf a) n b && !blockWhole (localOf a) n b) (some g) 0x5009

def execDevwrite (ora : Nat) (err : MemErr) (s : State) : Res :=
  onOra ora s fun s => s.oraArrival ora 9 err fun p s =>
    let s := if Config.slowBytes < p.addr + p.payload.length then s.addrError p.garden
      else (s.mergeReads ora p.garden p.addr p.payload.length).gardenWrite ora p.garden p.addr p.payload
    s.sendEnd (codeOra ora) (p.replyTo 7 p.addr [])

/-! ### Engine commands (R266-R272) -/

/-- A command of OR_ENG_CMD: accepted in some states, else CMD_ERR. -/
def Ora.command (g : Nat) (ok : Nat → Bool) (f : Ora → Ora) (o : Ora) : Ora :=
  if engines && ok (o.eng g) then f o else o.cmdErr

def onEngine (ora garden : Nat) (s : State) (f : State → State) : Res :=
  onUnit (Config.orangeryPresent ora && decide (garden < 4)) s f

def Ora.arm (g : Nat) (o : Ora) : Ora :=
  o.command g (· = engNone) fun o =>
    if o.planOk g then { (o.setEng g engNorm).firstLayer g with lateSince := Fm.del g o.lateSince }
    else o.setF Reg.OR_ENG_STATUS_PLANERR 1

def Ora.prepare (g : Nat) (o : Ora) : Ora := o.command g (· = engCollect) (Ora.setEng g engPreparing)

def Ora.commit (g : Nat) (scale : W32) (o : Ora) : Ora :=
  o.command g (· = engPrepared) fun o =>
    { (o.setEng g engCommitting).firstLayer g with scale := Fm.set 0 g scale o.scale, lateSince := Fm.del g o.lateSince }

def Ora.discardCmd (id g : Nat) (o : Ora) : Ora :=
  o.command g (fun e => e = engCollect || e = engPrepared || e = engRefused) (Ora.discard id g)

def Ora.disarm (g : Nat) (o : Ora) : Ora :=
  o.command g (fun e => e ≠ engNone && e ≠ engNorm) fun o =>
    if o.eng g = engCommitting then { o with deferDisarm := sins g o.deferDisarm } else o.setEng g engNone

def execArm (ora garden : Nat) (s : State) : Res := onEngine ora garden s fun s => s.updOra ora (Ora.arm garden)
def execPrepare (ora garden : Nat) (s : State) : Res := onEngine ora garden s fun s => s.updOra ora (Ora.prepare garden)
def execCommit (ora garden : Nat) (scale : W32) (s : State) : Res :=
  onEngine ora garden s fun s => s.updOra ora (Ora.commit garden scale)
def execDiscard (ora garden : Nat) (s : State) : Res :=
  onEngine ora garden s fun s => s.updOra ora (Ora.discardCmd ora garden)
def execDisarm (ora garden : Nat) (s : State) : Res := onEngine ora garden s fun s => s.updOra ora (Ora.disarm garden)

/-! ### Passes (R257, R262, R273) -/

/-- The arming pass over one layer: every granule sum and the partial, from scratch. -/
def State.normLayer (o : Nat) (s : State) (l : Layer) : State :=
  (l.owned o).foldl (fun s qj =>
    let s := s.slowTouch (l.wAddr qj.2) 4096 (some l.garden) 0
    let sum := granuleSum (elemsOf 4 1024 (s.slowRead (l.wAddr qj.2) 4096))
    s.updOra o fun v =>
      { v with sums := Fm.set 0 (l.slot + qj.1) sum v.sums,
               regs := setF (Reg.OR_LAYER_PARTIAL_PARTIAL l.id)
                 (addF64 (BitVec.ofNat 64 (v.getF (Reg.OR_LAYER_PARTIAL_PARTIAL l.id))) sum).toNat v.regs })
    (s.updOra o fun v =>
      let whole (b : Nat) : Bool := blockWhole (64 * privateBlock 0x400000 + 8 * l.slot) (8 * l.q) b
      ((v.setLayer l.id).setF (Reg.OR_LAYER_PARTIAL_PARTIAL l.id) 0).wrote whole whole)

def execNormPassEnd (ora garden : Nat) (err : MemErr) (s : State) : Res :=
  onEngine ora garden s fun s =>
    let s := s.meets ora err
    let v := s.orang ora
    if v.eng garden ≠ engNorm || v.lost then s
    else ((v.layersOf garden).foldl (State.normLayer ora) s).updOra ora (Ora.toCollect ora garden)

/-- Partial sign blocks of the garden's layers (R262). -/
def Ora.partials (o : Ora) (ora g : Nat) : Nat :=
  (o.layersOf g).foldl (fun n l => n + ((l.owned ora).filter fun qj =>
    let w := o.writtenMask (l.sAddr qj.2); w ≠ 0 && w ≠ 0xFFFF).length) 0

def execPreparePassEnd (ora garden : Nat) (err : MemErr) (s : State) : Res :=
  onEngine ora garden s fun s =>
    let s := s.meets ora err
    let v := s.orang ora
    if v.eng garden ≠ engPreparing || v.lost then s
    else
      let read := (v.layersOf garden).flatMap fun l => (l.owned ora).map fun qj => writtenBlock (localOf (l.sAddr qj.2))
      let s := s.findErrs ora read.contains (some garden) 0
      let n := v.partials ora garden
      s.updOra ora fun v =>
        (v.incF Reg.OR_ENG_CNT_PARTIAL n).setEng garden
          (if n = 0 && Fm.get 0 garden v.lateSince = 0 then engPrepared else engRefused)

/-- An incident of an update engine (R254, R273). -/
def State.engineIncident (s : State) (o g : Nat) : State := s.reportAt 0x12 5 o (some g)

/-- A commit under way: the elements of the layer left unchanged, the present granules before it breaks off, whether it has. -/
structure Pass where
  s : State
  c : Nat := 0
  left : Option Nat := none
  broken : Bool := false

/-- The engine at one present granule: skipped when poisoned, else the rule over its 1,024 elements and the granule sum (R250-R257, R273).
Its sum or its freeze mask uncorrectable is an internal error (log entry 13). -/
def State.commitGranule (o : Nat) (l : Layer) (k : Coef) (p : Pass) (qj : Nat × Nat) : Pass :=
  let wA := l.wAddr qj.2
  let mA := l.mAddr qj.2
  let sA := l.sAddr qj.2
  let slot := l.slot + qj.1
  let data (b : Nat) : Bool := blockIn (localOf wA) 4096 b || blockIn (localOf mA) 2048 b || blockIn (localOf sA) 128 b
  let own (b : Nat) : Bool := b = sumBlock slot || (l.mask && (maskBlocks slot).contains b)
  if p.broken || (p.s.orang o).writtenMask sA ≠ 0xFFFF then p
  else if p.left = some 0 then { p with broken := true }
  else
    let s := p.s.findErrs o (fun b => data b || own b) (some l.garden) 0
    let p := { p with s := s, left := p.left.map (· - 1) }
    let v := s.orang o
    if v.poison.any own then { p with broken := true }
    else if v.poison.any data then
      { p with s := (s.updOra o fun v => v.incF Reg.OR_ENG_CNT_POISONED 1).engineIncident o l.garden }
    else
      let ws := elemsOf 4 1024 (s.slowRead wA 4096)
      let ms := elemsOf 2 1024 (s.slowRead mA 2048)
      let bs := bitsOfBytes 1024 (s.slowRead sA 128)
      let fs := if l.mask then bitsOfBytes 1024 (readBytes v.masks (slot * 128) 128) else List.replicate 1024 false
      let (nw, nm, c) := signGranule k ws ms bs fs
      let sum := granuleSum nw
      let s := (s.slowWrite wA (nw.flatMap (leBytes 4))).slowWrite mA (nm.flatMap (leBytes 2))
      let s := s.updOra o fun v =>
        let old := Fm.get 0 slot v.sums
        let part := BitVec.ofNat 64 (v.getF (Reg.OR_LAYER_PARTIAL_PARTIAL l.id))
        { (v.incF Reg.OR_ENG_CNT_NONFINITE c).setF (Reg.OR_LAYER_PARTIAL_PARTIAL l.id) (addF64 part (subF64 sum old)).toNat with
          sums := Fm.set 0 slot sum v.sums }
      { p with s := s, c := p.c + c }

/-- One layer of a commit; non-finite elements in it give one incident (R254). Its descriptor uncorrectable is an internal error. -/
def State.commitLayer (o : Nat) (p : Pass) (l : Layer) : Pass :=
  if p.broken then p
  else
    let s := (p.s.updOra o (Ora.setLayer l.id)).findErrs o (· = layerBlock l.id) (some l.garden) 0
    let k := l.coef (Fm.get 0 l.garden (s.orang o).scale).toNat
    let p := (l.owned o).foldl (State.commitGranule o l k) { p with s := s, c := 0, broken := (s.orang o).poison.contains (layerBlock l.id) }
    if p.c = 0 then p else { p with s := p.s.engineIncident o l.garden }

/-- A deferred DISARM takes effect when the commit has ended (R268, R272). -/
def Ora.endCommit (g : Nat) (o : Ora) : Ora :=
  if o.deferDisarm.contains g then { o.setEng g engNone with deferDisarm := sdel g o.deferDisarm } else o

/-- The commit of a garden goes through its layers, up to `left` granules of them where it breaks off: it ends in COLLECT, or, broken off with
a mixture of old and new values, in FAULT (R269, R273). -/
def State.runCommit (s : State) (o g : Nat) (left : Option Nat) : State :=
  let p := ((s.orang o).layersOf g).foldl (State.commitLayer o) { s := s, left := left }
  if p.broken then (p.s.engineIncident o g).updOra o fun v => (v.setEng g engFault).endCommit g
  else p.s.updOra o fun v => (v.toCollect o g).endCommit g

/-- COMMIT_END (R271, R273): with the granules after which an internal error broke the commit off, if one did. -/
def execCommitEnd (ora garden : Nat) (err : MemErr) (broken : Option Nat) (s : State) : Res :=
  onEngine ora garden s fun s =>
    let s := s.meets ora err
    if (s.orang ora).eng garden ≠ engCommitting then s else s.runCommit ora garden broken

/-! ### Arena and descriptors (R265, R278) -/

def Ora.writeArena (g : Nat) (value : Word) (o : Ora) : Ora :=
  if !engines then o
  else if o.eng g ≠ engNone then o.cmdErr
  else { o with regs := busWrite .ora (0x60 + 8 * g) value o.regs }

def execOrArena (ora garden : Nat) (value : Word) (s : State) : Res :=
  onEngine ora garden s fun s => s.updOra ora (Ora.writeArena garden value)

/-- Whether word w of a descriptor takes a write now (R265). -/
def Ora.layerWritable (o : Ora) (layer w : Nat) (value : Word) : Bool :=
  let l := o.layer layer
  let named (ok : Nat → Bool) : Bool := !l.valid || ok (o.eng l.garden)
  if w = 0 then named (· = engNone) && o.eng (bitsOf value 48 2) = engNone
  else if w < 7 then named (· = engNone)
  else named fun e => e = engNone || e = engCollect

def Ora.writeLayer (layer w : Nat) (value : Word) (o : Ora) : Ora :=
  if !engines then o
  else if o.layerWritable layer w value then { o with regs := setReg .ora (layerOff layer w) value o.regs }
  else o.cmdErr

def execOrLayerWord (ora layer w : Nat) (value : Word) (s : State) : Res :=
  onUnit (Config.orangeryPresent ora && decide (layer < 65536) && decide (w < 8)) s fun s =>
    s.updOra ora (Ora.writeLayer layer w value)

/-! ### Channels (R242) -/

def Ora.dieT (o : Ora) (i : Nat) : Int := o.dieTemp.getD i 0

/-- The rotation's next check is due: RETRAIN_ROUNDS after the last, 16 at least. -/
def Ora.checkDue (o : Ora) (round : Nat) : Bool := o.checked = 0 || o.checked - 1 + max 16 (o.getF Reg.OR_MEM_CTL_RETRAINROUNDS) ≤ round

/-- The channel to be checked now, if one is: one reported in an earlier round, else the next in rotation when it is due. -/
def Ora.beginCheck (round : Nat) (o : Ora) : Option (Nat × Ora) :=
  match o.early.find? fun e => e.2 < round with
  | some e => some (e.1, { o with early := o.early.filter fun x => x.1 ≠ e.1 })
  | none => if o.checkDue round then some (o.nextCh, { o with nextCh := (o.nextCh + 1) % 16, checked := round + 1 }) else none

def Ora.holdChannel (ch : Nat) (o : Ora) : Ora :=
  let temps := (List.range 16).map fun i => o.chTemp.getD i 0
  { o.setF Reg.OR_MEM_STATUS_HELD (ch + 1) with
    held := some ch, retraining := false, chTemp := temps.set ch (max (o.dieT (2 * ch)) (o.dieT (2 * ch + 1))) }
def Ora.freeChannel (o : Ora) : Ora := { o.setF Reg.OR_MEM_STATUS_HELD 0 with held := none, retraining := false }

/-- CHANNEL_CHECK: it holds the channel; one found steady is free again, a drifted one is held on and retrained. -/
def execChannelCheck (ora : Nat) (found : ChannelStep) (s : State) : Res :=
  onOra ora s fun s => s.updOra ora fun o =>
    match found with
    | .begins =>
      if o.getF Reg.OR_MEM_STATUS_TRAINED = 0 || o.held.isSome then o
      else match o.beginCheck s.round with
        | none => o
        | some x => x.2.holdChannel x.1
    | .steady => if o.retraining then o else o.freeChannel
    | .drifted =>
      if o.held.isNone || o.retraining then o else { o.incF Reg.OR_MEM_CNT_RETRAIN 1 with retraining := true }

def execChannelRetrainEnd (ora : Nat) (s : State) : Res :=
  onOra ora s fun s => s.updOra ora fun o => if o.retraining then o.freeChannel else o

/-! ### Scrubbing and rows (R244-R249) -/

/-- The scrub period of a count: SCRUB_HOURS hours, 0 acting as 1. -/
def Ora.scrubPeriod (now : Nat) (o : Ora) : Nat := now / (max 1 (o.getF Reg.OR_MEM_CTL_SCRUBHOURS) * 60 * ticksPerMin)

/-- MEMORY_SCRUB: every block of the device is read once in a period. -/
def execMemoryScrub (ora : Nat) (err : MemErr) (s : State) : Res :=
  onOra ora s fun s =>
    let s := s.meets ora err
    let o := s.orang ora
    if o.getF Reg.OR_MEM_CTL_SCRUBEN = 0 || o.getF Reg.OR_MEM_STATUS_TRAINED = 0 || o.scrubbed = o.scrubPeriod s.now + 1 then s
    else (s.updOra ora fun o =>
        { o with scrubbed := o.scrubPeriod s.now + 1,
                 rowScrub := ((o.ce.map Config.rowOf).eraseDups).foldl (fun m r => Fm.upd 0 r (· + 1) m) o.rowScrub }).findErrs
      ora (fun _ => true) none 0

/-- BLOCK_WRITE_BACK (R245). -/
def execBlockWriteBack (ora block : Nat) (s : State) : Res :=
  onOra ora s fun s => s.updOra ora fun o => if o.wb.contains block then { o with wb := sdel block o.wb, ce := sdel block o.ce } else o

/-- Spare rows of a device: 8 GiB of rows of 2 KiB (R241). -/
def spareRows : Nat := 4194304

/-- ROW_RETIRE (R248, R249): a row corrected in three scrub passes, or that held an uncorrectable block, goes to a spare. -/
def execRowRetire (ora row : Nat) (s : State) : Res :=
  onOra ora s fun s =>
    let o := s.orang ora
    let used := o.getF Reg.OR_MEM_STATUS_RETIRED
    if !(3 ≤ Fm.get 0 row o.rowScrub || o.rowBad.contains row) || used = spareRows then s
    else
      let n := used + 1
      let low := spareRows * 9 ≤ n * 10 && o.getF Reg.OR_MEM_STATUS_SPARELOW = 0
      let out := n = spareRows
      let s := s.updOra ora fun o =>
        let o := (o.setF Reg.OR_MEM_STATUS_RETIRED n).incF Reg.OR_MEM_CNT_RETIRE 1
        let o := if low then o.setF Reg.OR_MEM_STATUS_SPARELOW 1 else o
        let o := if out then o.setF Reg.OR_MEM_STATUS_SPAREOUT 1 else o
        { o with rowRetired := Fm.set 0 row n o.rowRetired, rowScrub := Fm.del row o.rowScrub, rowBad := sdel row o.rowBad }
      let s := s.reportRepair { type := 6, source := 1, unit := ora, a := row, b := used }
      if low || out then s.reportAt 0x12 4 ora none else s

/-! ### The link (R237-R239) -/

def halfF (m : Nat) : Fld := if m = 0 then Reg.OR_LINK_STATUS_HALF0 else Reg.OR_LINK_STATUS_HALF1
def repF (m : Nat) : Fld := if m = 0 then Reg.OR_LINK_STATUS_REP0 else Reg.OR_LINK_STATUS_REP1

/-- Attach routers of an orangery. -/
def attachOf (o : Nat) : List Nat := (List.range 24).map fun i => coreId (if o < 8 then 0 else 143) (24 * (o % 8) + i)

/-- A garden with slow-tier state: it holds slow windows (R239). -/
def State.usesSlow (s : State) (g : Nat) : Bool := !(s.garden g).prot.windows.isEmpty

/-- A commit in progress cannot go on: how far it had come is a free value (R273, log entry 7). -/
def State.breakCommit (o : Nat) (s : State) (g : Nat) : State :=
  if (s.orang o).eng g ≠ engCommitting then s
  else
    let n := ((s.orang o).layersOf g).foldl (fun n l => n + (l.owned o).length) 0
    let (x, s) := s.draw
    let s := s.runCommit o g (some (x.toNat % (n + 1)))
    s.updOra o fun v => if v.eng g = engCollect then v.setEng g engFault else v

/-- An orangery is lost (R239, R273): its edge links are marked down, nothing that waits there is answered, a commit in progress faults, an
incident is recorded and every garden with slow-tier state is tainted; the postmaster stops them (State.decideGarden). -/
def State.oraLoss (s : State) (o : Nat) : State :=
  let s := (attachOf o).foldl (fun s r => s.markDown r (if o < 8 then 3 else 1)) s
  let s := (List.range 4).foldl (State.breakCommit o) s
  let s := { s with endOut := Fm.del (codeOra o) s.endOut }
  let s := s.updOra o fun v => { ((v.setF Reg.OR_STATUS_FAULT 1).setF Reg.OR_STATUS_READY 0) with inbox := [] }
  let s := s.report { kind := 0x50, unit := 4, unitId := o, flags := 1, action := 9 }
  (List.range 4).foldl (fun s g => if s.usesSlow g then s.taint g 3 else s) s

/-- A UCIe module goes down; with the other down too the orangery is lost. -/
def State.moduleDown (s : State) (o m : Nat) : State :=
  if (s.orang o).getF (rateF m) = 0 then s
  else
    let s := s.updOra o fun v => v.setF (rateF m) 0
    if (s.orang o).getF (rateF (1 - m)) = 0 then s.oraLoss o else s

def onModule (ora m : Nat) (s : State) (f : State → State) : Res := onUnit (Config.orangeryPresent ora && decide (m < 2)) s f

/-- UCIE_RETRAIN (R237, R238): it begins, and is counted, and the other module carries the traffic; then the module comes back at its rate,
width and lanes, or stays down. -/
def execUcieRetrain (ora module : Nat) (res : Option UcieResult) (s : State) : Res :=
  onModule ora module s fun s =>
    let rate := (s.orang ora).getF (rateF module)
    match res with
    | none => if rate = 1 || rate = 2 then s.updOra ora fun v => (v.setF (rateF module) 3).incF Reg.OR_LINK_CNT_RETRAIN 1 else s
    | some (.trained slow half rep) =>
      if rate ≠ 3 then s
      else s.updOra ora fun v =>
        ((v.setF (rateF module) (if slow then 1 else 2)).setF (halfF module) (if half then 1 else 0)).setF (repF module) (min rep 4)
    | some .failed => if rate = 3 then s.moduleDown ora module else s

def execUcieModuleDown (ora module : Nat) (s : State) : Res := onModule ora module s fun s => s.moduleDown ora module

end Sys2Proof.Machine
end

