-- ==== Sys2Proof/Machine/Scratchpad.lean ====
section
/-! DEFINITION. The scratchpad's own commands (05_scratchpad.md, R147-R183): scrubbing, write-backs, zeroing, spare lines. -/

namespace Sys2Proof.Machine

/-- Bank and line of a byte offset (R148). -/
def bankOf (off : Nat) : Nat := let s := off / 32; (s % 32) ^^^ (s / 32 % 32) ^^^ (s / 1024 % 32)
def lineOf (off : Nat) : Nat := off / 32 / 32
/-- A line of a scratchpad, as bank x 6,144 + line. -/
def lineKey (off : Nat) : Nat := bankOf off * 6144 + lineOf off

/-- The scrubber may run: compute domain on, not zeroing, SCRUB_EN (R170, R174, R179). -/
def State.scrubs (s : State) (c : Nat) : Bool :=
  s.computeOn c && (s.pav (pavOf c)).getF Reg.PV_SPAD_CTL_SCRUBEN = 1

/-- The scrub period the sundial is in: SCRUB_ROUNDS rounds, 0 acting as 1 (R179). -/
def State.scrubPeriod (s : State) (c : Nat) : Nat :=
  s.sundialOf (pavOf c) / 65536 / max 1 ((s.pav (pavOf c)).getF Reg.PV_SPAD_CTL_SCRUBROUNDS)

/-- SCRUB_PASS (R176-R179, R181): every line is read, once in a period. `ce` and `ue` are the words whose storage has come to hold a
single-bit or a double-bit error since the last read of them. -/
def execScrubPass (core : Nat) (ce ue : List Nat) (s : State) : Res :=
  onCore core s fun s =>
    if !s.scrubs core || (s.core core).scrubbed = s.scrubPeriod core + 1 then s
    else
      let here (l : List Nat) : List Nat := l.filter (· < spadBytes / 8)
      let period := s.scrubPeriod core + 1
      let s := s.updCore core fun k =>
        let bad := (here ue).foldl (fun l w => sins w l) k.spadUe
        let single := ((here ce).foldl (fun l w => sins w l) k.spadCe).filter fun w => !bad.contains w
        let lines := (single.map fun w => lineKey (8 * w)).eraseDups
        let weak := ((here ue).filter fun w => !k.spadUe.contains w).map fun w => lineKey (8 * w)
        { k with spadUe := bad, spadCe := single, spadScrub := lines.foldl (fun m l => Fm.upd 0 l (· + 1) m) k.spadScrub,
                 spadWeak := weak.foldl (fun l x => sins x l) k.spadWeak, scrubbed := period }
      s.spadTouch core 0 spadBytes 0

/-- CORRECTED_WRITE_BACK (R176): the corrected word is back in its bank, unless a write came first. -/
def execCorrectedWriteBack (core word : Nat) (s : State) : Res :=
  onCore core s fun s =>
    if !s.computeOn core || !(s.core core).spadWb.contains word then s
    else s.updCore core fun k => { k with spadWb := sdel word k.spadWb, spadCe := sdel word k.spadCe }

/-- A write of 1 to PV_SPAD_CTL.ZERO (R174): ignored while BUSY or while a keeper of the pavilion has RUN. -/
def State.startZero (s : State) (p : Nat) : State :=
  if (s.pav p).getF Reg.PV_SPAD_CTL_BUSY = 1 || (coresOf p).any (fun c => (s.core c).getF Reg.KP_CTRL_RUN = 1) then s
  else s.updPav p fun v => v.setF Reg.PV_SPAD_CTL_BUSY 1

def execPvSpadZero (pav : Nat) (s : State) : Res := onPav pav s fun s => s.startZero pav

/-- A core's scratchpad and program store at zero with valid check bits (R172). -/
def Core.zeroed (k : Core) : Core :=
  { k with spad := [], spadUe := [], spadCe := [], spadWb := [], pstore := [], pstoreBad := [], pstoreCe := [] }

/-- The scratchpads and program stores of a pavilion at zero. -/
def State.zeroPav (s : State) (p : Nat) : State := (coresOf p).foldl (fun s c => s.updCore c Core.zeroed) s

/-- ZEROING_COMPLETE (R172): 6,144 cycles of the compute clock, which runs only with the domain on. -/
def execZeroingComplete (pav : Nat) (s : State) : Res :=
  onPav pav s fun s =>
    let v := s.pav pav
    if v.getF Reg.PV_SPAD_CTL_BUSY = 0 || v.getF Reg.PV_REG_STATUS_ON = 0 then s
    else (s.zeroPav pav).updPav pav fun v => v.setF Reg.PV_SPAD_CTL_BUSY 0

/-- Spare lines in use in a bank. -/
def Core.spareLines (k : Core) (bank : Nat) : Nat := (k.spadRedir.filter fun l => l / 6144 = bank).length

/-- LINE_REDIRECT (R181): the copy into the spare line is done, in idle cycles of the compute clock; the line is redirected and the repair
recorded (R536). -/
def execLineRedirect (core bank line : Nat) (s : State) : Res :=
  onCore core s fun s =>
    let key := bank * 6144 + line
    let k := s.core core
    if !k.spadCopying.contains key || !s.computeOn core then s
    else
      let spare := k.spareLines bank
      let s := s.updCore core fun k =>
        { k with spadCopying := sdel key k.spadCopying, spadRedir := k.spadRedir ++ [key], spadScrub := Fm.del key k.spadScrub,
                 spadWeak := sdel key k.spadWeak }
      s.updIce fun h => { h with repairs := h.repairs ++
        [{ type := 2, source := 1, unit := core, a := bank + line * 2 ^ 5 + spare * 2 ^ 18, b := 0 }] }

end Sys2Proof.Machine
end

