-- ==== Sys2Proof/Machine/PowerOps.lean ====
section
/-! DEFINITION. Power delivery's parts that commands share (14_power.md): voltage and divider of a compute domain,
derating, switching a domain off, dark pavilions, the loss of module power. -/

namespace Sys2Proof.Machine

/-! ### Voltage and divider (R474-R477) -/

/-- Nominal compute voltage of a divider index, mV (R474). -/
def nominalMv (idx : Nat) : Nat := [850, 780, 720, 680, 640, 600, 570].getD idx 550

/-- VSET of an index with a voltage offset (R474). -/
def vsetOf (idx voff : Nat) : Nat := min 900 (nominalMv idx + 10 * voff)

/-- The derating index (R477); `alert` says that an alert hold is in force. -/
def Pav.derate (alert : Bool) (v : Pav) : Nat :=
  [v.getF Reg.PV_REG_STATUS_PHASEIDX, v.getF Reg.PV_REG_STATUS_HEATIDX, v.suspectIdx, if alert then 7 else 0, v.unownedIdx,
   v.capIdx].foldl max 0

def State.alertHold (s : State) : Bool := getF Reg.PW_STATUS_ALERTHOLD s.pw = 1

/-- The index a domain is to run at: the slower of the plan and the derating (R440). -/
def Pav.target (alert : Bool) (v : Pav) : Nat := max v.planned (v.derate alert)

/-- A domain takes its index at once (R476): a slower one switches and VSET falls after it; for a faster one VSET rises
first, and the divider waits for the output. -/
def Pav.reindex (alert : Bool) (v : Pav) : Pav :=
  let v := v.setF Reg.PV_CLK_STATUS_DERATE (v.derate alert)
  if v.getF Reg.PV_REG_STATUS_ON = 0 then v
  else
    let t := v.target alert
    let mv := vsetOf t (v.getF Reg.PV_REG_STATUS_VOFF)
    if v.getF Reg.PV_CLK_STATUS_DIV ≤ t then
      { (v.setF Reg.PV_CLK_STATUS_DIV t).setF Reg.PV_REG_STATUS_VSET mv with pendingIdx := none }
    else { v.setF Reg.PV_REG_STATUS_VSET mv with pendingIdx := some t }

/-- At a chime the voltage of a faster index is already there, so the divider changes with it (R476). -/
def Pav.reindexChime (alert : Bool) (v : Pav) : Pav :=
  let v := v.reindex alert
  match v.pendingIdx with
  | none => v
  | some t => { v.setF Reg.PV_CLK_STATUS_DIV t with pendingIdx := none }

def State.reindex (s : State) (p : Nat) : State := s.updPav p (Pav.reindex s.alertHold)

/-- Change every pavilion. -/
def State.eachPav (s : State) (f : Nat → Pav → Pav) : State :=
  { s with pavs := (List.range Config.pavilions).filterMap fun p =>
      let v := f p (s.pav p)
      if v = {} then none else some (p, v) }

def State.reindexAll (s : State) : State := s.eachPav fun _ v => v.reindex s.alertHold

/-! ### Switching off (R479, R487, R498) -/

/-- The recovery a garden needs: the strongest asked for since the last decision (R568); 1 restore, 2 re-place, 3 other
relief, 4 hang handling, 5 replay. -/
def State.wantRecovery (s : State) (g cause strength : Nat) : State :=
  s.updGarden g fun d => match d.recover with
    | some (_, n) => { d with recover := if strength < n then some (cause, strength) else d.recover, uncounted := false }
    | none => { d with recover := some (cause, strength), uncounted := false }

/-- The same for one whose time is not counted: the owner asked for it, or a guilty context is charged with it (R582). -/
def State.wantUncounted (s : State) (g cause strength : Nat) : State :=
  let alone := (s.garden g).recover.isNone || (s.garden g).uncounted
  (s.wantRecovery g cause strength).updGarden g fun d => { d with uncounted := alone }

/-- Logical cores of a garden whose sites satisfy `at_`. -/
def Gdn.lcoresAt (d : Gdn) (at_ : Nat → Bool) : List Nat := (d.place.filter fun e => at_ e.2).map Prod.fst

/-- The mapped cores of a pavilion are to be relieved and the garden's step replayed (R479, R498, R549). -/
def State.loseWork (s : State) (p : Nat) : State :=
  match (s.pav p).owner with
  | none => s
  | some g =>
    let ls := (s.garden g).lcoresAt fun c => pavOf c = p
    if ls.isEmpty then (s.taint g 4).wantRecovery g 4 5
    else
      let s := s.updGarden g fun d => { d with toMove := ls.foldl (fun l x => sins x l) d.toMove }
      (s.taint g 4).wantRecovery g 4 3

/-- A core without power: reset, with the numbering of its grants lost (R163), nothing left to send. -/
def Core.unpowered (k : Core) : Core := { k.reset with pools := [], out := [] }

def State.resetCores (s : State) (p : Nat) (f : Core → Core) : State := (coresOf p).foldl (fun s c => s.updCore c f) s

/-- Start switching a compute domain off, or abandon its power-on (R486, R487). -/
def State.domainOff (s : State) (p : Nat) : State :=
  let v := s.pav p
  if v.getF Reg.PV_REG_STATUS_ON = 0 && v.getF Reg.PV_REG_STATUS_POWERING = 0 then s
  else
    let s := s.updPav p fun v =>
      let v := ((v.setF Reg.PV_REG_STATUS_ON 0).setF Reg.PV_REG_STATUS_POWERING 0).setF Reg.PV_REG_STATUS_CORESON 0
      { v with switchingOff := true, pendingIdx := none, segRun := none, queued := [] }
    let q := plotOf p
    let more := (plotPavs q).any fun x => (s.pav x).getF Reg.PV_REG_STATUS_POWERING = 1
    let s := if v.getF Reg.PV_REG_STATUS_POWERING = 1 then (s.setPw (Reg.PW_PLOT_STAGING q) (if more then 1 else 0)).setPw (Reg.PW_PLOT_HALF q) 0 else s
    (s.resetCores p Core.unpowered).loseWork p

/-- A thoroughfare without power (R171, R227, R481): its scratchpads' contents, queues, copies and stage records are gone,
its compute domain is off; the shadows it held for a snapshot under way are lost (R616). -/
def State.pavDark (s : State) (p : Nat) : State :=
  let s := s.domainOff p
  let s := s.resetCores p fun k => { k.zeroed with inbox := [], aveIn := [] }
  let s := s.updPav p fun v =>
    let v := ((v.setF Reg.PV_CLK_STATUS_LOCKED 0).setF Reg.PV_CLK_STATUS_HOLDOVER 0).setF Reg.PV_REG_STATUS_THOK 0
    let v := (v.setF Reg.PV_CLK_STATUS_RECORDS 0).setF Reg.PV_FAB_STATUS_STAGELOCK 0
    { v with powered := false, dark := true, newSource := none, fq := [], aq := [], entering := [], aveEntering := [], holds := [],
             dropping := [], aveDropping := [], rotate := [], gates := [], gateOpen := [], stile := [], markers := [], seqs := [],
             switchingOff := false }
  { s with records := Fm.del p s.records, shadowInvalid := sins p s.shadowInvalid }

/-- The cores of a pavilion take their logical numbers from its map (R307 step 8, R464). -/
def State.identify (s : State) (p : Nat) : State :=
  let place : List (Nat × Nat) := (s.pav p).map.filterMap fun e =>
    let c := e.2 % 0x8000
    if 0x8000 ≤ e.2 ∧ pavOf c = p then some (c, e.1) else none
  let g := (s.pav p).owner.getD 0
  (coresOf p).foldl (fun s c => s.updCore c fun k =>
    match place.find? (fun e => e.1 = c) with
    | some (_, l) => ((k.setF Reg.KP_ID_LCORE l).setF Reg.KP_ID_ASSIGNED 1).setF Reg.KP_ID_GARDEN g
    | none => ((k.setF Reg.KP_ID_LCORE 0).setF Reg.KP_ID_ASSIGNED 0).setF Reg.KP_ID_GARDEN g) s

/-! ### Module power (R471-R473, R500) -/

/-- The repair map and the frequency table as the icehouse holds them: a start writes them back in stage 8 alone (R520). -/
def State.storedRecords (s : State) : List Repair × FMap Freq := s.start.records.getD (s.ice.repairs, s.ice.freq)

/-- What survives the loss of module power: the icehouse's areas (R505), the log's numbering, what is plugged in, what has gone
out, the waiting commands. A checkpoint not complete is lost (R431); the NAND is trained anew. -/
def State.powerLoss (s : State) : State :=
  let whole := s.ice.checkpoints.filter fun c => c.complete
  let ice := { s.ice with regs := [], dieTemp := [], trained := [], written := [], checkpoints := whole,
                             repairs := s.storedRecords.1, freq := s.storedRecords.2 }
  let carts := Fm.mapv {} (fun _ c => { inserted := c.inserted, changes := c.changes }) s.cartridges
  { State.reset with ice := ice, cartridges := carts, boot := s.boot, nextIncident := s.nextIncident, freeCtr := s.freeCtr,
                     pins := { s.pins with pgood := false, thermTrip := false }, smbOut := s.smbOut,
                     start := { holdEnable := s.start.holdEnable, holdStage := s.start.holdStage },
                     bridge := { sentFrames := s.bridge.sentFrames, answers := s.bridge.answers },
                     test := s.test, pending := s.pending }

/-- Every compute domain off, for the rest of this power-on. -/
def State.allOff (s : State) : State := (List.range Config.pavilions).foldl State.domainOff s

/-- THERM_TRIP_N (R500): asserted until the busbar is removed; every compute domain and laser off. Cause 1 compute sensor,
2 thoroughfare or edge sensor, 3 memory device. -/
def State.thermTrip (s : State) (cause : Nat) : State :=
  if s.pins.thermTrip then s
  else
    let s := { s with pins := { s.pins with thermTrip := true } }
    let s := ((s.setPw Reg.PW_STATUS_TRIP 1).setPw Reg.PW_THERM_TRIPPED 1).setPw Reg.PW_THERM_CAUSE cause
    let s := { s with cartridges := Fm.mapv {} (fun _ c => { c with emitting := false }) s.cartridges }
    s.allOff

/-- The module stops (R471): PGOOD falls and the postmaster stands stopped on a fault. -/
def State.moduleStop (s : State) : State :=
  let s := { s with pins := { s.pins with pgood := false }, power := { s.power with stopped := true } }
  (s.setPw Reg.PW_STATUS_PGOOD 0).setPm Reg.PM_STATUS_STATE 4

/-- Start a change of the postmaster's own. -/
def State.addJob (s : State) (j : Job) : State :=
  s.updPost fun p => { p with jobs := p.jobs ++ [{ j with id := p.nextJob }], nextJob := p.nextJob + 1 }

/-- A change of a kind is in progress. -/
def State.hasJob (s : State) (k : JobKind) : Bool := s.post.jobs.any fun j => j.kind = k

/-- Two's complement of a temperature in eight bits. -/
def temp8 (t : Int) : Nat := (t % 256).toNat
def ofTemp8 (n : Nat) : Int := if n < 128 then n else n - 256

end Sys2Proof.Machine
end

