-- ==== Sys2Proof/Machine/HostOps.lean ====
section
/-! DEFINITION. The host bridge's shared parts (10_iturn_host_ports.md): sessions, frames sent and received, loss and
congestion, GONE, the end of a session, parcels' ranges. Times are sundial counts of 10 ns. -/

namespace Sys2Proof.Machine

/-! ### Sessions -/

namespace State
variable (s : State)

def session (id : Nat) : Option Session := Fm.look id s.bridge.sessions
def updBridge (f : Bridge → Bridge) : State := { s with bridge := f s.bridge }
def putSession (id : Nat) (x : Session) : State := s.updBridge fun b => { b with sessions := Fm.put id x b.sessions }
def updSession (id : Nat) (f : Session → Session) : State :=
  match s.session id with
  | none => s
  | some x => s.putSession id (f x)
def parcel (id : Nat) : Option Parcel := Fm.look id s.bridge.parcels
def putParcel (id : Nat) (x : Parcel) : State := s.updBridge fun b => { b with parcels := Fm.put id x b.parcels }

def bumpIturn (port : Nat) (f : Fld) : State := s.updHostPort port fun p => p.incF f 1

end State

/-- The largest PN acknowledged to the peer, all ones when none (R363). -/
def Session.largest (x : Session) : Nat :=
  match x.acked with
  | [] => 2 ^ 64 - 1
  | p :: ps => ps.foldl max p

/-- SACK (R363). -/
def Session.sack (x : Session) : Nat :=
  (List.range 32).foldl (fun a i => if i < x.largest ∧ x.acked.contains (x.largest - 1 - i) then a + 2 ^ i else a) 0

/-- IP bytes of a protected frame with a payload (R379): IPv4 addresses lie below 2^32. -/
def ipBytes (path : Path) (payload : Nat) : Nat := (if path.ip < 2 ^ 32 then 76 else 96) + payload

/-- Bytes of a port's receive buffer in use: parcel data whose writes are not acknowledged (log entry 29). -/
def State.rxFill (s : State) (port : Nat) : Nat :=
  (s.bridge.dataIn.filter fun d => d.port = port).foldl (fun a d => a + d.len + 112) 0

/-- WINDOW (R380). -/
def State.window (s : State) (port : Nat) : Nat := if 2097152 < s.rxFill port then 64 else 1024

/-- SLOTS: free inbound slots of a channel (R363). -/
def State.slots (s : State) (ch : Nat) : Nat := 8 - (s.chan ch).inSlots.length

/-! ### Keys and protection (R365, R368, R373) -/

def ascii (x : String) : List Byte := x.toList.map fun c => BitVec.ofNat 8 c.toNat

/-- HMAC-SHA-384. -/
def hmac (key m : List Byte) : List Byte :=
  let k := if 128 < key.length then Config.sha384 key else key
  let pad (x : Byte) : List Byte := (k ++ List.replicate (128 - k.length) 0).map (· ^^^ x)
  Config.sha384 (pad 0x5C ++ Config.sha384 (pad 0x36 ++ m))

def hkdfExtract (salt ikm : List Byte) : List Byte := hmac salt ikm

/-- HKDF-Expand to at most 48 bytes: its first block. -/
def hkdfExpand (prk info : List Byte) (n : Nat) : List Byte := (hmac prk (info ++ [1])).take n

/-- The secrets of a session from its handshake (R368). -/
def sessionKeys (salt ss th : List Byte) : Keys :=
  let prk := hkdfExtract salt ss
  let secret (label : String) (n : Nat) : List Byte := hkdfExpand prk (ascii label ++ th) n
  { h2mKey := secret "iturn h2m key" 32, h2mIv := secret "iturn h2m iv" 12, m2hKey := secret "iturn m2h key" 32,
    m2hIv := secret "iturn m2h iv" 12, finished := secret "iturn finished" 48 }

/-- The secrets of the next key phase (R373). -/
def Keys.next (k : Keys) : Keys :=
  let secret (old : List Byte) (label : String) (n : Nat) : List Byte := hkdfExpand old (ascii (label ++ "iturn rekey")) n
  { k with h2mKey := secret k.h2mKey "iturn h2m key" 32, h2mIv := secret k.h2mIv "iturn h2m iv" 12,
           m2hKey := secret k.m2hKey "iturn m2h key" 32, m2hIv := secret k.m2hIv "iturn m2h iv" 12 }

/-- The Iturn header (R363). -/
def TxFrame.header (f : TxFrame) : List Byte :=
  leBytes 1 1 ++ leBytes 1 f.type ++ leBytes 1 f.flags ++ leBytes 1 f.slots ++ leBytes 4 f.session ++ leBytes 8 f.pn ++
  leBytes 8 f.largest ++ leBytes 4 f.sack ++ leBytes 2 f.window ++ leBytes 2 f.length

/-- The nonce of a frame: PN into bytes 4 to 11 of the IV. -/
def nonceOf (iv : List Byte) (pn : Nat) : List Byte := (iv.zip (leBytes 4 0 ++ leBytes 8 pn)).map fun x => x.1 ^^^ x.2

/-- A protected frame: its payload encrypted, with the tag, under the header (R365). -/
def TxFrame.protect (k : Keys) (f : TxFrame) : TxFrame :=
  { f with payload := Config.aesGcm k.m2hKey (nonceOf k.m2hIv f.pn) f.header f.payload }

/-! ### Sending -/

/-- A truth value as a field of one bit. -/
def b01 (b : Bool) : Nat := if b then 1 else 0

/-- The port is paused at the priority of its Iturn and PTP frames (R357, R358). -/
def State.iturnPaused (s : State) (port : Nat) : Bool :=
  ((s.hostPort port).getF Reg.LN_HOST_STATUS_PAUSED).testBit (bitsOf (s.cfg (cfgHost port 2)) 13 3)

/-- The tag control field of the frames a port sends: VID and PCP; none for an untagged port (R357). -/
def State.portTag (s : State) (port : Nat) : Option Nat :=
  let v := s.cfg (cfgHost port 2)
  if bitsOf v 12 1 = 1 then some (bitsOf v 0 12 + bitsOf v 13 3 * 2 ^ 13) else none

/-- A frame is sent, with the port's tag and ECT(0); it waits while its priority is paused (R357, R358, R360). -/
def State.emit (s : State) (f : TxFrame) : State :=
  let f := { f with vlan := s.portTag f.path.port, ecn := 2 }
  s.updBridge fun b =>
    if s.iturnPaused f.path.port then { b with waiting := b.waiting ++ [f] } else { b with sentFrames := b.sentFrames ++ [f] }

/-- A frame of another protocol is sent in the same way. -/
def State.answer (s : State) (dest : Path) (kind : Nat) : State :=
  let a : Answer := { path := dest, kind := kind, vlan := s.portTag dest.port }
  s.updBridge fun b =>
    if s.iturnPaused dest.port then { b with answersWaiting := b.answersWaiting ++ [a] } else { b with answers := b.answers ++ [a] }

/-- A frame of a session goes out (R360, R363, R366): it takes the next PN, reports what has been received, and an ECE noted
since the previous frame. -/
def State.sendFrame (s : State) (id : Nat) (type : Nat) (payload : List Byte) : State :=
  match s.session id with
  | none => s
  | some x =>
    let f : TxFrame :=
      { path := x.path, type := type, flags := (if x.ceNoted then 1 else 0) + 2 * x.phase, slots := s.slots x.channel,
        session := id, pn := x.sendPn, largest := x.largest, sack := x.sack, window := s.window x.path.port,
        length := payload.length, payload := payload }
    let s := s.putSession id
      { x with sendPn := x.sendPn + 1, txKey := x.txKey + 1, ceNoted := false,
               sentAcks := if type = 9 then x.sentAcks ++ [x.sendPn] else x.sentAcks }
    s.emit (f.protect x.keys)

/-- The ACK of a frame (R377). -/
def State.ackFrame (s : State) (id pn : Nat) : State :=
  (s.updSession id fun x => { x with acked := sins pn x.acked, due := sdel pn x.due }).sendFrame id 9 []

/-- Type and payload of a content other than parcel data. -/
def letterBytes (l : Letter) : List Byte :=
  leBytes 1 l.version ++ leBytes 1 l.code ++ leBytes 2 l.flags ++ leBytes 1 l.garden ++ leBytes 3 l.rsv ++
  leBytes 4 l.session ++ leBytes 4 l.sequence ++ leBytes 4 l.length ++ leBytes 2 l.status ++ leBytes 2 l.reason ++
  leBytes 8 l.tag.toNat ++ l.body

/-- A clamp entry (R530). -/
def clampBytes (c : Clamp) : List Byte :=
  leBytes 2 c.field ++ leBytes 1 c.rule ++ leBytes 5 0 ++ leBytes 8 c.asked.toNat ++ leBytes 8 c.used.toNat

/-- A receipt's bytes (R329, R331). -/
def Receipt.bytes (r : Receipt) : List Byte :=
  let body := leBytes 8 r.chime.toNat ++ leBytes 1 r.waited ++ leBytes 1 0 ++ leBytes 2 r.clamps.length ++ leBytes 4 r.waitedSeq ++
    r.body ++ r.clamps.flatMap clampBytes
  letterBytes { code := r.code, flags := r.flags, garden := r.garden, session := r.session, sequence := r.sequence,
                length := body.length, status := r.status, reason := r.reason, tag := r.tag, body := body }

def Content.type : Content → Nat
  | .receipt _ => 2
  | .plain t _ => t
  | .data _ _ _ => 7

def Content.payload : Content → List Byte
  | .receipt r => r.bytes
  | .plain _ p => p
  | .data _ _ _ => []

/-- Payload bytes of a content's frame. -/
def Content.size : Content → Nat
  | .data _ _ n => 16 + n
  | c => c.payload.length

/-- IP bytes in flight or being built for a session (R379). -/
def State.flightBytes (s : State) (id : Nat) (x : Session) : Nat :=
  (s.bridge.builds.filter fun b => b.session = id).foldl (fun a b => a + ipBytes x.path (16 + b.len))
    (x.inflight.foldl (fun a f => a + f.ip) 0)

/-- A frame with a content goes out and is in flight. -/
def State.launch (s : State) (id : Nat) (c : Content) (payload : List Byte) : State :=
  match s.session id with
  | none => s
  | some x =>
    let f : InFlight := { pn := x.sendPn, content := c, ip := ipBytes x.path payload.length, sent := s.now }
    let firsts := if x.firsts.any fun e => e.1 = c then x.firsts else x.firsts ++ [(c, s.now)]
    (s.putSession id { x with inflight := x.inflight ++ [f], firsts := firsts }).sendFrame id c.type payload

/-- A packet of the host bridge for garden `g`. -/
def State.bridgeSend (s : State) (p : Packet) : State :=
  { s with endOut := Fm.upd [] codeHost (· ++ [{ p with src := codeHost, naming := .physical }]) s.endOut }

/-- Pieces of a range cut at 4 KiB granules (R204, R388): offset from the start, and length. -/
def granulePieces : Nat → Nat → Nat → Nat → List (Nat × Nat)
  | 0, _, _, _ => []
  | fuel + 1, a, off, n =>
    if n = 0 then []
    else let k := min n (4096 - a % 4096); (off, k) :: granulePieces fuel (a + k) (off + k) (n - k)

/-- A parcel's range through its garden's windows as the bridge holds them (R293, R653). -/
def State.hostWindow (s : State) (g a n : Nat) : Option Nat := slowWindow (Fm.get {} g s.bridge.prot).windows a n .host

/-- Begin a PARCEL_DATA frame: the slow-tier bytes are read now; FIRMWARE_STAGE parcels are never pulled (R389). -/
def State.buildData (s : State) (id parcel off len : Nat) : State :=
  match s.parcel parcel with
  | none => s
  | some p =>
    match s.hostWindow p.garden (p.addr + off) len with
    | none => s
    | some a =>
      let ret := s.bridge.nextRet * 8192
      let pieces := granulePieces 3 a 0 len
      let b : Build := { session := id, parcel := parcel, off := off, len := len, ret := ret, left := pieces.map fun q => ret + q.1 }
      let s := s.updBridge fun br => { br with builds := br.builds ++ [b], nextRet := (br.nextRet + 1) % 1024 }
      pieces.foldl (fun s q => s.bridgeSend
        { type := 2, garden := p.garden, dest := codeOra (oraOf (a + q.1)), addr := a + q.1,
          payload := leBytes 8 (ret + q.1 + q.2 / 8 * 2 ^ 23) }) s

/-- Send what CWND and the link partner allow (R358, R379). -/
def flush (id : Nat) : Nat → State → State
  | 0, s => s
  | fuel + 1, s =>
    match s.session id with
    | none => s
    | some x =>
      match x.sendQ with
      | [] => s
      | c :: rest =>
        if s.iturnPaused x.path.port || x.cwnd < s.flightBytes id x + ipBytes x.path c.size then s
        else
          let s := s.putSession id { x with sendQ := rest }
          let s := match c with
            | .data p off len => s.buildData id p off len
            | c => s.launch id c c.payload
          flush id fuel s

def State.flushSession (s : State) (id : Nat) : State :=
  match s.session id with
  | none => s
  | some x => flush id x.sendQ.length s

def State.queueContent (s : State) (id : Nat) (cs : List Content) : State :=
  (s.updSession id fun x => { x with sendQ := x.sendQ ++ cs }).flushSession id

/-! ### GONE and the end of a session (R328, R375, R376, R392) -/

/-- A GONE frame; at most one for each source address in a round. -/
def State.sendGone (s : State) (path : Path) (id reason : Nat) : State :=
  let sent := if s.bridge.goneRound = s.round then s.bridge.goneSent else []
  if sent.contains path.ip then s
  else (s.updBridge fun b => { b with goneSent := path.ip :: sent, goneRound := s.round }).emit
    { path := path, type := 10, session := id, length := 8, payload := leBytes 8 reason }

/-- A channel as it stands when it is bound anew (R325). -/
def Chan.fresh (c : Chan) : Chan :=
  { c with inSlots := [], outSlots := [], heldOut := [], forming := [], outPos := 0, lastSeq := none, recent := [] }

/-- R328 for a channel: its accepted letters run on and their receipts are discarded. -/
def State.muteChannel (s : State) (ch : Nat) : State :=
  let mute (a : Accepted) : Accepted := if a.channel = ch then { a with mute := true } else a
  let s := s.updPost fun p => { p with accepted := p.accepted.map mute,
                                       jobs := p.jobs.map fun j => { j with letter := j.letter.map mute } }
  s.updChan ch Chan.fresh

/-- Parcels are closed; a staging parcel closed with its full LEN written leaves a staged image (R392, R610). -/
def State.closeParcels (s : State) (which : Nat → Parcel → Bool) : State :=
  let full := s.bridge.parcels.any fun e => which e.1 e.2 && e.2.isOpen && e.2.staging && decide (e.2.moved = [(0, e.2.len)])
  let s := if full then { s with ice := { s.ice with stagingDone := true } } else s
  s.updBridge fun b =>
    let parcels := b.parcels.map fun e => if which e.1 e.2 then (e.1, { e.2 with isOpen := false }) else e
    let open_ (n : Nat) : Bool := ((Fm.look n parcels).map fun p => p.isOpen).getD false
    let keep : Content → Bool
      | .data p _ _ => open_ p
      | _ => true
    { b with parcels := parcels, builds := b.builds.filter fun d => open_ d.parcel,
             sessions := b.sessions.map fun e => (e.1, { e.2 with sendQ := e.2.sendQ.filter keep }) }

/-- A session ends: its channel is freed and its parcels closed; later frames are answered with `reason`. -/
def State.endSession (s : State) (id reason : Nat) : State :=
  match s.session id with
  | none => s
  | some x =>
    let s := s.muteChannel x.channel
    let s := s.updChan x.channel fun c => { c with bound := 0, session := 0, role := 0 }
    let s := s.closeParcels fun _ p => p.session = id
    s.updBridge fun b =>
      { b with sessions := Fm.del id b.sessions, ended := Fm.put id reason b.ended,
               dataIn := b.dataIn.filter fun d => d.session ≠ id }

/-- Every session ends (R343). -/
def State.endAll (s : State) (reason : Nat) : State :=
  (s.bridge.sessions.map Prod.fst).foldl (fun s id => s.endSession id reason) s

/-! ### Acknowledgements of the module's frames (R377-R379, R384) -/

/-- LARGEST and SACK cover a PN. -/
def covers (largest sack pn : Nat) : Bool :=
  largest < 2 ^ 64 - 1 && (pn = largest || (pn < largest && largest - 1 - pn < 32 && sack.testBit (largest - 1 - pn)))

def clampCwnd (n : Nat) : Nat := max 16608 (min 16777216 n)

/-- A round-trip sample (R378): RFC 6298 with gains 1/8 and 1/4. -/
def Session.sample (x : Session) (r : Nat) : Session :=
  let (srtt, var) := match x.srtt with
    | none => (r, r / 2)
    | some t => ((7 * t + r) / 8, (3 * x.rttvar + (if t < r then r - t else t - r)) / 4)
  { x with srtt := some srtt, rttvar := var, rto := max (srtt + 4 * var) 2000 }

/-- A round-trip of the session ends (R379). -/
def Session.roundTrip (x : Session) : Session :=
  let f := if x.rtFrames = 0 then 0 else 65536 * x.rtEce / x.rtFrames
  let a := (15 * x.alpha + f) / 16
  let w := if x.rtEce ≠ 0 then x.cwnd - x.cwnd * a / 131072 else if x.slow then 2 * x.cwnd else x.cwnd + 8304
  { x with alpha := a, cwnd := clampCwnd w, slow := x.slow && x.rtEce = 0, rtPn := x.sendPn, rtFrames := 0, rtEce := 0 }

/-- Frames lost by the three-frame rule: their contents go out first again. -/
def Session.lose (x : Session) (fs : List InFlight) : Session :=
  { x with sendQ := (fs.map fun f => f.content) ++ x.sendQ, slow := x.slow && fs.isEmpty,
           cwnd := fs.foldl (fun w _ => clampCwnd (w / 2)) x.cwnd }

/-- A receipt's slot is freed, and the next held receipt placed in one (R327, R384): the receipt to send. -/
def Chan.freeSlot (r : Receipt) (c : Chan) : Chan × Option Receipt :=
  if !c.outSlots.contains r then (c, none)
  else
    let c := { c with outSlots := c.outSlots.erase r, outPos := 0 }
    match c.heldOut with
    | [] => (c, none)
    | h :: hs => ({ c with outSlots := c.outSlots ++ [h], heldOut := hs }, some h)

def State.freeReceipt (s : State) (id ch : Nat) (r : Receipt) : State :=
  let (c, next) := (s.chan ch).freeSlot r
  let s := s.updChan ch fun _ => c
  match next with
  | none => s
  | some h => s.updSession id fun x => { x with sendQ := x.sendQ ++ [.receipt h] }

/-- A frame's LARGEST and SACK act on the frames in flight; the module's own ACK frames that they cover count toward the three (R378). -/
def State.takeAcks (s : State) (id largest sack : Nat) : State :=
  match s.session id with
  | none => s
  | some x =>
    let done := x.inflight.filter fun f => covers largest sack f.pn
    let pns := (done.map fun f => f.pn) ++ x.sentAcks.filter (covers largest sack)
    if pns.isEmpty then s
    else
      let left := (x.inflight.filter fun f => !covers largest sack f.pn).map fun f =>
        { f with above := f.above + (pns.filter fun p => f.pn < p).length }
      let lost := left.filter fun f => 3 ≤ f.above
      let x := { x with sentAcks := x.sentAcks.filter fun p => !covers largest sack p }
      let x := done.foldl (fun x f => x.sample (s.now - f.sent)) { x with inflight := left.filter (fun f => f.above < 3), firsts := x.firsts.filter fun e => !(done.any fun d => d.content = e.1) }
      let x := if done.any fun f => x.rtPn ≤ f.pn then x.roundTrip else x
      let x := x.lose lost
      let s := s.putSession id x
      let s := lost.foldl (fun s _ => s.bumpIturn x.path.port Reg.LN_ITURN_STAT_RETX) s
      done.foldl (fun s f => match f.content with
        | .receipt r => s.freeReceipt id x.channel r
        | _ => s) s

/-! ### Receiving (R364, R366, R370, R373, R376, R380, R393) -/

/-- The phase bit of a frame is one the module accepts (R373). -/
def Session.phaseOk (x : Session) (bit now : Nat) : Bool :=
  bit = x.phase || (match x.oldUntil with | some t => decide (now < t) | none => false)

def Session.newest (x : Session) : Nat := x.seen.foldl max 0

/-- PNs kept of the last 1,024. -/
def prune (top : Nat) (l : List Nat) : List Nat := l.filter fun p => top ≤ p + 1024

/-- The host bridge takes a frame of `type` from its port: what it does to the session, and whether the frame is to act. A CE mark is noted on
every frame that names the session (R360); once it authenticates the PN has been received (R366). `eliciting` says that the frame is to be
acknowledged; it then takes a place in the window. -/
def State.intake (s : State) (f : Frame) (type : Nat) (eliciting : Bool) : State × Bool :=
  let port := f.path.port
  let s := if f.ce then s.updSession f.session fun x => { x with ceNoted := true } else s
  if f.version ≠ 1 || f.type ≠ type || 4 ≤ f.flags || !f.formOk then (s.bumpIturn port Reg.LN_ITURN_CNT_FORMAT, false)
  else
    match s.session f.session with
    | none =>
      ((s.bumpIturn port Reg.LN_ITURN_CNT_UNKNOWN).sendGone f.path f.session (Fm.get 1 f.session s.bridge.ended), false)
    | some x =>
      if !f.authOk || !x.phaseOk (f.flags / 2) s.now then (s.bumpIturn port Reg.LN_ITURN_CNT_AUTH, false)
      else
        let x := { x with path := f.path, rxKey := x.rxKey + 1, oldUntil := if f.flags / 2 = x.phase then none else x.oldUntil,
                          oldKeys := if f.flags / 2 = x.phase then none else x.oldKeys }
        if x.seen.contains f.pn || f.pn + 1024 < x.newest then
          ((s.putSession f.session x).bumpIturn port Reg.LN_ITURN_CNT_DUP, false)
        else
          let top := max x.newest f.pn
          let x := { x with seen := prune top (sins f.pn x.seen), due := prune top x.due }
          if !x.ready && type ≠ 4 then ((s.putSession f.session x).bumpIturn port Reg.LN_ITURN_CNT_FORMAT, false)
          else if eliciting && s.window port ≤ x.due.length then
            ((s.putSession f.session x).bumpIturn port Reg.LN_ITURN_CNT_WINDOW, false)
          else
            let ece := f.flags % 2
            let x := { x with lastFrame := s.now, due := if eliciting then sins f.pn x.due else x.due,
                              acked := prune top (if eliciting then x.acked else sins f.pn x.acked), rtFrames := x.rtFrames + 1, rtEce := x.rtEce + ece }
            let s := s.putSession f.session x
            let s := if ece = 1 then s.bumpIturn port Reg.LN_ITURN_STAT_ECE else s
            (s.takeAcks f.session f.largest f.sack, true)

/-- A frame discarded after it was taken, without acknowledgement: it holds no place in the window. -/
def State.discardFrame (s : State) (f : Frame) (cnt : Fld) : State :=
  (s.updSession f.session fun x => { x with due := sdel f.pn x.due }).bumpIturn f.path.port cnt

/-! ### Parcels (R385-R392) -/

/-- A range joined to a list of disjoint ranges, ascending. -/
def addRange (r : Nat × Nat) : List (Nat × Nat) → List (Nat × Nat)
  | [] => [r]
  | q :: l =>
    if r.2 < q.1 then r :: q :: l
    else if q.2 < r.1 then q :: addRange r l
    else addRange (min q.1 r.1, max q.2 r.2) l

def rangeBytes (l : List (Nat × Nat)) : Nat := l.foldl (fun a r => a + (r.2 - r.1)) 0

def State.parcelMoved (s : State) (id off len : Nat) : State :=
  match s.parcel id with
  | none => s
  | some p => s.putParcel id { p with moved := addRange (off, off + len) p.moved }

/-- Whether a data or pull frame may act on its parcel (R386, R387, R389, R390): `dir` 0 into the module. -/
def State.parcelOk (s : State) (f : Frame) (id dir off len : Nat) : Bool :=
  match s.parcel id with
  | none => false
  | some p =>
    p.isOpen && p.session = f.session && p.dir = dir && off % 8 = 0 && len % 8 = 0 && 8 ≤ len && off + len ≤ p.len &&
    (p.staging || ((Fm.get {} p.garden s.bridge.prot).host.testBit f.path.port &&
                   (s.hostWindow p.garden (p.addr + off) len).isSome))

/-- At a garden's new generation the bridge's packets of the old one are lost (R391): data frames stay without their
acknowledgement, frames being built are read anew. -/
def State.hostGen (s : State) (g : Nat) : State :=
  let of (n : Nat) : Bool := ((s.parcel n).map fun p => p.garden = g && !p.staging).getD false
  let again := s.bridge.builds.filter fun b => of b.parcel
  let s := s.updBridge fun b => { b with builds := b.builds.filter fun d => !of d.parcel, dataIn := b.dataIn.filter fun d => !of d.parcel }
  again.foldl (fun s b => s.buildData b.session b.parcel b.off b.len) s

end Sys2Proof.Machine
end

