-- ==== Sys2Proof/Machine/ChimeOps.lean ====
section
/-! DEFINITION. The parts of stage and chime that commands share (13_clocks_and_sundial.md, R443, R453-R464, R653): chime
units and what reaches them, kinds and their locks, the checks of an acknowledgement, applying a record, snapshots'
shadows (R613), clock sources. -/

namespace Sys2Proof.Machine

/-! ### Chime units (R457, R653) -/

/-- 0-431 thoroughfares, 432-447 orangeries, 448 host bridge, 449-452 peer bridges of lanterns 0, 1, 3 and 4, 453 power
controller, 454 sundial master. -/
def chimeUnits : Nat := 455
def unitOra (o : Nat) : Nat := 432 + o
def unitHost : Nat := 448
def unitPower : Nat := 453
def unitSundial : Nat := 454

/-- The unit that holds a peer port's entries: its lantern's bridge, or lantern 2's while a spare carries it (R414). -/
def State.peerUnit (s : State) (port : Nat) : Nat := if (s.swapOf port).isSome then unitHost else 449 + port / 4

/-- The unit is present and live. -/
def State.unitLive (s : State) (u : Nat) : Bool :=
  if u < 432 then (s.pav u).powered && !(s.pav u).dark
  else if u < 448 then Config.orangeryPresent (u - 432) && (s.orang (u - 432)).getF Reg.OR_STATUS_FAULT = 0
  else if u = 448 then Config.lanternPresent 2
  else if u < 453 then Config.lanternPresent (bridgeLantern (u - 449))
  else u < 455

/-- A unit's sundial count. -/
def State.unitCount (s : State) (u : Nat) : Nat := if u < 432 then s.sundialOf u else s.now

/-! ### Kinds (R458, R462, R653) -/

def Change.kind : Change → Nat
  | .snap => 0
  | .gen _ _ => 1
  | .prot _ _ _ => 2
  | .fabric _ _ | .peer _ _ _ _ | .carry _ _ => 3
  | .config _ | .capWindows _ _ _ _ => 4
  | .divider _ _ _ | .capIndex _ => 5
  | .run _ _ _ => 6
  | .time _ => 7

/-- The garden whose kinds a record locks; none for the whole unit. -/
def Change.garden : Change → Option Nat
  | .gen g _ | .prot g _ _ | .fabric g _ | .peer g _ _ _ | .divider g _ _ | .run g _ _ => some g
  | _ => none

/-- Fields a unit holds. -/
def cfgIsPav (f : Nat) : Bool := f = cfgMarginMin || f = cfgStretchLimit || f = cfgTHot
def cfgIsHost (f : Nat) : Bool := f = cfgIdleS || f = cfgPtpDomain || (0x0100 ≤ f && f < 0x0120)
def cfgIsPeer (k f : Nat) : Bool := 0x0200 + 4 * k ≤ f && f < 0x0204 + 4 * k

/-- The units a change reaches. -/
def State.reaches (s : State) (u : Nat) : Change → Bool
  | .snap => u < 455
  | .gen _ _ => u < 453
  | .prot _ old new =>
    (u < 432 && (old.pavs.contains u || new.pavs.contains u)) ||
    (u = unitHost && (old.host ≠ new.host || old.windows ≠ new.windows)) ||
    (449 ≤ u && u < 453 && (old.peer ^^^ new.peer) / 2 ^ (4 * (u - 449)) % 16 ≠ 0)
  | .fabric _ pavs => u < 432 && pavs.contains u
  | .peer _ _ _ e => s.peerUnit e.port = u
  | .carry port _ => u = unitHost || u = 449 + port / 4
  | .config es => es.any fun e =>
      (u < 432 && cfgIsPav e.1) || (u = unitHost && cfgIsHost e.1) || (449 ≤ u && u < 453 && cfgIsPeer (u - 449) e.1) ||
      (u = unitSundial && e.1 = cfgPtpDomain)
  | .capWindows _ _ _ _ => u = unitPower
  | .divider _ pavs _ => u < 432 && pavs.contains u
  | .capIndex _ => u < 432
  | .run _ cores _ => cores.any fun c => pavOf c = u
  | .time _ => u = unitSundial

/-- The units a stage goes to: live, and holding state of its kinds for the change. -/
def State.stageUnits (s : State) (cs : List Change) : List Nat :=
  (List.range chimeUnits).filter fun u => s.unitLive u && cs.any (s.reaches u)

/-- Two changes lock one kind (R458). -/
def Change.clashes (a b : Change) : Bool :=
  a.kind = b.kind && (match a.garden, b.garden with | some g, some h => g = h | _, _ => true)

def State.recordsOf (s : State) (u : Nat) : List StageRec := Fm.get [] u s.records
def State.setRecords (s : State) (u : Nat) (rs : List StageRec) : State :=
  let s := { s with records := Fm.set [] u rs s.records }
  if u < 432 then
    s.updPav u fun v =>
      let lock := rs.any fun r => r.changes.any fun c => c.kind = 3
      (v.setF Reg.PV_CLK_STATUS_RECORDS rs.length).setF Reg.PV_FAB_STATUS_STAGELOCK (if lock then 1 else 0)
  else s

/-! ### Staged protection (R296, R316) -/

/-- A window as GD_WSTAGE holds it. -/
def Gdn.windowStaged (d : Gdn) (n : Nat) : Window :=
  { lbase := d.getF (Reg.GD_WSTAGE_A_LBASE n), pbase := d.getF (Reg.GD_WSTAGE_A_PBASE n), size := d.getF (Reg.GD_WSTAGE_B_SIZE n),
    rd := d.getF (Reg.GD_WSTAGE_B_RD n) = 1, wr := d.getF (Reg.GD_WSTAGE_B_WR n) = 1, host := d.getF (Reg.GD_WSTAGE_B_HOST n) = 1,
    keep := d.getF (Reg.GD_WSTAGE_B_KEEP n) = 1 }

/-- The protection a chime applies: a record with the grants and windows that GD_GRANT_STAGED and GD_WSTAGE hold by then. -/
def State.stagedProt (s : State) (g : Nat) (new : Protection) : Protection :=
  let d := s.garden g
  let ws := (List.range 16).map d.windowStaged
  let n := if (ws.drop new.windows.length).all fun w => w.size = 0 then new.windows.length else 16
  let grant := d.getF Reg.GD_GRANT_STAGED_STAGED
  { new with peer := grant % 65536, host := grant / 65536, windows := ws.take n }

/-! ### The check of staged tables (R217, R232) -/

/-- The staged entries of a pavilion that are valid, by entry index. -/
def Pav.stagedEntries (v : Pav) : List (Nat × AveEntry) :=
  (v.regs.filterMap fun e =>
    if aveStaged ≤ e.1 ∧ e.1 < aveStaged + 0x4000 then some ((e.1 - aveStaged) / 8, decodeAve e.2) else none).filter fun e => e.2.valid

/-- Routers whose north edge port has a peer bridge (R188). -/
def State.peerEdge (s : State) (r : Nat) : Bool :=
  coreY r = 0 && [0, 1, 2, 3, 4].any fun l =>
    match s.attach (codePeer l) with
    | some (_, lo, hi) => lo ≤ coreX r && coreX r ≤ hi
    | none => false

def entryOk (s : State) (p : Nat) (i : Nat) (e : AveEntry) : Bool :=
  let r := coreAt p (i / 32)
  [0, 1, 2, 3, 4].all fun out =>
    if e.goesTo out then
      1 ≤ e.sliceOn out && (out = 4 || (neighbour r out).isSome || (out = 0 && s.peerEdge r))
    else e.sliceOn out = 0

/-- No two entries of one router drive one slice of an output, or stand for one end of an avenue. -/
def entriesApart (a b : Nat × AveEntry) : Bool :=
  a.1 / 32 ≠ b.1 / 32 || a.1 = b.1 ||
  ((List.range 5).all (fun out => !(a.2.goesTo out && b.2.goesTo out && a.2.sliceOn out = b.2.sliceOn out)) &&
   !(a.2.garden = b.2.garden && a.2.avenue = b.2.avenue &&
     ((a.1 / 4 % 8 = 4 && b.1 / 4 % 8 = 4) || (a.2.goesTo 4 && b.2.goesTo 4))))

/-- A staged footpath entry: no reserved code, no exit through an edge of the die. -/
def fpCodeOk (p code : Nat) : Bool :=
  match code with
  | 1 => 18 ≤ p
  | 2 => p % 18 < 17
  | 3 => p < 414
  | 4 => 0 < p % 18
  | 5 | 6 => false
  | _ => true

def State.stagedOk (s : State) (p : Nat) : Bool :=
  let es := (s.pav p).stagedEntries
  es.all (fun e => entryOk s p e.1 e.2) && es.all (fun a => es.all (entriesApart a)) &&
  (List.range 27).all fun n => (List.range 16).all fun e => fpCodeOk p (bitsOf (s.fpWord 0x300 p n) (3 * e) 3)

/-! ### Shadows (R613-R616) -/

def shadowKey (block inst w : Nat) : Nat := block * 2 ^ 32 + inst * 256 + w

/-- The registers of an instance of a snapshot block, in order. -/
def State.snapWords (s : State) (block inst : Nat) : List Word :=
  let pv (off : Nat) : Word := getReg .pv off (s.pav inst).regs
  match block with
  | 0x01 => (List.range 64).map fun n => pv (0xA00 + 8 * n)
  | 0x02 => (List.range 5).map fun port =>
      getReg .pv (Reg.PV_LINK_CNT_UP (cntIdx inst port)).off (s.pav (pavOf inst)).regs
  | 0x03 => [pv 0x48, pv 0x68, pv 0xC8, pv 0x58]
  | 0x04 => [0x10, 0x28, 0x50].map fun o => getReg .ora o (s.orang inst).regs
  | 0x05 => [0x118, 0x120, 0x128, 0x130].map fun o => getReg .ln o (s.hostPort inst).regs
  | 0x06 => [getReg .ln 0x208 (s.peerPort inst).regs]
  | 0x07 => [getReg .ln 0x400 (s.lantern inst).regs]
  | 0x08 => [getReg .pm 0x40 (s.chan inst).regs]
  | 0x09 => [getReg .gd 0x28 (s.garden inst).regs]
  | 0x0A => [getReg .sd 0x38 s.sd, getReg .pw 0x20 s.pw, getReg .ih 0x18 s.ice.regs, getReg .wd 0x28 s.wd,
             getReg .wd 0x20 s.wd, getReg .wd 0x18 s.wd]
  | 0x0B => [getReg .kp 0x20 (s.core inst).regs]
  | _ => []

def setShadows (block inst : Nat) (ws : List Word) (m : FMap Word) : FMap Word :=
  (ws.foldl (fun (a : Nat × FMap Word) w => (a.1 + 1, Fm.set 0 (shadowKey block inst a.1) w a.2)) (0, m)).2

/-- Copy the words of an instance that satisfy `mine`, by their place. -/
def State.copyShadow (s : State) (block : Nat) (mine : Nat → Bool) (inst : Nat) : State :=
  let ws := s.snapWords block inst
  { s with shadows := (List.range ws.length).foldl (fun m i =>
      if mine i then Fm.set 0 (shadowKey block inst i) (ws.getD i 0) m else m) s.shadows }

def allWords (_ : Nat) : Bool := true

/-- What a chime unit copies at SNAP. -/
def State.snapUnit (s : State) (u : Nat) : State :=
  let s := { s with shadowInvalid := sdel u s.shadowInvalid }
  if u < 432 then
    let s := (s.copyShadow 1 allWords u).copyShadow 3 allWords u
    let s := (coresOf u).foldl (fun s c => (s.copyShadow 2 allWords c).copyShadow 0xB allWords c) s
    s
  else if u < 448 then s.copyShadow 4 allWords (u - 432)
  else if u = unitHost then [(5, 0), (5, 1), (7, 2)].foldl (fun s b => s.copyShadow b.1 allWords b.2) s
  else if u < 453 then
    let s := (List.range 4).foldl (fun s i => s.copyShadow 6 allWords (4 * (u - 449) + i)) s
    s.copyShadow 7 allWords (bridgeLantern (u - 449))
  else if u = unitPower then s.copyShadow 0xA (· = 1) 0
  else s.copyShadow 0xA (· = 0) 0

/-- What the postmaster copies at a snapshot's T (R614). -/
def State.snapPost (s : State) : State :=
  let s := (List.range 64).foldl (fun s n => s.copyShadow 8 allWords n) s
  let s := (List.range 4).foldl (fun s g => s.copyShadow 9 allWords g) s
  s.copyShadow 0xA (2 ≤ ·) 0

/-! ### Applying a record (R462, R567) -/

/-- A core at a garden reset (R132, R135, R567): what it was to send is dropped with the old tag. -/
def Core.gardenReset (k : Core) : Core := { k.reset with out := [], aveOut := [] }

def Pav.dropSeqs (v : Pav) (g : Nat) : Pav :=
  { v with seqs := v.seqs.filter fun e => (v.ave aveActive (e.1 / 2)).garden ≠ g }

/-- The delivery entries of a garden count as drained once its tag has advanced: the traffic that was to be drained is dropped
(R221, log entry 79). -/
def Pav.drainDropped (g : Nat) (v : Pav) : Pav :=
  { v with regs := (v.regs.filter fun e => aveActive ≤ e.1 && e.1 < aveActive + 0x4000).foldl (fun m e =>
      let a := decodeAve e.2
      if a.valid && a.garden = g && a.goesTo 4 then setReg .pv e.1 (withBits e.2 30 1 1) m else m) v.regs }

def undrained (w : Word) : Word := withBits w 30 1 0

/-- Avenue entries that differ between the active and the staged table. -/
def Pav.changedEntries (v : Pav) : List Nat :=
  let word (base i : Nat) : Word := getReg .pv (base + 8 * i) v.regs
  ((v.regs.filterMap fun e =>
    if aveActive ≤ e.1 ∧ e.1 < aveActive + 0x4000 then some ((e.1 - aveActive) / 8)
    else if aveStaged ≤ e.1 ∧ e.1 < aveStaged + 0x4000 then some ((e.1 - aveStaged) / 8) else none).eraseDups).filter
      fun i => undrained (word aveActive i) ≠ undrained (word aveStaged i)

/-- A send entry whose source's entry changes in a pavilion: the source's SEQ restarts (R216, R404). -/
def Pav.restarts (v : Pav) (e : PeerEntry) : Bool :=
  v.changedEntries.any fun i => i / 4 % 8 = 4 && [aveActive, aveStaged].any fun base =>
    let a := v.ave base i
    a.valid && a.garden = e.garden && a.avenue = e.avenue

/-- The staged tables of a pavilion become active (R223): entries that change restart their numbering (R216). -/
def Pav.applyFabric (v : Pav) : Pav :=
  let word (base i : Nat) : Word := getReg .pv (base + 8 * i) v.regs
  let idxs := v.changedEntries
  let v := { v with regs := idxs.foldl (fun m i => setReg .pv (aveActive + 8 * i) (undrained (word aveStaged i)) m) v.regs,
                    seqs := v.seqs.filter fun e => !idxs.contains (e.1 / 2), map := v.mapStaged }
  (v.setF Reg.PV_FAB_CTL_HOLD (v.getF Reg.PV_FAB_CTL_SHOLD))

def State.applyFootpaths (s : State) (p : Nat) : State :=
  (List.range 27).foldl (fun s n => s.setFpWord 0x200 p n (s.fpWord 0x300 p n)) s

def State.setRun (s : State) (p : Nat) (cores : List Nat) (set : Bool) : State :=
  (cores.filter fun c => pavOf c = p).foldl (fun s c => s.updCore c (if set then Core.startRun else Core.stopRun)) s

def setTag (g tag : Nat) (v : Pav) : Pav :=
  { v with regs := setReg .pv Reg.PV_GEN_GEN0.off (withBits (getReg .pv Reg.PV_GEN_GEN0.off v.regs) (8 * g) 8 tag) v.regs }

/-- A pavilion joins or leaves a garden, or has its windows changed (R297, R477). -/
def State.applyProt (s : State) (p g : Nat) (old new : Protection) : State :=
  if new.pavs.contains p then
    if (s.pav p).owner = some g then s.updPav p fun v => { v with windows := new.windows }
    else
      let idx := (s.garden g).divider
      let s := s.updPav p fun v =>
        ({ v with owner := some g, windows := new.windows, unownedIdx := 0, planned := idx } : Pav).reindexChime s.alertHold
      s.identify p
  else if old.pavs.contains p && (s.pav p).owner = some g then
    let s := s.updPav p fun v =>
      ({ v with owner := none, windows := [], windowsStaged := [], map := [], mapStaged := [], envelopes := [], unownedIdx := 7,
                planned := 0 } : Pav).reindexChime s.alertHold
    s.identify p
  else s

def State.applyPav (s : State) (p : Nat) : Change → State
  | .snap => s.snapUnit p
  | .gen g tag =>
    let s := s.updPav p fun v => ((setTag g tag v).dropSeqs g).drainDropped g
    if (s.pav p).owner = some g then
      let s := { s with bellRel := s.bellRel.filter fun e => e.1 / 16 ≠ g }
      (s.updPav p fun v => { v with segRun := none, queued := [] }).resetCores p Core.gardenReset
    else s
  | .prot g old new => s.applyProt p g old (s.stagedProt g new)
  | .fabric _ _ =>
    let sends := s.sends.map fun e => if (s.pav p).restarts e then { e with sent := false, discard := false } else e
    ({ ((s.updPav p Pav.applyFabric).applyFootpaths p) with sends := sends }).identify p
  | .config es => es.foldl (fun s e =>
      if e.1 = cfgMarginMin then s.updPav p fun v => v.setF Reg.PV_CLK_CFG_MARGINMIN e.2.toNat
      else if e.1 = cfgStretchLimit then s.updPav p fun v => v.setF Reg.PV_CLK_CFG_STRETCHLIMIT e.2.toNat
      else if e.1 = cfgTHot then s.updPav p fun v => { v with tHot := e.2.toNat, hotSince := none, coolSince := none }
      else s) s
  | .divider _ _ idx => s.updPav p fun v => ({ v with planned := idx } : Pav).reindexChime s.alertHold
  | .capIndex idx => s.updPav p fun v => ({ v with capIdx := idx } : Pav).reindexChime s.alertHold
  | .run _ cores set => s.setRun p cores set
  | _ => s

def State.setEndTag (s : State) (code g tag : Nat) : State :=
  { s with tags := Fm.set 0 (endpointIdx code * 4 + g) (BitVec.ofNat 8 tag) s.tags }

/-- A garden reset at an orangery (R271): COLLECT, PREPARED and REFUSED act as DISCARD; a commit goes on. -/
def Ora.gardenReset (id g : Nat) (o : Ora) : Ora := if engines && o.mayDiscard g then o.discard id g else o

def State.portUp (s : State) (port : Nat) : Bool := (s.peerPort port).getF Reg.LN_PEER_STATUS_UP = 1

/-- A frame with the tag of its port: the configured VID and the frame's priority. -/
def State.peerTagged (s : State) (port : Nat) (f : PeerOut) : PeerTx :=
  let v := s.cfg (cfgPeerVlan port)
  ⟨f, if bitsOf v 12 1 = 1 then some (bitsOf v 0 12 + f.pcp * 2 ^ 13) else none⟩

/-- A peer port sends a frame: on a link that is up. -/
def State.peerFrame (s : State) (port : Nat) (f : Nat → PeerOut) : State :=
  if s.portUp port then s.updPeerPort port fun q => { q with frames := q.frames ++ [s.peerTagged port (f q.partnerMac)] } else s

/-- A receive entry sends a GENSYNC (R403). -/
def State.gensync (s : State) (e : PeerEntry) (tag : Nat) : State :=
  s.peerFrame e.port fun dest => .gensync dest e.key (BitVec.ofNat 8 tag)

/-- A peer bridge at a generation change: receive entries send GENSYNC, send entries leave DISCARD (R403, R404). -/
def State.peerGen (s : State) (ports : Nat → Bool) (g tag : Nat) : State :=
  let s := (s.recvs.filter fun e => e.garden = g && ports e.port).foldl (fun s e => s.gensync e tag) s
  { s with sends := s.sends.map fun e => if e.garden = g && ports e.port then { e with sent := false, discard := false, drained := true } else e }

def sameEntry (a b : PeerEntry) : Bool := a.port = b.port && a.garden = b.garden && a.avenue = b.avenue

def State.applyPeer (s : State) (g : Nat) (send add : Bool) (e : PeerEntry) : State :=
  match send, add with
  | true, true => { s with sends := s.sends.filter (fun x => !sameEntry x e) ++ [e] }
  | true, false => { s with sends := s.sends.filter fun x => !sameEntry x e }
  | false, true =>
    let s := { s with recvs := s.recvs.filter (fun x => !sameEntry x e) ++ [e] }
    s.gensync e (s.endTag (codePeer (s.bridgeOf e.port)) g).toNat
  | false, false => { s with recvs := s.recvs.filter fun x => !sameEntry x e }

/-- At its chime a spare carries the port (R414 step 5): its receive entries send GENSYNC. -/
def State.applyCarry (s : State) (port spare : Nat) : State :=
  if (s.swapOf port).isSome then s
  else
    let s := { s with swaps := s.swaps.map fun (w : Swap) => if w.port = port then { w with phase := 2 } else w }
    let s := s.updPeerPort port fun q => (q.setF Reg.LN_PEER_STATUS_SPARE 1).setF Reg.LN_PEER_STATUS_SPAREID spare
    let s := s.updSparePort spare fun q => (q.setF Reg.LN_SPARE_STATUS_INUSE 1).setF Reg.LN_SPARE_STATUS_CARRIES port
    (s.recvs.filter fun (e : PeerEntry) => e.port = port).foldl (fun s e => s.gensync e (s.endTag (codePeer 2) e.garden).toNat) s

/-- The cap and its windows (R488); 0 keeps the value in force. -/
def State.applyCap (s : State) (cap w1 w2 : Nat) (halved : Option Bool) : State :=
  let put (s : State) (f : Fld) (v : Nat) : State := if v = 0 then s else s.setPw f v
  let s := put (put (put s Reg.PW_CAP_CAP cap) Reg.PW_CAP_WIN1 w1) Reg.PW_CAP_WIN2 w2
  match halved with
  | none => s
  | some h => s.setPw Reg.PW_CAP_HALVED (if h then 1 else 0)

/-- The time source (R453): free-running has no trim; every source begins unlocked. -/
def State.applySource (s : State) (src : Nat) : State :=
  let s := ((s.setSd Reg.SD_TIME_SOURCE src).setSd Reg.SD_TIME_LOCKED 0).setSd Reg.SD_TIME_HOLDOVER 0
  let s := if src = 0 then s.setSd Reg.SD_TIME_TRIM 0 else s
  { s with disc := { s.disc with inRange := 0, lastEdge := none, lastSync := s.now, firstEdge := true, master := none, delaySent := none } }

/-- The configuration fields a unit holds take their new values (R653). -/
def State.applyConfig (s : State) (u : Nat) (es : List (Nat × Word)) : State :=
  let mine (f : Nat) : Bool :=
    (u = unitHost && cfgIsHost f) || (449 ≤ u && u < 453 && cfgIsPeer (u - 449) f) || (u = unitSundial && f = cfgPtpDomain)
  { s with cfgActive := (es.filter fun e => mine e.1).foldl (fun m e => Fm.set (cfgDefault e.1) e.1 e.2 m) s.cfgActive }

/-- One change at one unit. -/
def State.applyChange (s : State) (u : Nat) (c : Change) : State :=
  if u < 432 then s.applyPav u c
  else match c with
  | .snap => s.snapUnit u
  | .gen g tag =>
    if u < 448 then (s.setEndTag (codeOra (u - 432)) g tag).updOra (u - 432) (Ora.gardenReset (u - 432) g)
    else if u = unitHost then
      (((s.setEndTag codeHost g tag).setEndTag (codePeer 2) g tag).hostGen g).peerGen (fun p => (s.swapOf p).isSome) g tag
    else if u < 453 then
      (s.setEndTag (codePeer (bridgeLantern (u - 449))) g tag).peerGen (fun p => s.peerUnit p = u) g tag
    else s
  | .prot g _ new =>
    if u = unitHost then { s with bridge := { s.bridge with prot := Fm.set {} g (s.stagedProt g new) s.bridge.prot } } else s
  | .peer g send add e => s.applyPeer g send add e
  | .carry port spare => s.applyCarry port spare
  | .capWindows cap w1 w2 h => s.applyCap cap w1 w2 h
  | .config es => s.applyConfig u es
  | .time src => s.applySource src
  | _ => s

/-- Apply records whose T a unit's copy has reached, by kind (R462). The postmaster copies its own counters at the count at which the
sundial's unit copies its (R614). -/
def State.applyRecords (s : State) (u : Nat) (rs : List StageRec) : State :=
  (List.range 8).foldl (fun s k =>
    rs.foldl (fun s r =>
      let s := (r.changes.filter fun c => c.kind = k).foldl (fun s c => s.applyChange u c) s
      if k = 0 && u = unitSundial && r.changes.contains .snap then s.snapPost.setSd Reg.SD_SNAP_T_T (r.t.getD 0) else s) s) s

/-- A unit that has regained power takes the active values of every kind from the postmaster (R227, R464). -/
def State.refreshPav (s : State) (p : Nat) : State :=
  let owner := (List.range 4).find? fun g => (s.garden g).prot.pavs.contains p
  let s := (List.range 4).foldl (fun s g => s.updPav p (setTag g ((s.garden g).getF Reg.GD_STATUS_GEN))) s
  let s := match owner with
    | none => s.updPav p fun v => { v with owner := none, windows := [], map := [], mapStaged := [], planned := 0, unownedIdx := 7 }
    | some g =>
      let d := s.garden g
      let m := Fm.mapv 0 (fun _ c => 0x8000 + c) d.place
      s.updPav p fun v => { v with owner := some g, windows := d.prot.windows, map := m, mapStaged := m, planned := d.divider, unownedIdx := 0 }
  let s := s.updPav p fun v =>
    let v := v.setF Reg.PV_CLK_CFG_MARGINMIN (s.cfgNat cfgMarginMin)
    { v.setF Reg.PV_CLK_CFG_STRETCHLIMIT (s.cfgNat cfgStretchLimit) with
      tHot := s.cfgNat cfgTHot, seqs := [], capIdx := getF Reg.PW_STATUS_CAPIDX s.pw }
  s.identify p

/-! ### Clock sources (R443) -/

/-- The pavilion beyond a side. -/
def pavBeyond (p side : Nat) : Option Nat :=
  match side with
  | 0 => if p < 18 then none else some (p - 18)
  | 1 => if p % 18 = 17 then none else some (p + 1)
  | 2 => if 414 ≤ p then none else some (p + 18)
  | _ => if p % 18 = 0 then none else some (p - 1)

/-- A neighbour a pavilion may take its clock from. -/
def State.eligible (s : State) (p side : Nat) : Option Nat :=
  match pavBeyond p side with
  | none => none
  | some q =>
    let v := s.pav q
    if v.powered && v.getF Reg.PV_CLK_STATUS_LOCKED = 1 && v.getF Reg.PV_CLK_STATUS_HOLDOVER = 0 &&
       pavBeyond q (v.getF Reg.PV_CLK_STATUS_SOURCE) ≠ some p
    then some (v.getF Reg.PV_CLK_STATUS_DEPTH) else none

/-- The source side a pavilion chooses: the north edge in row 0, else the eligible neighbour of least depth, ties north,
west, east, south. -/
def State.chooseSource (s : State) (p : Nat) : Option Nat :=
  if p < 18 then some 0
  else
    ([0, 3, 1, 2].foldl (fun (b : Option (Nat × Nat)) side =>
      match s.eligible p side, b with
      | none, _ => b
      | some d, none => some (side, d)
      | some d, some (_, d0) => if d < d0 then some (side, d) else b) none).map Prod.fst

/-- The routers of a pavilion on one of its sides. -/
def sideRouters (p side : Nat) : List Nat :=
  (List.range 8).map fun i => coreAt p (match side with | 0 => i | 1 => 8 * i + 7 | 2 => 56 + i | _ => 8 * i)

/-- Each link of a pavilion to another: router and side. -/
def pavLinks (p : Nat) : List (Nat × Nat) :=
  (List.range 4).flatMap fun side =>
    if (pavBeyond p side).isSome then (sideRouters p side).map fun r => (r, side) else []

/-- The links of a pavilion to live neighbours are held off in both directions (R200, R445). -/
def State.holdLinks (s : State) (p : Nat) : State :=
  (pavLinks p).foldl (fun s l =>
    match neighbour l.1 l.2 with
    | some r2 => if s.fabricOn r2 then (s.setUp l.1 l.2 false).setUp r2 (opposite l.2) false else s
    | none => s) s

end Sys2Proof.Machine
end

