-- ==== Sys2Proof/Machine/ImageOps.lean ====
section
/-! DEFINITION. Garden images and protection records (08_gardens_and_mapping.md, R300-R305, R341, R541): the header, the
directory and the sections read from bytes, every check of them. The layouts of the records of PROGRAM, RESIDENT, AVENUES,
BELLS, WINDOWS, UPDATE and LAYERS, whose contents alone R304 gives, are the model's (log entry 27). -/

namespace Sys2Proof.Machine

/-- Bytes [off, off + n) as a number. -/
def num (bs : List Byte) (off n : Nat) : Nat := leVal ((bs.drop off).take n)
def slice (bs : List Byte) (off n : Nat) : List Byte := (bs.drop off).take n
def zeroAt (bs : List Byte) (off n : Nat) : Bool := num bs off n = 0

/-! ### Records -/

/-- `n` little-endian words of four bytes. -/
def words4 (bs : List Byte) (n : Nat) : List Nat := (chunks 4 n bs).map leVal

/-- A parser of one record: what it reads and the bytes after it. -/
abbrev Reader (α : Type) := List Byte → Option (α × List Byte)

/-- `n` records, which use up the section. -/
def records {α : Type} (one : Reader α) : Nat → List Byte → Option (List α)
  | 0, bs => if bs.isEmpty then some [] else none
  | n + 1, bs =>
    match one bs with
    | none => none
    | some (a, rest) => (records one n rest).map (a :: ·)

/-- PROGRAM: 0:4 WORDS, 4:4 ENTRY, 8:4 NCORES, the cores, the words. -/
def readProg : Reader ProgRec := fun bs =>
  let w := num bs 0 4
  let n := num bs 8 4
  let len := 12 + 4 * (n + w)
  if bs.length < len ∨ 8192 < w ∨ 8192 ≤ num bs 4 4 then none
  else some ({ entry := num bs 4 4, cores := words4 (bs.drop 12) n,
               words := (words4 (bs.drop (12 + 4 * n)) w).map (BitVec.ofNat 32) }, bs.drop len)

/-- RESIDENT: 0:4 LCORE, 4:4 OFFSET, 8:4 LENGTH, the bytes, padded to 8 B. -/
def readResident : Reader ResRec := fun bs =>
  let n := num bs 8 4
  let len := (12 + n + 7) / 8 * 8
  if bs.length < len then none
  else some ({ core := num bs 0 4, off := num bs 4 4, bytes := slice bs 12 n }, bs.drop len)

/-- A path of a route hint: 0:4 N, then N sites of 4 B as in PLACE. -/
def readPath : Reader (List Nat) := fun bs =>
  let n := num bs 0 4
  if bs.length < 4 + 4 * n then none else some (words4 (bs.drop 4) n, bs.drop (4 + 4 * n))

def readPaths : Nat → List Byte → Option (List (List Nat) × List Byte)
  | 0, bs => some ([], bs)
  | n + 1, bs =>
    match readPath bs with
    | none => none
    | some (p, rest) => (readPaths n rest).map fun r => (p :: r.1, r.2)

/-- AVENUES: 0:2 AVENUE, 2:2 peer port or 0xFFFF, 4:4 SOURCE, 8:4 NDEST, 12:4 NHINT, the delivering cores, NHINT paths. -/
def readAvenue : Reader AveRec := fun bs =>
  let n := num bs 8 4
  if bs.length < 16 + 4 * n then none
  else match readPaths (num bs 12 4) (bs.drop (16 + 4 * n)) with
    | none => none
    | some (hint, rest) =>
      some ({ avenue := num bs 0 2, source := num bs 4 4, dests := words4 (bs.drop 16) n,
              peer := if num bs 2 2 = 0xFFFF then none else some (num bs 2 2), hint := hint }, rest)

/-- BELLS: for each bell 0:4 N, then N cores. -/
def readBell : Reader (List Nat) := readPath

/-- WINDOWS: 0:4 LBASE, 4:4 SIZE, 8:1 bit 0 RD, 1 WR, 2 HOST; 9:7 reserved. -/
def readWindow : Reader Window := fun bs =>
  let f := num bs 8 1
  if bs.length < 16 ∨ 8 ≤ f ∨ !zeroAt bs 9 7 then none
  else some ({ lbase := num bs 0 4, size := num bs 4 4, rd := f.testBit 0, wr := f.testBit 1, host := f.testBit 2 }, bs.drop 16)

/-- A layer of UPDATE: 0:2 ID, 2:6 reserved, the descriptor of R264 with garden-view bases, the freeze masks of its
granules where MASK is set. -/
def readLayer : Reader LayerRec := fun bs =>
  let ws := (chunks 8 8 (bs.drop 8)).map fun c => BitVec.ofNat 64 (leVal c)
  let l := decodeLayer 0 ws
  let n := if l.mask then 128 * l.granules else 0
  if bs.length < 72 + n ∨ !zeroAt bs 2 6 then none
  else some ({ id := num bs 0 2, words := ws, masks := slice bs 72 n }, bs.drop (72 + n))

/-- UPDATE: 0:8 arena base, 8:8 arena size, 16:4 NLAYERS, 20:4 reserved, the layers. -/
def readPlan (bs : List Byte) : Option Plan :=
  if bs.length < 24 ∨ !zeroAt bs 20 4 then none
  else (records readLayer (num bs 16 4) (bs.drop 24)).map fun ls => { arenaBase := num bs 0 8, arenaSize := num bs 8 8, layers := ls }

/-! ### Envelopes (R541) -/

def f32nan (x : Nat) : Bool := fp32.decode x = .nan

def readEnvelope : Reader Envelope := fun bs =>
  let f (o : Nat) : W32 := BitVec.ofNat 32 (num bs o 4)
  let e : Envelope := { envid := num bs 0 2, checks := num bs 2 2, count := BitVec.ofNat 64 (num bs 8 8), lo := f 16, hi := f 20,
                        maxabs := f 24, meanLo := f 28, meanHi := f 32, rmsLo := f 36, rmsHi := f 40, zeroMax := f 44 }
  let on (k : Nat) : Bool := e.checks.testBit k
  let bad := (on 3 && (f32nan e.lo.toNat || f32nan e.hi.toNat)) || (on 4 && f32nan e.maxabs.toNat) ||
             (on 5 && (f32nan e.meanLo.toNat || f32nan e.meanHi.toNat)) || (on 6 && (f32nan e.rmsLo.toNat || f32nan e.rmsHi.toNat)) ||
             (on 7 && f32nan e.zeroMax.toNat)
  if bs.length < 48 ∨ 4096 ≤ e.envid ∨ 256 ≤ e.checks ∨ !zeroAt bs 4 4 ∨ bad then none else some (e, bs.drop 48)

/-- Strictly rising. -/
def rising : List Nat → Bool
  | a :: b :: l => a < b && rising (b :: l)
  | _ => true

/-! ### The directory (R303) -/

structure Sect where
  type : Nat
  count : Nat
  off : Nat
  len : Nat
  deriving DecidableEq, Repr

def readSect (bs : List Byte) (i : Nat) : Sect :=
  let e := bs.drop (64 + 32 * i)
  { type := num e 0 2, count := num e 4 4, off := num e 8 8, len := num e 16 8 }

/-- FLAGS and the last 8 B of a directory entry are reserved. -/
def sectRsvOk (bs : List Byte) (i : Nat) : Bool := zeroAt bs (64 + 32 * i + 2) 2 && zeroAt bs (64 + 32 * i + 24) 8

def sectsApart : List Sect → Bool
  | [] => true
  | a :: l => l.all (fun b => !overlaps (a.off, a.len) (b.off, b.len) && a.type ≠ b.type) && sectsApart l

/-- Types a mode requires and forbids (R304). -/
def sectsFit (mode : Nat) (ss : List Sect) : Bool :=
  let has (t : Nat) : Bool := ss.any fun x => x.type = t
  ss.all (fun x => 1 ≤ x.type && x.type ≤ 9) && has 2 &&
  (if mode = 0 then has 1 && !has 9 else !has 1 && has 9)

/-! ### The image -/

/-- CAP_CHAIN.LANES and CAP_CUBE.FORMATS of the module. -/
def capLanes : Nat := getF Reg.CAP_CHAIN_LANES []
def capFormats : Nat := getF Reg.CAP_CUBE_FORMATS []

/-- The header of R300 under R301. -/
def headerOk (bs : List Byte) : Bool :=
  let mode := num bs 6 1
  let foot (v hi : Nat) : Bool := if mode = 0 then 1 ≤ v && v ≤ hi else v = 0
  64 ≤ bs.length && num bs 0 4 = 0x49474C57 && num bs 4 2 = 1 && mode < 2 && num bs 7 1 < 2 &&
  1 ≤ num bs 8 4 && num bs 8 4 ≤ 25600 && foot (num bs 12 2) 18 && foot (num bs 14 2) 24 && num bs 16 8 ≤ bs.length &&
  1 ≤ num bs 24 4 && num bs 24 4 ≤ 64 && 64 + 32 * num bs 24 4 ≤ num bs 16 8 &&
  (num bs 28 1 = 0 || num bs 28 1 = capLanes) && zeroAt bs 29 1 && num bs 30 2 &&& capFormats = num bs 30 2 &&
  zeroAt bs 37 3 && zeroAt bs 48 16

/-- WATCHDOG_MS and DIVIDER as used (R302). -/
def clampWatchdog (v : Nat) : Nat := if v = 0 then 0 else clampTo 1000 600000 v

/-- Clamp entries of an image (R302, R530): a value raised to its least is rule 1, lowered to its greatest rule 2. -/
def imageClamps (bs : List Byte) : List Clamp :=
  let one (field asked used : Nat) : List Clamp :=
    if asked = used then []
    else [{ field := field, rule := if asked < used then 1 else 2, asked := BitVec.ofNat 64 asked, used := BitVec.ofNat 64 used }]
  one 0xF020 (num bs 32 4) (clampWatchdog (num bs 32 4)) ++ one 0xF024 (num bs 36 1) (min 7 (num bs 36 1))

/-- Checks of the sections together (R304, R305). -/
def Image.sectionsOk (i : Image) : Bool :=
  let cores := i.programs.flatMap fun p => p.cores
  i.place.eraseDups.length = i.place.length && i.place.all (fun p => p.1 < 8 * i.footW && p.2 < 8 * i.footH) &&
  (i.mode ≠ 0 || i.place.length = i.size) &&
  cores.eraseDups.length = cores.length && cores.length = i.size && cores.all (· < i.size) &&
  i.resident.all (fun r =>
    (r.core = 0xFFFFFFFF || r.core < i.size) && r.off + r.bytes.length ≤ spadBytes &&
    (i.mode = 0 || (0x5F0000 ≤ r.off && r.off + r.bytes.length ≤ 0x600000))) &&
  (i.mode = 0 || i.avenues.all fun a => a.hint.isEmpty) &&
  i.avenues.all (fun a =>
    a.avenue < 1024 && (a.source < i.size || (0x80000000 ≤ a.source && a.peer.isSome)) && a.dests.all (· < i.size) &&
    a.peer.all (· < 16) && (a.peer.isSome || !a.dests.isEmpty) && (a.hint.isEmpty || a.hint.length = a.dests.length)) &&
  i.bells.all (fun b => b.all (· < i.size)) && rising (i.envelopes.map fun e => e.envid)

/-- The image that bytes spell; none where R301, R303, R304, R305 or R541 refuse it. -/
def readImage (bs0 : List Byte) : Option Image :=
  if !headerOk bs0 then none
  else
    let bs := bs0.take (num bs0 16 8)
    let n := num bs 24 4
    let ss := (List.range n).map (readSect bs)
    let fit := ss.all fun x => x.off % 8 = 0 && 64 + 32 * n ≤ x.off && x.off + x.len ≤ bs.length
    if !fit || !((List.range n).all (sectRsvOk bs)) || !sectsApart ss || !sectsFit (num bs 6 1) ss then none
    else
      let sect (t : Nat) : Option Sect := ss.find? fun x => x.type = t
      let body (x : Sect) : List Byte := slice bs x.off x.len
      let recs {α : Type} (t : Nat) (one : Reader α) : Option (List α) :=
        match sect t with
        | none => some []
        | some x => records one x.count (body x)
      let place : List (Nat × Nat) := match sect 1 with
        | none => []
        | some x => (words4 (body x) (x.len / 4)).map fun w => (w % 65536, w / 65536)
      let layers : List Byte := match sect 9 with
        | none => []
        | some x => body x
      match recs 2 readProg, recs 3 readResident, recs 4 readAvenue, recs 5 readBell, recs 6 readWindow, recs 8 readEnvelope with
      | some ps, some rs, some aves, some bells, some wins, some envs =>
        let planOk := match sect 7 with
          | none => num bs 7 1 = 0
          | some x => num bs 7 1 = 1 && (readPlan (body x)).isSome
        let i : Image :=
          { mode := num bs 6 1, flags := num bs 7 1, size := num bs 8 4, footW := num bs 12 2, footH := num bs 14 2,
            watchdog := clampWatchdog (num bs 32 4), divider := min 7 (num bs 36 1), place := place, programs := ps, resident := rs,
            avenues := aves, bells := bells, windows := wins, plan := (sect 7).bind fun x => readPlan (body x), envelopes := envs,
            layers := layers, hash := Config.sha384 bs }
        let bellsOk := bells.length = 0 || bells.length = 16
        if planOk && bellsOk && i.sectionsOk then some i else none
      | _, _, _, _, _, _ => none

/-! ### Protection records (R341) -/

def readWin (b : List Byte) : Window :=
  let f := num b 12 1
  { lbase := num b 0 4, pbase := num b 4 4, size := num b 8 4, rd := f.testBit 0, wr := f.testBit 1, host := f.testBit 2,
    keep := f.testBit 3 }

def readProt (bs : List Byte) : Protection :=
  { pavs := (List.range Config.pavilions).filter fun p => (num bs (p / 8) 1).testBit (p % 8), peer := num bs 56 2,
    host := num bs 58 1 % 4, annex := num bs 60 1 % 2 = 1,
    windows := (chunks 16 (num bs 61 1) (bs.drop 64)).map readWin, raw := bs }

/-- Reserved bits and ranges of a protection record. -/
def protFieldsOk (bs : List Byte) : Bool :=
  zeroAt bs 54 2 && num bs 56 4 < 2 ^ 18 && num bs 60 1 < 2 && num bs 61 1 ≤ 16 && zeroAt bs 62 2 &&
  (chunks 16 (num bs 61 1) (bs.drop 64)).all fun w => num w 12 1 < 16 && zeroAt w 13 3

/-- The windows of one garden against one another and the others' (R294). -/
def Window.logical (w : Window) : Nat × Nat := (w.lbase, w.size)
def Window.physical (w : Window) : Nat × Nat := (w.pbase, w.size)

def windowsApart : List Window → Bool
  | [] => true
  | w :: ws => ws.all (fun v => !overlaps w.logical v.logical && !overlaps w.physical v.physical) && windowsApart ws

def windowFits (w : Window) : Bool :=
  (w.lbase + w.size) * 65536 ≤ viewSlowEnd - viewSlow && (w.pbase + w.size) * 65536 ≤ Config.slowBytes

def windowsOk (ws others : List Window) : Bool :=
  windowsApart ws && ws.all windowFits &&
  ws.all fun w => others.all fun v => !overlaps w.physical v.physical || (!w.wr && !v.wr)

/-- A set of pavilions connected under the four adjacencies (R280). -/
def adjacent (p q : Nat) : Bool :=
  (p / 18 = q / 18 && (p + 1 = q || q + 1 = p)) || (p % 18 = q % 18 && (p + 18 = q || q + 18 = p))

/-- The part of `todo` reached from `seen`. -/
def spread : Nat → List Nat → List Nat → List Nat
  | 0, _, todo => todo
  | n + 1, seen, todo =>
    let next := todo.filter fun p => seen.any (adjacent p)
    if next.isEmpty then todo else spread n next (todo.filter fun p => !next.contains p)

def connected (ps : List Nat) : Bool :=
  match ps with
  | [] => false
  | p :: rest => (spread rest.length [p] rest).isEmpty

end Sys2Proof.Machine
end

