-- ==== Sys2Proof/Machine/MailOps.lean ====
section
/-! DEFINITION. Mailboxes (09_postmaster.md, R321-R339): channels and roles, the letter catalogue's roles, lengths and
gardens, acceptance, receipts and dead letters, letters waiting for others. -/

namespace Sys2Proof.Machine

/-! ### Roles (R322, R338, R339) -/

/-- Public 1, owner 2, tenant 4, management 8. -/
def roleP : Nat := 1
def roleO : Nat := 2
def roleT : Nat := 4
def roleM : Nat := 8

/-- The role of a channel; 0 unbound. -/
def State.roleOf (s : State) (ch : Nat) : Nat :=
  if ch = 0 then roleP else if ch = 2 ∨ ch = 3 then roleM else (s.chan ch).role

/-- BOUND of PM_MBX_STATUS: 1 Iturn session, 2 SMBus, 3 test access. -/
def State.boundOf (s : State) (ch : Nat) : Nat :=
  if ch = 0 then 1 else if ch = 2 then 2 else if ch = 3 then 3 else if (s.chan ch).role = 0 then 0 else 1

/-- The gardens a tenant's session is bound to. -/
def State.boundGardens (s : State) (ch : Nat) : Nat := ((s.session (s.chan ch).session).map fun x => x.gardens).getD 0

/-- Roles a code is permitted to (R339); 0 where the code is not in the catalogue. -/
def letterRoles (code : Nat) : Nat :=
  match code with
  | 0x01 => roleP
  | 0x02 => roleO + roleT
  | 0x03 => 15
  | 0x04 => roleO + roleT
  | 0x05 | 0x06 => roleO
  | 0x10 | 0x11 | 0x12 | 0x13 => roleO + roleT + roleM
  | 0x20 | 0x24 | 0x25 => roleO
  | 0x21 | 0x22 | 0x23 | 0x27 | 0x28 | 0x29 => roleO + roleT
  | 0x26 => roleO + roleT + roleM
  | 0x40 | 0x41 | 0x42 | 0x50 | 0x52 => roleO + roleT
  | 0x51 => roleO + roleT + roleM
  | 0x53 => roleO
  | 0x54 => roleO + roleM
  | 0x60 | 0x62 | 0x64 | 0x65 => roleO
  | 0x61 | 0x63 | 0x66 => roleO + roleM
  | 0x70 => roleO + roleT + roleM
  | 0x71 => roleO
  | 0x72 | 0x74 | 0x75 => roleO + roleM
  | 0x73 => roleO + roleT + roleM
  | 0x80 | 0x81 => 15
  | 0x82 | 0x83 | 0x84 => roleO
  | 0x90 | 0x91 => roleO + roleT
  | 0x92 => roleO
  | 0x93 => roleO + roleT + roleM
  | _ => 0

/-- Codes whose GARDEN must name a garden, and those where a tenant may name one (R339). -/
def needsGarden (code : Nat) : Bool :=
  (0x20 ≤ code && code ≤ 0x29) || (0x40 ≤ code && code ≤ 0x42) || [0x50, 0x52, 0x64, 0x90, 0x91].contains code
def mayNameGarden (code : Nat) : Bool := code = 0x70 || code = 0x73 || code = 0x51

/-- Bytes [off, off + n) of a body as a number. -/
def Letter.field (l : Letter) (off n : Nat) : Nat := leVal ((l.body.drop off).take n)

/-- The body has the length its code asks for (R339, R341, R605). -/
def Letter.lenOk (l : Letter) : Bool :=
  let n := l.length
  match l.code with
  | 0x01 => n = 1256
  | 0x03 | 0x04 | 0x06 | 0x53 | 0x71 | 0x72 | 0x82 => n = (if l.code = 0x53 then 4 else 8)
  | 0x10 | 0x70 => n = 10
  | 0x11 => n = 16 + 8 * l.field 8 2
  | 0x12 | 0x64 | 0x65 | 0x66 | 0x74 | 0x93 => n = 1
  | 0x20 | 0x25 => 64 ≤ n && n = 64 + 16 * l.field 61 1
  | 0x21 | 0x27 | 0x28 | 0x90 => n = 16
  | 0x40 | 0x42 => n = 24
  | 0x41 | 0x52 => n = 4
  | 0x60 => 0 < n && n % 16 = 0 && n / 16 ≤ 254
  | 0x61 => n = 6
  | 0x62 => n = 8
  | 0x63 => n = 12
  | 0x73 => n = 14
  | 0x80 => n = 32
  | 0x84 => n = 1992
  | 0x91 | 0x92 => n = 2
  | _ => n = 0

/-- Letters of class I that only read state and never wait (R326): a REG_READ waits for earlier letters about registers alone
(R340). -/
def readsOnly (code : Nat) : Bool :=
  [0x03, 0x05, 0x10, 0x12, 0x26, 0x51, 0x54, 0x61, 0x70, 0x73, 0x74, 0x75, 0x80, 0x81, 0x93].contains code

/-! ### Receipts (R327, R330-R333) -/

structure Detail where
  unit : Nat := 0
  unitId : Nat := 0
  offset : Nat := 0xFFFF
  context : Word := 0
  deriving DecidableEq, Repr

def Detail.bytes (d : Detail) : List Byte :=
  leBytes 1 d.unit ++ leBytes 1 0 ++ leBytes 2 d.unitId ++ leBytes 2 d.offset ++ leBytes 2 0 ++ leBytes 8 d.context.toNat

/-- Dead-letter reasons (R334). -/
def dVersion : Nat := 0x01
def dLength : Nat := 0x02
def dSequence : Nat := 0x03
def dCode : Nat := 0x04
def dRole : Nat := 0x05
def dGarden : Nat := 0x06
def dAbsent : Nat := 0x07
def dState : Nat := 0x08
def dField : Nat := 0x09
def dResource : Nat := 0x0A
def dImage : Nat := 0x0B
def dPlacement : Nat := 0x0C
def dProtection : Nat := 0x0D
def dSignature : Nat := 0x0E
def dPoisoned : Nat := 0x0F
def dAbandoned : Nat := 0x10
def dStage : Nat := 0x11
def dRestarted : Nat := 0x12
def dCheckpoint : Nat := 0x13
def dPlan : Nat := 0x14

def Accepted.receipt (a : Accepted) (status reason : Nat) (body : List Byte) (chime : Nat) (clamps : List Clamp) : Receipt :=
  { code := a.letter.code, garden := a.letter.garden, session := a.letter.session, sequence := a.letter.sequence,
    flags := 1 + (if status = 2 then 2 else 0) + (if a.deferred then 4 else 0) + (if clamps.isEmpty then 0 else 8),
    status := status, reason := reason, tag := a.letter.tag, chime := BitVec.ofNat 64 chime,
    waited := a.waited, waitedSeq := a.waitedSeq, body := body, clamps := clamps }

/-- A receipt into the outbound queue of a channel, or held while its slots are full; an Iturn channel's goes out in a
RECEIPT frame at once, the public session's to the sender of its letter (R327, R384). -/
def State.enqueue (s : State) (ch : Nat) (path : Path) (r : Receipt) : State :=
  let s := if r.status = 2 then s.updChan ch fun c => c.incF Reg.PM_MBX_CNT_DEAD 1 else s
  if ch = 0 then
    (s.updBridge fun b => { b with publicCe := false }).emit
      { path := path, type := 2, flags := b01 s.bridge.publicCe, slots := s.slots 0, length := r.bytes.length, payload := r.bytes }
  else if (s.chan ch).outSlots.length < 8 ∧ (s.chan ch).heldOut = [] then
    let s := s.updChan ch fun c => { c with outSlots := c.outSlots ++ [r] }
    s.queueContent (s.chan ch).session [.receipt r]
  else s.updChan ch fun c => { c with heldOut := c.heldOut ++ [r] }

/-- The receipt of an accepted letter: kept for repeats (R325), placed unless its channel has been reset (R328). -/
def State.place (s : State) (a : Accepted) (r : Receipt) : State :=
  if a.mute then s
  else
    let s := s.updChan a.channel fun c =>
      { c with recent := c.recent.map fun e => if e.1 = a.letter.sequence then (e.1, some r) else e }
    s.enqueue a.channel a.path r

def State.drop (s : State) (a : Accepted) : State := s.updPost fun p => { p with accepted := p.accepted.erase a }

/-- Answer a letter DONE. -/
def State.reply (s : State) (a : Accepted) (body : List Byte) (chime : Nat := 0) (clamps : List Clamp := []) : State :=
  (s.drop a).place a (a.receipt 0 0 body chime clamps)

/-- Answer a letter NOT_SEALED (R332). -/
def State.notSealed (s : State) (a : Accepted) (reason : Nat) (body : List Byte) : State :=
  (s.drop a).place a (a.receipt 1 reason body 0 [])

/-- Answer a letter with a dead letter (R333). -/
def State.dead (s : State) (a : Accepted) (reason : Nat) (d : Detail := {}) : State :=
  (s.drop a).place a (a.receipt 2 reason d.bytes 0 [])

/-- A change of a letter begins: the letter is answered when the change ends. -/
def State.begin (s : State) (a : Accepted) (j : Job) : State :=
  let a' := { a with acting := true }
  (s.drop a).addJob { j with letter := some a' }

/-- A letter waits for another change (R330, R335): WAITED and WAITED_SEQ name the letter waited for, 0 for the module's
own. -/
def State.defer (s : State) (a : Accepted) (code seq : Nat) : State :=
  s.updPost fun p => { p with accepted := p.accepted.map fun x =>
    if x = a then { x with deferred := true, waited := if x.deferred then x.waited else code,
                           waitedSeq := if x.deferred then x.waitedSeq else seq } else x }

/-! ### Letters waiting for others (R326, R298, R308) -/

def Letter.actsOn (l : Letter) : Option Nat :=
  if needsGarden l.code && !readsOnly l.code then some l.garden else none

/-- A letter that holds back later letters of its garden: a checkpoint is taken while they act (R429, log entry 30). -/
def Letter.holds (l : Letter) (g : Nat) : Bool := l.actsOn = some g && l.code ≠ 0x50

/-- Class L (R321, R339). -/
def classL (code : Nat) : Bool := [0x21, 0x24, 0x27, 0x28, 0x42, 0x50, 0x52, 0x83, 0x92].contains code

def Accepted.ctx (a : Accepted) : Word := ctxOf 4 a.letter.garden (a.channel * 2 ^ 32 + a.letter.sequence)

/-- Letters in progress, with a change of their own. -/
def State.acting (s : State) : List Accepted := s.post.jobs.filterMap fun j => j.letter

/-- A many-unit change of garden `g` that a later PROTECT_SET waits for (R298): a load, a relief or a table change. -/
def Job.changesGarden (j : Job) (g : Nat) : Bool :=
  j.garden = g && (match j.kind with
    | .create | .load | .protect | .relief | .release | .peerOpen | .peerClose | .gardenReset | .replay | .restore => true
    | _ => false)

/-- Letters accepted before one that have not begun to act. -/
def State.before (s : State) (a : Accepted) : List Accepted := s.post.accepted.takeWhile fun b => b ≠ a

/-- A letter waits for an earlier one on its garden. -/
def State.blocked (s : State) (a : Accepted) : Bool :=
  match a.letter.actsOn with
  | none => false
  | some g =>
    (classL a.letter.code && s.heldCtx g a.ctx) || (a.letter.code = 0x25 && s.post.jobs.any fun j => j.changesGarden g) ||
    (s.acting.any fun b => b.letter.holds g) || (s.before a).any fun b => b.letter.holds g

def regLetter (code : Nat) : Bool := code = 0x10 || code = 0x11

/-- A letter's turn in acceptance order (R326, R340): every earlier letter that does not itself wait has acted. A letter that only reads
waits for none, but of REG_READ and REG_WRITE of one channel each waits for the earlier ones. -/
def State.inTurn (s : State) (a : Accepted) : Bool :=
  (s.before a).all fun b =>
    if regLetter a.letter.code && regLetter b.letter.code && a.channel = b.channel then false
    else readsOnly a.letter.code || readsOnly b.letter.code || b.deferred || s.blocked b

/-- The postmaster is in service (R352). -/
def State.inService (s : State) : Bool := getF Reg.PM_STATUS_STATE s.pm = 2

/-- The context a letter is the owning letter of (R571): its kind, and its IDENT where the letter names one. -/
def Letter.owns (l : Letter) (ctx : Word) : Bool :=
  bitsOf ctx 48 8 = l.garden && match l.code with
  | 0x22 | 0x27 => bitsOf ctx 56 8 = 1
  | 0x41 => bitsOf ctx 56 8 = 2 && bitsOf ctx 0 48 = l.field 0 4
  | 0x91 => bitsOf ctx 56 8 = 3 && bitsOf ctx 0 16 = l.field 0 2
  | _ => false

/-- The poisoned context a letter is to be answered for, without acting (R573). -/
def State.owed (s : State) (a : Accepted) : Option Word :=
  ((s.garden a.letter.garden).owed.find? fun e => e.2 = a.channel && a.letter.owns e.1).map Prod.fst

def State.payOwed (s : State) (a : Accepted) (ctx : Word) : State :=
  let s := s.updGarden a.letter.garden fun d => { d with owed := d.owed.filter fun e => e.1 ≠ ctx }
  s.dead a dPoisoned { context := ctx }

/-- The oldest accepted letter of a code on a channel acts when its turn has come, unless it waits for another. -/
def onLetter (code ch : Nat) (s : State) (f : Accepted → State → State) : Res :=
  onChan ch s fun s =>
    if !s.inService then s
    else match s.post.accepted.find? (fun a => a.letter.code = code && a.channel = ch && !s.blocked a && s.inTurn a) with
      | none => s
      | some a => match s.owed a with
        | some ctx => s.payOwed a ctx
        | none => f a s

/-! ### Acceptance (R324, R325, R335) -/

/-- The header's own checks: VERSION and LENGTH. -/
def Slotted.headOk (x : Slotted) : Option Nat :=
  let l := x.letter
  if l.version ≠ 1 || l.rsv ≠ 0 || l.flags ≠ 0 || l.status ≠ 0 || l.reason ≠ 0 then some dVersion
  else if 4064 < l.length || !x.fits || (letterRoles l.code ≠ 0 && !l.lenOk) then some dLength
  else none

inductive SeqCheck where
  | fresh | again | bad
  deriving DecidableEq, Repr

def Chan.seqCheck (c : Chan) (seq : Nat) : SeqCheck :=
  match c.lastSeq with
  | none => .fresh
  | some n =>
    if seq = (n + 1) % 2 ^ 32 then .fresh else if c.recent.any fun e => e.1 = seq then .again else .bad

/-- CODE, ROLE and GARDEN. -/
def State.catalogueCheck (s : State) (ch : Nat) (l : Letter) : Option Nat :=
  let role := s.roleOf ch
  if letterRoles l.code = 0 then some dCode
  else if letterRoles l.code &&& role = 0 then some dRole
  else if needsGarden l.code then
    if 4 ≤ l.garden || (role = roleT && !(s.boundGardens ch).testBit l.garden) then some dGarden else none
  else if l.garden = 0xFF then none
  else if role = roleT && mayNameGarden l.code && l.garden < 4 && (s.boundGardens ch).testBit l.garden then none
  else some dGarden

/-- The regions of a plan in the garden view (R264). -/
def Plan.regions (p : Plan) : List (Nat × Nat) :=
  (p.arenaBase, p.arenaSize) :: p.layers.flatMap fun r => (decodeLayer r.id r.words).regions

/-- New windows take write access from a region of the garden's plan: what the old ones gave at a physical place, they do not (R297). -/
def State.hurtsPlan (s : State) (g : Nat) (ws : List Window) : Bool :=
  let at_ (ws : List Window) (r : Nat × Nat) : Option Nat := slowWindow ws r.1 r.2 .store
  ((s.garden g).image.bind fun i => i.plan).any fun p =>
    p.regions.any fun r => (at_ (s.garden g).prot.windows r).isSome && at_ ws r ≠ at_ (s.garden g).prot.windows r

/-- Letters that change a garden's pavilions, map or tables, for the end of which a later PROTECT_SET waits (R298). -/
def changesCode (code : Nat) : Bool := [0x20, 0x21, 0x24, 0x25, 0x29, 0x52, 0x90, 0x91].contains code

/-- DEFERRED, WAITED and WAITED_SEQ of a letter accepted after others: what it waits for (R272, R298, R308, R330). -/
def State.waitsFor (s : State) (before : List Accepted) (l : Letter) : Option (Nat × Nat) :=
  let name (a : Option Accepted) : Nat × Nat :=
    match a with
    | none => (0, 0)
    | some a => (a.letter.code, a.letter.sequence)
  let sealing : Option (Nat × Nat) :=
    if (s.garden l.garden).committing then
      (s.post.jobs.find? fun j => j.kind = .seal && j.garden = l.garden).map fun j => name j.letter
    else none
  match l.code with
  | 0x25 =>
    match s.post.jobs.find? (fun j => j.changesGarden l.garden) with
    | some j => some (name j.letter)
    | none =>
      match before.find? fun b => changesCode b.letter.code && b.letter.actsOn = some l.garden with
      | some b => some (name (some b))
      | none => if s.hurtsPlan l.garden (readProt l.body).windows then sealing else none
  | 0x24 | 0x28 => sealing
  | 0x20 =>
    match (s.acting ++ before).find? (fun a => a.letter.code = 0x24 && a.letter.garden = l.garden) with
    | some a => some (name (some a))
    | none => none
  | _ => none

/-- A letter whose SEQUENCE repeats a recent one: its receipt again, marked, where there is one. -/
def State.acceptAgain (s : State) (ch : Nat) (x : Slotted) : State :=
  let counted := s.updChan ch fun c => c.incF Reg.PM_MBX_CNT_REPEAT 1
  match ((s.chan ch).recent.find? fun e => e.1 = x.letter.sequence).bind Prod.snd with
  | some r => counted.enqueue ch x.path { r with flags := r.flags ||| 16 }
  | none => counted

/-- The acceptance of a letter as it will act, marked deferred where it waits for another. -/
def State.marked (s : State) (before : List Accepted) (a : Accepted) : Accepted :=
  if a.deferred then a
  else match s.waitsFor before a.letter with
    | some w => { a with deferred := true, waited := w.1, waitedSeq := w.2 }
    | none => a

/-- Letters accepted that have come to wait for a change begun since (R298, R330). -/
def State.markWaiting (s : State) : State :=
  s.updPost fun p => { p with accepted := p.accepted.map fun a => s.marked (s.before a) a }

/-- A letter new to its channel: it consumes its SEQUENCE, and waits to act or is answered dead (R324, R326). -/
def State.acceptNew (s : State) (ch : Nat) (a : Accepted) : State :=
  let s := if ch = 0 then s else s.updChan ch fun c =>
    { c with lastSeq := some a.letter.sequence, recent := ((a.letter.sequence, none) :: c.recent).take 16 }
  match s.catalogueCheck ch a.letter with
  | some why => s.place a (a.receipt 2 why ({} : Detail).bytes 0 [])
  | none =>
    let a := s.marked s.post.accepted a
    let s := if a.deferred && a.letter.code = 0x20 then s.updGarden a.letter.garden fun d => d.setF Reg.GD_STATUS_DEFERRED 1 else s
    s.updPost fun p => { p with accepted := p.accepted ++ [a] }

/-- Take one letter from an inbound slot. -/
def State.accept (s : State) (ch : Nat) (x : Slotted) : State :=
  let s := s.updChan ch fun c => c.incF Reg.PM_MBX_CNT_ACCEPTED 1
  let a : Accepted := { channel := ch, letter := x.letter, round := s.round, path := x.path }
  match x.headOk with
  | some why => s.enqueue ch x.path (a.receipt 2 why ({} : Detail).bytes 0 [])
  | none =>
    match if ch = 0 then SeqCheck.fresh else (s.chan ch).seqCheck x.letter.sequence with
    | .bad => s.enqueue ch x.path (a.receipt 2 dSequence ({} : Detail).bytes 0 [])
    | .again => s.acceptAgain ch x
    | .fresh => s.acceptNew ch a

/-- Up to `n` letters of a channel, while its outbound slots have room (R324, R327). -/
def scanChannel (ch : Nat) : Nat → State → State
  | 0, s => s
  | n + 1, s =>
    let c := s.chan ch
    if 8 ≤ c.outSlots.length || !c.heldOut.isEmpty then s
    else match c.inSlots with
      | [] => s
      | x :: xs =>
        let s := s.updChan ch fun c => { c with inSlots := xs }
        let s := s.updPost fun p => { p with scanFrom := (ch + 1) % 64 }
        scanChannel ch n (s.accept ch x)

/-- A scan of the inbound queues, in rotating order (R324). -/
def State.scan (s : State) : State :=
  let from_ := s.post.scanFrom
  (List.range 64).foldl (fun s i => scanChannel ((from_ + i) % 64) 8 s) s

/-! ### Posting (R347, R348, R383) -/

/-- A letter from the words written to PM_MBX_IN: header fields as R329 lays them out. -/
def letterOf (bs : List Byte) (words : Nat) : Slotted :=
  let f (o n : Nat) : Nat := leVal ((bs.drop o).take n)
  let len := f 16 4
  { letter := { version := f 0 1, code := f 1 1, flags := f 2 2, garden := f 4 1, rsv := f 5 3, session := f 8 4, sequence := f 12 4,
                length := len, status := f 20 2, reason := f 22 2, tag := BitVec.ofNat 64 (f 24 8), body := (bs.drop 32).take len },
    fits := decide (words = 4 + (len + 7) / 8) }

def wordsBytes (ws : List Word) : List Byte := ws.flatMap fun w => leBytes 8 w.toNat

/-- POST: into a free slot, or ignored with IN_FULL. -/
def Chan.post (c : Chan) : Chan :=
  if 8 ≤ c.inSlots.length then c.setF Reg.PM_MBX_STATUS_INFULL 1
  else { c with inSlots := c.inSlots ++ [letterOf (wordsBytes c.forming) c.forming.length], forming := [] }

/-- PM_MBX_IN: the next word of the letter being formed. -/
def Chan.append (w : Word) (c : Chan) : Chan :=
  if 512 ≤ c.forming.length then c.setF Reg.PM_MBX_STATUS_OVERRUN 1 else { c with forming := c.forming ++ [w] }

/-- TAKE: the oldest receipt's slot. -/
def State.take (s : State) (ch : Nat) : State :=
  match (s.chan ch).outSlots with
  | [] => s
  | r :: _ =>
    let s := s.freeReceipt (s.chan ch).session ch r
    s.flushSession (s.chan ch).session

/-- A read of PM_MBX_OUT: the next 8 B of the oldest receipt; beyond its length, zero. -/
def State.readOut (s : State) (ch : Nat) : Word × State :=
  match (s.chan ch).outSlots with
  | [] => (0, s)
  | r :: _ =>
    let pos := (s.chan ch).outPos
    if r.bytes.length ≤ 8 * pos then (0, s)
    else (BitVec.ofNat 64 (leVal ((r.bytes.drop (8 * pos)).take 8)), s.updChan ch fun c => { c with outPos := pos + 1 })

end Sys2Proof.Machine
end

