-- ==== Sys2Proof/Machine/RegOps.lean ====
section
/-! DEFINITION. The device registers as they are read and written (R6, R10, R14, R231, R316, R340, R346-R348, R394): the
registers that are views of the state, the select registers of each access path, what each path may write. -/

namespace Sys2Proof.Machine

/-! ### Views -/

def State.goodSite (s : State) (c : Nat) : Bool := !(s.site c).retired

/-- Good sites of a set of pavilions. -/
def State.goodIn (s : State) (pavs : List Nat) : Nat :=
  64 * pavs.length - (s.sites.filter fun e => e.2.retired && pavs.contains (pavOf e.1)).length

def State.gdnSize (s : State) (g : Nat) : Nat := ((s.garden g).image.map fun i => i.size).getD 0

/-- A garden's reserve (R284). -/
def State.reserveOf (s : State) (g : Nat) : Nat := s.goodIn (s.garden g).prot.pavs - s.gdnSize g

/-- The orangeries present. -/
def allOras : List Nat := (List.range 16).filter Config.orangeryPresent

/-- The update plan of a garden is armed (R316): its engines are past the arming pass. -/
def State.armed (s : State) (g : Nat) : Bool :=
  engines && allOras.all fun o => let e := (s.orang o).eng g; engCollect ≤ e && e ≤ engCommitting

def State.stageLocked (s : State) (g : Nat) : Bool :=
  (s.garden g).prot.pavs.any fun p => (s.pav p).getF Reg.PV_FAB_STATUS_STAGELOCK = 1

/-- Map entries l to l + 3 as GD_MAP_DATA shows them (R316). -/
def mapQuad (m : FMap Nat) (l : Nat) : Word :=
  BitVec.ofNat 64 ((List.range 4).foldl (fun a i => a + Fm.get 0 (l + i) m * 2 ^ (16 * i)) 0)

def State.activeMap (s : State) (g : Nat) : FMap Nat := Fm.mapv 0 (fun _ c => 0x8000 + c) (s.garden g).place
def State.stagedMap (s : State) (g : Nat) : FMap Nat :=
  match (s.garden g).prot.pavs with
  | [] => []
  | p :: _ => (s.pav p).mapStaged

/-- A register of garden `g`. -/
def State.gdRead (s : State) (g off : Nat) : Word :=
  let d := s.garden g
  let w := getReg .gd off d.regs
  let win (n : Nat) : Window := d.prot.windows.getD n {}
  if off = 0x008 then
    withBits (withBits (withBits (withBits w 5 1 (b01 (s.armed g))) 32 9 d.prot.pavs.length) 42 15 (s.reserveOf g)) 57 1
      (b01 (s.stageLocked g))
  else if off = 0x018 then BitVec.ofNat 64 (d.prot.peer + d.prot.host * 2 ^ 16)
  else if off = 0x030 then
    BitVec.ofNat 64 ((List.range 64).foldl (fun a c => if (s.boundGardens c).testBit g ∧ s.roleOf c = roleT then a + 2 ^ c else a) 0)
  else if 0x040 ≤ off ∧ off < 0x078 then
    BitVec.ofNat 64 ((d.prot.pavs.filter fun p => p / 64 = (off - 0x040) / 8).foldl (fun a p => a + 2 ^ (p % 64)) 0)
  else if off = 0x088 then
    let sel := getReg .gd 0x080 d.regs
    mapQuad (if bitsOf sel 15 1 = 1 then s.stagedMap g else s.activeMap g) (bitsOf sel 0 15)
  else if 0x100 ≤ off ∧ off < 0x200 ∧ off % 16 = 0 then
    let x := win ((off - 0x100) / 16)
    BitVec.ofNat 64 (x.lbase + x.pbase * 2 ^ 32)
  else if 0x100 ≤ off ∧ off < 0x200 then
    let x := win ((off - 0x108) / 16)
    BitVec.ofNat 64 (x.size + 2 ^ 32 * (b01 x.rd + 2 * b01 x.wr + 4 * b01 x.host + 8 * b01 x.keep))
  else if (findReg off (regDefs .gd)).isNone then 0
  else w

/-- Delivery entries of garden `g` in a pavilion whose DRAINED is clear; a field of eight bits (R231). -/
def State.avePend (s : State) (p g : Nat) : Nat :=
  let v := s.pav p
  min 255 ((v.regs.filter fun e => aveActive ≤ e.1 && e.1 < aveActive + 0x4000).filter fun e =>
    let a := decodeAve e.2
    a.valid && a.garden = g && a.goesTo 4 && !a.drained).length

/-- What PV_FAB_SEL selects: router, port and slice. -/
def Pav.fabSel (v : Pav) (p : Nat) : Nat × Nat × Nat :=
  let w := getReg .pv 0x100 v.regs
  (coreAt p (bitsOf w 0 6), bitsOf w 6 3, bitsOf w 9 2)

/-- WD_CORE_n (R584). -/
def State.wdCore (s : State) (c : Nat) : Word :=
  let x := s.site c
  let marks := x.marks.filter fun m => s.now < m + s.cfgNat cfgPatrolMin * ticksPerMin
  let w := getReg .pv (Reg.WD_CORE_DONE (coreIdx c)).off (s.pav (pavOf c)).regs
  let w := withBits w 48 6 x.segs.length
  withBits (withBits (withBits w 56 2 (min 3 marks.length)) 58 1 (b01 x.suspect)) 59 1 (b01 x.probation.isSome)

/-- A register of pavilion `p`, as it shows. -/
def State.pvShow (s : State) (p off : Nat) : Word :=
  let v := s.pav p
  let w := getReg .pv off v.regs
  if off = 0x0C0 then
    let q := (coresOf p).foldl (fun a c => a + (s.core c).outbox.length) 0
    match v.segRun with
    | none => BitVec.ofNat 64 q
    | some (c, g) => BitVec.ofNat 64 (q + 2 ^ 11 + coreIdx c * 2 ^ 12 + g * 2 ^ 18)
  else if off = 0x110 then
    (List.range 4).foldl (fun w g => withBits w (16 + 8 * g) 8 (s.avePend p g)) w
  else if off = 0x120 ∨ off = 0x128 then
    let (r, port, sl) := v.fabSel p
    if port < 5 ∧ 0 < sl then getReg .pv ((if off = 0x120 then aveActive else aveStaged) + 8 * aveIdx r port sl) v.regs else 0
  else if off = 0x130 then
    let (r, port, _) := v.fabSel p
    if port < 5 then getReg .pv (Reg.PV_LINK_CNT_UP (cntIdx r port)).off v.regs else 0
  else if 0x200 ≤ off ∧ off < 0x2D8 then s.fpWord 0x200 p ((off - 0x200) / 8)
  else if 0x300 ≤ off ∧ off < 0x3D8 then s.fpWord 0x300 p ((off - 0x300) / 8)
  else if off = 0x808 then
    let k := s.core (coreAt p (bitsOf w 0 6))
    let bank := bitsOf w 6 5
    let w := withBits w 16 7 (k.spareLines bank)
    let w := withBits (withBits w 23 4 (Fm.get 0 (2 * bank) k.lanes)) 27 4 (Fm.get 0 (2 * bank + 1) k.lanes)
    withBits w 31 1 (b01 (k.spadExhausted.contains bank))
  else if 0xC00 ≤ off ∧ off < 0xE00 then s.wdCore (coreAt p ((off - 0xC00) / 8))
  else if 0x1000 ≤ off ∨ (findReg off (regDefs .pv)).isNone then 0
  else w

/-- A read of a stored register clears its RC fields (R14). -/
def clearRead (b : Blk) (off : Nat) (m : RegFile) : RegFile := (busRead b off m).2

def State.pvRead (s : State) (p off : Nat) : Word × State :=
  let off' := if off = 0x130 then (let x := (s.pav p).fabSel p; if x.2.1 < 5 then (Reg.PV_LINK_CNT_UP (cntIdx x.1 x.2.1)).off else 0x130)
    else off
  let w := s.pvShow p off
  let shown := match findReg off (regDefs .pv) with
    | some d => mapFields d.flds fieldShown w
    | none => w
  (shown, if 0x200 ≤ off ∧ off < 0x400 then s else s.updPav p fun v => { v with regs := clearRead .pv off' v.regs })

/-- A register of orangery `o`. -/
def State.orRead (s : State) (o off : Nat) : Word × State :=
  let v := s.orang o
  let layer := bitsOf (getReg .ora 0x080 v.regs) 0 16
  if off = 0x088 then (getReg .ora (0x800000 + 8 * layer) v.regs, s)
  else if 0x0C0 ≤ off ∧ off < 0x100 then (v.layerWord layer ((off - 0x0C0) / 8), s)
  else if off = 0x1F8 then
    (BitVec.ofNat 64 (Config.orangeries + 2 ^ 8 * b01 engines + 65535 * 2 ^ 16 + 16777216 * 2 ^ 32), s)
  else if 0x1000 ≤ off then (0, s)
  else
    let (w, m) := busRead .ora off v.regs
    let w := if off = 0x000 then withBits (withBits w 1 1 (b01 engines)) 3 1 (b01 (v.lost || v.faulted)) else w
    (w, s.updOra o fun v => { v with regs := m })

/-- LN_HOST_MAC and LN_HOST_CFG from the configuration in force (R394, R528). -/
def State.hostMac (s : State) (h : Nat) : Word := BitVec.ofNat 64 (bitsOf (s.cfg (cfgHost h 0)) 0 48)
def State.hostV6 (s : State) (h : Nat) : Bool := s.cfg (cfgHost h 5) ≠ 0 || s.cfg (cfgHost h 6) ≠ 0
def State.hostV4 (s : State) (h : Nat) : Bool := bitsOf (s.cfg (cfgHost h 7)) 32 1 = 1
def State.hostCfgWord (s : State) (h : Nat) : Word :=
  let vlan := s.cfg (cfgHost h 2)
  BitVec.ofNat 64 (bitsOf vlan 0 16 + bitsOf (s.cfg (cfgHost h 3)) 0 8 * 2 ^ 16 + bitsOf (s.cfg (cfgHost h 4)) 0 16 * 2 ^ 24 +
    b01 (s.hostV6 h) * 2 ^ 40 + b01 (s.hostV4 h) * 2 ^ 41)

/-- Sessions whose most recent frame came on a port. -/
def State.sessionsOn (s : State) (h : Nat) : List (Nat × Session) := s.bridge.sessions.filter fun e => e.2.path.port = h

/-- Send entries of each garden at a peer port not drained since the last ARM, and whether one of its send entries discards (R417). -/
def State.peerShow (s : State) (port : Nat) (w : Word) : Word :=
  let w := (List.range 4).foldl (fun w g =>
    withBits w (18 + g) 1 (b01 (s.sends.any fun e => e.port = port && e.garden = g && e.discard))) w
  (List.range 4).foldl (fun w g =>
    withBits w (30 + 8 * g) 8 (min 255 (s.sends.filter fun e => e.port = port && e.garden = g && !e.drained).length)) w

/-- A register of the LN_ set of kind 0 host port, 1 peer port, 2 spare port, 3 lantern. -/
def State.lnRead (s : State) (kind idx off : Nat) : Word × State :=
  if kind = 0 ∧ idx < 2 ∧ 0x100 ≤ off ∧ off ≤ 0x130 then
    let p := s.hostPort idx
    let (w, m) := busRead .ln off p.regs
    let s' := s.updHostPort idx fun p => { p with regs := m }
    let on := s.sessionsOn idx
    if off = 0x100 then (withBits w 7 1 (b01 (getF Reg.SD_TIME_SOURCE s.sd = idx + 1)), s')
    else if off = 0x108 then (s.hostMac idx, s')
    else if off = 0x110 then (s.hostCfgWord idx, s')
    else if off = 0x130 then
      let w := withBits w 0 7 on.length
      let w := withBits w 7 7 (on.filter fun e => !e.2.ready).length
      let open_ := s.bridge.parcels.filter fun e => e.2.isOpen && on.any fun x => x.1 = e.2.session
      (withBits w 14 9 open_.length, s')
    else (w, s')
  else if kind = 1 ∧ Config.peerPresent idx ∧ 0x200 ≤ off ∧ off ≤ 0x208 then
    let (w, m) := busRead .ln off (s.peerPort idx).regs
    (if off = 0x200 then s.peerShow idx w else w, s.updPeerPort idx fun p => { p with regs := m })
  else if kind = 2 ∧ idx < 2 ∧ off = 0x300 then (getReg .ln off (s.sparePort idx).regs, s)
  else if kind = 3 ∧ Config.lanternPresent idx ∧ off = 0x400 then
    let (w, m) := busRead .ln off (s.lantern idx).regs
    (w, s.updLantern idx fun p => { p with regs := m })
  else (0, s)

/-- CAP_UNITS (R632). -/
def capUnits : Word :=
  let mask (n : Nat) (f : Nat → Bool) : Nat := (List.range n).foldl (fun a i => if f i then a + 2 ^ i else a) 0
  let g := match Config.grade with | .A => 0 | .B => 1 | .C => 2
  BitVec.ofNat 64 (mask 5 Config.lanternPresent + mask 16 Config.orangeryPresent * 2 ^ 8 +
    (if engines then mask 16 Config.orangeryPresent else 0) * 2 ^ 24 + g * 2 ^ 40 + b01 Config.suffixS * 2 ^ 42 +
    b01 Config.suffixH * 2 ^ 43 + b01 Config.suffixN * 2 ^ 44 + Config.exposedCores * 2 ^ 48)

/-- The watchdog bound B of a garden, ms (R569). -/
def State.boundMs (s : State) (g : Nat) : Nat :=
  match (s.garden g).image with
  | some i => if i.watchdog = 0 then s.cfgNat cfgWatchdogMs else i.watchdog
  | none => s.cfgNat cfgWatchdogMs

/-! ### Checkpoints as they show (R427, R438, R574, R575) -/

/-- An image that is vouched. -/
def State.vouched (_ : State) (c : Checkpoint) : Bool := c.complete && c.vouched

def State.imagesOf (s : State) (g : Nat) : List Checkpoint := s.ice.checkpoints.filter fun c => c.garden = g && c.complete

/-- The newest complete image of a garden. -/
def State.newestImage (s : State) (g : Nat) : Option Checkpoint :=
  (s.imagesOf g).foldl (fun b c => match b with
    | none => some c
    | some x => if x.id < c.id then some c else b) none

/-- CKPT_MIN minutes have passed since the newest image's capture point, or since GARDEN_START. -/
def State.takeTime (s : State) (g : Nat) : Bool :=
  let from_ := match s.newestImage g with
    | some c => c.capture
    | none => (s.garden g).startedAt
  (s.garden g).getF Reg.GD_STATUS_STATE = 5 && s.armed g && from_ + s.cfgNat cfgCkptMin * ticksPerMin ≤ s.now

/-- TAKE_DUE: an automatic take waits for vouching or for the icehouse. -/
def State.takeDue (s : State) (g : Nat) : Bool :=
  (s.post.jobs.any fun j => j.kind = .autoTake && j.garden = g && j.phase = 0) ||
  (s.takeTime g && !s.post.jobs.any fun j => (j.kind = .take || j.kind = .autoTake) && j.garden = g)

/-- Sites with a completed patrol in the last PATROL_MIN; mapped sites past 75 % of their deadline (R559, R583). -/
def State.recentPatrols (s : State) : Nat :=
  (s.sites.filter fun e => e.2.doneBegan.isSome && s.now < e.2.lastDone + s.cfgNat cfgPatrolMin * ticksPerMin).length

/-- A site that holds a logical core and has used 75 % of its deadline. -/
def State.overdue (s : State) (c : Nat) : Bool :=
  let x := s.site c
  let from_ := max x.lastDone x.received
  (List.range 4).any (fun g => (s.garden g).place.any fun e => e.2 = c) &&
  4 * from_ + 3 * s.cfgNat cfgPatrolMin * ticksPerMin ≤ 4 * s.now

def State.overdueCount (s : State) : Nat :=
  (List.range 4).foldl (fun a g => a + ((s.garden g).place.filter fun e => s.overdue e.2).length) 0

def State.wdShow (s : State) (off : Nat) (w : Word) : Word :=
  if off = 0x000 then
    BitVec.ofNat 64 (s.cfgNat cfgPatrolMin + s.cfgNat cfgCkptMin * 2 ^ 16 + s.cfgNat cfgWatchdogMs * 2 ^ 32)
  else if off = 0x020 then withBits (withBits w 0 16 s.recentPatrols) 16 16 s.overdueCount
  else if 0x040 ≤ off ∧ off < 0x060 ∧ off % 8 = 0 then
    let g := (off - 0x040) / 8
    let slots := (s.imagesOf g).foldl (fun a c => if s.vouched c then a ||| 2 ^ c.slot else a) 0
    withBits (withBits (withBits w 8 2 slots) 10 1 (b01 (s.takeDue g))) 32 20 (s.boundMs g)
  else w

def State.wdRead (s : State) (off : Nat) : Word × State :=
  let (w, m) := busRead .wd off s.wd
  (s.wdShow off w, { s with wd := m })

/-- Checkpoint space in MiB: the store of R420 less the areas of R421. -/
def ckptTotal : Nat := 5040 * 1024 - 1956
def mib (n : Nat) : Nat := (n + 1048575) / 1048576
def State.ckptFree (s : State) : Nat := ckptTotal - s.ice.checkpoints.foldl (fun a c => a + mib c.size) 0

/-- The take or restore the icehouse is at. -/
def State.iceBusy (s : State) : Option Job := s.post.iceJob.bind fun id => s.post.jobs.find? fun j => j.id = id

/-- Blocks of the store (R419). -/
def nandBlocks : Nat := 128 * 7296

/-- A register of the icehouse. The bytes a job has moved so far and the highest erase count are free values within their
bounds (log entry 7). -/
def State.ihRead (s : State) (off : Nat) : Word × State :=
  let w := getReg .ih off s.ice.regs
  if off = 0x008 then (BitVec.ofNat 64 (s.ckptFree + ckptTotal * 2 ^ 32), s)
  else if off = 0x010 then
    let avg := min 65535 (s.ice.erased / nandBlocks)
    let (x, s) := s.draw
    let left := (List.range 128).foldl (fun m d => min m (128 - Fm.get 0 d s.ice.spares)) 128
    (withBits (withBits (withBits w 0 16 avg) 16 16 (avg + x.toNat % (65536 - avg))) 48 8 left, s)
  else if off = 0x020 then
    match s.iceBusy with
    | none => (0, s)
    | some j =>
      let (x, s) := s.draw
      let id := if j.kind = .take || j.kind = .autoTake then j.arg else j.arg2
      let size := ((s.ice.checkpoints.find? fun c => c.id = id).map fun c => c.size).getD 0
      (BitVec.ofNat 64 ((if j.kind = .take || j.kind = .autoTake then 1 else 2) + j.garden * 4 + id * 2 ^ 8 +
        x.toNat % (size / 2 ^ 30 + 1) * 2 ^ 40), s)
  else if (findReg off (regDefs .ih)).isNone then (0, s)
  else (w, s)

/-! ### The PM_ window (R346-R348, R352) -/

/-- The channel of an access path. The postmaster's own reads and writes use copies of their own, kept as channel 64's. -/
def pathChan : WritePath → Nat
  | .chan n => n
  | .smbus => 2
  | .test => 3
  | .postmaster => 64

def State.mbxSel (s : State) (ch : Nat) : Nat := (s.chan ch).mbxSel.getD ch

def State.mbxStatus (s : State) (ch : Nat) : Word :=
  let c := s.chan ch
  let out := match c.outSlots with
    | [] => 0
    | r :: _ => (r.bytes.length + 7) / 8
  let w := getReg .pm Reg.PM_MBX_STATUS_INUSED.off c.regs
  let w := withBits (withBits (withBits w 0 4 c.inSlots.length) 4 4 c.outSlots.length) 8 10 c.forming.length
  withBits (withBits (withBits w 18 10 out) 30 2 (s.boundOf ch)) 32 32 c.session

/-- A path reads PM_MBX_STATUS and PM_MBX_CNT of its own channel; owner and management of any (R346). -/
def State.mayPeek (s : State) (ch sel : Nat) : Bool := ch = sel || ch = 64 || s.roleOf ch = roleO || s.roleOf ch = roleM

def State.openLetters (s : State) : Nat := s.post.accepted.length + s.acting.length

def State.pmRead (s : State) (ch off : Nat) : Word × State :=
  let sel := s.mbxSel ch
  match off with
  | 0x000 => (BitVec.ofNat 64 (bitsOf s.frank.lockFwId 0 48 + Config.hwRev.toNat * 2 ^ 48), s)
  | 0x008 =>
    let w := getReg .pm 0x008 s.pm
    let inc := s.ice.incidents.any fun i => getF Reg.WD_INC_ACK_ACKED s.wd < i.number
    (withBits (withBits w 16 1 (b01 inc)) 32 16 s.openLetters, s)
  | 0x010 => (getReg .pm 0x010 s.pm, s)
  | 0x018 => (BitVec.ofNat 64 sel, s)
  | 0x028 => if s.mayPeek ch sel then (s.mbxStatus sel, s) else (0, s)
  | 0x038 => if sel = ch then s.readOut ch else (0, s)
  | 0x040 =>
    if s.mayPeek ch sel then
      let (w, m) := busRead .pm off (s.chan sel).regs
      (w, s.updChan sel fun c => { c with regs := m })
    else (0, s)
  | _ => (0, s)

/-- A write of PM_MBX_CTL: POST, TAKE, ABORT and RESET in that order (log entry 31). -/
def State.mbxCtl (s : State) (ch : Nat) (v : Word) : State :=
  let s := if bitsOf v 0 1 = 1 then s.updChan ch Chan.post else s
  let s := if bitsOf v 1 1 = 1 then s.take ch else s
  let s := if bitsOf v 2 1 = 1 then s.updChan ch fun c => { c with forming := [] } else s
  if bitsOf v 3 1 = 1 then s.muteChannel ch else s

def State.pmWrite (s : State) (ch off : Nat) (v : Word) : State :=
  let own := s.mbxSel ch = ch
  match off with
  | 0x018 => s.updChan ch fun c => { c with mbxSel := some (bitsOf v 0 6) }
  | 0x020 => if own then s.mbxCtl ch v else s
  | 0x028 => if own then s.updChan ch fun c => { c with regs := busWrite .pm off v c.regs } else s
  | 0x030 => if own then s.updChan ch (Chan.append v) else s
  | _ => s

/-! ### Device register addresses (R10) -/

/-- The block of a device address, the offset in it, and for KP_ the core. -/
inductive RegAt where
  | pm (off : Nat) | sd (off : Nat) | pw (off : Nat) | wd (off : Nat) | cap (off : Nat)
  | pv (off : Nat) | ora (off : Nat) | gd (off : Nat) | ln (off : Nat) | ih (off : Nat)
  | kp (core off : Nat)
  | nothing
  deriving DecidableEq, Repr

def regAt (a : Nat) : RegAt :=
  let o := a % 0x1000
  if a < 0x200000000000 then .nothing
  else
    let b := (a - 0x200000000000) / 0x1000
    match b with
    | 0x00 => .pm o
    | 0x01 => .sd o
    | 0x02 => .pw o
    | 0x03 => .wd o
    | 0x04 => .cap o
    | 0x10 => .pv o
    | 0x20 => .ora o
    | 0x30 => .gd o
    | 0x40 => .ln o
    | 0x50 => .ih o
    | _ => if 0x100000 ≤ b ∧ b < 0x100000 + Config.coreSites then .kp (b - 0x100000) o else .nothing

/-- The copies of the select registers on a path (R6, R10). -/
def State.pvSelOf (s : State) (ch : Nat) : Nat := bitsOf (s.chan ch).pvSel 0 9
def State.orSelOf (s : State) (ch : Nat) : Nat := bitsOf (s.chan ch).orSel 0 4
def State.gdSelOf (s : State) (ch : Nat) : Nat := bitsOf (s.chan ch).gdSel 0 2
def State.lnIdxOf (s : State) (ch : Nat) : Nat := bitsOf (s.chan ch).lnSel 0 5
def State.lnKindOf (s : State) (ch : Nat) : Nat := bitsOf (s.chan ch).lnSel 5 2

/-- A register read on a path, before its role narrows it. -/
def State.readReg (s : State) (ch a : Nat) : Word × State :=
  if a % 8 ≠ 0 then (0, s)
  else match regAt a with
  | .pm o => s.pmRead ch o
  | .sd o => let (w, m) := busRead .sd o s.sd; (w, { s with sd := m })
  | .pw o =>
    let (w, m) := busRead .pw o s.pw
    (if o = 0x028 then withBits w 48 8 (s.cfgNat cfgTHot) else w, { s with pw := m })
  | .wd o => s.wdRead o
  | .cap o => (if o = 0 then capUnits else 0, s)
  | .pv o =>
    let p := s.pvSelOf ch
    if o = 0 then (BitVec.ofNat 64 p, s) else if p < Config.pavilions then s.pvRead p o else (0, s)
  | .ora o =>
    let n := s.orSelOf ch
    if o = 0x1F0 then (BitVec.ofNat 64 n, s)
    else if o = 0x1F8 ∨ Config.orangeryPresent n then s.orRead n o else (0, s)
  | .gd o =>
    let g := s.gdSelOf ch
    if o = 0 then (BitVec.ofNat 64 g, s)
    else
      let s' := if o = 0x088 then s.updGarden g fun d => d.setF Reg.GD_MAP_SEL_LCORE (d.getF Reg.GD_MAP_SEL_LCORE + 4) else s
      (s.gdRead g o, s')
  | .ln o =>
    if o = 0 then (BitVec.ofNat 64 (s.lnIdxOf ch + 32 * s.lnKindOf ch), s) else s.lnRead (s.lnKindOf ch) (s.lnIdxOf ch) o
  | .ih o =>
    let (w, s) := s.ihRead o
    (w, s.updIce fun h => { h with regs := clearRead .ih o h.regs })
  | .kp c o => ((s.core c).kpRead c o, s)
  | .nothing => (0, s)

/-! ### Writes -/

/-- Registers of PV_ that hold staged values (R222). -/
def pvStaged (off : Nat) : Bool := off = 0x128 || (0x300 ≤ off && off < 0x3D8)

/-- A write to a register of pavilion `p`. PV_AVE_STAGED reaches the entry PV_FAB_SEL names; staged copies are not written
under the lock (R222); the bits of ZERO, ARM and MARK act. -/
def State.pvWrite (s : State) (p off : Nat) (v : Word) : State :=
  let pv := s.pav p
  let locked := pv.getF Reg.PV_FAB_STATUS_STAGELOCK = 1
  if locked && pvStaged off then s
  else if off = 0x128 then
    let (r, port, sl) := pv.fabSel p
    if port < 5 ∧ 0 < sl then
      s.updPav p fun x => { x with regs := setReg .pv (aveStaged + 8 * aveIdx r port sl) (withBits (withBits v 30 34 0) 26 2 0) x.regs }
    else s
  else if 0x300 ≤ off ∧ off < 0x3D8 ∧ off % 8 = 0 then s.setFpWord 0x300 p ((off - 0x300) / 8) (withBits v 48 16 0)
  else if off = 0x108 then
    let hold := pv.getF Reg.PV_FAB_CTL_SHOLD
    let s := s.updPav p fun x => { x with regs := busWrite .pv off v x.regs }
    let s := if locked then s.updPav p fun x => x.setF Reg.PV_FAB_CTL_SHOLD hold else s
    (s.armEntries p (bitsOf v 8 4)).markEntries p (bitsOf v 12 4)
  else if off = 0x800 then
    let s := s.updPav p fun x => { x with regs := busWrite .pv off v x.regs }
    if bitsOf v 0 1 = 1 then s.startZero p else s
  else if 0x1000 ≤ off then s
  else s.updPav p fun x => { x with regs := busWrite .pv off v x.regs }

/-- OR_ENG_CMD (R268, R277). -/
def Ora.engCmd (id : Nat) (v : Word) (o : Ora) : Ora :=
  let g := bitsOf v 4 2
  match bitsOf v 0 4 with
  | 1 => o.arm g
  | 2 => o.prepare g
  | 3 => o.commit g (BitVec.ofNat 32 (bitsOf v 32 32))
  | 4 => o.discardCmd id g
  | 5 => o.disarm g
  | _ => o.cmdErr

def State.orWrite (s : State) (o off : Nat) (v : Word) : State :=
  let layer := bitsOf (getReg .ora 0x080 (s.orang o).regs) 0 16
  s.updOra o fun x =>
    if off = 0x040 then x.engCmd o v
    else if 0x060 ≤ off ∧ off < 0x080 then x.writeArena ((off - 0x060) / 8) v
    else if 0x0C0 ≤ off ∧ off < 0x100 then x.writeLayer layer ((off - 0x0C0) / 8) v
    else if 0x1000 ≤ off then x
    else { x with regs := busWrite .ora off v x.regs }

/-- GD_MAP_DATA: four entries of the staged map of every pavilion of the garden (R316). -/
def State.mapWrite (s : State) (g : Nat) (v : Word) : State :=
  let sel := getReg .gd 0x080 (s.garden g).regs
  let l := bitsOf sel 0 15
  let s := if bitsOf sel 15 1 = 0 ∨ s.stageLocked g then s
    else (s.garden g).prot.pavs.foldl (fun s p => s.updPav p fun x =>
      { x with mapStaged := (List.range 4).foldl (fun m i =>
          if l + i < 25600 then Fm.set 0 (l + i) (bitsOf v (16 * i) 16) m else m) x.mapStaged }) s
  s.updGarden g fun d => d.setF Reg.GD_MAP_SEL_LCORE (l + 4)

def State.gdWrite (s : State) (g off : Nat) (v : Word) : State :=
  if off = 0x088 then s.mapWrite g v
  else if off = 0x080 then s.updGarden g fun d => { d with regs := busWrite .gd off (withBits v 0 2 0) d.regs }
  else if s.stageLocked g && (off = 0x020 || 0x200 ≤ off) then s
  else s.updGarden g fun d => { d with regs := busWrite .gd off v d.regs }

/-- KP_CTRL and KP_CHAIN_SEED through the register's address (R143, R144): RUN starts and stops the keeper. -/
def State.kpWrite (s : State) (c off : Nat) (v : Word) : State :=
  if off = Reg.KP_CTRL_RUN.off then
    let was := (s.core c).getF Reg.KP_CTRL_RUN
    let s := s.updCore c fun k => k.setF Reg.KP_CTRL_ENTRY (bitsOf v Reg.KP_CTRL_ENTRY.lo Reg.KP_CTRL_ENTRY.w)
    if was = 0 ∧ bitsOf v 0 1 = 1 then s.updCore c Core.startRun
    else if was = 1 ∧ bitsOf v 0 1 = 0 then s.updCore c Core.stopRun
    else s
  else if off = Reg.KP_CHAIN_SEED_SEED.off then s.updCore c (Core.seed v)
  else s.updCore c fun k => { k with regs := busWrite .kp off v k.regs }

/-- A register write on a path, where the path may write it. -/
def State.writeReg (s : State) (ch a : Nat) (v : Word) : State :=
  if a % 8 ≠ 0 then s
  else match regAt a with
  | .pm o => s.pmWrite ch o v
  | .sd o => { s with sd := busWrite .sd o v s.sd }
  | .pw o => { s with pw := busWrite .pw o v s.pw }
  | .wd o => { s with wd := busWrite .wd o v s.wd }
  | .cap _ | .nothing => s
  | .pv o =>
    if o = 0 then s.updChan ch fun c => { c with pvSel := BitVec.ofNat 64 (bitsOf v 0 9) }
    else if s.pvSelOf ch < Config.pavilions then s.pvWrite (s.pvSelOf ch) o v else s
  | .ora o =>
    if o = 0x1F0 then s.updChan ch fun c => { c with orSel := BitVec.ofNat 64 (bitsOf v 0 4) }
    else if Config.orangeryPresent (s.orSelOf ch) then s.orWrite (s.orSelOf ch) o v else s
  | .gd o =>
    if o = 0 then s.updChan ch fun c => { c with gdSel := BitVec.ofNat 64 (bitsOf v 0 2) } else s.gdWrite (s.gdSelOf ch) o v
  | .ln o =>
    if o = 0 then s.updChan ch fun c => { c with lnSel := BitVec.ofNat 64 (bitsOf v 0 7) }
    else
      let idx := s.lnIdxOf ch
      let w (p : Port) : Port := { p with regs := busWrite .ln o v p.regs }
      match s.lnKindOf ch with
      | 0 => if idx < 2 ∧ 0x100 ≤ o ∧ o ≤ 0x130 then s.updHostPort idx w else s
      | 1 => if Config.peerPresent idx ∧ 0x200 ≤ o ∧ o ≤ 0x208 then s.updPeerPort idx w else s
      | 2 => s
      | _ => if Config.lanternPresent idx ∧ o = 0x400 then s.updLantern idx w else s
  | .ih o => s.updIce fun h => { h with regs := busWrite .ih o v h.regs }
  | .kp c o => s.kpWrite c o v

/-- Registers with a W1C field. -/
def hasW1c (b : Blk) (off : Nat) : Bool :=
  match findReg off (regDefs b) with
  | none => false
  | some d => d.flds.any fun f => f.acc = .w1c

/-- What REG_WRITE may write (R340): the select registers; of an owner also W1C fields, PV_SPAD_CTL, OR_MEM_CTL, GD_CFG. -/
def isSelect : RegAt → Bool
  | .pv 0 | .gd 0 | .ln 0 => true
  | .ora o => o = 0x1F0
  | _ => false

def ownerWrites : RegAt → Bool
  | .pm o => hasW1c .pm o
  | .sd o => hasW1c .sd o
  | .pw o => hasW1c .pw o
  | .wd o => hasW1c .wd o
  | .pv o => o = 0x800 || hasW1c .pv o
  | .ora o => o = 0x018 || hasW1c .ora o
  | .gd o => o = 0x038 || hasW1c .gd o
  | .ln o => hasW1c .ln o
  | .ih o => hasW1c .ih o
  | .kp _ o => hasW1c .kp o
  | _ => false

def State.mayWrite (s : State) (ch a : Nat) : Bool :=
  ch = 64 || (a % 8 = 0 && (isSelect (regAt a) || (s.roleOf ch = roleO && ownerWrites (regAt a))))

/-- The fields of a permitted write: of PV_SPAD_CTL only SCRUB_EN and SCRUB_ROUNDS. -/
def permittedBits (a : Nat) (v : Word) : Word :=
  match regAt a with
  | .pv 0x800 => withBits v 0 1 0
  | _ => v

/-- What a role sees of a register (R338): a tenant the GD_ set of its gardens, the PV_, KP_ and counter values of their
pavilions, and PV_SEL and GD_SEL among them. -/
def State.maySee (s : State) (ch a : Nat) : Bool :=
  let mine (p : Nat) : Bool := match (s.pav p).owner with
    | some g => (s.boundGardens ch).testBit g
    | none => false
  if s.roleOf ch ≠ roleT then true
  else match regAt a with
  | .pv o => o = 0 || mine (s.pvSelOf ch)
  | .gd o => o = 0 || (s.boundGardens ch).testBit (s.gdSelOf ch)
  | .kp c _ => mine (pavOf c)
  | _ => false

end Sys2Proof.Machine
end

