-- ==== Sys2Proof/Machine/Mail.lean ====
section
/-! DEFINITION. The commands of the mailbox window, the SMBus port, test access and register writes (09_postmaster.md,
R10, R346-R351). -/

namespace Sys2Proof.Machine

/-- The window answers from stage 9 on, also while the postmaster restarts (R507, R319). -/
def State.windowOpen (s : State) : Bool := s.inService || getF Reg.PM_STATUS_STATE s.pm = 3

/-- A register of the window on channel `ch`'s own path: the channel is bound and selected (R346). -/
def onWindow (ch : Nat) (s : State) (f : State → State) : Res :=
  onChan ch s fun s => if s.windowOpen && s.boundOf ch ≠ 0 && s.mbxSel ch = ch then f s else s

def execPost (ch : Nat) (s : State) : Res := onWindow ch s fun s => s.updChan ch Chan.post
def execTake (ch : Nat) (s : State) : Res := onWindow ch s fun s => s.take ch
def execAbort (ch : Nat) (s : State) : Res := onWindow ch s fun s => s.updChan ch fun c => { c with forming := [] }
def execPmMbxReset (ch : Nat) (s : State) : Res := onWindow ch s fun s => s.muteChannel ch
def execPmMbxIn (ch : Nat) (data : Word) (s : State) : Res := onWindow ch s fun s => s.updChan ch (Chan.append data)
def execPmMbxOut (ch : Nat) (s : State) : Res := onWindow ch s fun s => (s.readOut ch).2

/-! ### SMBus (R349, R350) -/

def State.smb (s : State) (v : Option Word) : State := { s with smbOut := s.smbOut ++ [v] }

/-- A command with a good PEC, once the module serves, at an offset that exists; else a NACK. -/
def smbus (offset : Nat) (pec : Bool) (s : State) (f : State → State) : Res :=
  if pec && s.windowOpen && offset % 8 = 0 && offset ≤ 0x1F8 then .next (f s) else .next (s.smb none)

def execReadReg (offset : Nat) (pec : Bool) (s : State) : Res :=
  smbus offset pec s fun s => let (w, s) := s.pmRead 2 offset; s.smb (some w)

def execWriteReg (offset : Nat) (value : Word) (pec : Bool) (s : State) : Res :=
  smbus offset pec s fun s => s.pmWrite 2 offset value

/-- STATUS: in service, a receipt waiting on channel 2, unacknowledged incidents. -/
def execStatus (pec : Bool) (s : State) : Res :=
  if !pec then .next (s.smb none)
  else
    let inc := s.ice.incidents.any fun i => getF Reg.WD_INC_ACK_ACKED s.wd < i.number
    let v := b01 s.inService + 2 * b01 (!(s.chan 2).outSlots.isEmpty) + 4 * b01 inc
    .next (s.smb (some (BitVec.ofNat 64 v)))

/-! ### Test access (R351, R507) -/

/-- POSTWIN: one access of the window as channel 3; what DATA captures after a write is not given (log entry 7). -/
def execPostwin (reg : BitVec 80) (s : State) : Res :=
  let data := reg.setWidth 64
  let off := (reg.toNat / 2 ^ 64) % 1024 * 8
  let done (s : State) (v : Word) : State := { s with test := { s.test with postData := v, postDone := true } }
  if !s.windowOpen then .next (done s 0)
  else if reg.toNat / 2 ^ 74 % 2 = 1 then
    let (w, s) := (s.pmWrite 3 off data).draw
    .next (done s w)
  else let (w, s) := s.pmRead 3 off; .next (done s w)

/-! ### Writes of registers (R10, R14, R340) -/

/-- REGISTER_WRITE: a path writes a device register: the window on every path, another block by a session within its role,
by the postmaster without restriction. -/
def execRegisterWrite (path : WritePath) (addr : Nat) (value : Word) (s : State) : Res :=
  let ch := pathChan path
  onUnit (decide (ch < 65)) s fun s =>
    match regAt addr with
    | .pm o => if s.windowOpen && (ch = 64 || s.boundOf ch ≠ 0) then s.pmWrite ch o value else s
    | _ => if s.mayWrite ch addr then s.writeReg ch addr (if ch = 64 then value else permittedBits addr value) else s

end Sys2Proof.Machine
end

