-- ==== Sys2Proof/Machine/Host.lean ====
section
/-! DEFINITION. The commands of the host ports and the Iturn transport (10_iturn_host_ports.md): frames from the host,
timers of a session, address resolution and echo; what the fabric brings the host bridge. -/

namespace Sys2Proof.Machine

/-- A frame that needs a feature the port does not support, or finds the buffer of a port without PFC full, is discarded: its counter (R353,
R359). `udp` is the UDP port it must go to. -/
def State.wireFault (s : State) (port : Nat) (w : Wire) (udp : Option Nat) : Option Fld :=
  let v := s.cfg (cfgHost port 2)
  let tagOk := match w.vids with
    | [] => true
    | [vid] => vid = bitsOf v 0 12
    | _ => false
  if !w.fcsOk then some Reg.LN_HOST_MAC_CNT_FCS
  else if w.len < 64 || 9216 < w.len || !w.toUs || !tagOk || w.ipExtra || udp.any (· ≠ w.udp) || !w.sumOk then
    some Reg.LN_HOST_MAC_CNT_DROP
  else if bitsOf (s.cfg (cfgHost port 3)) 0 8 = 0 && 4194304 < s.rxFill port + w.len then some Reg.LN_ITURN_CNT_BUFFER
  else none

/-- A frame reaches a host port once the window answers: discarded and counted, or taken. -/
def onHeard (h : Heard) (udp : Option Nat) (s : State) (f : State → State) : Res :=
  onUnit (decide (h.path.port < 2)) s fun s =>
    let s := s.updHostPort h.path.port fun p =>
      (p.incF Reg.LN_HOST_FEC_CNT_CORR h.wire.fecCorr).incF Reg.LN_HOST_FEC_CNT_UNCORR h.wire.fecUncorr
    if !s.windowOpen then s
    else match s.wireFault h.path.port h.wire udp with
      | some cnt => s.bumpIturn h.path.port cnt
      | none => f s

/-- The UDP port of a host port's Iturn frames. -/
def State.iturnUdp (s : State) (port : Nat) : Option Nat := some (bitsOf (s.cfg (cfgHost port 4)) 0 16)

/-- A frame of a session: taken or turned away, then what it does, then what may now be sent (R379). -/
def onFrame (f : Frame) (type : Nat) (eliciting : Bool) (s : State) (act : State → State) : Res :=
  onHeard ⟨f.path, f.wire⟩ (s.iturnUdp f.path.port) s fun s =>
    let (s, ok) := s.intake f type eliciting
    if ok then (act s).flushSession f.session else s

/-! ### Letters and registers (R381-R384) -/

def State.slotLetter (s : State) (ch : Nat) (f : Frame) (l : Letter) : State :=
  s.updChan ch fun c => { c with inSlots := c.inSlots ++ [{ letter := l, fits := decide (l.length = l.body.length), path := f.path }] }

/-- LETTER: into an inbound slot of the session's channel; in the public session, of channel 0. -/
def execLetter (f : Frame) (l : Letter) (s : State) : Res :=
  if f.session = 0 then
    onHeard ⟨f.path, f.wire⟩ (s.iturnUdp f.path.port) s fun s =>
      let s := if f.ce then s.updBridge fun b => { b with publicCe := true } else s
      if f.version ≠ 1 || f.type ≠ 1 || f.flags ≠ 0 || !f.formOk || 4064 < l.body.length then
        s.bumpIturn f.path.port Reg.LN_ITURN_CNT_FORMAT
      else if 8 ≤ (s.chan 0).inSlots.length then s.bumpIturn f.path.port Reg.LN_ITURN_CNT_BUSY
      else s.slotLetter 0 f l
  else onFrame f 1 true s fun s =>
    match s.session f.session with
    | none => s
    | some x =>
      if 8 ≤ (s.chan x.channel).inSlots.length then s.discardFrame f Reg.LN_ITURN_CNT_BUSY
      else (s.slotLetter x.channel f l).ackFrame f.session f.pn

/-- FINISHED (R370, R371): the handshake ends, or the session does. -/
def execFinished (f : Frame) (macOk sigOk : Bool) (s : State) : Res :=
  onFrame f 4 true s fun s =>
    match s.session f.session with
    | none => s
    | some x =>
      let ok := macOk && (x.role = roleT || (sigOk && !s.ice.ownerKey.isEmpty))
      if x.ready then s.ackFrame f.session f.pn
      else if ok then (s.putSession f.session { x with ready := true, readyAt := s.now }).ackFrame f.session f.pn
      else (s.endSession f.session 5).sendGone f.path f.session 5

/-- Offsets of a register request. -/
def RegReq.offsets (q : RegReq) : List Nat := (List.range q.count).map fun i => if q.fixed then q.offset else q.offset + 8 * i
def RegReq.ok (q : RegReq) : Bool :=
  1 ≤ q.count && q.count ≤ 32 && q.offsets.all fun o => o % 8 = 0 && o ≤ 0x1F8

/-- A path may not use a register of the window while PM_MBX_SEL names another channel (R346). -/
def State.pmDenied (s : State) (ch off : Nat) : Bool :=
  let sel := s.mbxSel ch
  sel ≠ ch && ([0x020, 0x030, 0x038].contains off || ([0x028, 0x040].contains off && !s.mayPeek ch sel))

/-- The window accesses of a request: the values read, and whether one was refused (R346, R382). -/
def State.regAccess (s : State) (ch : Nat) (q : RegReq) : State × List Word × Bool :=
  if q.write then
    (q.offsets.zip q.values).foldl (fun (a : State × List Word × Bool) p =>
      (a.1.pmWrite ch p.1 p.2, [], a.2.2 || a.1.pmDenied ch p.1)) (s, [], false)
  else q.offsets.foldl (fun (a : State × List Word × Bool) o =>
    let (w, s) := a.1.pmRead ch o; (s, a.2.1 ++ [w], a.2.2 || a.1.pmDenied ch o)) (s, [], false)

/-- REG_REQ (R381, R382): one of the last 16 REQIDs gets its kept reply. -/
def execRegReq (f : Frame) (q : RegReq) (s : State) : Res :=
  onFrame f 5 true s fun s =>
    match s.session f.session with
    | none => s
    | some x =>
      match x.replies.find? (fun e => e.1 = q.reqid) with
      | some e => (s.ackFrame f.session f.pn).queueContent f.session [.plain 6 e.2]
      | none =>
        let (s, vals, denied) := if q.ok then s.regAccess x.channel q else (s, [], false)
        let status := if !q.ok then 1 else if denied then 2 else 0
        let reply := leBytes 4 q.reqid ++ leBytes 2 q.count ++ leBytes 1 status ++ leBytes 1 0 ++ wordsBytes vals
        let s := s.updSession f.session fun x => { x with replies := ((q.reqid, reply) :: x.replies).take 16 }
        (s.ackFrame f.session f.pn).queueContent f.session [.plain 6 reply]

/-! ### Parcels (R385-R391) -/

/-- The port pauses its partner once its buffer has 512 KiB or less free (R359). -/
def State.hostXoff (s : State) (port : Nat) : State :=
  let en := bitsOf (s.cfg (cfgHost port 3)) 0 8
  let n := ((List.range 8).filter fun q => en.testBit q).length
  if en ≠ 0 && 4194304 ≤ s.rxFill port + 524288 && (s.hostPort port).getF Reg.LN_HOST_STATUS_XOFF = 0 then
    s.updHostPort port fun p => (p.setF Reg.LN_HOST_STATUS_XOFF 1).incF Reg.LN_HOST_MAC_CNT_PFCTX n
  else s

/-- A frame of a parcel that may not act: acknowledged, discarded, counted (R390). -/
def State.parcelFault (s : State) (f : Frame) : State :=
  (s.bumpIturn f.path.port Reg.LN_ITURN_CNT_PARCEL).ackFrame f.session f.pn

/-- Parcel data to the slow tier: DEVWRITE packets, acknowledged once all are (R388). -/
def State.parcelWrite (s : State) (f : Frame) (id off : Nat) (data : List Byte) : State :=
  match s.parcel id with
  | none => s
  | some p =>
    match s.hostWindow p.garden (p.addr + off) data.length with
    | none => s
    | some a =>
      let pieces := granulePieces 4 a 0 data.length
      let d : DataIn := { session := f.session, pn := f.pn, port := f.path.port, parcel := id, off := off, len := data.length,
                          addrs := pieces.map fun q => a + q.1 }
      let s := s.updBridge fun b => { b with dataIn := b.dataIn ++ [d] }
      let s := pieces.foldl (fun s q => s.bridgeSend
        { type := 9, garden := p.garden, dest := codeOra (oraOf (a + q.1)), addr := a + q.1,
          payload := (data.drop q.1).take q.2 }) s
      s.hostXoff f.path.port

/-- A parcel's context is held while a hang of its garden is searched (R572). -/
def State.parcelHeld (s : State) (id : Nat) : Bool :=
  match s.parcel id with
  | none => false
  | some p => !p.staging && s.heldCtx p.garden (ctxOf 2 p.garden id)

def execParcelData (f : Frame) (parcel offset : Nat) (data : List Byte) (s : State) : Res :=
  let f := { f with wire := { f.wire with len := max f.wire.len (data.length + 112) },
                    formOk := f.formOk && 8 ≤ data.length && data.length ≤ 8192 && data.length % 8 = 0 }
  onFrame f 7 true s fun s =>
    if !s.parcelOk f parcel 0 offset data.length then s.parcelFault f
    else if s.parcelHeld parcel then s.discardFrame f Reg.LN_ITURN_CNT_BUSY
    else if ((s.parcel parcel).map fun p => p.staging).getD false then
      let s := s.updIce fun h => { h with staging := writeBytes offset data h.staging }
      (s.parcelMoved parcel offset data.length).ackFrame f.session f.pn
    else s.parcelWrite f parcel offset data

/-- A pull some of whose data is not yet acknowledged is outstanding. -/
def State.pullBusy (s : State) (id : Nat) (x : Session) (q : Nat × Nat × Nat) : Bool :=
  let inside (p off : Nat) : Bool := p = q.1 && q.2.1 ≤ off && off < q.2.1 + q.2.2
  let carries : Content → Bool
    | .data p off _ => inside p off
    | _ => false
  x.sendQ.any carries || x.inflight.any (fun f => carries f.content) ||
  s.bridge.builds.any fun b => b.session = id && inside b.parcel b.off

/-- PARCEL_PULL (R389): frames of up to 8,192 B covering the range, ascending. -/
def execParcelPull (f : Frame) (parcel len offset : Nat) (s : State) : Res :=
  onFrame f 8 true s fun s =>
    match s.session f.session with
    | none => s
    | some x =>
      let pulls := x.pulls.filter fun q => s.pullBusy f.session x q
      if !s.parcelOk f parcel 1 offset len || 4194304 < len then s.parcelFault f
      else if s.parcelHeld parcel || 16 ≤ pulls.length then s.discardFrame f Reg.LN_ITURN_CNT_BUSY
      else
        let frames := (List.range (ceilDiv len 8192)).map fun i => Content.data parcel (offset + 8192 * i) (min 8192 (len - 8192 * i))
        let s := s.putSession f.session { x with pulls := pulls ++ [(parcel, offset, len)] }
        (s.ackFrame f.session f.pn).queueContent f.session frames

/-- ITURN_ACK: LARGEST and SACK of an ACK frame. -/
def execIturnAck (f : Frame) (s : State) : Res := onFrame f 9 false s id

/-! ### What the fabric brings the host bridge (R205, R207, R388, R389) -/

/-- The bridge's next packet of a type; one of an old generation is dropped. -/
def State.bridgeArrival (s : State) (t : Nat) (f : Packet → State → State) : State :=
  match s.bridge.inbox.find? fun p => p.type = t with
  | none => s
  | some p =>
    let s := s.updBridge fun b => { b with inbox := b.inbox.erase p }
    if s.endTag codeHost p.garden ≠ p.gen then s else f p s

/-- ACK of a DEVWRITE; with the last of its frame the frame is acknowledged. -/
def State.ackHost (s : State) : State :=
  s.bridgeArrival 7 fun p s =>
    match s.bridge.dataIn.find? fun d => d.addrs.contains p.addr with
    | none => s
    | some d =>
      let d' := { d with addrs := d.addrs.erase p.addr }
      if d'.addrs.isEmpty then
        let s := s.updBridge fun b => { b with dataIn := b.dataIn.erase d }
        ((s.parcelMoved d.parcel d.off d.len).ackFrame d.session d.pn).flushSession d.session
      else s.updBridge fun b => { b with dataIn := b.dataIn.map fun x => if x = d then d' else x }

/-- READ_DATA of a frame being built; with the last piece the frame goes out. -/
def State.readDataHost (s : State) : State :=
  s.bridgeArrival 3 fun p s =>
    match s.bridge.builds.find? fun b => b.left.contains p.addr with
    | none => s
    | some b =>
      let b' := { b with left := b.left.erase p.addr, bytes := writeBytes (p.addr - b.ret) p.payload b.bytes }
      if b'.left.isEmpty then
        let s := s.updBridge fun br => { br with builds := br.builds.erase b }
        let payload := leBytes 4 b.parcel ++ leBytes 4 0 ++ leBytes 8 b.off ++ readBytes b'.bytes 0 b.len
        let s := (s.launch b.session (.data b.parcel b.off b.len) payload).parcelMoved b.parcel b.off b.len
        s.flushSession b.session
      else s.updBridge fun br => { br with builds := br.builds.map fun x => if x = b then b' else x }

/-! ### Timers of a session (R371-R375, R378) -/

def onSession (id : Nat) (s : State) (f : Session → State → State) : Res :=
  match s.session id with
  | none => .next s
  | some x => .next (f x s)

/-- RETRANSMISSION_TIMER: the frame is lost; CWND falls to its least and RTO doubles. A frame that a pause keeps from being sent is not lost
(R358). -/
def execRetransmissionTimer (session pn : Nat) (s : State) : Res :=
  onSession session s fun x s =>
    match x.inflight.find? fun f => f.pn = pn with
    | none => s
    | some f =>
      if s.now < f.sent + x.rto || s.bridge.waiting.any (fun w => w.session = session && w.pn = pn) then s
      else
        let x := { x with inflight := x.inflight.erase f, sendQ := f.content :: x.sendQ, cwnd := 16608, slow := false,
                          rto := min (2 * x.rto) 10000000 }
        ((s.putSession session x).bumpIturn x.path.port Reg.LN_ITURN_STAT_RETX).flushSession session

def execSessionIdleTimeout (session : Nat) (s : State) : Res :=
  onSession session s fun x s => if s.now < x.lastFrame + s.cfgNat cfgIdleS * ticksPerSec then s else s.endSession session 3

def execUnackedTimeout (session : Nat) (s : State) : Res :=
  onSession session s fun x s => if x.firsts.any (fun e => e.2 + 5 * ticksPerSec ≤ s.now) then s.endSession session 2 else s

def execFinishedTimeout (session : Nat) (s : State) : Res :=
  onSession session s fun x s =>
    if x.ready || s.now < x.opened + ticksPerSec then s else (s.endSession session 5).sendGone x.path session 5

def execUnboundTimeout (session : Nat) (s : State) : Res :=
  onSession session s fun x s =>
    if x.ready && x.role = roleT && !x.bound && x.readyAt + 60 * ticksPerSec ≤ s.now then s.endSession session 2 else s

def execOldPhaseExpire (session : Nat) (s : State) : Res :=
  onSession session s fun x s =>
    match x.oldUntil with
    | some t => if t ≤ s.now then s.putSession session { x with oldUntil := none, oldKeys := none } else s
    | none => s

def execKeyLimit (session : Nat) (s : State) : Res :=
  onSession session s fun x s =>
    if 2 ^ 32 ≤ x.txKey || 2 ^ 32 ≤ x.rxKey then (s.endSession session 2).sendGone x.path session 2 else s

/-! ### Address resolution and echo (R356) -/

def State.ip4 (s : State) (port : Nat) : Option Nat :=
  if s.hostV4 port then some (bitsOf (s.cfg (cfgHost port 7)) 0 32) else none
def State.isIp6 (s : State) (port : Nat) (hi lo : Word) : Bool :=
  s.hostV6 port && hi = s.cfg (cfgHost port 5) && lo = s.cfg (cfgHost port 6)

/-- Each is answered to where it came from (R356). -/
def execArpRequest (h : Heard) (target : Nat) (s : State) : Res :=
  onHeard h none s fun s => if s.ip4 h.path.port = some target then s.answer h.path 0 else s

def execNeighbourSolicitation (h : Heard) (hi lo : Word) (s : State) : Res :=
  onHeard h none s fun s => if s.isIp6 h.path.port hi lo then s.answer h.path 1 else s

def execEchoRequest (h : Heard) (v6 : Bool) (hi lo : Word) (s : State) : Res :=
  onHeard h none s fun s =>
    if v6 then (if s.isIp6 h.path.port hi lo then s.answer h.path 3 else s)
    else if s.ip4 h.path.port = some lo.toNat then s.answer h.path 2 else s

end Sys2Proof.Machine
end

