-- ==== Sys2Proof/Machine/Arrivals.lean ====
section
/-! DEFINITION. READ, READ_DATA and ACK packets at whichever endpoint they reach (R188, R205, R207): a core, an orangery, the postmaster or
the host bridge, named by its destination code. -/

namespace Sys2Proof.Machine

/-- A packet of a kind that cores, orangeries, the postmaster and the host bridge take each in their own way. -/
def atEndpoint (dest : Nat) (s : State) (core ora : State → Nat → State) (host post : State → State) : Res :=
  if dest < Config.coreSites then .next (core s dest)
  else if codeOra 0 ≤ dest ∧ dest < codeOra 16 then onOra (dest - codeOra 0) s fun s => ora s (dest - codeOra 0)
  else if dest = codeHost then .next (host s)
  else if dest = codePost then .next (post s)
  else .next s

/-- A READ of registers reaches the postmaster, which answers with their values (R188, log entry 78). -/
def State.readPost (s : State) : State :=
  match s.post.inbox with
  | [] => s
  | p :: ps =>
    let s := s.updPost fun x => { x with inbox := ps }
    let (bs, s) := (List.range (p.span / 8)).foldl (fun (x : List Byte × State) i =>
      let (w, s) := x.2.readReg 64 (p.addr + 8 * i)
      (x.1 ++ leBytes 8 w.toNat, s)) (([] : List Byte), s)
    s.sendEnd codePost (p.replyTo 3 (leVal p.payload % 2 ^ 23) bs)

/-- READ (R207): the host bridge answers none. -/
def execRead (dest : Nat) (err : MemErr) (s : State) : Res :=
  atEndpoint dest s State.readCore (fun s o => s.readOra o err) id State.readPost

/-- READ_DATA (R207): to the porter or the bridge that asked; an orangery asks for none. -/
def execReadData (dest : Nat) (s : State) : Res := atEndpoint dest s State.readDataCore (fun s _ => s) State.readDataHost id

/-- ACK (R205). -/
def execAck (dest : Nat) (s : State) : Res := atEndpoint dest s State.ackCore (fun s _ => s) State.ackHost id

end Sys2Proof.Machine
end

