-- ==== Sys2Proof/Machine/Clock.lean ====
section
/-! DEFINITION. The commands of clocks, the sundial, stage and chime (13_clocks_and_sundial.md, R635). -/

namespace Sys2Proof.Machine

/-! ### Clock sources (R443-R445) -/

/-- INPUT_LOSS (R444): holdover, and a new source when a neighbour is eligible. -/
def execInputLoss (pav : Nat) (s : State) : Res :=
  onPav pav s fun s =>
    let v := s.pav pav
    if !v.powered || v.getF Reg.PV_CLK_STATUS_LOCKED = 0 || v.getF Reg.PV_CLK_STATUS_HOLDOVER = 1 then s
    else
      let src := s.chooseSource pav
      s.updPav pav fun v => { v.setF Reg.PV_CLK_STATUS_HOLDOVER 1 with hold := s.now, newSource := src }

/-- SOURCE_RETRY (R444): a pavilion in holdover, or dark with its thoroughfare powered, looks again. -/
def execSourceRetry (pav : Nat) (s : State) : Res :=
  onPav pav s fun s =>
    let v := s.pav pav
    if !v.powered || v.newSource.isSome || (v.getF Reg.PV_CLK_STATUS_HOLDOVER = 0 && !v.dark) then s
    else
      let src := s.chooseSource pav
      s.updPav pav fun v => { v with newSource := src }

/-- GO_DARK (R444): without a source after 20,000 ticks of holdover, or after 1,000 with no neighbour powered. -/
def execGoDark (pav : Nat) (s : State) : Res :=
  onPav pav s fun s =>
    let v := s.pav pav
    let alone := [0, 1, 2, 3].all fun side =>
      match pavBeyond pav side with
      | none => true
      | some q => !(s.pav q).powered
    let late := v.hold + 20000 ≤ s.now || (alone && v.hold + 1000 ≤ s.now)
    if v.getF Reg.PV_CLK_STATUS_HOLDOVER = 0 || v.newSource.isSome || !late then s
    else
      let owner := v.owner
      let s := (pavLinks pav).foldl (fun s l => s.markDown l.1 l.2) s
      let s := s.domainOff pav
      let s := s.updPav pav fun v =>
        { (v.setF Reg.PV_CLK_STATUS_LOCKED 0).setF Reg.PV_CLK_STATUS_HOLDOVER 0 with dark := true }
      s.reportAt 0x40 2 pav owner (action := 3)

/-- MARGIN_REPORT (R448): one period is stretched when any monitor is below MARGIN_MIN; the lowest margins are kept. -/
def execMarginReport (pav : Nat) (margins : List Nat) (s : State) : Res :=
  onUnit (decide (pav < Config.pavilions) && decide (margins.length = 16) && margins.all (· < 16)) s fun s =>
    let v := s.pav pav
    if v.getF Reg.PV_REG_STATUS_ON = 0 then s
    else
      let low := margins.any fun m => m < v.getF Reg.PV_CLK_CFG_MARGINMIN
      s.updPav pav fun v =>
        let mon (i : Nat) : Fld := ⟨.pv, 0x58, 4 * i, 4⟩
        let v := (List.range 16).foldl (fun v i => v.setF (mon i) (min (v.getF (mon i)) (margins.getD i 15))) v
        if low then { v.incF Reg.PV_CLK_CNT_STRETCH 1 with stretchRound := v.stretchRound + 1 } else v

/-! ### The sundial (R450-R452, R635) -/

/-- The earliest chime sent and not yet reached (R466). -/
def State.nextChime (s : State) : State :=
  let ts := (s.post.stages.filterMap fun g => g.t).filter fun t => s.now < t
  s.setSd Reg.SD_NEXT_CHIME_T (match ts with
    | [] => 2 ^ 64 - 1
    | t :: rest => rest.foldl min t)

/-- A sundial copy while the master advances (R452): it follows the strobe; one that holds waits for the master; in holdover it advances on its
own clock, `drift` ticks further than the master; without a clock it stands. -/
def Pav.follow (ticks : Nat) (drift : Int) (v : Pav) : Pav :=
  if !v.powered || v.dark then { v with sdLag := v.sdLag + ticks }
  else if v.sdHold then { v with sdLag := min 0 (v.sdLag + ticks), sdHold := decide (v.sdLag + ticks < 0) }
  else if v.getF Reg.PV_CLK_STATUS_HOLDOVER = 1 then { v with sdLag := v.sdLag - drift }
  else v

/-- TICK_STROBE (R450, R452): the master and every copy advance; `drifts` names copies in holdover with their drift. -/
def execTickStrobe (ticks : Nat) (drifts : List (Nat × Int)) (s : State) : Res :=
  if s.power.stopped then .next s
  else
    let s := s.setSd Reg.SD_COUNT_COUNT (s.now + ticks)
    let s := s.setPm Reg.PM_ROUND_ROUND s.round
    let s := { s with pavs := Fm.mapv {} (fun (p : Nat) (v : Pav) => v.follow ticks (((drifts.find? fun (d : Nat × Int) => d.1 = p).map Prod.snd).getD 0)) s.pavs }
    .next s.nextChime

/-- FULL_COUNT (R452): it reaches the copies whose clock is locked to a source. One behind the master takes its count, one ahead holds; more than
one tick is an error. -/
def execFullCount (s : State) : Res :=
  .next ((List.range Config.pavilions).foldl (fun s p =>
    let v := s.pav p
    if v.sdLag = 0 || v.sdHold || !s.unitLive p || v.getF Reg.PV_CLK_STATUS_HOLDOVER = 1 then s
    else
      let s := s.updPav p fun v => { v with sdLag := min 0 v.sdLag, sdHold := decide (v.sdLag < 0) }
      if v.sdLag.natAbs ≤ 1 then s else (s.updPav p fun v => v.setF Reg.PV_CLK_STATUS_SDERR 1).reportAt 0x40 2 p v.owner) s)

/-- The discipline goes into holdover (R456): the trim is held. -/
def State.disciplineHold (s : State) : State :=
  let s := ((s.setSd Reg.SD_TIME_LOCKED 0).setSd Reg.SD_TIME_HOLDOVER 1).incSd Reg.SD_CNT_HOLDOVERS 1
  { s with disc := { s.disc with inRange := 0 } }.reportAt 0x40 0 0 none

/-- REFCLK_LOSS (R635). -/
def execRefclkLoss (s : State) : Res :=
  let s := { s with pins := { s.pins with refclk := false } }
  if !s.srcLocked || s.srcHoldover then .next s
  else .next ({ s with srcHoldover := true }.reportAt 0x40 0 0 none).disciplineHold

/-- REFCLK_RETURN (R635): the source relocks. -/
def execRefclkReturn (s : State) : Res :=
  .next { s with pins := { s.pins with refclk := true }, srcHoldover := false }

/-! ### Stage and chime (R457-R464) -/

def State.stageOf (s : State) (id : Nat) : Option Stage := s.post.stages.find? fun g => g.id = id

def State.updStage (s : State) (id : Nat) (f : Stage → Stage) : State :=
  s.updPost fun p => { p with stages := p.stages.map fun g => if g.id = id then f g else g }

/-- SD_STAGE of the stage last broadcast (R466). -/
def State.showStage (s : State) (id : Nat) : State :=
  if getF Reg.SD_STAGE_ID s.sd ≠ id then s
  else match s.stageOf id with
    | none => s.setSd Reg.SD_STAGE_OPEN 0
    | some g =>
      let s := s.setSd Reg.SD_STAGE_PENDING g.pendingAck.length
      s.setSd Reg.SD_STAGE_OPEN (if g.t.isNone && !g.pendingAck.isEmpty then 1 else 0)

/-- A gate buffer of a pavilion is being aligned (R446): its link to a live neighbour is neither UP nor marked down. -/
def State.aligning (s : State) (p : Nat) : Bool :=
  (pavLinks p).any fun l => !s.linkUp l.1 l.2 && !s.linkMarkedDown l.1 l.2 && (neighbour l.1 l.2).any s.fabricOn

/-- A unit's own check, its PLL and its gate buffers (R217, R458). -/
def State.unitAgrees (s : State) (u : Nat) (cs : List Change) : Bool :=
  if u < 432 then
    let v := s.pav u
    v.getF Reg.PV_CLK_STATUS_LOCKED = 1 && v.getF Reg.PV_CLK_STATUS_HOLDOVER = 0 && v.newSource.isNone && !s.aligning u && (cs.all (fun c => c.kind ≠ 3) || s.stagedOk u)
  else true

/-- The voltage of a faster index rises when the thoroughfare acknowledges (R476). -/
def State.raiseForStage (s : State) (u : Nat) (cs : List Change) : State :=
  cs.foldl (fun s c =>
    let want (v : Pav) : Option Pav := match c with
      | .divider _ _ i => some { v with planned := i }
      | .capIndex i => some { v with capIdx := i }
      | .prot g _ new => if new.pavs.contains u && v.owner ≠ some g
          then some { v with unownedIdx := 0, planned := (s.garden g).divider } else none
      | _ => none
    if u < 432 && (s.pav u).getF Reg.PV_REG_STATUS_ON = 1 then
      match want (s.pav u) with
      | none => s
      | some w =>
        let t := w.target s.alertHold
        if t < (s.pav u).getF Reg.PV_CLK_STATUS_DIV then
          s.updPav u fun v => v.setF Reg.PV_REG_STATUS_VSET (vsetOf t (v.getF Reg.PV_REG_STATUS_VOFF)) else s
    else s) s

/-- On a discard VSET returns to the index in force, or to the one the output rises for (R476). -/
def State.dropVoltage (s : State) (u : Nat) : State :=
  if u < 432 && (s.pav u).getF Reg.PV_REG_STATUS_ON = 1 then
    s.updPav u fun v =>
      v.setF Reg.PV_REG_STATUS_VSET (vsetOf (v.pendingIdx.getD (v.getF Reg.PV_CLK_STATUS_DIV)) (v.getF Reg.PV_REG_STATUS_VOFF))
  else s

/-- STAGE (R457-R460): the unit acknowledges and holds a record, or refuses; an acknowledgement after the round of the broadcast is ignored. -/
def execStage (unit id : Nat) (s : State) : Res :=
  onUnit (decide (unit < chimeUnits)) s fun s =>
    match s.stageOf id with
    | none => s
    | some g =>
      if !g.pendingAck.contains unit || g.t.isSome || !s.unitLive unit then s
      else
        let cs := g.changes.filter (s.reaches unit)
        let rs := s.recordsOf unit
        let locked := rs.any fun r => r.changes.any fun a => cs.any fun b => a.clashes b
        if locked || 8 ≤ rs.length || !s.unitAgrees unit cs then
          let bad := unit < 432 && cs.any (fun c => c.kind = 3) && !s.stagedOk unit
          let s := if bad then s.updPav unit fun v => v.setF Reg.PV_FAB_STATUS_STAGEERR 1 else s
          s.updStage id fun g => { g with refused := true }
        else
          let s := s.setRecords unit (rs ++ [{ id := id, changes := cs, since := s.now }])
          let s := s.raiseForStage unit cs
          if g.round < s.round then s
          else (s.updStage id fun g => { g with pendingAck := g.pendingAck.filter (· ≠ unit), lastAck := s.now }).showStage id

/-- The letter field a named T belongs to (R531). -/
def namedField (k : JobKind) : Nat := if k = .snapshot then 0xE720 else 0xE620

/-- T of a stage (R461) and the clamp entries of a named T. -/
def chimeAt (field named lastAck : Nat) : Nat × List Clamp :=
  let lo := ((lastAck + 65535) / 65536 + 2) * 65536
  if named = 0 then (lo, [])
  else
    let up := (named + 65535) / 65536 * 65536
    let c7 : List Clamp := if up = named then []
      else [{ field := field, rule := 7, asked := BitVec.ofNat 64 named, used := BitVec.ofNat 64 up }]
    let hi := lo + 16384 * 65536
    if up < lo then (lo, c7 ++ [{ field := field, rule := 1, asked := BitVec.ofNat 64 up, used := BitVec.ofNat 64 lo }])
    else if hi < up then (hi, c7 ++ [{ field := field, rule := 2, asked := BitVec.ofNat 64 up, used := BitVec.ofNat 64 hi }])
    else (up, c7)

def State.updJob (s : State) (id : Nat) (f : Job → Job) : State :=
  s.updPost fun p => { p with jobs := p.jobs.map fun j => if j.id = id then f j else j }

/-- A stage is discarded (R460): its change is to be staged again. A change of the module's own is reported at the third
discard and at every sixteenth after it (R336); so is a release past its first chime, which is never given up (R308, R333). -/
def State.discardStage (s : State) (g : Stage) : State :=
  let sent := g.units.map fun u => (u, g.id)
  let s := (s.incSd Reg.SD_CNT_DISCARDS 1).updPost fun p =>
    { p with stages := p.stages.filter (fun x => x.id ≠ g.id), discarded := p.discarded ++ sent }
  let s := if getF Reg.SD_STAGE_ID s.sd = g.id then (s.setSd Reg.SD_STAGE_DISCARDED 1).setSd Reg.SD_STAGE_OPEN 0 else s
  let s := s.updJob g.job fun j => { j with staged := false, discards := j.discards + 1 }
  match s.post.jobs.find? (fun j => j.id = g.job && (j.letter.isNone || j.kind = .release && 0 < j.phase)) with
  | none => s
  | some j =>
    if j.discards % 16 = 3 then s.raiseAt 0x41 (if j.garden < 4 then 10 else 0) (if j.garden < 4 then j.garden else 0)
      (if j.garden < 4 then some j.garden else none)
    else s

/-- ACK_DEADLINE (R459-R461): CHIME once every unit has acknowledged; DISCARD on a refusal, or when an acknowledgement is
missing at the last tick of the round. The postmaster does this, in service (R319). -/
def execAckDeadline (id : Nat) (s : State) : Res :=
  if getF Reg.PM_STATUS_STATE s.pm ≠ 2 then .next s
  else match s.stageOf id with
  | none => .next s
  | some g =>
    if g.t.isSome then .next s
    else if g.refused then .next (s.discardStage g)
    else if g.pendingAck.isEmpty then
      let kind := ((s.post.jobs.find? fun j => j.id = g.job).map fun j => j.kind).getD .config
      let (t, cl) := chimeAt (namedField kind) g.named g.lastAck
      let s := s.updStage id fun g => { g with t := some t }
      let s := s.updJob g.job fun j => { j with chime := t, clamps := j.clamps ++ cl }
      .next (s.showStage id).nextChime
    else if g.round < s.round || s.tick = 65535 then .next (s.discardStage g)
    else .next s

/-- CHIME (R463): the count is known; a unit whose copy has passed it applies the record at once, late. -/
def execChime (unit id : Nat) (s : State) : Res :=
  onUnit (decide (unit < chimeUnits)) s fun s =>
    match (s.stageOf id).bind (fun g => g.t), (s.recordsOf unit).find? (fun r => r.id = id && r.t.isNone) with
    | some t, some r =>
      if t ≤ s.unitCount unit then
        let s := s.setRecords unit ((s.recordsOf unit).filter fun x => x.id ≠ id)
        let s := s.applyRecords unit [{ r with t := some t }]
        (s.incSd Reg.SD_CNT_LATE 1).reportAt 0x41 (if unit < 432 then 2 else 0) unit none
      else s.setRecords unit ((s.recordsOf unit).map fun x => if x.id = id then { x with t := some t } else x)
    | _, _ => s

/-- STAGE_DISCARD (R460): the record is dropped and its kinds unlock. -/
def execStageDiscard (unit id : Nat) (s : State) : Res :=
  onUnit (decide (unit < chimeUnits)) s fun s =>
    if !s.post.discarded.contains (unit, id) then s
    else
      let s := s.updPost fun p => { p with discarded := p.discarded.erase (unit, id) }
      if (s.recordsOf unit).any (fun r => r.id = id) then
        (s.setRecords unit ((s.recordsOf unit).filter fun x => x.id ≠ id)).dropVoltage unit
      else s

/-- CHIME_APPLY (R462): every record whose T the unit's copy has reached. -/
def execChimeApply (unit : Nat) (s : State) : Res :=
  onUnit (decide (unit < chimeUnits)) s fun s =>
    let due (r : StageRec) : Bool := r.t.any fun t => t ≤ s.unitCount unit
    let rs := s.recordsOf unit
    let s := s.setRecords unit (rs.filter fun r => !due r)
    s.applyRecords unit (rs.filter due)

/-- RECORD_EXPIRE (R463): 16 rounds without CHIME or DISCARD. -/
def execRecordExpire (unit id : Nat) (s : State) : Res :=
  onUnit (decide (unit < chimeUnits)) s fun s =>
    match (s.recordsOf unit).find? (fun r => r.id = id) with
    | none => s
    | some r =>
      if r.t.isSome || s.now < r.since + 16 * 65536 then s
      else
        let s := (s.setRecords unit ((s.recordsOf unit).filter fun x => x.id ≠ id)).dropVoltage unit
        (s.incSd Reg.SD_CNT_LATE 1).reportAt 0x41 (if unit < 432 then 2 else 0) unit none

end Sys2Proof.Machine
end

