-- ==== Sys2Proof/Machine/JobOps.lean ====
section
/-! DEFINITION. Many-unit changes as the postmaster carries them through (R320, R336, R457-R461): beginning, ending and
giving up a change, broadcasting its stage, knowing that its chime has passed; drain-then-change (R223). -/

namespace Sys2Proof.Machine

/-- A recovery of a garden. -/
def Job.recovers (j : Job) : Bool := j.kind = .gardenReset || j.kind = .replay || j.kind = .relief || j.kind = .autoRestore

/-! ### Ends of a change (R321, R332, R333) -/

def State.dropJob (s : State) (j : Job) : State := s.updPost fun p => { p with jobs := p.jobs.filter fun x => x.id ≠ j.id }

def State.putJob (s : State) (j : Job) : State := s.updJob j.id fun _ => j

def State.jobById (s : State) (id : Nat) : Option Job := s.post.jobs.find? fun j => j.id = id

/-- The letter of a change, if it has one, is answered DONE at the chime at which it took effect. -/
def State.answerJob (s : State) (j : Job) (body : List Byte) : State :=
  match j.letter with
  | none => s
  | some a => s.place a (a.receipt 0 0 body j.chime j.clamps)

/-- A change has taken effect. -/
def State.endJob (s : State) (j : Job) (body : List Byte) : State := (s.dropJob j).answerJob j body

/-- A change is given up: its letter is answered with a dead letter. -/
def State.failJob (s : State) (j : Job) (reason : Nat) (d : Detail := {}) : State :=
  let s := s.dropJob j
  match j.letter with
  | none => s
  | some a => s.place a (a.receipt 2 reason d.bytes 0 [])

/-- A change goes on: what it stages next and its next phase. -/
def State.nextPhase (s : State) (j : Job) (phase : Nat) (cs : List Change) : State :=
  s.putJob { j with phase := phase, changes := cs, staged := false, discards := 0 }

/-! ### Staging and chimes (R336, R457-R461) -/

/-- A change clashes with one not yet applied: with a record held by a unit it reaches, or with a stage on its way
(R458). -/
def State.heldBack (s : State) (cs : List Change) : Bool :=
  (s.post.stages.any fun g => g.changes.any fun a => cs.any fun b => a.clashes b && g.units.any fun u => s.reaches u b) ||
  (s.stageUnits cs).any fun u => (s.recordsOf u).any fun r => r.changes.any fun a => cs.any fun b => s.reaches u b && a.clashes b

/-- The next stage ID not in use: eight bits. -/
def State.freeStage (s : State) : Nat :=
  let from_ := s.post.nextStage
  (((List.range 256).map fun i => (from_ + i) % 256).find? fun id => s.post.stages.all fun g => g.id ≠ id).getD from_

/-- Broadcast a change's stage (R457, R466). -/
def State.broadcast (s : State) (j : Job) : State :=
  let id := s.freeStage
  let us := s.stageUnits j.changes
  let g : Stage := { id := id, changes := j.changes, units := us, pendingAck := us, round := s.round, named := j.named,
                     lastAck := s.now, job := j.id }
  let s := s.updPost fun p => { p with stages := p.stages ++ [g], nextStage := (id + 1) % 256 }
  let s := s.putJob { j with staged := true, chime := 0 }
  let s := (s.setSd Reg.SD_STAGE_ID id).setSd Reg.SD_STAGE_DISCARDED 0
  (s.setSd Reg.SD_STAGE_PENDING us.length).setSd Reg.SD_STAGE_OPEN (if us.isEmpty then 0 else 1)

/-- Every unit has applied a stage at its chime. -/
def State.applied (s : State) (g : Stage) : Bool :=
  g.t.any (fun t => t ≤ s.now) && g.units.all fun u => (s.recordsOf u).all fun r => r.id ≠ g.id

/-- A stage applied everywhere is done with; its change stages nothing more for now. -/
def State.closeStage (s : State) (g : Stage) : State :=
  let s := s.updPost fun p => { p with stages := p.stages.filter fun x => x.id ≠ g.id }
  s.updJob g.job fun j => { j with changes := [], staged := false, discards := 0, chime := g.t.getD 0, units := g.units }

/-! ### Drain-then-change (R223, R224, R410) -/

def holdF (g : Nat) : Fld := ⟨.pv, Reg.PV_FAB_CTL_HOLD.off, Reg.PV_FAB_CTL_HOLD.lo + g, 1⟩
def sholdF (g : Nat) : Fld := ⟨.pv, Reg.PV_FAB_CTL_SHOLD.off, Reg.PV_FAB_CTL_SHOLD.lo + g, 1⟩
def quietF (g : Nat) : Fld := ⟨.pv, Reg.PV_FAB_STATUS_FPQUIET.off, Reg.PV_FAB_STATUS_FPQUIET.lo + g, 1⟩

/-- Peer ports of the entries of garden `g` that a drain passes. -/
def State.armPeers (s : State) (g : Nat) (ports : List Nat) : State :=
  { s with sends := s.sends.map fun e => if e.garden = g && ports.contains e.port then { e with drained := false } else e }

/-- Each receive entry of the garden injects a drain marker (R410). -/
def State.markPeers (s : State) (g : Nat) (ports : List Nat) : State :=
  (s.recvs.filter fun e => e.garden = g && ports.contains e.port).foldl (fun s e =>
    let tag := s.endTag (codePeer (s.bridgeOf e.port)) g
    let b : Bundle := { avenue := e.avenue, garden := g, gen := tag, drain := true }
    { s with endAve := Fm.upd [] (e.port * 8 + e.pcp) (· ++ [((s.portAttach e.port).getD e.router 0, e.slice, { b with hcrc := b.headCrc })]) s.endAve }) s

/-- Steps 1-3: sources held, delivery entries armed, drain markers sent. -/
def State.startDrain (s : State) (g : Nat) (pavs ports : List Nat) : State :=
  let s := pavs.foldl (fun s p => s.updPav p fun v => v.setF (holdF g) 1) s
  let s := (pavs.foldl (fun s p => s.armEntries p (2 ^ g)) s).armPeers g ports
  (pavs.foldl (fun s p => s.markEntries p (2 ^ g)) s).markPeers g ports

/-- Step 4: quiet, and nothing left to drain; the staged copies are not locked by another change (R222). -/
def State.drained (s : State) (g : Nat) (pavs ports : List Nat) : Bool :=
  pavs.all (fun p => !(s.pav p).powered ||
    ((s.pav p).getF (quietF g) = 1 && s.avePend p g = 0 && (s.pav p).getF Reg.PV_FAB_STATUS_STAGELOCK = 0)) &&
  s.sends.all fun e => e.garden ≠ g || !ports.contains e.port || e.drained

/-- Step 5: SHOLD clear, to be taken by HOLD at the chime. -/
def State.endDrain (s : State) (g : Nat) (pavs : List Nat) : State :=
  pavs.foldl (fun s p => s.updPav p fun v => v.setF (sholdF g) 0) s

/-- A change that gives up its drain lets the sources go on. -/
def State.letGo (s : State) (g : Nat) (pavs : List Nat) : State :=
  pavs.foldl (fun s p => s.updPav p fun v => v.setF (holdF g) 0) s

/-! ### Garden states (R307, R316) -/

def gEmpty : Nat := 0
def gCreating : Nat := 1
def gCreated : Nat := 2
def gLoading : Nat := 3
def gLoaded : Nat := 4
def gRunning : Nat := 5
def gRecovering : Nat := 6
def gReleasing : Nat := 7

def State.gState (s : State) (g : Nat) : Nat := (s.garden g).getF Reg.GD_STATUS_STATE
def State.setGState (s : State) (g v : Nat) : State := s.updGarden g fun d => d.setF Reg.GD_STATUS_STATE v
def State.gTag (s : State) (g : Nat) : Nat := (s.garden g).getF Reg.GD_STATUS_GEN

/-- The tag that follows: eight bits (R218). -/
def State.nextTag (s : State) (g : Nat) : Nat := (s.gTag g + 1) % 256

def State.pavsOf (s : State) (g : Nat) : List Nat := (s.garden g).prot.pavs

/-- The mapped cores of a garden. -/
def State.coresMapped (s : State) (g : Nat) : List Nat := (s.garden g).place.map Prod.snd

/-- The ports of a garden's peer entries. -/
def State.portsOf (s : State) (g : Nat) : List Nat :=
  (((s.sends ++ s.recvs).filter fun e => e.garden = g).map fun e => e.port).eraseDups

/-- Pavilions that hold avenue entries of a garden, or belong to it. -/
def State.fabricPavs (s : State) (g : Nat) (trees : List Tree) : List Nat :=
  let of (ts : List Tree) : List Nat := ts.flatMap fun t => t.entries.map fun e => pavOf (e.1 / 32)
  (of trees).foldl (fun l p => sins p l) ((of (s.garden g).trees).foldl (fun l p => sins p l)
    ((s.pavsOf g).foldl (fun l p => sins p l) []))

/-! ### Counted time (R582) -/

/-- Ticks that a list of intervals covers, each once. -/
def unionLen : List (Nat × Nat) → Nat
  | [] => 0
  | r :: rs => sumLen (cutRanges [r] rs) + unionLen rs

/-- WD_AVAIL shows the union of the counted intervals. -/
def State.recountDown (s : State) (f : List Counted → List Counted) : State :=
  let s := s.updPost fun p => { p with counted := f p.counted }
  let us := s.post.countedBefore + unionLen (s.post.counted.map Counted.span) / ticksPerUs
  s.setWd Reg.WD_AVAIL_DOWNUS (min us (2 ^ 40 - 1))

/-- The intervals of counted time under way, up to now. -/
def Down.spans (now : Nat) (d : Down) : List (Nat × Nat) :=
  match d.since with
  | some t => d.pieces ++ [(t, now - t)]
  | none => d.pieces

/-- A commit is waited for: its time is update time (R271). -/
def State.pauseDown (s : State) (g : Nat) : State :=
  s.updGarden g fun d => { d with down := d.down.map fun w => { w with since := none, pieces := w.spans s.now } }

/-- The commit has ended. -/
def State.resumeDown (s : State) (g : Nat) : State :=
  s.updGarden g fun d => { d with down := d.down.map fun w => if w.since.isNone then { w with since := some s.now } else w }

/-- The time of a hang is charged to a guilty context, and not counted; or the hang's handling has ended, and it stands. -/
def State.chargeHang (s : State) (g : Nat) : State := s.recountDown fun l => l.filter fun c => !(c.hang && c.garden = g)
def State.standHang (s : State) (g : Nat) : State :=
  s.recountDown fun l => l.map fun c => if c.garden = g then { c with hang := false } else c

/-- Counted time ends: it is added to what counts, and shown in the garden's newest incident with the action and the new tag (R578,
R582). -/
def State.endDown (s : State) (g action : Nat) (counted : Bool) : State :=
  let down := ((s.garden g).down.filter fun _ => counted).getD {}
  let spans := down.spans s.now
  let us := sumLen spans / ticksPerUs
  let last := (s.ice.incidents.filter fun i => i.garden = g && i.boot = s.boot).foldl (fun b i => max b i.number) 0
  let tag := s.gTag g
  let s := s.updIce fun h =>
    { h with incidents := h.incidents.map fun i =>
        if i.number = last ∧ 0 < last then { i with downUs := us, gen := tag, action := if i.action = 0 then action else i.action } else i }
  let s := s.recountDown fun l => l ++ spans.map fun x => { garden := g, span := x, hang := down.hang }
  s.updGarden g fun d => { d with down := none }

/-! ### Events of the chain (R599) -/

def zeros48 : List Byte := List.replicate 48 0
def chainOf (d : Gdn) : List Byte := if d.chain.isEmpty then zeros48 else d.chain
def imageHash (d : Gdn) : List Byte := match d.image with | some i => i.hash | none => zeros48

def State.chainEvent (s : State) (g code : Nat) (hash : List Byte) : State :=
  s.updGarden g fun d => { d with chain := Config.sha384 (chainOf d ++ leBytes 1 code ++ hash) }

/-! ### Reserve (R285, R286) -/

def requiredReserve (n : Nat) : Nat := max 4 ((n + 24) / 25)

/-- SHORT of a garden; a change of it is a capacity change (R624). -/
def State.setShort (s : State) (g : Nat) (short : Bool) : State :=
  let was := (s.garden g).getF Reg.GD_STATUS_SHORT
  let s := s.updGarden g fun d => d.setF Reg.GD_STATUS_SHORT (if short then 1 else 0)
  if was = (if short then 1 else 0) then s else s.raise { kind := 0x09, unit := 10, unitId := g, garden := g, action := 7, flags := 2 }

/-- SHORT follows the reserve, and stands while a relief has found no place (R286, R310); its changes are capacity changes (R624). -/
def State.checkShort (s : State) (g : Nat) : State :=
  let d := s.garden g
  match d.image with
  | none => s.setShort g false
  | some i => s.setShort g (s.goodIn d.prot.pavs < i.size + requiredReserve i.size || d.stuck.isSome)

end Sys2Proof.Machine
end

