-- ==== Sys2Proof/Machine/PlaceOps.lean ====
section
/-! DEFINITION. Placement, relief targets and avenue routes (08_gardens_and_mapping.md, R289, R290, R306, R309, R415), and
the staged map and avenue tables they fill. -/

namespace Sys2Proof.Machine

/-! ### Sites -/

/-- A site that can run a program: good, its compute domain on. -/
def State.siteRuns (s : State) (c : Nat) : Bool := s.goodSite c && (s.pav (pavOf c)).getF Reg.PV_REG_STATUS_ON = 1

def absDiff (a b : Nat) : Nat := if a < b then b - a else a - b
def siteDist (a b : Nat) : Nat := absDiff (coreX a) (coreX b) + absDiff (coreY a) (coreY b)

/-- The site nearest to `c` among candidates, ties to the lower core ID. -/
def nearest (c : Nat) : List Nat → Option Nat
  | [] => none
  | x :: xs =>
    match nearest c xs with
    | none => some x
    | some y => if siteDist c y < siteDist c x ∨ (siteDist c y = siteDist c x ∧ y < x) then some y else some x

/-- Each site of `from_` in turn takes the nearest candidate left. -/
def assign : List (Nat × Nat) → List Nat → Option (List (Nat × Nat))
  | [], _ => some []
  | (l, c) :: rest, cands =>
    match nearest c cands with
    | none => none
    | some t => (assign rest (cands.filter fun x => x ≠ t)).map ((l, t) :: ·)

/-- A map from pairs of logical and physical core. -/
def mapOf (ps : List (Nat × Nat)) : FMap Nat := ps.foldl (fun m e => Fm.put e.1 e.2 m) []

/-! ### Parterre placement (R289) -/

structure Placement where
  place : FMap Nat
  origin : Nat := 0
  displaced : Nat := 0
  deriving DecidableEq, Repr

/-- Origins at which the whole footprint belongs to the pavilions. -/
def origins (pavs : List Nat) (w h : Nat) : List Nat :=
  (List.range Config.pavilions).filter fun o =>
    o % 18 + w ≤ 18 && o / 18 + h ≤ 24 &&
    (List.range h).all fun dy => (List.range w).all fun dx => pavs.contains (o + 18 * dy + dx)

def preferred (o : Nat) (r : Nat × Nat) : Nat := coreId (8 * (o % 18) + r.1) (8 * (o / 18) + r.2)

def placeParterre (ok : Nat → Bool) (pavs : List Nat) (place : List (Nat × Nat)) (w h : Nat) : Option Placement :=
  let away (o : Nat) : List (Nat × Nat) :=
    ((place.zip (List.range place.length)).map fun e => (e.2, preferred o e.1)).filter fun e => !ok e.2
  match origins pavs w h with
  | [] => none
  | o0 :: os =>
    let best := os.foldl (fun (b : Nat × List (Nat × Nat)) o =>
      let d := away o
      if d.length < b.2.length then (o, d) else b) (o0, away o0)
    let stay := ((place.zip (List.range place.length)).map fun e => (e.2, preferred best.1 e.1)).filter fun e => ok e.2
    let taken := stay.map Prod.snd
    let free := (pavs.flatMap coresOf).filter fun c => ok c && !taken.contains c
    (assign best.2 free).map fun moved => { place := mapOf (stay ++ moved), origin := best.1, displaced := best.2.length }

/-! ### Promenade placement (R290) -/

/-- Reserve shares pavilion by pavilion: a shortfall goes on to the next. -/
def mappedSites (good : Nat → List Nat) (share : Nat → Nat) : List Nat → Nat → Nat → List Nat
  | [], _, _ => []
  | p :: ps, i, extra =>
    let g := good p
    let want := share i + extra
    g.take (g.length - want) ++ mappedSites good share ps (i + 1) (want - g.length)

def placePromenade (ok : Nat → Bool) (pavs : List Nat) (n : Nat) : Option Placement :=
  let good (p : Nat) : List Nat := (coresOf p).filter ok
  let total := pavs.foldl (fun a p => a + (good p).length) 0
  if total < n ∨ pavs.isEmpty then none
  else
    let rv := total - n
    let k := pavs.length
    let share (i : Nat) : Nat := rv / k + (if i < rv % k then 1 else 0)
    let sites := (mappedSites good share pavs 0 0).take n
    if sites.length < n then none else some { place := mapOf ((List.range n).zip sites) }

/-- The placement of an image over a set of pavilions. -/
def placeImage (ok : Nat → Bool) (pavs : List Nat) (i : Image) : Option Placement :=
  if i.mode = 0 then placeParterre ok pavs i.place i.footW i.footH else placePromenade ok pavs i.size

/-! ### Routes (R306) -/

/-- The outputs of a path from one router to another along x and then y, or along y and then x. -/
def alongX (a b : Nat) : List Nat :=
  if coreX a < coreX b then List.replicate (coreX b - coreX a) 1 else List.replicate (coreX a - coreX b) 3
def alongY (a b : Nat) : List Nat :=
  if coreY a < coreY b then List.replicate (coreY b - coreY a) 2 else List.replicate (coreY a - coreY b) 0

/-- Routes under construction: outputs and slices in use, as router, output and slice; the entries of this avenue by key,
with the outputs and slices each drives. -/
structure Routing where
  used : List (Nat × Nat × Nat) := []
  ents : List (Nat × List (Nat × Nat)) := []

def aveKey (r port sl : Nat) : Nat := r * 32 + port * 4 + sl

/-- The slice an entry takes on an output, taking the lowest that is free where it has none yet. -/
def Routing.take (b : Routing) (r key out : Nat) : Option (Nat × Routing) :=
  let outs := ((b.ents.find? fun e => e.1 = key).map Prod.snd).getD []
  match outs.find? fun o => o.1 = out with
  | some o => some (o.2, b)
  | none =>
    match [1, 2, 3].find? fun sl => !b.used.contains (r, out, sl) with
    | none => none
    | some sl =>
      some (sl, { used := (r, out, sl) :: b.used,
                  ents := (key, outs ++ [(out, sl)]) :: b.ents.filter fun e => e.1 ≠ key })

/-- Follow outputs from an input, adding to the tree. -/
def follow (allowed : Nat → Bool) : List Nat → Nat → Nat → Nat → Routing → Option Routing
  | [], _, _, _, b => some b
  | o :: os, r, port, sl, b =>
    if !allowed r then none
    else match b.take r (aveKey r port sl) o with
      | none => none
      | some (sl2, b) =>
        if os.isEmpty then some b
        else match neighbour r o with
          | none => none
          | some r2 => follow allowed os r2 (opposite o) sl2 b

/-- A branch to router `d` leaving it by output `out`. -/
def grow (allowed : Nat → Bool) (r port sl d out : Nat) (b : Routing) : Option Routing :=
  match follow allowed (alongX r d ++ alongY r d ++ [out]) r port sl b with
  | some b => some b
  | none => follow allowed (alongY r d ++ alongX r d ++ [out]) r port sl b

/-- A branch along the routers of a hint. -/
def sideTo (a b : Nat) : Option Nat := [0, 1, 2, 3].find? fun side => neighbour a side = some b
def hintOuts : List Nat → Option (List Nat)
  | a :: b :: l => match sideTo a b, hintOuts (b :: l) with
    | some o, some os => some (o :: os)
    | _, _ => none
  | _ => some []

/-- The avenue entry of a key (R231). -/
def aveWord (g ave : Nat) (outs : List (Nat × Nat)) : Word :=
  let lo (out : Nat) : Nat := if out = 4 then 28 else 18 + 2 * out
  BitVec.ofNat 64 (outs.foldl (fun a o => a + 2 ^ (13 + o.1) + o.2 * 2 ^ lo o.1) (1 + g * 2 + ave * 8))

/-- Outputs and slices that avenue entries drive. -/
def usedBy (es : List (Nat × Word)) : List (Nat × Nat × Nat) :=
  es.flatMap fun e =>
    let a := decodeAve e.2
    if a.valid then ([0, 1, 2, 3, 4].filter a.goesTo).map fun out => (e.1 / 32, out, a.sliceOn out) else []

/-- The active avenue entries of a pavilion, by key. -/
def Pav.aveEntries (v : Pav) (p : Nat) : List (Nat × Word) :=
  v.regs.filterMap fun e =>
    if aveActive ≤ e.1 ∧ e.1 < aveActive + 0x4000 then
      let i := (e.1 - aveActive) / 8
      some (coreAt p (i / 32) * 32 + i % 32, e.2)
    else none

/-- Routers an avenue of the garden may occupy: its own, the attach routers of its peer port, and row 0 on the way to
lantern 2 while a spare carries the port (R281, R415). -/
def State.mayRoute (s : State) (pavs : List Nat) (peer : Option Nat) (r : Nat) : Bool :=
  (pavs.contains (pavOf r) || peer.any fun q => (s.portAttach q).contains r || ((s.swapOf q).isSome && coreY r = 0)) &&
  (s.pav (pavOf r)).powered && !(s.pav (pavOf r)).dark

/-- One avenue of an image, on a placement. -/
def State.routeAvenue (s : State) (g : Nat) (pavs : List Nat) (i : Image) (pl : Placement) (a : AveRec) (b : Routing) :
    Option (Tree × Routing) :=
  let site (l : Nat) : Nat := Fm.get 0 l pl.place
  let allowed := s.mayRoute pavs a.peer
  let root : Option (Nat × Nat × Nat) :=
    if 0x80000000 ≤ a.source then
      match a.peer with
      | none => none
      | some q =>
        let sl := a.source % 4
        if sl = 0 then none else some ((s.portAttach q).getD (a.source / 256 % 4) 0, 0, sl)
    else
      ([1, 2, 3].find? fun sl => !b.used.contains (site a.source, 9, sl)).map fun sl => (site a.source, 4, sl)
  match root with
  | none => none
  | some (r, port, sl) =>
    let ends := (if a.source < 0x80000000 then [a.source] else []) ++ a.dests
    let atHome := i.mode = 0 && ends.all fun l => site l = preferred pl.origin (i.place.getD l (0, 0))
    let b0 : Routing := { used := (if port = 4 then [(r, 9, sl)] else []) ++ b.used, ents := [] }
    let hinted : Option Routing :=
      if a.hint.isEmpty || !atHome then none
      else a.hint.foldl (fun (acc : Option Routing) path =>
        acc.bind fun acc =>
          let rs := path.map fun x => preferred pl.origin (x % 65536, x / 65536)
          match hintOuts rs with
          | some os => if rs.head? = some r then follow allowed (os ++ [4]) r port sl acc else none
          | none => none) (some b0)
    let plain : Option Routing := a.dests.foldl (fun (acc : Option Routing) l =>
      acc.bind fun acc => grow allowed r port sl (site l) 4 acc) (some b0)
    let built := match hinted with
      | some h => some h
      | none => plain
    let out : Option Routing := match built, a.peer with
      | some b, some q =>
        if 0x80000000 ≤ a.source then some b
        else (s.portAttach q).foldl (fun (acc : Option Routing) d =>
          match acc with
          | some x => some x
          | none => grow allowed r port sl d 0 b) none
      | x, _ => x
    out.map fun b2 =>
      ({ avenue := a.avenue, peer := a.peer, cores := ends,
         entries := b2.ents.map fun e => (e.1, aveWord g a.avenue e.2) }, { used := b2.used, ents := [] })

/-- Slices that a set of routed avenues and other gardens' entries in these pavilions hold; local inputs stand as output 9. -/
def State.usedSlices (s : State) (g : Nat) (pavs : List Nat) (kept : List Tree) : List (Nat × Nat × Nat) :=
  let others := pavs.flatMap fun p => ((s.pav p).aveEntries p).filter fun e => (decodeAve e.2).garden ≠ g
  let es := others ++ kept.flatMap fun t => t.entries
  usedBy es ++ (es.filter fun e => e.1 / 4 % 8 = 4 && (decodeAve e.2).valid).map fun e => (e.1 / 32, 9, e.1 % 4)

/-- The avenues of an image routed on a placement, beside those kept as they are; none where R306 fails. -/
def State.routeAll (s : State) (g : Nat) (pavs : List Nat) (i : Image) (pl : Placement) (kept : List Tree) : Option (List Tree) :=
  let todo := i.avenues.filter fun a => !kept.any fun t => t.avenue = a.avenue && t.peer = a.peer
  let row0 := (List.range 18).filter fun p => !pavs.contains p
  let b0 : Routing := { used := s.usedSlices g (pavs ++ row0) kept }
  ((todo.foldl (fun (acc : Option (List Tree × Routing)) a =>
    acc.bind fun x => (s.routeAvenue g pavs i pl a x.2).map fun r => (x.1 ++ [r.1], r.2)) (some (kept, b0))).map Prod.fst)

/-! ### Staged tables (R222, R287) -/

def fullMap (place : FMap Nat) : FMap Nat := Fm.mapv 0 (fun _ c => 0x8000 + c) place

/-- Stage the avenue entries of a garden: others stay as they are active. -/
def Pav.stageTrees (p g : Nat) (trees : List Tree) (v : Pav) : Pav :=
  let listed := v.regs.filter fun e => (aveActive ≤ e.1 && e.1 < aveActive + 0x4000)
  let keep := listed.filterMap fun e =>
    let a := decodeAve e.2
    if a.valid ∧ a.garden ≠ g then some ((e.1 - aveActive) / 8, withBits e.2 30 1 0) else none
  let mine := (trees.flatMap fun t => t.entries).filterMap fun e =>
    if pavOf (e.1 / 32) = p then some (coreIdx (e.1 / 32) * 32 + e.1 % 32, e.2) else none
  let clean := v.regs.filter fun e => !(aveStaged ≤ e.1 && e.1 < aveStaged + 0x4000)
  { v with regs := (keep ++ mine).foldl (fun m e => setReg .pv (aveStaged + 8 * e.1) e.2 m) clean }

/-- The staged copies of a garden's avenues and map; a pavilion whose copies are locked ignores the writes (R222). -/
def State.stageTables (s : State) (g : Nat) (pavs : List Nat) (trees : List Tree) (place : FMap Nat) : State :=
  let own := s.pavsOf g
  pavs.foldl (fun s p => s.updPav p fun v =>
    if v.getF Reg.PV_FAB_STATUS_STAGELOCK = 1 then v else
    let v := v.stageTrees p g trees
    if own.contains p then { v with mapStaged := fullMap place } else v) s

/-! ### Relief targets (R309, R568) -/

/-- Protections that changes in progress are to give: of every garden, or of the others. -/
def State.asked (s : State) (which : Nat → Bool) : List Protection := (s.post.jobs.filter fun j => which j.garden).filterMap fun j => j.prot

/-- Protections that other gardens hold or are about to hold. -/
def State.othersHold (s : State) (g : Nat) : List Protection :=
  (((List.range 4).filter (· ≠ g)).map fun h => (s.garden h).prot) ++ s.asked (· ≠ g)

/-- Pavilions that other gardens hold or are about to hold. -/
def State.claimed (s : State) (g : Nat) : List Nat := (s.othersHold g).flatMap fun p => p.pavs

/-- Pavilions on their way out of a garden. -/
def State.leaving (s : State) (g : Nat) : List Nat :=
  s.post.jobs.flatMap fun j =>
    if j.garden = g ∧ j.kind = .protect then
      match j.prot with
      | some new => (s.pavsOf g).filter fun p => !new.pavs.contains p
      | none => []
    else []

/-- A site relief may move a core to. -/
def State.mayTake (s : State) (g c : Nat) : Bool :=
  s.siteRuns c && !(s.site c).suspect && !(s.leaving g).contains (pavOf c)

/-- How a relief places the cores to be moved: the variant (1 swap, 2 near, 3 annex, 4 re-place), the placement, and the
pavilion an annex adds. -/
structure Relief where
  variant : Nat
  pl : Placement
  trees : List Tree := []
  annex : Option Nat := none

/-- A free pavilion next to the garden: one no change in progress asks for. -/
def State.annexable (s : State) (g : Nat) : Option Nat :=
  let own := s.pavsOf g
  if (s.garden g).getF Reg.GD_CFG_ANNEX = 0 then none
  else (List.range Config.pavilions).find? fun p =>
    (s.pav p).owner.isNone && (s.pav p).powered && !(s.pav p).dark && (s.pav p).getF Reg.PV_REG_STATUS_ON = 1 &&
    own.any (adjacent p) && !own.contains p && !(s.claimed g).contains p && !(s.asked fun _ => true).any fun q => q.pavs.contains p

/-- The cores `ls` placed each in its own way; `cands` are the reserve sites it may go to. -/
def assignEach (ls : List (Nat × Nat)) (cands : Nat → List Nat) : Option (List (Nat × Nat)) :=
  (ls.foldl (fun (acc : Option (List (Nat × Nat))) e =>
    acc.bind fun got =>
      (nearest e.2 ((cands e.2).filter fun c => got.all fun x => x.2 ≠ c)).map fun t => got ++ [(e.1, t)]) (some []))

def State.chooseRelief (s : State) (g : Nat) (whole : Bool) : Option Relief :=
  let d := s.garden g
  match d.image with
  | none => none
  | some i =>
    let pavs := d.prot.pavs
    let moved := (d.place.filter fun e => d.toMove.contains e.1)
    let mapped := d.place.map Prod.snd
    let origin := d.getF Reg.GD_ORIGIN_VY * 18 + d.getF Reg.GD_ORIGIN_VX
    let merge (ps : List (Nat × Nat)) : Placement :=
      { place := ps.foldl (fun m e => Fm.put e.1 e.2 m) d.place, origin := origin }
    let kept (ts : List Tree) : List Tree := ts.filter fun t => t.cores.all fun l => !d.toMove.contains l
    let reserve (ps : List Nat) : List Nat := (ps.flatMap coresOf).filter fun c => s.mayTake g c && !mapped.contains c
    let routed (v : Nat) (ps : List (Nat × Nat)) (extra : List Nat) : Option Relief :=
      (s.routeAll g (pavs ++ extra) i (merge ps) (kept d.trees)).map fun ts =>
        { variant := v, pl := merge ps, trees := ts, annex := extra.head? }
    let small := moved.length ≤ 64 && !whole
    let swap := if small then (assignEach moved fun c => reserve [pavOf c]).bind fun ps => routed 1 ps [] else none
    let near := if small then (assignEach moved fun _ => reserve pavs).bind fun ps => routed 2 ps [] else none
    let fits := !(assignEach moved fun _ => reserve pavs).isNone
    let annex := if small && !fits then
        (s.annexable g).bind fun q => (assignEach moved fun _ => reserve (pavs ++ [q])).bind fun ps => routed 3 ps [q]
      else none
    let again := if !small || fits then
        let live := pavs.filter fun p => (s.pav p).powered && !(s.pav p).dark && !(s.leaving g).contains p
        let avoid (c : Nat) : Bool := moved.any fun e => e.2 = c
        (placeImage (fun c => s.mayTake g c && !avoid c) live i).bind fun pl =>
          (s.routeAll g pavs i pl []).map fun ts => { variant := 4, pl := pl, trees := ts }
      else none
    match swap, near, annex with
    | some r, _, _ => some r
    | none, some r, _ => some r
    | none, none, some r => some r
    | none, none, none => again

end Sys2Proof.Machine
end

