-- ==== Sys2Proof/Machine/EngineOps.lean ====
section
/-! DEFINITION. Update plans as the postmaster installs them (R258, R264-R272, R294, R295, R344): translation of a plan's
bases, arena, descriptors and masks in every orangery, ARM and DISARM of them all, the combination of partials. -/

namespace Sys2Proof.Machine

/-- Every engine state of a garden. -/
def State.engStates (s : State) (g : Nat) : List Nat := allOras.map fun o => (s.orang o).eng g

def State.engAll (s : State) (g : Nat) (ok : Nat → Bool) : Bool := (s.engStates g).all ok

/-- Apply a command in every present orangery. -/
def State.eachOra (s : State) (f : Nat → Ora → Ora) : State := allOras.foldl (fun s o => s.updOra o (f o)) s

/-! ### The garden view, read and written by the postmaster (R291-R293) -/

/-- The physical range of a garden-view range that lies in one window with the access. -/
def State.viewAddr (s : State) (g a n : Nat) (acc : Access) : Option Nat := slowWindow (s.garden g).prot.windows a n acc

/-- A block of a physical range that cannot be read: poisoned, or of an orangery that is lost (R239). -/
def State.poisonedIn (s : State) (a n : Nat) : Bool :=
  allOras.any fun o =>
    let v := s.orang o
    let near (b : Nat) : Bool := b < usableBlocks && a < slowOf o (64 * b) + 64 && slowOf o (64 * b) < a + n
    v.poison.any near || v.bad.any near || (v.lost && (List.range (n / 4096 + 2)).any fun i => a / 4096 * 4096 + 4096 * i < a + n && oraOf (a + 4096 * i) = o)

/-- What reading garden-view bytes gives: the range refused, unreadable, or the bytes. -/
inductive ViewRead where
  | refused | unreadable | bytes (bs : List Byte)
  deriving DecidableEq, Repr

def State.viewRead (s : State) (g a n : Nat) : ViewRead :=
  match s.viewAddr g a n .load with
  | none => .refused
  | some p => if n = 0 || s.poisonedIn p n then .unreadable else .bytes (s.slowRead p n)

/-! ### Plans (R264, R294, R295) -/

/-- A range that lies inside one window with RD and WR set. -/
def State.viewRw (s : State) (g a n : Nat) : Option Nat :=
  match s.viewAddr g a n .load, s.viewAddr g a n .store with
  | some p, some _ => some p
  | _, _ => none

/-- A layer with its bases in the slow tier and its garden written in; none where R295 refuses it. -/
def State.layerAt (s : State) (g : Nat) (r : LayerRec) : Option LayerRec :=
  let l := decodeLayer r.id r.words
  let any (a n : Nat) : Option Nat :=
    if a < viewSlow then none
    else (s.garden g).prot.windows.findSome? fun w =>
      if w.holds (a - viewSlow) && w.holds (a - viewSlow + n - 1) then some (w.pbase * 65536 + (a - viewSlow) - w.lbase * 65536) else none
  match s.viewRw g l.weights.1 l.weights.2, s.viewRw g l.momentum.1 l.momentum.2, any l.signs.1 l.signs.2 with
  | some w, some m, some b =>
    let w0 := withBits (withBits (wordAt r.words 0) 0 48 w) 48 2 g
    let w1 := withBits (wordAt r.words 1) 0 48 m
    let w2 := withBits (wordAt r.words 2) 0 48 b
    some { r with words := w0 :: w1 :: w2 :: r.words.drop 3 }
  | _, _, _ => none

def allSome {α : Type} : List (Option α) → Option (List α)
  | [] => some []
  | none :: _ => none
  | some a :: l => (allSome l).map (a :: ·)

/-- A plan with physical bases; none where R295 refuses it. -/
def State.planAt (s : State) (g : Nat) (p : Plan) : Option Plan :=
  match s.viewAddr g p.arenaBase p.arenaSize .store, allSome (p.layers.map (s.layerAt g)) with
  | some a, some ls => some { p with arenaBase := a, layers := ls }
  | _, _ => none

/-- The registers hold arenas in units of 64 KiB. -/
def Plan.aligned (p : Plan) : Bool := p.arenaBase % 65536 = 0 && p.arenaSize % 65536 = 0

/-! ### Installing (R265, R268, R344) -/

/-- Descriptors of a garden that a new plan does not name lose VALID. -/
def Ora.clearLayers (g : Nat) (ids : List Nat) (o : Ora) : Ora :=
  (o.layersOf g).foldl (fun o l =>
    if ids.contains l.id then o else o.writeLayer l.id 0 (withBits (o.layerWord l.id 0) 50 1 0)) o

/-- The freeze masks of a layer's granules in one orangery (R263). -/
def Ora.writeMasks (id : Nat) (r : LayerRec) (o : Ora) : Ora :=
  let l := decodeLayer r.id r.words
  if !l.mask then o
  else
    let mine (b : Nat) : Bool := (l.owned id).any fun qj => (maskBlocks (l.slot + qj.1)).contains b
    { o.wrote mine mine with masks := (l.owned id).foldl (fun m qj => writeBytes ((l.slot + qj.1) * 128) (slice r.masks (128 * qj.2) 128) m) o.masks }

/-- A plan written into one orangery: arena, descriptors, masks. -/
def Ora.writePlan (id g : Nat) (p : Plan) (o : Ora) : Ora :=
  let o := o.clearLayers g (p.layers.map fun r => r.id)
  let o := o.writeArena g (BitVec.ofNat 64 (p.arenaBase / 65536 + p.arenaSize / 65536 * 2 ^ 32))
  p.layers.foldl (fun o r =>
    let o := (List.range 8).foldl (fun o w => o.writeLayer r.id w (wordAt r.words w)) o
    o.writeMasks id r) o

def State.writePlan (s : State) (g : Nat) (p : Plan) : State := s.eachOra fun id o => o.writePlan id g p

/-- No plan: the garden's descriptors lose VALID. -/
def State.clearPlan (s : State) (g : Nat) : State := s.eachOra fun _ o => o.clearLayers g []

def State.armAll (s : State) (g : Nat) : State := s.eachOra fun _ o => o.arm g

/-- DISARM where it is accepted and not asked for already. -/
def State.disarmAll (s : State) (g : Nat) : State :=
  s.eachOra fun _ o => if o.eng g = engNone || o.eng g = engNorm || o.deferDisarm.contains g then o else o.disarm g

/-- DISCARD in every orangery that is in COLLECT, PREPARED or REFUSED. -/
def State.discardAll (s : State) (g : Nat) : State := s.eachOra fun id o => if o.mayDiscard g then o.discardCmd id g else o

/-! ### ρ (R258) -/

/-- The partials of a layer summed in FP64 in ascending orangery ID; a negative total is zero. -/
def State.sumPartials (s : State) (id : Nat) : FV :=
  let t := allOras.foldl (fun a o => addF64 a (BitVec.ofNat 64 ((s.orang o).getF (Reg.OR_LAYER_PARTIAL_PARTIAL id)))) (0 : Word)
  let v := fp64.decode t.toNat
  if v.belowZero then .fin false 0 0 else v

/-- RHO of every layer of a garden written in every present orangery. -/
def State.combineRho (s : State) (g : Nat) : State :=
  match allOras with
  | [] => s
  | o0 :: _ =>
    ((s.orang o0).layersOf g).foldl (fun s l =>
      let rho := rhoOf (s.sumPartials l.id) l.normcount
      s.eachOra fun _ o => o.writeLayer l.id 7 (withBits (o.layerWord l.id 7) 32 32 rho)) s

/-! ### The engines' private state, kept and put back (R274, R307, R435) -/

/-- A garden's plan as its tables hold it, with its garden-view bases: RHO is the tables'. -/
def State.planHeld (s : State) (g : Nat) : Option Plan :=
  ((s.garden g).image.bind fun i => i.plan).map fun p =>
    { p with layers := p.layers.map fun r => { r with words := r.words.take 7 ++ [(s.orang (allOras.headD 0)).layerWord r.id 7] } }

/-- The plan in force: none while it is not armed (R274). -/
def State.planNow (s : State) (g : Nat) : Option Plan := if s.armed g then s.planHeld g else none

/-- The private state of the orangeries for a plan: sums, partials, masks. -/
def privateState (s : State) (p : Plan) (c : Checkpoint) : Checkpoint :=
  allOras.foldl (fun c o =>
    let v := s.orang o
    p.layers.foldl (fun c r =>
      let l := decodeLayer r.id r.words
      let slots := (l.owned o).map fun qj => l.slot + qj.1
      let key (x : Nat) : Nat := o * 2 ^ 32 + x
      { c with
        sums := slots.foldl (fun m x => Fm.set 0 (key x) (Fm.get 0 x v.sums) m) c.sums
        partials := Fm.set 0 (key r.id) (BitVec.ofNat 64 (v.getF (Reg.OR_LAYER_PARTIAL_PARTIAL r.id))) c.partials
        masks := if l.mask then slots.foldl (fun m x =>
            Fm.putAll 0 (Fm.window (x * 128) 128 (key (x * 128)) v.masks) m) c.masks else c.masks }) c) c

/-- The private state of an image into one orangery. -/
def Ora.restorePrivate (id g : Nat) (c : Checkpoint) (p : Plan) (o : Ora) : Ora :=
  let o := o.writePlan id g p
  p.layers.foldl (fun o r =>
    let l := decodeLayer r.id r.words
    let slots := (l.owned id).map fun qj => l.slot + qj.1
    let key (x : Nat) : Nat := id * 2 ^ 32 + x
    let o := o.setF (Reg.OR_LAYER_PARTIAL_PARTIAL r.id) (Fm.get 0 (key r.id) c.partials).toNat
    { o with
      sums := slots.foldl (fun m x => Fm.set 0 x (Fm.get 0 (key x) c.sums) m) o.sums
      masks := if l.mask then slots.foldl (fun m x =>
          Fm.putAll 0 (Fm.window (key (x * 128)) 128 (x * 128) c.masks) (Fm.clearRange (x * 128) 128 m)) o.masks else o.masks }) o

end Sys2Proof.Machine
end

