-- ==== Sys2Proof/Machine/Gardens.lean ====
section
/-! DEFINITION. Letters that create, load, run and release gardens (08_gardens_and_mapping.md, R294-R299, R307, R308,
R341): what each checks when it begins to act, and the phases of its change. -/

namespace Sys2Proof.Machine

/-! ### Protection (R280-R282, R294, R341) -/

def State.otherWindows (s : State) (g : Nat) : List Window :=
  (s.othersHold g).flatMap fun p => p.windows

/-- A peer port that another garden holds or is about to hold (R280). -/
def State.peerTaken (s : State) (g : Nat) (new : Protection) : Option Nat :=
  (List.range 16).find? fun q => new.peer.testBit q && (s.othersHold g).any fun p => p.peer.testBit q

/-- A port the record grants is absent. -/
def absentPeer (p : Protection) : Option Nat := (List.range 16).find? fun q => p.peer.testBit q && !Config.peerPresent q

/-- R282: a pavilion of row 0 under the attach routers of each granted port's bridge. -/
def peersReached (p : Protection) : Bool :=
  (List.range 16).all fun q => !p.peer.testBit q ||
    (let lo := [8, 36, 92, 120].getD (q / 4) 0
     p.pavs.any fun v => v < 18 && 8 * v ≤ lo + 15 && lo ≤ 8 * v + 7)

/-- What stands in the way of taking pavilions: nothing, a shutdown in progress (whose letter is named), or one that is
taken or not live. -/
inductive PavBlock where
  | free
  | wait (code seq : Nat)
  | taken (p : Nat)
  deriving DecidableEq, Repr

def State.letterName (s : State) (which : Job → Bool) : Nat × Nat :=
  match (s.post.jobs.find? which).bind fun j => j.letter with
  | some a => (a.letter.code, a.letter.sequence)
  | none => (0, 0)

def State.pavBlock (s : State) (g : Nat) (ps : List Nat) : PavBlock :=
  let shutting (p : Nat) : Option (Nat × Nat) :=
    match ((List.range 4).filter (· ≠ g)).find? fun h =>
        (s.gState h = gReleasing && (s.pavsOf h).contains p) || (s.leaving h).contains p with
    | some h => some (s.letterName fun j => j.garden = h && (j.kind = .release || j.kind = .protect))
    | none => if (s.pav p).switchingOff then some (0, 0) else none
  match ps.findSome? shutting with
  | some w => .wait w.1 w.2
  | none =>
    match ps.find? fun p => (s.claimed g).contains p || !(s.pav p).powered || (s.pav p).dark with
    | some p => .taken p
    | none => .free

/-- A window of the record covers a range released and not yet zeroed (R299). -/
def State.awaitsZero (s : State) (ws : List Window) : Bool :=
  ws.any fun w => s.toZero.any fun z => overlaps (w.pbase * 65536, w.size * 65536) z

/-- GD_GRANT_STAGED and the staged windows, in the garden's registers and in its thoroughfares. -/
def State.stageProt (s : State) (g : Nat) (pavs : List Nat) (new : Protection) : State :=
  let s := s.updGarden g fun d =>
    let d := d.setF Reg.GD_GRANT_STAGED_STAGED (new.peer + new.host * 65536)
    (List.range 16).foldl (fun d n =>
      let w := new.windows.getD n {}
      let d := (d.setF (Reg.GD_WSTAGE_A_LBASE n) w.lbase).setF (Reg.GD_WSTAGE_A_PBASE n) w.pbase
      let d := ((d.setF (Reg.GD_WSTAGE_B_SIZE n) w.size).setF (Reg.GD_WSTAGE_B_RD n) (b01 w.rd)).setF (Reg.GD_WSTAGE_B_WR n) (b01 w.wr)
      (d.setF (Reg.GD_WSTAGE_B_HOST n) (b01 w.host)).setF (Reg.GD_WSTAGE_B_KEEP n) (b01 w.keep)) d
  pavs.foldl (fun s p => s.updPav p fun v => { v with windowsStaged := new.windows }) s

def State.zeroed (s : State) (ps : List Nat) : Bool := ps.all fun p => (s.pav p).getF Reg.PV_SPAD_CTL_BUSY = 0

/-- Ranges that no window covers any more, of windows without KEEP, are to be zeroed (R299). -/
def State.releaseWindows (s : State) (gone still : List Window) : State :=
  let bytes (w : Window) : Nat × Nat := (w.pbase * 65536, w.size * 65536)
  let rs := cutRanges ((gone.filter fun w => !w.keep).map bytes) (still.map bytes)
  { s with toZero := s.toZero ++ rs }

/-- SLOW_TIER_ZEROING (R299): a range released is zeroed by its orangeries. -/
def execSlowTierZeroing (base size : Nat) (s : State) : Res :=
  if !s.toZero.contains (base, size) then .next s
  else
    let zero (s : State) : State :=
      allOras.foldl (fun s o => s.updOra o fun v =>
        let within (b : Nat) : Bool := b < usableBlocks && base ≤ slowOf o (64 * b) && slowOf o (64 * b) < base + size
        v.wrote within within)
        { s with slow := Fm.clearRange base size s.slow }
    .next (zero { s with toZero := s.toZero.erase (base, size) })

/-! ### GARDEN_CREATE (R307 steps 1-4) -/

def State.gardenCreate (s : State) (a : Accepted) : State :=
  let g := a.letter.garden
  let new := readProt a.letter.body
  let waits := s.gState g = gReleasing
  let s := s.updGarden g fun d => d.setF Reg.GD_STATUS_DEFERRED (b01 waits)
  match absentPeer new with
  | some q => s.dead a dAbsent { unit := 8, unitId := q }
  | none =>
    if waits then
      let w := s.letterName fun j => j.garden = g && j.kind = .release
      s.defer a w.1 w.2
    else if s.gState g ≠ gEmpty then s.dead a dState { unit := 10, unitId := g }
    else match s.pavBlock g new.pavs, s.peerTaken g new with
      | .wait c q, _ => s.defer a c q
      | .taken p, _ => s.dead a dState { unit := 2, unitId := p }
      | .free, some q => s.dead a dState { unit := 8, unitId := q }
      | .free, none =>
        if !protFieldsOk a.letter.body || !connected new.pavs then s.dead a dField { offset := 0 }
        else if !windowsOk new.windows (s.otherWindows g) || !peersReached new then s.dead a dProtection
        else if s.awaitsZero new.windows then s.defer a 0 0
        else
          let s := (new.pavs.foldl State.startZero s).setGState g gCreating
          s.begin a { kind := .create, garden := g, prot := some new, arg := s.round }

def execGardenCreate (ch : Nat) (s : State) : Res := onLetter 0x20 ch s fun a s => s.gardenCreate a

def State.createPoll (s : State) (j : Job) : State :=
  let new := j.prot.getD {}
  if j.phase = 0 && j.arg < s.round && s.zeroed new.pavs then
    let s := s.stageProt j.garden new.pavs new
    s.nextPhase j 1 [.gen j.garden (s.nextTag j.garden), .prot j.garden {} new]
  else s

def State.createChimed (s : State) (j : Job) : State :=
  let g := j.garden
  let new := s.stagedProt g (j.prot.getD {})
  let tag := s.nextTag g
  let s := s.updGarden g fun d =>
    let d := ((d.setF Reg.GD_STATUS_GEN tag).setF Reg.GD_STATUS_STATE gCreated).setF Reg.GD_CFG_ANNEX (b01 new.annex)
    { d with prot := new, divider := 0 }
  (s.chainEvent g 1 (Config.sha384 new.raw)).endJob j []

/-! ### GARDEN_LOAD (R289, R290, R295, R305, R307 steps 5-8) -/

def Image.coverBells (i : Image) (l : Nat) : Nat :=
  (List.range 16).foldl (fun m b => if (i.bells.getD b []).contains l then m + 2 ^ b else m) 0

/-- The share of an image that a logical core holds: program, ENTRY, bells, resident data, layer schedule. -/
def Image.share (i : Image) (l : Nat) (k : Core) : Core :=
  let k := match i.programs.find? fun p => p.cores.contains l with
    | some p =>
      { k.setF Reg.KP_CTRL_ENTRY p.entry with
        pstore := (p.words.foldl (fun (x : Nat × FMap W32) w => (x.1 + 1, Fm.set 0 x.1 w x.2)) (0, [])).2, pstoreBad := [],
        pstoreCe := [] }
    | none => k
  let k := k.setF Reg.KP_BELL_MEMBER (i.coverBells l)
  let k := i.resident.foldl (fun k r => if r.core = 0xFFFFFFFF ∨ r.core = l then k.spadWrite r.off r.bytes else k) k
  if i.layers.isEmpty then k else k.spadWrite 0x5F0000 (i.layers.take 65536)

/-- The windows an image asks for: the owner's windows, one or several together, give each range with its permissions (R305). -/
def State.imageWindows (s : State) (g : Nat) (i : Image) : Bool :=
  i.windows.all fun w =>
    let giving := (s.garden g).prot.windows.filter fun v => (!w.rd || v.rd) && (!w.wr || v.wr) && (!w.host || v.host)
    w.size = 0 || (cutRanges [w.logical] (giving.map Window.logical)).isEmpty

/-- Cores a garden holds or, by a load in progress, is about to hold. -/
def State.sizeHeld (s : State) (g : Nat) : Nat :=
  (s.post.jobs.filter fun j => j.garden = g && j.kind = .load).foldl (fun n j => max n ((j.image.map fun i => i.size).getD 0)) (s.gdnSize g)

/-- Cores of the gardens, with what this one is to hold (R281). -/
def State.coresAsked (s : State) (g n : Nat) : Nat :=
  n + ((List.range 4).filter (· ≠ g)).foldl (fun a h => a + s.sizeHeld h) 0

/-- Begin a load whose image, placement and routes stand. -/
def State.beginLoad (s : State) (a : Accepted) (i : Image) (pl : Placement) (ts : List Tree) (cl : List Clamp) : State :=
  let g := a.letter.garden
  let s := s.updPost fun p => { p with saved := Fm.set {} g { gdn := s.garden g } p.saved }
  let s := s.setGState g gLoading
  s.begin a { kind := .load, garden := g, image := some i, trees := ts, moves := pl.place.map fun e => (e.1, e.2, 0),
              arg := pl.origin, arg2 := pl.displaced, clamps := cl }

/-- An image of an update plan, in a module without engines: the check of absent units stands before that of the state (R335). -/
def ViewRead.needsEngines (r : ViewRead) : Bool :=
  match r with
  | .bytes bs => !engines && (readImage bs).any fun i => i.plan.isSome
  | _ => false

def State.gardenLoad (s : State) (a : Accepted) : State :=
  let g := a.letter.garden
  let read := s.viewRead g (a.letter.field 0 8) (a.letter.field 8 8)
  if read.needsEngines then s.dead a dAbsent { unit := 5 }
  else if s.gState g ≠ gCreated ∧ s.gState g ≠ gLoaded then s.dead a dState { unit := 10, unitId := g }
  else match read with
    | .refused => s.dead a dProtection { offset := 0 }
    | .unreadable => s.dead a dImage
    | .bytes bs =>
      match readImage bs with
      | none => s.dead a dImage
      | some i =>
        if !s.imageWindows g i then s.dead a dImage
        else if Config.exposedCores < s.coresAsked g i.size ∨ s.goodIn (s.pavsOf g) < i.size + requiredReserve i.size then
          s.dead a dResource
        else if i.plan.any fun p => (s.planAt g p).isNone then s.dead a dProtection
        else if i.plan.any fun p => !p.aligned then s.dead a dPlan
        else
          let ok := if i.mode = 0 then s.siteRuns else s.goodSite
          match placeImage ok (s.pavsOf g) i with
          | none => s.dead a dPlacement
          | some pl =>
            match s.routeAll g (s.pavsOf g) i pl [] with
            | none => s.dead a dPlacement
            | some ts => s.beginLoad a i pl ts (imageClamps bs)

def execGardenLoad (ch : Nat) (s : State) : Res := onLetter 0x21 ch s fun a s => s.gardenLoad a

/-- Step 6: what the load overwrites is kept; then every mapped core takes its share. -/
def State.writeShares (s : State) (j : Job) (i : Image) : State :=
  let g := j.garden
  let d := s.garden g
  let kept := (s.planHeld g).map fun p => privateState s p { id := 0, garden := g, slot := 0, plan := some p }
  let s := s.updPost fun p => { p with saved := Fm.upd {} g (fun sv =>
    { sv with cores := j.moves.map fun m => (m.2.1, s.core m.2.1), kept := kept, armed := s.armed g }) p.saved }
  let s := j.moves.foldl (fun s m =>
    let fresh := Fm.get Config.coreSites m.1 d.place ≠ m.2.1
    s.updCore m.2.1 fun k => i.share m.1 (if fresh then k.zeroed else k)) s
  d.prot.pavs.foldl (fun s p => s.updPav p fun v => { v with envelopes := i.envelopes }) s

/-- The plan that a garden had goes back into the engines, armed if it was. -/
def State.planBack (s : State) (g : Nat) (sv : Saved) : State :=
  match sv.kept with
  | none => s.clearPlan g
  | some c =>
    match c.plan.bind (s.planAt g) with
    | none => s.clearPlan g
    | some p => s.eachOra fun o v =>
        let v := v.restorePrivate o g c p
        if sv.armed then v.toCollect o g else v

/-- Logical cores that a placement has at retired sites: to be moved (R309). -/
def State.unsound (s : State) (place : FMap Nat) : List Nat := (place.filter fun e => !s.goodSite e.2).map Prod.fst

/-- A load that fails leaves the garden as it was (R307). -/
def State.loadUndo (s : State) (g : Nat) : State :=
  let sv := Fm.get {} g s.post.saved
  let s := sv.cores.foldl (fun s e => s.setCore e.1 e.2) s
  let back := { sv.gdn with toMove := (s.unsound sv.gdn.place).foldl (fun l x => sins x l) sv.gdn.toMove }
  let s := { s with gardens := Fm.set {} g back s.gardens }
  let s := s.planBack g sv
  let envs := (sv.gdn.image.map fun i => i.envelopes).getD []
  let s := sv.gdn.prot.pavs.foldl (fun s p => s.updPav p fun v => { v with envelopes := envs }) s
  s.updPost fun p => { p with saved := Fm.del g p.saved }

/-- Step 7: the map and the entries are staged, after a drain where an image is replaced. -/
def State.stageLoad (s : State) (j : Job) : State :=
  let g := j.garden
  let i := j.image
  let ps := s.fabricPavs g j.trees
  let place := mapOf (j.moves.map fun m => (m.1, m.2.1))
  let s := (s.stageTables g ps j.trees place).endDrain g ps
  s.nextPhase j 3 [.fabric g ps, .divider g (s.pavsOf g) ((i.map fun i => i.divider).getD 0)]

def State.drainLoad (s : State) (j : Job) : State :=
  let g := j.garden
  if (s.garden g).place.isEmpty then s.stageLoad j
  else (s.startDrain g (s.fabricPavs g j.trees) (s.portsOf g)).nextPhase j 2 []

/-- The plan that was is disarmed, and the image's, where it has one, is written and armed. -/
def State.armLoad (s : State) (j : Job) : State :=
  let g := j.garden
  let s := s.disarmAll g
  if !s.engAll g (· = engNone) then s.nextPhase j 4 []
  else match j.image.bind fun i => i.plan.bind fun p => s.planAt g p with
    | none => (s.clearPlan g).drainLoad j
    | some p =>
      let s := (s.writePlan g p).armAll g
      if s.engAll g (· = engNorm) then s.nextPhase j 1 [] else s.nextPhase j 9 []

/-- How far a load has come: phase 0 waits until every site takes writes, 4 for the engines to be disarmed, 1 for ARM, 2 for the drain; 3
is staged; 9 undoes it. -/
def State.loadPoll (s : State) (j : Job) : State :=
  let g := j.garden
  match j.phase with
  | 0 =>
    match j.image with
    | none => s.dropJob j
    | some i => if j.moves.all fun m => s.takesWrites m.2.1 then (s.writeShares j i).armLoad j else s
  | 4 => s.armLoad j
  | 1 => if s.engAll g (· = engCollect) then (s.combineRho g).drainLoad j else s
  | 2 => if s.drained g (s.fabricPavs g j.trees) (s.portsOf g) then s.stageLoad j else s
  | 9 =>
    let s := s.disarmAll g
    if s.engAll g (· = engNone) then (s.loadUndo g).failJob j (if j.cause = 0 then dPlan else j.cause) else s
  | _ => s

def State.loadChimed (s : State) (j : Job) : State :=
  let g := j.garden
  match j.image with
  | none => s.dropJob j
  | some i =>
    let place := mapOf (j.moves.map fun m => (m.1, m.2.1))
    let (vx, vy) := if i.mode = 0 then (j.arg % 18, j.arg / 18) else (0, 0)
    let s := s.updGarden g fun d =>
      let d := ((d.setF Reg.GD_STATUS_STATE gLoaded).setF Reg.GD_STATUS_MODE i.mode).setF Reg.GD_STATUS_SIZE i.size
      let d := ((d.setF Reg.GD_ORIGIN_VX vx).setF Reg.GD_ORIGIN_VY vy).setF Reg.GD_ORIGIN_W i.footW
      { d.setF Reg.GD_ORIGIN_H i.footH with
        image := some i, place := place, trees := j.trees, divider := i.divider, lastSeal := 0, restoreStep := 0, reliefs := [],
        fails := {}, prevFails := {}, toMove := s.unsound place, fromImage := [], stuck := none, recover := none, hang := none, nextTaint := 0 }
    let s := (s.setWd (Reg.WD_GARDEN_RUNS g) 0).setWd (Reg.WD_GARDEN_TAINT g) 0
    let s := (s.chainEvent g 2 i.hash).checkShort g
    let s := if (s.garden g).down.isSome then s.endDown g 5 true else s
    let s := s.updPost fun p => { p with saved := Fm.del g p.saved }
    let at_ (v w : Nat) : List Byte := if i.mode = 0 then leBytes 2 v ++ leBytes 2 w else [0xFF, 0xFF, 0xFF, 0xFF]
    s.endJob j (at_ vx vy ++ leBytes 2 j.arg2 ++ leBytes 2 (s.reserveOf g) ++ i.hash)

/-! ### GARDEN_START and GARDEN_STOP (R307 steps 9 and 10, R551) -/

/-- A word written at one offset of every mapped core's scratchpad that takes writes. -/
def State.writeMapped (s : State) (cores : List Nat) (off : Nat) (w : Word) : State :=
  cores.foldl (fun s c => if s.takesWrites c then s.updCore c fun k => k.spadWrite off (leBytes 8 w.toNat) else s) s

/-- The replay word (R552). -/
def replayWord (step run cause : Nat) (isolated : Bool) : Word :=
  BitVec.ofNat 64 (step % 2 ^ 40 + run % 256 * 2 ^ 40 + cause % 16 * 2 ^ 48 + b01 isolated * 2 ^ 52)

def replayAt : Nat := 0x5FFFF0
def restoreAt : Nat := 0x5FFFE8
def reliefAt : Nat := 0x5FFFF8

def State.gardenStart (s : State) (a : Accepted) : State :=
  let g := a.letter.garden
  if s.gState g ≠ gLoaded then s.dead a dState { unit := 10, unitId := g }
  else
    let s := s.writeMapped (s.coresMapped g) replayAt (replayWord (s.openStep g) 1 0 false)
    let s := s.updGarden g fun d => { d with startCh := a.channel }
    s.begin a { kind := .start, garden := g, changes := [.run g (s.coresMapped g) true] }

def execGardenStart (ch : Nat) (s : State) : Res := onLetter 0x22 ch s fun a s => s.gardenStart a

/-- A fresh run: no taint, no failure remembered, the watchdog restarted (R549, R554, R569). -/
def State.freshRun (s : State) (g runs : Nat) : State :=
  let s := s.updGarden g fun d =>
    { d with nextTaint := 0, fails := {}, prevFails := {}, wdFrom := s.now, wdOn := true, runStart := s.now }
  (s.setWd (Reg.WD_GARDEN_RUNS g) runs).setWd (Reg.WD_GARDEN_TAINT g) 0

def State.startChimed (s : State) (j : Job) : State :=
  (((s.setGState j.garden gRunning).freshRun j.garden 1).updGarden j.garden fun d => { d with startedAt := s.now, recover := none }).endJob j []

def State.gardenStop (s : State) (a : Accepted) : State :=
  let g := a.letter.garden
  if s.gState g ≠ gRunning then s.dead a dState { unit := 10, unitId := g }
  else s.begin a { kind := .stop, garden := g, changes := [.run g (s.coresMapped g) false] }

def execGardenStop (ch : Nat) (s : State) : Res := onLetter 0x23 ch s fun a s => s.gardenStop a

/-- The watchdog and the hang handling of a garden that no longer runs end. -/
def State.endRun (s : State) (g : Nat) : State :=
  let s := s.updGarden g fun d => { d with wdOn := false, hang := none, recover := none, nextTaint := 0, stuck := none }
  let s := ((s.setWd (Reg.WD_GARDEN_RUNS g) 0).setWd (Reg.WD_GARDEN_TAINT g) 0).setWd (Reg.WD_GARDEN_HANG g) 0
  s.standHang g

def State.stopChimed (s : State) (j : Job) : State :=
  ((s.setGState j.garden gLoaded).endRun j.garden).endJob j []

/-! ### GARDEN_RELEASE (R308, R314, R328, R431) -/

/-- A take in progress is given up with the garden; both images go (R431). -/
def State.dropImages (s : State) (g : Nat) : State :=
  let s := match s.post.jobs.find? fun j => j.garden = g && (j.kind = .take || j.kind = .autoTake) with
    | some j => s.failJob j dAbandoned { unit := 10, unitId := g }
    | none => s
  s.updIce fun h => { h with checkpoints := h.checkpoints.filter fun c => c.garden ≠ g }

def State.gardenRelease (s : State) (a : Accepted) : State :=
  let g := a.letter.garden
  if s.gState g = gEmpty ∨ s.gState g = gReleasing then s.dead a dState { unit := 10, unitId := g }
  else
    let was := s.gState g
    let s := s.setGState g gReleasing
    let own (j : Job) : Bool := j.garden = g && j.letter.isNone && !j.staged && j.kind ≠ .autoTake
    let s := s.updPost fun p => { p with jobs := p.jobs.filter fun j => !own j }
    s.begin a { kind := .release, garden := g, arg2 := was, changes := [.run g (s.coresMapped g) false] }

def execGardenRelease (ch : Nat) (s : State) : Res := onLetter 0x24 ch s fun a s => s.gardenRelease a

/-- The removal of a garden's peer entries. -/
def State.peerRemovals (s : State) (g : Nat) (ports : Nat → Bool) : List Change :=
  (s.sends.filter fun e => e.garden = g && ports e.port).map (fun e => Change.peer g true false e) ++
  (s.recvs.filter fun e => e.garden = g && ports e.port).map fun e => Change.peer g false false e

/-- Letters of tenants that waited for the garden find it gone (R328). -/
def State.abandonWaiting (s : State) (g : Nat) : State :=
  (s.post.accepted.filter fun a => s.roleOf a.channel = roleT && a.letter.actsOn = some g).foldl
    (fun s a => s.dead a dAbandoned { unit := 10, unitId := g }) s

def State.releasePoll (s : State) (j : Job) : State :=
  let g := j.garden
  match j.phase with
  | 1 =>
    let s := s.disarmAll g
    if s.engAll g (· = engNone) then ((s.clearPlan g).startDrain g (s.fabricPavs g []) (s.portsOf g)).nextPhase j 2 [] else s
  | 2 =>
    let ps := s.fabricPavs g []
    if s.drained g ps (s.portsOf g) then
      let s := (s.stageTables g ps [] []).endDrain g ps
      s.nextPhase j 3 (.fabric g ps :: s.peerRemovals g fun _ => true)
    else s
  | 4 =>
    if j.arg < s.round && s.zeroed (s.pavsOf g) then
      (s.stageProt g (s.pavsOf g) {}).nextPhase j 5 [.prot g (s.garden g).prot {}]
    else s
  | _ => s

def State.releaseChimed (s : State) (j : Job) : State :=
  let g := j.garden
  match j.phase with
  | 0 => ((s.dropImages g).endRun g).nextPhase j 1 []
  | 3 =>
    let s := s.updGarden g fun d => { d with trees := [], place := [] }
    ((s.pavsOf g).foldl State.startZero s).nextPhase { j with arg := s.round } 4 []
  | _ =>
    let s := s.setShort g false
    let d := s.garden g
    let s := s.releaseWindows d.prot.windows (s.otherWindows g)
    let s := s.closeParcels fun _ p => p.garden = g && !p.staging
    let empty : Gdn := ({} : Gdn).setF Reg.GD_STATUS_GEN (s.gTag g)
    let waits := s.post.accepted.any fun a => a.letter.code = 0x20 && a.letter.garden = g
    let s := { s with gardens := Fm.set {} g (empty.setF Reg.GD_STATUS_DEFERRED (b01 waits)) s.gardens }
    let s := { s with wd := setReg .wd (0x40 + 8 * g) 0 s.wd }
    (s.endJob j []).abandonWaiting g

/-! ### PROTECT_SET (R296-R298) -/

/-- A window of the old protection is still given, by one window with at least its access. -/
def keptBy (ws : List Window) (w : Window) : Bool :=
  w.size = 0 || ws.any fun v =>
    v.lbase ≤ w.lbase && w.lbase + w.size ≤ v.lbase + v.size && v.pbase + w.lbase = w.pbase + v.lbase &&
    (v.rd || !w.rd) && (v.wr || !w.wr) && (v.host || !w.host)

/-- The change only adds access (R296). -/
def onlyAdds (old new : Protection) : Bool :=
  old.pavs.all new.pavs.contains && old.peer &&& new.peer = old.peer && old.host &&& new.host = old.host &&
  old.windows.all (keptBy new.windows)

def State.protectSet (s : State) (a : Accepted) : State :=
  let g := a.letter.garden
  let d := s.garden g
  let new := readProt a.letter.body
  let added := new.pavs.filter fun p => !d.prot.pavs.contains p
  let gone := d.prot.pavs.filter fun p => !new.pavs.contains p
  match absentPeer new with
  | some q => s.dead a dAbsent { unit := 8, unitId := q }
  | none =>
    if !([gCreated, gLoaded, gRunning, gRecovering].contains (s.gState g)) then s.dead a dState { unit := 10, unitId := g }
    else match s.pavBlock g added, s.peerTaken g new with
      | .wait c q, _ => s.defer a c q
      | .taken p, _ => s.dead a dState { unit := 2, unitId := p }
      | .free, some q => s.dead a dState { unit := 8, unitId := q }
      | .free, none =>
        if !protFieldsOk a.letter.body || !connected new.pavs then s.dead a dField { offset := 0 }
        else if !gone.isEmpty && s.goodIn (d.prot.pavs.filter fun p => !gone.contains p) < s.gdnSize g then s.dead a dResource
        else if !windowsOk new.windows (s.otherWindows g) || !peersReached new then s.dead a dProtection
        else if s.awaitsZero new.windows then s.defer a 0 0
        else
          let s := added.foldl State.startZero s
          let ls := d.lcoresAt fun c => gone.contains (pavOf c)
          let s := if ls.isEmpty then s else
            let s := s.updGarden g fun d => { d with toMove := ls.foldl (fun l x => sins x l) d.toMove }
            (s.taint g 4).wantUncounted g 4 3
          s.begin a { kind := .protect, garden := g, prot := some new, arg := s.round }

def execProtectSet (ch : Nat) (s : State) : Res := onLetter 0x25 ch s fun a s => s.protectSet a

/-- Avenues that a protection still allows. -/
def keptTrees (new : Protection) (ts : List Tree) : List Tree := ts.filter fun t => t.peer.all fun q => new.peer.testBit q

/-- Pavilions whose avenue tables a protection change touches. -/
def State.protFabric (s : State) (g : Nat) (new : Protection) : List Nat :=
  let d := s.garden g
  if (keptTrees new d.trees).length = d.trees.length then [] else s.fabricPavs g []

def State.protectStage (s : State) (j : Job) : State :=
  let g := j.garden
  let d := s.garden g
  let new := j.prot.getD {}
  let added := new.pavs.filter fun p => !d.prot.pavs.contains p
  let held := if j.phase = 1 then d.prot.pavs else []
  let cut := (s.protFabric g new ++ held).foldl (fun l p => sins p l) []
  let ts := keptTrees new d.trees
  let s := s.stageTables g cut ts d.place
  let s := added.foldl (fun s p => s.updPav p fun v =>
    { v with envelopes := (d.image.map fun i => i.envelopes).getD [], mapStaged := fullMap d.place }) s
  let s := (s.stageProt g (new.pavs ++ d.prot.pavs) new).endDrain g cut
  let ps := cut ++ added
  s.nextPhase { j with trees := ts } 2 ([.prot g d.prot new] ++ (if ps.isEmpty then [] else [.fabric g ps]) ++
    s.peerRemovals g fun q => !new.peer.testBit q)

def State.protectPoll (s : State) (j : Job) : State :=
  let g := j.garden
  let d := s.garden g
  let new := j.prot.getD {}
  let added := new.pavs.filter fun p => !d.prot.pavs.contains p
  match j.phase with
  | 0 =>
    let moved := d.place.all fun e => new.pavs.contains (pavOf e.2)
    let busy := s.post.jobs.any fun k => k.garden = g && k.recovers
    if !moved || busy || !s.zeroed added || (!added.isEmpty && s.round ≤ j.arg) then s
    else if onlyAdds d.prot new then s.protectStage j
    else (s.startDrain g d.prot.pavs (s.portsOf g)).nextPhase j 1 []
  | 1 => if s.drained g d.prot.pavs (s.portsOf g) then s.protectStage j else s
  | _ => s

def State.protectChimed (s : State) (j : Job) : State :=
  let g := j.garden
  let d := s.garden g
  let new := s.stagedProt g (j.prot.getD {})
  let hurt := s.hurtsPlan g new.windows
  let gone := d.prot.pavs.filter fun p => !new.pavs.contains p
  let s := s.updGarden g fun d => { d.setF Reg.GD_CFG_ANNEX (b01 new.annex) with prot := new, trees := j.trees }
  let s := s.releaseWindows d.prot.windows (new.windows ++ s.otherWindows g)
  let s := gone.foldl State.startZero s
  let s := if hurt then s.disarmAll g else s
  ((s.chainEvent g 1 (Config.sha384 new.raw)).checkShort g).endJob j []

end Sys2Proof.Machine
end

