-- ==== Sys2Proof/Machine/Steps.lean ====
section
/-! DEFINITION. Steps of a garden and the letters about them (R258, R269-R275, R342-R345, R546-R550): GARDEN_STATUS,
SEAL_STEP, UPDATE_PLAN, MEM_FILL. -/

namespace Sys2Proof.Machine

def execGardenStatus (ch : Nat) (s : State) : Res :=
  onLetter 0x26 ch s fun a s =>
    let g := a.letter.garden
    let d := s.garden g
    s.reply a (leBytes 8 (s.gdRead g 0x008).toNat ++ leBytes 8 (s.gdRead g 0x028).toNat ++ leBytes 8 d.lastSeal ++ leBytes 8 d.sealTick)

/-! ### SEAL_STEP (R269, R342, R546, R550) -/

def State.taintOf (s : State) (g : Nat) : Nat := getF (Reg.WD_GARDEN_TAINT g) s.wd

/-- Set the seal marks: the records now in the outboxes belong to the step being sealed. -/
def State.markWardens (s : State) (g : Nat) : State :=
  (s.pavsOf g).foldl (fun s p =>
    let counts := (coresOf p).foldl (fun m c => Fm.set 0 (coreIdx c) (s.core c).outbox.length m) ([] : FMap Nat)
    s.updPav p fun v => { v with sealMark := true, beforeMark := counts }) s

def State.clearMarks (s : State) (g : Nat) : State :=
  (s.pavsOf g).foldl (fun s p => s.updPav p fun v => { v with sealMark := false, beforeMark := [] }) s

/-- Every warden has judged what it received before the mark. -/
def State.marksJudged (s : State) (g : Nat) : Bool := (s.pavsOf g).all fun p => (s.pav p).beforeMark.isEmpty

/-- A SEAL_STEP is answered: DONE, or NOT_SEALED with a reason; the watchdog runs again (R332, R569). -/
def State.answerSeal (s : State) (j : Job) (status reason : Nat) : State :=
  let g := j.garden
  let s := (s.dropJob j).clearMarks g
  let s := s.updGarden g fun d => { d with committing := false, wdFrom := s.now, wdOn := d.getF Reg.GD_STATUS_STATE = gRunning }
  match j.letter with
  | none => s
  | some a => s.place a (a.receipt status reason (leBytes 8 j.arg) 0 [])

/-- The step is sealed: the next one is open, with a taint raised since COMMIT (R549). -/
def State.sealed (s : State) (j : Job) : State :=
  let g := j.garden
  let next := (s.garden g).nextTaint
  let s := s.updGarden g fun d =>
    { d with lastSeal := j.arg, sealTick := s.now, nextTaint := 0, fails := {}, prevFails := {},
             hang := d.hang.map fun h => { h with sealed := true } }
  ((s.setWd (Reg.WD_GARDEN_RUNS g) 0).setWd (Reg.WD_GARDEN_TAINT g) next).answerSeal j 0 0

/-- How far a SEAL_STEP has come: phase 0 waits for the wardens, 1 for the engines' judgement, 2 for the commit. -/
def State.sealPoll (s : State) (j : Job) : State :=
  let g := j.garden
  let reason := if s.taintOf g ≠ 0 then s.taintOf g else if s.gState g ≠ gRunning then 4 else 0
  match j.phase with
  | 0 =>
    if reason ≠ 0 then s.answerSeal j 1 reason
    else if !s.marksJudged g then s
    else if s.engAll g (· = engNone) then s.sealed j
    else if s.engAll g (· = engCollect) then (s.eachOra fun _ o => o.prepare g).putJob { j with phase := 1 }
    else s
  | 1 =>
    if !s.engAll g (fun e => e = engPrepared || e = engRefused || e = engCollect) then s
    else if reason ≠ 0 then (s.discardAll g).answerSeal j 1 reason
    else if s.engAll g (· = engPrepared) then
      let s := s.eachOra fun _ o => o.commit g (BitVec.ofNat 32 j.arg2)
      (s.updGarden g fun d => { d with committing := true }).putJob { j with phase := 2 }
    else ((s.discardAll g).taint g 2).answerSeal j 1 2
  | _ =>
    if s.engAll g (fun e => e = engCollect || e = engNone) then (s.combineRho g).sealed j else s

def State.sealStep (s : State) (a : Accepted) : State :=
  let g := a.letter.garden
  if s.gState g ≠ gRunning ∧ s.gState g ≠ gRecovering then s.dead a dState { unit := 10, unitId := g }
  else if a.letter.field 0 8 ≠ s.openStep g then s.dead a dField { offset := 0 }
  else if a.letter.field 12 4 ≠ 0 then s.dead a dField { offset := 12 }
  else
    let s := (s.markWardens g).updGarden g fun d => { d with wdOn := false }
    let s := s.begin a { kind := .seal, garden := g, arg := a.letter.field 0 8, arg2 := a.letter.field 8 4 }
    match s.post.jobs.find? fun j => j.kind = .seal && j.garden = g with
    | some j => s.sealPoll j
    | none => s

def execSealStep (ch : Nat) (s : State) : Res := onLetter 0x27 ch s fun a s => s.sealStep a

/-! ### UPDATE_PLAN (R344) -/

def State.updatePlan (s : State) (a : Accepted) : State :=
  let g := a.letter.garden
  if !engines then s.dead a dAbsent { unit := 5 }
  else if s.gState g ≠ gLoaded ∧ s.gState g ≠ gRunning then s.dead a dState { unit := 10, unitId := g }
  else match s.viewRead g (a.letter.field 0 8) (a.letter.field 8 8) with
    | .refused => s.dead a dProtection { offset := 0 }
    | .unreadable => s.dead a dField
    | .bytes bs =>
      match readPlan bs with
      | none => s.dead a dField
      | some p =>
        if (s.planAt g p).isNone then s.dead a dProtection
        else if !p.aligned then s.dead a dPlan
        else s.begin a { kind := .plan, garden := g, body := bs }

def execUpdatePlan (ch : Nat) (s : State) : Res := onLetter 0x28 ch s fun a s => s.updatePlan a

/-- The image's plan as it now stands. -/
def State.setPlan (s : State) (g : Nat) (p : Option Plan) : State :=
  s.updGarden g fun d => { d with image := d.image.map fun i => { i with plan := p } }

/-- The plan that was is disarmed, and the new one is written and armed. -/
def State.planArm (s : State) (j : Job) : State :=
    let g := j.garden
    let s := s.disarmAll g
    if !s.engAll g (· = engNone) then s.nextPhase j 2 []
    else match (readPlan j.body).bind (s.planAt g) with
      | none => (s.setPlan g none).failJob j dProtection
      | some p =>
        let s := (s.writePlan g p).armAll g
        if s.engAll g (· = engNorm) then s.nextPhase j 1 [] else s.nextPhase j 9 []

/-- How far an UPDATE_PLAN has come: phase 0 has done nothing, 2 waits for the engines to be disarmed, 1 for ARM, 9 undoes it. -/
def State.planPoll (s : State) (j : Job) : State :=
  let g := j.garden
  match j.phase with
  | 0 | 2 => s.planArm j
  | 1 =>
    if s.engAll g (· = engCollect) then
      let s := (s.combineRho g).setPlan g (readPlan j.body)
      (s.chainEvent g 3 (Config.sha384 j.body)).endJob j []
    else s
  | _ =>
    let s := s.disarmAll g
    if s.engAll g (· = engNone) then (s.setPlan g none).failJob j dPlan else s

/-! ### MEM_FILL (R345) -/

def State.memFill (s : State) (a : Accepted) : State :=
  let g := a.letter.garden
  let at_ := a.letter.field 0 8
  let n := a.letter.field 8 8
  if at_ % 64 ≠ 0 then s.dead a dField { offset := 0 }
  else if n % 64 ≠ 0 ∨ n < 64 ∨ 1536 * 2 ^ 30 < n then s.dead a dField { offset := 8 }
  else match s.viewAddr g at_ n .store, s.viewAddr g at_ n .host with
    | some p, some _ => s.begin a { kind := .fill, garden := g, arg := p, arg2 := n, body := slice a.letter.body 16 8 }
    | _, _ => s.dead a dProtection { offset := 0 }

def execMemFill (ch : Nat) (s : State) : Res := onLetter 0x42 ch s fun a s => s.memFill a

/-- A pattern over a range, granule by granule; the part in the garden's arena as DEVWRITEs of the garden (R270). -/
def State.fillRange (s : State) (g a n : Nat) (pattern : List Byte) : State :=
  (granulePieces (n / 4096 + 2) a 0 n).foldl (fun s x =>
    let bs := (List.replicate (x.2 / 8) pattern).flatten
    s.gardenWrite (oraOf (a + x.1)) g (a + x.1) bs) s

/-- MEM_FILL_COMPLETE (R345): every block has been written. -/
def execMemFillComplete (garden : Nat) (s : State) : Res :=
  onGarden garden s fun s =>
    match s.post.jobs.find? fun j => j.kind = .fill && j.garden = garden with
    | none => s
    | some j => (s.fillRange garden j.arg j.arg2 j.body).endJob j []

end Sys2Proof.Machine
end

