-- ==== Sys2Proof/Machine/Icehouse.lean ====
section
/-! DEFINITION. The icehouse (12_icehouse.md, R418-R438, R574, R575): checkpoints taken, listed, restored and dropped, refresh
and repair of the store. -/

namespace Sys2Proof.Machine

/-! ### What an image holds (R429, R432, R433) -/

/-- The weight and momentum regions of a garden's layers, in the commit order, in the garden view. -/
def frontRanges (p : Plan) : List (Nat × Nat) :=
  p.layers.flatMap fun r => let l := decodeLayer r.id r.words; [l.weights, l.momentum]

/-- The rest of the windows with RD set, in ascending garden-view address, without the sign arena (R274, R429). -/
def restRanges (ws : List Window) (plan : Option Plan) : List (Nat × Nat) :=
  let taken := match plan with
    | none => []
    | some p => (p.arenaBase, p.arenaSize) :: frontRanges p
  let rd := (ws.filter fun w => w.rd && 0 < w.size).foldl (fun m w => Fm.put w.lbase w.size m) ([] : FMap Nat)
  cutRanges (rd.map fun e => (viewSlow + e.1 * 65536, e.2 * 65536)) taken

/-- Granules of a plan, and those with freeze masks. -/
def planGranules (p : Plan) (masked : Bool) : Nat :=
  p.layers.foldl (fun a r => let l := decodeLayer r.id r.words; a + if masked && !l.mask then 0 else l.granules) 0

/-- LENGTH of an image (R432, R433). -/
def imageLength (plan : Option Plan) (windows : Nat) (ranges : List (Nat × Nat)) (cores : Nat) : Nat :=
  let private_ := match plan with
    | none => 0
    | some p => 32 * (1 + 2 * Config.orangeries) + 8 + 72 * p.layers.length + 8 * planGranules p false +
        8 * p.layers.length * Config.orangeries + 128 * planGranules p true
  160 + 32 * (1 + ranges.length + cores) + private_ + 16 * windows + sumLen ranges + cores * spadBytes

/-- A window in the record format of R341. -/
def windowRecord (w : Window) : List Byte :=
  leBytes 4 w.lbase ++ leBytes 4 w.pbase ++ leBytes 4 w.size ++ leBytes 1 (b01 w.rd + 2 * b01 w.wr + 4 * b01 w.host + 8 * b01 w.keep) ++
  leBytes 3 0

/-- Bytes of garden-view ranges, by garden-view address. -/
def State.viewBytes (s : State) (g : Nat) (rs : List (Nat × Nat)) : FMap Byte :=
  rs.foldl (fun m r =>
    match s.viewAddr g r.1 r.2 .load with
    | none => m
    | some a => Fm.putAll 0 (Fm.window a r.2 r.1 s.slow) m) []

/-- Reading ranges meets their poisoned blocks (R246): counted and reported, with no step of a garden that met them. -/
def State.touchRanges (s : State) (g : Nat) (rs : List (Nat × Nat)) : State :=
  rs.foldl (fun s r =>
    match s.viewAddr g r.1 r.2 .load with
    | none => s
    | some a =>
      allOras.foldl (fun s o => s.findErrs o (fun b => b < usableBlocks && a < slowOf o (64 * b) + 64 && slowOf o (64 * b) < a + r.2)
        none 0x6050) s) s

/-- An image's bytes in directory order (R432, R433), of which CONTENT is the hash: the sections' contents follow their
entries. -/
def Checkpoint.sections (c : Checkpoint) : List (Nat × Nat × Nat × List Byte) :=
  let planPart : List (Nat × Nat × Nat × List Byte) := match c.plan with
    | none => []
    | some p =>
      let layers := leBytes 8 (p.arenaBase / 65536 + p.arenaSize / 65536 * 2 ^ 32) ++
        p.layers.flatMap fun r => leBytes 2 r.id ++ leBytes 6 0 ++ wordsBytes r.words
      let slots (o : Nat) (masked : Bool) : List Nat := p.layers.flatMap fun r =>
        let l := decodeLayer r.id r.words
        if masked && !l.mask then [] else (l.owned o).map fun qj => o * 2 ^ 32 + l.slot + qj.1
      let sums (o : Nat) : List Byte := wordsBytes ((slots o false).map fun k => Fm.get 0 k c.sums) ++
        wordsBytes (p.layers.map fun r => Fm.get 0 (o * 2 ^ 32 + r.id) c.partials)
      let masks (o : Nat) : List Byte := (slots o true).flatMap fun k => readBytes c.masks (o * 2 ^ 32 + (k - o * 2 ^ 32) * 128) 128
      (1, 0, p.layers.length, layers) :: allOras.map (fun o => (2, o, (slots o false).length, sums o)) ++
        allOras.map fun o => (3, o, (slots o true).length, masks o)
  planPart ++ [(4, 0, c.windows.length / 16, c.windows)] ++
  (c.front ++ c.rest).map (fun r => (5, r.1, 1, readBytes c.slowBytes r.1 r.2)) ++
  c.scratch.map fun e => (6, e.1, 1, readBytes e.2 0 spadBytes)

def Checkpoint.contentBytes (c : Checkpoint) : List Byte :=
  let ss := c.sections
  let dir := (ss.foldl (fun (x : Nat × List Byte) e =>
    (x.1 + e.2.2.2.length, x.2 ++ leBytes 2 e.1 ++ leBytes 2 0 ++ leBytes 4 e.2.2.1 ++ leBytes 8 x.1 ++ leBytes 8 e.2.2.2.length ++
      leBytes 8 e.2.1)) (160 + 32 * ss.length, [])).2
  dir ++ ss.flatMap fun e => e.2.2.2

/-! ### One job at a time (R428) -/

def Job.takes (j : Job) : Bool := j.kind = .take || j.kind = .autoTake

/-- A take or restore that waits for the icehouse. -/
def Job.wantsIce (j : Job) : Bool :=
  ((j.takes || j.kind = .restore) && j.phase = 0) || (j.kind = .autoRestore && j.phase = 1)

/-- The icehouse goes on to the next take or restore in order of acceptance; a restore first disarms the plan (R435). -/
def State.iceNext (s : State) : State :=
  match s.iceBusy with
  | some _ => s
  | none =>
    match s.post.jobs.find? Job.wantsIce with
    | none => s.updPost fun p => { p with iceJob := none }
    | some j =>
      let s := (s.updPost fun p => { p with iceJob := some j.id }).putJob { j with phase := j.phase + 1 }
      if j.takes then s else s.disarmAll j.garden

/-- A take or restore of a letter begins; while another is in progress it waits, and its receipt says for what (R330). -/
def State.beginIce (s : State) (a : Accepted) (j : Job) : State :=
  match s.iceBusy with
  | none => s.begin a j
  | some b =>
    let (code, seq) := match b.letter with | some x => (x.letter.code, x.letter.sequence) | none => (0, 0)
    let a' := if a.deferred then a else { a with deferred := true, waited := code, waitedSeq := seq }
    (s.drop a).addJob { j with letter := some { a' with acting := true } }

def State.image (s : State) (id : Nat) : Option Checkpoint := s.ice.checkpoints.find? fun c => c.id = id

def State.putImage (s : State) (c : Checkpoint) : State :=
  s.updIce fun h => { h with checkpoints := h.checkpoints.map fun x => if x.id = c.id then c else x }

def State.dropImage (s : State) (id : Nat) : State :=
  s.updIce fun h => { h with checkpoints := h.checkpoints.filter fun c => c.id ≠ id }

/-! ### Wear (R423) -/

/-- An incident of the icehouse. -/
def State.iceIncident (s : State) : State := s.reportAt 0x60 12 0 none

/-- Blocks erased: WORN when the average reaches 36,000 (R423). -/
def State.eraseBlocks (s : State) (n : Nat) : State :=
  let s := s.updIce fun h => { h with erased := h.erased + n }
  if 36000 * nandBlocks ≤ s.ice.erased && s.ice.getF Reg.IH_STATUS_WORN = 0 then
    (s.updIce fun h => h.setF Reg.IH_STATUS_WORN 1).iceIncident
  else s

/-! ### CHECKPOINT_TAKE (R427-R431) -/

/-- The slot a take writes into: not that of the newest complete image. -/
def State.takeSlot (s : State) (g : Nat) : Nat := match s.newestImage g with | some c => 1 - c.slot | none => 0

def State.takeSize (s : State) (g : Nat) : Nat :=
  let plan := if s.armed g then (s.garden g).image.bind fun i => i.plan else none
  let ws := (s.garden g).prot.windows
  let cores := if s.gState g = gLoaded then (s.coresMapped g).length else 0
  imageLength plan ws.length ((match plan with | some p => frontRanges p | none => []) ++ restRanges ws plan) cores

/-- The patrols in progress on a garden's sites begin again (R558). -/
def State.restartPatrols (s : State) (g : Nat) : State :=
  let ps := s.pavsOf g
  { s with sites := Fm.mapv {} (fun c x => if ps.contains (pavOf c) then { x with segs := [], restart := s.now } else x) s.sites }

/-- The capture point: the front and the engines' private state are read; the rest follows (R428-R430). -/
def State.capture (s : State) (id g : Nat) : State :=
  match s.image id with
  | none => s
  | some c =>
    let d := s.garden g
    let plan := s.planNow g
    let front := match plan with | some p => frontRanges p | none => []
    let c : Checkpoint :=
      { c with captured := true, loaded := s.gState g = gLoaded, step := d.lastSeal, capture := s.now, image := imageHash d,
               windows := d.prot.windows.flatMap windowRecord, plan := plan, front := front,
               rest := restRanges d.prot.windows plan, slowBytes := s.viewBytes g front, held := s.coresMapped g }
    let c := match plan with | some p => privateState s p c | none => c
    ((s.putImage c).touchRanges g front).restartPatrols g

/-- A take is accepted: its ID is assigned, the image in its slot dropped. -/
def State.newImage (s : State) (g : Nat) : Nat × State :=
  let id := s.ice.nextCkpt
  let slot := s.takeSlot g
  let c : Checkpoint := { id := id, garden := g, slot := slot, size := s.takeSize g }
  (id, s.updIce fun h =>
    { h with nextCkpt := id + 1, checkpoints := (h.checkpoints.filter fun x => x.garden ≠ g || x.slot ≠ slot) ++ [c] })

/-- Without an armed plan the capture point is the round of acceptance. -/
def State.captureNow (s : State) (id g : Nat) : State := if s.armed g then s else s.capture id g

def State.taking (s : State) (g : Nat) : Bool := s.post.jobs.any fun j => j.takes && j.garden = g

def State.checkpointTake (s : State) (a : Accepted) : State :=
  let g := a.letter.garden
  if (s.gState g ≠ gLoaded ∧ s.gState g ≠ gRunning) ∨ s.taking g then s.dead a dState { unit := 10, unitId := g }
  else if s.ckptFree < mib (s.takeSize g) then s.dead a dResource { unit := 12 }
  else
    let (id, s) := s.newImage g
    ((s.beginIce a { kind := .take, garden := g, arg := id }).captureNow id g).iceNext

def execCheckpointTake (ch : Nat) (s : State) : Res := onLetter 0x50 ch s fun a s => s.checkpointTake a

/-- The take the icehouse is at, of a garden. -/
def State.iceJobOf (s : State) (g : Nat) (which : Job → Bool) : Option Job :=
  match s.iceBusy with
  | some j => if j.garden = g && which j then some j else none
  | none => none

/-- CHECKPOINT_CAPTURE (R428): the garden is in COLLECT with no SEAL_STEP open, or has no plan any more. -/
def execCheckpointCapture (garden : Nat) (s : State) : Res :=
  onGarden garden s fun s =>
    match s.iceJobOf garden Job.takes with
    | none => s
    | some j =>
      let sealing := s.post.jobs.any fun k => k.kind = .seal && k.garden = garden
      let quiet := (s.engAll garden (· = engCollect) && !sealing) || s.engAll garden (· = engNone)
      if ((s.image j.arg).any fun c => c.captured) || !quiet then s else s.capture j.arg garden

/-- Images become vouched once every site that has held a core of their garden since the capture point has completed a
patrol begun after it (R575). -/
def State.vouch (s : State) : State :=
  let good (c : Checkpoint) : Bool :=
    c.complete && !c.unvouchable && c.held.all fun x => (s.site x).doneBegan.any fun t => c.capture ≤ t
  s.updIce fun h => { h with checkpoints := h.checkpoints.map fun c => if good c then { c with vouched := true } else c }

/-- Blocks a stream of stripes of 960 KiB takes: a stripe has a page in 64 of them, and a block holds 384 pages (R419, R420). -/
def blocksFor (bytes : Nat) : Nat := ((bytes + 983039) / 983040 * 64 + 383) / 384

/-- A take is given up: its image goes with it (R431). -/
def State.failTake (s : State) (j : Job) : State := ((s.dropImage j.arg).failJob j dCheckpoint { unit := 12 }).iceNext

/-- TAKE_COMPLETE (R429-R432): the other windows as they stand, the scratchpads of a LOADED garden; the image is complete. -/
def execTakeComplete (garden : Nat) (s : State) : Res :=
  onGarden garden s fun s =>
    match s.iceJobOf garden Job.takes with
    | none => s
    | some j =>
      match s.image j.arg with
      | none => s.failTake j
      | some c =>
        if !c.captured then s
        else if c.lost then s.failTake j
        else
          let place := if c.loaded then (s.garden garden).place else []
          let scratch := place.map fun e => (e.1, (s.core e.2).spad)
          let c := { c with slowBytes := Fm.putAll 0 (s.viewBytes garden c.rest) c.slowBytes, scratch := scratch, complete := true, done := s.now }
          let c := { c with content := Config.sha384 c.contentBytes }
          let s := (s.putImage c).touchRanges garden c.rest
          let s := place.foldl (fun s e => s.spadTouch e.2 0 spadBytes 0x6050) s
          let s := s.eraseBlocks (blocksFor c.size)
          (s.vouch.endJob j (leBytes 4 c.id ++ leBytes 4 0 ++ leBytes 8 c.step)).iceNext

/-! ### CHECKPOINT_LIST, CHECKPOINT_DROP, ICEHOUSE_STATUS -/

/-- The gardens a channel's letter asks about: a tenant its own, one of them where it names it (R338, R339). -/
def State.asksOf (s : State) (a : Accepted) (g : Nat) : Bool :=
  (s.roleOf a.channel ≠ roleT || (s.boundGardens a.channel).testBit g) && (a.letter.garden = 0xFF || a.letter.garden = g)

def checkpointRecord (c : Checkpoint) : List Byte :=
  leBytes 4 c.id ++ leBytes 1 c.garden ++ leBytes 1 c.slot ++ leBytes 2 0 ++ leBytes 8 c.step ++ leBytes 8 c.done

def execCheckpointList (ch : Nat) (s : State) : Res :=
  onLetter 0x51 ch s fun a s =>
    let cs := s.ice.checkpoints.filter fun c => c.complete && s.asksOf a c.garden
    s.reply a (leBytes 2 cs.length ++ cs.flatMap checkpointRecord)

/-- A restore reads an image. -/
def State.reading (s : State) (id : Nat) : Option Job :=
  s.post.jobs.find? fun j => (j.kind = .restore && j.arg2 = id) || (j.kind = .autoRestore && j.phase = 2 && j.arg2 = id)

def State.checkpointDrop (s : State) (a : Accepted) : State :=
  let id := a.letter.field 0 4
  match s.image id with
  | none => s.dead a dCheckpoint { unit := 12, offset := 0 }
  | some c =>
    if !c.complete then s.dead a dCheckpoint { unit := 12, offset := 0 }
    else match s.reading id with
      | some j => match j.letter with
        | some b => s.defer a b.letter.code b.letter.sequence
        | none => s.defer a 0 0
      | none => (s.dropImage id).reply a []

def execCheckpointDrop (ch : Nat) (s : State) : Res := onLetter 0x53 ch s fun a s => s.checkpointDrop a

def execIcehouseStatus (ch : Nat) (s : State) : Res :=
  onLetter 0x54 ch s fun a s =>
    let (st, s) := s.ihRead 0x000
    let (cap, s) := s.ihRead 0x008
    let (wear, s) := s.ihRead 0x010
    let (cnt, s) := s.ihRead 0x018
    let (job, s) := s.ihRead 0x020
    s.reply a ([st, cap, wear, cnt, job].flatMap fun w => leBytes 8 w.toNat)

/-! ### CHECKPOINT_RESTORE (R434-R436, R552) -/

/-- R434's checks of an image against its garden. -/
def State.mayRestore (s : State) (g : Nat) (c : Checkpoint) : Bool := c.complete && c.garden = g && c.image = imageHash (s.garden g)

/-- Every SLOW section within one window with WR set; the plan's bases and arena in windows (R295). -/
def State.restoreFits (s : State) (g : Nat) (c : Checkpoint) : Bool :=
  (c.front ++ c.rest).all (fun r => (s.viewAddr g r.1 r.2 .store).isSome) && c.plan.all fun p => (s.planAt g p).isSome && p.aligned

def State.checkpointRestore (s : State) (a : Accepted) : State :=
  let g := a.letter.garden
  if s.gState g ≠ gLoaded then s.dead a dState { unit := 10, unitId := g }
  else match s.image (a.letter.field 0 4) with
    | none => s.dead a dCheckpoint { unit := 12, offset := 0 }
    | some c =>
      if !s.mayRestore g c then s.dead a dCheckpoint { unit := 12, offset := 0 }
      else if !s.restoreFits g c then s.dead a dProtection
      else (s.beginIce a { kind := .restore, garden := g, arg2 := c.id }).iceNext

def execCheckpointRestore (ch : Nat) (s : State) : Res := onLetter 0x52 ch s fun a s => s.checkpointRestore a

/-- A physical range takes the bytes of an image's range: blocks written whole lose their poison (R246). -/
def State.fillFrom (s : State) (a n view : Nat) (m : FMap Byte) : State :=
  let s := { s with slow := Fm.putAll 0 (Fm.window view n a m) (Fm.clearRange a n s.slow) }
  s.eachOra fun o v =>
    let whole (b : Nat) : Bool := b < usableBlocks && a ≤ slowOf o (64 * b) && slowOf o (64 * b) + 64 ≤ a + n
    let touched (b : Nat) : Bool := b < usableBlocks && a < slowOf o (64 * b) + 64 && slowOf o (64 * b) < a + n
    v.wrote whole touched

/-- SLOW sections written through the current windows, the first `n` bytes of them. -/
def writeSlow (g : Nat) (m : FMap Byte) : List (Nat × Nat) → Nat → State → State
  | [], _, s => s
  | r :: rs, n, s =>
    let k := min r.2 n
    let s := match s.viewAddr g r.1 r.2 .store with
      | some a => s.fillFrom a k r.1 m
      | none => s
    writeSlow g m rs (n - k) s

/-- A whole image is written back: sections, engines, the step count, the restore word (R435, R552). -/
def State.writeImage (s : State) (g : Nat) (c : Checkpoint) : State :=
  let rs := c.front ++ c.rest
  let s := writeSlow g c.slowBytes rs (sumLen rs) s
  let s := c.scratch.foldl (fun s e =>
    match Fm.look e.1 (s.garden g).place with
    | some core =>
      if s.takesWrites core then s.updCore core fun k => { k with spad := e.2, spadUe := [], spadCe := [], spadWb := [] } else s
    | none => s) s
  let s := match c.plan.bind (s.planAt g) with
    | some p => s.eachOra fun o v => (v.restorePrivate o g c p).toCollect o g
    | none => s
  let s := s.updGarden g fun d => { d with image := d.image.map fun i => { i with plan := c.plan }, lastSeal := 0, restoreStep := c.step, nextTaint := 0, fails := {}, prevFails := {} }
  let s := (s.setWd (Reg.WD_GARDEN_RUNS g) 0).setWd (Reg.WD_GARDEN_TAINT g) 0
  (s.writeMapped (s.coresMapped g) restoreAt (BitVec.ofNat 64 c.step)).chainEvent g 4 c.content

/-- A restore stops at a lost stripe: the regions hold a mixture, how much was written being a free value (log entry 7). -/
def State.stopRestore (s : State) (g : Nat) (c : Checkpoint) : State :=
  let rs := c.front ++ c.rest
  let (x, s) := s.draw
  writeSlow g c.slowBytes rs (x.toNat % (sumLen rs + 1)) s

/-- RESTORE_COMPLETE (R435, R436). -/
def State.restoreDone (s : State) (j : Job) : State :=
  let g := j.garden
  let s := s.disarmAll g
  if !s.engAll g (· = engNone) then s
  else match s.image j.arg2 with
    | none => (s.failJob j dCheckpoint { unit := 12 }).iceNext
    | some c =>
      if c.lost then ((s.stopRestore g c).failJob j dCheckpoint { unit := 12 }).iceNext
      else
        let s := s.writeImage g c
        let s := if (s.garden g).down.isSome then s.endDown g 5 true else s
        (s.endJob j (leBytes 8 c.step)).iceNext

/-- An automatic restore ends its reading; its garden restarts with CAUSE 7 (R577). A lost image gives way to the other
vouched one. -/
def State.autoRestoreDone (s : State) (j : Job) : State :=
  let g := j.garden
  let s := s.disarmAll g
  if !s.engAll g (· = engNone) then s
  else
    let free (s : State) : State := (s.updPost fun p => { p with iceJob := none }).iceNext
    match s.image j.arg2 with
    | some c =>
      if c.lost || !s.mayRestore g c || !s.restoreFits g c then
        let s := if c.lost then s.stopRestore g c else s
        let other := (s.imagesOf g).find? fun x => x.id < j.arg2 && s.vouched x && s.restoreFits g x
        match other with
        | some x => s.putJob { j with arg2 := x.id }
        | none => free (s.putJob { j with phase := 9 })
      else free ((s.writeImage g c).putJob { j with phase := 3 })
    | none => free (s.putJob { j with phase := 9 })

def execRestoreComplete (garden : Nat) (s : State) : Res :=
  onGarden garden s fun s =>
    match s.iceJobOf garden fun j => j.kind = .restore || j.kind = .autoRestore with
    | none => s
    | some j => if j.kind = .restore then s.restoreDone j else s.autoRestoreDone j

/-! ### Automatic checkpoints (R574) -/

/-- AUTO_CHECKPOINT: the interval has passed and the newest image is vouched. -/
def execAutoCheckpoint (garden : Nat) (s : State) : Res :=
  onGarden garden s fun s =>
    let vouched := (s.newestImage garden).all s.vouched
    if !s.takeTime garden || !vouched || s.taking garden || s.ckptFree < mib (s.takeSize garden) then s
    else
      let (id, s) := s.newImage garden
      (s.addJob { kind := .autoTake, garden := garden, arg := id }).iceNext

/-! ### The store's upkeep (R418, R423-R426) -/

/-- A stripe is lost (R424): in a checkpoint the image is unusable, and a take in progress ends; elsewhere a copy stands in, and a lost copy of
the directory is the next to be rewritten (R422). -/
def State.loseStripe (s : State) (area : StripeArea) : State :=
  let s := (s.updIce fun h => h.incF Reg.IH_CNT_LOST 1).iceIncident
  match area with
  | .checkpoint id =>
    let s := s.updIce fun h => { h with checkpoints := h.checkpoints.map fun c => if c.id = id then { c with lost := true } else c }
    match s.post.jobs.find? fun j => j.takes && j.arg = id with
    | some j => s.failTake j
    | none => s
  | .firmware slot => s.updIce fun h => { h with slotLost := sins slot h.slotLost }
  | .directory copy => s.updIce fun h => { h with dirSeqs := h.dirSeqs.set copy 0 }
  | _ => s

def State.readStripe (s : State) (r : StripeReading) : State :=
  let s := s.updIce fun h => (h.incF Reg.IH_CNT_SOFT r.soft).incF Reg.IH_CNT_REBUILD r.rebuilt
  let s := if 0 < r.soft then s.updIce fun h => { h with softBlocks := sins r.block h.softBlocks } else s
  if r.lost then s.loseStripe r.area else s

/-- The store is trained and its directory read. -/
def State.iceReady (s : State) : Bool := s.ice.getF Reg.IH_STATUS_READY = 1

/-- The refresh period in progress, of IH_REFRESH_H hours (R425). -/
def State.refreshPeriod (s : State) : Nat := s.now / (s.cfgNat cfgIhRefresh * 3600 * ticksPerSec)

/-- REFRESH_READ: once in each refresh period, what reading every stripe that holds data finds. -/
def execRefreshRead (readings : List StripeReading) (s : State) : Res :=
  if !s.iceReady || s.ice.refreshed = s.refreshPeriod + 1 then .next s
  else .next (readings.foldl State.readStripe (s.updIce fun h => { h with refreshed := s.refreshPeriod + 1 }))

/-- RETENTION_REWRITE: a block decoded softly, or 180 days old, is rewritten. -/
def execRetentionRewrite (block : Nat) (s : State) : Res :=
  onUnit (decide (block < nandBlocks)) s fun s =>
    let old := Fm.get 0 block s.ice.written + 180 * 86400 * ticksPerSec ≤ s.now
    if !s.iceReady || !(s.ice.softBlocks.contains block || old) then s
    else
      let s := s.updIce fun h =>
        { (h.incF Reg.IH_CNT_REFRESH 1) with softBlocks := sdel block h.softBlocks, written := Fm.set 0 block s.now h.written }
      s.eraseBlocks 1

/-- POWER_ON_SCAN: the scan in progress is complete, with what it has found. -/
def execPowerOnScan (readings : List StripeReading) (s : State) : Res :=
  if !s.iceReady || s.ice.getF Reg.IH_STATUS_SCAN = 0 then .next s
  else .next ((readings.foldl State.readStripe s).updIce fun h => h.setF Reg.IH_STATUS_SCAN 0)

/-- PROGRAM_FAIL: the block is retired; a die with fewer than 16 spare blocks shows. -/
def execProgramFail (block : Nat) (s : State) : Res :=
  onUnit (decide (block < nandBlocks)) s fun s =>
    if !s.iceReady || s.ice.grown.contains block then s
    else
      let die := block / 7296
      s.updIce fun h =>
        let used := min 128 (Fm.get 0 die h.spares + 1)
        let h := { h.incF Reg.IH_CNT_GROWN 1 with grown := sins block h.grown, softBlocks := sdel block h.softBlocks, spares := Fm.set 0 die used h.spares }
        if 128 - used < 16 then h.setF Reg.IH_STATUS_SPARELOW 1 else h

/-- DIE_LOST: a die that answers no command. -/
def execDieLost (die : Nat) (s : State) : Res :=
  onUnit (decide (die < 128)) s fun s =>
    if s.ice.diesLost.contains die then s
    else
      let s := s.updIce fun h => { (h.setF Reg.IH_STATUS_DEGRADED 1).incF Reg.IH_STATUS_DIESLOST 1 with diesLost := sins die h.diesLost }
      s.iceIncident

/-- NAND_RETRAIN: a die whose temperature has changed by 15 °C since its last training is trained again. -/
def execNandRetrain (die : Nat) (temp : Int) (s : State) : Res :=
  onUnit (decide (die < 128)) s fun s =>
    let moved := match Fm.look die s.ice.dieTemp with
      | none => true
      | some t => 15 ≤ (temp - ofTemp8 t).natAbs
    if !moved || s.ice.diesLost.contains die then s
    else s.updIce fun h => { h with dieTemp := Fm.put die (temp8 temp) h.dieTemp, trained := sins die h.trained }

end Sys2Proof.Machine
end

