-- ==== Sys2Proof/Machine/Recovery.lean ====
section
/-! DEFINITION. Recoveries of gardens (08_gardens_and_mapping.md, R309-R315; 16_faults.md, R549-R582): suspect sites and the
ladder, what a failed run leads to, poisoned contexts, garden resets with their replay, relief, hang handling and
restore. -/

namespace Sys2Proof.Machine

/-! ### Suspect sites (R561-R564) -/

/-- A suspect event of a site, to be acted on at the next decision point. -/
def State.suspectEvent (s : State) (c : Nat) : State := s.updSite c fun x => { x with suspect := true, event := true }

/-- The garden and logical core a site holds. -/
def State.mappedAt (s : State) (c : Nat) : Option (Nat × Nat) :=
  (List.range 4).findSome? fun g => (s.lcoreOf g c).map fun l => (g, l)

/-- Logical cores of a garden are to be moved. -/
def State.wantMove (s : State) (g : Nat) (ls : List Nat) (fromImage : Bool) : State :=
  s.updGarden g fun d =>
    { d with toMove := ls.foldl (fun l x => sins x l) d.toMove,
             fromImage := if fromImage then ls.foldl (fun l x => sins x l) d.fromImage else d.fromImage }

/-- A site that no RUNNING garden maps is reset at once (R566). -/
def State.resetIdle (s : State) (c : Nat) : State :=
  if (s.mappedAt c).any fun e => s.gState e.1 = gRunning then s else s.updCore c Core.reset

/-- A site is retired (R536, R562): a mapped one is relieved. -/
def State.retire (s : State) (c cause : Nat) : State :=
  if (s.site c).retired then s
  else
    let s := ((s.resetIdle c).updSite c fun x => { x with retired := true }).repair { type := 1, source := 1, unit := c, a := cause, b := 0 }
    let s := s.updIce fun h => { h with freq := Fm.upd {} c (fun f => { f with fmax := 3 }) h.freq }
    let s := match s.ownerOf c with
      | some g => s.checkShort g
      | none => s
    match s.mappedAt c with
    | some (g, l) => ((s.wantMove g [l] false).taint g 4).wantRecovery g 4 3
    | none => s

/-- VOFF of a pavilion is the largest among its good sites' (R562). -/
def State.setVoff (s : State) (p : Nat) : State :=
  let v := ((coresOf p).filter s.goodSite).foldl (fun a c => max a (Fm.get {} c s.ice.freq).voff) 0
  (s.updPav p fun x => x.setF Reg.PV_REG_STATUS_VOFF v).reindex p

def rungF (c : Nat) : Fld := Reg.WD_CORE_RUNG (coreIdx c)

/-- The rung a suspect site climbs to (R562). -/
def State.nextRung (s : State) (c : Nat) : Nat :=
  let f := Fm.get {} c s.ice.freq
  let at_ := (s.pav (pavOf c)).getF (rungF c)
  if at_ < 1 && f.voff < 5 then 1 else if at_ < 2 && f.fmax = 0 then 2 else 3

/-- A site's rung is applied, and written into its entry of the frequency table (R562, R563). -/
def State.climbTo (s : State) (c rung : Nat) : State :=
  let p := pavOf c
  let f := Fm.get {} c s.ice.freq
  let s := s.updPav p fun x => x.setF (rungF c) rung
  let s := s.raiseAt 0x04 1 c (s.ownerOf c) 0 2
  let s := s.updSite c fun x => { x with event := false, probation := none, targeted := rung < 3 }
  let put (s : State) (g : Freq) : State := s.updIce fun h => { h with freq := Fm.set {} c g h.freq }
  match rung with
  | 1 => (put s { f with voff := f.voff + 1, ladder := true }).setVoff p
  | 2 => ((put s { f with fmax := 1, ladder := true }).updPav p fun x => { x with suspectIdx := max 1 x.suspectIdx }).reindex p
  | _ => (s.retire c 5).updIce fun h => { h with freq := Fm.upd {} c (fun f => { f with ladder := true }) h.freq }

/-- A suspect site climbs one rung (R562, R563). -/
def State.climb (s : State) (c : Nat) : State := s.climbTo c (s.nextRung c)

/-- The ladder acts on the suspect events found. -/
def State.climbAll (s : State) : State :=
  (s.sites.filter fun e => e.2.event && !e.2.retired).foldl (fun s e => s.climb e.1) s

/-- The site a margin fault of a pavilion falls on (R564). -/
def State.marginSite (s : State) (p : Nat) : Option Nat :=
  let m (c : Nat) : Nat := (Fm.get {} c s.ice.freq).margin
  ((coresOf p).filter s.goodSite).foldl (fun b c => match b with
    | none => some c
    | some x => if m c < m x ∨ (m c = m x ∧ c < x) then some c else b) none

/-! ### Line repairs (R181, R182) -/

/-- A line is to be repaired: copied into a free spare line; a bank without one retires the core. -/
def State.repairLine (s : State) (c key : Nat) : State :=
  let k := s.core c
  let bank := key / 6144
  if k.spadCopying.contains key then s
  else if k.spareLines bank + (k.spadCopying.filter fun l => l / 6144 = bank).length < 64 then
    s.updCore c fun k => { k with spadCopying := sins key k.spadCopying }
  else
    let s := s.updCore c fun k => { k with spadExhausted := sins bank k.spadExhausted }
    (s.raiseAt 0x13 1 c (s.ownerOf c) 0 3).retire c 2

/-- Lines corrected in three scrub passes, or that have held an uncorrectable word, since their last repair. -/
def Core.weakLines (k : Core) : List Nat :=
  ((k.spadScrub.filter fun e => 3 ≤ e.2).map Prod.fst ++ k.spadWeak).eraseDups

def State.repairLines (s : State) : State :=
  (s.cores.filter fun e => !e.2.spadScrub.isEmpty || !e.2.spadWeak.isEmpty).foldl (fun s e =>
    if (s.site e.1).retired then s else e.2.weakLines.foldl (fun s l => s.repairLine e.1 l) s) s

/-! ### Poisoned contexts (R573) -/

/-- The letter of a context that has been accepted and not answered is answered POISONED; without one, the next such letter
of the channel is. -/
def State.poisonLetter (s : State) (ctx : Word) (ch : Nat) : State :=
  let g := bitsOf ctx 48 8
  let d : Detail := { context := ctx }
  let mine (a : Accepted) : Bool := a.letter.owns ctx || (bitsOf ctx 56 8 = 4 && a.ctx = ctx)
  match s.post.jobs.find? fun j => j.garden = g && (j.letter.any mine) && !(j.kind = .seal && j.phase = 2) with
  | some j => ((if j.kind = .seal then s.clearMarks g else s)).failJob j dPoisoned d
  | none =>
    match s.post.accepted.find? mine with
    | some a => s.dead a dPoisoned d
    | none => s.updGarden g fun x => { x with owed := x.owed ++ [(ctx, ch)] }

def State.poisonIncident (s : State) (g : Nat) (ctx : Word) : State :=
  (s.incWd Reg.WD_CNT_POISON 1).raise { kind := 0x06, unit := 10, unitId := g, garden := g, action := 6, context := ctx }

def State.stepCtx (s : State) (g : Nat) : Word := ctxOf 1 g (s.openStep g)

/-- Hang handling ends. -/
def State.endHang (s : State) (g : Nat) : State :=
  ((s.updGarden g fun d => { d with hang := none }).setWd (Reg.WD_GARDEN_HANG g) 0).standHang g

/-- The step context is poisoned: RUN is cleared at a chime, that of a garden reset when the step has hung (R572, R573). -/
def State.poisonStep (s : State) (g : Nat) (reset : Bool) : State :=
  let ctx := s.stepCtx g
  let s := (s.poisonIncident g ctx).poisonLetter ctx (s.garden g).startCh
  let s := (s.endHang g).updGarden g fun d => { d with recover := none, wdOn := false }
  s.addJob { kind := .poison, garden := g, arg := b01 reset,
             changes := (if reset then [.gen g (s.nextTag g)] else []) ++ [.run g (s.coresMapped g) false] }

def State.poisonChimed (s : State) (j : Job) : State :=
  let s := if j.arg = 1 then s.updGarden j.garden fun d => d.setF Reg.GD_STATUS_GEN (s.nextTag j.garden) else s
  (((s.setGState j.garden gLoaded).endRun j.garden).discardAll j.garden).dropJob j

/-- A guilty context other than the step (R573). -/
def State.poisonOther (s : State) (g : Nat) (ctx : Word) : State :=
  let s := s.poisonIncident g ctx
  match bitsOf ctx 56 8 with
  | 2 =>
    let id := bitsOf ctx 0 48
    match s.parcel id with
    | none => s
    | some p =>
      let ch := ((s.session p.session).map fun x => x.channel).getD 64
      (s.poisonLetter ctx ch).closeParcels fun n _ => n = id
  | 3 =>
    let mine (e : PeerEntry) : Bool := e.garden = g && e.avenue = bitsOf ctx 0 16 && e.port = bitsOf ctx 16 8
    match (s.sends ++ s.recvs).find? mine with
    | none => s
    | some e => (s.poisonLetter ctx e.ch).addJob { kind := .peerClose, garden := g, arg := e.avenue, arg2 := e.port }
  | _ => s.poisonLetter ctx (bitsOf ctx 32 6)

/-! ### What a failed run leads to (R554) -/

/-- Whether a block lies in a weight, momentum or sign region of the garden's plan. -/
def State.planBlock (s : State) (g : Nat) (ob : Nat × Nat) : Bool :=
  let a := slowOf ob.1 (64 * ob.2)
  ((s.orang ob.1).layersOf g).any fun l => l.regions.any fun r => overlaps (a, 64) r

def common {α : Type} [BEq α] (a b : List α) : List α := a.filter b.contains

/-- A run of the step has failed: its likeness to the run before, and the number of runs, decide what is done beside the
replay. -/
def State.judgeRun (s : State) (g : Nat) : State :=
  let d := s.garden g
  let runs := max 1 (getF (Reg.WD_GARDEN_RUNS g) s.wd)
  let s := (common d.fails.sites d.prevFails.sites).eraseDups.foldl State.suspectEvent s
  let words := (common d.fails.words d.prevFails.words).eraseDups
  let s := words.foldl (fun s lw =>
    match Fm.look lw.1 d.place with
    | none => s
    | some c => ((s.repairLine c (lineKey (8 * lw.2))).wantMove g [lw.1] true).wantRecovery g 4 3) s
  let s := if (common d.fails.blocks d.prevFails.blocks).any (s.planBlock g) then s.wantRecovery g 7 1 else s
  if 5 ≤ runs ∨ !(common d.fails.faults d.prevFails.faults).isEmpty then s.poisonStep g false else s

/-- CAUSE of a replay for a taint (R552); reasons 2 and 4 alone name none, a free value (log entry 7). -/
def State.causeOf (s : State) (reason : Nat) : Nat × State :=
  match reason with
  | 1 => (1, s)
  | 3 => (2, s)
  | _ => let (w, s) := s.draw; (w.toNat % 9, s)

/-! ### Beginning a recovery (R567, R568, R582) -/

def State.recovering (s : State) (g : Nat) : Option Job := s.post.jobs.find? fun j => j.garden = g && j.recovers

/-- Step 2 of R567: GEN and RUN clear. `arg` is 1 when the cores are all to be placed anew, plus 2 when the garden does not
run. -/
def State.beginReset (s : State) (g : Nat) (j : Job) : State :=
  let run := s.gState g = gRunning
  let gen := Change.gen g (s.nextTag g)
  s.addJob { j with garden := g, arg := j.arg + (if run then 0 else 2),
                    changes := if run then [gen, .run g (s.coresMapped g) false] else [gen] }

/-- Counted time begins (R582): at the start of the round of the decision, or for a hang at the garden's last seal or
restart. -/
def State.beginDown (s : State) (g : Nat) (from_ : Nat) (hang : Bool) : State :=
  s.updGarden g fun d => { d with down := some (match d.down with
    | some w => { w with since := some (min (w.since.getD from_) from_), hang := w.hang && hang }
    | none => { since := some from_, hang := hang }) }

/-- A relief's change with its targets: those of an earlier choice that stand keep what has been copied; a core that stays is copied back
where a copy has gone over its site (R309, R312, R314). -/
def State.withTargets (s : State) (j : Job) (r : Relief) : Job :=
  let place := (s.garden j.garden).place
  let gone (c : Nat) : Bool := (Fm.get {} j.garden s.post.saved).cores.any fun e => e.1 = c
  let moves := r.pl.place.filter fun e => Fm.get Config.coreSites e.1 place ≠ e.2 || gone e.2
  let old := (s.garden j.garden).prot
  { j with moves := moves.map fun e => (e.1, e.2, b01 (j.moves.contains (e.1, e.2, 1))), trees := r.trees,
           prot := r.annex.map fun q => { old with pavs := sins q old.pavs }, variant := r.variant, origin := r.pl.origin }

/-- Targets chosen for a relief (R309): its change, with the relief's incident, its variant shown, an annexed pavilion being zeroed; none when no
variant places every core. -/
def State.chooseNow (s : State) (j : Job) : Option (Job × State) :=
  let g := j.garden
  (s.chooseRelief g (j.arg % 2 = 1)).map fun r =>
    let k := s.withTargets j r
    let s := if j.variant = 0 then s.raise { kind := 0x08, unit := 10, unitId := g, garden := g, action := 3, flags := 1 } else s
    let s := s.updGarden g fun d => d.setF Reg.GD_RELIEF_ACTIVE r.variant
    (k, match r.annex with | some q => s.startZero q | none => s)

/-- Step 1 of R311: the targets are chosen and the garden recovers; then the garden reset. -/
def State.beginRelief (s : State) (g : Nat) (j : Job) : State :=
  let j := { j with kind := .relief, garden := g }
  let x := (s.chooseNow j).getD (j, s)
  (x.2.beginReset g x.1).setGState g gRecovering

/-- The recovery decided for a garden begins. -/
def State.beginRecovery (s : State) (g cause strength : Nat) : State :=
  let counted := !(s.garden g).uncounted
  let s := s.updGarden g fun d => { d with recover := none, uncounted := false }
  let hang := strength = 4
  let s := s.beginDown g (if hang && cause = 5 then (s.garden g).wdFrom else s.round * 65536) hang
  let s := s.incWd Reg.WD_AVAIL_RECOVERIES 1
  match strength with
  | 1 =>
    let newest := (s.imagesOf g).foldl (fun (b : Option Checkpoint) c =>
      if s.vouched c && b.all fun x => x.id < c.id then some c else b) none
    let s := s.incWd Reg.WD_CNT_RESTORE 1
    let s := s.raise { kind := 0x07, unit := 10, unitId := g, garden := g, action := 5 }
    s.beginReset g { kind := .autoRestore, cause := 7, arg2 := (newest.map fun c => c.id).getD 0, counted := counted }
  | 2 => s.beginRelief g { kind := .relief, cause := cause, arg := 1, counted := counted }
  | 3 => s.beginRelief g { kind := .relief, cause := cause, counted := counted }
  | _ => (s.incWd Reg.WD_CNT_REPLAY 1).beginReset g { kind := .replay, cause := cause, counted := counted }

/-! ### The chime of the reset (R567 steps 3 and 4) -/

/-- A SEAL_STEP not yet at its commit is answered NOT_SEALED. -/
def State.unseal (s : State) (g : Nat) : State :=
  match s.post.jobs.find? fun j => j.kind = .seal && j.garden = g && j.phase < 2 with
  | none => s
  | some j =>
    let t := s.taintOf g
    (if j.phase = 1 then s.discardAll g else s).answerSeal j 1 (if t = 0 then 4 else t)

/-- The failures of the run that ends are kept for the next: of words, of every run of the step. -/
def Gdn.turnFails (d : Gdn) : Gdn :=
  { d with prevFails := { d.fails with words := (d.prevFails.words ++ d.fails.words).eraseDups }, fails := {} }

def State.resetChimed (s : State) (j : Job) : State :=
  let g := j.garden
  let tag := s.nextTag g
  let s := if j.kind = .gardenReset then s.taint g 4 else s
  let s := s.updGarden g fun d =>
    { ((d.setF Reg.GD_STATUS_GEN tag).setF Reg.GD_STATUS_STATE gRecovering).turnFails with wdOn := false }
  let s := s.unseal g
  let s := s.answerJob j (leBytes 1 tag)
  s.nextPhase { j with letter := none } 1 []

/-! ### Relief (R309-R315) -/

def State.setActive (s : State) (g v : Nat) : State := s.updGarden g fun d => d.setF Reg.GD_RELIEF_ACTIVE v

/-- The old site can serve the copier's reads: powered, its storage sound (R312). -/
def State.canServe (s : State) (c : Nat) : Bool :=
  let k := s.core c
  s.computeOn c && (s.pav (pavOf c)).powered && !(s.pav (pavOf c)).dark && k.spadUe.isEmpty && k.pstoreBad.isEmpty &&
  k.spadExhausted.isEmpty

/-- Targets are chosen again; when no variant places every core the garden stays in RECOVERING, with SHORT set and a capacity change the
first time (R309, R310). -/
def State.chooseTargets (s : State) (j : Job) : State :=
  let g := j.garden
  match s.chooseNow j with
  | none =>
    let known := (s.garden g).stuck.isSome
    let s := s.updGarden g fun d => { d.setF Reg.GD_STATUS_SHORT 1 with stuck := some (j.arg, j.cause), uncounted := !j.counted }
    let s := if known then s else s.raise { kind := 0x09, unit := 10, unitId := g, garden := g, action := 7, flags := 2 }
    s.dropJob j
  | some (k, s) => s.nextPhase k 4 []

/-- The contents of a site as they stood before a copy went over them. -/
def State.keptSite (s : State) (g c : Nat) : Option Core := ((Fm.get {} g s.post.saved).cores.find? fun e => e.1 = c).map Prod.snd

/-- A copy goes over a site whose logical core is still to be copied: its contents are kept for that, or are to come from the image when the
site cannot serve (R312). -/
def State.keepSite (s : State) (g c : Nat) : State :=
  match s.lcoreOf g c with
  | none => s
  | some l =>
    if (s.keptSite g c).isSome then s
    else if s.canServe c then s.updPost fun p => { p with saved := Fm.upd {} g (fun v => { v with cores := v.cores ++ [(c, s.core c)] }) p.saved }
    else s.updGarden g fun d => { d with fromImage := sins l d.fromImage }

/-- One target site takes its old site's contents, or its share of the image, and the relief word (R312, R313); a core that stays takes its
own contents back. -/
def State.copySite (s : State) (g l target : Nat) : State :=
  let d := s.garden g
  let old := Fm.get Config.coreSites l d.place
  let n := Fm.get 0 l d.reliefs + 1
  let kept := s.keptSite g old
  let ok := (kept.isSome || s.canServe old) && !d.fromImage.contains l
  let k := kept.getD (s.core old)
  let s := if target = old then s else s.keepSite g target
  let s := s.updCore target fun x =>
    if ok then
      { ((x.setF Reg.KP_CTRL_ENTRY (k.getF Reg.KP_CTRL_ENTRY)).setF Reg.KP_BELL_MEMBER (k.getF Reg.KP_BELL_MEMBER)).zeroed with
        spad := k.spad, pstore := k.pstore }
    else match d.image with
      | some i => i.share l x.zeroed
      | none => x.zeroed
  if target = old && ok then s
  else s.updCore target fun x => x.spadWrite reliefAt (leBytes 8 (n % 2 ^ 32 + (if ok then 0 else 2 ^ 32)))

/-- RELIEF_COPY (R312): the copier has finished a target site, one that takes writes (R162). -/
def execReliefCopy (garden lcore : Nat) (s : State) : Res :=
  onGarden garden s fun s =>
    match s.recovering garden with
    | none => s
    | some j =>
      match j.moves.find? fun m => m.1 = lcore && m.2.2 = 0 with
      | none => s
      | some m =>
        if j.phase ≠ 4 || !s.takesWrites m.2.1 then s
        else (s.copySite garden lcore m.2.1).putJob { j with moves := j.moves.map fun x => if x.1 = lcore then (x.1, x.2.1, 1) else x }

/-! ### The restart (R551, R552, R567 steps 5-7) -/

def Job.newPlace (j : Job) (place : FMap Nat) : FMap Nat := j.moves.foldl (fun m e => Fm.put e.1 e.2.1 m) place

/-- RUN of the replay word: a step sealed, a restore and an isolation run begin at 1. -/
def State.nextRun (s : State) (g cause : Nat) : Nat :=
  if cause = 6 ∨ cause = 7 ∨ cause = 8 then 1 else min 5 (max 1 (getF (Reg.WD_GARDEN_RUNS g) s.wd) + 1)

/-- The replay and restore words are written and RUN is staged, with the map and the avenues that a relief changes. -/
def State.stageRestart (s : State) (j : Job) : State :=
  let g := j.garden
  let d := s.garden g
  let place := j.newPlace d.place
  let cores := place.map Prod.snd
  let run := j.arg / 2 = 0
  let s := if run then
      (s.writeMapped cores replayAt (replayWord (s.openStep g) (s.nextRun g j.cause) j.cause d.hang.isSome)).writeMapped cores
        restoreAt (BitVec.ofNat 64 d.restoreStep)
    else s
  let extra := match j.prot with
    | some new => new.pavs.filter fun p => !d.prot.pavs.contains p
    | none => []
  let ps := if j.moves.isEmpty then [] else (s.fabricPavs g j.trees) ++ extra
  let s := if j.moves.isEmpty then s else s.stageTables g ps j.trees place
  let s := extra.foldl (fun s p => s.updPav p fun v =>
    { v with envelopes := (d.image.map fun i => i.envelopes).getD [], mapStaged := fullMap place }) s
  let s := match j.prot with | some new => s.stageProt g new.pavs new | none => s
  let cs := (match j.prot with | some new => [Change.prot g d.prot new] | none => []) ++
    (if ps.isEmpty then [] else [.fabric g ps]) ++ (if run then [.run g cores true] else [])
  if cs.isEmpty then ((s.setGState g gLoaded).endRun g).dropJob j else s.nextPhase j 5 cs

/-- How far a recovery has come between its chimes: a commit is waited for, and not counted (R271); cores found to be moved before the map is
staged join the relief (R314). -/
def State.recoverPoll (s : State) (j : Job) : State :=
  let g := j.garden
  let d := s.garden g
  let joined := d.toMove.any fun l => !j.moves.any fun m => m.1 = l
  match j.phase with
  | 1 =>
    let busy := !s.engAll g (· ≠ engCommitting) || s.post.jobs.any fun k => k.kind = .seal && k.garden = g
    if j.kind = .autoRestore then s else if busy then s.pauseDown g else (s.resumeDown g).nextPhase j 3 []
  | 3 => if d.toMove.isEmpty then s.stageRestart j else if j.moves.isEmpty || joined then s.chooseTargets j else s.nextPhase j 4 []
  | 4 =>
    let ready := (j.prot.map fun p => s.zeroed p.pavs).getD true
    if joined then s.chooseTargets j
    else if ready && j.moves.all fun m => m.2.2 = 1 then s.stageRestart j
    else s
  | 9 =>
    let s := (s.raise { kind := 0x07, unit := 10, unitId := g, garden := g, action := 5 }).dropJob j
    (s.setGState g gLoaded).endRun g
  | _ => s

/-- The sites a relief has vacated and filled (R311 steps 5 and 6, R315, R575): ENTRY and the bells' members follow the logical core. -/
def State.movedSites (s : State) (g : Nat) (j : Job) (old : FMap Nat) : State :=
  let kept := (j.newPlace old).map Prod.snd
  let s := j.moves.foldl (fun s m =>
    let was := Fm.get Config.coreSites m.1 old
    let s := if was < Config.coreSites && !kept.contains was then
        let s := if s.computeOn was then s.updCore was Core.zeroed else s
        s.updCore was fun k => (k.setF Reg.KP_BELL_MEMBER 0).setF Reg.KP_CTRL_ENTRY 0
      else s
    s.updSite m.2.1 fun x => { x with received := s.now }) s
  let moved := (j.moves.filter fun m => Fm.get Config.coreSites m.1 old ≠ m.2.1).map fun m => m.1
  let s := s.updPost fun p => { p with saved := Fm.del g p.saved }
  let sites := j.moves.map fun m => m.2.1
  let s := s.updIce fun h =>
    { h with checkpoints := h.checkpoints.map fun c => if c.garden = g ∧ c.captured then { c with held := sites.foldl (fun l x => sins x l) c.held } else c }
  s.updGarden g fun d =>
    { d.incF Reg.GD_RELIEF_MOVED moved.length with
      reliefs := moved.foldl (fun m l => Fm.set 0 l (Fm.get 0 l m + 1) m) d.reliefs
      toMove := d.toMove.filter fun l => !j.moves.any fun m => m.1 = l
      fromImage := d.fromImage.filter fun l => !j.moves.any fun m => m.1 = l }

/-- What found during a recovery starts another after it: all but a relief that joined it (R314, R568). -/
def Gdn.laterRecovery (d : Gdn) : Option (Nat × Nat) :=
  match d.recover with
  | some (c, n) => if (n = 2 ∨ n = 3) ∧ d.toMove.isEmpty then none else some (c, n)
  | none => if d.toMove.isEmpty then none else some (4, 3)

/-- Step 7: the keepers start. -/
def State.restartChimed (s : State) (j : Job) : State :=
  let g := j.garden
  let d := s.garden g
  let prot := (j.prot.map (s.stagedProt g)).getD d.prot
  let s := s.updGarden g fun d =>
    let d := { d with place := j.newPlace d.place, trees := if j.moves.isEmpty then d.trees else j.trees, prot := prot }
    if j.variant = 4 && d.getF Reg.GD_STATUS_MODE = 0 then
      (d.setF Reg.GD_ORIGIN_VX (j.origin % 18)).setF Reg.GD_ORIGIN_VY (j.origin / 18)
    else d
  let s := ((s.movedSites g j d.place).setActive g 0)
  let s := s.endDown g (match j.kind with | .relief => 3 | .autoRestore => 5 | .gardenReset => 4 | _ => 1) j.counted
  let runs := s.nextRun g j.cause
  let prev := (s.garden g).prevFails
  let s := if j.arg / 2 = 0 then
      let s := (s.setGState g gRunning).freshRun g runs
      s.updGarden g fun d => { d with prevFails := if j.cause = 6 ∨ j.cause = 7 ∨ j.cause = 8 then {} else prev,
                                       recover := d.laterRecovery, stuck := none }
    else (s.setGState g gLoaded).endRun g
  (s.checkShort g).dropJob j

def State.recoverChimed (s : State) (j : Job) : State :=
  if s.gState j.garden = gReleasing then s.dropJob j
  else if j.phase = 0 then s.resetChimed j
  else s.restartChimed j

/-! ### GARDEN_RESET (R567) -/

def State.gardenReset (s : State) (a : Accepted) : State :=
  let g := a.letter.garden
  if s.gState g ≠ gRunning then s.dead a dState { unit := 10, unitId := g }
  else if (s.recovering g).isSome then s.defer a 0 0
  else
    let (w, s) := s.draw
    s.begin a { kind := .gardenReset, garden := g, cause := w.toNat % 9, counted := false,
                changes := [.gen g (s.nextTag g), .run g (s.coresMapped g) false] }

def execGardenReset (ch : Nat) (s : State) : Res := onLetter 0x29 ch s fun a s => s.gardenReset a

/-! ### Hangs (R569-R572) -/

/-- Suspects beside the step, ascending, each once. -/
def suspectsOf (g : Nat) (l : List Word) : List Word :=
  let ok := l.filter fun w => bitsOf w 48 8 = g && 2 ≤ bitsOf w 56 8 && bitsOf w 56 8 ≤ 4
  (ok.foldl (fun a w => sins w.toNat a) ([] : List Nat)).map (BitVec.ofNat 64)

/-- A hang is found: the first begins its handling, a second finds the context whose turn it is guilty, and the time is charged to it (R572,
R582). -/
def State.hangFound (s : State) (g : Nat) (p : Probe) : State :=
  let suspects := suspectsOf g p.suspects
  let s := (s.incWd Reg.WD_CNT_HANG 1).raise
    { kind := 0x05, unit := 10, unitId := g, garden := g, flags := 1, action := 4, detailType := 4,
      detail := leBytes 8 (p.unit % 256 + p.unitId % 65536 * 2 ^ 8 + p.port % 256 * 2 ^ 24) ++
        (s.stepCtx g :: suspects).flatMap fun w => leBytes 8 w.toNat }
  let s := s.taint g 4
  match (s.garden g).hang with
  | none =>
    let s := s.updGarden g fun d => { d with hang := some { suspects := suspects, current := s.stepCtx g } }
    (s.setWd (Reg.WD_GARDEN_HANG g) 1).wantRecovery g 5 4
  | some h =>
    let s := s.chargeHang g
    if h.released.isEmpty then s.poisonStep g true
    else ((s.poisonOther g h.current).endHang g).wantUncounted g 5 5

/-- After a seal the next suspect is released; when every run has sealed the handling ends (R572 steps 4 and 6). -/
def State.nextSuspect (s : State) (g : Nat) : State :=
  match (s.garden g).hang with
  | none => s
  | some h =>
    if !h.sealed then s
    else match h.suspects.find? fun w => !h.released.contains w with
      | none => s.endHang g
      | some w =>
        let s := s.updGarden g fun d => { d with hang := some { h with released := h.released ++ [w], current := w, sealed := false } }
        s.wantRecovery g 6 4

/-- The watchdog of a garden may fire (R569). -/
def State.watchdogRuns (s : State) (g : Nat) : Bool :=
  (s.garden g).wdOn && s.gState g = gRunning && s.inService && !s.alertHold

def execHangWatchdog (garden : Nat) (found : Probe) (s : State) : Res :=
  onGarden garden s fun s =>
    if s.watchdogRuns garden && (s.garden garden).wdFrom + s.boundMs garden * ticksPerMs ≤ s.now &&
       (s.recovering garden).isNone && (s.garden garden).recover.isNone then s.hangFound garden found
    else s

/-- A flit of one of the garden's avenues stands at a router (R570). -/
def State.aveWaits (s : State) (g : Nat) : Bool :=
  s.pavs.any fun e => e.2.aq.any fun q => q.2.any fun f => f.bun.garden = g

/-- Sources of the garden are held for a change of tables (R223). -/
def State.tablesHeld (s : State) (g : Nat) : Bool := (s.pavsOf g).any fun p => (s.pav p).getF (holdF g) = 1

/-- AVENUE_STALL (R570): an entry of an avenue has held a flit for B / 4, or a table change has not completed within B (R226). -/
def execAvenueStall (garden ticks : Nat) (found : Probe) (s : State) : Res :=
  onGarden garden s fun s =>
    let bound := s.boundMs garden * ticksPerMs
    let late := (s.aveWaits garden && bound ≤ 4 * ticks) || (s.tablesHeld garden && bound ≤ ticks)
    if late && s.gState garden = gRunning && (s.recovering garden).isNone && (s.garden garden).recover.isNone then s.hangFound garden found else s

/-! ### Decisions (R320 step 4, R550, R559, R568, R576) -/

/-- An engine of the garden is in FAULT. -/
def State.engineFault (s : State) (g : Nat) : Bool := (s.engStates g).any (· = engFault)

/-- A forced relief of a site (R559): by swap or near, or the missed deadline is recorded. -/
def State.forceRelief (s : State) (c cause : Nat) : State :=
  let s := s.updSite c fun x => { x with forced := none }
  match s.mappedAt c with
  | none => s
  | some (g, l) =>
    let t := s.wantMove g [l] false
    if (t.chooseRelief g false).any fun r => r.variant ≤ 2 then
      let t := (t.incWd Reg.WD_PATROL_FORCED 1).raiseAt 0x03 1 c (some g) 0 3
      (if cause = 8 then t else t.taint g 4).wantRecovery g cause 3
    else s.raiseAt 0x03 1 c (some g)

/-- Forced reliefs whose garden has sealed a step since they were decided. -/
def State.forcedAtSeal (s : State) : State :=
  (s.sites.filter fun e => e.2.forced.isSome).foldl (fun s e =>
    match s.mappedAt e.1, e.2.forced with
    | some (g, _), some t => if t < (s.garden g).sealTick then s.forceRelief e.1 8 else s
    | _, _ => s.updSite e.1 fun x => { x with forced := none }) s

/-- An orangery the garden's slow-tier state lies in is lost (R239). -/
def State.cutOff (s : State) (g : Nat) : Bool := s.usesSlow g && allOras.any fun o => (s.orang o).lost

/-- The garden stops: RUN is cleared at a chime. -/
def State.stopCut (s : State) (g : Nat) : State :=
  (s.updGarden g fun d => { d with recover := none, wdOn := false }).addJob
    { kind := .poison, garden := g, changes := [.run g (s.coresMapped g) false] }

/-- Another change holds a relief back (R298): a start or stop, or a protection change past its own reliefs. -/
def State.reliefWaits (s : State) (g : Nat) : Bool :=
  s.post.jobs.any fun j => j.garden = g && (match j.kind with
    | .start | .stop => true
    | .protect => 0 < j.phase || (s.garden g).place.all fun e => (j.prot.getD {}).pavs.contains (pavOf e.2)
    | _ => false)

/-- The decisions for one garden. -/
def State.decideGarden (s : State) (g : Nat) : State :=
  if (s.recovering g).isSome || s.post.jobs.any fun j => j.kind = .poison && j.garden = g then s
  else
    let st := s.gState g
    if st = gRunning && s.cutOff g then s.stopCut g
    else if st = gRunning then
      let s := if s.engineFault g then (s.taint g 3).wantRecovery g 7 1 else s
      let s := s.nextSuspect g
      let t := s.taintOf g
      let s := if t ≠ 0 && (s.garden g).recover.isNone then
          let (cause, s) := s.causeOf t
          s.wantRecovery g cause 5
        else s
      let s := if t ≠ 0 then s.judgeRun g else s
      match (s.garden g).recover with
      | some (cause, strength) => if (strength = 2 || strength = 3) && s.reliefWaits g then s else s.beginRecovery g cause strength
      | none => s
    else if (s.garden g).toMove.isEmpty || s.reliefWaits g then s
    else if st = gRecovering then
      let x := (s.garden g).stuck.getD (0, 4)
      s.addJob { kind := .relief, garden := g, phase := 3, arg := x.1, cause := x.2, counted := !(s.garden g).uncounted }
    else if st = gLoaded then s.beginRelief g { kind := .relief, cause := 4 }
    else s

def State.decide (s : State) : State :=
  let s := s.climbAll.forcedAtSeal
  (List.range 4).foldl State.decideGarden s

end Sys2Proof.Machine
end

