-- ==== Sys2Proof/Machine/PeerOps.lean ====
section
/-! DEFINITION. Peer ports' shared parts (11_peer_ports.md): links and lanterns, ingress buffers, entries, swaps to a spare
port, avenues opened and closed. -/

namespace Sys2Proof.Machine

def allPeers : List Nat := (List.range 16).filter Config.peerPresent

/-! ### Links (R397, R412) -/

/-- The peer ports a lantern carries, by itself or through its spares. -/
def State.peersOf (s : State) (lantern : Nat) : List Nat := allPeers.filter fun p => s.bridgeOf p = lantern

/-- Gardens with an entry on a port. -/
def State.gardensOn (s : State) (port : Nat) : List Nat :=
  (((s.sends ++ s.recvs).filter fun e => e.port = port).map fun e => e.garden).eraseDups

/-- Incident PORT of a port or a lantern; an open step it taints is not sealed (R404, R412, R413, R549). -/
def State.portIncident (s : State) (unit id : Nat) (gs : List Nat) : State :=
  let g := match gs with
    | [g] => g
    | _ => 0xFF
  let s := s.report { kind := 0x51, unit := unit, unitId := id, garden := g, flags := b01 (gs.any s.stepOpen) }
  gs.foldl (fun s g => s.taint g 3) s

/-- A peer port goes down: one incident, and no open step of a garden with an entry on it is sealed. -/
def State.portDown (s : State) (port : Nat) : State :=
  if !s.portUp port then s
  else
    let s := s.updPeerPort port fun q => q.setF Reg.LN_PEER_STATUS_UP 0
    s.portIncident 8 port (s.gardensOn port)

def State.hostDown (s : State) (h : Nat) : State :=
  s.updHostPort h fun q => (q.setF Reg.LN_HOST_STATUS_UPA 0).setF Reg.LN_HOST_STATUS_UPB 0

/-- Every port of a lantern is down (R413, R471). -/
def State.lanternDown (s : State) (n : Nat) : State :=
  let s := (s.peersOf n).foldl State.portDown s
  if n = 2 then (s.hostDown 0).hostDown 1 else s

/-- Microseconds of a link without a PROBE after which it is down. -/
def probeLimit : Nat := 100 * ticksPerUs

/-! ### Cartridges (R413, R642-R644) -/

def cartKey (lantern cart : Nat) : Nat := 2 * lantern + cart
def State.activeCart (s : State) (n : Nat) : Nat := (s.lantern n).getF Reg.LN_LANT_STATUS_ACTIVE
def State.usableCart (s : State) (n c : Nat) : Bool := ((s.lantern n).getF Reg.LN_LANT_STATUS_USABLE).testBit c
def State.setUsable (s : State) (n c : Nat) (b : Bool) : State :=
  s.updLantern n fun q =>
    let u := q.getF Reg.LN_LANT_STATUS_USABLE
    q.setF Reg.LN_LANT_STATUS_USABLE (if b then u ||| 2 ^ c else u &&& (3 ^^^ 2 ^ c))

/-- Each reading against its limit (R642): output in 0.01 dBm, temperature in °C, bias in 0.1 mA. -/
def Cartridge.within (key : Nat) (k : Cartridge) : Bool :=
  let nom := Config.cartOutput key k.changes
  let bias := Config.cartBias key k.changes
  decide (nom - 200 ≤ k.output.toInt) && decide (k.output.toInt ≤ nom + 100) &&
  decide (15 ≤ k.temp.toInt) && decide (k.temp.toInt ≤ 75) &&
  decide (80 * bias ≤ 100 * k.bias.toNat) && decide (100 * k.bias.toNat ≤ 120 * bias)

/-- The lantern has light: it is present and fed, and its active cartridge is usable. -/
def State.lanternLit (s : State) (n : Nat) : Bool :=
  Config.lanternPresent n && !s.power.edgeFailed.contains (16 + n) && s.usableCart n (s.activeCart n) &&
  (s.cartridge (cartKey n (s.activeCart n))).emitting

/-- The active cartridge can no longer serve: the usable standby takes over, or every port of the lantern goes down. Frames
lost in a switch count as under R412. -/
def State.replaceActive (s : State) (n : Nat) : State :=
  let c := s.activeCart n
  if s.usableCart n (1 - c) then
    let s := s.updLantern n fun q => (q.setF Reg.LN_LANT_STATUS_ACTIVE (1 - c)).incF Reg.LN_LANT_STATUS_SWITCHES 1
    s.portIncident 6 n ((s.peersOf n).flatMap s.gardensOn).eraseDups
  else (s.reportAt 0x51 6 n none).lanternDown n

/-! ### Ingress buffers and PFC (R359, R405-R407) -/

/-- Bytes of a port's ingress buffer of a priority in use: bundles that wait to be injected. -/
def State.ingress (s : State) (port prio : Nat) : Nat :=
  (Fm.get [] (port * 8 + prio) s.endAve).foldl (fun a x => a + 8 + x.2.2.payload.length) 0

def xoffF (prio : Nat) : Fld := ⟨.ln, 0x200, Reg.LN_PEER_STATUS_XOFF.lo + prio, 1⟩
def peerPausedF (prio : Nat) : Fld := ⟨.ln, 0x200, Reg.LN_PEER_STATUS_PAUSED.lo + prio, 1⟩
def hostPausedF (prio : Nat) : Fld := ⟨.ln, 0x100, Reg.LN_HOST_STATUS_PAUSED.lo + prio, 1⟩

def State.sendPfc (s : State) (port prio : Nat) (pause : Bool) : State :=
  let s := s.updPeerPort port fun q => q.setF (xoffF prio) (b01 pause)
  if s.portUp port then s.updPeerPort port fun q => { q with frames := q.frames ++ [⟨.pfc prio pause, none⟩] } else s

/-- The buffer has 256 KiB or less free: the port pauses the priority. -/
def State.peerXoff (s : State) (port prio : Nat) : State :=
  if 786432 ≤ s.ingress port prio && (s.peerPort port).getF (xoffF prio) = 0 then s.sendPfc port prio true else s

/-! ### Bundles on their way out (R401, R404) -/

/-- The port of a bundle that waits at a bridge: that of its attach router; at lantern 2's, the port the avenue was opened
on. -/
def State.exitPort (s : State) (bridge key : Nat) (b : Bundle) : Nat :=
  if bridge = 2 then
    match s.sends.find? fun e => e.garden = b.garden && e.avenue = b.avenue && (s.swapOf e.port).isSome with
    | some e => e.port
    | none => ((s.swaps.find? fun w => w.port < 16).map fun w => w.port).getD 0
  else
    let k := if bridge < 2 then bridge else bridge - 1
    4 * k + (coreX (key / 4) - [8, 36, 92, 120].getD k 0) / 4

/-- What becomes of a bundle at its bridge. -/
inductive SendAct where
  | stay | stale | tagged | down | drain | send (e : PeerEntry) (rgen : BitVec 8)
  deriving DecidableEq, Repr

def State.sendAct (s : State) (bridge key : Nat) (b : Bundle) : SendAct :=
  let port := s.exitPort bridge key b
  if s.endTag (codePeer bridge) b.garden ≠ b.gen then .tagged
  else match s.sends.find? fun e => e.port = port && e.garden = b.garden && e.avenue = b.avenue with
  | none => .down
  | some e =>
    if b.drain then .drain
    else if s.heldAve b.garden b.avenue port then .stay
    else if !s.portUp port then .down
    else if e.discard then .stale
    else match e.rgen with
      | none => .stay
      | some t => if (s.peerPort port).getF (peerPausedF e.pcp) = 1 then .stay else .send e t

/-- The first of the waiting bundles, each the oldest of its input, that need not stay. -/
def State.nextOut (s : State) (bridge : Nat) : List Nat → List (Nat × Bundle) → Option (Nat × Bundle)
  | _, [] => none
  | seen, x :: xs =>
    if seen.contains x.1 || s.sendAct bridge x.1 x.2 = .stay then s.nextOut bridge (x.1 :: seen) xs else some x

def State.updSend (s : State) (port g ave : Nat) (f : PeerEntry → PeerEntry) : State :=
  { s with sends := s.sends.map fun e => if e.port = port && e.garden = g && e.avenue = ave then f e else e }

def State.peerSend (s : State) (bridge : Nat) : State :=
  let code := codePeer bridge
  match s.nextOut bridge [] (Fm.get [] code s.bridgeOut) with
  | none => s
  | some (key, b) =>
    let port := s.exitPort bridge key b
    let act := s.sendAct bridge key b
    let s := { s with bridgeOut := Fm.upd [] code (fun l => l.erase (key, b)) s.bridgeOut }
    let count (f : Fld) : State := s.updPeerPort port fun q => q.incF f 1
    match act with
    | .tagged => s.bumpLink (key / 4) 0 Reg.PV_LINK_CNT_STALE
    | .down => count Reg.LN_PEER_CNT_DOWN
    | .stale => count Reg.LN_PEER_CNT_STALE
    | .drain => s.updSend port b.garden b.avenue fun e => { e with drained := true }
    | .send e t =>
      (s.updSend port b.garden b.avenue fun e => { e with sent := true }).peerFrame port fun dest => .bundle dest e.pcp e.key t b
    | .stay => s

/-! ### What arrives (R400, R402-R404) -/

/-- The port supports what the frame needs (R395); VERSION, TYPE, reserved fields and body are as they must be (R399). -/
def State.peerFormOk (s : State) (port : Nat) (f : PeerFrame) (type : Nat) : Bool :=
  let tagOk := match f.wire.vids with
    | [] => true
    | [vid] => vid = bitsOf (s.cfg (cfgPeerVlan port)) 0 12
    | _ => false
  f.wire.fcsOk && 64 ≤ f.wire.len && f.wire.len ≤ 8254 && tagOk && f.ether = 0x88B5 && f.version = 1 && f.type = type && f.bodyOk

def State.peerCount (s : State) (port : Nat) (f : Fld) : State := s.updPeerPort port fun q => q.incF f 1

/-- A GENSYNC in answer to a stale frame: at most once per microsecond. -/
def State.askGensync (s : State) (e : PeerEntry) (tag : BitVec 8) : State :=
  if e.asked.any fun t => s.now < t + ticksPerUs then s
  else
    let s := { s with recvs := s.recvs.map fun x => if x = e then { x with asked := some s.now } else x }
    s.gensync e tag.toNat

def State.peerBundle (s : State) (port : Nat) (pf : PeerFrame) (b : Bundle) : State :=
  match s.recvs.find? fun e => e.port = port && e.key = pf.key with
  | none => s.peerCount port Reg.LN_PEER_CNT_UNKNOWN
  | some e =>
    let tag := s.endTag (codePeer (s.bridgeOf port)) e.garden
    if pf.rgen ≠ tag then (s.peerCount port Reg.LN_PEER_CNT_STALE).askGensync e tag
    else
      let b := { b with avenue := e.avenue, gen := tag, garden := e.garden }
      let item := ((s.portAttach port).getD e.router 0, e.slice, { b with hcrc := b.headCrc })
      ({ s with endAve := Fm.upd [] (port * 8 + pf.pcp) (· ++ [item]) s.endAve }).peerXoff port pf.pcp

/-- The physical core an avenue of a garden starts at. -/
def State.aveSource (s : State) (g ave port : Nat) : Option Nat :=
  let d := s.garden g
  (d.image.bind fun i => i.avenues.find? fun a => a.avenue = ave && a.peer = some port).bind fun a => Fm.look a.source d.place

/-- A send entry whose RGEN changes after it has sent: bundles of the sequence are discarded, the source is told, the step is
not sealed. -/
def State.enterDiscard (s : State) (e : PeerEntry) : State :=
  let s := s.updSend e.port e.garden e.avenue fun x => { x with discard := true }
  let s := match s.aveSource e.garden e.avenue e.port with
    | none => s
    | some c =>
      let code := codePeer (s.bridgeOf e.port)
      let p : Packet := { type := 8, dest := c, src := code, addr := 2, garden := e.garden, naming := .physical }
      { s with endOut := Fm.upd [] code (· ++ [p]) s.endOut }
  s.portIncident 8 e.port [e.garden]

def State.takeGensync (s : State) (port : Nat) (pf : PeerFrame) : State :=
  match s.sends.find? fun e => e.port = port && e.key = pf.key with
  | none => s
  | some e =>
    let changes := e.rgen.any fun t => t ≠ pf.rgen
    let s := s.updSend port e.garden e.avenue fun x => { x with rgen := some pf.rgen }
    if changes && e.sent && !e.discard then s.enterDiscard e else s

def State.takeProbe (s : State) (port : Nat) (pf : PeerFrame) (from_ : Word × Nat) : State :=
  let other := (s.peerPort port).partner.any fun p => p ≠ from_
  let s := s.updPeerPort port fun q => { q with partner := some from_, partnerMac := pf.srcMac, lastProbe := s.now }
  if other then s.reportAt 0x51 8 port none else s

/-! ### Avenues opened and closed (R408-R411) -/

/-- An avenue of the garden's image that names the port. -/
def State.peerRecord (s : State) (g ave port : Nat) : Bool :=
  ((s.garden g).image.map fun i => i.avenues.any fun a => a.avenue = ave && a.peer = some port).getD false

/-- A change under which a port is being closed, swapped or shut down. -/
def State.portClosing (s : State) (g port : Nat) : Option Job :=
  s.post.jobs.find? fun j => match j.kind with
    | .swap | .autoSwap => j.arg = port
    | .peerClose => j.garden = g
    | .release => j.garden = g
    | .protect => j.garden = g && (j.prot.any fun p => !p.peer.testBit port)
    | _ => false

def Letter.peerEntry (l : Letter) (ch : Nat) : PeerEntry :=
  { port := l.field 2 1, garden := l.garden, avenue := l.field 0 2, key := l.field 4 4, pcp := l.field 8 1, router := l.field 9 1,
    slice := l.field 10 1, drained := true, ch := ch }

/-- Fields in range; router and slice are a receive avenue's. -/
def Letter.peerFields (l : Letter) : Bool :=
  let send := l.field 3 1 = 0
  l.field 0 2 < 1024 && l.field 3 1 < 2 && l.field 4 4 ≠ 0 && l.field 8 1 < 7 && l.field 11 5 = 0 &&
  (send || (l.field 9 1 < 4 && 1 ≤ l.field 10 1 && l.field 10 1 < 4))

def State.peerAvenueOpen (s : State) (a : Accepted) : State :=
  let l := a.letter
  let g := l.garden
  let e := l.peerEntry a.channel
  let send := l.field 3 1 = 0
  let list := if send then s.sends else s.recvs
  if 16 ≤ e.port then s.dead a dField { offset := 2 }
  else if !Config.peerPresent e.port then s.dead a dAbsent { unit := 8, unitId := e.port }
  else match s.portClosing g e.port with
  | some j => let (c, q) := s.letterName fun x => x.id = j.id; s.defer a c q
  | none =>
    if (s.gState g ≠ gLoaded ∧ s.gState g ≠ gRunning) ∨ !s.peerRecord g e.avenue e.port then s.dead a dState { unit := 8, unitId := e.port }
    else if !(s.garden g).prot.peer.testBit e.port then s.dead a dProtection { unit := 8, unitId := e.port }
    else if !l.peerFields || list.any (fun x => x.port = e.port && (x.key = e.key || (x.garden = g && x.avenue = e.avenue))) then
      s.dead a dField { unit := 8, unitId := e.port }
    else if 64 ≤ (list.filter fun x => x.port = e.port).length then s.dead a dResource { unit := 8, unitId := e.port }
    else s.begin a { kind := .peerOpen, garden := g, changes := [.peer g send true e] }

/-- Entries a close removes: an avenue's on one port, or with 16 on every port. -/
def State.closing (s : State) (j : Job) : List Change :=
  let mine (e : PeerEntry) : Bool := e.garden = j.garden && e.avenue = j.arg && (j.arg2 = 16 || e.port = j.arg2)
  ((s.sends.filter mine).map fun e => Change.peer j.garden true false e) ++
  (s.recvs.filter mine).map fun e => Change.peer j.garden false false e

def State.closePoll (s : State) (j : Job) : State :=
  let g := j.garden
  let ps := s.fabricPavs g []
  match j.phase with
  | 0 => (s.startDrain g ps (s.portsOf g)).nextPhase j 1 []
  | 1 =>
    if s.drained g ps (s.portsOf g) then
      let d := s.garden g
      let s := (s.stageTables g ps d.trees d.place).endDrain g ps
      s.nextPhase j 2 (.fabric g ps :: s.closing j)
    else s
  | _ => s

/-! ### Spare ports (R414, R415) -/

/-- Gardens with entries on a port, or with avenues through it. -/
def State.swapGardens (s : State) (port : Nat) : List Nat :=
  (List.range 4).filter fun g => (s.gardensOn port).contains g || (s.garden g).trees.any fun t => t.peer = some port

def State.spareFree (s : State) (spare : Nat) : Bool := s.swaps.all fun w => w.spare ≠ spare

/-- Steps 1-3: the spare takes the port's tables, the sources are drained, the partner is waited for. Ports of 16 or more
are host ports. -/
def State.startSwap (s : State) (port spare : Nat) (auto : Bool) : State :=
  let w : Swap := { port := port, spare := spare, auto := auto, phase := 0, began := s.now, job := s.post.nextJob }
  let s := { s with swaps := s.swaps ++ [w] }
  if 16 ≤ port then s
  else (s.swapGardens port).foldl (fun s g => s.startDrain g (s.fabricPavs g []) (s.portsOf g)) s

/-- The avenues of the gardens concerned routed to lantern 2's attach routers, the others kept; none where no path has free
slices. -/
def State.reroute (s : State) (port : Nat) : Option (List Tree) :=
  let carried := { s with swaps := s.swaps.map fun (w : Swap) => if w.port = port then { w with phase := 2 } else w }
  (s.swapGardens port).foldl (fun (acc : Option (List Tree)) g =>
    let d := s.garden g
    match acc, d.image with
    | some got, some i =>
      let pl : Placement := { place := d.place, origin := d.getF Reg.GD_ORIGIN_VY * 18 + d.getF Reg.GD_ORIGIN_VX }
      (carried.routeAll g d.prot.pavs i pl (d.trees.filter fun t => t.peer ≠ some port)).map fun ts => got ++ ts
    | acc, _ => acc) (some [])

/-- The garden a routed avenue belongs to. -/
def Tree.garden (t : Tree) : Nat := ((t.entries.head?.map fun e => (decodeAve e.2).garden)).getD 4

/-- Stage the gardens' tables, with routes or as they are, for the sources to resume at the chime. -/
def State.stageSwap (s : State) (j : Job) (routes : Option (List Tree)) : State :=
  let gs := s.swapGardens j.arg
  let of (g : Nat) : List Tree := match routes with
    | some ts => ts.filter fun t => t.garden = g
    | none => (s.garden g).trees
  let pavs (g : Nat) : List Nat := s.fabricPavs g (of g)
  let s' := gs.foldl (fun s g => ((s.stageTables g (pavs g) (of g) (s.garden g).place).endDrain g (pavs g))) s
  let fabric := gs.map fun g => Change.fabric g (pavs g)
  s'.nextPhase { j with trees := routes.getD [] } (if routes.isSome then 1 else 2)
    (if routes.isSome then fabric ++ [.carry j.arg j.arg2] else fabric)

/-- A swap is given up. -/
def State.dropSwap (s : State) (j : Job) (reason : Nat) : State :=
  let s := { s with swaps := s.swaps.filter fun w => w.job ≠ j.id }
  let s := s.failJob j reason { unit := if j.arg < 16 then 8 else 7, unitId := j.arg % 128 }
  if j.kind = .autoSwap then s.raiseAt 0x51 8 j.arg none else s

/-- Step 4, once the partner is found and the sources are drained. -/
def State.swapPoll (s : State) (j : Job) : State :=
  let found := s.swaps.any fun w => w.job = j.id && w.phase = 1
  let quiet := (s.swapGardens j.arg).all fun g => s.drained g (s.fabricPavs g []) (s.portsOf g)
  if j.phase ≠ 0 || !found || !quiet then s
  else match s.reroute j.arg with
    | some ts => s.stageSwap j (some ts)
    | none =>
      if (s.swapGardens j.arg).isEmpty then s.dropSwap j dPlacement
      else s.stageSwap { j with cause := dPlacement } none

/-- The swap stands in the repair map (R414, R536). -/
def State.recordSwap (s : State) (unit spare : Nat) : State :=
  s.repair { type := 7, source := 1, unit := unit, a := spare, b := 0 }

def State.swapChimed (s : State) (j : Job) : State :=
  if j.phase = 1 then
    let s := (s.swapGardens j.arg).foldl (fun s g =>
      s.updGarden g fun d => { d with trees := j.trees.filter fun t => t.garden = g }) s
    (s.recordSwap j.arg j.arg2).endJob j []
  else s.dropSwap j j.cause

end Sys2Proof.Machine
end

