-- ==== Sys2Proof/Machine/Peer.lean ====
section
/-! DEFINITION. The commands of the peer ports (11_peer_ports.md, R358, R359, R393, R413, R471, R642-R644): frames, link
events, pauses, laser cartridges, avenues opened and closed, swaps to spare ports. -/

namespace Sys2Proof.Machine

def onPeer (port : Nat) (s : State) (f : State → State) : Res := onUnit (Config.peerPresent port) s f
def onLantern (n : Nat) (s : State) (f : State → State) : Res := onUnit (Config.lanternPresent n) s f

/-! ### Frames (R399-R404) -/

/-- A frame reaches a peer port: one addressed to another MAC is ignored, one that breaks R395 or R399 discarded and counted. -/
def onPeerFrame (port : Nat) (pf : PeerFrame) (ok : State → Bool) (s : State) (f : State → State) : Res :=
  onPeer port s fun s =>
    let s := s.updPeerPort port fun q => q.incF Reg.LN_PEER_CNT_UNCORR pf.wire.fecUncorr
    if !pf.destOk then s
    else if !ok s then s.peerCount port Reg.LN_PEER_CNT_FORMAT
    else f s

/-- BUNDLE: priorities 0-6 have a buffer. -/
def execBundle (port : Nat) (pf : PeerFrame) (b : Bundle) (s : State) : Res :=
  onPeerFrame port pf (fun s => s.peerFormOk port pf 1 && pf.pcp ≤ 6) s fun s => s.peerBundle port pf b

def execGensync (port : Nat) (pf : PeerFrame) (s : State) : Res :=
  onPeerFrame port pf (fun s => s.peerFormOk port pf 2) s fun s => s.takeGensync port pf

def execProbe (port : Nat) (pf : PeerFrame) (module : Word) (partner : Nat) (s : State) : Res :=
  onPeerFrame port pf (fun s => s.peerFormOk port pf 3 && pf.key = 0) s fun s => s.takeProbe port pf (module, partner)

/-- PROBE_SEND: a port with light names its module and itself, or the spare that carries it. -/
def execProbeSend (port : Nat) (s : State) : Res :=
  onPeer port s fun s =>
    let from_ := match s.swapOf port with
      | some w => 0x80 + w.spare
      | none => port
    if s.lanternLit (s.bridgeOf port) then
      s.updPeerPort port fun q => { q with frames := q.frames ++ [s.peerTagged port (.probe (Config.serial.setWidth 64) from_)] }
    else s

def execPeerSend (bridge : Nat) (s : State) : Res := onLantern bridge s fun s => s.peerSend bridge

/-! ### Links (R412, R414) -/

def execProbeTimeout (port : Nat) (s : State) : Res :=
  onPeer port s fun s => if s.now < (s.peerPort port).lastProbe + probeLimit then s else s.portDown port

def execBlockLockLoss (port : Nat) (s : State) : Res := onPeer port s fun s => s.portDown port

/-- PEER_LINK_RETURN: with light and a PROBE of the last 100 µs. -/
def execPeerLinkReturn (port : Nat) (s : State) : Res :=
  onPeer port s fun s =>
    let q := s.peerPort port
    if s.portUp port || q.partner.isNone || q.lastProbe + probeLimit ≤ s.now || !s.lanternLit (s.bridgeOf port) then s
    else
      let s := s.updPeerPort port fun q => q.setF Reg.LN_PEER_STATUS_UP 1
      (s.recvs.filter fun e => e.port = port).foldl (fun s e =>
        s.gensync e (s.endTag (codePeer (s.bridgeOf port)) e.garden).toNat) s

/-- A host port swap takes effect (R414). -/
def State.hostSwapped (s : State) (h : Nat) : State :=
  match s.swaps.find? fun w => w.port = 0x80 + h && w.phase < 2 with
  | none => s
  | some w =>
    let s := { s with swaps := s.swaps.map fun (x : Swap) => if x.job = w.job then { x with phase := 2 } else x }
    let s := s.updHostPort h fun q => (q.setF Reg.LN_HOST_STATUS_SPARE 1).setF Reg.LN_HOST_STATUS_SPAREID w.spare
    let s := s.updSparePort w.spare fun q => (q.setF Reg.LN_SPARE_STATUS_INUSE 1).setF Reg.LN_SPARE_STATUS_CARRIES (0x40 + h)
    let s := s.recordSwap (0x80 + h) w.spare
    match s.jobById w.job with
    | none => s
    | some j => s.endJob j []

def linkF (link : Nat) : Fld := if link = 0 then Reg.LN_HOST_STATUS_UPA else Reg.LN_HOST_STATUS_UPB

/-- The link exists in the port's mode: B with two links only. -/
def State.hasLink (s : State) (port link : Nat) : Bool :=
  link = 0 || (link = 1 && (s.hostPort port).getF Reg.LN_HOST_STATUS_MODE = 1)

def execHostLinkUp (port link : Nat) (s : State) : Res :=
  onUnit (decide (port < 2 ∧ link < 2)) s fun s =>
    if !s.lanternLit 2 || !s.hasLink port link then s
    else (s.updHostPort port fun q => q.setF (linkF link) 1).hostSwapped port

def execHostLinkDown (port link : Nat) (s : State) : Res :=
  onUnit (decide (port < 2 ∧ link < 2)) s fun s => s.updHostPort port fun q => q.setF (linkF link) 0

/-- EDGE_REGULATOR_FAIL (R471). -/
def execEdgeRegulatorFail (_reg : Nat) (feeds : EdgeUnit) (s : State) : Res :=
  let lost (n : Nat) (s : State) : State := { s with power := { s.power with edgeFailed := sins n s.power.edgeFailed } }
  match feeds with
  | .orangery n => onUnit (Config.orangeryPresent n) s fun s =>
      if s.power.edgeFailed.contains n then s
      else
        let s := (lost n s).updOra n fun v => (v.setF (rateF 0) 0).setF (rateF 1) 0
        s.oraLoss n
  | .lantern n => onLantern n s fun s => (lost (16 + n) s).lanternDown n
  | .postmaster => .next (lost 32 s).moduleStop
  | .icehouse => .next (lost 33 s).moduleStop
  | .lodge => .next (lost 34 s).moduleStop
  | .sundial => .next (lost 35 s).moduleStop

/-! ### Pauses (R358, R359, R405-R407) -/

/-- Frames that waited for a host port's priority go out, from when their timers run; then the sessions that use the port go on (R358). -/
def State.resumeHost (s : State) (port : Nat) : State :=
  if s.iturnPaused port then s
  else
    let mine := s.bridge.waiting.filter fun f => f.path.port = port
    let s := mine.foldl (fun s f => s.updSession f.session fun x =>
      { x with inflight := x.inflight.map fun i => if i.pn = f.pn then { i with sent := s.now } else i }) s
    let s := s.updBridge fun b =>
      { b with sentFrames := b.sentFrames ++ mine, waiting := b.waiting.filter (fun f => f.path.port ≠ port),
               answers := b.answers ++ b.answersWaiting.filter (fun a => a.path.port = port),
               answersWaiting := b.answersWaiting.filter fun a => a.path.port ≠ port }
    (s.sessionsOn port).foldl (fun s e => s.flushSession e.1) s

def pfcFits (peer : Bool) (port prio : Nat) : Bool :=
  if peer then Config.peerPresent port && prio < 8 else port < 2 && prio < 8

def State.hostPauses (s : State) (port prio : Nat) : Bool := (bitsOf (s.cfg (cfgHost port 3)) 0 8).testBit prio

/-- PFC_FRAME: quanta pause the priority, zero quanta resume it; a port without PFC on the priority ignores it. -/
def execPfcFrame (peer : Bool) (port prio quanta : Nat) (s : State) : Res :=
  onUnit (pfcFits peer port prio) s fun s =>
    let on := b01 (0 < quanta)
    if peer then (if prio < 7 then s.updPeerPort port fun q => q.setF (peerPausedF prio) on else s)
    else
      let s := s.updHostPort port fun q => q.incF Reg.LN_HOST_MAC_CNT_PFCRX 1
      if s.hostPauses port prio then
        let s := s.updHostPort port fun q => q.setF (hostPausedF prio) on
        if on = 0 then s.resumeHost port else s
      else s

def execPauseExpire (peer : Bool) (port prio : Nat) (s : State) : Res :=
  onUnit (pfcFits peer port prio) s fun s =>
    if peer then (if prio < 7 then s.updPeerPort port fun q => q.setF (peerPausedF prio) 0 else s)
    else (s.updHostPort port fun q => q.setF (hostPausedF prio) 0).resumeHost port

/-- PFC_REFRESH: a pausing port sends its pause again, or zero quanta once 512 KiB of a peer port's buffer or 1 MiB of a
host port's are free. -/
def execPfcRefresh (peer : Bool) (port prio : Nat) (s : State) : Res :=
  onUnit (pfcFits peer port prio) s fun s =>
    if peer then
      if 7 ≤ prio || (s.peerPort port).getF (xoffF prio) = 0 then s
      else s.sendPfc port prio (decide (524288 < s.ingress port prio))
    else if (s.hostPort port).getF Reg.LN_HOST_STATUS_XOFF = 0 then s
    else
      let n := ((List.range 8).filter fun q => s.hostPauses port q).length
      s.updHostPort port fun q =>
        (q.incF Reg.LN_HOST_MAC_CNT_PFCTX n).setF Reg.LN_HOST_STATUS_XOFF (b01 (decide (3145728 < s.rxFill port)))

/-! ### Laser cartridges (R413, R642-R644) -/

/-- CARTRIDGE_EXCURSION: the active cartridge's output has left its limits. -/
def execCartridgeExcursion (lantern : Nat) (s : State) : Res :=
  onLantern lantern s fun s =>
    let c := s.activeCart lantern
    if !s.usableCart lantern c then s else (s.setUsable lantern c false).replaceActive lantern

def takeReading (r : CartReading) (k : Cartridge) : Cartridge := { k with output := r.output, temp := r.temp, bias := r.bias }

/-- CARTRIDGE_JUDGEMENT: a cartridge that emits is usable while its readings are within limits. -/
def execCartridgeJudgement (lantern : Nat) (r0 r1 : CartReading) (s : State) : Res :=
  onLantern lantern s fun s =>
    let judge (s : State) (c : Nat) (r : CartReading) : State :=
      let key := cartKey lantern c
      let s := s.updCartridge key (takeReading r)
      s.setUsable lantern c ((s.cartridge key).emitting && (s.cartridge key).within key)
    let c := s.activeCart lantern
    let before := s.usableCart lantern c
    let s := judge (judge s 0 r0) 1 r1
    if !s.usableCart lantern c && (before || s.usableCart lantern (1 - c)) then s.replaceActive lantern else s

/-- CARTRIDGE_RELEASE: the latch opens; the cartridge no longer serves. -/
def execCartridgeRelease (lantern cart : Nat) (s : State) : Res :=
  onUnit (Config.lanternPresent lantern && decide (cart < 2)) s fun s =>
    let was := s.usableCart lantern cart
    let s := s.updCartridge (cartKey lantern cart) fun k => { k with inserted := false, emitting := false }
    let s := s.setUsable lantern cart false
    if was && s.activeCart lantern = cart then s.replaceActive lantern else s

/-- CARTRIDGE_INSERT: another cartridge, whose factory record is read; it emits nothing yet. -/
def execCartridgeInsert (lantern cart : Nat) (s : State) : Res :=
  onUnit (Config.lanternPresent lantern && decide (cart < 2)) s fun s =>
    if (s.cartridge (cartKey lantern cart)).inserted then s
    else s.updCartridge (cartKey lantern cart) fun k => { inserted := true, changes := k.changes + 1 }

/-- CARTRIDGE_READY: found within limits, it becomes the standby; a lantern without light takes it. -/
def execCartridgeReady (lantern cart : Nat) (s : State) : Res :=
  onUnit (Config.lanternPresent lantern && decide (cart < 2)) s fun s =>
    let k := s.cartridge (cartKey lantern cart)
    if !k.inserted || k.emitting then s
    else
      let s := (s.updCartridge (cartKey lantern cart) fun k => { k with emitting := true }).setUsable lantern cart true
      let c := s.activeCart lantern
      if s.usableCart lantern c then s else s.replaceActive lantern

/-! ### Letters (R408-R411, R414, R416) -/

def execPeerAvenueOpen (ch : Nat) (s : State) : Res := onLetter 0x90 ch s fun a s => s.peerAvenueOpen a

/-- PEER_AVENUE_CLOSE: every entry of the avenue, on every port. -/
def execPeerAvenueClose (ch : Nat) (s : State) : Res :=
  onLetter 0x91 ch s fun a s =>
    let l := a.letter
    if 1024 ≤ l.field 0 2 then s.dead a dField { offset := 0 }
    else s.begin a { kind := .peerClose, garden := l.garden, arg := l.field 0 2, arg2 := 16 }

/-- PEER_PORT_SWAP: PEER 0-15, 0x80 or 0x81; a change of a garden concerned is waited for. -/
def State.peerPortSwap (s : State) (a : Accepted) : State :=
  let port := a.letter.field 0 1
  let spare := a.letter.field 1 1
  if port < 16 && !Config.peerPresent port then s.dead a dAbsent { unit := 8, unitId := port }
  else if !s.spareFree spare || s.swaps.any (fun w => w.port = port) then s.dead a dState { unit := 9, unitId := spare }
  else if !(port < 16 || port = 0x80 || port = 0x81) then s.dead a dField { offset := 0 }
  else if 2 ≤ spare then s.dead a dField { offset := 1 }
  else match s.post.jobs.find? fun j => (s.swapGardens port).any fun g => j.changesGarden g with
    | some j => let (c, q) := s.letterName fun x => x.id = j.id; s.defer a c q
    | none => (s.startSwap port spare false).begin a { kind := .swap, arg := port, arg2 := spare }

def execPeerPortSwap (ch : Nat) (s : State) : Res := onLetter 0x92 ch s fun a s => s.peerPortSwap a

/-- In each of the last 16 rounds the port's uncorrectable codewords or its transmitter reading, in 0.1 dB below nominal, were at the limits of
the configuration (R414, R528). -/
def State.pastLimits (s : State) (readings : List (Nat × Nat)) : Bool :=
  16 ≤ readings.length && (readings.reverse.take 16).all fun r => s.cfgNat cfgSwapFec ≤ r.1 || s.cfgNat cfgSwapTx ≤ r.2

/-- AUTO_SWAP: a port whose `readings`, round by round, are past the limits, where the configuration allows it and a spare is free. -/
def execAutoSwap (port : Nat) (readings : List (Nat × Nat)) (s : State) : Res :=
  onPeer port s fun s =>
    match [0, 1].find? s.spareFree with
    | none => s
    | some spare =>
      if s.cfg cfgSwapAuto ≠ 1 || !s.pastLimits readings || !s.inService || s.swaps.any (fun w => w.port = port) ||
         s.post.jobs.any (fun j => (s.swapGardens port).any fun g => j.changesGarden g) then s
      else (s.startSwap port spare true).addJob { kind := .autoSwap, arg := port, arg2 := spare }

/-- SWAP_PARTNER_FOUND: the PROBEs on the spare name the port's last partner. -/
def execSwapPartnerFound (spare : Nat) (module : Word) (partner : Nat) (s : State) : Res :=
  onUnit (decide (spare < 2)) s fun s =>
    let found (w : Swap) : Bool := w.spare = spare && w.phase = 0 && w.port < 16 && (s.peerPort w.port).partner = some (module, partner)
    { s with swaps := s.swaps.map fun (w : Swap) => if found w then { w with phase := 1 } else w }

/-- SWAP_TIMEOUT: 600 s without the partner; the port's entries are restored at a chime. -/
def execSwapTimeout (spare : Nat) (s : State) : Res :=
  onUnit (decide (spare < 2)) s fun s =>
    match s.swaps.find? fun w => w.spare = spare && w.phase = 0 && w.began + 600 * ticksPerSec ≤ s.now with
    | none => s
    | some w => match s.jobById w.job with
      | none => s
      | some j =>
        if j.phase ≠ 0 then s
        else if 16 ≤ w.port || (s.swapGardens w.port).isEmpty then s.dropSwap j dState
        else s.stageSwap { j with cause := dState } none

def execPeerStatus (ch : Nat) (s : State) : Res :=
  onLetter 0x93 ch s fun a s =>
    let p := a.letter.field 0 1
    if 16 ≤ p then s.dead a dField { offset := 0 }
    else if !Config.peerPresent p then s.dead a dAbsent { unit := 8, unitId := p }
    else
      let q := s.peerPort p
      let from_ := q.partner.getD (0, 0)
      let count (l : List PeerEntry) : Nat := (l.filter fun e => e.port = p).length
      s.reply a (leBytes 8 (s.peerShow p (getReg .ln 0x200 q.regs)).toNat ++ leBytes 8 (getReg .ln 0x208 q.regs).toNat ++
        leBytes 8 from_.1.toNat ++ leBytes 1 from_.2 ++ leBytes 1 (count s.sends) ++ leBytes 1 (count s.recvs))

end Sys2Proof.Machine
end

