-- ==== Sys2Proof/Machine/Power.lean ====
section
/-! DEFINITION. The commands of power delivery and of the sensors (14_power.md, R240, R626, R627): alerts, capping,
faults of phases, plots and regulators, staged switch-on, heat, the busbar. -/

namespace Sys2Proof.Machine

/-! ### Alerts (R493-R496) -/

/-- A source of an alert: 0 pin, 1 a stage-one converter, 2 a vertical module, 3 undervoltage, 4 fast limiter; `unit` the converter or the plot. -/
def alertFits (src unit : Nat) : Bool := src < 5 && (src ≠ 1 || unit < 24) && (src ≠ 2 || unit < 36)

/-- The alert of a converter or of a vertical module is asserted or not (R493, R501). -/
def State.unitAlert (s : State) (src unit : Nat) (on : Bool) : State :=
  if src = 1 then s.setPw (Reg.PW_CONV_ALERT unit) (if on then 1 else 0)
  else if src = 2 then s.updPower fun p => { p with alerting := if on then sins unit p.alerting else sdel unit p.alerting }
  else s

/-- Another unit of the same source still asserts its alert. -/
def State.stillAlert (s : State) (src : Nat) : Bool :=
  if src = 1 then (List.range 24).any fun n => getF (Reg.PW_CONV_ALERT n) s.pw = 1
  else src = 2 && !s.power.alerting.isEmpty

/-- An accepted assertion: the hold is in force and every compute domain goes to the lowest state. -/
def State.assertAlert (s : State) (src : Nat) : State :=
  let from_ := if s.alertHold then s.power.heldFrom else s.now
  let s := s.setPw Reg.PW_STATUS_ALERTSRC (getF Reg.PW_STATUS_ALERTSRC s.pw ||| 2 ^ src)
  let s := (s.setPw Reg.PW_STATUS_ALERTHOLD 1).incPw (if src = 0 then Reg.PW_CNT_PIN else Reg.PW_CNT_INTERNAL) 1
  let s := s.updPower fun p => { p with holdCount := false, heldFrom := from_ }
  s.reindexAll

/-- ALERT_ASSERT (R493): an assertion shorter than 50 ns is ignored. -/
def execAlertAssert (source unit nanos : Nat) (s : State) : Res :=
  onUnit (alertFits source unit) s fun s =>
    let s := if source = 0 then { s with pins := { s.pins with pwrAlertN := false } } else s
    if nanos < 50 || s.power.stopped then s else (s.unitAlert source unit true).assertAlert source

/-- ALERT_SOURCE_RELEASE (R494): with the last source gone the 500 µs begin. -/
def execAlertSourceRelease (source unit : Nat) (s : State) : Res :=
  onUnit (alertFits source unit) s fun s =>
    let s := if source = 0 then { s with pins := { s.pins with pwrAlertN := true } } else s
    let s := s.unitAlert source unit false
    if s.stillAlert source then s
    else
      let left := clearBit (getF Reg.PW_STATUS_ALERTSRC s.pw) source
      let s := s.setPw Reg.PW_STATUS_ALERTSRC left
      if s.alertHold && left = 0 && !s.power.holdCount then s.updPower fun p => { p with holdCount := true, releasedAt := s.now } else s

/-- 500 µs after the last release each domain returns to its index in force; the watchdogs stood still (R494, R569). -/
def State.endAlertHold (s : State) : State :=
  if s.alertHold && s.power.holdCount && s.power.releasedAt + 500 * ticksPerUs ≤ s.now then
    let held := s.power.heldFrom
    let s := (List.range 4).foldl (fun s g => s.updGarden g fun d => if d.wdOn then { d with wdFrom := d.wdFrom + (s.now - max held d.wdFrom) } else d) s
    let s := (s.setPw Reg.PW_STATUS_ALERTHOLD 0).updPower fun p => { p with holdCount := false, halvings := 0 }
    s.reindexAll
  else s

/-- CAP_HALVING (R495): for each second of the hold the cap in force is halved at a chime, never below 5,000 W. -/
def execCapHalving (s : State) : Res :=
  if !s.alertHold || s.now < s.power.heldFrom + (s.power.halvings + 1) * ticksPerSec then .next s
  else
    let cap := getF Reg.PW_CAP_CAP s.pw
    let s := (s.incPw Reg.PW_CNT_HALVE 1).updPower fun p => { p with halvings := p.halvings + 1 }
    let s := s.raiseAt 0x30 0 0 none
    .next (s.addJob { kind := .capHalve, changes := [.capWindows (max 5000 (cap / 2)) 0 0 (some true)] })

/-! ### Capping (R470, R490, R492) -/

/-- Rounds of a window of `ms` milliseconds: ⌈ms / 0.65536⌉. -/
def windowRounds (ms : Nat) : Nat := (ms * 100000 + 65535) / 65536

def sumNat (l : List Nat) : Nat := l.foldl (· + ·) 0

/-- A comparison of the mean of a window with a fraction `pct` of the cap, in hundredths. -/
def meanAbove (l : List Nat) (cap pct : Nat) : Bool := pct * cap * l.length < 100 * sumNat l
def meanBelow (l : List Nat) (cap pct : Nat) : Bool := 100 * sumNat l < pct * cap * l.length

def State.stageCapIndex (s : State) (idx : Nat) : State :=
  (s.updPower fun p => { p with quiet := 0 }).addJob { kind := .capStep, changes := [.capIndex idx], arg := idx }

/-- CAP_LOOP (R490), once in a round, with the round's mean input power. -/
def execCapLoop (mean : Nat) (s : State) : Res :=
  if s.power.stopped || s.power.looped = s.round + 1 then .next s
  else
  let s := s.updPower fun p => { p with looped := s.round + 1 }
  let n1 := windowRounds (getF Reg.PW_CAP_WIN1 s.pw)
  let n2 := windowRounds (getF Reg.PW_CAP_WIN2 s.pw)
  let hist := (mean :: s.power.history).take (max n1 n2)
  let s := s.updPower fun p => { p with history := hist }
  let w1 := hist.take n1
  let w2 := hist.take n2
  let s := (s.setPw Reg.PW_AVG_AVG1 (sumNat w1 / w1.length)).setPw Reg.PW_AVG_AVG2 (sumNat w2 / w2.length)
  let cap := getF Reg.PW_CAP_CAP s.pw
  let idx := getF Reg.PW_STATUS_CAPIDX s.pw
  if s.hasJob .capStep || s.alertHold then .next s
  else if (meanAbove w1 cap 98 || meanAbove w2 cap 98 || 105 * cap < 100 * mean) && idx < 7 then .next (s.stageCapIndex (idx + 1))
  else if meanBelow w1 cap 92 && meanBelow w2 cap 92 then
    let s := s.updPower fun p => { p with quiet := p.quiet + 1 }
    if 16 ≤ s.power.quiet && 0 < idx then .next (s.stageCapIndex (idx - 1)) else .next s
  else .next (s.updPower fun p => { p with quiet := 0 })

/-- FAST_LIMITER (R492): above 20 kW for 1 µs, or above 16 kW for 10 ms. -/
def execFastLimiter (watts micros : Nat) (s : State) : Res :=
  let above := (20000 < watts && 1 ≤ micros) || (16000 < watts && 10000 ≤ micros)
  if !above || s.power.stopped then .next s else .next (s.assertAlert 4)

/-- The cap limit of R470: 800 W for each working converter when more than four have failed. -/
def State.converterLimit (s : State) : Nat :=
  let ok := getF Reg.PW_STATUS_CONVOK s.pw
  if 20 ≤ ok then 16000 else 800 * ok

/-- CONVERTER_FAIL (R470). -/
def execConverterFail (conv : Nat) (s : State) : Res :=
  onUnit (decide (conv < 24)) s fun s =>
    if getF (Reg.PW_CONV_OK conv) s.pw = 0 then s
    else
      let s := (s.setPw (Reg.PW_CONV_OK conv) 0).setPw (Reg.PW_CONV_FAULT conv) 1
      let s := s.setPw Reg.PW_STATUS_CONVOK (getF Reg.PW_STATUS_CONVOK s.pw - 1)
      if 20 ≤ getF Reg.PW_STATUS_CONVOK s.pw then s
      else
        let s := s.report { kind := 0x09, action := 7, flags := 2 }
        if getF Reg.PW_CAP_CAP s.pw ≤ s.converterLimit then s
        else s.addJob { kind := .capSet, changes := [.capWindows s.converterLimit 0 0 none] }

/-! ### The busbar (R472, R627, R630) -/

/-- Beyond the absolute maximum ratings nothing is defined: −1 V to 72 V, and above 64 V for 1 ms at most (R630). -/
def busbar (mv : Int) (s : State) (f : State → State) : Res :=
  if mv < -1000 || 72000 < mv then .fault .absoluteMaximum else .next (f s)

/-- Each acts on a voltage that has stayed out of its bound for 10 µs. -/
def execBusbarUndervoltage (mv : Int) (micros : Nat) (s : State) : Res :=
  busbar mv s fun s => if mv < 40000 && 10 ≤ micros && !s.power.stopped then s.assertAlert 3 else s

def execBusbarCollapse (mv : Int) (micros : Nat) (s : State) : Res :=
  busbar mv s fun s => if mv < 36000 && 10 ≤ micros then s.powerLoss else s

def execBusbarOvervoltage (mv : Int) (micros : Nat) (s : State) : Res :=
  if 64000 < mv && 1000 < micros then .fault .absoluteMaximum
  else busbar mv s fun s => if 62000 < mv && 10 ≤ micros then s.powerLoss else s

/-- BUSBAR_HIGH: one POWER incident per minute in the band above 60 V. -/
def execBusbarHigh (mv : Int) (s : State) : Res :=
  busbar mv s fun s =>
    let again := s.highSince.all fun t => t + ticksPerMin ≤ s.now
    if mv ≤ 60000 || 62000 < mv || s.power.stopped || !again then s
    else { s.reportAt 0x30 0 0 none with highSince := some s.now }

/-! ### Faults of phases, plots, regulators (R478-R483) -/

/-- PHASE_FAULT (R478, R479): the phase is latched off; three lost switch the domain off. -/
def execPhaseFault (pav phase : Nat) (s : State) : Res :=
  onUnit (decide (pav < Config.pavilions) && decide (phase < 8)) s fun s =>
    let v := s.pav pav
    let ok := v.getF Reg.PV_REG_STATUS_PHASEOK
    if !ok.testBit phase then s
    else
      let lost := v.getF Reg.PV_REG_STATUS_LOST + 1
      let s := s.updPav pav fun v =>
        let v := (v.setF Reg.PV_REG_STATUS_PHASEOK (clearBit ok phase)).setF Reg.PV_REG_STATUS_LOST lost
        let v := (v.incF Reg.PV_REG_CNT_PHASEFAULT 1).setF Reg.PV_REG_STATUS_PHASEIDX (min 2 lost)
        if 3 ≤ lost then v.setF Reg.PV_REG_STATUS_OFFPHASE 1 else v
      let s := s.reportRepair { type := 4, source := 1, unit := pav, a := phase, b := 0 }
      let off := decide (3 ≤ lost)
      let s := s.report { kind := 0x30, unit := 2, unitId := pav, garden := v.owner.getD 0xFF,
                          flags := if off && v.owner.isSome then 1 else 0, action := if off then 3 else 0 }
      if off then s.domainOff pav else s.reindex pav

/-- A pavilion goes dark: its work is to be placed anew. -/
def State.pavLost (s : State) (p strength : Nat) : State :=
  let owner := (s.pav p).owner
  let hadWork := match owner with
    | some g => !((s.garden g).lcoresAt fun c => pavOf c = p).isEmpty
    | none => false
  let s := (s.loseWork p).pavDark p
  match owner with
  | some g => if hadWork then s.wantRecovery g 4 strength else s
  | none => s

/-- PLOT_SHORT (R481). -/
def execPlotShort (plot : Nat) (s : State) : Res :=
  onUnit (decide (plot < 36)) s fun s =>
    if getF (Reg.PW_PLOT_ON plot) s.pw = 0 then s
    else
      let s := (s.setPw (Reg.PW_PLOT_ON plot) 0).setPw (Reg.PW_PLOT_SHORT plot) 1
      let s := (s.setPw (Reg.PW_PLOT_STAGING plot) 0).setPw (Reg.PW_PLOT_HALF plot) 0
      let s := (s.incPw Reg.PW_CNT_SHORT 1).incPw Reg.PW_STATUS_PLOTSOFF 1
      let s := (plotPavs plot).foldl (fun s p => s.pavLost p 2) s
      let s := s.reportRepair { type := 5, source := 1, unit := plot, a := 0, b := 0 }
      s.report { kind := 0x30, unit := 3, unitId := plot, action := 3 }

/-- THOROUGHFARE_REGULATOR_FAULT (R483). -/
def execThoroughfareRegulatorFault (pav : Nat) (s : State) : Res :=
  onPav pav s fun s =>
    if (s.pav pav).getF Reg.PV_REG_STATUS_THOK = 0 then s
    else
      let owner := (s.pav pav).owner
      let s := (s.pavLost pav 3).reportRepair { type := 9, source := 1, unit := pav, a := 2, b := 0 }
      s.reportAt 0x30 2 pav owner

/-! ### Powering a compute domain (R484-R487) -/

/-- Begin a power-on, at the lowest state. -/
def State.startPowerOn (s : State) (p : Nat) : State :=
  let s := s.updPav p fun v =>
    let v := ((v.setF Reg.PV_REG_STATUS_POWERING 1).setF Reg.PV_REG_STATUS_CORESON 0).setF Reg.PV_REG_STATUS_OFFHEAT 0
    { (v.setF Reg.PV_CLK_STATUS_DIV 7).setF Reg.PV_REG_STATUS_VSET 550 with powerOnWait := false }
  s.setPw (Reg.PW_PLOT_STAGING (plotOf p)) 1

/-- The postmaster may ask for a power-on: the thoroughfare live, fewer than three phases lost, after a heat shutdown
every sensor below 95 °C (R479, R498). -/
def Pav.mayPower (v : Pav) : Bool :=
  v.powered && !v.dark && v.sdLag.natAbs ≤ 1 && v.getF Reg.PV_REG_STATUS_ON = 0 && v.getF Reg.PV_REG_STATUS_POWERING = 0 &&
  v.getF Reg.PV_REG_STATUS_LOST < 3 &&
  (v.getF Reg.PV_REG_STATUS_OFFHEAT = 0 ||
    (ofTemp8 (v.getF Reg.PV_THERM_TJ) < 95 && ofTemp8 (v.getF Reg.PV_THERM_THTJ) < 95))

/-- DOMAIN_POWER_ON: deferred while a switch-off is in progress (R487). -/
def execDomainPowerOn (pav : Nat) (s : State) : Res :=
  onPav pav s fun s =>
    let v := s.pav pav
    if !v.mayPower || s.pins.thermTrip then s
    else if v.switchingOff then s.updPav pav fun v => { v with powerOnWait := true }
    else s.startPowerOn pav

def Pav.powering (v : Pav) : Bool := v.getF Reg.PV_REG_STATUS_POWERING = 1

/-- CORE_SWITCH_ON (R484) with the plot's current: below 315 A or at half slope, the lowest pavilion of the plot first, not
during an alert hold. -/
def execCoreSwitchOn (pav amps : Nat) (s : State) : Res :=
  onPav pav s fun s =>
    let v := s.pav pav
    let q := plotOf pav
    let s := (s.setPw (Reg.PW_PLOT_CURR q) amps).setPw (Reg.PW_PLOT_LIMIT q) (if 315 ≤ amps then 1 else 0)
    let first := (plotPavs q).all fun p => pav ≤ p || !(s.pav p).powering
    if !v.powering || !first || s.alertHold || 64 ≤ v.getF Reg.PV_REG_STATUS_CORESON ||
       (315 ≤ amps && getF (Reg.PW_PLOT_HALF q) s.pw = 0) then s
    else s.updPav pav fun v => v.incF Reg.PV_REG_STATUS_CORESON 1

/-- HALF_SLOPE (R484): after 10 ms of waiting in all, not counted during an alert hold. -/
def execHalfSlope (pav micros : Nat) (s : State) : Res :=
  onPav pav s fun s =>
    if (s.pav pav).powering && !s.alertHold && 10000 ≤ micros then s.setPw (Reg.PW_PLOT_HALF (plotOf pav)) 1 else s

/-- DOMAIN_ON_COMPLETE (R485): the domain takes its thoroughfare's applied values and moves to its index in force. -/
def execDomainOnComplete (pav : Nat) (s : State) : Res :=
  onPav pav s fun s =>
    let v := s.pav pav
    if !v.powering || 1 < v.sdLag.natAbs || v.getF Reg.PV_REG_STATUS_CORESON ≠ 64 then s
    else
      let q := plotOf pav
      let s := s.updPav pav fun v => (v.setF Reg.PV_REG_STATUS_POWERING 0).setF Reg.PV_REG_STATUS_ON 1
      let more := (plotPavs q).any fun p => (s.pav p).powering
      let s := (s.setPw (Reg.PW_PLOT_STAGING q) (if more then 1 else 0)).setPw (Reg.PW_PLOT_HALF q) 0
      ((s.resetCores pav Core.reset).identify pav).reindex pav

def execDomainSwitchOff (pav : Nat) (s : State) : Res := onPav pav s fun s => s.domainOff pav

/-- SWITCH_OFF_COMPLETE (R487): a deferred power-on proceeds. -/
def execSwitchOffComplete (pav : Nat) (s : State) : Res :=
  onPav pav s fun s =>
    let v := s.pav pav
    if !v.switchingOff then s
    else
      let s := s.updPav pav fun v => { v with switchingOff := false }
      if v.powerOnWait && (s.pav pav).mayPower && !s.pins.thermTrip then s.startPowerOn pav
      else s.updPav pav fun v => { v with powerOnWait := false }

/-- OUTPUT_WITHIN_VSET (R476): the divider switches to the faster index. -/
def execOutputWithinVset (pav : Nat) (s : State) : Res :=
  onPav pav s fun s =>
    match (s.pav pav).pendingIdx with
    | none => s
    | some t => s.updPav pav fun v => { v.setF Reg.PV_CLK_STATUS_DIV t with pendingIdx := none }

/-! ### Sensors and heat (R497-R500, R622) -/

/-- PW_THERM's hottest compute sensor (R501). -/
def State.hottest (s : State) : State :=
  let tj (e : Nat × Pav) : Int := ofTemp8 (e.2.getF Reg.PV_THERM_TJ)
  match s.pavs with
  | [] => s
  | e :: es =>
    let m := es.foldl (fun b x => if tj b < tj x then x else b) e
    (s.setPw Reg.PW_THERM_TJMAX (temp8 (tj m))).setPw Reg.PW_THERM_TJPAV m.1

/-- The response to a compute sensor (R486, R497, R500). -/
def State.computeHeat (s : State) (p : Nat) (t : Int) : State :=
  let v := s.pav p
  let s := s.updPav p fun v =>
    let v := v.setF Reg.PV_THERM_TJ (temp8 t)
    let v := { v with hotSince := if (v.tHot : Int) ≤ t then some (v.hotSince.getD s.now) else none,
                      coolSince := if t < (v.tHot : Int) - 5 then some (v.coolSince.getD s.now) else none }
    if ofTemp8 (v.getF Reg.PV_THERM_TJPEAK) < t then v.setF Reg.PV_THERM_TJPEAK (temp8 t) else v
  let s := s.hottest
  let s := if 105 ≤ t then (s.updPav p fun v => v.setF Reg.PV_REG_STATUS_HEATIDX 7).reindex p else s
  let s := if 115 < t && (v.getF Reg.PV_REG_STATUS_ON = 1 || v.powering) then
      let s := s.updPav p fun v => (v.setF Reg.PV_REG_STATUS_OFFHEAT 1).incF Reg.PV_REG_CNT_THERMOFF 1
      let s := s.report { kind := 0x30, unit := 2, unitId := p, garden := v.owner.getD 0xFF, action := 3,
                          flags := if v.owner.isSome then 1 else 0 }
      s.domainOff p
    else s
  if 125 ≤ t then s.thermTrip 1 else s

/-- Whether a sample names a unit that exists. -/
def sampleFits : Sample → Bool
  | .compute p _ | .thoroughfare p _ | .voltage p _ | .limit p => decide (p < Config.pavilions)
  | .plot q _ _ => decide (q < 36)
  | .converter c _ _ => decide (c < 24)
  | .receive n _ => decide (n < 20)
  | .busbar _ _ _ | .edge _ => true

def State.sample (s : State) : Sample → State
  | .compute p t => s.computeHeat p t
  | .thoroughfare p t =>
    let s := s.updPav p fun v => v.setF Reg.PV_THERM_THTJ (temp8 t)
    let s := if 115 < t && (s.pav p).powering then s.domainOff p else s
    if 125 ≤ t then s.thermTrip 2 else s
  | .voltage p mv => s.updPav p fun v => v.setF Reg.PV_REG_STATUS_VOUT mv
  | .limit p => s.updPav p fun v => v.incF Reg.PV_REG_CNT_LIMIT 1
  | .plot q t a =>
    ((s.setPw (Reg.PW_PLOT_TEMP q) (temp8 t)).setPw (Reg.PW_PLOT_CURR q) a).setPw (Reg.PW_PLOT_LIMIT q) (if 315 ≤ a then 1 else 0)
  | .converter c t a => (s.setPw (Reg.PW_CONV_TEMP c) (temp8 t)).setPw (Reg.PW_CONV_CURR c) a
  | .busbar v a w =>
    let s := ((s.setPw Reg.PW_INPUT_VOLT v).setPw Reg.PW_INPUT_CURR a).setPw Reg.PW_INPUT_POWER w
    s.setPw Reg.PW_AVG_PEAK (max w (getF Reg.PW_AVG_PEAK s.pw))
  | .edge t => if 125 ≤ t then s.thermTrip 2 else s
  | .receive n w =>
    let put (q : Port) : Port := { q with rx := (w % 65536).toNat }
    if n < 2 then s.updHostPort n put else if n < 18 then s.updPeerPort (n - 2) put else s.updSparePort (n - 18) put

def execSensorSample (sample : Sample) (s : State) : Res :=
  onUnit (sampleFits sample) s fun s => if s.power.stopped then s else s.sample sample

/-- HEAT_CONTRIBUTION_RISE (R497): a whole round at or above T_HOT; the next one begins. -/
def execHeatContributionRise (pav : Nat) (s : State) : Res :=
  onPav pav s fun s =>
    let h := (s.pav pav).getF Reg.PV_REG_STATUS_HEATIDX
    if !(s.pav pav).hotSince.any (fun t => t + 65536 ≤ s.now) || 7 ≤ h then s
    else (s.updPav pav fun v => { v.setF Reg.PV_REG_STATUS_HEATIDX (h + 1) with hotSince := some s.now }).reindex pav

/-- HEAT_CONTRIBUTION_FALL (R497): 16 consecutive rounds below T_HOT − 5 °C; the next 16 begin. -/
def execHeatContributionFall (pav : Nat) (s : State) : Res :=
  onPav pav s fun s =>
    let h := (s.pav pav).getF Reg.PV_REG_STATUS_HEATIDX
    if !(s.pav pav).coolSince.any (fun t => t + 16 * 65536 ≤ s.now) || h = 0 then s
    else (s.updPav pav fun v => { v.setF Reg.PV_REG_STATUS_HEATIDX (h - 1) with coolSince := some s.now }).reindex pav

/-- MR4_READ (R240, R242, R499): the temperatures of the 32 dies; a channel that has changed by 10 °C since its check is
checked next; the access limit; the trip above 110 °C. -/
def execMr4Read (ora : Nat) (temps : List Int) (s : State) : Res :=
  onUnit (Config.orangeryPresent ora && decide (temps.length = 32)) s fun s =>
    let hot := temps.foldl max (temps.headD 0)
    let before := (s.orang ora).limit
    let s := s.updOra ora fun o =>
      let moved (ch : Nat) : Bool :=
        let d := max (temps.getD (2 * ch) 0) (temps.getD (2 * ch + 1) 0) - o.chTemp.getD ch 0
        decide (10 ≤ d) || decide (d ≤ -10)
      { o with dieTemp := temps, limit := if 105 < hot then 2 else if 95 < hot then 1 else 0,
               early := (List.range 16).foldl (fun l ch => if moved ch && !l.any (fun e => e.1 = ch) then l ++ [(ch, s.round)] else l) o.early }
    let s := if 105 < hot && before ≠ 2 then s.reportAt 0x30 4 ora none else s
    let all := s.oras.map fun e => (e.1, e.2.dieTemp.foldl max (e.2.dieTemp.headD (-128)))
    let m := all.foldl (fun b x => if b.2 < x.2 then x else b) (ora, hot)
    let s := (s.setPw Reg.PW_THERM_MEMMAX (temp8 m.2)).setPw Reg.PW_THERM_MEMOR m.1
    if 110 < hot then s.thermTrip 3 else s

end Sys2Proof.Machine
end

