-- ==== Sys2Proof/Machine/ConfigOps.lean ====
section
/-! DEFINITION. The configuration image (R527-R535): its fields, their clamp rules, staging, the values a CHIME_SET
applies; the cap's clamps (R488). -/

namespace Sys2Proof.Machine

/-! ### Fields (R528) -/

/-- Every defined field, ascending. -/
def cfgFields : List Nat :=
  (List.range 13).map (· + 1) ++ (List.range 9).map (0x100 + ·) ++ (List.range 9).map (0x110 + ·) ++ (List.range 16).map (0x200 + ·)

/-- Fields that take effect at the next start. -/
def startField (f : Nat) : Bool := f = cfgSmbAddr || f = 0x100 || f = 0x101 || f = 0x110 || f = 0x111

/-- Range of a field clamped to range. -/
def cfgRange (f : Nat) : Option (Nat × Nat) :=
  match f with
  | 0x0001 => some (5, 1440)
  | 0x0002 => some (10, 10080)
  | 0x0003 => some (1000, 600000)
  | 0x0004 => some (5, 3600)
  | 0x0005 => some (1, 168)
  | 0x0006 => some (0, 15)
  | 0x0007 => some (1, 1245184)
  | 0x0008 => some (85, 104)
  | 0x000A => some (0, 127)
  | 0x000C => some (1, 65535)
  | 0x000D => some (5, 60)
  | _ => none

/-- The number of a host port's field; 16 for other fields. -/
def hostFieldNo (f : Nat) : Nat := if 0x100 ≤ f ∧ f < 0x120 then f % 16 else 16

/-- Bits of a value that are not reserved. -/
def cfgBits (f : Nat) : Nat :=
  if 0x200 ≤ f then 13
  else match hostFieldNo f with
    | 0 => 48
    | 2 => 16
    | 3 => 8
    | 7 => 33
    | 8 => 32
    | _ => 64

/-- TAGGED cleared where the VID is out of range. -/
def vlanRule (v : Nat) : Nat := if v.testBit 12 ∧ (v % 4096 = 0 ∨ v % 4096 = 4095) then v - 4096 else v

/-- VALID cleared for an address that names no host; its first octet is bits [31:24] (log entry 33). -/
def ip4Rule (v : Nat) : Nat :=
  let a := v % 2 ^ 32
  if v.testBit 32 ∧ (a = 0 ∨ a / 2 ^ 24 = 127 ∨ a / 2 ^ 28 = 14 ∨ a = 2 ^ 32 - 1) then a else v

/-- The field's own rule (R528), with the RULE of R530 where it changes the value. The first octet of a MAC address is bits
[47:40] (log entry 33). -/
def fieldRule (f v : Nat) : Nat × Nat :=
  match cfgRange f with
  | some (lo, hi) => if v < lo then (lo, 1) else if hi < v then (hi, 2) else (v, 0)
  | none =>
    if 0x200 ≤ f then (vlanRule v, 3)
    else
      let bad := match hostFieldNo f with
        | 0 => v = 0 || v.testBit 40
        | 1 => decide (1 < v)
        | 4 => v < 1024 || 65535 < v || v = 319 || v = 320
        | 16 => if f = cfgSmbAddr then v < 8 || 0x77 < v else decide (1 < v)
        | _ => false
      if bad then ((cfgDefault f).toNat, 3)
      else match hostFieldNo f with
        | 2 => (vlanRule v, 3)
        | 7 => (ip4Rule v, 3)
        | _ => (v, 0)

def clampFrom (f rule asked used : Nat) : List Clamp :=
  if asked = used then [] else [{ field := f, rule := rule, asked := BitVec.ofNat 64 asked, used := BitVec.ofNat 64 used }]

/-- Steps 1 and 2 of R529. -/
def clampField (f v : Nat) : Nat × List Clamp :=
  let v1 := v % 2 ^ cfgBits f
  let (v2, rule) := fieldRule f v1
  (v2, clampFrom f 4 v v1 ++ clampFrom f rule v1 v2)

def getCfg (m : FMap Word) (f : Nat) : Nat := (Fm.get (cfgDefault f) f m).toNat
def putCfg (m : FMap Word) (f v : Nat) : FMap Word := Fm.set (cfgDefault f) f (BitVec.ofNat 64 v) m

/-- An IPv6 address that is multicast or loopback is cleared whole; address byte 0 is bits [7:0] of HOST_IP6_HI (R11). -/
def pairRule (m : FMap Word) (h : Nat) : FMap Word × List Clamp :=
  let fh := cfgHost h 5
  let fl := cfgHost h 6
  let hi := getCfg m fh
  let lo := getCfg m fl
  if hi % 256 = 255 ∨ (hi = 0 ∧ lo = 2 ^ 56) then
    (putCfg (putCfg m fh 0) fl 0, clampFrom fh 3 hi 0 ++ clampFrom fl 3 lo 0)
  else (m, [])

/-- Step 3 of R529: CKPT_MIN above PATROL_MIN. -/
def tieRule (m : FMap Word) : FMap Word × List Clamp :=
  let p := getCfg m cfgPatrolMin
  let c := getCfg m cfgCkptMin
  if c ≤ p then (putCfg m cfgCkptMin (p + 1), clampFrom cfgCkptMin 5 c (p + 1)) else (m, [])

/-- Entries checked and written into a copy; `tie` when CKPT_MIN is among them. -/
def checkEntries (m : FMap Word) (es : List (Nat × Nat)) (tie : Bool) : FMap Word × List Clamp :=
  let step (a : FMap Word × List Clamp) (e : Nat × Nat) : FMap Word × List Clamp :=
    let (v, cl) := clampField e.1 e.2
    (putCfg a.1 e.1 v, a.2 ++ cl)
  let pair (a : FMap Word × List Clamp) (h : Nat) : FMap Word × List Clamp :=
    let (m, cl) := pairRule a.1 h
    (m, a.2 ++ cl)
  let a := [0, 1].foldl pair (es.foldl step (m, []))
  if tie then let (m, cl) := tieRule a.1; (m, a.2 ++ cl) else a

/-! ### Letters (R532-R534) -/

/-- The entries of a CONFIG_STAGE body: offset, field, reserved bytes, value. -/
def cfgEntries (l : Letter) : List (Nat × Nat × Nat × Nat) :=
  (List.range (l.length / 16)).map fun i => (16 * i, l.field (16 * i) 2, l.field (16 * i + 2) 6, l.field (16 * i + 8) 8)

def State.configStage (s : State) (a : Accepted) : State :=
  let es := cfgEntries a.letter
  match es.find? fun e => !cfgFields.contains e.2.1 || e.2.2.1 ≠ 0 with
  | some e => s.dead a dField { offset := e.1 }
  | none =>
    let (m, cl) := checkEntries s.cfgStaged (es.map fun e => (e.2.1, e.2.2.2)) (es.any fun e => e.2.1 = cfgCkptMin)
    ({ s with cfgStaged := m }).reply a [] 0 cl

/-- Entries that fit in a receipt. -/
def State.configRead (s : State) (a : Accepted) : State :=
  let l := a.letter
  let copy := l.field 0 1
  let count := l.field 4 2
  if 2 < copy then s.dead a dField { offset := 0 }
  else if count = 0 ∨ 254 < count then s.dead a dField { offset := 4 }
  else
    let m := match copy with
      | 0 => s.cfgActive
      | 1 => s.cfgStaged
      | _ => s.ice.config
    let fs := (cfgFields.filter fun f => l.field 2 2 ≤ f).take (min count 253)
    s.reply a (fs.flatMap fun f => leBytes 2 f ++ leBytes 6 0 ++ leBytes 8 (getCfg m f))

/-- CHIME_SET takes its snapshot; the fields in force that it changes are staged. -/
def State.chimeSet (s : State) (a : Accepted) : State :=
  let (m, cl) := tieRule s.cfgStaged
  let es := cfgFields.map fun f => (f, getCfg m f)
  let change := (es.filter fun (e : Nat × Nat) => !startField e.1 && e.2 ≠ getCfg s.cfgActive e.1).map fun e => (e.1, BitVec.ofNat 64 e.2)
  ({ s with cfgStaged := m }).begin a
    { kind := .config, changes := [.config change], named := a.letter.field 0 8, clamps := cl, moves := es.map fun (e : Nat × Nat) => (e.1, e.2, 0) }

/-- After the chime, at which each unit took the fields it holds, the postmaster's own fields take effect (R653), and the stored copy
takes the snapshot. -/
def State.configChimed (s : State) (j : Job) : State :=
  let put (m : FMap Word) (e : Nat × Nat × Nat) : FMap Word := putCfg m e.1 e.2.1
  let s := { s with cfgActive := (j.moves.filter fun (e : Nat × Nat × Nat) => !startField e.1).foldl put s.cfgActive }
  (s.updIce fun h => { h with config := j.moves.foldl put h.config }).endJob j []

/-! ### The cap (R470, R488) -/

def capField (off : Nat) : Nat := 0xE000 + 0x63 * 16 + off

def toRange (f lo hi v : Nat) : Nat × List Clamp :=
  let u := max lo (min hi v)
  (u, clampFrom f (if v < lo then 1 else 2) v u)

def State.powerCapSet (s : State) (a : Accepted) : State :=
  let ask (off : Nat) : Nat := a.letter.field off 4
  let (c1, cl1) := if ask 0 = 0 then (0, []) else toRange (capField 0) 5000 16000 (ask 0)
  let c2 := min c1 s.converterLimit
  let cl2 := clampFrom (capField 0) 6 c1 c2
  let win (off : Nat) : Nat × List Clamp := if ask off = 0 then (0, []) else toRange (capField off) 250 64000 (ask off)
  let (w1, cl3) := win 4
  let (w2, cl4) := win 8
  let eff (w : Nat) (f : Fld) : Nat := if w = 0 then getF f s.pw else w
  let e1 := eff w1 Reg.PW_CAP_WIN1
  let e2 := eff w2 Reg.PW_CAP_WIN2
  let (w2, cl5) := if e2 < e1 then (e1, clampFrom (capField 8) 5 e2 e1) else (w2, [])
  s.begin a { kind := .capSet, changes := [.capWindows c2 w1 w2 (if c1 = 0 then none else some false)],
              clamps := cl1 ++ cl2 ++ cl3 ++ cl4 ++ cl5 }

end Sys2Proof.Machine
end

