-- ==== Sys2Proof/Machine/Letters.lean ====
section
/-! DEFINITION. Letters of sessions, registers, mailboxes and parcels, of the configuration, power and time, of incidents and
telemetry (09_postmaster.md R338-R340, 10_iturn_host_ports.md R367-R375, R385-R392, 15_bring_up.md R532-R534,
16_faults.md R581, 18_telemetry.md R617-R624). -/

namespace Sys2Proof.Machine

/-! ### Sessions (R322, R366-R374) -/

/-- `n` bytes of the module's own, free (log entry 7). -/
def State.randomBytes (s : State) (n : Nat) : List Byte × State :=
  ((List.range n).map fun i => (Config.random s.freeCtr).getD i 0, { s with freeCtr := s.freeCtr + 1 })

/-- The channel a session of a role gets: the owner's, or a tenant's lowest free one. -/
def State.freeChannel (s : State) (owner : Bool) : Option Nat :=
  if owner then (if (s.chan 1).role = 0 then some 1 else none)
  else ((List.range 60).map (· + 4)).find? fun c => (s.chan c).role = 0

/-- A tenant session of a source address that is open and not bound. -/
def State.unboundFrom (s : State) (ip : Nat) : Bool :=
  s.bridge.sessions.any fun e => e.2.role = roleT && e.2.gardens = 0 && e.2.openIp = ip

def openBody (id ch role : Nat) (nonce mx ct : List Byte) : List Byte :=
  leBytes 4 id ++ leBytes 1 ch ++ leBytes 1 role ++ leBytes 2 0 ++ nonce ++ mx ++ ct

/-- OPEN_SESSION: the channel and the SESSION are reserved, the receipt answered on the public session, CONFIRM sent. -/
def State.openSession (s : State) (a : Accepted) : State :=
  let body := a.letter.body
  let role := a.letter.field 0 1
  if role ≠ 1 ∧ role ≠ 2 then s.dead a dField { offset := 0 }
  else if a.letter.field 1 7 ≠ 0 then s.dead a dField { offset := 1 }
  else if !Config.exchangeOk body then s.dead a dField { offset := 40 }
  else if role = 2 && s.unboundFrom a.path.ip then s.dead a dResource
  else match s.freeChannel (role = 1) with
    | none => s.dead a dResource
    | some ch =>
      let id := s.post.nextSession
      let ss := Config.sharedSecret body s.freeCtr
      let (nonce, s) := s.randomBytes 32
      let (mx, s) := s.randomBytes 32
      let (ct, s) := s.randomBytes 1088
      let part := openBody id ch role nonce mx ct
      let th := Config.sha384 (body ++ part)
      let x : Session :=
        { channel := ch, role := if role = 1 then roleO else roleT, opened := s.now, lastFrame := s.now, openIp := a.path.ip,
          path := a.path, th := th, keys := sessionKeys (slice body 8 32 ++ nonce) ss th }
      let s := s.updPost fun p => { p with nextSession := p.nextSession + 1 }
      let s := (s.putSession id x).updChan ch fun c => { c.fresh with bound := 1, session := id, role := x.role }
      (s.reply a part).queueContent id [.plain 3 (Config.identitySign (ascii "iturn confirm" ++ th))]

def execOpenSession (ch : Nat) (s : State) : Res := onLetter 0x01 ch s fun a s => s.openSession a

def State.sessionOf (s : State) (a : Accepted) : Nat := (s.chan a.channel).session

def execCloseSession (ch : Nat) (s : State) : Res :=
  onLetter 0x02 ch s fun a s => let id := s.sessionOf a; (s.reply a []).endSession id 2

def execPing (ch : Nat) (s : State) : Res :=
  onLetter 0x03 ch s fun a s => s.reply a (leBytes 8 (a.letter.field 0 8) ++ leBytes 8 s.now)

/-- REKEY: the module sends under the new phase from the receipt; frames of the old one are taken for two rounds. -/
def execRekey (ch : Nat) (s : State) : Res :=
  onLetter 0x04 ch s fun a s =>
    match s.session (s.sessionOf a) with
    | none => s.dead a dState { unit := 11, unitId := ch }
    | some x =>
      let p := a.letter.field 0 1
      if p ≠ 1 - x.phase then s.dead a dField { offset := 0 }
      else if a.letter.field 1 7 ≠ 0 then s.dead a dField { offset := 1 }
      else
        let x := { x with phase := p, oldUntil := some (s.now + 2 * 65536), txKey := 0, rxKey := 0,
                          keys := x.keys.next, oldKeys := some x.keys }
        (s.putSession (s.sessionOf a) x).reply a (leBytes 1 p)

/-- SESSION_LIST: as many records as a receipt holds. -/
def execSessionList (ch : Nat) (s : State) : Res :=
  onLetter 0x05 ch s fun a s =>
    let l := s.bridge.sessions.take 505
    let one (e : Nat × Session) : List Byte :=
      leBytes 4 e.1 ++ leBytes 1 e.2.channel ++ leBytes 1 (if e.2.role = roleO then 1 else 2) ++ leBytes 1 e.2.gardens ++ leBytes 1 0
    s.reply a (leBytes 2 l.length ++ l.flatMap one)

def execSessionBind (ch : Nat) (s : State) : Res :=
  onLetter 0x06 ch s fun a s =>
    let id := a.letter.field 0 4
    let g := a.letter.field 4 1
    match s.session id with
    | none => s.dead a dField { offset := 0 }
    | some x =>
      if x.role ≠ roleT then s.dead a dField { offset := 0 }
      else if 16 ≤ g then s.dead a dField { offset := 4 }
      else if a.letter.field 5 3 ≠ 0 then s.dead a dField { offset := 5 }
      else (s.putSession id { x with gardens := g, bound := x.bound || g ≠ 0 }).reply a []

/-! ### Registers and mailboxes (R338, R340, R346) -/

/-- A register as a channel's role sees it. -/
def State.peekReg (s : State) (ch addr : Nat) : Word × State := if s.maySee ch addr then s.readReg ch addr else (0, s)

def addrsOf (l : Letter) : List Nat := (List.range (l.field 8 2)).map fun i => l.field 0 8 + 8 * i

def execRegRead (ch : Nat) (s : State) : Res :=
  onLetter 0x10 ch s fun a s =>
    let n := a.letter.field 8 2
    if a.letter.field 0 8 % 8 ≠ 0 then s.dead a dField { offset := 0 }
    else if n = 0 ∨ 32 < n then s.dead a dField { offset := 8 }
    else
      let (vals, s) := (addrsOf a.letter).foldl (fun (r : List Word × State) x =>
        let (w, s) := r.2.peekReg ch x; (r.1 ++ [w], s)) ([], s)
      s.reply a (wordsBytes vals)

/-- REG_WRITE: all of its values are written or none. -/
def execRegWrite (ch : Nat) (s : State) : Res :=
  onLetter 0x11 ch s fun a s =>
    let n := a.letter.field 8 2
    let xs := addrsOf a.letter
    if xs.any fun x => !s.mayWrite ch x then s.dead a dRole
    else if n = 0 ∨ 32 < n then s.dead a dField { offset := 8 }
    else if a.letter.field 10 6 ≠ 0 then s.dead a dField { offset := 10 }
    else
      let vals := (List.range n).map fun i => BitVec.ofNat 64 (a.letter.field (16 + 8 * i) 8)
      ((xs.zip vals).foldl (fun s x => s.writeReg ch x.1 (permittedBits x.1 x.2)) s).reply a []

/-- MBX_STATUS: another channel's shows to owner and management only. -/
def execMbxStatus (ch : Nat) (s : State) : Res :=
  onLetter 0x12 ch s fun a s =>
    let n := a.letter.field 0 1
    if 64 ≤ n then s.dead a dField { offset := 0 }
    else s.reply a (leBytes 8 (if s.mayPeek ch n then (s.mbxStatus n).toNat else 0))

def Content.isReceipt : Content → Bool
  | .receipt _ => true
  | _ => false

/-- MBX_FLUSH: the receipts of the own channel, in slots and held, are discarded. -/
def execMbxFlush (ch : Nat) (s : State) : Res :=
  onLetter 0x13 ch s fun a s =>
    let n := (s.chan ch).outSlots.length + (s.chan ch).heldOut.length
    let s := s.updChan ch fun c => { c with outSlots := [], heldOut := [], outPos := 0 }
    let s := s.updSession (s.sessionOf a) fun x => { x with sendQ := x.sendQ.filter fun c => !c.isReceipt }
    s.reply a (leBytes 1 (min n 255))

/-! ### Parcels (R385, R392) -/

/-- Open parcels, of a session and in all. -/
def State.openParcels (s : State) (id : Nat) : Nat × Nat :=
  let l := s.bridge.parcels.filter fun e => e.2.isOpen
  ((l.filter fun e => e.2.session = id).length, l.length)

def State.addParcel (s : State) (p : Parcel) : Nat × State :=
  let id := s.post.nextParcel
  (id, (s.putParcel id p).updPost fun q => { q with nextParcel := q.nextParcel + 1 })

def execParcelOpen (ch : Nat) (s : State) : Res :=
  onLetter 0x40 ch s fun a s =>
    let l := a.letter
    let (dir, at_, n) := (l.field 0 1, l.field 8 8, l.field 16 8)
    let open_ := s.openParcels (s.sessionOf a)
    if 1 < dir then s.dead a dField { offset := 0 }
    else if l.field 1 7 ≠ 0 then s.dead a dField { offset := 1 }
    else if at_ % 8 ≠ 0 then s.dead a dField { offset := 8 }
    else if n % 8 ≠ 0 ∨ n < 8 ∨ 1536 * 2 ^ 30 < n then s.dead a dField { offset := 16 }
    else if (s.hostWindow l.garden at_ n).isNone then s.dead a dProtection { offset := 8 }
    else if 16 ≤ open_.1 ∨ 256 ≤ open_.2 then s.dead a dResource
    else
      let (id, s) := s.addParcel { session := s.sessionOf a, garden := l.garden, dir := dir, addr := at_, len := n }
      s.reply a (leBytes 4 id)

/-- PARCEL_CLOSE of an open parcel of the session; a parcel of FIRMWARE_STAGE belongs to no garden. -/
def execParcelClose (ch : Nat) (s : State) : Res :=
  onLetter 0x41 ch s fun a s =>
    let id := a.letter.field 0 4
    match s.parcel id with
    | none => s.dead a dField { offset := 0 }
    | some p =>
      if !p.isOpen || p.session ≠ s.sessionOf a || (!p.staging && p.garden ≠ a.letter.garden) then s.dead a dField { offset := 0 }
      else (s.closeParcels fun n _ => n = id).reply a (leBytes 8 (rangeBytes p.moved))

/-! ### Configuration, power and time (R453, R488, R532-R534) -/

def execConfigStage (ch : Nat) (s : State) : Res := onLetter 0x60 ch s fun a s => s.configStage a
def execConfigRead (ch : Nat) (s : State) : Res := onLetter 0x61 ch s fun a s => s.configRead a
def execChimeSet (ch : Nat) (s : State) : Res := onLetter 0x62 ch s fun a s => s.chimeSet a
def execPowerCapSet (ch : Nat) (s : State) : Res := onLetter 0x63 ch s fun a s => s.powerCapSet a

/-- DIVIDER_SET: of a garden that holds pavilions; the index is clamped as a garden image's (R302). -/
def execDividerSet (ch : Nat) (s : State) : Res :=
  onLetter 0x64 ch s fun a s =>
    let g := a.letter.garden
    if (s.pavsOf g).isEmpty then s.dead a dState { unit := 10, unitId := g }
    else
      let (i, cl) := toRange (0xE000 + 0x64 * 16) 0 7 (a.letter.field 0 1)
      s.begin a { kind := .divider, garden := g, changes := [.divider g (s.pavsOf g) i], arg := i, clamps := cl }

def State.dividerChimed (s : State) (j : Job) : State :=
  (s.updGarden j.garden fun d => { d with divider := j.arg }).endJob j []

/-- TIME_SOURCE: PTP asks for a host port that is present. -/
def execTimeSource (ch : Nat) (s : State) : Res :=
  onLetter 0x65 ch s fun a s =>
    let src := a.letter.field 0 1
    if 3 < src then s.dead a dField { offset := 0 }
    else s.begin a { kind := .timeSource, changes := [.time src], arg := src }

/-! ### Incidents (R578, R581) -/

def recordBytes (i : Incident) : List Byte :=
  leBytes 8 i.number ++ leBytes 4 i.boot ++ leBytes 2 i.kind ++ leBytes 1 i.unit ++ leBytes 1 i.garden ++ leBytes 8 i.sundial ++
  leBytes 2 i.unitId ++ leBytes 2 i.op ++ leBytes 2 i.temp ++ leBytes 2 i.volt ++ leBytes 1 i.div ++ leBytes 1 i.action ++
  leBytes 1 i.gen ++ leBytes 1 i.flags ++ leBytes 4 i.downUs ++ leBytes 8 i.step ++ leBytes 8 i.context.toNat ++
  leBytes 2 i.detail.length ++ leBytes 2 i.detailType ++ leBytes 4 i.repeats ++ i.detail ++
  List.replicate ((8 - i.detail.length % 8) % 8) 0

/-- Bytes of a receipt's body after the common part (R329, R331). -/
def bodyRoom : Nat := 4048

/-- Records in order while they fit. -/
def fitRecords : Nat → List (List Byte) → List (List Byte)
  | _, [] => []
  | room, r :: rs => if r.length ≤ room then r :: fitRecords (room - r.length) rs else []

/-- INCIDENT_READ: a tenant reads records of its gardens, or of the one it names. -/
def execIncidentRead (ch : Nat) (s : State) : Res :=
  onLetter 0x70 ch s fun a s =>
    let l := a.letter
    let mine (i : Incident) : Bool :=
      s.roleOf ch ≠ roleT || ((s.boundGardens ch).testBit i.garden && i.garden < 4 && (l.garden = 0xFF || l.garden = i.garden))
    let all := (s.ice.incidents.filter fun i => l.field 0 8 ≤ i.number && mine i).map recordBytes
    let rs := fitRecords (bodyRoom - 8) (all.take (l.field 8 2))
    s.reply a (leBytes 2 rs.length ++ leBytes 6 0 ++ rs.flatten)

def execIncidentAck (ch : Nat) (s : State) : Res :=
  onLetter 0x71 ch s fun a s =>
    let upto := min (a.letter.field 0 8) (getF Reg.WD_INC_LAST_LAST s.wd)
    let acked := max upto (getF Reg.WD_INC_ACK_ACKED s.wd)
    ((s.setWd Reg.WD_INC_ACK_ACKED acked).updIce fun h => { h with acked := acked }).reply a []

/-! ### Snapshots (R613-R621) -/

def execSnapshotRequest (ch : Nat) (s : State) : Res :=
  onLetter 0x72 ch s fun a s => s.begin a { kind := .snapshot, changes := [.snap], named := a.letter.field 0 8 }

/-- Units that took no part hold no shadows of this T (R616). -/
def State.snapshotChimed (s : State) (j : Job) : State :=
  let out := (List.range chimeUnits).filter fun u => !j.units.contains u
  let s := { s with shadowInvalid := out.foldl (fun l u => sins u l) s.shadowInvalid }
  s.endJob j (leBytes 8 j.chime)

/-- Instances of a snapshot block, and words of each. -/
def snapShape (block : Nat) : Option (Nat × Nat) :=
  match block with
  | 0x01 => some (432, 64)
  | 0x02 => some (27648, 5)
  | 0x03 => some (432, 4)
  | 0x04 => some (16, 3)
  | 0x05 => some (2, 4)
  | 0x06 => some (16, 1)
  | 0x07 => some (5, 1)
  | 0x08 => some (64, 1)
  | 0x09 => some (4, 1)
  | 0x0A => some (1, 6)
  | 0x0B => some (27648, 1)
  | _ => none

/-- The chime unit that holds an instance's shadows; none where the postmaster keeps them. -/
def snapUnitOf (block inst : Nat) : Option Nat :=
  match block with
  | 0x01 | 0x03 => some inst
  | 0x02 | 0x0B => some (pavOf inst)
  | 0x04 => some (unitOra inst)
  | 0x05 => some unitHost
  | 0x06 => some (449 + inst / 4)
  | 0x07 => some (if inst = 2 then unitHost else 449 + (if inst < 2 then inst else inst - 1))
  | _ => none

def snapAbsent (block inst : Nat) : Bool :=
  match block with
  | 0x04 => !Config.orangeryPresent inst
  | 0x06 => !Config.peerPresent inst
  | 0x07 => !Config.lanternPresent inst
  | _ => false

/-- Whether an instance lies in a caller's reach (R621). -/
def State.snapReach (s : State) (a : Accepted) (block inst : Nat) : Bool :=
  let mine (g : Nat) : Bool := (s.boundGardens a.channel).testBit g && (a.letter.garden = 0xFF || a.letter.garden = g)
  let pav (p : Nat) : Bool := (s.pav p).owner.any mine
  if s.roleOf a.channel ≠ roleT then true
  else match block with
    | 0x01 | 0x03 => pav inst
    | 0x02 | 0x0B => pav (pavOf inst)
    | 0x09 => mine inst
    | _ => false

/-- One instance record; the words of shadows that are not valid are free (log entry 7). -/
def State.snapRecord (s : State) (a : Accepted) (block inst words : Nat) : List Byte :=
  let absent := snapAbsent block inst
  let reach := s.snapReach a block inst
  let valid := (snapUnitOf block inst).all fun u => !s.shadowInvalid.contains u
  let word (i : Nat) : Nat :=
    if absent || !reach then 0
    else if valid then (Fm.get 0 (shadowKey block inst i) s.shadows).toNat
    else (Config.freeWord (s.freeCtr + inst * 64 + i)).toNat
  leBytes 8 (inst + b01 (valid && !absent) * 2 ^ 16 + b01 absent * 2 ^ 17 + b01 reach * 2 ^ 18) ++
    (List.range words).flatMap fun i => leBytes 8 (word i)

def execSnapshotRead (ch : Nat) (s : State) : Res :=
  onLetter 0x73 ch s fun a s =>
    let l := a.letter
    let (block, first, count) := (l.field 8 2, l.field 10 2, l.field 12 2)
    if l.field 0 8 ≠ getF Reg.SD_SNAP_T_T s.sd then s.dead a dState { offset := 0 }
    else match snapShape block with
      | none => s.dead a dField { offset := 8 }
      | some (insts, words) =>
        if insts ≤ first then s.dead a dField { offset := 10 }
        else if count = 0 then s.dead a dField { offset := 12 }
        else
          let n := min (min count (insts - first)) (4032 / (8 + 8 * words))
          let body := leBytes 8 (l.field 0 8) ++ leBytes 2 block ++ leBytes 2 first ++ leBytes 2 n ++ leBytes 2 words ++
            (List.range n).flatMap fun i => s.snapRecord a block (first + i) words
          { s with freeCtr := s.freeCtr + 27648 * 64 }.reply a body

/-! ### Sensors and capacity (R622-R624) -/

/-- Nominal compute frequency of an index, MHz (R440). -/
def nominalMHz (idx : Nat) : Nat := [1900, 1520, 1266, 1085, 950, 760, 633].getD idx 475

/-- Record of a pavilion; the effective frequency of a domain that is on is free (log entry 25). -/
def State.pavSensor (s : State) (p : Nat) : Nat :=
  let v := s.pav p
  let on := v.getF Reg.PV_REG_STATUS_ON
  let mhz := if on = 1 then (Config.freeWord (s.freeCtr + p)).toNat % (nominalMHz (v.getF Reg.PV_CLK_STATUS_DIV) + 1) else 0
  v.getF Reg.PV_THERM_TJ + v.getF Reg.PV_THERM_THTJ * 2 ^ 8 + v.getF Reg.PV_REG_STATUS_VOUT * 2 ^ 16 +
    v.getF Reg.PV_CLK_STATUS_DIV * 2 ^ 26 + on * 2 ^ 29 + mhz * 2 ^ 32

/-- Record of a memory device. -/
def State.memSensor (s : State) (o : Nat) : Nat :=
  if !Config.orangeryPresent o then 0
  else
    let v := s.orang o
    let hot := v.dieTemp.foldl max (v.dieTemp.headD 0)
    let die := (v.dieTemp.findIdx? (· = hot)).getD 0
    temp8 hot + die * 2 ^ 8 + v.limit * 2 ^ 16

def State.cartSensor (s : State) (n : Nat) : Nat :=
  if !Config.lanternPresent (n / 2) || !(s.cartridge n).inserted then 0
  else
    let k := s.cartridge n
    k.output.toNat + k.temp.toNat * 2 ^ 16 + k.bias.toNat * 2 ^ 24 + b01 (s.activeCart (n / 2) = n % 2) * 2 ^ 40 +
      b01 (s.usableCart (n / 2) (n % 2)) * 2 ^ 41

/-- Record of a port. -/
def State.portSensor (s : State) (n : Nat) : Nat :=
  let hostUp (h : Nat) : Bool := (s.hostPort h).getF Reg.LN_HOST_STATUS_UPA = 1 || (s.hostPort h).getF Reg.LN_HOST_STATUS_UPB = 1
  let carried (x : Nat) : Bool := s.swaps.any fun w => w.spare = x && w.phase = 2 && (if w.port < 16 then s.portUp w.port else hostUp (w.port - 0x80))
  if n < 2 then (s.hostPort n).rx + b01 (hostUp n) * 2 ^ 16
  else if n < 18 then (if Config.peerPresent (n - 2) then (s.peerPort (n - 2)).rx + b01 (s.portUp (n - 2)) * 2 ^ 16 else 0)
  else (s.sparePort (n - 18)).rx + b01 (carried (n - 18)) * 2 ^ 16

/-- A sensor class: its number of instances, and the record of each. -/
def State.sensorClass (s : State) (c : Nat) : Option (Nat × (Nat → Nat)) :=
  match c with
  | 0 => some (432, s.pavSensor)
  | 1 => some (60, fun n => (getReg .pw (if n < 36 then 0x200 + 8 * n else 0x100 + 8 * (n - 36)) s.pw).toNat)
  | 2 => some (16, s.memSensor)
  | 3 => some (30, fun n => if n < 10 then s.cartSensor n else s.portSensor (n - 10))
  | 4 => some (4, fun n => match n with
      | 0 => (getReg .pw 0x010 s.pw).toNat
      | 1 => (getReg .pw 0x018 s.pw).toNat
      | 2 => (withBits (getReg .pw 0x028 s.pw) 48 8 (s.cfgNat cfgTHot)).toNat
      | _ => (getReg .pw 0x000 s.pw).toNat)
  | _ => none

def execSensorRead (ch : Nat) (s : State) : Res :=
  onLetter 0x74 ch s fun a s =>
    let c := a.letter.field 0 1
    let first := a.letter.tag.toNat % 65536
    match s.sensorClass c with
    | none => s.dead a dField { offset := 0 }
    | some (insts, rec_) =>
      let n := min (insts - first) ((bodyRoom - 8) / 8)
      let body := leBytes 1 c ++ leBytes 1 0 ++ leBytes 2 first ++ leBytes 2 n ++ leBytes 2 0 ++
        (List.range n).flatMap fun i => leBytes 8 (rec_ (first + i))
      { s with freeCtr := s.freeCtr + 432 }.reply a body

/-- CAPACITY_READ: the values of the latest sweep. -/
def execCapacityRead (ch : Nat) (s : State) : Res :=
  onLetter 0x75 ch s fun a s =>
    s.reply a (leBytes 4 s.post.capE ++ leBytes 4 s.post.capReserve ++ leBytes 1 s.post.shorts ++ leBytes 7 0)

end Sys2Proof.Machine
end

