-- ==== Sys2Proof/Machine/Trust.lean ====
section
/-! DEFINITION. Trust (17_trust.md, R585-R611) and MODULE_RESET (R343): firmware in its slots and as it is staged, the lock,
postmarks, the stamp, the owner key. -/

namespace Sys2Proof.Machine

/-! ### Resets asked for (R343, R526) -/

/-- The first reset accepted runs its sequence; any other before stage 9 is ignored. Every session ends. Kind 1 full bring-up,
2 warm fast path. -/
def State.askReset (s : State) (kind : Nat) : State :=
  if s.start.running || s.start.want.isSome then s
  else
    let s := (s.endAll 4).setPm Reg.PM_STATUS_STATE 0
    { s with start := { s.start with want := some kind } }

def State.activation (s : State) : Option Job := s.post.jobs.find? fun j => j.kind = .firmware

/-- MODULE_RESET: the receipt, then the reset; one that comes during an activation waits for it (R611). -/
def State.moduleReset (s : State) (a : Accepted) : State :=
  if 1 < a.letter.field 0 1 then s.dead a dField { offset := 0 }
  else match s.activation with
    | some j => s.defer a 0x83 ((j.letter.map fun x => x.letter.sequence).getD 0)
    | none => (s.reply a []).askReset (if a.letter.field 0 1 = 1 then 1 else 2)

def execModuleReset (ch : Nat) (s : State) : Res := onLetter 0x66 ch s fun a s => s.moduleReset a

/-! ### Firmware (R585-R590) -/

/-- The firmware in a slot: what has been copied there, else what it holds from manufacture. -/
def State.slotFw (s : State) (n : Nat) : Firmware :=
  (Fm.look n s.ice.slots).getD
    { fwId := (Config.factoryFwId n).setWidth 64, svn := (Config.factorySvn n).toNat, keyid := (Config.factoryKeyid n).toNat,
      hash := (List.range 48).map (Config.factoryHash n) }

/-- The directory is rewritten over its oldest copy (R422). -/
def dirWrite (l : List Nat) : List Nat :=
  match l with
  | [] => []
  | x :: xs =>
    let lo := xs.foldl min x
    let hi := xs.foldl max x
    l.map fun n => if n = lo then hi + 1 else n

/-- The directory names a slot as active, with TRIAL and TRIES. -/
def State.setDirectory (s : State) (slot : Nat) (trial : Bool) (tries : Nat) : State :=
  s.updIce fun h => { h with activeSlot := slot, trial := trial, tries := tries, dirSeqs := dirWrite h.dirSeqs }

/-- Step 7 of R588: the lock. -/
def State.lockSlot (s : State) (slot : Nat) : State :=
  let f := s.slotFw slot
  { s with frank := { s.frank with lockHash := f.hash, lockFwId := f.fwId, lockSvn := f.svn, lockKeyid := f.keyid, lockSlot := slot,
                                   lockTrial := s.ice.trial, lockRom := Config.romVersion.toNat } }

/-! ### A staged image (R586, R587) -/

/-- The checks of R587 beside the key and the signatures: header, ranges, the hash of the body. -/
def fwChecks (bs : List Byte) : Bool :=
  let len := num bs 24 8
  num bs 0 4 = 0x57464C57 && num bs 4 2 = 1 && (num bs 6 2).testBit Config.hwRev.toNat && num bs 14 2 = 0 && zeroAt bs 21 3 &&
  4096 ≤ len && len ≤ 12 * 2 ^ 20 - 8192 && len % 8 = 0 && zeroAt bs 80 48 && zeroAt bs 5485 2707 &&
  slice bs 32 48 = Config.sha384 (slice bs 8192 len)

def fwHash (bs : List Byte) : List Byte := Config.sha384 (slice bs 0 128)

/-- The key's hash is the ROM's, and both signatures verify over "rolnar firmware" and H. -/
def fwSigned (bs : List Byte) : Bool :=
  let msg := ascii "rolnar firmware" ++ fwHash bs
  num bs 20 1 < 4 && Config.sha384 (slice bs 128 1984) = (List.range 48).map (Config.romKey (num bs 20 1)) &&
  Config.verifies 0 (slice bs 128 32) msg (slice bs 2112 64) && Config.verifies 1 (slice bs 160 1952) msg (slice bs 2176 3309)

def fwOf (bs : List Byte) : Firmware :=
  { fwId := BitVec.ofNat 64 (num bs 8 8), svn := num bs 16 4, keyid := num bs 20 1, hash := fwHash bs }

def State.stagedBytes (s : State) : List Byte := readBytes s.ice.staging 0 s.ice.stagingLen

/-- FIRMWARE_STAGE: a parcel into the staging area; what was staged is discarded. -/
def State.firmwareStage (s : State) (a : Accepted) : State :=
  let n := a.letter.field 0 8
  if s.activation.isSome then s.dead a dState { unit := 12 }
  else if n % 8 ≠ 0 ∨ n < 8192 ∨ 12 * 2 ^ 20 < n then s.dead a dField { offset := 0 }
  else
    let t := (s.closeParcels fun _ p => p.staging).updIce fun h => { h with staging := [], stagingLen := n, stagingDone := false }
    let open_ := t.openParcels (s.sessionOf a)
    if 16 ≤ open_.1 ∨ 256 ≤ open_.2 then s.dead a dResource
    else
      let (id, s) := t.addParcel { session := s.sessionOf a, garden := 0xFF, dir := 0, addr := 0, len := n, staging := true }
      s.reply a (leBytes 4 id)

def execFirmwareStage (ch : Nat) (s : State) : Res := onLetter 0x82 ch s fun a s => s.firmwareStage a

/-- FIRMWARE_ACTIVATE (R610): the staged image is verified; its copying waits for the icehouse's take or restore. -/
def State.firmwareActivate (s : State) (a : Accepted) : State :=
  let bs := s.stagedBytes
  if s.activation.isSome || !s.ice.stagingDone then s.dead a dState { unit := 12 }
  else if !fwChecks bs then s.dead a dImage
  else if !fwSigned bs then s.dead a dSignature
  else s.begin a { kind := .firmware }

def execFirmwareActivate (ch : Nat) (s : State) : Res := onLetter 0x83 ch s fun a s => s.firmwareActivate a

/-- The letters of a code that wait are answered DONE. -/
def State.answerAll (s : State) (code : Nat) : State :=
  (s.post.accepted.filter fun a => a.letter.code = code).foldl (fun s a => s.reply a []) s

/-- FIRMWARE_COPY_COMPLETE (R610 steps 3-5): the other slot holds the image, on trial; the receipt carries H, and a warm fast
path begins that serves the MODULE_RESETs which waited. -/
def execFirmwareCopyComplete (s : State) : Res :=
  match s.activation with
  | none => .next s
  | some j =>
    if s.iceBusy.isSome then .next s
    else
      let slot := 1 - s.ice.activeSlot
      let f := fwOf s.stagedBytes
      let s := s.updIce fun h => { h with slots := Fm.put slot f h.slots, slotLost := sdel slot h.slotLost }
      let s := ((s.setDirectory slot true 0).endJob j f.hash).answerAll 0x66
      .next (s.askReset 2)

/-! ### The stamp (R596, R597) -/

def stampLen : Nat := 5421

/-- The part number of R1, padded with zeros. -/
def partNumber : List Byte :=
  let g := match Config.grade with | .A => "A" | .B => "B" | .C => "C"
  let suffix := (if Config.suffixS then "S" else "") ++ (if Config.suffixH then "H" else "") ++ (if Config.suffixN then "N" else "")
  let text := "WL-RN36-" ++ g ++ (if suffix.isEmpty then "" else "-" ++ suffix)
  (ascii text ++ List.replicate 16 0).take 16

/-- The module's stamp: MAGIC, VERSION, SKEYID, SERIAL, PART, MADE, HW_REV, reserved, keys and vendor signatures. -/
def stampBytes : List Byte :=
  let raw (off n : Nat) : List Byte := (List.range n).map fun i => Config.stampByte (off + i)
  leBytes 4 0x54534C57 ++ leBytes 2 1 ++ raw 6 2 ++ leBytes 8 Config.serial.toNat ++ partNumber ++ raw 32 4 ++
    leBytes 2 Config.hwRev.toNat ++ leBytes 26 0 ++ raw 64 5357

/-- STAMP_READ: the page the low byte of TAG selects. -/
def execStampRead (ch : Nat) (s : State) : Res :=
  onLetter 0x81 ch s fun a s =>
    let page := bitsOf a.letter.tag 0 8
    let part := slice stampBytes (4000 * page) 4000
    s.reply a (leBytes 2 stampLen ++ leBytes 2 (4000 * page) ++ leBytes 2 part.length ++ leBytes 2 0 ++ part)

/-! ### Postmarks (R598-R604) -/

/-- CONFIG: every defined field with the value in force, ascending. -/
def State.configHash (s : State) : List Byte :=
  Config.sha384 (cfgFields.flatMap fun f => leBytes 2 f ++ leBytes 6 0 ++ leBytes 8 (getCfg s.cfgActive f))

def State.ownerHash (s : State) : List Byte := if s.ice.ownerKey.isEmpty then zeros48 else Config.sha384 s.ice.ownerKey

/-- VIEW: the role of the channel. -/
def State.viewOf (s : State) (ch : Nat) : Nat :=
  let r := s.roleOf ch
  if r = roleO then 1 else if r = roleT then 2 else if r = roleM then 3 else 0

/-- A garden's entry; IMAGE and CHAIN are hidden on the public session and from a tenant it is not bound to (R602). -/
def State.markGarden (s : State) (ch g : Nat) : List Byte :=
  let d := s.garden g
  let view := s.viewOf ch
  let seen := view = 1 || view = 3 || (view = 2 && (s.boundGardens ch).testBit g)
  leBytes 1 (d.getF Reg.GD_STATUS_STATE) ++ leBytes 1 (d.getF Reg.GD_STATUS_MODE) ++ leBytes 6 0 ++
    (if seen then imageHash d ++ chainOf d else zeros48 ++ zeros48)

/-- Bytes 0-639 of a postmark. -/
def State.markBytes (s : State) (ch : Nat) (nonce : List Byte) : List Byte :=
  let k := s.frank
  leBytes 4 0x4D504C57 ++ leBytes 2 1 ++ leBytes 1 k.lockSlot ++
    leBytes 1 ((if k.lockTrial then 1 else 0) + (if s.ice.ownerKey.isEmpty then 0 else 2)) ++ leBytes 8 Config.serial.toNat ++
    leBytes 4 s.boot ++ leBytes 4 k.lockRom ++ leBytes 8 k.lockFwId.toNat ++ leBytes 4 k.lockSvn ++ leBytes 1 (s.viewOf ch) ++
    leBytes 1 k.lockKeyid ++ leBytes 2 0 ++ leBytes 8 s.now ++ nonce ++ k.lockHash ++ s.configHash ++ s.ownerHash ++
    (List.range 4).flatMap (s.markGarden ch)

/-- A chime has passed whose change the sweep has still to take in. -/
def State.unswept (s : State) : Bool := s.post.stages.any fun g => g.t.any fun t => t ≤ s.now

/-- POSTMARK_REQUEST: at most 32 in a round, in acceptance order, when every change whose chime has passed is shown. -/
def execPostmarkRequest (ch : Nat) (s : State) : Res :=
  onLetter 0x80 ch s fun a s =>
    let first := s.post.accepted.find? fun b => b.letter.code = 0x80
    let made := if s.post.markRound = s.round then s.post.postmarks else 0
    if 32 ≤ made || s.unswept || first ≠ some a then s
    else
      let mark := s.markBytes ch ((a.letter.body ++ List.replicate 32 0).take 32)
      let s := s.updPost fun p => { p with postmarks := made + 1, markRound := s.round }
      s.reply a (mark ++ Config.identitySign (ascii "rolnar postmark" ++ mark))

/-! ### The owner key (R605-R607) -/

def execOwnerKeySet (ch : Nat) (s : State) : Res :=
  onLetter 0x84 ch s fun a s =>
    let key := slice a.letter.body 0 1984
    if !zeroAt a.letter.body 1984 8 then s.dead a dField { offset := 1984 }
    else if key.all (· = 0) then (s.updIce fun h => { h with ownerKey := [] }).reply a []
    else if !Config.keyValid key then s.dead a dField { offset := 0 }
    else (s.updIce fun h => { h with ownerKey := key }).reply a []

/-- OWNERLOAD: a word of a key; commit installs the key where none is held. -/
def execOwnerload (index : Nat) (data : Word) (commit : Bool) (s : State) : Res :=
  let s := if index < 248 then { s with test := { s.test with ownerWords := Fm.set 0 index data s.test.ownerWords } } else s
  let done (s : State) (r : Nat) : State := { s with test := { s.test with ownerResult := r } }
  if !commit then .next s
  else
    let key := (List.range 248).flatMap fun i => leBytes 8 (Fm.get 0 i s.test.ownerWords).toNat
    if !s.ice.ownerKey.isEmpty then .next (done s 2)
    else if !Config.keyValid key then .next (done s 3)
    else .next (done (s.updIce fun h => { h with ownerKey := key }) 1)

/-- OWNERCLR: every checkpoint image goes, then the owner key, and a full bring-up begins. -/
def execOwnerclr (s : State) : Res :=
  let s := s.updIce fun h => { h with checkpoints := [], ownerKey := [] }
  .next ({ s with test := { s.test with clrResult := 1 } }.askReset 1)

end Sys2Proof.Machine
end

