-- ==== Sys2Proof/Machine/StartOps.lean ====
section
/-! DEFINITION. The stages of a start (15_bring_up.md, R503-R522, R588-R594): what each leaves of the machine, given what bring-up
finds; footpath tables around dark pavilions (R211). -/

namespace Sys2Proof.Machine

/-! ### Stage reports (R508) -/

def Report.bytes (r : Report) : List Byte :=
  leBytes 1 r.stage ++ leBytes 1 r.result ++ leBytes 1 r.kind ++ leBytes 1 r.unit ++ leBytes 2 r.unitId ++ leBytes 2 0 ++
    leBytes 8 r.start ++ leBytes 8 r.stop ++ leBytes 2 r.tested ++ leBytes 2 r.repaired ++ leBytes 2 r.retired ++ leBytes 2 r.clamps

/-- The count at which a stage began: stage 4 when stage 2 ended, any other when the one before it ended; 0 for stages 0 and 1. -/
def State.begunAt (s : State) (stage : Nat) : Nat := if stage < 2 then 0 else if stage = 4 then s.start.edgeBegan else s.start.began

/-- A stage ends and another comes next. RESULT is 1 when anything was repaired, retired, lost or clamped. -/
def State.endStage (s : State) (next : Nat) (r : Report) : State :=
  let some_ := 0 < r.repaired || 0 < r.retired || 0 < r.clamps || r.result = 1
  let r := { r with kind := s.start.kind, result := b01 some_, start := s.begunAt r.stage, stop := s.now }
  { s with start := { s.start with stage := next, began := if r.stage = 4 then s.start.began else s.now,
                                    edgeBegan := if r.stage = 2 then s.now else s.start.edgeBegan, reports := Fm.put r.stage r s.start.reports } }

/-- The start stops (R510). -/
def State.stopStart (s : State) (stage unit : Nat) : State :=
  let r : Report := { stage := stage, result := 2, kind := s.start.kind, unit := unit, start := s.begunAt stage, stop := s.now }
  { s with start := { s.start with running := false, reports := Fm.put stage r s.start.reports } }.setPm Reg.PM_STATUS_STATE 4

/-! ### What a start leaves (R505, R506, R513) -/

/-- A start begins: kind 0 cold boot, 1 full bring-up, 2 warm fast path. -/
def State.newStart (s : State) (kind : Nat) (b : BootFindings) : Start :=
  { kind := kind, running := true, found := b, busbarAbsent := false, holdEnable := s.start.holdEnable, holdStage := s.start.holdStage }

/-- Sessions are gone, and their frames are answered as a module reset's; numbers go on. -/
def State.afterReset (s t : State) : State :=
  { t with bridge := { t.bridge with ended := s.bridge.ended },
           post := { t.post with nextSession := s.post.nextSession, nextParcel := s.post.nextParcel } }

/-- A start of stages 0-9; a cold boot waits before stage 1 while RST_N is low (R634). -/
def State.startWhole (s : State) (kind : Nat) (b : BootFindings) : State :=
  let t := { s.powerLoss with boot := s.boot + 1, start := s.newStart kind b }
  if kind = 0 then { t with start := { t.start with rstHold := !s.pins.rstN } } else s.afterReset t

/-- Some registers of a block as they stand, the others at reset. -/
def keepRegs (b : Blk) (offs : List Nat) (m : RegFile) : RegFile := offs.foldl (fun k o => setReg b o (getReg b o m) k) []

/-- The warm fast path: the edge units keep power and training, and what counts from power-on goes on. -/
def State.startWarm (s : State) (b : BootFindings) : State :=
  let t := s.afterReset s.powerLoss
  let before := getF Reg.WD_AVAIL_DOWNUS s.wd
  let pw := keepRegs .pw ([0x0, 0x28] ++ (List.range 24).map fun n => 0x100 + 8 * n) s.pw
  { t with boot := s.boot + 1, start := s.newStart 2 b,
           oras := Fm.mapv {} (fun _ o => { regs := setF Reg.OR_MEM_STATUS_HELD 0 (keepRegs .ora [0x0, 0x8, 0x20] o.regs),
                                            chTemp := o.chTemp, dieTemp := o.dieTemp }) s.oras,
           lanterns := Fm.mapv {} (fun _ p => { regs := keepRegs .ln [0x400] p.regs }) s.lanterns,
           cartridges := s.cartridges,
           hostPorts := Fm.mapv {} (fun _ p => { regs := keepRegs .ln [0x100] p.regs }) s.hostPorts,
           peerPorts := Fm.mapv {} (fun _ p => { p with regs := setF Reg.LN_PEER_STATUS_UP (p.getF Reg.LN_PEER_STATUS_UP) [] }) s.peerPorts,
           pw := setF Reg.PW_STATUS_CAPIDX 0 pw, power := { edgeFailed := s.power.edgeFailed, holdCount := s.power.holdCount, alerting := s.power.alerting },
           pm := setF Reg.PM_STATUS_RESTARTS (getF Reg.PM_STATUS_RESTARTS s.pm) [], wd := keepRegs .wd [0x18] s.wd, pins := s.pins,
           post := { t.post with countedBefore := before },
           ice := t.ice.setF Reg.IH_STATUS_SCAN (s.ice.getF Reg.IH_STATUS_SCAN) }

/-! ### Stage 0: power (R470-R472, R510) -/

def State.stagePower (s : State) : State :=
  let b := s.start.found
  if !b.northRail then (s.stopStart 0 0).moduleStop
  else
    let s := { s with power := { s.power with stopped := false }, pins := { s.pins with pgood := true } }.setPw Reg.PW_STATUS_PGOOD 1
    let bad (n : Nat) : Bool := b.convFail.contains n || getF (Reg.PW_CONV_FAULT n) s.pw = 1
    let s := (List.range 24).foldl (fun (s : State) n =>
      (s.setPw (Reg.PW_CONV_OK n) (b01 (!bad n))).setPw (Reg.PW_CONV_FAULT n) (b01 (bad n))) s
    let lost := ((List.range 24).filter bad).length
    let s := s.setPw Reg.PW_STATUS_CONVOK (24 - lost)
    let s := if 4 < lost then (s.setPw Reg.PW_CAP_CAP s.converterLimit).raise { kind := 0x09, action := 7, flags := 2 } else s
    if !b.refclk then s.stopStart 0 0
    else { s with srcLocked := true, srcHoldover := false }.endStage 1 { stage := 0, tested := 24, retired := lost }

/-! ### Stage 1: lodge (R588-R590) -/

/-- A slot whose image verifies. -/
def State.slotOk (s : State) (n : Nat) : Bool := !s.start.found.badSlots.contains n && !s.ice.slotLost.contains n

/-- Step 3: TRIAL and TRIES. -/
def State.lodgeTrial (s : State) : State :=
  let h := s.ice
  if !h.trial then s.updIce fun h => { h with tries := 0 }
  else if 2 ≤ h.tries then s.setDirectory (1 - h.activeSlot) false 0
  else s.setDirectory h.activeSlot true (h.tries + 1)

/-- The icehouse is trained and its registers show what is known of the store (R418, R438). -/
def Ice.train (h : Ice) (powerOn : Bool) : Ice :=
  let low := h.spares.any fun e => 112 < e.2
  let h := ((h.setF Reg.IH_STATUS_READY 1).setF Reg.IH_STATUS_DEGRADED (b01 (!h.diesLost.isEmpty))).setF Reg.IH_STATUS_DIESLOST h.diesLost.length
  let h := (h.setF Reg.IH_STATUS_SPARELOW (b01 low)).setF Reg.IH_STATUS_WORN (b01 (36000 * nandBlocks ≤ h.erased))
  let h := if powerOn then h.setF Reg.IH_STATUS_SCAN 1 else h
  { h with trained := (List.range 128).filter fun d => !h.diesLost.contains d }

def State.stageLodge (s : State) : State :=
  let s := { s with frank := { captured := true } }
  if !s.start.found.directory then s.stopStart 1 12
  else
    let s := (s.updIce fun h => h.train (s.start.kind ≠ 2)).lodgeTrial
    let go (s : State) (slot : Nat) : State :=
      (s.lockSlot slot).setPm Reg.PM_STATUS_STATE 1
    let first := s.ice.activeSlot
    if s.slotOk first then (go s first).endStage 2 { stage := 1, tested := 1 }
    else if s.slotOk (1 - first) then
      let s := (go (s.setDirectory (1 - first) false 0) (1 - first)).endStage 2 { stage := 1, tested := 2, result := 1, unit := 12 }
      { s with start := { s.start with lodgeFallback := true } }
    else s.stopStart 1 12

/-! ### Stage 2: records (R511, R535-R537, R593, R594) -/

/-- The stored configuration, checked, is in force (R535). -/
def State.loadConfig (s : State) : State × Nat :=
  let usable := s.start.found.config
  let stored := if usable then s.ice.config else []
  let (m, cl) := checkEntries stored (cfgFields.map fun f => (f, getCfg stored f)) true
  let s := { s.updIce (fun h => { h with config := m }) with cfgActive := m, cfgStaged := m }
  let s := if cl.isEmpty then s else s.raise { kind := 0x71, detailType := 3, detail := cl.flatMap clampBytes }
  (if usable then s else s.raise { kind := 0x70, unit := 12 }, cl.length)

/-- A swap of the repair map (R414, R536). -/
def State.reapplySwap (s : State) (port spare : Nat) : State :=
  let w : Swap := { port := port, spare := spare, auto := false, phase := 1, began := 0, job := 0 }
  let s := { s with swaps := s.swaps ++ [w] }
  if port < 16 then s.applyCarry port spare
  else
    let s := { s with swaps := s.swaps.map fun (x : Swap) => if x.port = port then { x with phase := 2 } else x }
    let s := s.updHostPort (port - 0x80) fun q => (q.setF Reg.LN_HOST_STATUS_SPARE 1).setF Reg.LN_HOST_STATUS_SPAREID spare
    s.updSparePort spare fun q => (q.setF Reg.LN_SPARE_STATUS_INUSE 1).setF Reg.LN_SPARE_STATUS_CARRIES (port - 0x40)

def laneKey (bank : Nat) (write : Bool) : Nat := 2 * bank + b01 write

/-- An entry of the repair map, reapplied; those of phases, plots and dark pavilions are applied where their stage tests or
powers the unit. -/
def State.reapply (s : State) (r : Repair) : State :=
  match r.type with
  | 1 => s.updSite r.unit fun x => { x with retired := true }
  | 2 => s.updCore r.unit fun k => { k with spadRedir := k.spadRedir ++ [r.a % 32 * 6144 + r.a / 32 % 8192] }
  | 3 => s.updCore r.unit fun k => { k with lanes := Fm.upd 0 (r.a % 64 / 32 + 2 * (r.a % 32)) (· + 1) k.lanes }
  | 6 => s.updOra r.unit fun o =>
      let o := { o with rowRetired := Fm.set 0 r.a (r.b + 1) o.rowRetired }
      let n := o.rowRetired.length
      ((o.setF Reg.OR_MEM_STATUS_RETIRED n).setF Reg.OR_MEM_STATUS_SPARELOW (b01 (spareRows * 9 ≤ n * 10))).setF
        Reg.OR_MEM_STATUS_SPAREOUT (b01 (spareRows ≤ n))
  | 7 => s.reapplySwap r.unit r.a
  | 8 => s.updPav r.unit fun v => { v with downLinks := sins (r.a % 64 * 4 + r.a / 64) v.downLinks }
  | _ => s

def State.stageRecords (s : State) : State :=
  let b := s.start.found
  if !b.identity then s.stopStart 2 0
  else
    let s := { s with frank := { s.frank with identity := true } }
    let s := (s.setWd Reg.WD_INC_LAST_LAST (s.nextIncident - 1)).setWd Reg.WD_INC_ACK_ACKED s.ice.acked
    let s := if s.start.lodgeFallback then s.raise { kind := 0x70, unit := 12 } else s
    let (s, clamps) := s.loadConfig
    let full := s.start.kind = 2 && (!b.repairs || !b.freq)
    let s := if full then { s with start := { s.start with kind := 1 } } else s
    let s := { s with start := { s.start with records := some (s.ice.repairs, s.ice.freq) } }
    let s := if b.repairs then s else s.updIce fun h => { h with repairs := [] }
    let s := if b.freq then s else s.updIce fun h => { h with freq := [] }
    let s := s.ice.repairs.foldl State.reapply s
    let s := (s.ice.freq.filter fun e => e.2.fmax = 3).foldl (fun s e => s.updSite e.1 fun x => { x with retired := true }) s
    s.endStage 3 { stage := 2, tested := 3, repaired := s.ice.repairs.length, clamps := clamps,
                   result := b01 (!b.config || !b.repairs || !b.freq), unit := if b.config && b.repairs && b.freq then 0 else 12 }

/-! ### Stage 3: spreading (R443, R446, R481, R482, R512) -/

def State.hasRepair (s : State) (type unit a : Nat) : Bool := s.ice.repairs.any fun r => r.type = type && r.unit = unit && r.a = a

def State.dropRepair (s : State) (type unit a : Nat) : State :=
  s.updIce fun h => { h with repairs := h.repairs.filter fun r => !(r.type = type && r.unit = unit && r.a = a) }

/-- A vertical module is switched on: a plot marked dead is skipped, one that had latched off is tried once. -/
def State.plotOn (s : State) (q : Nat) : State :=
  let tried := s.hasRepair 5 q 0
  let s := s.setPw (Reg.PW_PLOT_ON q) 0
  if s.hasRepair 5 q 1 then (s.setPw (Reg.PW_PLOT_DEAD q) 1).incPw Reg.PW_STATUS_PLOTSOFF 1
  else if s.start.found.shorts.contains q then
    let s := (s.setPw (Reg.PW_PLOT_SHORT q) 1).incPw Reg.PW_STATUS_PLOTSOFF 1
    if tried then ((s.dropRepair 5 q 0).repair { type := 5, source := 0, unit := q, a := 1, b := 0 }).setPw (Reg.PW_PLOT_DEAD q) 1
    else s.repair { type := 5, source := 0, unit := q, a := 0, b := 0 }
  else (s.dropRepair 5 q 0).setPw (Reg.PW_PLOT_ON q) 1

/-- A thoroughfare is switched on, unless its plot is off or the pavilion is recorded or found dark. -/
def State.thoroughfareOn (s : State) (p : Nat) : State :=
  let off := getF (Reg.PW_PLOT_ON (plotOf p)) s.pw = 0 || s.ice.repairs.any fun r => r.type = 9 && r.unit = p
  if off then s
  else match s.start.found.dark.find? fun e => e.1 = p with
    | some e => s.repair { type := 9, source := 0, unit := p, a := e.2, b := 0 }
    | none => s.updPav p fun v => { v.setF Reg.PV_REG_STATUS_THOK 1 with powered := true }

/-- A root PLL locks to the source on a side (R443); the pavilion has taken its applied values. -/
def State.lockPav (s : State) (e : Nat × Nat) : State :=
  let (p, side) := e
  let depth := if p < 18 then 1 else ((pavBeyond p side).map fun q => (s.pav q).getF Reg.PV_CLK_STATUS_DEPTH + 1).getD 1
  let s := s.updPav p fun v =>
    { ((v.setF Reg.PV_CLK_STATUS_SOURCE side).setF Reg.PV_CLK_STATUS_DEPTH depth).setF Reg.PV_CLK_STATUS_LOCKED 1 with dark := false, sdLag := 0, sdHold := false }
  s.refreshPav p

/-- The powered pavilions among some that are not locked and have a source, with its side. -/
def State.readyToLock (s : State) (pavs : List Nat) : List (Nat × Nat) :=
  pavs.filterMap fun p => if (s.pav p).powered && (s.pav p).dark then (s.chooseSource p).map fun side => (p, side) else none

/-- Pavilions lock in waves: each wave to sources that stood locked before it. -/
def State.lockWaves (pavs : List Nat) : Nat → State → State
  | 0, s => s
  | n + 1, s =>
    let ready := s.readyToLock pavs
    if ready.isEmpty then s else State.lockWaves pavs n (ready.foldl State.lockPav s)

/-- The links of a router to live routers are aligned; one that fails eight times is marked down. -/
def State.alignRouter (s : State) (r : Nat) : State :=
  (List.range 4).foldl (fun s side =>
    match neighbour r side with
    | none => s
    | some r2 =>
      if !s.fabricOn r2 || s.linkMarkedDown r side then s
      else if s.start.found.linksDown.contains (r, side) then
        let s := (s.markDown r side).repair { type := 8, source := 0, unit := pavOf r, a := coreIdx r + side * 64, b := 0 }
        s.raiseAt 0x40 2 (pavOf r) none
      else s.setUp r side true) s

def allPavs : List Nat := List.range Config.pavilions

/-- Row after row from the north (R512); a powered pavilion left without a source goes on trying as others lock (R444). -/
def State.lockAll (s : State) : State :=
  let s := (List.range 24).foldl (fun s vy => State.lockWaves ((List.range 18).map (18 * vy + ·)) 18 s) s
  State.lockWaves allPavs Config.pavilions s

def State.stageSpread (s : State) : State :=
  let was := s.ice.repairs.length
  let s := allPavs.foldl State.thoroughfareOn ((List.range 36).foldl State.plotOn s)
  let s := s.lockAll
  let live := allPavs.filter s.unitLive
  let s := (live.flatMap coresOf).foldl State.alignRouter s
  let gone := allPavs.find? fun p => !s.unitLive p
  s.endStage 5 { stage := 3, tested := Config.pavilions, repaired := s.ice.repairs.length - was, retired := Config.pavilions - live.length,
                 unit := if gone.isSome then 2 else 0, unitId := gone.getD 0 }

/-! ### Stage 4: the edge (R237-R241, R413, R513, R514) -/

def State.trainOra (s : State) (o : Nat) : State :=
  let b := s.start.found
  let one (s : State) (m : Nat) : State :=
    let found := (b.ucie.find? fun (e : Nat × Nat × UcieResult) => e.1 = o && e.2.1 = m).map fun (e : Nat × Nat × UcieResult) => e.2.2
    match found with
    | some .failed => s.updOra o fun v => v.setF (rateF m) 0
    | some (.trained slow half rep) => s.updOra o fun v =>
        ((v.setF (rateF m) (if slow then 1 else 2)).setF (halfF m) (b01 half)).setF (repF m) (min rep 4)
    | none =>
      if s.start.kind = 2 && (s.orang o).getF (rateF m) ≠ 0 then s
      else s.updOra o fun v => ((v.setF (rateF m) 2).setF (halfF m) 0).setF (repF m) 0
  let s := one (one s 0) 1
  let v := s.orang o
  let slow := b.memSlow.contains o || (s.start.kind = 2 && v.getF Reg.OR_MEM_STATUS_SLOW = 1)
  let linked := v.getF (rateF 0) ≠ 0 || v.getF (rateF 1) ≠ 0
  if linked && !b.memFail.contains o && !s.power.edgeFailed.contains o then
    s.updOra o fun v =>
      ((((v.setF Reg.OR_STATUS_READY 1).setF Reg.OR_STATUS_FAULT 0).setF Reg.OR_MEM_STATUS_TRAINED 1)).setF Reg.OR_MEM_STATUS_SLOW (b01 slow)
  else (s.updOra o fun v => v.setF Reg.OR_MEM_STATUS_TRAINED 0).oraLoss o

/-- A lantern's cartridges: those that serve emit, and one of them is active. -/
def State.trainLantern (s : State) (n : Nat) : State :=
  let b := s.start.found
  let serves (c : Nat) : Bool :=
    let key := cartKey n c
    (s.cartridge key).inserted && !b.carts.contains key && (s.start.kind ≠ 2 || s.usableCart n c)
  let active := if serves (s.activeCart n) || !serves (1 - s.activeCart n) then s.activeCart n else 1 - s.activeCart n
  let s := s.updLantern n fun q =>
    (q.setF Reg.LN_LANT_STATUS_ACTIVE active).setF Reg.LN_LANT_STATUS_USABLE (b01 (serves 0) + 2 * b01 (serves 1))
  let s := [0, 1].foldl (fun (s : State) c => s.updCartridge (cartKey n c) fun k => { k with emitting := serves c && !s.pins.thermTrip }) s
  if s.lanternLit n then s else s.lanternDown n

/-- A host port takes its mode; a link of another mode is down until it has trained. -/
def State.hostMode (s : State) (h : Nat) : State :=
  let mode := bitsOf (s.cfg (cfgHost h 1)) 0 1
  s.updHostPort h fun q =>
    if q.getF Reg.LN_HOST_STATUS_MODE = mode then q
    else ((q.setF Reg.LN_HOST_STATUS_MODE mode).setF Reg.LN_HOST_STATUS_UPA 0).setF Reg.LN_HOST_STATUS_UPB 0

def State.stageEdge (s : State) : State :=
  let ls := (List.range 5).filter Config.lanternPresent
  let s := ls.foldl State.trainLantern (allOras.foldl State.trainOra ((s.hostMode 0).hostMode 1))
  let lostO := allOras.filter fun o => (s.orang o).getF Reg.OR_STATUS_READY = 0
  let lostL := ls.filter fun n => !s.lanternLit n
  let next := s.start.stage
  let s := s.endStage next { stage := 4, tested := allOras.length + ls.length, retired := lostO.length + lostL.length,
                             unit := if !lostO.isEmpty then 4 else if !lostL.isEmpty then 6 else 0,
                             unitId := (lostO ++ lostL).head?.getD 0 }
  { s with start := { s.start with edgeDone := true } }

/-! ### Stage 5: waking (R478, R479, R484, R518) -/

/-- What the stored frequency table makes of a pavilion: its suspect contribution and its VOFF (R518). -/
def State.speeds (s : State) (p : Nat) : State :=
  let fmax := ((coresOf p).filter s.goodSite).foldl (fun a c => max a (Fm.get {} c s.ice.freq).fmax) 0
  (s.updPav p fun v => { v with suspectIdx := fmax }).setVoff p

/-- Phases latched off are tested once more; a domain with fewer than three lost is powered. -/
def State.wakePav (s : State) (p : Nat) : State :=
  if !s.unitLive p then s
  else
    let bad (ph : Nat) : Bool := s.start.found.phases.contains (p, ph)
    let s := (List.range 8).foldl (fun (s : State) ph =>
      if !bad ph then s.dropRepair 4 p ph
      else if s.hasRepair 4 p ph then s
      else s.repair { type := 4, source := 0, unit := p, a := ph, b := 0 }) s
    let lost := ((List.range 8).filter bad).length
    let ok := (List.range 8).foldl (fun a ph => if bad ph then a else a + 2 ^ ph) 0
    let s := s.updPav p fun v =>
      let v := ((v.setF Reg.PV_REG_STATUS_PHASEOK ok).setF Reg.PV_REG_STATUS_LOST lost).setF Reg.PV_REG_STATUS_PHASEIDX (min 2 lost)
      v.setF Reg.PV_REG_STATUS_OFFPHASE (b01 (3 ≤ lost))
    if 3 ≤ lost || s.pins.thermTrip then s
    else
      let s := s.updPav p fun v =>
        ((v.setF Reg.PV_REG_STATUS_ON 1).setF Reg.PV_REG_STATUS_CORESON 64).setF Reg.PV_CLK_STATUS_DIV 7
      (s.identify p).speeds p

def State.domainOn (s : State) (p : Nat) : Bool := (s.pav p).getF Reg.PV_REG_STATUS_ON = 1

def State.stageWake (s : State) : State :=
  let was := s.ice.repairs.length
  let s := allPavs.foldl State.wakePav s
  let off := allPavs.filter fun p => s.unitLive p && !s.domainOn p
  s.endStage (if s.start.kind = 2 then 8 else 6)
    { stage := 5, tested := (allPavs.filter s.unitLive).length, repaired := s.ice.repairs.length - was, retired := off.length,
      unit := if off.isEmpty then 0 else 2, unitId := off.head?.getD 0 }

/-! ### Stages 6 and 7: tests and pacing (R515-R519) -/

def State.tested (s : State) (c : Nat) : Bool := c < Config.coreSites && s.goodSite c && s.domainOn (pavOf c)

/-- A start test retires a site. -/
def State.retireAtStart (s : State) (c cause : Nat) : State :=
  let s := (s.updSite c fun x => { x with retired := true }).repair { type := 1, source := 0, unit := c, a := cause, b := 0 }
  s.updIce fun h => { h with freq := Fm.upd {} c (fun f => { f with fmax := 3 }) h.freq }

def State.testLine (s : State) (x : Nat × Nat × Nat) : State :=
  let (c, bank, line) := x
  let k := s.core c
  if !s.tested c || 32 ≤ bank || 6144 ≤ line then s
  else if 64 ≤ k.spareLines bank then (s.updCore c fun k => { k with spadExhausted := sins bank k.spadExhausted }).retireAtStart c 2
  else
    let s := s.repair { type := 2, source := 0, unit := c, a := bank + line * 2 ^ 5 + k.spareLines bank * 2 ^ 18, b := 0 }
    s.updCore c fun k => { k with spadRedir := k.spadRedir ++ [bank * 6144 + line] }

def State.testLane (s : State) (x : Nat × Nat × Bool × Nat) : State :=
  let (c, bank, write, lane) := x
  let n := Fm.get 0 (laneKey bank write) (s.core c).lanes
  let same (r : Repair) : Bool := r.type = 3 && r.unit = c && r.a % 8192 = bank + b01 write * 32 + lane * 64
  if !s.tested c || 32 ≤ bank || 128 ≤ lane || s.ice.repairs.any same then s
  else if 8 ≤ n then s.retireAtStart c 3
  else
    let s := s.repair { type := 3, source := 0, unit := c, a := bank + b01 write * 32 + lane * 64 + n * 2 ^ 13, b := 0 }
    s.updCore c fun k => { k with lanes := Fm.set 0 (laneKey bank write) (n + 1) k.lanes }

def State.retiredSites (s : State) : List Nat := (s.sites.filter fun e => e.2.retired).map Prod.fst

/-- The sites retired since some were, the lowest first. -/
def State.newlyRetired (s : State) (before : List Nat) : List Nat := s.retiredSites.filter fun c => !before.contains c

def State.stageTest (s : State) : State :=
  let b := s.start.found
  let (was, gone) := (s.ice.repairs.length, s.retiredSites)
  let sites := ((List.range Config.coreSites).filter s.tested).length
  let s := b.lanes.foldl State.testLane (b.lines.foldl State.testLine s)
  let s := b.failing.foldl (fun (s : State) e => if s.tested e.1 then s.retireAtStart e.1 e.2 else s) s
  let lost := s.newlyRetired gone
  s.endStage 7 { stage := 6, tested := sites, repaired := s.ice.repairs.length - was - lost.length, retired := lost.length,
                 unit := b01 (!lost.isEmpty), unitId := lost.headD 0 }

/-- The measurement of one site is stored: the slower FMAX and the larger VOFF (R519). -/
def State.paceSite (s : State) (c : Nat) : State :=
  if !s.tested c then s
  else
    let b := s.start.found
    let m := (b.pacing.find? fun e => e.1 = c).map fun e => e.2
    let (fmax, voff, margin) := m.getD (0, 0, b.margin)
    if 2 ≤ fmax || 6 ≤ voff then s.retireAtStart c 4
    else s.updIce fun h => { h with freq := Fm.upd {} c (fun f =>
      { f with fmax := max fmax f.fmax, voff := max voff f.voff, margin := margin % 256 }) h.freq }

/-- Good sites in pavilions whose compute domains are on: G of R521. -/
def State.goodOn (s : State) : Nat := s.goodIn (allPavs.filter s.domainOn)

/-- Sites of FMAX 1 are retired, lowest first, while the others are enough (R518). -/
def State.retireSlow (s : State) : State :=
  (s.ice.freq.filter fun e => e.2.fmax = 1 && s.tested e.1).foldl (fun s e =>
    if Config.exposedCores + 1024 < s.goodOn then s.retireAtStart e.1 4 else s) s

def State.stagePace (s : State) : State :=
  let gone := s.retiredSites
  let sites := ((List.range Config.coreSites).filter s.tested).length
  let s := ((List.range Config.coreSites).foldl State.paceSite s).retireSlow
  let s := (allPavs.filter s.domainOn).foldl State.speeds s
  let lost := s.newlyRetired gone
  s.endStage 8 { stage := 7, tested := sites, retired := lost.length, unit := b01 (!lost.isEmpty), unitId := lost.headD 0 }

/-! ### Footpath tables around dark pavilions (R209-R211) -/

/-- Parents of a spanning forest of the live pavilions, breadth first; a root is its own parent. -/
def widen (live : Nat → Bool) : Nat → List Nat → FMap Nat → FMap Nat
  | 0, _, m => m
  | n + 1, front, m =>
    let one (a : FMap Nat × List Nat) (p side : Nat) : FMap Nat × List Nat :=
      match pavBeyond p side with
      | some q => if live q && (Fm.look q a.1).isNone then (Fm.put q p a.1, a.2 ++ [q]) else a
      | none => a
    let (m, next) := front.foldl (fun a p => (List.range 4).foldl (fun a side => one a p side) a) (m, [])
    if next.isEmpty then m else widen live n next m

def forest (live : Nat → Bool) : FMap Nat :=
  allPavs.foldl (fun m p => if live p && (Fm.look p m).isNone then widen live Config.pavilions [p] (Fm.put p p m) else m) []

/-- A pavilion and those above it in the forest. -/
def ancestry (m : FMap Nat) : Nat → Nat → List Nat
  | 0, _ => []
  | n + 1, p => match Fm.look p m with
    | none => []
    | some q => if q = p then [p] else p :: ancestry m n q

/-- The entry of pavilion `p` for pavilion `q` along the forest: 7 where there is no way. -/
def forestEntry (m : FMap Nat) (p q : Nat) : Nat :=
  let up := ancestry m Config.pavilions q
  let mine := ancestry m Config.pavilions p
  let hop := if up.contains p then (up.takeWhile (· ≠ p)).getLast? else if mine.getLast? = up.getLast? then mine[1]? else none
  if p = q then 0
  else match hop.bind fun h => (List.range 4).find? fun side => pavBeyond p side = some h with
    | some side => side + 1
    | none => 7

/-- A set of tables along the forest routes every pair of live pavilions: they hang together (R211). -/
def State.routesWhole (s : State) : Bool :=
  let m := forest s.unitLive
  ((allPavs.filter s.unitLive).filter fun p => Fm.look p m = some p).length ≤ 1

/-- The dark pavilions. -/
def State.darkPavs (s : State) : List Nat := allPavs.filter fun p => !s.unitLive p

/-- The table of one pavilion, written at `base`: dimension order where none is dark. -/
def State.writeRoute (s : State) (m : FMap Nat) (plain : Bool) (base p : Nat) : State :=
  (List.range 27).foldl (fun s n =>
    let w := BitVec.ofNat 64 ((List.range 16).foldl (fun a e => a + forestEntry m p (16 * n + e) * 2 ^ (3 * e)) 0)
    s.setFpWord base p n (if plain then dimWord p n else w)) s

/-- The tables of the live pavilions. A set that leaves a pair of them without a route is never installed (R211); staged copies that are
locked ignore the writes (R222). -/
def State.writeRoutes (s : State) (base : Nat) : State :=
  let m := forest s.unitLive
  let plain := s.darkPavs.isEmpty
  if !s.routesWhole then s
  else (allPavs.filter fun p => s.unitLive p && (base = 0x200 || (s.pav p).getF Reg.PV_FAB_STATUS_STAGELOCK = 0)).foldl
    (fun s p => s.writeRoute m plain base p) s

/-- The avenue entries of every garden in a pavilion, active and staged. -/
def Pav.giveTrees (p : Nat) (trees : List Tree) (v : Pav) : Pav :=
  let mine := (trees.flatMap fun t => t.entries).filterMap fun e =>
    if pavOf (e.1 / 32) = p then some (coreIdx (e.1 / 32) * 32 + e.1 % 32, e.2) else none
  let table (base : Nat) (e : Nat × Word) : Bool := base ≤ e.1 && e.1 < base + 0x4000
  let clean := v.regs.filter fun e => !(table aveActive e) && !(table aveStaged e)
  { v with regs := mine.foldl (fun m e => setReg .pv (aveStaged + 8 * e.1) e.2 (setReg .pv (aveActive + 8 * e.1) e.2 m)) clean }

/-- A thoroughfare that comes back takes its tables from the postmaster before a link of it is aligned (R227). -/
def State.giveTables (s : State) (p : Nat) : State :=
  let s := s.updPav p (Pav.giveTrees p ((List.range 4).flatMap fun g => (s.garden g).trees))
  let m := forest s.unitLive
  let plain := s.darkPavs.isEmpty
  (s.writeRoute m plain 0x200 p).writeRoute m plain 0x300 p

/-! ### The records as the icehouse stores them (R527, R536, R538) -/

/-- A record: the header of R527 and its entries. -/
def recordImage (magic : Nat) (entries : List (List Byte)) : List Byte :=
  leBytes 4 magic ++ leBytes 2 1 ++ leBytes 2 0 ++ leBytes 4 entries.length ++ leBytes 4 0 ++ Config.sha384 entries.flatten ++ entries.flatten

/-- The configuration image: the fields it holds, ascending, in the layout of a CONFIG_STAGE entry. -/
def State.configRecord (s : State) : List Byte :=
  recordImage 0x46434C57 (s.ice.config.map fun e => leBytes 2 e.1 ++ leBytes 6 0 ++ leBytes 8 e.2.toNat)

def Repair.bytes (r : Repair) : List Byte := leBytes 1 r.type ++ leBytes 1 r.source ++ leBytes 2 r.unit ++ leBytes 4 r.a ++ leBytes 8 r.b

def State.repairRecord (s : State) : List Byte := recordImage 0x50524C57 (s.storedRecords.1.map Repair.bytes)

/-- A frequency entry (R538). -/
def Freq.word (f : Freq) : Nat := f.fmax % 4 + f.voff % 8 * 2 ^ 2 + b01 f.ladder * 2 ^ 5 + f.margin % 256 * 2 ^ 8

def State.freqRecord (s : State) : List Byte :=
  recordImage 0x51464C57 ((List.range Config.coreSites).map fun c => leBytes 4 (Fm.get {} c s.storedRecords.2).word)

/-! ### Stages 8 and 9 (R173, R520-R522, R509, R591) -/

/-- The largest N for which N + max(4, ⌈N / 25⌉) is at most G, and at most the grade's exposed count. -/
def exposedFor (g : Nat) : Nat := min (min (g * 25 / 26) (g - 4)) Config.exposedCores

/-- E and the reserve, and a CAPACITY incident where E falls short (R521). -/
def State.capacity (s : State) : State :=
  let g := s.goodOn
  let e := exposedFor g
  let s := s.updPost fun p => { p with capE := e, capReserve := g - e }
  if e < Config.exposedCores then s.raise { kind := 0x09, action := 7, flags := 2 } else s

/-- A memory device's usable and private parts at zero. -/
def Ora.zeroMemory (o : Ora) : Ora := { o with ce := [], bad := [], poison := [], wb := [], sums := [], written := [], masks := [] }

def State.settle (s : State) : State :=
  let s := allPavs.foldl State.zeroPav s
  let s := { allOras.foldl (fun s o => s.updOra o Ora.zeroMemory) s with slow := [] }
  let s := (s.writeRoutes 0x200).updPost fun p => { p with routed := s.darkPavs }
  let s := s.writeRoutes 0x300
  let s := { s with start := { s.start with records := none } }
  s.capacity.endStage 9 { stage := 8, tested := Config.pavilions + allOras.length }

/-- Stage 9: the trial is over, each report is an incident, and letters are accepted. -/
def State.enterService (s : State) : State :=
  let s := if s.ice.trial || s.ice.tries ≠ 0 then s.setDirectory s.ice.activeSlot false 0 else s
  let s := s.start.reports.foldl (fun s e => s.record
    { kind := 0x70, unit := e.2.unit, unitId := e.2.unitId, detailType := 2, detail := e.2.bytes }) s
  { s with start := { s.start with running := false, want := none } }.setPm Reg.PM_STATUS_STATE 2

/-! ### Going through the stages (R506, R539) -/

/-- STAGEHOLD holds the start before a stage. -/
def State.holds (s : State) (stage : Nat) : Bool := s.start.holdEnable && s.start.holdStage = stage

/-- One stage: stage 4 beside the others once stage 2 has ended, else the one that comes next. Stage 8 is SETTLE's. -/
def State.stepStart (s : State) : State :=
  let n := s.start.stage
  if !s.start.running then s
  else if 3 ≤ n && !s.start.edgeDone && !s.holds 4 then s.stageEdge
  else if s.holds n then s
  else match n with
    | 0 => s.stagePower
    | 1 => if s.start.rstHold then s else s.stageLodge
    | 2 => s.stageRecords
    | 3 => s.stageSpread
    | 5 => if s.alertHold then s else s.stageWake
    | 6 => s.stageTest
    | 7 => s.stagePace
    | 9 => s.enterService
    | _ => s

def State.runStart : Nat → State → State
  | 0, s => s
  | n + 1, s => State.runStart n s.stepStart

/-- As many stages as there are. -/
def State.goOn (s : State) : State := State.runStart 10 s

end Sys2Proof.Machine
end

