-- ==== Sys2Proof/Machine/Boot.lean ====
section
/-! DEFINITION. The commands of a start (15_bring_up.md, R503, R520-R526, R539): cold boot, full bring-up, warm fast path, the end
of stage 8, RST_N, the bring-up instruments. -/

namespace Sys2Proof.Machine

/-- COLD_BOOT: the busbar enters 40-60 V after an absence. -/
def execColdBoot (b : BootFindings) (s : State) : Res :=
  if s.start.busbarAbsent then .next (s.startWhole 0 b).goOn else .next s

/-- A reset of a kind has been accepted and begins; after R471 the module starts only by cold boot (R510). -/
def State.mayBegin (s : State) (kind : Nat) : Bool :=
  s.start.want = some kind && !s.start.running && !s.start.busbarAbsent && !s.power.stopped

def execFullBringUp (b : BootFindings) (s : State) : Res :=
  if s.mayBegin 1 then .next (s.startWhole 1 b).goOn else .next s

def execWarmFastPath (b : BootFindings) (s : State) : Res :=
  if s.mayBegin 2 then .next (s.startWarm b).goOn else .next s

/-- SETTLE: stage 8, once stage 4 has ended, and stage 9 after it. -/
def execSettle (s : State) : Res :=
  if s.start.running && s.start.stage = 8 && s.start.edgeDone && !s.holds 8 then .next s.settle.goOn else .next s

/-- RST_N may be looked at: the module is powered and no reset is on its way (R525, R526). -/
def State.samplesRst (s : State) : Bool :=
  !s.start.busbarAbsent && !s.power.stopped && !s.start.running && s.start.want.isNone && !s.start.rstLow

/-- RST_N_ACCEPT (R523, R524): low for 10 µs. -/
def execRstNAccept (micros : Nat) (s : State) : Res :=
  let s := { s with pins := { s.pins with rstN := false } }
  if micros < 10 || !s.samplesRst then .next s
  else
    let s := s.eachPav fun _ v =>
      if v.getF Reg.PV_REG_STATUS_ON = 0 then v
      else { (v.setF Reg.PV_CLK_STATUS_DIV 7).setF Reg.PV_REG_STATUS_VSET 550 with pendingIdx := none }
    let s := { s with cores := Fm.mapv {} (fun _ k => k.stopRun) s.cores }
    let s := (s.endAll 4).setPm Reg.PM_STATUS_STATE 0
    .next { s with start := { s.start with rstLow := true } }

/-- RST_N_RISE (R503, R524, R634): the time from fall to rise selects the start kind; a cold boot that waited goes on. -/
def execRstNRise (micros : Nat) (s : State) : Res :=
  let s := { s with pins := { s.pins with rstN := true } }
  if s.start.rstHold then .next { s with start := { s.start with rstHold := false } }.goOn
  else if !s.start.rstLow then .next s
  else .next { s with start := { s.start with rstLow := false, want := some (if 1000000 ≤ micros then 1 else 2) } }

/-- ALERT_HOLD_END (R494): the hold ends, and a start that waited for it before stage 5 goes on (R484, R504). -/
def execAlertHoldEnd (s : State) : Res := .next s.endAlertHold.goOn

/-! ### Instruments (R539) -/

/-- BOOTRPT: the report of a stage, all zero when there is none. -/
def execBootrpt (index : Nat) (s : State) : Res :=
  let out := match Fm.look index s.start.reports with
    | some r => r.bytes
    | none => List.replicate 32 0
  .next { s with test := { s.test with bootOut := out } }

/-- STAGEHOLD: the start waits before the stage, and goes on when it is no longer held. -/
def execStagehold (stage : Nat) (enable : Bool) (s : State) : Res :=
  .next { s with start := { s.start with holdEnable := enable, holdStage := stage } }.goOn

/-- PAVTEST: refused for a pavilion that a garden owns or whose compute domain is off, and before stage 9. -/
def execPavtest (pav : Nat) (failing : List Nat) (s : State) : Res :=
  onPav pav s fun s =>
    let done (s : State) (r : Nat) : State := { s with test := { s.test with pavResult := r } }
    if (s.pav pav).owner.isSome || !s.domainOn pav || !s.inService then done s 3
    else
      let bad := ((coresOf pav).filter failing.contains).filter s.goodSite
      done (bad.foldl (fun s c => s.retire c 1) s) (if bad.isEmpty then 1 else 2)

/-! ### A pavilion that comes back (R227, R443-R445) -/

/-- RELOCK (R443-R445): the PLL is locked to its new source, the depth is updated, the live links are held off to be
aligned. A pavilion that was dark takes its tables and applied values first. -/
def execRelock (pav : Nat) (s : State) : Res :=
  onPav pav s fun s =>
    let v := s.pav pav
    match v.newSource with
    | none => s
    | some side =>
      let depth := if pav < 18 then 1 else match pavBeyond pav side with
        | some q => (s.pav q).getF Reg.PV_CLK_STATUS_DEPTH + 1
        | none => 1
      let s := if v.dark then s.refreshPav pav else s
      let s := s.updPav pav fun v =>
        let v := ((v.setF Reg.PV_CLK_STATUS_SOURCE side).setF Reg.PV_CLK_STATUS_DEPTH depth).setF Reg.PV_CLK_STATUS_HOLDOVER 0
        { (v.setF Reg.PV_CLK_STATUS_LOCKED 1).incF Reg.PV_CLK_CNT_SWITCH 1 with newSource := none, dark := false }
      let s := if v.dark then s.giveTables pav else s
      (s.holdLinks pav).reportAt 0x40 2 pav v.owner

end Sys2Proof.Machine
end

