-- ==== Sys2Proof/Machine/Cube.lean ====
section
/-! DEFINITION. The cube's commands (02_cube.md). -/

namespace Sys2Proof.Machine

/-- The descriptor at the head of the cube queue, when the cubes are idle and it has entered (R45). -/
def Core.cubeHead (k : Core) : Option QSlot :=
  match k.cubeRun, k.cubeQ with
  | none, q :: _ => if q.entered then some q else none
  | _, _ => none

/-- A rejected descriptor: DESC_ERR, and where it was clear the OP and the cause (R46). -/
def Core.cubeReject (q : QSlot) (op cause : Nat) (k : Core) : Core :=
  let k := if k.getF Reg.KP_CUBE_STATUS_DESCERR = 1 then k
    else (k.setF Reg.KP_CUBE_STATUS_ERROP op).setF Reg.KP_CUBE_STATUS_ERRCAUSE cause
  { k.setF Reg.KP_CUBE_STATUS_DESCERR 1 with cubeQ := k.cubeQ.drop 1, cubeRun := some { slot := q, rejected := true, isZero := false } }

/-- A tile read with an error: 256 + t for a single-bit error in tile t, corrected and counted; t for a double-bit error:
the tile is poisoned, the error reported, the step tainted (R35). The bits of the elements are left as they were: the manual does
not say which ones a double-bit error changes (log entry 13). -/
def State.accUpset (s : State) (c u op : Nat) : State :=
  let t := u % 256
  if 256 ≤ u then s.updCore c fun k => { k with accCe := k.accCe + 1 }
  else if (s.core c).accPoison.contains t then s
  else (s.updCore c (Core.poisonTile t true)).coreUeMark c op

/-- MMA (R43-R46): the head descriptor is checked; an accepted one runs its groups once the chain reads issued before it
are done (R34). `upsets` are the accumulator tiles (cube x 64 + tile) whose read meets a double-bit error, or, 256 higher, a
single-bit one: with ACC clear the tiles are read from the second visit on, after the first has overwritten them (R44). -/
def execMma (core : Nat) (upsets : List Nat) (s : State) : Res :=
  onCore core s fun s =>
    let k := s.core core
    match k.cubeHead with
    | none => s
    | some q =>
      let d := decodeCube q.words
      if !s.computeOn core || d.op = 2 then s
      else match d.reject k.accInt with
      | some cause => s.updCore core (Core.cubeReject q d.op cause)
      | none =>
        if !k.chainsClear q.seq d.tiles then s
        else
          let met := if d.acc || 1 < d.ks then upsets.filter fun u => d.tiles.contains (u % 256) else []
          let s := if d.acc then met.foldl (fun s u => s.accUpset core u 0x2001) s else s
          let s := if k.spadUe.isEmpty && k.spadCe.isEmpty then s
            else (mmaReads d).foldl (fun s r => s.spadTouch core r.1 r.2 0x2001) s
          let s := s.updCore core fun k =>
            { runMma d k with cubeQ := k.cubeQ.drop 1, cubeRun := some { slot := q, rejected := false, isZero := false } }
          if d.acc then s else met.foldl (fun s u => s.accUpset core u 0x2001) s

/-- The running descriptor completes: its flag is set where FLAGEN asks (R46, R49). -/
def Core.cubeDone (r : CubeRun) (k : Core) : Core :=
  let d := decodeCube r.slot.words
  let k := { k with cubeRun := none }
  if d.flagen then k.setFlag d.flag else k

def execMmaComplete (core : Nat) (s : State) : Res :=
  onCore core s fun s =>
    match (s.core core).cubeRun with
    | some r => if r.rejected || r.isZero then s else s.updCore core (Core.cubeDone r)
    | none => s

/-- ZERO (R43, R46): tiles become FP32 +0.0, their poison cleared (R35). -/
def zeroTile (t : Nat) (k : Core) : Core :=
  { (k.tagTile t false).poisonTile t false with acc := Fm.clearRange (accKey t 0) 64 k.acc }

def execZero (core : Nat) (s : State) : Res :=
  onCore core s fun s =>
    let k := s.core core
    match k.cubeHead with
    | none => s
    | some q =>
      let d := decodeCube q.words
      if !s.computeOn core || d.op ≠ 2 then s
      else match d.reject k.accInt with
      | some cause => s.updCore core (Core.cubeReject q d.op cause)
      | none =>
        if !k.chainsClear q.seq d.tiles then s
        else s.updCore core fun k =>
          { d.tiles.foldl (fun k t => zeroTile t k) k with
            cubeQ := k.cubeQ.drop 1, cubeRun := some { slot := q, rejected := false, isZero := true } }

def execZeroComplete (core : Nat) (s : State) : Res :=
  onCore core s fun s =>
    match (s.core core).cubeRun with
    | some r => if r.isZero then s.updCore core (Core.cubeDone r) else s
    | none => s

def execCubeRejectComplete (core : Nat) (s : State) : Res :=
  onCore core s fun s =>
    match (s.core core).cubeRun with
    | some r => if r.rejected then s.updCore core (Core.cubeDone r) else s
    | none => s

end Sys2Proof.Machine
end

