-- ==== Sys2Proof/Machine/Chain.lean ====
section
/-! DEFINITION. The chain unit's commands (03_chain_unit.md). -/

namespace Sys2Proof.Machine

/-- A chain that names a tally as a source, or has WAITPREV, starts after the previous chain completes (R82). -/
def ChainDesc.waits (d : ChainDesc) : Bool :=
  d.hdr.waitprev || d.stages.any fun t => t.sources.any fun s => 0x10 ≤ s && s < 0x18

/-- The head of the chain queue, checked and accepted, when no chain reads its sources (R82-R84, R106). -/
def Core.chainHead (k : Core) : Option QSlot :=
  match k.chainBad, k.chainRun, k.chainQ with
  | some false, none, q :: _ => if k.chainTail.isEmpty || !(decodeChain q.words).waits then some q else none
  | _, _, _ => none

/-- An ENV stage at its chain's start: OPEN clears the slot under the stage's ID; either way the chain contributes
(R77, R79). -/
def openEnv (m : FMap EnvSlot) (t : StageWord) : FMap EnvSlot :=
  if t.opc ≠ 0x2F then m
  else
    let e : EnvSlot := if t.opens then { isOpen := true, envid := t.envId } else Fm.get {} t.envSlot m
    Fm.set {} t.envSlot { e with chains := sat32 (e.chains + 1) } m

/-- An accepted chain takes its first source read: it leaves the queue, its tallies are taken as they stand (R72). -/
def Core.chainTake (q : QSlot) (d : ChainDesc) (k : Core) : Core :=
  Core.chainJudge { k with chainQ := k.chainQ.drop 1, chainBad := none, env := d.stages.foldl openEnv k.env,
                           chainRun := some { slot := q, tallies := k.tally } }

/-- CHAIN_START (R82-R84): the chain at the head, accepted when it came there, makes its first source read and leaves the queue;
the next one reaches the head and is checked. -/
def execChainStart (core : Nat) (s : State) : Res :=
  onCore core s fun s =>
    if !s.computeOn core then s else
    match (s.core core).chainHead with
    | none => s
    | some q =>
      s.updCore core (Core.chainTake q (decodeChain q.words))

def Core.chainFlag (q : QSlot) (k : Core) : Core :=
  let h := decodeHdr (wordAt q.words 0)
  if h.flagen then k.setFlag h.flag else k

/-- CHAIN_REJECT_COMPLETE (R83): the rejected chain leaves the queue and its flag is set. -/
def execChainRejectComplete (core : Nat) (s : State) : Res :=
  onCore core s fun s =>
    match (s.core core).chainBad, (s.core core).chainQ with
    | some true, q :: qs => s.updCore core fun k => (Core.chainFlag q { k with chainQ := qs, chainBad := none }).chainJudge
    | _, _ => s

/-! ### A beat -/

/-- The tile an accumulator stream reads on a beat, as cube x 64 + tile (R63). -/
def Stream.tile (t : Stream) (b : Nat) : Nat := t.cube * 64 + (t.tbase + b * t.tstep) % 64

/-- Tiles, and scratchpad bytes, that beat `b` reads. -/
def ChainDesc.beatTiles (d : ChainDesc) (b : Nat) : List Nat :=
  ([d.in0, d.in1].filter fun t => t.kind = 1).map fun t => t.tile b

def Stream.addr (t : Stream) (b : Nat) : Nat := t.base + 8 * b * t.stride

def ChainDesc.beatReads (d : ChainDesc) (b : Nat) : List (Nat × Nat) :=
  ([d.in0, d.in1].filter fun t => t.kind = 2).map fun t => (t.addr b, d.hdr.beatBytes t.fmt)

/-- The lanes an input stream delivers on a beat (R60, R63, R154). -/
def Core.inputLanes (k : Core) (d : ChainDesc) (t : Stream) (b : Nat) : Lanes :=
  if t.kind = 1 then (List.range 64).map fun e => (k.accElem (t.tile b) e).toNat
  else if t.kind = 2 then unpackBeat d.hdr t (k.spadRead (t.addr b) (d.hdr.beatBytes t.fmt))
  else []

/-- Tallies and slots a chain uses: read as sources, combined across beats, contributed to. -/
def ChainDesc.usesTally (d : ChainDesc) (t : Nat) : Bool :=
  d.stages.any fun u => (opReduces u.opc && u.across && u.tally = t) || u.sources.any fun s => s = 0x10 + t
def ChainDesc.usesSlot (d : ChainDesc) (e : Nat) : Bool := d.stages.any fun u => u.opc = 0x2F && u.envSlot = e

/-- A double-bit error that a beat meets in a tally or an envelope slot (R87). The manual does not say when a poisoned tally is
clean again: the model clears its mark at core reset only (log entry 77). -/
def State.tallyUpset (s : State) (c t : Nat) : State :=
  if (s.core c).tallyPoison.contains t then s
  else (s.updCore c fun k => { k with tallyPoison := sins t k.tallyPoison }).coreUeMark c 0x3000

def State.slotUpset (s : State) (c e : Nat) : State :=
  if (Fm.get {} e (s.core c).env).poisoned then s
  else (s.updCore c fun k => { k with env := Fm.upd {} e (fun v => { v with poisoned := true }) k.env }).coreUeMark c 0x302F

/-- A single-bit error in a tally or slot: corrected and counted (R87). -/
def State.tallyCorrected (s : State) (c : Nat) : State := s.updCore c fun k => { k with tallyCe := k.tallyCe + 1 }

/-- The errors a beat meets: double-bit in tiles 0-127, tallies 128-135, slots 136-139; 256 higher the single-bit ones. -/
def State.beatUpset (d : ChainDesc) (b c : Nat) (s : State) (u : Nat) : State :=
  if u % 256 < 128 then (if (d.beatTiles b).contains (u % 256) then s.accUpset c u 0x3000 else s)
  else if 256 ≤ u then
    (if (u < 392 && d.usesTally (u - 384)) || (392 ≤ u && u < 396 && d.usesSlot (u - 392)) then s.tallyCorrected c else s)
  else if u < 136 then (if d.usesTally (u - 128) then s.tallyUpset c (u - 128) else s)
  else if u < 140 then (if d.usesSlot (u - 136) then s.slotUpset c (u - 136) else s)
  else s

/-- Evaluate beats `b0` on: stages in order, then the sinks' writes, which land before the next beats read (R82 orders neither: log
entry 77). `draws` are the generator's seed and count at each beat (R74). -/
def Core.evalBeats (d : ChainDesc) (r : ChainRun) (b0 : Nat) (ins : List (Lanes × Lanes)) (draws : List (Word × Word)) (k : Core) : Core :=
  let h := d.hdr
  let n := ins.length
  let x : ChainCtx :=
    { h := h, scal := r.slot.scal, snap := r.tallies, draws := draws }
  let (outs, scs, e) := runStages x b0 ins d.stages [] [] { tally := k.tally, env := k.env, flags := 0 }
  let ws := sinkWrites d false d.out0 b0 n outs scs ++ sinkWrites d true d.out1 b0 n outs scs
  let k := { k with tally := e.tally, env := e.env }
  let k := if e.flags = 0 then k
    else { k with regs := setReg .kp 0x48 (getReg .kp 0x48 k.regs ||| BitVec.ofNat 64 e.flags) k.regs }
  ws.foldl (fun k w => k.spadWrite w.1 w.2) k

/-- After the last beat: the records of the slots its ENV stages close, and the slots freed; a poisoned slot emits none
(R77, R79, R87). -/
def closeEnv (lm : Bool) (a : FMap EnvSlot × List (List Word)) (t : StageWord) : FMap EnvSlot × List (List Word) :=
  if t.opc ≠ 0x2F || !t.closes then a
  else
    let e := Fm.get {} t.envSlot a.1
    (Fm.set {} t.envSlot {} a.1, if e.poisoned then a.2 else a.2 ++ [e.record t.envSlot lm])

/-- One beat taken: its lanes read, the draws of its lanes, the beats whose blocks are whole evaluated (R74, R75, R85). -/
def Core.chainBeat (d : ChainDesc) (r : ChainRun) (k : Core) : Core :=
  let b := r.beat
  let ins := r.held ++ [(k.inputLanes d d.in0 b, k.inputLanes d d.in1 b)]
  let draws := r.draws ++ [(getReg .kp Reg.KP_CHAIN_SEED_SEED.off k.regs, k.draws)]
  let k := { k with draws := k.draws + BitVec.ofNat 64 d.hdr.lanes }
  let full := ins.length = d.spanBeats
  let k := if full then k.evalBeats d r (b + 1 - ins.length) ins draws else k
  let r := { r with beat := b + 1, held := if full then [] else ins, draws := if full then [] else draws }
  if b + 1 < d.hdr.beats then { k with chainRun := some r }
  else
    let (env, recs) := d.stages.foldl (closeEnv d.hdr.lm) (k.env, [])
    { k with env := env, chainRun := none, chainTail := k.chainTail ++ [{ r with records := recs }] }

/-- The records a chain is to emit at its last beat find room (R544). -/
def Core.outboxRoom (k : Core) (d : ChainDesc) (b : Nat) : Bool :=
  b + 1 < d.hdr.beats ||
    k.outbox.length + (k.chainTail.foldl (fun n r => n + r.records.length) 0) +
      (d.stages.filter fun t => t.opc = 0x2F && t.closes).length ≤ 16

/-- CHAIN_BEAT (R85): a beat waits for the tiles it reads (R34), and the last for room in the outbox (R544). -/
def execChainBeat (core : Nat) (upsets : List Nat) (s : State) : Res :=
  onCore core s fun s =>
    let k := s.core core
    match k.chainRun with
    | none => s
    | some r =>
      let d := decodeChain r.slot.words
      let b := r.beat
      if !s.computeOn core || !k.cubesClear r.slot.seq (d.beatTiles b) || !k.outboxRoom d b then s
      else
        let s := upsets.foldl (State.beatUpset d b core) s
        let s := (d.beatReads b).foldl (fun s x => s.spadTouch core x.1 x.2 0x3000) s
        s.updCore core (Core.chainBeat d r)

/-- The soonest that finished chains complete, counted from the last source read of the first of them: a chain's reads begin one
beat interval after the last of the chain before, and it completes its depth after its own last (R82, R84). -/
def completionTimes : Nat → List ChainRun → List Nat
  | _, [] => []
  | last, r :: rs =>
    let d := decodeChain r.slot.words
    (last + d.depth) :: completionTimes (last + d.interval + (match rs with
      | [] => 0
      | q :: _ => let e := decodeChain q.slot.words; (e.hdr.beats - 1) * e.interval)) rs

/-- Chain `n` of those whose beats are done may complete next: the oldest, or one that is shallower than each before it by more than
it began later (R84). -/
def Core.mayComplete (k : Core) (n : Nat) : Bool :=
  let ts := completionTimes 0 k.chainTail
  n = 0 || (ts.take n).all fun t => ts.getD n 0 < t

/-- CHAIN_COMPLETE (R79, R84): a finished chain emits its records with the sundial and sets its flag. `which` counts from the
oldest. -/
def execChainComplete (core which : Nat) (s : State) : Res :=
  onCore core s fun s =>
    match (s.core core).chainTail[which]? with
    | none => s
    | some r =>
      if !(s.core core).mayComplete which then s
      else
        let t := BitVec.ofNat 64 (s.sundialOf (pavOf core))
        s.updCore core fun k =>
          Core.chainFlag r.slot { k with chainTail := k.chainTail.eraseIdx which, outbox := k.outbox ++ r.records.map fun w => w.take 7 ++ [t] }

end Sys2Proof.Machine
end

