-- ==== Sys2Proof/Machine/Discipline.lean ====
section
/-! DEFINITION. The commands that discipline the sundial to outside time (R361, R362, R453-R456). -/

namespace Sys2Proof.Machine

/-- SD_EPOCH in ns. -/
def State.epoch (s : State) : Int := (getReg .sd Reg.SD_EPOCH_EPOCH.off s.sd).toInt
def State.setEpoch (s : State) (e : Int) : State := { s with sd := setReg .sd Reg.SD_EPOCH_EPOCH.off (BitVec.ofInt 64 e) s.sd }

/-- Outside time of a stamp, in 1/16 ns: a sixteenth of a tick is ten of them. -/
def State.outside (s : State) (stamp : Int) : Int := stamp * 10 + s.epoch * 16

def State.trim (s : State) : Int := (BitVec.ofNat 32 (getF Reg.SD_TIME_TRIM s.sd)).toInt
def State.setTrim (s : State) (t : Int) : State := s.setSd Reg.SD_TIME_TRIM (BitVec.ofInt 32 t).toNat

/-- A value held in 32 bits, saturating. -/
def offset32 (x : Int) : Nat := (BitVec.ofInt 32 (max (-2147483648) (min 2147483647 x))).toNat

/-- The servo moves the trim against an offset. Its gains are not given: the step is a free value up to 1 ppm for each second
since the last offset (log entry 7). -/
def State.servo (s : State) (offset : Int) : State :=
  let most := 1000 * (s.now - s.disc.lastSync) / ticksPerSec
  let (w, s) := s.draw
  let step : Int := w.toNat % (most + 1)
  let t := if offset < 0 then s.trim + step else if 0 < offset then s.trim - step else s.trim
  s.setTrim (max (-100000) (min 100000 t))

/-- An offset of the source in use, 1/16 ns: beyond 1 ms SD_EPOCH is rewritten, else the servo acts; 16 in a row within
100 ns lock (R454). The discipline leaves holdover (R456). -/
def State.takeOffset (s : State) (offset : Int) : State :=
  let s := (s.setSd Reg.SD_OFFSET_OFFSET (offset32 offset)).setSd Reg.SD_TIME_HOLDOVER 0
  let s := if 16000000 < offset.natAbs then (s.setEpoch (s.epoch - offset / 16)).setSd Reg.SD_TIME_STEPPED 1 else s.servo offset
  let n := if offset.natAbs ≤ 1600 then s.disc.inRange + 1 else 0
  let s := if 16 ≤ n then s.setSd Reg.SD_TIME_LOCKED 1 else s
  { s with disc := { s.disc with inRange := min n 16, lastSync := s.now } }

/-- A PTP message on the port that PTP runs on, in the configured domain (R362). -/
def onPtp (h : Heard) (udp domain : Nat) (s : State) (f : State → State) : Res :=
  onHeard h (some udp) s fun s =>
    if getF Reg.SD_TIME_SOURCE s.sd = h.path.port + 1 && s.cfgNat cfgPtpDomain = domain then f s else s

/-- A port's fixed transmit and receive delays in sixteenths of a tick, 625 ps each (R361, R528). -/
def State.txDelay (s : State) (port : Nat) : Int := (bitsOf (s.cfg (cfgHost port 8)) 0 16 / 625 : Nat)
def State.rxDelay (s : State) (port : Nat) : Int := (bitsOf (s.cfg (cfgHost port 8)) 16 16 / 625 : Nat)

/-- The clock the sundial follows: its identity ends its data set. -/
def State.follows (s : State) (source : Nat) : Bool := s.disc.master.any fun m => m.getLast? = some source

/-- SYNC: of the master followed, an offset against its time. -/
def execSync (h : Heard) (domain source : Nat) (masterTime arrival : Int) (s : State) : Res :=
  onPtp h 319 domain s fun s =>
    if !s.follows source then s
    else
      let at_ := arrival - s.rxDelay h.path.port
      let s := { s with disc := { s.disc with t1 := masterTime, t2 := at_, syncPath := h.path } }
      s.takeOffset (s.outside at_ - masterTime - s.disc.pathDelay)

/-- Data sets in the order of the best master clock algorithm: the smaller is the better. -/
def better : List Nat → List Nat → Bool
  | a :: as, b :: bs => if a < b then true else if b < a then false else better as bs
  | _, _ => false

/-- ANNOUNCE: a data set of priority, class, accuracy, variance, second priority and identity. -/
def execAnnounce (h : Heard) (domain : Nat) (dataset : List Nat) (s : State) : Res :=
  onPtp h 320 domain s fun s =>
    let take := match s.disc.master with
      | none => true
      | some m => m.getLast? = dataset.getLast? || better dataset m
    if take then { s with disc := { s.disc with master := some dataset } } else s

/-- DELAY_RESP of the master: the path delay, and the interval of Delay_Req, never under 1/16 s. -/
def execDelayResp (h : Heard) (domain source : Nat) (recvTime logInterval : Int) (s : State) : Res :=
  onPtp h 320 domain s fun s =>
    match s.disc.delaySent, s.follows source with
    | none, _ | _, false => s
    | some t3, true =>
      let d := ((s.outside s.disc.t2 - s.disc.t1) + (recvTime - s.outside t3)) / 2
      let iv := if logInterval < 0 then ticksPerSec / 2 ^ logInterval.natAbs else ticksPerSec * 2 ^ logInterval.natAbs
      { s with disc := { s.disc with pathDelay := d, delaySent := none, delayInterval := max (ticksPerSec / 16) iv } }

/-- DELAY_REQ: at the master's interval, to where its last Sync came from (R356), at the priority of Iturn frames (R357, R358). -/
def execDelayReq (port : Nat) (departure : Int) (s : State) : Res :=
  onUnit (decide (port < 2)) s fun s =>
    if !s.windowOpen || getF Reg.SD_TIME_SOURCE s.sd ≠ port + 1 || s.disc.master.isNone ||
       s.now < s.disc.delayAt + s.disc.delayInterval || s.iturnPaused port then s
    else { (s.answer s.disc.syncPath 4) with disc := { s.disc with delaySent := some (departure + s.txDelay port), delayAt := s.now } }

/-- Sixteenths of a ns to the nearest whole second, within half a second. -/
def toSecond (t : Int) : Int :=
  let sec : Int := 16000000000
  let r := t % sec
  if r ≤ sec / 2 then r else r - sec

/-- SYNC_IN_EDGE (R453, R455). -/
def execSyncInEdge (stamp : Int) (s : State) : Res :=
  if getF Reg.SD_TIME_SOURCE s.sd ≠ 3 || s.power.stopped then .next s
  else if s.disc.lastEdge.any fun e => stamp - e < 800000000 then
    .next (((s.setSd Reg.SD_TIME_SYNCFAULT 1).incSd Reg.SD_CNT_SYNCREJECT 1).reportAt 0x40 0 0 none)
  else
    let off := toSecond (s.outside stamp)
    let first := s.disc.firstEdge
    let s := { s with disc := { s.disc with lastEdge := some stamp, firstEdge := false } }
    if first then
      let s := (s.setEpoch (s.epoch - off / 16)).setSd Reg.SD_TIME_HOLDOVER 0
      .next { s with disc := { s.disc with lastSync := s.now } }
    else .next (s.takeOffset off)

/-- DISCIPLINE_HOLDOVER (R456): 16 s without a Sync, 3 s without an edge. -/
def execDisciplineHoldover (s : State) : Res :=
  let src := getF Reg.SD_TIME_SOURCE s.sd
  let limit := if src = 3 then 3 * ticksPerSec else 16 * ticksPerSec
  if src = 0 || getF Reg.SD_TIME_HOLDOVER s.sd = 1 || s.now < s.disc.lastSync + limit then .next s
  else .next s.disciplineHold

end Sys2Proof.Machine
end

