-- ==== Sys2Proof/Machine/Faults.lean ====
section
/-! DEFINITION. Wardens and patrols (16_faults.md, R540-R547, R555-R563): the judgement of envelope records, patrol segments
and what they find, marks, probations, deadlines. -/

namespace Sys2Proof.Machine

/-! ### Wardens (R540-R546) -/

/-- A record's fields (R79). -/
def recWord (r : List Word) (i : Nat) : Word := wordAt r i

/-- A quotient by a count, rounded to nearest in FP64 (R542). -/
def divCount (v : FV) (n : Nat) : FV :=
  match v with
  | .fin neg m e =>
    let q := m * 2 ^ 200 / n
    fp64.decode (fp64.encode (.fin neg (2 * q + (if q * n = m * 2 ^ 200 then 0 else 1)) (e - 201))).1
  | v => v

def r64 (v : FV) : FV := fp64.decode (fp64.encode v).1

/-- Inside two bounds; a NaN is inside none. -/
def within (lo hi v : FV) : Bool := !v.isNan && !v.lt lo && !hi.lt v

/-- A check of a record against its envelope (R542). -/
def checkFails (e : Envelope) (r : List Word) (k : Nat) : Bool :=
  let f (i lo : Nat) : Nat := bitsOf (recWord r i) lo 32
  let b (x : W32) : FV := fp32.decode x.toNat
  let count := (recWord r 1).toNat
  let nans := f 2 0
  let infs := f 2 32
  let n := count - nans - infs
  match k with
  | 0 => count ≠ e.count.toNat
  | 1 => 0 < nans
  | 2 => 0 < infs
  | 3 => (fp32.decode (f 4 0)).lt (b e.lo) || (b e.hi).lt (fp32.decode (f 4 32))
  | 4 => (b e.maxabs).lt (fp32.decode (f 3 32))
  | 5 => n = 0 || !within (b e.meanLo) (b e.meanHi) (divCount (fp64.decode (recWord r 5).toNat) n)
  | 6 => n = 0 || !within (b e.rmsLo) (b e.rmsHi) (r64 (divCount (fp64.decode (recWord r 6).toNat) n).sqrt)
  | _ => (r64 (FV.mul (b e.zeroMax) (r64 (.fin false count 0))).1).lt (.fin false (f 3 0) 0)

/-- The cause of a failing record (R543): 0 for one that passes. -/
def judge (table : List Envelope) (r : List Word) : Nat :=
  match table.find? fun e => e.envid = bitsOf (recWord r 0) 0 16 with
  | none => 9
  | some e => (((List.range 8).find? fun k => e.checks.testBit k && checkFails e r k).map fun k => k + 1).getD 0

/-- A failing record (R545): a taint of the step it belongs to, a mark on the core, an incident. -/
def State.wardenFail (s : State) (g c cause : Nat) (next : Bool) (r : List Word) : State :=
  let s := (s.incWd Reg.WD_CNT_WFAIL 1).updPav (pavOf c) fun v =>
    (v.incF Reg.WD_PAV_CNT_FAILED 1).incF Reg.WD_PAV_CNT_UNKNOWN (if cause = 9 then 1 else 0)
  let s := s.report { kind := 0x01, unit := 1, unitId := c, garden := g, flags := 1, detailType := 1,
                      detail := wordsBytes r ++ leBytes 8 cause }
  let s := s.updGarden g fun d => { d with fails := { d.fails with sites := d.fails.sites ++ [c] } }
  let s := s.markSite c
  if next then s.updGarden g fun d => if d.nextTaint = 0 then { d with nextTaint := 1 } else d else s.taint g 1

/-- The outbox a warden takes from next: the first that holds a record, in rotating order after the last served (R540). -/
def State.wardenNext (s : State) (p : Nat) : Option Nat :=
  let last := (s.pav p).warden
  ((List.range 64).map fun i => coreAt p ((last + i) % 64)).find? fun c => !(s.core c).outbox.isEmpty

/-- WARDEN_JUDGE: the oldest record of the outbox whose turn it is; after the seal mark it belongs to the next step (R546). -/
def execWardenJudge (pav core : Nat) (s : State) : Res :=
  onUnit (decide (pav < Config.pavilions) && decide (core < Config.coreSites) && decide (pavOf core = pav)) s fun s =>
    match (s.core core).outbox with
    | [] => s
    | r :: rest =>
      if s.wardenNext pav ≠ some core then s else
      let s := s.updCore core fun k => { k with outbox := rest }
      let v := s.pav pav
      let before := Fm.get 0 (coreIdx core) v.beforeMark
      let next := v.sealMark && before = 0
      let s := s.updPav pav fun v =>
        { v.incF Reg.WD_PAV_CNT_JUDGED 1 with warden := coreIdx core + 1, beforeMark := Fm.set 0 (coreIdx core) (before - 1) v.beforeMark }
      match v.owner with
      | none => s
      | some g =>
        let cause := judge v.envelopes r
        if cause = 0 then s else s.wardenFail g core cause next r

/-! ### Patrol segments (R555-R560) -/

/-- An idle window of a mapped core (R556): a wait of a kind named there, its queues empty and its units idle. -/
def Core.idleWindow (k : Core) : Bool :=
  (match k.wait.kind with
   | .flag _ _ | .word _ _ _ _ | .sundial _ | .bell _ | .grant _ => true
   | _ => false) &&
  k.cubeQ.isEmpty && k.chainQ.isEmpty && k.portQ.isEmpty && k.cubeRun.isNone && k.chainRun.isNone && k.chainTail.isEmpty &&
  k.portRun.isEmpty

/-- A site is eligible for a segment, given the compute cycles its keeper has waited (R556). -/
def State.patrolEligible (s : State) (c waited : Nat) : Bool :=
  s.siteRuns c &&
  match s.mappedAt c with
  | none => true
  | some (g, _) =>
    let st := s.gState g
    st ≠ gRecovering && (st ≠ gRunning || ((s.core c).idleWindow && 20000 ≤ waited))

/-- The segment a site runs next: segment 0 of a targeted patrol, else the lowest not yet passed. -/
def Site.nextSegment (x : Site) : Nat := if x.targeted then 0 else x.segs.length

/-- No other site of the pavilion goes before this one (R558, R563): sites with a targeted patrol do, then those whose last completed patrol
is older. The others' waits are taken to be long enough (log entry 85). -/
def State.patrolFirst (s : State) (c : Nat) : Bool :=
  let x := s.site c
  let before (y : Site) : Bool := if x.targeted then false else y.targeted || y.lastDone < x.lastDone
  (coresOf (pavOf c)).all fun o => !(before (s.site o) && s.patrolEligible o 20000)

/-- PATROL_SEGMENT (R555, R558, R563): one segment at a time in a pavilion; the keeper of a site at work has waited `waited` cycles. -/
def execPatrolSegment (core segment waited : Nat) (s : State) : Res :=
  onCore core s fun s =>
    let p := pavOf core
    let x := s.site core
    if (s.pav p).segRun.isSome || !s.patrolEligible core waited || !s.patrolFirst core || segment ≠ x.nextSegment || 33 ≤ segment then s
    else
      let s := s.updSite core fun x =>
        { x with segAt := s.now, began := if segment = 0 && !x.targeted then s.now else x.began }
      s.updPav p fun v => { v with segRun := some (core, segment) }

/-- What was queued for a core while it was tested is applied (R557): a bell's release has reached it then. -/
def State.applyQueued (s : State) (p : Nat) : State :=
  let come := (s.pav p).queued
  let s := { s with bellRel := s.bellRel.filter fun r => !come.contains (r.2, 64 + r.1 % 16) }
  let s := (s.pav p).queued.foldl (fun s e => s.updCore e.1 (if 64 ≤ e.2 then Core.release (e.2 - 64) else Core.setFlag e.2)) s
  s.updPav p fun v => { v with segRun := none, queued := [] }

/-- A patrol is complete (R558). -/
def State.patrolDone (s : State) (c : Nat) : State :=
  let s := s.updSite c fun x =>
    { x with segs := [], lastDone := s.now, doneBegan := some x.began, forced := none }
  (s.updPav (pavOf c) fun v => v.setF (Reg.WD_CORE_DONE (coreIdx c)) s.round).vouch

/-- A segment passes: after a targeted patrol a probation begins (R563). -/
def State.segmentPass (s : State) (c seg : Nat) : State :=
  let x := s.site c
  let s := if x.targeted && seg = 0 then
      s.updSite c fun x => { x with targeted := false, probation := some (s.now + s.cfgNat cfgPatrolMin * ticksPerMin) }
    else s
  if x.segAt < x.restart || seg ≠ x.segs.length then s
  else
    let s := s.updSite c fun x => { x with segs := x.segs ++ [seg], began := if seg = 0 then x.segAt else x.began }
    if seg = 32 then s.patrolDone c else s

/-- Segment 0 fails (R560, R575, R576): the site is suspect; unvouched images of its sites can no longer be vouched; a garden
with an armed plan, of which it has held a core since the capture of the newest vouched image, is restored. -/
def State.segmentFail (s : State) (c seg test : Nat) : State :=
  let s := (s.incWd Reg.WD_CNT_PFAIL 1).report
    { kind := 0x02, unit := 1, unitId := c, garden := (s.ownerOf c).getD 0xFF, op := 0x7000 + seg, detailType := 5,
      detail := leBytes 8 (seg + test % 256 * 2 ^ 8), action := 2 }
  let s := (s.resetIdle c).suspectEvent c
  let s := s.updSite c fun x => { x with segs := [] }
  let newest (g : Nat) : Option Checkpoint := (s.imagesOf g).foldl (fun (b : Option Checkpoint) k =>
    if s.vouched k && b.all fun x => x.id < k.id then some k else b) none
  let hit := (List.range 4).filter fun g => s.armed g && (newest g).any fun k => k.held.contains c
  let s := s.updIce fun h =>
    { h with checkpoints := h.checkpoints.map fun k => if k.held.contains c ∧ !k.vouched then { k with unvouchable := true } else k }
  hit.foldl (fun s g => (s.taint g 4).wantRecovery g 7 1) s

/-- PATROL_SEGMENT_END (R560): the state is restored; the finding is acted on. -/
def execPatrolSegmentEnd (core : Nat) (finding : Finding) (s : State) : Res :=
  onCore core s fun s =>
    match (s.pav (pavOf core)).segRun with
    | none => s
    | some (c, seg) =>
      if c ≠ core then s
      else
        let s := s.applyQueued (pavOf core)
        match finding with
        | .pass => s.segmentPass core seg
        | .line bank line => s.repairLine core (bank % 32 * 6144 + line % 6144)
        | .lane _ _ => s.climbTo core 3
        | .failed test => s.segmentFail core seg test

/-- A packet for a core stands at its router's local output. -/
def State.packetWaits (s : State) (c : Nat) : Bool :=
  (s.pav (pavOf c)).fq.any fun e => (List.range 40).any fun i => e.1 = fqKey c (i / 8) (i / 2 % 4) (i % 2 = 1) &&
    match e.2 with
    | f :: _ => (s.bound c e.1 f).any fun b => b.1 = 4
    | [] => false

/-- An event for the core of a segment: a packet at its local port, a release queued, the count a WAITT awaits (R557). -/
def State.segmentEvent (s : State) (c : Nat) : Bool :=
  s.packetWaits c || !(s.pav (pavOf c)).queued.isEmpty ||
  match (s.core c).wait.kind with
  | .sundial _ => s.waitHolds c
  | _ => false

/-- PATROL_ABANDON (R557): on an event for the core, whose wait goes on. -/
def execPatrolAbandon (core : Nat) (s : State) : Res :=
  onCore core s fun s => if (s.pav (pavOf core)).testing core && s.segmentEvent core then s.applyQueued (pavOf core) else s

/-! ### Marks, probations, deadlines (R559, R561, R563) -/

/-- PROBATION_END: the rung stands and the marks are cleared. -/
def execProbationEnd (core : Nat) (s : State) : Res :=
  onCore core s fun s =>
    match (s.site core).probation with
    | none => s
    | some t => if s.now < t || (s.site core).event then s
      else s.updSite core fun x => { x with probation := none, suspect := false, marks := [] }

/-- MARK_EXPIRE. -/
def execMarkExpire (core : Nat) (s : State) : Res :=
  onCore core s fun s => s.updSite core fun x =>
    { x with marks := x.marks.filter fun m => s.now < m + s.cfgNat cfgPatrolMin * ticksPerMin }

/-- PATROL_DEADLINE: relief is forced at the garden's next answered seal. -/
def execPatrolDeadline (core : Nat) (s : State) : Res :=
  onCore core s fun s =>
    if s.overdue core && (s.site core).forced.isNone then s.updSite core fun x => { x with forced := some s.now } else s

/-- FORCED_RELIEF_TIMEOUT: 1 min without a seal. -/
def execForcedReliefTimeout (core : Nat) (s : State) : Res :=
  onCore core s fun s =>
    match (s.site core).forced with
    | none => s
    | some t => if s.now < t + ticksPerMin then s else s.forceRelief core 4

end Sys2Proof.Machine
end

