-- ==== Sys2Proof/Machine/Porter.lean ====
section
/-! DEFINITION. The porter's commands (04_keeper.md, R109-R115). -/

namespace Sys2Proof.Machine

def execCopy (core : Nat) (s : State) : Res :=
  portStart 1 (fun i d r s =>
    let (s, ok) := copyRows core d d.rows 0 s
    if ok then s.updCore core (Core.setRun i { r with finished := true }) else s.failRun core i r 6) core s

/-- The causes a PUT is checked for before it sends a byte, the lowest first (R115). -/
def putCause (size : Nat) (d : PortDesc) (v : Slot) : Option Nat :=
  if v.state ≠ 2 then some 1
  else if v.wlen * 256 < d.dstAt (d.rows - 1) + d.len then some 2
  else if size ≤ d.target then some 3
  else if d.target ≠ v.dest then some 8
  else none

def execPut (core : Nat) (s : State) : Res :=
  portStart 2 (fun i d r s =>
    let v := (s.core core).slot d.grant
    match putCause (s.gardenSize (s.ownerOf core)) d v with
    | some x => s.failRun core i r x
    | none => s.pumpRun core i { r with grant := v }) core s

def execGet (core : Nat) (s : State) : Res :=
  portStart 3 (fun i d r s =>
    if s.gardenSize (s.ownerOf core) ≤ d.target then s.failRun core i r 3 else s.pumpRun core i r) core s

def execLoad (core : Nat) (s : State) : Res := portStart 4 (fun i _ r s => s.pumpRun core i r) core s

def execStore (core : Nat) (s : State) : Res := portStart 5 (fun i _ r s => s.pumpRun core i r) core s

/-- The avenue entry of the core's garden at its router: slice of a source entry. -/
def execAsend (core : Nat) (s : State) : Res :=
  portStart 6 (fun i d r s =>
    let g := (s.ownerOf core).getD 4
    if 1023 < d.target then s.failRun core i r 5
    else match (s.pav (pavOf core)).sourceEntry core g d.target with
    | none => s.failRun core i r 5
    | some sl =>
      let (bs, ok, s) := sendRows core d d.rows 0 s []
      let out := cutBundles d.target core ok (bs.length / 8192 + 1) bs
      let s := s.updCore core fun k => { k with aveOut := k.aveOut ++ out.map fun b => (sl, b) }
      if ok then s.updCore core (Core.setRun i { r with toInject := out.length }) else s.failRun core i r 6) core s

def execArecv (core : Nat) (s : State) : Res :=
  portStart 7 (fun i d r s =>
    let g := (s.ownerOf core).getD 4
    if 1023 < d.target || ((s.pav (pavOf core)).deliveryEntry core g d.target).isNone then s.failRun core i r 5
    else s.updCore core (Core.receive d.target [])) core s

/-- PROG: one row into the program store (R94, R110). -/
def execProg (core : Nat) (s : State) : Res :=
  portStart 8 (fun i d r s =>
    let (bs, ok, s) := s.readRow core d.src d.len 0x4008
    let s := s.updCore core (Core.progWrite d.dst bs)
    if ok then s.updCore core (Core.setRun i { r with finished := true }) else s.failRun core i r 6) core s

/-- A rejected descriptor completes and its flag is set in queue order; one of an undefined OP is checked here (R111,
R114). -/
def execPorterRejectComplete (core : Nat) (s : State) : Res :=
  onCore core s fun s =>
    let k := s.core core
    match k.portRun with
    | r :: _ => if r.rejected then s.updCore core Core.retireRun else s
    | [] =>
      match k.portHead with
      | none => s
      | some q =>
        let op := (decodePort q.words).op
        if (1 ≤ op && op ≤ 8) || !s.computeOn core then s
        else s.updCore core fun k =>
          ((k.portErr op 1).pushRun { slot := q, op := op, rejected := true, finished := true }).retireRun

/-- A descriptor completes and its flag is set in queue order (R111); a failed one sets its local flag too (R115). -/
def execPorterComplete (core : Nat) (s : State) : Res :=
  onCore core s fun s =>
    match (s.core core).portRun with
    | r :: _ => if r.finished && !r.rejected then s.updCore core Core.retireRun else s
    | [] => s

end Sys2Proof.Machine
end

