-- ==== Sys2Proof/Machine/Rounds.lean ====
section
/-! DEFINITION. The postmaster's round loop (R320): the sweep with what it finds, the scans, the decision point with its broadcasts
(R336, R457), footpath tables around dark pavilions (R211); the postmaster's restart (R318, R319, R465, R592). -/

namespace Sys2Proof.Machine

/-! ### Footpath tables around dark pavilions (R211, R223) -/

/-- Gardens that hold pavilions. -/
def State.gardensHeld (s : State) : List Nat := (List.range 4).filter fun g => !(s.pavsOf g).isEmpty

def State.livePavs (s : State) : List Nat := allPavs.filter s.unitLive

/-- Changes that stage avenue tables or the peers' entries. -/
def Job.usesFabric (j : Job) : Bool :=
  [.load, .release, .protect, .relief, .autoRestore, .replay, .gardenReset, .peerOpen, .peerClose, .swap, .autoSwap, .reroute].contains j.kind

/-- The dark pavilions have changed: the sources of every garden are held. -/
def State.beginReroute (s : State) : State :=
  if s.darkPavs = s.post.routed || !s.routesWhole || s.post.jobs.any Job.usesFabric then s
  else
    let live := s.livePavs
    (s.gardensHeld.foldl (fun s g => s.startDrain g live (s.portsOf g)) s).addJob { kind := .reroute }

/-- The new tables beside the avenues as they are. -/
def State.stageRoutes (s : State) : State :=
  let s := s.writeRoutes 0x300
  s.livePavs.foldl (fun s p =>
    match (s.pav p).owner with
    | some g => s.stageTables g [p] (s.garden g).trees (s.garden g).place
    | none => s.updPav p fun v => { v.stageTrees p 4 [] with mapStaged := v.map }) s

/-- Once every garden is quiet the tables are staged, with every garden's tables locked. -/
def State.reroutePoll (s : State) (j : Job) : State :=
  let live := s.livePavs
  if j.phase = 0 && s.gardensHeld.all fun g => s.drained g live (s.portsOf g) then
    let s := s.gardensHeld.foldl (fun s g => s.endDrain g live) s.stageRoutes
    s.nextPhase { j with moves := s.darkPavs.map fun p => (p, 0, 0) } 1 ((List.range 4).map fun g => Change.fabric g live)
  else s

def State.rerouteChimed (s : State) (j : Job) : State :=
  (s.dropJob j).updPost fun p => { p with routed := j.moves.map fun (m : Nat × Nat × Nat) => m.1 }

/-! ### Giving up a letter's change (R319, R336) -/

/-- A take that has captured nothing is given up with its image. -/
def State.giveUpTake (s : State) (j : Job) (reason : Nat) : State :=
  let s := (s.dropImage j.arg).failJob j reason
  let s := if s.post.iceJob = some j.id then s.updPost fun p => { p with iceJob := none } else s
  s.iceNext

/-- A release given up before its first chime: the garden is as it was, LOADED where its recovery has been abandoned (R314). -/
def State.giveUpRelease (s : State) (j : Job) (reason : Nat) : State :=
  let g := j.garden
  let s := if j.arg2 = gRecovering then (s.setGState g gLoaded).endRun g else s.setGState g j.arg2
  s.failJob j reason

/-- A letter's change ends with a dead letter and none of its effect. -/
def State.giveUp (s : State) (j : Job) (reason : Nat) : State :=
  let g := j.garden
  match j.kind with
  | .create => (s.setGState g gEmpty).failJob j reason
  | .load =>
    if j.phase = 0 then (s.setGState g ((Fm.get {} g s.post.saved).gdn.getF Reg.GD_STATUS_STATE)).failJob j reason
    else (s.letGo g (s.fabricPavs g j.trees)).nextPhase { j with cause := reason } 9 []
  | .protect => (s.letGo g (s.garden g).prot.pavs).failJob j reason
  | .peerClose => (s.letGo g (s.fabricPavs g [])).failJob j reason
  | .swap => ((s.swapGardens j.arg).foldl (fun s g => s.letGo g (s.fabricPavs g [])) s).dropSwap j reason
  | .take => s.giveUpTake j reason
  | .seal =>
    let s := (if j.phase = 1 then s.discardAll g else s).clearMarks g
    (s.updGarden g fun d => { d with wdOn := d.getF Reg.GD_STATUS_STATE = gRunning }).failJob j reason
  | .release => s.giveUpRelease j reason
  | _ => s.failJob j reason

/-- The third discard of a letter's change (R336). -/
def State.stageFailed (s : State) (j : Job) : State :=
  let g := j.garden
  let s := s.raiseAt 0x41 (if g < 4 then 10 else 0) (if g < 4 then g else 0) (if g < 4 then some g else none)
  s.giveUp j dStage

/-- Changes discarded three times; a release past its first chime cannot be without effect any more (R333) and goes on. -/
def State.stageFailures (s : State) : State :=
  (s.post.jobs.filter fun j => j.letter.isSome && 3 ≤ j.discards && !j.staged && !j.changes.isEmpty &&
    !(j.kind = .release && 0 < j.phase)).foldl State.stageFailed s

/-! ### Chimes and polls (R320 step 1) -/

/-- The cap's index is in force everywhere (R490). -/
def State.capStepChimed (s : State) (j : Job) : State :=
  ((s.setPw Reg.PW_STATUS_CAPIDX j.arg).incPw Reg.PW_CNT_CAPSTEP 1).endJob j []

/-- A change whose stage has been applied everywhere. -/
def State.chimed (s : State) (j : Job) : State :=
  match j.kind with
  | .create => s.createChimed j
  | .load => s.loadChimed j
  | .start => s.startChimed j
  | .stop => s.stopChimed j
  | .release => s.releaseChimed j
  | .protect => s.protectChimed j
  | .gardenReset | .replay | .relief | .autoRestore => s.recoverChimed j
  | .poison => s.poisonChimed j
  | .config => s.configChimed j
  | .divider => s.dividerChimed j
  | .snapshot => s.snapshotChimed j
  | .capStep => s.capStepChimed j
  | .swap | .autoSwap => s.swapChimed j
  | .reroute => s.rerouteChimed j
  | _ => s.endJob j []

def State.stageDone (s : State) (g : Stage) : State :=
  let s := s.closeStage g
  match s.jobById g.job with
  | some j => s.chimed j
  | none => s

def State.stagesDone (s : State) : State := (s.post.stages.filter s.applied).foldl State.stageDone s

/-- How far a change has come. -/
def State.poll (s : State) (j : Job) : State :=
  match j.kind with
  | .create => s.createPoll j
  | .load => s.loadPoll j
  | .release => s.releasePoll j
  | .protect => s.protectPoll j
  | .seal => s.sealPoll j
  | .plan => s.planPoll j
  | .gardenReset | .replay | .relief | .autoRestore => s.recoverPoll j
  | .peerClose => s.closePoll j
  | .swap | .autoSwap => s.swapPoll j
  | .reroute => s.reroutePoll j
  | _ => s

/-- Every change that has nothing staged. -/
def State.polls (s : State) : State :=
  (s.post.jobs.map fun j => j.id).foldl (fun s id =>
    match s.jobById id with
    | some j => if j.changes.isEmpty then s.poll j else s
    | none => s) s

/-! ### What the sweep finds (R141, R449, R624) -/

/-- A keeper's fault: an incident with the opcode, the cause and the PC, the last two in KP_STATUS (log entry 82); a taint and a replay; cause 0x6
is a suspect event (R141, R142, R554, R561). -/
def State.keeperFault (s : State) (c : Nat) : State :=
  let k := s.core c
  let s := s.updCore c fun k => { k with faultSeen := true }
  let found : Incident :=
    { kind := 0x20, unit := 1, unitId := c, op := 0x1000 + opOf (Fm.get 0 (k.getF Reg.KP_STATUS_PC) k.pstore),
      detail := leBytes 8 (getReg .kp Reg.KP_STATUS_PC.off k.regs).toNat }
  match s.mappedAt c with
  | none => s.raise found
  | some (g, l) =>
    let cause := k.getF Reg.KP_STATUS_FAULT
    let s := s.raise { found with garden := g, flags := b01 (s.stepOpen g) }
    let s := if cause = 6 then s.suspectEvent c
      else s.updGarden g fun d => { d with fails := { d.fails with faults := d.fails.faults ++ [(l, k.getF Reg.KP_STATUS_PC)] } }
    if s.stepOpen g then (s.taint g 4).wantRecovery g 3 5 else s

def State.keeperFaults (s : State) : State :=
  (s.cores.filter fun e => e.2.getF Reg.KP_STATUS_FAULT ≠ 0 && !e.2.faultSeen).foldl (fun s e => s.keeperFault e.1) s

/-- A pavilion stretched more often than STRETCH_LIMIT: the ladder acts on its weakest site (R449, R564). -/
def State.marginFault (s : State) (p : Nat) : State :=
  let s := s.raiseAt 0x21 2 p (s.pav p).owner 0 2
  match s.marginSite p with
  | some c => s.suspectEvent c
  | none => s

def State.marginFaults (s : State) : State :=
  let past := s.pavs.filter fun e => e.2.getF Reg.PV_CLK_CFG_STRETCHLIMIT < e.2.stretchRound
  let s := past.foldl (fun s e => s.marginFault e.1) s
  { s with pavs := Fm.mapv {} (fun _ v => { v with stretchRound := 0 }) s.pavs }

/-- E and the reserve as they now stand; a change of E is a CAPACITY incident (R624). -/
def State.recount (s : State) : State :=
  let g := s.goodOn
  let e := exposedFor g
  let was := s.post.capE
  let shorts := (List.range 4).foldl (fun m g => m + 2 ^ g * (s.garden g).getF Reg.GD_STATUS_SHORT) 0
  let s := s.updPost fun p => { p with capE := e, capReserve := g - e, shorts := shorts }
  if e = was then s else s.raise { kind := 0x09, action := 7, flags := 2 }

/-- SWEEP: once in a round. -/
def State.sweep (s : State) : State :=
  let s := s.updPost fun p => { p with swept := s.round + 1 }
  let s := s.pollUnits.stagesDone.stageFailures.keeperFaults
  (s.repairLines.marginFaults.recount.polls.iceNext).scan.markWaiting

/-- Step 1 begins with the round and has ended by tick 40,000 (R320). -/
def execSweep (s : State) : Res := .next (if s.inService && s.post.swept ≠ s.round + 1 && s.tick ≤ 40000 then s.sweep else s)

/-- SECOND_SCAN: once in a round, from tick 32,768. -/
def execSecondScan (s : State) : Res :=
  .next (if s.inService && s.post.scanned ≠ s.round + 1 && 32768 ≤ s.tick then (s.updPost fun p => { p with scanned := s.round + 1 }).scan else s)

/-! ### The decision point (R320 steps 4 and 5) -/

/-- Broadcast a change's stage, unless an earlier change holds it back (R458). -/
def State.broadcastJob (s : State) (id : Nat) : State :=
  match s.jobById id with
  | none => s
  | some j =>
    if j.changes.isEmpty || j.staged || s.heldBack j.changes then s
    else if j.kind = .reroute then
      let s := s.stageRoutes
      s.broadcast { j with moves := s.darkPavs.map fun p => (p, 0, 0), changes := (List.range 4).map fun g => Change.fabric g s.livePavs }
    else s.broadcast j

def State.broadcasts (s : State) : State := (s.post.jobs.map fun j => j.id).foldl State.broadcastJob s

/-- The sweep of the round is over, and the broadcasts' ticks have come. -/
def State.mayDecide (s : State) : Bool :=
  s.inService && s.post.decided ≠ s.round + 1 && s.post.swept = s.round + 1 && 49152 ≤ s.tick

/-- DECISION_POINT: once in a round, after its sweep, at tick 49,152. -/
def execDecisionPoint (s : State) : Res :=
  .next (if s.mayDecide then (s.updPost fun p => { p with decided := s.round + 1 }).decide.beginReroute.broadcasts.markWaiting else s)

/-! ### The postmaster's restart (R318, R319, R465, R592) -/

/-- POSTMASTER_RESTART: the postmaster stops serving; the data plane runs on. -/
def execPostmasterRestart (s : State) : Res :=
  if s.inService then
    let s := s.setPm Reg.PM_STATUS_STATE 3
    let s := { s with pm := incF Reg.PM_STATUS_RESTARTS 1 s.pm }.updPost fun p => { p with restartAt := s.now }
    .next (s.raise { kind := 0x7F })
  else .next s

/-- A letter's change without effect so far: no chime set, and nothing done that goes on by itself. -/
def State.noEffect (s : State) (j : Job) : Bool :=
  j.letter.isSome && j.chime = 0 && match j.kind with
    | .firmware => false
    | .plan | .release => j.phase = 0
    | .seal => j.phase < 2
    | .take => (s.image j.arg).all fun c => !c.captured
    | .restore => j.phase = 0
    | _ => true

/-- Every stage without CHIME is discarded (R465). -/
def State.discardOpen (s : State) : State := (s.post.stages.filter fun g => g.t.isNone).foldl State.discardStage s

/-- Letters accepted that had no effect yet are answered RESTARTED. -/
def State.killLetters (s : State) : State :=
  let s := (s.post.jobs.filter s.noEffect).foldl (fun s j => s.giveUp j dRestarted) s
  let s := s.post.accepted.foldl (fun s a => s.dead a dRestarted) s
  (List.range 4).foldl (fun s g => s.updGarden g fun d => d.setF Reg.GD_STATUS_DEFERRED 0) s

/-- Watchdogs stood still while the postmaster restarted; the pause is counted time (R569, R582). -/
def State.endPause (s : State) : State :=
  let pause := s.now - s.post.restartAt
  let s := (List.range 4).foldl (fun s g => s.updGarden g fun d => if d.wdOn then { d with wdFrom := d.wdFrom + pause } else d) s
  s.recountDown fun l => l ++ [{ garden := 0xFF, span := (s.post.restartAt, pause) }]

/-- RESTART_RESUME: the slot of the lock is verified again, and service resumes. -/
def execRestartResume (s : State) : Res :=
  if getF Reg.PM_STATUS_STATE s.pm ≠ 3 then .next s
  else if (s.slotFw s.frank.lockSlot).hash ≠ s.frank.lockHash || s.ice.slotLost.contains s.frank.lockSlot then
    .next ((s.setPm Reg.PM_STATUS_STATE 4).raise { kind := 0x7F, action := 9 })
  else .next ((s.discardOpen.killLetters.endPause).setPm Reg.PM_STATUS_STATE 2)

end Sys2Proof.Machine
end

