-- ==== Sys2Proof/Machine/Dispatch.lean ====
section
/-! DEFINITION. The commands, each with the one meaning it has. -/

namespace Sys2Proof.Machine

def exec (i : Instr) (s : State) : Host.Outcome State Fault Refusal :=
  match i with
  | .registerWrite path addr value => Sys2Proof.Machine.execRegisterWrite path addr value s
  | .nop core => Sys2Proof.Machine.execNop core s
  | .halt core => Sys2Proof.Machine.execHalt core s
  | .alu core => Sys2Proof.Machine.execAlu core s
  | .addi core => Sys2Proof.Machine.execAddi core s
  | .andi core => Sys2Proof.Machine.execAndi core s
  | .ori core => Sys2Proof.Machine.execOri core s
  | .xori core => Sys2Proof.Machine.execXori core s
  | .shi core => Sys2Proof.Machine.execShi core s
  | .li core => Sys2Proof.Machine.execLi core s
  | .lis core => Sys2Proof.Machine.execLis core s
  | .cmp core => Sys2Proof.Machine.execCmp core s
  | .cmpi core => Sys2Proof.Machine.execCmpi core s
  | .plog core => Sys2Proof.Machine.execPlog core s
  | .ld core => Sys2Proof.Machine.execLd core s
  | .ldw core => Sys2Proof.Machine.execLdw core s
  | .st core => Sys2Proof.Machine.execSt core s
  | .stw core => Sys2Proof.Machine.execStw core s
  | .adda core => Sys2Proof.Machine.execAdda core s
  | .addas core => Sys2Proof.Machine.execAddas core s
  | .mova core => Sys2Proof.Machine.execMova core s
  | .movs core => Sys2Proof.Machine.execMovs core s
  | .br core => Sys2Proof.Machine.execBr core s
  | .call core => Sys2Proof.Machine.execCall core s
  | .jr core => Sys2Proof.Machine.execJr core s
  | .qcube core => Sys2Proof.Machine.execQcube core s
  | .qchain core => Sys2Proof.Machine.execQchain core s
  | .qport core => Sys2Proof.Machine.execQport core s
  | .queueStallRelease core => Sys2Proof.Machine.execQueueStallRelease core s
  | .descriptorEntry core unit => Sys2Proof.Machine.execDescriptorEntry core unit s
  | .qwait core => Sys2Proof.Machine.execQwait core s
  | .fset core => Sys2Proof.Machine.execFset core s
  | .fclr core => Sys2Proof.Machine.execFclr core s
  | .waitf core => Sys2Proof.Machine.execWaitf core s
  | .waitw core => Sys2Proof.Machine.execWaitw core s
  | .waitwPoll core => Sys2Proof.Machine.execWaitwPoll core s
  | .waitt core => Sys2Proof.Machine.execWaitt core s
  | .delay core => Sys2Proof.Machine.execDelay core s
  | .delayExpire core => Sys2Proof.Machine.execDelayExpire core s
  | .waitSuccess core cycles => Sys2Proof.Machine.execWaitSuccess core cycles s
  | .waitTimeout core => Sys2Proof.Machine.execWaitTimeout core s
  | .fsig core => Sys2Proof.Machine.execFsig core s
  | .fsend core => Sys2Proof.Machine.execFsend core s
  | .cpool core => Sys2Proof.Machine.execCpool core s
  | .cfree core => Sys2Proof.Machine.execCfree core s
  | .creq core => Sys2Proof.Machine.execCreq core s
  | .cwait core => Sys2Proof.Machine.execCwait core s
  | .cdrop core => Sys2Proof.Machine.execCdrop core s
  | .bell core => Sys2Proof.Machine.execBell core s
  | .sdr core => Sys2Proof.Machine.execSdr core s
  | .krd core => Sys2Proof.Machine.execKrd core s
  | .kwr core => Sys2Proof.Machine.execKwr core s
  | .runSet core => Sys2Proof.Machine.execRunSet core s
  | .runClear core => Sys2Proof.Machine.execRunClear core s
  | .kpChainSeed core seed => Sys2Proof.Machine.execKpChainSeed core seed s
  | .coreReset core => Sys2Proof.Machine.execCoreReset core s
  | .mma core upsets => Sys2Proof.Machine.execMma core upsets s
  | .mmaComplete core => Sys2Proof.Machine.execMmaComplete core s
  | .zero core => Sys2Proof.Machine.execZero core s
  | .zeroComplete core => Sys2Proof.Machine.execZeroComplete core s
  | .cubeRejectComplete core => Sys2Proof.Machine.execCubeRejectComplete core s
  | .chainStart core => Sys2Proof.Machine.execChainStart core s
  | .chainRejectComplete core => Sys2Proof.Machine.execChainRejectComplete core s
  | .chainBeat core upsets => Sys2Proof.Machine.execChainBeat core upsets s
  | .chainComplete core which => Sys2Proof.Machine.execChainComplete core which s
  | .copy core => Sys2Proof.Machine.execCopy core s
  | .put core => Sys2Proof.Machine.execPut core s
  | .get core => Sys2Proof.Machine.execGet core s
  | .load core => Sys2Proof.Machine.execLoad core s
  | .store core => Sys2Proof.Machine.execStore core s
  | .asend core => Sys2Proof.Machine.execAsend core s
  | .arecv core => Sys2Proof.Machine.execArecv core s
  | .prog core => Sys2Proof.Machine.execProg core s
  | .porterRejectComplete core => Sys2Proof.Machine.execPorterRejectComplete core s
  | .porterComplete core => Sys2Proof.Machine.execPorterComplete core s
  | .injection src avenue => Sys2Proof.Machine.execInjection src avenue s
  | .routePacket router port slice reply avenue err => Sys2Proof.Machine.execRoutePacket router port slice reply avenue err s
  | .write core => Sys2Proof.Machine.execWrite core s
  | .read dest err => Sys2Proof.Machine.execRead dest err s
  | .readData dest => Sys2Proof.Machine.execReadData dest s
  | .signal core => Sys2Proof.Machine.execSignal core s
  | .creditRequest core => Sys2Proof.Machine.execCreditRequest core s
  | .canswer core => Sys2Proof.Machine.execCanswer core s
  | .ack dest => Sys2Proof.Machine.execAck dest s
  | .notice core => Sys2Proof.Machine.execNotice core s
  | .devwrite ora err => Sys2Proof.Machine.execDevwrite ora err s
  | .avenueBundle router port slice err => Sys2Proof.Machine.execAvenueBundle router port slice err s
  | .drainMarker router port slice err => Sys2Proof.Machine.execDrainMarker router port slice err s
  | .bellRelease garden bell core => Sys2Proof.Machine.execBellRelease garden bell core s
  | .starvationPromote core remote => Sys2Proof.Machine.execStarvationPromote core remote s
  | .fpQuiet pav garden => Sys2Proof.Machine.execFpQuiet pav garden s
  | .pvFabArm pav mask => Sys2Proof.Machine.execPvFabArm pav mask s
  | .pvFabMark pav mask => Sys2Proof.Machine.execPvFabMark pav mask s
  | .linkDown router side => Sys2Proof.Machine.execLinkDown router side s
  | .gateBufferAlign router side lo hi => Sys2Proof.Machine.execGateBufferAlign router side lo hi s
  | .scrubPass core ce ue => Sys2Proof.Machine.execScrubPass core ce ue s
  | .correctedWriteBack core word => Sys2Proof.Machine.execCorrectedWriteBack core word s
  | .pvSpadZero pav => Sys2Proof.Machine.execPvSpadZero pav s
  | .zeroingComplete pav => Sys2Proof.Machine.execZeroingComplete pav s
  | .arm ora garden => Sys2Proof.Machine.execArm ora garden s
  | .prepare ora garden => Sys2Proof.Machine.execPrepare ora garden s
  | .commit ora garden scale => Sys2Proof.Machine.execCommit ora garden scale s
  | .discard ora garden => Sys2Proof.Machine.execDiscard ora garden s
  | .disarm ora garden => Sys2Proof.Machine.execDisarm ora garden s
  | .normPassEnd ora garden err => Sys2Proof.Machine.execNormPassEnd ora garden err s
  | .preparePassEnd ora garden err => Sys2Proof.Machine.execPreparePassEnd ora garden err s
  | .commitEnd ora garden err broken => Sys2Proof.Machine.execCommitEnd ora garden err broken s
  | .orArena ora garden value => Sys2Proof.Machine.execOrArena ora garden value s
  | .orLayerWord ora layer w value => Sys2Proof.Machine.execOrLayerWord ora layer w value s
  | .channelCheck ora found => Sys2Proof.Machine.execChannelCheck ora found s
  | .channelRetrainEnd ora => Sys2Proof.Machine.execChannelRetrainEnd ora s
  | .mr4Read ora temps => Sys2Proof.Machine.execMr4Read ora temps s
  | .memoryScrub ora err => Sys2Proof.Machine.execMemoryScrub ora err s
  | .blockWriteBack ora block => Sys2Proof.Machine.execBlockWriteBack ora block s
  | .rowRetire ora row => Sys2Proof.Machine.execRowRetire ora row s
  | .ucieRetrain ora module res => Sys2Proof.Machine.execUcieRetrain ora module res s
  | .ucieModuleDown ora module => Sys2Proof.Machine.execUcieModuleDown ora module s
  | .sweep => Sys2Proof.Machine.execSweep s
  | .secondScan => Sys2Proof.Machine.execSecondScan s
  | .decisionPoint => Sys2Proof.Machine.execDecisionPoint s
  | .postmasterRestart => Sys2Proof.Machine.execPostmasterRestart s
  | .restartResume => Sys2Proof.Machine.execRestartResume s
  | .post ch => Sys2Proof.Machine.execPost ch s
  | .take ch => Sys2Proof.Machine.execTake ch s
  | .abort ch => Sys2Proof.Machine.execAbort ch s
  | .pmMbxReset ch => Sys2Proof.Machine.execPmMbxReset ch s
  | .pmMbxIn ch data => Sys2Proof.Machine.execPmMbxIn ch data s
  | .pmMbxOut ch => Sys2Proof.Machine.execPmMbxOut ch s
  | .readReg offset pec => Sys2Proof.Machine.execReadReg offset pec s
  | .writeReg offset value pec => Sys2Proof.Machine.execWriteReg offset value pec s
  | .status pec => Sys2Proof.Machine.execStatus pec s
  | .postwin reg => Sys2Proof.Machine.execPostwin reg s
  | .openSession ch => Sys2Proof.Machine.execOpenSession ch s
  | .closeSession ch => Sys2Proof.Machine.execCloseSession ch s
  | .ping ch => Sys2Proof.Machine.execPing ch s
  | .rekey ch => Sys2Proof.Machine.execRekey ch s
  | .sessionList ch => Sys2Proof.Machine.execSessionList ch s
  | .sessionBind ch => Sys2Proof.Machine.execSessionBind ch s
  | .regRead ch => Sys2Proof.Machine.execRegRead ch s
  | .regWrite ch => Sys2Proof.Machine.execRegWrite ch s
  | .mbxStatus ch => Sys2Proof.Machine.execMbxStatus ch s
  | .mbxFlush ch => Sys2Proof.Machine.execMbxFlush ch s
  | .gardenCreate ch => Sys2Proof.Machine.execGardenCreate ch s
  | .gardenLoad ch => Sys2Proof.Machine.execGardenLoad ch s
  | .gardenStart ch => Sys2Proof.Machine.execGardenStart ch s
  | .gardenStop ch => Sys2Proof.Machine.execGardenStop ch s
  | .gardenRelease ch => Sys2Proof.Machine.execGardenRelease ch s
  | .protectSet ch => Sys2Proof.Machine.execProtectSet ch s
  | .slowTierZeroing base size => Sys2Proof.Machine.execSlowTierZeroing base size s
  | .gardenStatus ch => Sys2Proof.Machine.execGardenStatus ch s
  | .sealStep ch => Sys2Proof.Machine.execSealStep ch s
  | .updatePlan ch => Sys2Proof.Machine.execUpdatePlan ch s
  | .gardenReset ch => Sys2Proof.Machine.execGardenReset ch s
  | .parcelOpen ch => Sys2Proof.Machine.execParcelOpen ch s
  | .parcelClose ch => Sys2Proof.Machine.execParcelClose ch s
  | .memFill ch => Sys2Proof.Machine.execMemFill ch s
  | .checkpointTake ch => Sys2Proof.Machine.execCheckpointTake ch s
  | .checkpointCapture garden => Sys2Proof.Machine.execCheckpointCapture garden s
  | .takeComplete garden => Sys2Proof.Machine.execTakeComplete garden s
  | .checkpointList ch => Sys2Proof.Machine.execCheckpointList ch s
  | .checkpointRestore ch => Sys2Proof.Machine.execCheckpointRestore ch s
  | .restoreComplete garden => Sys2Proof.Machine.execRestoreComplete garden s
  | .checkpointDrop ch => Sys2Proof.Machine.execCheckpointDrop ch s
  | .icehouseStatus ch => Sys2Proof.Machine.execIcehouseStatus ch s
  | .configStage ch => Sys2Proof.Machine.execConfigStage ch s
  | .configRead ch => Sys2Proof.Machine.execConfigRead ch s
  | .chimeSet ch => Sys2Proof.Machine.execChimeSet ch s
  | .powerCapSet ch => Sys2Proof.Machine.execPowerCapSet ch s
  | .dividerSet ch => Sys2Proof.Machine.execDividerSet ch s
  | .timeSource ch => Sys2Proof.Machine.execTimeSource ch s
  | .moduleReset ch => Sys2Proof.Machine.execModuleReset ch s
  | .incidentRead ch => Sys2Proof.Machine.execIncidentRead ch s
  | .incidentAck ch => Sys2Proof.Machine.execIncidentAck ch s
  | .snapshotRequest ch => Sys2Proof.Machine.execSnapshotRequest ch s
  | .snapshotRead ch => Sys2Proof.Machine.execSnapshotRead ch s
  | .sensorRead ch => Sys2Proof.Machine.execSensorRead ch s
  | .capacityRead ch => Sys2Proof.Machine.execCapacityRead ch s
  | .postmarkRequest ch => Sys2Proof.Machine.execPostmarkRequest ch s
  | .stampRead ch => Sys2Proof.Machine.execStampRead ch s
  | .firmwareStage ch => Sys2Proof.Machine.execFirmwareStage ch s
  | .firmwareActivate ch => Sys2Proof.Machine.execFirmwareActivate ch s
  | .ownerKeySet ch => Sys2Proof.Machine.execOwnerKeySet ch s
  | .peerAvenueOpen ch => Sys2Proof.Machine.execPeerAvenueOpen ch s
  | .peerAvenueClose ch => Sys2Proof.Machine.execPeerAvenueClose ch s
  | .peerPortSwap ch => Sys2Proof.Machine.execPeerPortSwap ch s
  | .peerStatus ch => Sys2Proof.Machine.execPeerStatus ch s
  | .letter f l => Sys2Proof.Machine.execLetter f l s
  | .finished f macOk sigOk => Sys2Proof.Machine.execFinished f macOk sigOk s
  | .regReq f q => Sys2Proof.Machine.execRegReq f q s
  | .parcelData f parcel offset data => Sys2Proof.Machine.execParcelData f parcel offset data s
  | .parcelPull f parcel len offset => Sys2Proof.Machine.execParcelPull f parcel len offset s
  | .iturnAck f => Sys2Proof.Machine.execIturnAck f s
  | .retransmissionTimer session pn => Sys2Proof.Machine.execRetransmissionTimer session pn s
  | .sessionIdleTimeout session => Sys2Proof.Machine.execSessionIdleTimeout session s
  | .unackedTimeout session => Sys2Proof.Machine.execUnackedTimeout session s
  | .finishedTimeout session => Sys2Proof.Machine.execFinishedTimeout session s
  | .unboundTimeout session => Sys2Proof.Machine.execUnboundTimeout session s
  | .oldPhaseExpire session => Sys2Proof.Machine.execOldPhaseExpire session s
  | .keyLimit session => Sys2Proof.Machine.execKeyLimit session s
  | .arpRequest h target => Sys2Proof.Machine.execArpRequest h target s
  | .neighbourSolicitation h hi lo => Sys2Proof.Machine.execNeighbourSolicitation h hi lo s
  | .echoRequest h v6 hi lo => Sys2Proof.Machine.execEchoRequest h v6 hi lo s
  | .pfcFrame peer port prio quanta => Sys2Proof.Machine.execPfcFrame peer port prio quanta s
  | .pauseExpire peer port prio => Sys2Proof.Machine.execPauseExpire peer port prio s
  | .pfcRefresh peer port prio => Sys2Proof.Machine.execPfcRefresh peer port prio s
  | .sync h domain source masterTime arrival => Sys2Proof.Machine.execSync h domain source masterTime arrival s
  | .announce h domain dataset => Sys2Proof.Machine.execAnnounce h domain dataset s
  | .delayResp h domain source recvTime logInterval => Sys2Proof.Machine.execDelayResp h domain source recvTime logInterval s
  | .delayReq port departure => Sys2Proof.Machine.execDelayReq port departure s
  | .syncInEdge stamp => Sys2Proof.Machine.execSyncInEdge stamp s
  | .disciplineHoldover => Sys2Proof.Machine.execDisciplineHoldover s
  | .bundle port pf b => Sys2Proof.Machine.execBundle port pf b s
  | .gensync port pf => Sys2Proof.Machine.execGensync port pf s
  | .probe port pf module partner => Sys2Proof.Machine.execProbe port pf module partner s
  | .probeSend port => Sys2Proof.Machine.execProbeSend port s
  | .probeTimeout port => Sys2Proof.Machine.execProbeTimeout port s
  | .blockLockLoss port => Sys2Proof.Machine.execBlockLockLoss port s
  | .peerLinkReturn port => Sys2Proof.Machine.execPeerLinkReturn port s
  | .peerSend bridge => Sys2Proof.Machine.execPeerSend bridge s
  | .cartridgeExcursion lantern => Sys2Proof.Machine.execCartridgeExcursion lantern s
  | .cartridgeJudgement lantern r0 r1 => Sys2Proof.Machine.execCartridgeJudgement lantern r0 r1 s
  | .cartridgeRelease lantern cart => Sys2Proof.Machine.execCartridgeRelease lantern cart s
  | .cartridgeInsert lantern cart => Sys2Proof.Machine.execCartridgeInsert lantern cart s
  | .cartridgeReady lantern cart => Sys2Proof.Machine.execCartridgeReady lantern cart s
  | .autoSwap port readings => Sys2Proof.Machine.execAutoSwap port readings s
  | .swapPartnerFound spare module partner => Sys2Proof.Machine.execSwapPartnerFound spare module partner s
  | .swapTimeout spare => Sys2Proof.Machine.execSwapTimeout spare s
  | .refreshRead readings => Sys2Proof.Machine.execRefreshRead readings s
  | .retentionRewrite block => Sys2Proof.Machine.execRetentionRewrite block s
  | .powerOnScan readings => Sys2Proof.Machine.execPowerOnScan readings s
  | .programFail block => Sys2Proof.Machine.execProgramFail block s
  | .dieLost die => Sys2Proof.Machine.execDieLost die s
  | .nandRetrain die temp => Sys2Proof.Machine.execNandRetrain die temp s
  | .inputLoss pav => Sys2Proof.Machine.execInputLoss pav s
  | .sourceRetry pav => Sys2Proof.Machine.execSourceRetry pav s
  | .goDark pav => Sys2Proof.Machine.execGoDark pav s
  | .relock pav => Sys2Proof.Machine.execRelock pav s
  | .marginReport pav margins => Sys2Proof.Machine.execMarginReport pav margins s
  | .tickStrobe ticks drifts => Sys2Proof.Machine.execTickStrobe ticks drifts s
  | .fullCount => Sys2Proof.Machine.execFullCount s
  | .stage unit id => Sys2Proof.Machine.execStage unit id s
  | .ackDeadline id => Sys2Proof.Machine.execAckDeadline id s
  | .chime unit id => Sys2Proof.Machine.execChime unit id s
  | .stageDiscard unit id => Sys2Proof.Machine.execStageDiscard unit id s
  | .chimeApply unit => Sys2Proof.Machine.execChimeApply unit s
  | .recordExpire unit id => Sys2Proof.Machine.execRecordExpire unit id s
  | .refclkLoss => Sys2Proof.Machine.execRefclkLoss s
  | .refclkReturn => Sys2Proof.Machine.execRefclkReturn s
  | .converterFail conv => Sys2Proof.Machine.execConverterFail conv s
  | .edgeRegulatorFail reg feeds => Sys2Proof.Machine.execEdgeRegulatorFail reg feeds s
  | .busbarUndervoltage mv micros => Sys2Proof.Machine.execBusbarUndervoltage mv micros s
  | .busbarCollapse mv micros => Sys2Proof.Machine.execBusbarCollapse mv micros s
  | .busbarOvervoltage mv micros => Sys2Proof.Machine.execBusbarOvervoltage mv micros s
  | .busbarHigh mv => Sys2Proof.Machine.execBusbarHigh mv s
  | .phaseFault pav phase => Sys2Proof.Machine.execPhaseFault pav phase s
  | .plotShort plot => Sys2Proof.Machine.execPlotShort plot s
  | .thoroughfareRegulatorFault pav => Sys2Proof.Machine.execThoroughfareRegulatorFault pav s
  | .domainPowerOn pav => Sys2Proof.Machine.execDomainPowerOn pav s
  | .coreSwitchOn pav amps => Sys2Proof.Machine.execCoreSwitchOn pav amps s
  | .halfSlope pav micros => Sys2Proof.Machine.execHalfSlope pav micros s
  | .domainOnComplete pav => Sys2Proof.Machine.execDomainOnComplete pav s
  | .domainSwitchOff pav => Sys2Proof.Machine.execDomainSwitchOff pav s
  | .switchOffComplete pav => Sys2Proof.Machine.execSwitchOffComplete pav s
  | .capLoop mean => Sys2Proof.Machine.execCapLoop mean s
  | .fastLimiter watts micros => Sys2Proof.Machine.execFastLimiter watts micros s
  | .alertAssert source unit nanos => Sys2Proof.Machine.execAlertAssert source unit nanos s
  | .alertHoldEnd => Sys2Proof.Machine.execAlertHoldEnd s
  | .capHalving => Sys2Proof.Machine.execCapHalving s
  | .sensorSample sample => Sys2Proof.Machine.execSensorSample sample s
  | .heatContributionRise pav => Sys2Proof.Machine.execHeatContributionRise pav s
  | .heatContributionFall pav => Sys2Proof.Machine.execHeatContributionFall pav s
  | .coldBoot b => Sys2Proof.Machine.execColdBoot b s
  | .fullBringUp b => Sys2Proof.Machine.execFullBringUp b s
  | .warmFastPath b => Sys2Proof.Machine.execWarmFastPath b s
  | .settle => Sys2Proof.Machine.execSettle s
  | .rstNAccept micros => Sys2Proof.Machine.execRstNAccept micros s
  | .rstNRise micros => Sys2Proof.Machine.execRstNRise micros s
  | .bootrpt index => Sys2Proof.Machine.execBootrpt index s
  | .stagehold stage enable => Sys2Proof.Machine.execStagehold stage enable s
  | .pavtest pav failing => Sys2Proof.Machine.execPavtest pav failing s
  | .ownerload index data commit => Sys2Proof.Machine.execOwnerload index data commit s
  | .ownerclr => Sys2Proof.Machine.execOwnerclr s
  | .wardenJudge pav core => Sys2Proof.Machine.execWardenJudge pav core s
  | .reliefCopy garden lcore => Sys2Proof.Machine.execReliefCopy garden lcore s
  | .patrolSegment core segment waited => Sys2Proof.Machine.execPatrolSegment core segment waited s
  | .patrolSegmentEnd core finding => Sys2Proof.Machine.execPatrolSegmentEnd core finding s
  | .patrolAbandon core => Sys2Proof.Machine.execPatrolAbandon core s
  | .probationEnd core => Sys2Proof.Machine.execProbationEnd core s
  | .markExpire core => Sys2Proof.Machine.execMarkExpire core s
  | .patrolDeadline core => Sys2Proof.Machine.execPatrolDeadline core s
  | .forcedReliefTimeout core => Sys2Proof.Machine.execForcedReliefTimeout core s
  | .hangWatchdog garden found => Sys2Proof.Machine.execHangWatchdog garden found s
  | .avenueStall garden ticks found => Sys2Proof.Machine.execAvenueStall garden ticks found s
  | .autoCheckpoint garden => Sys2Proof.Machine.execAutoCheckpoint garden s
  | .alertSourceRelease source unit => Sys2Proof.Machine.execAlertSourceRelease source unit s
  | .hostLinkUp port link => Sys2Proof.Machine.execHostLinkUp port link s
  | .hostLinkDown port link => Sys2Proof.Machine.execHostLinkDown port link s
  | .outputWithinVset pav => Sys2Proof.Machine.execOutputWithinVset pav s
  | .memFillComplete garden => Sys2Proof.Machine.execMemFillComplete garden s
  | .firmwareCopyComplete => Sys2Proof.Machine.execFirmwareCopyComplete s
  | .lineRedirect core bank line => Sys2Proof.Machine.execLineRedirect core bank line s

end Sys2Proof.Machine
end

