-- ==== Sys2Proof/Safety.lean ====
section
/-! DEFINITION. What counts as a safe run, and the words in which the statements say what a command does: it completes, it
changes one unit only, a keeper issues an instruction and runs it, the oldest letter of a kind acts. -/

namespace Sys2Proof.Machine

/-- The command completes, and the next state is as `P` says. -/
def Completes (r : Res) (P : State → Prop) : Prop := ∃ t, r = .next t ∧ P t

/-- A safe state of affairs: the slow tier is in canonical form (R8; log entry 6), and every waiting command names units the
module has. -/
def State.Inv (s : State) : Prop := Fm.wf 0 s.slow = true ∧ ∀ c ∈ s.pending, c.wf = true

/-- The busbar's voltage, where a command gives it, is within the absolute maximum ratings (R630): above 64 V for 1 ms at most. -/
def withinRatings : Instr → Bool
  | .busbarUndervoltage mv _ | .busbarCollapse mv _ | .busbarHigh mv => decide (-1000 ≤ mv ∧ mv ≤ 72000)
  | .busbarOvervoltage mv micros => decide (-1000 ≤ mv ∧ mv ≤ 72000 ∧ (mv ≤ 64000 ∨ micros ≤ 1000))
  | _ => true

/-! ### One unit changes, and nothing else -/

def OnlyCore (c : Nat) (s t : State) : Prop := { t with cores := s.cores } = s ∧ ∀ d, d ≠ c → t.core d = s.core d
def OnlyPav (p : Nat) (s t : State) : Prop := { t with pavs := s.pavs } = s ∧ ∀ d, d ≠ p → t.pav d = s.pav d
def OnlyOra (o : Nat) (s t : State) : Prop := { t with oras := s.oras } = s ∧ ∀ d, d ≠ o → t.orang d = s.orang d
def OnlyGarden (g : Nat) (s t : State) : Prop := { t with gardens := s.gardens } = s ∧ ∀ d, d ≠ g → t.garden d = s.garden d
def OnlyChan (n : Nat) (s t : State) : Prop := { t with chans := s.chans } = s ∧ ∀ d, d ≠ n → t.chan d = s.chan d

/-! ### Keepers (R91-R104, R141) -/

/-- The keeper of core `c` is running and the instruction at its PC, free of errors and well encoded, is `w` of opcode `op`;
it is not the last of the program store. -/
def atWord (s : State) (c op : Nat) (w : W32) : Bool :=
  decide (c < Config.coreSites) && s.keeperRuns c && decide ((s.core c).fetch = some w) && decide (opOf w = op) &&
    decide (encCause w = none) && decide ((s.core c).pc ≠ 0x1FFF)

/-- ... and its predicate lets it execute (R96). -/
def issues (s : State) (c op : Nat) (w : W32) : Bool := atWord s c op w && decide ((s.core c).pReg (prOf w) ≠ pnOf w)

/-- The keeper of `c` stops with cause `x` at the word it fetched, whose single-bit error was corrected (R93, R141). -/
def State.faulted (s : State) (c x : Nat) : State := (s.updCore c Core.corrected).updCore c (Core.fault x)

/-- A core but for its KP_ registers and the bookkeeping of issue: ready cycles and corrected fetches. -/
def Core.body (k : Core) : Core := { k with regs := [], ready := [], pstoreCe := [], pstoreCorr := 0 }

/-- KP_ registers other than KP_STATUS.PC and KP_CYCLES are the same. -/
def KpSame (k l : Core) : Prop :=
  (∀ off, off ≠ Reg.KP_STATUS_PC.off → off ≠ Reg.KP_CYCLES_CYCLES.off → getReg .kp off l.regs = getReg .kp off k.regs) ∧
  ∀ f ∈ [Reg.KP_STATUS_STATE, Reg.KP_STATUS_DONE, Reg.KP_STATUS_FAULT, Reg.KP_STATUS_WAIT], l.getF f = k.getF f

/-- The keeper of `c` ran an instruction and goes on at word `pc`: its core is as `k` says, its KP_ registers but PC and CYCLES as
before, and every other piece of the state as before. -/
def Ran (c pc : Nat) (k : Core) (s t : State) : Prop :=
  OnlyCore c s t ∧ (t.core c).body = k.body ∧ KpSame (s.core c) (t.core c) ∧ (t.core c).pc = pc

/-- The instruction of the keeper of `c` has issued (R104: nothing but ready cycles and KP_CYCLES changes), and then `f` is done. -/
def Then (c : Nat) (f : State → State) (s t : State) : Prop := ∃ u, Ran c (s.core c).pc (s.core c) s u ∧ t = f u

/-! ### Letters and the window (R324, R346) -/

/-- The postmaster serves, and the oldest accepted letter of `code` on channel `ch` whose turn has come and that waits for no other is `a`; it is not to be
answered for a poisoned context. -/
def letterTurn (s : State) (code ch : Nat) (a : Accepted) : Bool :=
  decide (ch < 64) && s.inService && (s.owed a).isNone &&
    decide (s.post.accepted.find? (fun b => b.letter.code = code && b.channel = ch && !s.blocked b && s.inTurn b) = some a)

/-- Channel `ch`'s own registers answer: the window is open, the channel bound and selected on its own path. -/
def ownWindow (s : State) (ch : Nat) : Bool :=
  decide (ch < 64) && s.windowOpen && decide (s.boundOf ch ≠ 0) && decide (s.mbxSel ch = ch)

/-! ### Frames from a host (R353, R364-R366, R380) -/

/-- A host port has counted what its FEC found in a frame. -/
def State.heardOn (s : State) (h : Heard) : State :=
  s.updHostPort h.path.port fun p => (p.incF Reg.LN_HOST_FEC_CNT_CORR h.wire.fecCorr).incF Reg.LN_HOST_FEC_CNT_UNCORR h.wire.fecUncorr

/-- The window answers, and the port supports and can hold the frame, which goes to UDP port `udp` (R353, R359). -/
def State.hears (s : State) (h : Heard) (udp : Option Nat) : Bool :=
  h.path.port < 2 && s.windowOpen && (s.wireFault h.path.port h.wire udp).isNone

/-- The frame's format is right for a frame of `type` (R364). -/
def Frame.sound (f : Frame) (type : Nat) : Bool := decide (f.version = 1 ∧ f.type = type ∧ f.flags < 4) && f.formOk

/-- A frame of `type` belongs to session `x`, is authentic, new, within the window, and no earlier than the session's FINISHED: it is to act
(R365, R366, R370, R373, R380). -/
def takenFrame (s : State) (f : Frame) (type : Nat) (eliciting : Bool) (x : Session) : Bool :=
  s.hears ⟨f.path, f.wire⟩ (s.iturnUdp f.path.port) && f.sound type && decide (s.session f.session = some x) && f.authOk &&
    x.phaseOk (f.flags / 2) s.now && !x.seen.contains f.pn && decide (x.newest ≤ f.pn + 1024) && (x.ready || type = 4) &&
    (!eliciting || decide ((prune (max x.newest f.pn) x.due).length < s.window f.path.port))

/-- The state once the host bridge has taken a frame: its session has received it, and its acknowledgements have acted. -/
def State.took (s : State) (f : Frame) (type : Nat) (eliciting : Bool) : State :=
  ((s.heardOn ⟨f.path, f.wire⟩).intake f type eliciting).1

/-- No word of a byte range of the scratchpad carries an error (R176, R177). -/
def Core.clean (k : Core) (off n : Nat) : Bool := !(k.spadCe.any (wordIn off n)) && !(k.spadUe.any (wordIn off n))

end Sys2Proof.Machine
end

