-- ==== Sys2Proof/Certificates/Slice0/Obligations.lean ====
section
/-! DEFINITION. The statements for the provers: what each family of commands does, and what every step keeps. -/

open Sys2Proof Sys2Proof.Machine

/-- R98, R99, R101: the instructions on scalars. Each writes its result to s[D] (s0 stays zero, R91) and changes nothing else. -/
def Obligations.ScalarInstructionsWriteTheirResult : Prop := ∀ (s : State) (c : Nat) (w : W32),
  let k := s.core c
  let x := k.sReg (aOf w)
  let y := k.sReg (bOf w)
  let imm : Word := BitVec.ofInt 64 (simmOf w)
  let runs (op : Nat) (i : Instr) (v : Word) : Prop :=
    issues s c op w = true → Completes (exec i s) (Ran c (k.pc + 1) (k.setS (dOf w) v) s)
  (issues s c 0x01 w = true → Completes (exec (.nop c) s) (Ran c (k.pc + 1) k s)) ∧
  runs 0x04 (.alu c) (aluOp (fnOf w) x y) ∧
  runs 0x05 (.addi c) (x + imm) ∧ runs 0x06 (.andi c) (x &&& imm) ∧ runs 0x07 (.ori c) (x ||| imm) ∧ runs 0x08 (.xori c) (x ^^^ imm) ∧
  runs 0x09 (.shi c) (shiOp (immOf w) x) ∧
  runs 0x0A (.li c) (BitVec.ofInt 64 (toSigned 17 (imm17Of w))) ∧
  runs 0x0B (.lis c) (k.sReg (dOf w) <<< 17 ||| BitVec.ofNat 64 (imm17Of w)) ∧
  runs 0x17 (.movs c) ((k.aReg (aOf w)).setWidth 64) ∧
  runs 0x38 (.sdr c) (BitVec.ofNat 64 (s.sundialOf (pavOf c)))

/-- R98, R100: predicates, address registers and grants. -/
def Obligations.PredicateAndAddressInstructionsWriteTheirResult : Prop := ∀ (s : State) (c : Nat) (w : W32),
  let k := s.core c
  let x := k.sReg (aOf w)
  let runs (op : Nat) (i : Instr) (l : Core) : Prop := issues s c op w = true → Completes (exec i s) (Ran c (k.pc + 1) l s)
  runs 0x0C (.cmp c) (k.setP (dOf w) (condHolds (fnOf w) x (k.sReg (bOf w)))) ∧
  runs 0x0D (.cmpi c) (k.setP (dOf w) (condHolds (immOf w / 512) x (BitVec.ofInt 64 (toSigned 9 (immOf w % 512))))) ∧
  runs 0x0E (.plog c) (k.setP (dOf w) (plogOp (fnOf w) (k.pReg (aOf w)) (k.pReg (bOf w)))) ∧
  runs 0x14 (.adda c) (k.setA (dOf w) (k.aReg (aOf w) + BitVec.ofInt 48 (simmOf w))) ∧
  runs 0x15 (.addas c) (k.setA (dOf w) (k.aReg (aOf w) + (k.sReg (bOf w)).setWidth 48)) ∧
  runs 0x16 (.mova c) (k.setA (dOf w) (x.setWidth 48)) ∧
  runs 0x34 (.cdrop c) (k.setSlot (immOf w % 16) {})

/-- R101, R159, R177: loads and stores at an aligned address inside the scratchpad. A load returns the bytes as they stand, even where
a word of them is poisoned; over clean words it changes nothing but its register. A store changes the bytes it names and no other. -/
def Obligations.LoadsAndStoresMoveTheirBytes : Prop := ∀ (s : State) (c a : Nat) (w : W32),
  let k := s.core c
  let loads (op n : Nat) (i : Instr) : Prop := issues s c op w = true → lsAddr n w k = some a →
    Completes (exec i s) fun t => (t.core c).sReg (dOf w) = (if dOf w = 0 then 0 else BitVec.ofNat 64 (leVal (k.spadRead a n))) ∧
      (∀ b, Fm.get 0 b (t.core c).spad = Fm.get 0 b k.spad) ∧
      (k.clean a n = true → Ran c (k.pc + 1) (k.setS (dOf w) (BitVec.ofNat 64 (leVal (k.spadRead a n)))) s t)
  let stores (op n : Nat) (i : Instr) : Prop := issues s c op w = true → lsAddr n w k = some a →
    Completes (exec i s) fun t => Ran c (k.pc + 1) (k.spadWrite a (leBytes n (k.sReg (dOf w)).toNat)) s t ∧
      (t.core c).spadRead a n = leBytes n (k.sReg (dOf w)).toNat ∧
      ∀ b, (b < a ∨ a + n ≤ b) → Fm.get 0 b (t.core c).spad = Fm.get 0 b k.spad
  loads 0x10 8 (.ld c) ∧ loads 0x11 4 (.ldw c) ∧ stores 0x12 8 (.st c) ∧ stores 0x13 4 (.stw c)

/-- R98, R102: BR, CALL and JR go on at their target inside the program store, and fault where it lies outside; HALT stops the keeper, its PC where it is. -/
def Obligations.BranchesGoToTheirTarget : Prop := ∀ (s : State) (c : Nat) (w : W32),
  let k := s.core c
  let target := (k.pc : Int) * 4 + soff22Of w * 4
  (issues s c 0x18 w = true → 0 ≤ target → target ≤ 0x7FFC → Completes (exec (.br c) s) (Ran c (target.toNat / 4) k s)) ∧
  (issues s c 0x19 w = true → 0 ≤ target → target ≤ 0x7FFC →
    Completes (exec (.call c) s) (Ran c (target.toNat / 4) (k.setS 31 (BitVec.ofNat 64 (k.pc * 4 + 4))) s)) ∧
  (issues s c 0x1A w = true → (k.sReg (aOf w)).toNat < 0x8000 →
    Completes (exec (.jr c) s) (Ran c ((k.sReg (aOf w)).toNat / 4) k s)) ∧
  ((target < 0 ∨ 0x7FFC < target) → (issues s c 0x18 w = true → exec (.br c) s = .next (s.faulted c 4)) ∧
    (issues s c 0x19 w = true → exec (.call c) s = .next (s.faulted c 4))) ∧
  (issues s c 0x1A w = true → 0x8000 ≤ (k.sReg (aOf w)).toNat → exec (.jr c) s = .next (s.faulted c 4)) ∧
  (issues s c 0x02 w = true → Completes (exec (.halt c) s) (Then c (fun u => u.updCore c fun k =>
    (k.setF Reg.KP_STATUS_STATE 0).setF Reg.KP_STATUS_DONE 1) s))

/-- R117-R121, R133, R105: the instructions that wait begin their wait. BELL first consumes an unseen release or registers its
arrival. -/
def Obligations.WaitInstructionsBeginToWait : Prop := ∀ (s : State) (c : Nat) (w : W32),
  let k := s.core c
  let x := (k.sReg (aOf w)).toNat
  let waits (op : Nat) (i : Instr) (kind : WaitKind) (dst timeout : Nat) : Prop :=
    issues s c op w = true → Completes (exec i s) (Then c (fun u => u.updCore c (Core.startWait kind dst timeout)) s)
  waits 0x23 (.qwait c) (.queueIdle (immOf w)) (dOf w) x ∧
  waits 0x26 (.waitf c) (.flag (immOf w % 64) (immOf w / 64 % 2 = 1)) (dOf w) x ∧
  waits 0x28 (.waitt c) (.sundial (k.sReg (aOf w))) 0 0 ∧
  waits 0x29 (.delay c) (.delay (x + immOf w)) 0 0 ∧
  waits 0x33 (.cwait c) (.grant (immOf w % 16)) (dOf w) x ∧
  (let n := if fnOf w / 8 % 2 = 1 then 4 else 8
   let a := (k.aReg (aOf w)).toNat
   a % n = 0 → inSpad a n = true →
     waits 0x27 (.waitw c) (.word a (fnOf w % 8) (fnOf w / 8 % 2 = 1) (k.sReg (bOf w))) (dOf w) (k.sReg (bOf w + 1)).toNat) ∧
  (let b := immOf w % 16
   k.member b = true → issues s c 0x35 w = true → Completes (exec (.bell c) s) (Then c (fun u => u.updCore c fun l =>
     (if l.unseen b then l.setF Reg.KP_BELL_UNSEEN (clearBit (l.getF Reg.KP_BELL_UNSEEN) b)
      else l.setF Reg.KP_BELL_ARRIVED (setBit (l.getF Reg.KP_BELL_ARRIVED) b)).startWait (.bell b) (dOf w) x) s))

/-- R118-R121, R106: a wait ends. A test that succeeds within the timeout sets the predicate, a timeout clears it; WAITW's poll either
ends the wait or goes on 8 cycles later; a stalled issue enters its queue. None of it happens while the compute clock stands or a patrol
segment holds the core (R557). -/
def Obligations.WaitsEnd : Prop := ∀ (s : State) (c : Nat), c < Config.coreSites → s.keeperOn c = true →
  let k := s.core c
  let d := k.wait.dst
  let answers (i : Instr) (f : Core → Core) : Prop := exec i s = .next (s.updCore c f)
  (∀ n, k.wait.kind = .delay n → answers (.delayExpire c) (Core.endWait n)) ∧
  (∀ n, timedWait k.wait.kind = true → (∀ f, k.wait.kind ≠ .flag f true) → s.waitHolds c = true → n ≤ k.wait.timeout →
    answers (.waitSuccess c n) fun k => (putP d true k).endWait n) ∧
  (∀ n f, k.wait.kind = .flag f true → s.waitHolds c = true → n ≤ k.wait.timeout →
    answers (.waitSuccess c n) fun k => (putP d true (k.clearFlags (2 ^ f))).endWait n) ∧
  (∀ n u, k.wait.kind = .sundial u → u.toNat ≤ s.sundialOf (pavOf c) → answers (.waitSuccess c n) (Core.endWait n)) ∧
  (timedWait k.wait.kind = true → s.waitHolds c = false →
    answers (.waitTimeout c) fun k => (putP d false k).endWait k.wait.timeout) ∧
  (∀ a cond w32 ref, k.wait.kind = .word a cond w32 ref →
    let n := if w32 then 4 else 8
    let x := BitVec.ofNat 64 (leVal (k.spadRead a n))
    let y := if w32 then BitVec.ofNat 64 (ref.toNat % 2 ^ 32) else ref
    let e := k.wait.elapsed
    k.clean a n = true →
    (condHolds cond x y = true → answers (.waitwPoll c) fun k => (putP d true k).endWait (e + 6)) ∧
    (condHolds cond x y = false → k.wait.timeout < e + 8 → answers (.waitwPoll c) fun k => (putP d false k).endWait (e + 6)) ∧
    (condHolds cond x y = false → e + 8 ≤ k.wait.timeout →
      answers (.waitwPoll c) fun k => { k with wait := { k.wait with elapsed := e + 8 } })) ∧
  (∀ u addr, k.wait.kind = .queueFull u addr →
    let unit : QUnit := if u = 0 then .cube else if u = 1 then .chain else .port
    (k.queue unit).length < 16 → k.descOk unit addr = true →
      exec (.queueStallRelease c) s = .next ((s.reserve c unit addr (0x20 + u)).updCore c (Core.endWait 0)))

/-- R104, R118, R141, R145: an instruction that reads registers issues no earlier than each is ready; KP_STATUS as a wait begins, as a wait ends after `n` cycles, and as a fault stops the keeper. -/
def Obligations.KeeperStatusFollowsWaitsAndFaults : Prop := ∀ (k : Core) (kind : WaitKind) (d t n x : Nat) (l : List Nat),
  let a := k.startWait kind d t
  let b := k.endWait n
  let f := k.fault x
  (a.getF Reg.KP_STATUS_STATE = 2 ∧ a.getF Reg.KP_STATUS_WAIT = waitCode kind ∧ a.pc = k.pc ∧ a.cycles = k.cycles ∧
    a.wait = { kind := kind, dst := d, timeout := t }) ∧
  (b.getF Reg.KP_STATUS_STATE = 1 ∧ b.getF Reg.KP_STATUS_WAIT = 0 ∧ b.pc = (k.pc + 1) % 2 ^ 13 ∧
    b.cycles = (k.cycles + (n + 1)) % 2 ^ 64 ∧ b.wait = {}) ∧
  (x < 16 → f.getF Reg.KP_STATUS_STATE = 3 ∧ f.getF Reg.KP_STATUS_FAULT = x ∧ f.getF Reg.KP_STATUS_WAIT = 0 ∧ f.pc = k.pc ∧
    f.wait = {} ∧ f.getF Reg.KP_STATUS_DONE = k.getF Reg.KP_STATUS_DONE) ∧
  (k.interlock l).cycles = (l.foldl (fun m r => max m (Fm.get 0 r k.ready)) k.cycles) % 2 ^ 64 ∧
  ((∀ r ∈ l, Fm.get 0 r k.ready < 2 ^ 64) → ∀ r ∈ l, Fm.get 0 r k.ready ≤ (k.interlock l).cycles)

/-- R116, R122-R125, R144, R145: flags, sends to another core's keeper, and the KP_ registers. Each goes on at the next word. -/
def Obligations.FlagsSendsAndRegisterAccess : Prop := ∀ (s : State) (c : Nat) (w : W32),
  let k := s.core c
  let x := k.sReg (aOf w)
  let does (op : Nat) (i : Instr) (f : State → State) : Prop :=
    issues s c op w = true → Completes (exec i s) (Then c (fun u => (f u).updCore c (Core.goOn 1)) s)
  does 0x24 (.fset c) (fun u => u.updCore c (Core.setFlag (immOf w % 64))) ∧
  (immOf w < 2048 → does 0x25 (.fclr c) fun u => u.updCore c (Core.clearFlags (2 ^ (immOf w % 64)))) ∧
  (2048 ≤ immOf w → does 0x25 (.fclr c) fun u => u.updCore c (Core.clearFlags x.toNat)) ∧
  does 0x39 (.krd c) (fun u => u.updCore c fun l => putS (dOf w) 3 (l.kpRead c (8 * immOf w)) l) ∧
  does 0x3A (.kwr c) (fun u => u.updCore c fun l => l.kwr (8 * immOf w) x) ∧
  (x.toNat < s.gardenSize (s.ownerOf c) → does 0x2C (.fsig c) fun u => u.updCore c fun l =>
    l.send { type := 4, ord := true, setFlag := true, flag := immOf w % 64, dest := x.toNat, src := c, addr := 0 }) ∧
  (let n := 8 * (fnOf w % 16 + 1)
   let a := (k.aReg (aOf w)).toNat
   let off := (k.sReg (bOf w)).toNat
   let v := k.slot (dOf w)
   a % 8 = 0 → inSpad a n = true → v.state = 2 → off % 8 = 0 → off + n ≤ v.wlen * 256 →
     does 0x2D (.fsend c) fun u => (u.spadTouch c a n 0x102D).updCore c fun l =>
       l.send { type := 1, ord := true, dest := v.dest, src := c, payload := k.spadRead a n,
                addr := off + v.pool * 2 ^ 23 + v.num * 2 ^ 26 })

/-- R126-R131: a credit pool opens over its range and closes; grants are freed, oldest first; a request leaves for the credit unit of
another core of the garden. -/
def Obligations.CreditInstructions : Prop := ∀ (s : State) (c : Nat) (w : W32),
  let k := s.core c
  let p := k.pool (dOf w)
  let n := (k.sReg (bOf w)).toNat
  let does (op : Nat) (i : Instr) (f : Core → Core) : Prop :=
    issues s c op w = true → Completes (exec i s) (Then c (fun u => (u.updCore c f).updCore c (Core.goOn 1)) s)
  (n = 0 → does 0x30 (.cpool c) fun l => { l.setPool (dOf w) p.close.1 with out := l.out ++ p.close.2 }) ∧
  (let base := (k.aReg (aOf w)).toNat
   n ≠ 0 → n % 256 = 0 → base % 256 = 0 → inSpad base n = true → p.isOpen = false → p.closing = false →
     does 0x30 (.cpool c) fun l => l.setPool (dOf w) { isOpen := true, base := base / 256, size := n / 256, next := p.next }) ∧
  (n ≤ p.grants.length → does 0x31 (.cfree c) fun l =>
    { l.setPool (dOf w) (p.free n).1 with out := l.out ++ (p.free n).2 }) ∧
  (let dest := (k.sReg (aOf w)).toNat
   (k.slot (dOf w)).state ≠ 1 → n < 2 ^ 23 → n / 8 % 32 = 0 → dest < s.gardenSize (s.ownerOf c) →
     does 0x32 (.creq c) fun l => (l.setSlot (dOf w) { state := 1, pool := n % 8, dest := dest }).send
       { type := 5, ord := true, dest := dest, src := c, addr := 0, payload := leBytes 8 (n + dOf w * 2 ^ 24) })

/-- R105-R108: QCUBE, QCHAIN and QPORT reserve a slot of their queue with the descriptor read at issue, or stall on a full queue; a
descriptor on its way enters, and a chain that has come to the head so is checked there (R83). -/
def Obligations.QueueInstructionsReserveOrStall : Prop := ∀ (s : State) (c : Nat) (w : W32),
  let k := s.core c
  let queues (op : Nat) (i : Instr) (unit : QUnit) (number : Nat) (scale : Int) : Prop :=
    let addr := k.addr (aOf w) (simmOf w * scale)
    issues s c op w = true → k.descOk unit addr = true →
      ((k.queue unit).length < 16 →
        Completes (exec i s) (Then c (fun u => (u.reserve c unit addr op).updCore c (Core.goOn 1)) s)) ∧
      (16 ≤ (k.queue unit).length →
        Completes (exec i s) (Then c (fun u => u.updCore c (Core.startWait (.queueFull number addr) 0 0)) s))
  queues 0x20 (.qcube c) .cube 0 32 ∧ queues 0x21 (.qchain c) .chain 1 8 ∧ queues 0x22 (.qport c) .port 2 32 ∧
  (∀ unit, c < Config.coreSites → exec (.descriptorEntry c unit) s = .next (s.updCore c fun l =>
    let m := l.setQueue unit (enterFirst (l.queue unit))
    if unit = .chain then m.chainJudge else m))

/-- R74, R86, R135, R142, R143: RUN starts fetch at ENTRY and stops it, the seed loads the generator, and a core reset keeps the scratchpad,
the program store, ENTRY and the bell membership. The postmaster resets no core whose fault it has not polled, and no member of a bell
that holds a logical core of a RUNNING garden. -/
def Obligations.RunSeedAndCoreReset : Prop := ∀ (s : State) (c : Nat), c < Config.coreSites →
  let k := s.core c
  (k.getF Reg.KP_CTRL_RUN = 0 → Completes (exec (.runSet c) s) fun t => OnlyCore c s t ∧ (t.core c).body = k.body ∧
    (t.core c).getF Reg.KP_CTRL_RUN = 1 ∧ (t.core c).getF Reg.KP_STATUS_STATE = 1 ∧ (t.core c).pc = k.getF Reg.KP_CTRL_ENTRY) ∧
  (k.getF Reg.KP_CTRL_RUN = 1 → k.getF Reg.KP_STATUS_STATE ≠ 3 → Completes (exec (.runClear c) s) fun t => OnlyCore c s t ∧
    (t.core c).body = { k.body with wait := {} } ∧ (t.core c).getF Reg.KP_CTRL_RUN = 0 ∧ (t.core c).getF Reg.KP_STATUS_STATE = 0 ∧
    (t.core c).getF Reg.KP_STATUS_WAIT = 0 ∧ (t.core c).pc = k.pc) ∧
  (∀ v, Completes (exec (.kpChainSeed c v) s) fun t => OnlyCore c s t ∧ (t.core c).draws = 0 ∧
    getReg .kp Reg.KP_CHAIN_SEED_SEED.off (t.core c).regs = v) ∧
  (s.mayReset c = false → exec (.coreReset c) s = .next s) ∧
  (s.mayReset c = true → Completes (exec (.coreReset c) s) fun t => OnlyCore c s t ∧
    let l := t.core c
    l.spad = k.spad ∧ l.pstore = k.pstore ∧ l.getF Reg.KP_CTRL_ENTRY = k.getF Reg.KP_CTRL_ENTRY ∧
    l.getF Reg.KP_BELL_MEMBER = k.getF Reg.KP_BELL_MEMBER ∧ l.getF Reg.KP_CTRL_RUN = 0 ∧ l.getF Reg.KP_STATUS_STATE = 0 ∧
    (∀ i, l.sReg i = 0) ∧ (∀ i, l.aReg i = 0) ∧ (∀ i, l.pReg i = decide (i = 0)) ∧ l.cubeQ = [] ∧ l.chainQ = [] ∧ l.portQ = [] ∧
    l.getF Reg.KP_FLAGS_FLAGS = 0 ∧ l.cycles = 0 ∧ l.wait = {} ∧ l.acc = [] ∧ l.tally = [] ∧ l.cubeRun = none ∧ l.chainRun = none ∧ l.portRun = [])

/-- R93, R95, R97, R102, R141: what makes a keeper's instruction fault. An ill-encoded word, executed or not, and an unreadable one stop the keeper with their
cause; the PC is the instruction's, and nothing outside the keeper's KP_ registers and wait changes but the count of a corrected fetch. A predicated-off instruction
only goes on. -/
def Obligations.KeeperFaultsAndPredicates : Prop := ∀ (s : State) (c op : Nat) (reads : W32 → List Nat) (body : Nat → W32 → State → KOut),
  c < Config.coreSites → s.keeperRuns c = true →
  let k := s.core c
  (k.fetch = none → keeperOp op reads body c s = .next (s.updCore c (Core.fault 6))) ∧
  (∀ w x, k.fetch = some w → (opOf w = op ∨ opForm (opOf w) = none) → encCause w = some x →
    keeperOp op reads body c s = .next (s.faulted c x)) ∧
  (∀ w, k.fetch = some w → opOf w = op → encCause w = none → k.pReg (prOf w) = pnOf w → k.pc ≠ 0x1FFF →
    Completes (keeperOp op reads body c s) (Ran c (k.pc + 1) k s)) ∧
  (∀ w, k.fetch = some w → opOf w = op → encCause w = none → k.pc = 0x1FFF →
    (k.pReg (prOf w) = pnOf w ∨ ∀ u, ∃ t n, body c w u = .goes t n) → keeperOp op reads body c s = .next (s.faulted c 4)) ∧
  (∀ w, atWord s c op w = true → k.pReg (prOf w) ≠ pnOf w → ∀ x, (∀ u, Ran c k.pc k s u → body c w u = .fault x) →
    keeperOp op reads body c s = .next (s.faulted c x))

/-- R91, R116: a keeper's registers. s0 reads as zero and p0 as 1 whatever is written to them; each of the other 31 scalar, 16 address and 7 predicate
registers reads as it was last written, whatever is written to the rest; a flag is one bit, and to set one that is set does nothing. -/
def Obligations.KeeperRegistersReadAsWritten : Prop := ∀ (k : Core) (i j : Nat) (v : Word) (a : Addr) (b : Bool), i < 32 → j < 32 →
  (k.setS 0 v).sReg 0 = 0 ∧ k.sReg 0 = 0 ∧ (k.setP 0 b).pReg 0 = true ∧ k.pReg 0 = true ∧ k.setS 0 v = k ∧ k.setP 0 b = k ∧
  (i ≠ 0 → (k.setS i v).sReg i = v) ∧ (i < 16 → (k.setA i a).aReg i = a) ∧ (i < 8 → i ≠ 0 → (k.setP i b).pReg i = b) ∧
  (i ≠ j → (k.setS i v).sReg j = k.sReg j ∧ (k.setP i b).pReg j = k.pReg j ∧ (k.setA i a).aReg j = k.aReg j) ∧
  (∀ f < 64, ((Core.setFlag f k).getF Reg.KP_FLAGS_FLAGS).testBit f = true ∧ Core.setFlag f (Core.setFlag f k) = Core.setFlag f k ∧
    ∀ g < 64, g ≠ f → ((Core.setFlag f k).getF Reg.KP_FLAGS_FLAGS).testBit g = (k.getF Reg.KP_FLAGS_FLAGS).testBit g)

/-- R34, R35, R43-R49: the cubes run the descriptor at the head of their queue. MMA and ZERO take it when its checks pass, its tiles are clear of
earlier chains and their compute domain is on; a rejected one is recorded; each completes with its flag. -/
def Obligations.CubeRunsItsHeadDescriptor : Prop := ∀ (s : State) (c : Nat) (q : QSlot) (upsets : List Nat), c < Config.coreSites →
  let k := s.core c
  let d := decodeCube q.words
  let takes (z : Bool) : CubeRun := { slot := q, rejected := false, isZero := z }
  (k.cubeHead = some q → s.computeOn c = true → d.op ≠ 2 → d.reject k.accInt = none → k.chainsClear q.seq d.tiles = true →
    (Completes (exec (.mma c upsets) s) fun t => (t.core c).cubeQ = k.cubeQ.drop 1 ∧ (t.core c).cubeRun = some (takes false)) ∧
    (upsets = [] → k.spadUe = [] → k.spadCe = [] → exec (.mma c upsets) s =
      .next (s.updCore c fun k => { runMma d k with cubeQ := k.cubeQ.drop 1, cubeRun := some (takes false) }))) ∧
  (k.cubeHead = some q → s.computeOn c = true → d.op = 2 → d.reject k.accInt = none → k.chainsClear q.seq d.tiles = true →
    Completes (exec (.zero c) s) fun t => OnlyCore c s t ∧ (t.core c).cubeQ = k.cubeQ.drop 1 ∧ (t.core c).cubeRun = some (takes true) ∧
      ∀ tile ∈ d.tiles, (t.core c).accPoison.contains tile = false ∧ ∀ e < 64, (t.core c).accElem tile e = 0) ∧
  (∀ x, k.cubeHead = some q → s.computeOn c = true → d.reject k.accInt = some x →
    (d.op ≠ 2 → exec (.mma c upsets) s = .next (s.updCore c (Core.cubeReject q d.op x))) ∧
    (d.op = 2 → exec (.zero c) s = .next (s.updCore c (Core.cubeReject q d.op x)))) ∧
  (∀ r, k.cubeRun = some r →
    (r.rejected = false → r.isZero = false → exec (.mmaComplete c) s = .next (s.updCore c (Core.cubeDone r))) ∧
    (r.isZero = true → exec (.zeroComplete c) s = .next (s.updCore c (Core.cubeDone r))) ∧
    (r.rejected = true → exec (.cubeRejectComplete c) s = .next (s.updCore c (Core.cubeDone r))))

/-- R72, R79, R82-R87, R544: the chain unit checks a chain once it has come to the head of its queue, and records why it is refused; it starts the
chain that was accepted; it takes a beat when the tiles it reads are clear of earlier cube work; and a finished chain that is the oldest, or
shallower than those before it, emits its records with the sundial and sets its flag. -/
def Obligations.ChainUnitRunsChains : Prop := ∀ (s : State) (c : Nat) (upsets : List Nat), c < Config.coreSites →
  let k := s.core c
  let answers (i : Instr) (f : Core → Core) : Prop := exec i s = .next (s.updCore c f)
  (∀ q qs, k.chainQ = q :: qs → q.entered = true → k.chainBad = none →
    (∀ b, (decodeChain q.words).reject k.env = some b → k.chainJudge = { k.chainErr b with chainBad := some true }) ∧
    ((decodeChain q.words).reject k.env = none → k.chainJudge = { k with chainBad := some false })) ∧
  (∀ q, s.computeOn c = true → k.chainHead = some q → answers (.chainStart c) (Core.chainTake q (decodeChain q.words))) ∧
  (∀ q qs, k.chainBad = some true → k.chainQ = q :: qs →
    answers (.chainRejectComplete c) fun k => (Core.chainFlag q { k with chainQ := qs, chainBad := none }).chainJudge) ∧
  (∀ r, k.chainRun = some r → s.computeOn c = true → upsets = [] → k.spadUe = [] → k.spadCe = [] →
    let d := decodeChain r.slot.words
    k.cubesClear r.slot.seq (d.beatTiles r.beat) = true → k.outboxRoom d r.beat = true →
      answers (.chainBeat c upsets) (Core.chainBeat d r)) ∧
  (∀ n r, k.chainTail[n]? = some r → (n = 0 ∨ ∀ t ∈ (completionTimes 0 k.chainTail).take n, (completionTimes 0 k.chainTail).getD n 0 < t) →
    let time := BitVec.ofNat 64 (s.sundialOf (pavOf c))
    answers (.chainComplete c n) fun k =>
      Core.chainFlag r.slot { k with chainTail := k.chainTail.eraseIdx n, outbox := k.outbox ++ r.records.map fun w => w.take 7 ++ [time] })

/-- R109-R115, R204-R206, R213: the porter starts the descriptor at the head of its queue by its OP: rows are copied, packets offered,
bundles cut, an ARECV posted, the program store filled. A rejected or finished one retires with its flag. -/
def Obligations.PorterRunsItsHeadDescriptor : Prop := ∀ (s : State) (c : Nat) (q : QSlot), c < Config.coreSites →
  let k := s.core c
  let d := decodePort q.words
  let r : PortRun := { slot := q, op := d.op }
  let i := k.portRun.length
  let started := s.updCore c fun k => { k.pushRun r with promoted := sdel 0 k.promoted }
  let owner := (s.ownerOf c).getD 4
  let starts (op : Nat) (cmd : Instr) (t : State) : Prop :=
    k.portHead = some q → d.op = op → s.computeOn c = true → d.reject = none → exec cmd s = .next t
  ((copyRows c d d.rows 0 started).2 = true →
    starts 1 (.copy c) ((copyRows c d d.rows 0 started).1.updCore c (Core.setRun i { r with finished := true }))) ∧
  (let v := (started.core c).slot d.grant
   putCause (s.gardenSize (s.ownerOf c)) d v = none → starts 2 (.put c) (started.pumpRun c i { r with grant := v })) ∧
  (d.target < s.gardenSize (s.ownerOf c) → starts 3 (.get c) (started.pumpRun c i r)) ∧
  starts 4 (.load c) (started.pumpRun c i r) ∧ starts 5 (.store c) (started.pumpRun c i r) ∧
  (∀ slice, d.target ≤ 1023 → (s.pav (pavOf c)).sourceEntry c owner d.target = some slice → (sendRows c d d.rows 0 started []).2.1 = true →
    let rows := sendRows c d d.rows 0 started []
    let out := cutBundles d.target c true (rows.1.length / 8192 + 1) rows.1
    starts 6 (.asend c) ((rows.2.2.updCore c fun k => { k with aveOut := k.aveOut ++ out.map fun b => (slice, b) }).updCore c
      (Core.setRun i { r with toInject := out.length }))) ∧
  (d.target ≤ 1023 → ((s.pav (pavOf c)).deliveryEntry c owner d.target).isSome = true →
    starts 7 (.arecv c) (started.updCore c (Core.receive d.target []))) ∧
  (let row := started.readRow c d.src d.len 0x4008
   row.2.1 = true →
    starts 8 (.prog c) ((row.2.2.updCore c (Core.progWrite d.dst row.1)).updCore c (Core.setRun i { r with finished := true }))) ∧
  (∀ x rs, k.portRun = x :: rs →
    (x.rejected = true → exec (.porterRejectComplete c) s = .next (s.updCore c Core.retireRun)) ∧
    (x.rejected = false → x.finished = true → exec (.porterComplete c) s = .next (s.updCore c Core.retireRun)))

/-- R128-R130, R160-R166, R204-R207, R404: what a packet does at the core it reaches. The core acts on its oldest packet of a kind, whose tag
matches; `rest` is what stays in its inbox. Read data are written in the order of the packets that asked for them: what comes sooner is kept. -/
def Obligations.PacketsActAtTheirCore : Prop := ∀ (s : State) (c : Nat) (p : Packet) (rest : List Packet),
  c < Config.coreSites → s.computeOn c = true → s.pavTag (pavOf c) p.garden = p.gen →
  let k := s.core c
  let v := s.pav (pavOf c)
  let u := s.updCore c fun k => { k with inbox := rest }
  let q := leVal p.payload
  let acts (type : Nat) (cmd : Instr) (t : State) : Prop := firstOf type [] k.inbox = some (p, rest) → exec cmd s = .next t
  let w := u.updCore c fun k => { k with promoted := sdel 1 k.promoted }
  (∀ a, k.windowFor p = some a → acts 1 (.write c) (w.updCore c fun k =>
    let k := k.spadWrite a p.payload
    let k := if p.setFlag then k.setFlag p.flag else k
    if p.ord then k else k.send (p.replyTo 7 p.addr []))) ∧
  (k.windowFor p = none →
    let counted := w.updPav (pavOf c) fun v => v.incF (Reg.PV_SPAD_OUTWIN (coreIdx c)) 1
    acts 1 (.write c) (if p.ord then counted else counted.updCore c fun k => k.send { p.replyTo 8 1 [] with about := p.addr })) ∧
  (spadBytes ≥ p.addr + p.span → k.spadUe = [] → k.spadCe = [] → ∀ err, acts 2 (.read c err) (u.updCore c fun k =>
    let data := p.replyTo 3 (q % 2 ^ 23) (k.strideRead p.addr p.span)
    { k.send { data with bad := k.badAt p.addr (min p.span (spadBytes - p.addr)) } with promoted := sdel 1 k.promoted })) ∧
  (∀ i r o os,
    let x := (p.addr, p.payload.length)
    findRun k.portRun (fun r => (r.op = 3 || r.op = 4) &&
      (r.came.filter fun y => (y.1, y.2.1.length) = x).length < (r.outst.filter (· = x)).length) = some (i, r) → r.outst = o :: os →
    (o = x → r.came = [] → p.bad = none →
      acts 3 (.readData c) ((u.updCore c (Core.spadWrite p.addr p.payload)).pumpRun c i { r with outst := os })) ∧
    (o ≠ x → (∀ y ∈ r.came, (y.1, y.2.1.length) ≠ o) →
      acts 3 (.readData c) (u.pumpRun c i { r with came := r.came ++ [(p.addr, p.payload, p.bad)] }))) ∧
  acts 4 (.signal c) (u.updCore c (Core.setFlag p.flag)) ∧
  acts 5 (.creditRequest c) (u.updCore c fun k =>
    k.credit (q % 8) { src := p.src, slot := q / 2 ^ 24 % 16, len := q / 2 ^ 8 % 2 ^ 15, order := 0 }
      (q / 8 % 32 = 0 && q / 2 ^ 23 % 2 = 0 && q / 2 ^ 28 = 0)) ∧
  (let d := q / 16 % 16
   (k.slot d).state = 1 → q % 4 = 2 → acts 6 (.canswer c) (u.updCore c fun k =>
     k.setSlot d { k.slot d with state := 2, wbase := q / 2 ^ 8 % 2 ^ 15, wlen := q / 2 ^ 23 % 2 ^ 15, num := q / 2 ^ 38 % 64 })) ∧
  (∀ i r, findRun k.portRun (fun r => r.outst.any (v.acked p r)) = some (i, r) →
    acts 7 (.ack c) (u.pumpRun c i { r with outst := r.outst.eraseP (v.acked p r) })) ∧
  (∀ i r, p.addr % 16 = 2 → findRun k.portRun (fun r => r.op = 6 && r.failed = 0) = some (i, r) →
    acts 8 (.notice c) (u.failRun c i r 7)) ∧
  (∀ i r, p.addr % 16 = 1 → findRun k.portRun (fun r => r.op = 2 && r.outst.any (fun o => o.1 = p.about) &&
      mapCore v.map (decodePort r.slot.words).target = some p.src) = some (i, r) → acts 8 (.notice c) (u.failRun c i r 1))

/-- R185, R188, R190, R196, R208, R213, R216, R218, R223, R405: what a core or an endpoint offers enters at its router flit by flit, stamped, numbered or as
it is, while the queue it enters is on: a flit of a packet under way before a new one, a reply before a request, a drain marker before a
new bundle. -/
def Obligations.TrafficEntersTheFabric : Prop := ∀ (s t : State) (c : Nat),
  let k := s.core c
  let v := s.pav (pavOf c)
  (∀ r port p, let reply := replyType p.type
    let key := fqKey r port (pickSlice p ((s.pav (pavOf r)).fpInSlices r port) fun x => (s.pav (pavOf r)).fqTaken r port x reply) reply
    let sl := pickSlice p ((s.pav (pavOf r)).fpInSlices r port) fun x => (s.pav (pavOf r)).fqTaken r port x reply
    queueOn ((s.pav (pavOf r)).fqTaken r port sl reply) = true → Fm.look key (s.pav (pavOf r)).entering = none →
      ∃ t, s.enter r port p = some t ∧ (t.pav (pavOf r)).fqAt key = (s.pav (pavOf r)).fqAt key ++ [{ pkt := p }] ∧
        Fm.look key (t.pav (pavOf r)).entering = (if p.flits = 1 then none else some { pkt := p, idx := 1 })) ∧
  (∀ g, c < Config.coreSites → s.ownerOf c = some g → s.fabricOn c = true →
    (s.enterOn c 4 true = some t → exec (.injection c false) s = .next t) ∧
    (∀ p dest addr, k.out.find? (fun p => replyType p.type) = some p → s.computeOn c = true → s.enterOn c 4 true = none →
      v.resolve p = some (dest, addr) → (s.exitOf c dest).isSome = true →
      (s.updCore c fun k => { k with out := k.out.erase p }).enter c 4 (p.stamp dest addr c g (s.pavTag (pavOf c) g)) = some t →
        exec (.injection c false) s = .next t) ∧
    ((∀ p ∈ k.out, replyType p.type = false) → s.enterOn c 4 true = none →
      (s.enterOn c 4 false = some t → exec (.injection c false) s = .next t) ∧
      (∀ p ps dest addr, k.out = p :: ps → s.computeOn c = true → s.held c g = false → s.enterOn c 4 false = none →
        v.resolve p = some (dest, addr) → (s.exitOf c dest).isSome = true →
        (s.updCore c fun k => { k with out := k.out.erase p }).enter c 4 (p.stamp dest addr c g (s.pavTag (pavOf c) g)) = some t →
          exec (.injection c false) s = .next t))) ∧
  (c < Config.coreSites → s.fabricOn c = true →
    (∀ sl f, v.aveNext c 4 = some (sl, f) → exec (.injection c true) s = .next (if f.last && !f.bun.drain
      then (s.enterAve c 4 sl f).updCore c (Core.bundleSent f.bun.avenue) else s.enterAve c 4 sl f)) ∧
    (∀ sl b bs, v.aveNext c 4 = none → (∀ x ∈ [1, 2, 3], v.markers.contains (aveIdx c 4 x) = false) → k.aveOut = (sl, b) :: bs →
      let i := aveIdx c 4 sl
      let e := v.ave aveActive i
      s.computeOn c = true → s.held c e.garden = false → v.aveFree c 4 sl = true → e.valid = true → e.avenue = b.avenue →
        Completes (exec (.injection c true) s) fun t => (t.core c).aveOut = bs ∧
          ∃ f, (t.pav (pavOf c)).aqAt (aqKey c 4 sl) = v.aqAt (aqKey c 4 sl) ++ [f] ∧ f.idx = 0 ∧ f.bun.garden = e.garden ∧ f.bun.src = c ∧
            f.bun.payload = b.payload ∧ f.bun.gen = s.pavTag (pavOf c) e.garden ∧ f.bun.seq = Fm.get 0 (i * 2) v.seqs ∧
            Fm.get 0 (i * 2) (t.pav (pavOf c)).seqs = (Fm.get 0 (i * 2) v.seqs + 1) % 65536) ∧
    (∀ sl, v.aveNext c 4 = none → ([1, 2, 3].find? fun x => v.markers.contains (aveIdx c 4 x) && v.aveFree c 4 x) = some sl →
      let e := v.ave aveActive (aveIdx c 4 sl)
      e.valid = true → Completes (exec (.injection c true) s) fun t => t.cores = s.cores ∧
        (t.pav (pavOf c)).markers.contains (aveIdx c 4 sl) = false ∧ (t.pav (pavOf c)).seqs = v.seqs ∧
        ∃ f, (t.pav (pavOf c)).aqAt (aqKey c 4 sl) = v.aqAt (aqKey c 4 sl) ++ [f] ∧ f.bun.drain = true ∧ f.bun.garden = e.garden)) ∧
  (∀ p ps a, isEndpoint c = true → Fm.get [] c s.endOut = p :: ps → s.attach c = some a → replyType p.type = true → s.endGives c p = true →
    (∀ x ∈ attachRouters a, s.fabricOn x.1 = true → s.enterOn x.1 x.2 true = none) →
    let rs := edgePort a (s.placeOf p.dest).1 (s.placeOf p.dest).2
    s.fabricOn rs.1 = true → (s.exitOf c p.dest).isSome = true →
    ({ s with endOut := Fm.upd [] c (fun l => l.erase p) s.endOut }).enter rs.1 rs.2
      (p.stamp p.dest p.addr c p.garden (s.pavTag (pavOf rs.1) p.garden)) = some t → exec (.injection c false) s = .next t) ∧
  (∀ a x sl f, isEndpoint c = true → s.attach c = some a →
    ((attachRouters a).findSome? fun x => if s.fabricOn x.1 then ((s.pav (pavOf x.1)).aveNext x.1 0).map fun y => (x.1, y.1, y.2) else none) =
      some (x, sl, f) → exec (.injection c true) s = .next (s.enterAve x 0 sl f))

/-- R186, R194-R200, R209, R213-R219, R223-R225, R228, R229: a cycle at an input of a router. Across a seam the gate buffer is read at more than two
entries; the flit at the front goes one hop, into the receiving queue or the entry the sender writes, or is delivered; a bundle's goes to every
output of its entry; a damaged or stale head is discarded and counted. -/
def Obligations.RoutersMovePacketsAndBundles : Prop := ∀ (s : State) (r port sl : Nat) (reply : Bool) (err : FlitErr),
  routeFits r port sl = true →
  let u := s.gateCycle r port
  let v := u.pav (pavOf r)
  let key := fqKey r port sl reply
  (isSeam r port = false → u = s) ∧
  (∀ e es, isSeam r port = true → (s.pav (pavOf r)).gate r port = e :: es →
    (2 ≤ es.length → v.gate r port = es) ∧ (es.length < 2 → v.gate r port = e :: es ++ [({} : GateEntry)] ∧ v.fq = (s.pav (pavOf r)).fq)) ∧
  (∀ f fs, v.fqAt key = f :: fs → replyType f.pkt.type = reply → u.fabricOn r = true → (v.dropping.contains key = false ∨ f.idx = 0) →
    let p := f.pkt
    let cmd : Instr := .routePacket r port sl reply false err
    let chk := flitCheck err (f.idx = 0) ((p.hcrc ^^^ flitMask err) = p.headCrc) (u.pavTag (pavOf r) p.garden = p.gen)
    (f.idx = 0 → chk ≠ .pass → exec cmd s =
      .next (((u.countCorrected r port err).discardFq r port sl reply f).countCheck r port p.garden (0x5000 + p.type) chk)) ∧
    (∀ out lane, lane < 4 → chk = .pass → f.cut = false → u.bound r key f = some (out, lane) → u.canGo r out lane f = true →
      u.serves r out lane reply (port * 4 + sl) f = true → u.stileServes u.aveReady r out lane = true →
      (out = 4 → f.last = true → p.type ≠ 0 → p.type < 9 → Completes (exec cmd s) fun t =>
        (t.core r).inbox = (s.core r).inbox ++ [p] ∧ (t.pav (pavOf r)).fqAt key = fs) ∧
      (∀ r2, out < 4 → neighbour r out = some r2 → u.linkMarkedDown r out = false →
        (isSeam r out = false → Completes (exec cmd s) fun t => (t.pav (pavOf r)).fqAt key = fs ∧
          (t.pav (pavOf r2)).fqAt (fqKey r2 (opposite out) lane reply) = (u.pav (pavOf r2)).fqAt (fqKey r2 (opposite out) lane reply) ++ [f]) ∧
        (isSeam r out = true → Completes (exec cmd s) fun t => (t.pav (pavOf r)).fqAt key = fs ∧
          ∃ e, ((t.pav (pavOf r2)).gate r2 (opposite out)).getLast? = some e ∧ (lane, f) ∈ e.fp ∧
            (isStile r out = true → e.size ≤ 2))))) ∧
  (∀ f fs, v.aqAt (aqKey r port sl) = f :: fs → u.fabricOn r = true → (v.aveDropping.contains (aqKey r port sl) = false ∨ f.idx = 0) →
    let b := f.bun
    let e := v.ave aveActive (aveIdx r port sl)
    let cmds : List Instr := if e.valid && e.goesTo 4 then [if b.drain then .drainMarker r port sl err else .avenueBundle r port sl err]
      else [.routePacket r port sl reply true err, if b.drain then .drainMarker r port sl err else .avenueBundle r port sl err]
    let chk := flitCheck err (f.idx = 0) ((b.hcrc ^^^ flitMask err) = b.headCrc) (u.pavTag (pavOf r) b.garden = b.gen)
    let outs := (List.range 5).filter e.goesTo
    ∀ cmd ∈ cmds, (f.idx = 0 → chk ≠ .pass →
        exec cmd s = .next (((u.countCorrected r port err).discardAq r port sl f).countCheck r port b.garden 0 chk)) ∧
      (chk = .pass → e.valid = true → outs.all (fun o => u.branchOn r e f o && (4 ≤ o || u.stileServes u.aveReady r o (e.sliceOn o))) = true →
        exec cmd s = .next (outs.foldl (State.branch r port sl e f) ((u.countCorrected r port err).popAq r port sl))))

/-- R134, R157, R223, R224, R230, R446, R447, R557: bell releases, ranks, a quiet fabric, drain marks, links that go down and come up. -/
def Obligations.FabricEvents : Prop := ∀ (s : State),
  (∀ g b c, g < 4 → b < 16 → c < Config.coreSites → let id := g * 16 + b
    (s.bellRel.contains (id, c) = true → (s.pav (pavOf c)).testing c = false →
      exec (.bellRelease g b c) s = .next ({ s with bellRel := s.bellRel.erase (id, c) }.updCore c (Core.release b))) ∧
    (s.bellRel.contains (id, c) = true → (s.pav (pavOf c)).testing c = true → (s.pav (pavOf c)).queued.contains (c, 64 + b) = false →
      exec (.bellRelease g b c) s = .next (s.updPav (pavOf c) fun v => { v with queued := v.queued ++ [(c, 64 + b)] })) ∧
    (let ms := s.bellMembers g b
     c ∈ ms → (∀ d ∈ ms, (s.core d).arrived b = true) → (∀ e ∈ s.bellRel, e.1 ≠ id) → (s.pav (pavOf c)).testing c = false →
      exec (.bellRelease g b c) s = .next ({ s with bellRel := (s.bellRel ++ ms.map fun d => (id, d)).erase (id, c) }.updCore c (Core.release b)))) ∧
  (∀ c remote, c < Config.coreSites → s.computeOn c = true → (s.core c).requests remote = true → exec (.starvationPromote c remote) s =
    .next (s.updCore c fun k => { k with promoted := sins (if remote then 1 else 0) k.promoted })) ∧
  (∀ p g, p < Config.pavilions → g < 4 → (s.pav p).holdsFlit g = false →
    ((s.pav p).owner ≠ some g ∨ (coresOf p).any s.awaitsReply = false) →
    Completes (exec (.fpQuiet p g) s) fun t => OnlyPav p s t ∧ ((t.pav p).getF Reg.PV_FAB_STATUS_FPQUIET).testBit g = true) ∧
  (∀ p g, p < Config.pavilions → g < 4 → (s.pav p).holdsFlit g = true → exec (.fpQuiet p g) s = .next s) ∧
  (∀ p mask, p < Config.pavilions → Completes (exec (.pvFabArm p mask) s) fun t => OnlyPav p s t ∧
    ∀ x ∈ pavEntries p, let e := (s.pav p).ave aveActive (aveIdx x.1 x.2.1 x.2.2)
      e.valid = true → e.goesTo 4 = true → mask.testBit e.garden = true → ((t.pav p).ave aveActive (aveIdx x.1 x.2.1 x.2.2)).drained = false) ∧
  (∀ p mask, p < Config.pavilions → Completes (exec (.pvFabMark p mask) s) fun t => OnlyPav p s t ∧
    ∀ r ∈ coresOf p, ∀ sl ∈ [1, 2, 3], let e := (s.pav p).ave aveActive (aveIdx r 4 sl)
      e.valid = true → mask.testBit e.garden = true → aveIdx r 4 sl ∈ (t.pav p).markers) ∧
  (∀ r side r2, r < Config.coreSites → side < 4 → neighbour r side = some r2 → pavOf r2 ≠ pavOf r →
    (s.fabricOn r2 = false → exec (.linkDown r side) s = .next (s.markDown r side)) ∧
    (s.fabricOn r2 = true → s.fabricOn r = true → s.linkUp r side = false →
      let key := coreIdx r * 4 + side
      (∀ lo hi, 3 ≤ lo → hi ≤ 5 → exec (.gateBufferAlign r side lo hi) s = .next ((s.setUp r side true).updPav (pavOf r) fun v =>
        { v.incF Reg.PV_CLK_CNT_REALIGN 1 with downLinks := sdel key v.downLinks, alignFails := Fm.del key v.alignFails })) ∧
      (∀ lo hi, lo < 3 ∨ 5 < hi → Fm.get 0 key (s.pav (pavOf r)).alignFails < 7 →
        exec (.gateBufferAlign r side lo hi) s = .next (s.updPav (pavOf r) fun v =>
          { v with alignFails := Fm.set 0 key (Fm.get 0 key (s.pav (pavOf r)).alignFails + 1) v.alignFails }))))

/-- R172-R181, R536: scrubbing, write-backs, zeroing and spare lines of the scratchpads. -/
def Obligations.ScratchpadUpkeep : Prop := ∀ (s : State),
  (∀ c ce ue, c < Config.coreSites → s.scrubs c = true → (s.core c).scrubbed ≠ s.scrubPeriod c + 1 → Completes (exec (.scrubPass c ce ue) s) fun t =>
    (t.core c).spad = (s.core c).spad ∧ (t.core c).scrubbed = s.scrubPeriod c + 1 ∧ ∀ w < spadBytes / 8,
      (w ∈ ue → w ∈ (t.core c).spadUe) ∧ (w ∈ (s.core c).spadUe → w ∈ (t.core c).spadUe) ∧
      (w ∈ ce → w ∉ ue → w ∉ (s.core c).spadUe → w ∈ (t.core c).spadWb ∧ w ∈ (t.core c).spadCe)) ∧
  (∀ c ce ue, c < Config.coreSites → (s.scrubs c = false ∨ (s.core c).scrubbed = s.scrubPeriod c + 1) → exec (.scrubPass c ce ue) s = .next s) ∧
  (∀ c w, c < Config.coreSites → s.computeOn c = true → w ∈ (s.core c).spadWb →
    exec (.correctedWriteBack c w) s = .next (s.updCore c fun k => { k with spadWb := sdel w k.spadWb, spadCe := sdel w k.spadCe })) ∧
  (∀ p, p < Config.pavilions → (s.pav p).getF Reg.PV_SPAD_CTL_BUSY = 0 → (∀ c ∈ coresOf p, (s.core c).getF Reg.KP_CTRL_RUN ≠ 1) →
    Completes (exec (.pvSpadZero p) s) fun t => OnlyPav p s t ∧ (t.pav p).getF Reg.PV_SPAD_CTL_BUSY = 1) ∧
  (∀ p, p < Config.pavilions → (s.pav p).getF Reg.PV_SPAD_CTL_BUSY = 1 → (s.pav p).getF Reg.PV_REG_STATUS_ON = 1 →
    Completes (exec (.zeroingComplete p) s) fun t => (t.pav p).getF Reg.PV_SPAD_CTL_BUSY = 0 ∧
      (∀ c ∈ coresOf p, (t.core c).spad = [] ∧ (t.core c).spadUe = [] ∧ (t.core c).pstore = [] ∧ (t.core c).pstoreBad = []) ∧
      ∀ c, c ∉ coresOf p → t.core c = s.core c) ∧
  (∀ c bank line, c < Config.coreSites → s.computeOn c = true → (s.core c).spadCopying.contains (bank * 6144 + line) = true →
    let fixed : Repair := { type := 2, source := 1, unit := c, a := bank + line * 2 ^ 5 + (s.core c).spareLines bank * 2 ^ 18, b := 0 }
    Completes (exec (.lineRedirect c bank line) s) fun t => (t.core c).spad = (s.core c).spad ∧
      bank * 6144 + line ∈ (t.core c).spadRedir ∧ bank * 6144 + line ∉ (t.core c).spadCopying ∧
      t.ice.repairs = s.ice.repairs ++ [fixed])

/-- R235, R242, R244, R261, R270: packets at an orangery, whatever errors its memory meets (`err`). A READ is answered with the slow tier's bytes; a DEVWRITE
is written under its arena's rules (`gardenWrite`) and acknowledged; what is outside every arena, or in one that is not preparing to commit, reads back
as written, and a late write changes nothing. -/
def Obligations.OrangeryAnswersPackets : Prop := ∀ (s : State) (o : Nat) (p : Packet) (ps : List Packet) (err : MemErr),
  Config.orangeryPresent o = true → (s.orang o).inbox = p :: ps → (s.orang o).channelHeld (localOf p.addr) p.span = false →
  s.endTag (codeOra o) p.garden = p.gen →
  let met := s.meets o err
  let u := met.updOra o fun v => { v with inbox := ps }
  (p.type = 9 → p.addr + p.payload.length ≤ Config.slowBytes → exec (.devwrite o err) s =
    .next (((u.mergeReads o p.garden p.addr p.payload.length).gardenWrite o p.garden p.addr p.payload).sendEnd (codeOra o) (p.replyTo 7 p.addr []))) ∧
  (p.type = 2 → p.addr + p.span ≤ Config.slowBytes → Completes (exec (.read (codeOra o) err) s) fun t => t.slow = met.slow ∧
    Fm.get [] (codeOra o) t.endOut = Fm.get [] (codeOra o) s.endOut ++
      [{ p.replyTo 3 (leVal p.payload % 2 ^ 23) (met.slowRead p.addr p.span) with src := codeOra o }]) ∧
  (err.blocks = [] → met.slow = s.slow) ∧
  ∀ g a bs, (((s.orang o).inArena g a = false ∨ (s.orang o).eng g ≤ engCollect) →
      (s.gardenWrite o g a bs).slowRead a bs.length = bs ∧
      ∀ b, (b < a ∨ a + bs.length ≤ b) → Fm.get 0 b (s.gardenWrite o g a bs).slow = Fm.get 0 b s.slow) ∧
    ((s.orang o).inArena g a = true → engPreparing ≤ (s.orang o).eng g → (s.orang o).eng g ≤ engCommitting →
      (s.gardenWrite o g a bs).slow = s.slow ∧
      Fm.get 0 g ((s.gardenWrite o g a bs).orang o).lateSince = Fm.get 0 g (s.orang o).lateSince + 1)

/-- R257, R262, R265-R273, R278: the update engine's commands. Each is taken in its states, and refused with CMD_ERR in the others. -/
def Obligations.UpdateEngineCommands : Prop := ∀ (s : State) (o g : Nat), Config.orangeryPresent o = true → g < 4 →
  let v := s.orang o
  let e := v.eng g
  let answers (cmd : Instr) (f : Ora → Ora) : Prop := exec cmd s = .next (s.updOra o f)
  (e = engNone → v.planOk g = true → answers (.arm o g) fun v => { (v.setEng g engNorm).firstLayer g with lateSince := Fm.del g v.lateSince }) ∧
  (e = engNone → v.planOk g = false → answers (.arm o g) fun v => v.setF Reg.OR_ENG_STATUS_PLANERR 1) ∧
  (e = engCollect → answers (.prepare o g) (Ora.setEng g engPreparing)) ∧
  (∀ scale, e = engPrepared → answers (.commit o g scale) fun v =>
    { (v.setEng g engCommitting).firstLayer g with scale := Fm.set 0 g scale v.scale, lateSince := Fm.del g v.lateSince }) ∧
  (e = engCollect ∨ e = engPrepared ∨ e = engRefused → answers (.discard o g) (Ora.discard o g)) ∧
  (e ≠ engNone → e ≠ engNorm → e ≠ engCommitting → answers (.disarm o g) (Ora.setEng g engNone)) ∧
  (e = engCommitting → answers (.disarm o g) fun v => { v with deferDisarm := sins g v.deferDisarm }) ∧
  (e ≠ engNone → answers (.arm o g) Ora.cmdErr) ∧ (e ≠ engCollect → answers (.prepare o g) Ora.cmdErr) ∧
  (∀ scale, e ≠ engPrepared → answers (.commit o g scale) Ora.cmdErr) ∧
  (e ≠ engCollect → e ≠ engPrepared → e ≠ engRefused → answers (.discard o g) Ora.cmdErr) ∧
  (e = engNone ∨ e = engNorm → answers (.disarm o g) Ora.cmdErr) ∧
  (∀ value, (e = engNone → answers (.orArena o g value) fun v => { v with regs := busWrite .ora (0x60 + 8 * g) value v.regs }) ∧
    (e ≠ engNone → answers (.orArena o g value) Ora.cmdErr)) ∧
  (∀ layer w value, layer < 65536 → w < 8 →
    (v.layerWritable layer w value = true →
      answers (.orLayerWord o layer w value) fun v => { v with regs := setReg .ora (layerOff layer w) value v.regs }) ∧
    (v.layerWritable layer w value = false → answers (.orLayerWord o layer w value) Ora.cmdErr))

/-- R250-R257, R262, R268-R273: the engine's passes end, whatever errors its memory meets. Arming leaves every granule sum and the engine in COLLECT;
preparing leaves it PREPARED, or REFUSED where a sign block is partial or a write came late; a commit leaves it in COLLECT, in FAULT where an internal
error broke it off, or disarmed where that was asked. -/
def Obligations.UpdateEnginePasses : Prop := ∀ (s : State) (o g : Nat) (err : MemErr), Config.orangeryPresent o = true → g < 4 →
  let u := s.meets o err
  let v := u.orang o
  (v.eng g = engNorm → v.lost = false → Completes (exec (.normPassEnd o g err) s) fun t =>
    t = ((v.layersOf g).foldl (State.normLayer o) u).updOra o (Ora.toCollect o g) ∧ (t.orang o).eng g = engCollect) ∧
  (v.eng g = engPreparing → v.lost = false → Completes (exec (.preparePassEnd o g err) s) fun t => t.slow = u.slow ∧ t.cores = s.cores ∧
    (t.orang o).eng g = (if v.partials o g = 0 ∧ Fm.get 0 g v.lateSince = 0 then engPrepared else engRefused)) ∧
  (∀ broken, v.eng g = engCommitting →
    let p := (v.layersOf g).foldl (State.commitLayer o) { s := u, left := broken }
    Completes (exec (.commitEnd o g err broken) s) fun t => t.pending = s.pending ∧ (Fm.wf 0 s.slow = true → Fm.wf 0 t.slow = true) ∧
      (p.broken = false → t = p.s.updOra o fun v => (v.toCollect o g).endCommit g) ∧
      (p.broken = true → t = (p.s.engineIncident o g).updOra o fun v => (v.setEng g engFault).endCommit g) ∧
      (t.orang o).eng g = (if v.deferDisarm.contains g then engNone else if p.broken then engFault else engCollect)) ∧
  (v.eng g ≠ engNorm → exec (.normPassEnd o g err) s = .next u) ∧ (v.eng g ≠ engPreparing → exec (.preparePassEnd o g err) s = .next u) ∧
  (∀ broken, v.eng g ≠ engCommitting → exec (.commitEnd o g err broken) s = .next u)

/-- R237-R239, R242-R249: an orangery's channels, scrubbing, rows and link. -/
def Obligations.OrangeryUpkeep : Prop := ∀ (s : State) (o : Nat), Config.orangeryPresent o = true →
  let v := s.orang o
  (v.getF Reg.OR_MEM_STATUS_TRAINED = 1 → v.held = none → v.early = [] → v.checkDue s.round = true →
    Completes (exec (.channelCheck o .begins) s) fun t => OnlyOra o s t ∧ (t.orang o).nextCh = (v.nextCh + 1) % 16 ∧
      (t.orang o).held = some v.nextCh ∧ (t.orang o).checked = s.round + 1 ∧ (t.orang o).getF Reg.OR_MEM_STATUS_HELD = (v.nextCh + 1) % 16) ∧
  (v.retraining = false → Completes (exec (.channelCheck o .steady) s) fun t => OnlyOra o s t ∧ (t.orang o).held = none ∧
    (t.orang o).getF Reg.OR_MEM_STATUS_HELD = 0) ∧
  (v.held ≠ none → v.retraining = false → Completes (exec (.channelCheck o .drifted) s) fun t => OnlyOra o s t ∧ (t.orang o).held = v.held ∧
    (t.orang o).retraining = true) ∧
  (v.retraining = true → Completes (exec (.channelRetrainEnd o) s) fun t => OnlyOra o s t ∧ (t.orang o).held = none ∧
    (t.orang o).retraining = false ∧ (t.orang o).getF Reg.OR_MEM_STATUS_HELD = 0) ∧
  (∀ err, v.getF Reg.OR_MEM_CTL_SCRUBEN = 1 → v.getF Reg.OR_MEM_STATUS_TRAINED = 1 → v.scrubbed ≠ v.scrubPeriod s.now + 1 →
    Completes (exec (.memoryScrub o err) s) fun t => t.slow = (s.meets o err).slow ∧ (t.orang o).scrubbed = v.scrubPeriod s.now + 1 ∧
      (∀ b ∈ v.poison, b ∈ (t.orang o).poison) ∧ (∀ b ∈ v.bad, b ∈ (t.orang o).poison) ∧
      ∀ e, err.blocks = [e] → e.real = true → e.block ∉ v.poison → e.block ∉ v.bad →
        (e.correctable = true → e.block ∈ (t.orang o).wb ∧ t.slow = s.slow) ∧ (e.correctable = false → e.block ∈ (t.orang o).poison)) ∧
  (∀ b, b ∈ v.wb → exec (.blockWriteBack o b) s = .next (s.updOra o fun v => { v with wb := sdel b v.wb, ce := sdel b v.ce })) ∧
  (∀ row, (3 ≤ Fm.get 0 row v.rowScrub ∨ v.rowBad.contains row = true) → v.getF Reg.OR_MEM_STATUS_RETIRED < spareRows →
    let fixed : Repair := { type := 6, source := 1, unit := o, a := row, b := v.getF Reg.OR_MEM_STATUS_RETIRED }
    Completes (exec (.rowRetire o row) s) fun t => Fm.get 0 row (t.orang o).rowRetired = v.getF Reg.OR_MEM_STATUS_RETIRED + 1 ∧
      t.metRepairs = s.metRepairs ++ [fixed]) ∧
  (∀ m, m < 2 →
    (v.getF (rateF m) = 1 ∨ v.getF (rateF m) = 2 → Completes (exec (.ucieRetrain o m none) s) fun t => OnlyOra o s t ∧
      (t.orang o).getF (rateF m) = 3) ∧
    (∀ slow half : Bool, ∀ rep, v.getF (rateF m) = 3 → rep ≤ 4 → Completes (exec (.ucieRetrain o m (some (.trained slow half rep))) s) fun t =>
      OnlyOra o s t ∧ (t.orang o).getF (rateF m) = (if slow then 1 else 2) ∧ (t.orang o).getF (halfF m) = (if half then 1 else 0) ∧
      (t.orang o).getF (repF m) = rep) ∧
    (v.getF (rateF m) ≠ 0 → v.getF (rateF (1 - m)) ≠ 0 →
      Completes (exec (.ucieModuleDown o m) s) fun t => OnlyOra o s t ∧ (t.orang o).getF (rateF m) = 0) ∧
    (v.getF (rateF m) = 3 → v.getF (rateF (1 - m)) ≠ 0 →
      Completes (exec (.ucieRetrain o m (some .failed)) s) fun t => OnlyOra o s t ∧ (t.orang o).getF (rateF m) = 0) ∧
    (v.getF (rateF m) ≠ 0 → v.getF (rateF (1 - m)) = 0 → Completes (exec (.ucieModuleDown o m) s) fun t =>
      (t.orang o).getF Reg.OR_STATUS_FAULT = 1 ∧ (t.orang o).getF Reg.OR_STATUS_READY = 0 ∧ (t.orang o).inbox = [] ∧
      Fm.get [] (codeOra o) t.endOut = []))

/-- R470, R490, R492-R496: an accepted alert holds every compute domain at the lowest state until 500 µs after its last source has gone; the
cap is halved for each second it holds; the cap loop moves the index in force by the means of its two windows; a failed converter lowers the cap. -/
def Obligations.AlertsAndTheCapHoldPowerDown : Prop := ∀ (s : State),
  let src := getF Reg.PW_STATUS_ALERTSRC s.pw
  let cap := getF Reg.PW_CAP_CAP s.pw
  let idx := getF Reg.PW_STATUS_CAPIDX s.pw
  let held (t : State) : Prop := t.alertHold = true ∧ t.power.holdCount = false ∧ ∀ p < Config.pavilions, t.pav p = (s.pav p).reindex true
  (∀ n unit nanos, alertFits n unit = true → 50 ≤ nanos → s.power.stopped = false → Completes (exec (.alertAssert n unit nanos) s) fun t =>
    held t ∧ getF Reg.PW_STATUS_ALERTSRC t.pw = src ||| 2 ^ n ∧
      { t with pavs := s.pavs, pw := s.pw, power := s.power, pins := s.pins } = s) ∧
  (∀ n unit nanos, alertFits n unit = true → n ≠ 0 → nanos < 50 → exec (.alertAssert n unit nanos) s = .next s) ∧
  (∀ watts micros, (20000 < watts ∧ 1 ≤ micros ∨ 16000 < watts ∧ 10000 ≤ micros) → s.power.stopped = false →
    Completes (exec (.fastLimiter watts micros) s) fun t => held t ∧ getF Reg.PW_STATUS_ALERTSRC t.pw = src ||| 16) ∧
  (∀ n unit, alertFits n unit = true →
    let last : Prop := (n = 1 → ∀ m < 24, m ≠ unit → getF (Reg.PW_CONV_ALERT m) s.pw = 0) ∧ (n = 2 → ∀ m ∈ s.power.alerting, m = unit)
    Completes (exec (.alertSourceRelease n unit) s) fun t => t.alertHold = s.alertHold ∧ { t with pw := s.pw, power := s.power, pins := s.pins } = s ∧
      (last → getF Reg.PW_STATUS_ALERTSRC t.pw = clearBit src n ∧
        t.power.holdCount = (s.power.holdCount || s.alertHold && decide (clearBit src n = 0)) ∧
        (s.power.holdCount = false → s.alertHold = true → clearBit src n = 0 → t.power.releasedAt = s.now)) ∧
      (¬ last → getF Reg.PW_STATUS_ALERTSRC t.pw = src ∧ t.power.holdCount = s.power.holdCount)) ∧
  (s.alertHold = true → s.power.holdCount = true → s.power.releasedAt + 500 * ticksPerUs ≤ s.now → s.start.running = false →
    Completes (exec .alertHoldEnd s) fun t =>
      t.alertHold = false ∧ (∀ p < Config.pavilions, t.pav p = (s.pav p).reindex false) ∧ t.power.halvings = 0 ∧
        { t with pavs := s.pavs, pw := s.pw, power := s.power, gardens := s.gardens } = s) ∧
  (s.alertHold = true → s.power.heldFrom + (s.power.halvings + 1) * ticksPerSec ≤ s.now →
    Completes (exec .capHalving s) fun t => t.power.halvings = s.power.halvings + 1 ∧
      ∃ j, t.post.jobs = s.post.jobs ++ [j] ∧ j.kind = .capHalve ∧ j.changes = [.capWindows (max 5000 (cap / 2)) 0 0 (some true)]) ∧
  (∀ mean, s.power.stopped = false → s.power.looped ≠ s.round + 1 → s.hasJob .capStep = false → s.alertHold = false → 105 * cap < 100 * mean → idx < 7 →
    Completes (exec (.capLoop mean) s) fun t => t.power.looped = s.round + 1 ∧
      ∃ j, t.post.jobs = s.post.jobs ++ [j] ∧ j.kind = .capStep ∧ j.changes = [.capIndex (idx + 1)]) ∧
  (∀ n, n < 24 → getF (Reg.PW_CONV_OK n) s.pw = 1 → Completes (exec (.converterFail n) s) fun t =>
    getF (Reg.PW_CONV_OK n) t.pw = 0 ∧ getF (Reg.PW_CONV_FAULT n) t.pw = 1 ∧
    (1 ≤ getF Reg.PW_STATUS_CONVOK s.pw → getF Reg.PW_STATUS_CONVOK t.pw = getF Reg.PW_STATUS_CONVOK s.pw - 1))

/-- R472, R500, R627, R630: the busbar. After 10 µs below 40 V an alert, below 36 V or above 62 V the loss of module power, which keeps the icehouse's
areas, the waiting commands and what has gone out; beyond its ratings nothing is defined. -/
def Obligations.TheBusbarHasItsBands : Prop := ∀ (s : State) (mv : Int) (micros : Nat),
  let lost (t : State) : Prop := t.power = State.reset.power ∧ t.pins.pgood = false ∧ t.slow = [] ∧ t.cores = [] ∧ t.gardens = [] ∧
    t.ice.config = s.ice.config ∧ t.ice.repairs = s.storedRecords.1 ∧ t.ice.incidents = s.ice.incidents ∧
    (∀ c ∈ s.ice.checkpoints, c.complete = true → c ∈ t.ice.checkpoints) ∧ t.nextIncident = s.nextIncident ∧ t.pending = s.pending
  (-1000 ≤ mv → mv < 36000 → 10 ≤ micros → Completes (exec (.busbarCollapse mv micros) s) lost) ∧
  (62000 < mv → mv ≤ 72000 → 10 ≤ micros → (mv ≤ 64000 ∨ micros ≤ 1000) → Completes (exec (.busbarOvervoltage mv micros) s) lost) ∧
  (-1000 ≤ mv → mv < 40000 → 10 ≤ micros → s.power.stopped = false → Completes (exec (.busbarUndervoltage mv micros) s) fun t =>
    t.alertHold = true ∧ getF Reg.PW_STATUS_ALERTSRC t.pw = getF Reg.PW_STATUS_ALERTSRC s.pw ||| 8) ∧
  (36000 ≤ mv → mv ≤ 62000 → exec (.busbarCollapse mv micros) s = .next s ∧ exec (.busbarOvervoltage mv micros) s = .next s) ∧
  (-1000 ≤ mv → mv ≤ 72000 → micros < 10 → exec (.busbarCollapse mv micros) s = .next s ∧ exec (.busbarOvervoltage mv micros) s = .next s ∧
    exec (.busbarUndervoltage mv micros) s = .next s) ∧
  (60000 < mv → mv ≤ 62000 → s.power.stopped = false → (∀ t ∈ s.highSince, t + ticksPerMin ≤ s.now) →
    exec (.busbarHigh mv) s = .next { s.reportAt 0x30 0 0 none with highSince := some s.now }) ∧
  (64000 < mv → 1000 < micros → exec (.busbarOvervoltage mv micros) s = .fault .absoluteMaximum) ∧
  (mv < -1000 ∨ 72000 < mv → ∀ c ∈ [Instr.busbarUndervoltage mv micros, .busbarCollapse mv micros, .busbarOvervoltage mv micros, .busbarHigh mv],
    exec c s = .fault .absoluteMaximum)

/-- R478-R487: compute domains. A lost phase is latched off and slows its domain, three switch it off; a shorted plot or a lost regulator makes
its thoroughfares dark; a domain is switched on core by core at the lowest state, and leaves it when its 64 cores are on. -/
def Obligations.DomainsLosePowerAndGetIt : Prop := ∀ (s : State) (p : Nat), p < Config.pavilions →
  let v := s.pav p
  let q := plotOf p
  let lost := v.getF Reg.PV_REG_STATUS_LOST + 1
  let phaseOk := v.getF Reg.PV_REG_STATUS_PHASEOK
  (∀ n, n < 8 → phaseOk.testBit n = true → lost < 3 → Completes (exec (.phaseFault p n) s) fun t =>
    (t.pav p).getF Reg.PV_REG_STATUS_PHASEOK = clearBit phaseOk n ∧ (t.pav p).getF Reg.PV_REG_STATUS_LOST = lost ∧
    (t.pav p).getF Reg.PV_REG_STATUS_PHASEIDX = lost ∧ (∀ d, d ≠ p → t.pav d = s.pav d) ∧ t.cores = s.cores ∧ t.slow = s.slow) ∧
  (∀ n, n < 8 → phaseOk.testBit n = true → 3 ≤ lost → v.getF Reg.PV_REG_STATUS_ON = 1 →
    Completes (exec (.phaseFault p n) s) fun t => (t.pav p).getF Reg.PV_REG_STATUS_ON = 0 ∧ t.slow = s.slow) ∧
  (∀ n, n < 36 → getF (Reg.PW_PLOT_ON n) s.pw = 1 → Completes (exec (.plotShort n) s) fun t =>
    getF (Reg.PW_PLOT_ON n) t.pw = 0 ∧ getF (Reg.PW_PLOT_SHORT n) t.pw = 1 ∧
    ∀ d ∈ plotPavs n, (t.pav d).dark = true ∧ (t.pav d).getF Reg.PV_REG_STATUS_ON = 0) ∧
  (v.getF Reg.PV_REG_STATUS_THOK = 1 → Completes (exec (.thoroughfareRegulatorFault p) s) fun t =>
    (t.pav p).dark = true ∧ (t.pav p).getF Reg.PV_REG_STATUS_THOK = 0 ∧ (∀ c, pavOf c = p → c < Config.coreSites → (t.core c).spad = []) ∧
    t.slow = s.slow) ∧
  (v.mayPower = true → s.pins.thermTrip = false →
    (v.switchingOff = false → exec (.domainPowerOn p) s = .next (s.startPowerOn p)) ∧
    (v.switchingOff = true → exec (.domainPowerOn p) s = .next (s.updPav p fun v => { v with powerOnWait := true }))) ∧
  (∀ amps, v.powering = true → (∀ d ∈ plotPavs q, d < p → (s.pav d).powering = false) → s.alertHold = false →
    v.getF Reg.PV_REG_STATUS_CORESON < 64 → amps < 315 → Completes (exec (.coreSwitchOn p amps) s) fun t =>
      (t.pav p).getF Reg.PV_REG_STATUS_CORESON = v.getF Reg.PV_REG_STATUS_CORESON + 1 ∧ (∀ d, d ≠ p → t.pav d = s.pav d) ∧ t.cores = s.cores) ∧
  (∀ micros, v.powering = true → s.alertHold = false → 10000 ≤ micros →
    exec (.halfSlope p micros) s = .next (s.setPw (Reg.PW_PLOT_HALF q) 1)) ∧
  (v.powering = true → v.sdLag.natAbs ≤ 1 → v.getF Reg.PV_REG_STATUS_CORESON = 64 → Completes (exec (.domainOnComplete p) s) fun t =>
    (t.pav p).getF Reg.PV_REG_STATUS_ON = 1 ∧ (t.pav p).getF Reg.PV_REG_STATUS_POWERING = 0 ∧ getF (Reg.PW_PLOT_HALF q) t.pw = 0 ∧
    t.slow = s.slow) ∧
  (v.getF Reg.PV_REG_STATUS_ON = 1 → Completes (exec (.domainSwitchOff p) s) fun t =>
    (t.pav p).getF Reg.PV_REG_STATUS_ON = 0 ∧ (t.pav p).switchingOff = true ∧ (∀ d, d ≠ p → t.pav d = s.pav d) ∧
    ∀ c, pavOf c = p → c < Config.coreSites → (t.core c).spad = (s.core c).spad ∧ (t.core c).getF Reg.KP_CTRL_RUN = 0) ∧
  (v.switchingOff = true → v.powerOnWait = false →
    exec (.switchOffComplete p) s = .next (s.updPav p fun v => { v with switchingOff := false })) ∧
  (∀ idx, v.pendingIdx = some idx → idx < 8 → Completes (exec (.outputWithinVset p) s) fun t => OnlyPav p s t ∧
    (t.pav p).getF Reg.PV_CLK_STATUS_DIV = idx ∧ (t.pav p).pendingIdx = none)

/-- R240, R242, R486, R497-R501: sensors and heat. A sample is recorded; at 105 °C a compute domain goes to the lowest state, above 115 °C it is switched
off, at 125 °C (110 °C for memory) the module trips; a round at or above T_HOT adds a step of heat, sixteen below it take one away. -/
def Obligations.SensorsAndHeatSlowTheModule : Prop := ∀ (s : State) (p : Nat), p < Config.pavilions →
  let v := s.pav p
  let h := v.getF Reg.PV_REG_STATUS_HEATIDX
  (s.power.stopped = false →
    (∀ t, -128 ≤ t → t < 105 → Completes (exec (.sensorSample (.compute p t)) s) fun u =>
      ofTemp8 ((u.pav p).getF Reg.PV_THERM_TJ) = t ∧ (∀ d, d ≠ p → u.pav d = s.pav d) ∧ u.cores = s.cores ∧ u.slow = s.slow ∧
      ((u.pav p).hotSince = if (v.tHot : Int) ≤ t then some (v.hotSince.getD s.now) else none)) ∧
    (∀ t, 125 ≤ t → t < 128 → Completes (exec (.sensorSample (.compute p t)) s) fun u => u.pins.thermTrip = true ∧
      (u.pav p).getF Reg.PV_REG_STATUS_ON = 0) ∧
    (∀ mv, exec (.sensorSample (.voltage p mv)) s = .next (s.updPav p fun v => v.setF Reg.PV_REG_STATUS_VOUT mv)) ∧
    (∀ a b w, w < 2 ^ 16 → Completes (exec (.sensorSample (.busbar a b w)) s) fun u =>
      getF Reg.PW_INPUT_POWER u.pw = w ∧ { u with pw := s.pw } = s)) ∧
  (∀ t, v.hotSince = some t → t + 65536 ≤ s.now → h < 7 → Completes (exec (.heatContributionRise p) s) fun u =>
    (u.pav p).getF Reg.PV_REG_STATUS_HEATIDX = h + 1 ∧ (u.pav p).hotSince = some s.now ∧ OnlyPav p s u) ∧
  (∀ t, v.coolSince = some t → t + 16 * 65536 ≤ s.now → 0 < h → Completes (exec (.heatContributionFall p) s) fun u =>
    (u.pav p).getF Reg.PV_REG_STATUS_HEATIDX = h - 1 ∧ (u.pav p).coolSince = some s.now ∧ OnlyPav p s u) ∧
  (v.hotSince = none → exec (.heatContributionRise p) s = .next s) ∧ (v.coolSince = none → exec (.heatContributionFall p) s = .next s) ∧
  (∀ o temps, Config.orangeryPresent o = true → temps.length = 32 → Completes (exec (.mr4Read o temps) s) fun u =>
    (u.orang o).dieTemp = temps ∧ u.slow = s.slow ∧
    let top := temps.foldl max (temps.headD 0)
    (u.orang o).limit = (if 105 < top then 2 else if 95 < top then 1 else 0) ∧ (110 < top → u.pins.thermTrip = true) ∧
    ∀ ch < 16, 10 ≤ (max (temps.getD (2 * ch) 0) (temps.getD (2 * ch + 1) 0) - (s.orang o).chTemp.getD ch 0).natAbs →
      ∃ r, (ch, r) ∈ (u.orang o).early)

/-- R324, R346-R348: a channel's own registers. A word is appended, a letter posted into one of eight slots, one being formed dropped; the oldest
receipt is read 8 B at a time and taken; a reset discards what waits. A window that does not answer leaves everything as it is. -/
def Obligations.TheWindowFormsAndTakesLetters : Prop := ∀ (s : State) (ch : Nat), ch < 64 →
  let c := s.chan ch
  let gives (cmd : Instr) (l : Chan) : Prop := Completes (exec cmd s) fun t => OnlyChan ch s t ∧ t.chan ch = l
  (ownWindow s ch = true →
    (∀ w, c.forming.length < 512 → gives (.pmMbxIn ch w) { c with forming := c.forming ++ [w] }) ∧
    (∀ w, 512 ≤ c.forming.length → gives (.pmMbxIn ch w) (c.setF Reg.PM_MBX_STATUS_OVERRUN 1)) ∧
    (c.inSlots.length < 8 →
      gives (.post ch) { c with inSlots := c.inSlots ++ [letterOf (wordsBytes c.forming) c.forming.length], forming := [] }) ∧
    (8 ≤ c.inSlots.length → gives (.post ch) (c.setF Reg.PM_MBX_STATUS_INFULL 1)) ∧
    gives (.abort ch) { c with forming := [] } ∧
    (∀ r rs, c.outSlots = r :: rs → 8 * c.outPos < r.bytes.length →
      gives (.pmMbxOut ch) { c with outPos := c.outPos + 1 } ∧
      (s.readOut ch).1 = BitVec.ofNat 64 (leVal ((r.bytes.drop (8 * c.outPos)).take 8))) ∧
    (∀ r rs, c.outSlots = r :: rs → s.session c.session = none → c.heldOut = [] →
      Completes (exec (.take ch) s) fun t => (t.chan ch).outSlots = rs ∧ (t.chan ch).outPos = 0 ∧ (∀ d, d ≠ ch → t.chan d = s.chan d)) ∧
    Completes (exec (.pmMbxReset ch) s) fun t =>
      (t.chan ch).inSlots = [] ∧ (t.chan ch).outSlots = [] ∧ (t.chan ch).heldOut = [] ∧ (t.chan ch).lastSeq = none ∧
      (t.chan ch).bound = c.bound ∧ (∀ a ∈ t.post.accepted, a.channel = ch → a.mute = true) ∧ ∀ d, d ≠ ch → t.chan d = s.chan d) ∧
  (ownWindow s ch = false → ∀ cmd ∈ [Instr.post ch, .take ch, .abort ch, .pmMbxReset ch, .pmMbxOut ch, .pmMbxIn ch 0], exec cmd s = .next s)

/-- R10, R14, R340, R346, R349-R351, R507: registers by SMBus, by test access and by any path. A transaction without a good PEC, or before service,
is not acknowledged; a write reaches the register its path may write. -/
def Obligations.OtherPathsReachTheWindow : Prop := ∀ (s : State),
  let ends (cmd : Instr) (t : State) : Prop := exec cmd s = .next t
  (∀ off, s.windowOpen = true → off % 8 = 0 → off ≤ 0x1F8 →
    ends (.readReg off true) { (s.pmRead 2 off).2 with smbOut := (s.pmRead 2 off).2.smbOut ++ [some (s.pmRead 2 off).1] } ∧
    ∀ v, ends (.writeReg off v true) (s.pmWrite 2 off v)) ∧
  (∀ off v pec, (pec && s.windowOpen && decide (off % 8 = 0) && decide (off ≤ 0x1F8)) = false →
    ends (.readReg off pec) { s with smbOut := s.smbOut ++ [none] } ∧ ends (.writeReg off v pec) { s with smbOut := s.smbOut ++ [none] }) ∧
  (Completes (exec (.status true) s) fun t => { t with smbOut := s.smbOut } = s ∧ ∃ w, t.smbOut = s.smbOut ++ [some w] ∧
    w.getLsbD 0 = s.inService ∧ w.getLsbD 1 = !(s.chan 2).outSlots.isEmpty ∧
    w.getLsbD 2 = s.ice.incidents.any fun i => getF Reg.WD_INC_ACK_ACKED s.wd < i.number) ∧
  ends (.status false) { s with smbOut := s.smbOut ++ [none] } ∧
  (∀ reg : BitVec 80, (s.windowOpen = false → ends (.postwin reg) { s with test := { s.test with postData := 0, postDone := true } }) ∧
    (s.windowOpen = true → let r := s.pmRead 3 (reg.toNat / 2 ^ 64 % 1024 * 8)
      reg.toNat / 2 ^ 74 % 2 = 0 → ends (.postwin reg) { r.2 with test := { r.2.test with postData := r.1, postDone := true } }) ∧
    (s.windowOpen = true → reg.toNat / 2 ^ 74 % 2 = 1 → let u := s.pmWrite 3 (reg.toNat / 2 ^ 64 % 1024 * 8) (reg.setWidth 64)
      Completes (exec (.postwin reg) s) fun t => t.test.postDone = true ∧ { t with test := u.test, freeCtr := u.freeCtr } = u)) ∧
  (∀ path addr v, pathChan path < 65 → (∀ o, regAt addr ≠ .pm o) →
    (s.mayWrite (pathChan path) addr = false → ends (.registerWrite path addr v) s) ∧
    (pathChan path ≠ 64 → s.mayWrite (pathChan path) addr = true →
      ends (.registerWrite path addr v) (s.writeReg (pathChan path) addr (permittedBits addr v)))) ∧
  (∀ addr v, (∀ o, regAt addr ≠ .pm o) → ends (.registerWrite .postmaster addr v) (s.writeReg 64 addr v))

/-- R318-R320, R336, R465: the postmaster's rounds and its restart. Each part of the loop happens once a round: the sweep by its tick
40,000, the second scan from its tick 32,768, the decision point after the sweep, from tick 49,152; a restart stops service and
leaves the data plane as it is; service resumes only if the slot verifies as at the lock. -/
def Obligations.RoundsAndRestart : Prop := ∀ (s : State),
  let once (cmd : Instr) (last : Nat) (may : Prop) (t : State) : Prop := s.inService = true →
    (last ≠ s.round + 1 → may → exec cmd s = .next t) ∧ (last = s.round + 1 ∨ ¬may → exec cmd s = .next s)
  once .sweep s.post.swept (s.tick ≤ 40000) s.sweep ∧
  once .secondScan s.post.scanned (32768 ≤ s.tick) (s.updPost fun p => { p with scanned := s.round + 1 }).scan ∧
  once .decisionPoint s.post.decided (s.post.swept = s.round + 1 ∧ 49152 ≤ s.tick)
    (s.updPost fun p => { p with decided := s.round + 1 }).decide.beginReroute.broadcasts.markWaiting ∧
  (s.inService = false → ∀ cmd ∈ [Instr.sweep, .secondScan, .decisionPoint, .postmasterRestart], exec cmd s = .next s) ∧
  (s.inService = true → Completes (exec .postmasterRestart s) fun t => t.inService = false ∧ getF Reg.PM_STATUS_STATE t.pm = 3 ∧
    t.cores = s.cores ∧ t.pavs = s.pavs ∧ t.oras = s.oras ∧ t.slow = s.slow ∧ t.gardens = s.gardens ∧ t.post.accepted = s.post.accepted) ∧
  (getF Reg.PM_STATUS_STATE s.pm = 3 →
    ((s.slotFw s.frank.lockSlot).hash = s.frank.lockHash → s.ice.slotLost.contains s.frank.lockSlot = false →
      Completes (exec .restartResume s) fun t => t.inService = true ∧ t.slow = s.slow ∧ t.pending = s.pending) ∧
    ((s.slotFw s.frank.lockSlot).hash ≠ s.frank.lockHash ∨ s.ice.slotLost.contains s.frank.lockSlot = true →
      Completes (exec .restartResume s) fun t => getF Reg.PM_STATUS_STATE t.pm = 4 ∧ t.slow = s.slow))

/-- R325, R327, R330-R333: how a letter is answered. Its receipt has its code, garden, SESSION, SEQUENCE and TAG, with DONE, NOT_SEALED or a dead letter; it goes into the channel's
queue while that has room, and behind it otherwise; it is kept for repeats; the letter is no longer waiting. -/
def Obligations.LettersAreAnsweredOnTheirChannel : Prop := ∀ (s : State) (a : Accepted) (body : List Byte) (reason : Nat),
  0 < a.channel → a.mute = false →
  let r (status why : Nat) (bs : List Byte) : Receipt := a.receipt status why bs 0 []
  let given (t : State) (x : Receipt) : Prop :=
    t.post.accepted = s.post.accepted.erase a ∧
    ((s.chan a.channel).outSlots.length < 8 → (s.chan a.channel).heldOut = [] → s.session (s.chan a.channel).session = none →
      (t.chan a.channel).outSlots = (s.chan a.channel).outSlots ++ [x]) ∧
    (8 ≤ (s.chan a.channel).outSlots.length →
      (t.chan a.channel).outSlots = (s.chan a.channel).outSlots ∧ (t.chan a.channel).heldOut = (s.chan a.channel).heldOut ++ [x]) ∧
    (t.chan a.channel).recent = (s.chan a.channel).recent.map fun e => if e.1 = a.letter.sequence then (e.1, some x) else e
  given (s.reply a body) (r 0 0 body) ∧ given (s.notSealed a reason body) (r 1 reason body) ∧
  given (s.dead a reason) (r 2 reason ({} : Detail).bytes) ∧
  (∀ status why bs, let x := r status why bs
    x.code = a.letter.code ∧ x.garden = a.letter.garden ∧ x.session = a.letter.session ∧ x.sequence = a.letter.sequence ∧
    x.tag = a.letter.tag ∧ x.status = status ∧ x.reason = why ∧ x.body = bs) ∧
  ∀ j, (s.begin a j).post.accepted = s.post.accepted.erase a ∧
    ∃ k, (s.begin a j).post.jobs = s.post.jobs ++ [k] ∧ k.kind = j.kind ∧ k.letter = some { a with acting := true }

/-- R324-R326, R334, R339: how a letter is taken from its slot. What is wrong with its header, its SEQUENCE, its code, its role or its garden is
answered dead with the reason of the first check that fails; one new to its channel that passes waits to act. -/
def Obligations.LettersAreCheckedAsTheyAreTaken : Prop := ∀ (s : State) (ch : Nat) (x : Slotted), 0 < ch → ch < 64 →
  let c := s.chan ch
  let l := x.letter
  let fresh := (∀ n, c.lastSeq = some n → l.sequence = (n + 1) % 2 ^ 32)
  let ends (t : State) (reason : Nat) : Prop := ∃ r, (t.chan ch).outSlots = c.outSlots ++ [r] ∧ r.status = 2 ∧ r.reason = reason ∧
    r.sequence = l.sequence ∧ t.post.accepted = s.post.accepted
  (c.outSlots.length < 8 → c.heldOut = [] → s.session c.session = none →
    (l.version ≠ 1 → ends (s.accept ch x) dVersion) ∧
    (x.headOk = none → (∃ n, c.lastSeq = some n ∧ l.sequence ≠ (n + 1) % 2 ^ 32) → (∀ e ∈ c.recent, e.1 ≠ l.sequence) →
      ends (s.accept ch x) dSequence) ∧
    (x.headOk = none → fresh → letterRoles l.code = 0 → ends (s.accept ch x) dCode) ∧
    (x.headOk = none → fresh → letterRoles l.code ≠ 0 → letterRoles l.code &&& s.roleOf ch = 0 → ends (s.accept ch x) dRole) ∧
    (x.headOk = none → fresh → letterRoles l.code &&& s.roleOf ch ≠ 0 → needsGarden l.code = true → 4 ≤ l.garden →
      ends (s.accept ch x) dGarden)) ∧
  (x.headOk = none → fresh → s.catalogueCheck ch l = none → ∃ a, (s.accept ch x).post.accepted = s.post.accepted ++ [a] ∧
    a.letter = l ∧ a.channel = ch ∧ ((s.accept ch x).chan ch).lastSeq = some l.sequence ∧
    ((s.accept ch x).chan ch).outSlots = c.outSlots) ∧
  (∀ r, x.headOk = none → c.outSlots.length < 8 → c.heldOut = [] → s.session c.session = none →
    (∃ n, c.lastSeq = some n ∧ l.sequence ≠ (n + 1) % 2 ^ 32) → c.recent.find? (fun e => e.1 = l.sequence) = some (l.sequence, some r) →
    ((s.accept ch x).chan ch).outSlots = c.outSlots ++ [{ r with flags := r.flags ||| 16 }] ∧
    (s.accept ch x).post.accepted = s.post.accepted)

/-- R322, R338-R341, R366-R371, R374: letters of sessions and mailboxes. Each acts when its turn comes, and is answered at once. -/
def Obligations.SessionLettersAct : Prop := ∀ (s : State) (ch : Nat) (a : Accepted),
  let l := a.letter
  let id := s.sessionOf a
  let acts (code : Nat) (cmd : Instr) (t : State) : Prop := letterTurn s code ch a = true → exec cmd s = .next t
  acts 0x01 (.openSession ch) (s.openSession a) ∧
  acts 0x02 (.closeSession ch) ((s.reply a []).endSession id 2) ∧
  acts 0x03 (.ping ch) (s.reply a (leBytes 8 (l.field 0 8) ++ leBytes 8 s.now)) ∧
  (∀ x, s.session id = some x → l.field 0 1 = 1 - x.phase → l.field 1 7 = 0 →
    acts 0x04 (.rekey ch) ((s.putSession id { x with
      phase := 1 - x.phase, oldUntil := some (s.now + 131072), txKey := 0, rxKey := 0,
      keys := x.keys.next, oldKeys := some x.keys }).reply a (leBytes 1 (1 - x.phase)))) ∧
  (let l := s.bridge.sessions.take 505
   acts 0x05 (.sessionList ch) (s.reply a (leBytes 2 l.length ++ l.flatMap fun e =>
    leBytes 4 e.1 ++ leBytes 1 e.2.channel ++ leBytes 1 (if e.2.role = roleO then 1 else 2) ++ leBytes 1 e.2.gardens ++ leBytes 1 0))) ∧
  (∀ x, s.session (l.field 0 4) = some x → x.role = roleT → l.field 4 1 < 16 → l.field 5 3 = 0 →
    acts 0x06 (.sessionBind ch) ((s.putSession (l.field 0 4) { x with gardens := l.field 4 1, bound := x.bound || l.field 4 1 ≠ 0 }).reply a [])) ∧
  acts 0x13 (.mbxFlush ch) (((s.updChan ch fun c => { c with outSlots := [], heldOut := [], outPos := 0 }).updSession id fun x =>
    { x with sendQ := x.sendQ.filter fun c => !c.isReceipt }).reply a
      (leBytes 1 (min ((s.chan ch).outSlots.length + (s.chan ch).heldOut.length) 255))) ∧
  (let role := l.field 0 1
   role = 1 ∨ role = 2 → l.field 1 7 = 0 → (role = 2 → s.unboundFrom a.path.ip = false) →
    ∀ n, s.freeChannel (role = 1) = some n → letterTurn s 0x01 0 a = true → Completes (exec (.openSession 0) s) fun t =>
      (Config.exchangeOk l.body = false → t = s.dead a dField { offset := 40 }) ∧
      (Config.exchangeOk l.body = true → ∃ x, t.session s.post.nextSession = some x ∧ x.channel = n ∧
        x.role = (if role = 1 then roleO else roleT) ∧ x.ready = false ∧ t.post.nextSession = s.post.nextSession + 1))

/-- R340, R341, R385, R392: letters of registers and parcels. Reads are in order, over what the role may see; all of a write's values are written or none; a
parcel opens over a range a host may reach, and closes with what has moved. -/
def Obligations.RegisterAndParcelLettersAct : Prop := ∀ (s : State) (ch : Nat) (a : Accepted),
  let l := a.letter
  let n := l.field 8 2
  let xs := addrsOf l
  let acts (code : Nat) (cmd : Instr) (t : State) : Prop := letterTurn s code ch a = true → exec cmd s = .next t
  (l.field 0 8 % 8 = 0 → 1 ≤ n → n ≤ 32 →
    let r := xs.foldl (fun (r : List Word × State) x => (r.1 ++ [(r.2.peekReg ch x).1], (r.2.peekReg ch x).2)) ([], s)
    acts 0x10 (.regRead ch) (r.2.reply a (wordsBytes r.1))) ∧
  (1 ≤ n → n ≤ 32 → l.field 10 6 = 0 → (∀ x ∈ xs, s.mayWrite ch x = true) →
    let vals := (List.range n).map fun i => BitVec.ofNat 64 (l.field (16 + 8 * i) 8)
    acts 0x11 (.regWrite ch) (((xs.zip vals).foldl (fun s x => s.writeReg ch x.1 (permittedBits x.1 x.2)) s).reply a [])) ∧
  (1 ≤ n → n ≤ 32 → l.field 10 6 = 0 → (∃ x ∈ xs, s.mayWrite ch x = false) → acts 0x11 (.regWrite ch) (s.dead a dRole)) ∧
  (l.field 0 1 < 64 → acts 0x12 (.mbxStatus ch)
    (s.reply a (leBytes 8 (if s.mayPeek ch (l.field 0 1) then (s.mbxStatus (l.field 0 1)).toNat else 0)))) ∧
  (let dir := l.field 0 1
   let start := l.field 8 8
   let len := l.field 16 8
   dir ≤ 1 → l.field 1 7 = 0 → start % 8 = 0 → len % 8 = 0 → 8 ≤ len → len ≤ 1536 * 2 ^ 30 → (s.hostWindow l.garden start len).isSome = true →
    (s.openParcels (s.sessionOf a)).1 < 16 → (s.openParcels (s.sessionOf a)).2 < 256 →
    let p : Parcel := { session := s.sessionOf a, garden := l.garden, dir := dir, addr := start, len := len }
    acts 0x40 (.parcelOpen ch) ((s.addParcel p).2.reply a (leBytes 4 s.post.nextParcel))) ∧
  (∀ p, s.parcel (l.field 0 4) = some p → p.isOpen = true → p.session = s.sessionOf a → (p.staging = true ∨ p.garden = l.garden) →
    acts 0x41 (.parcelClose ch) ((s.closeParcels fun n _ => n = l.field 0 4).reply a (leBytes 8 (rangeBytes p.moved))))

/-- R453, R488, R532-R534, R581, R617-R624: letters of configuration, power and time, and those that read what the module records. -/
def Obligations.ConfigurationAndTelemetryLettersAct : Prop := ∀ (s : State) (ch : Nat) (a : Accepted),
  let l := a.letter
  let acts (code : Nat) (cmd : Instr) (t : State) : Prop := letterTurn s code ch a = true → exec cmd s = .next t
  ((∀ e ∈ cfgEntries l, cfgFields.contains e.2.1 = true ∧ e.2.2.1 = 0) →
    let m := checkEntries s.cfgStaged ((cfgEntries l).map fun e => (e.2.1, e.2.2.2)) ((cfgEntries l).any fun e => e.2.1 = cfgCkptMin)
    acts 0x60 (.configStage ch) ({ s with cfgStaged := m.1 }.reply a [] 0 m.2)) ∧
  (1 ≤ l.field 4 2 → l.field 4 2 ≤ 254 →
    let fs := (cfgFields.filter fun f => l.field 2 2 ≤ f).take (min (l.field 4 2) 253)
    let shown (m : FMap Word) : State := s.reply a (fs.flatMap fun f => leBytes 2 f ++ leBytes 6 0 ++ leBytes 8 (getCfg m f))
    (l.field 0 1 = 0 → acts 0x61 (.configRead ch) (shown s.cfgActive)) ∧ (l.field 0 1 = 1 → acts 0x61 (.configRead ch) (shown s.cfgStaged)) ∧
    (l.field 0 1 = 2 → acts 0x61 (.configRead ch) (shown s.ice.config))) ∧
  (letterTurn s 0x62 ch a = true → let m := (tieRule s.cfgStaged).1
    Completes (exec (.chimeSet ch) s) fun t => t = s.chimeSet a ∧ t.cfgActive = s.cfgActive ∧ t.cfgStaged = m ∧
      ∃ j change, t.post.jobs = s.post.jobs ++ [j] ∧ j.kind = .config ∧ j.named = l.field 0 8 ∧ j.changes = [.config change] ∧
        ∀ f ∈ cfgFields, startField f = false → getCfg m f ≠ getCfg s.cfgActive f → (f, BitVec.ofNat 64 (getCfg m f)) ∈ change) ∧
  (letterTurn s 0x63 ch a = true → Completes (exec (.powerCapSet ch) s) fun t => t = s.powerCapSet a ∧ t.pw = s.pw ∧
    ∃ j, t.post.jobs = s.post.jobs ++ [j] ∧ j.kind = .capSet ∧ (5000 ≤ l.field 0 4 → l.field 0 4 ≤ 16000 → l.field 0 4 ≤ s.converterLimit →
      l.field 4 4 = 0 → l.field 8 4 = 0 → getF Reg.PW_CAP_WIN1 s.pw ≤ getF Reg.PW_CAP_WIN2 s.pw →
        j.changes = [.capWindows (l.field 0 4) 0 0 (some false)] ∧ j.clamps = [])) ∧
  (∀ i, s.pavsOf l.garden ≠ [] → l.field 0 1 = i → i ≤ 7 → acts 0x64 (.dividerSet ch) (s.begin a
    { kind := .divider, garden := l.garden, changes := [.divider l.garden (s.pavsOf l.garden) i], arg := i, clamps := [] })) ∧
  (l.field 0 1 ≤ 3 → acts 0x65 (.timeSource ch) (s.begin a { kind := .timeSource, changes := [.time (l.field 0 1)], arg := l.field 0 1 })) ∧
  (s.roleOf ch ≠ roleT →
    let rs := fitRecords 4040 (((s.ice.incidents.filter fun i => l.field 0 8 ≤ i.number).map recordBytes).take (l.field 8 2))
    acts 0x70 (.incidentRead ch) (s.reply a (leBytes 2 rs.length ++ leBytes 6 0 ++ rs.flatten))) ∧
  (letterTurn s 0x71 ch a = true → l.field 0 8 < 2 ^ 64 → Completes (exec (.incidentAck ch) s) fun t => t.ice.incidents = s.ice.incidents ∧
    t.ice.acked = max (min (l.field 0 8) (getF Reg.WD_INC_LAST_LAST s.wd)) (getF Reg.WD_INC_ACK_ACKED s.wd)) ∧
  acts 0x72 (.snapshotRequest ch) (s.begin a { kind := .snapshot, changes := [.snap], named := l.field 0 8 }) ∧
  (l.field 0 8 ≠ getF Reg.SD_SNAP_T_T s.sd → acts 0x73 (.snapshotRead ch) (s.dead a dState { offset := 0 })) ∧
  (∀ insts words, l.field 0 8 = getF Reg.SD_SNAP_T_T s.sd → snapShape (l.field 8 2) = some (insts, words) → l.field 10 2 < insts →
    1 ≤ l.field 12 2 →
    let n := min (min (l.field 12 2) (insts - l.field 10 2)) (4032 / (8 + 8 * words))
    acts 0x73 (.snapshotRead ch) ({ s with freeCtr := s.freeCtr + 27648 * 64 }.reply a (leBytes 8 (l.field 0 8) ++ leBytes 2 (l.field 8 2) ++
      leBytes 2 (l.field 10 2) ++ leBytes 2 n ++ leBytes 2 words ++
      (List.range n).flatMap fun i => s.snapRecord a (l.field 8 2) (l.field 10 2 + i) words))) ∧
  (∀ insts rec, s.sensorClass (l.field 0 1) = some (insts, rec) →
    let first := l.tag.toNat % 65536
    let n := min (insts - first) 505
    acts 0x74 (.sensorRead ch) ({ s with freeCtr := s.freeCtr + 432 }.reply a (leBytes 1 (l.field 0 1) ++ leBytes 1 0 ++ leBytes 2 first ++
      leBytes 2 n ++ leBytes 2 0 ++ (List.range n).flatMap fun i => leBytes 8 (rec (first + i))))) ∧
  acts 0x75 (.capacityRead ch) (s.reply a (leBytes 4 s.post.capE ++ leBytes 4 s.post.capReserve ++ leBytes 1 s.post.shorts ++ leBytes 7 0))

/-- R287-R300, R305-R308, R571, R573: letters of gardens. Each asks for its garden's state: a letter in the wrong one is answered dead, changing nothing;
in the right one its change begins. A letter owed a poisoned context is answered for it. -/
def Obligations.GardenLettersFollowTheGardensState : Prop := ∀ (s : State) (ch : Nat) (a : Accepted),
  let g := a.letter.garden
  let st := s.gState g
  let wrong := s.dead a dState { unit := 10, unitId := g }
  let acts (code : Nat) (cmd : Instr) (t : State) : Prop := letterTurn s code ch a = true → exec cmd s = .next t
  let begins (code : Nat) (cmd : Instr) (kind : JobKind) : Prop := letterTurn s code ch a = true → Completes (exec cmd s) fun t =>
    t.slow = s.slow ∧ t.post.accepted = s.post.accepted.erase a ∧ ∃ j ∈ t.post.jobs, j.kind = kind ∧ j.letter = some { a with acting := true }
  let prot := readProt a.letter.body
  (absentPeer prot = none → st ≠ gEmpty → st ≠ gReleasing → acts 0x20 (.gardenCreate ch)
    ((s.updGarden g fun d => d.setF Reg.GD_STATUS_DEFERRED 0).dead a dState { unit := 10, unitId := g })) ∧
  (absentPeer prot = none → st = gReleasing → letterTurn s 0x20 ch a = true → Completes (exec (.gardenCreate ch) s) fun t =>
    (t.garden g).getF Reg.GD_STATUS_DEFERRED = 1 ∧ t.gState g = gReleasing ∧ t.slow = s.slow ∧ t.post.jobs = s.post.jobs ∧
      ∃ b ∈ t.post.accepted, b.letter = a.letter ∧ b.channel = a.channel ∧ b.deferred = true) ∧
  (absentPeer prot = none → st = gEmpty → s.pavBlock g prot.pavs = .free → s.peerTaken g prot = none → protFieldsOk a.letter.body = true → connected prot.pavs = true →
    windowsOk prot.windows (s.otherWindows g) = true → peersReached prot = true → s.awaitsZero prot.windows = false → g < 4 →
    begins 0x20 (.gardenCreate ch) .create ∧
    (letterTurn s 0x20 ch a = true → Completes (exec (.gardenCreate ch) s) fun t => t.gState g = gCreating)) ∧
  (st ≠ gCreated → st ≠ gLoaded → acts 0x21 (.gardenLoad ch) wrong) ∧
  (st ≠ gLoaded → acts 0x22 (.gardenStart ch) wrong) ∧ (st = gLoaded → begins 0x22 (.gardenStart ch) .start) ∧
  (st ≠ gRunning → acts 0x23 (.gardenStop ch) wrong) ∧
  (st = gRunning → acts 0x23 (.gardenStop ch)
    (s.begin a { kind := .stop, garden := g, changes := [.run g (s.coresMapped g) false] })) ∧
  (st = gEmpty ∨ st = gReleasing → acts 0x24 (.gardenRelease ch) wrong) ∧
  (absentPeer prot = none → st ∉ [gCreated, gLoaded, gRunning, gRecovering] → acts 0x25 (.protectSet ch) wrong) ∧
  acts 0x26 (.gardenStatus ch) (s.reply a (leBytes 8 (s.gdRead g 0x008).toNat ++ leBytes 8 (s.gdRead g 0x028).toNat ++
    leBytes 8 (s.garden g).lastSeal ++ leBytes 8 (s.garden g).sealTick)) ∧
  (st ≠ gRunning → st ≠ gRecovering → acts 0x27 (.sealStep ch) wrong) ∧
  (st ≠ gLoaded → st ≠ gRunning → acts 0x28 (.updatePlan ch) wrong) ∧
  (st ≠ gRunning → acts 0x29 (.gardenReset ch) wrong) ∧
  (st = gRunning → (s.recovering g).isSome = false → begins 0x29 (.gardenReset ch) .gardenReset) ∧
  (∀ ctx, ch < 64 → s.inService = true → s.owed a = some ctx →
    s.post.accepted.find? (fun b => b.letter.code = 0x22 && b.channel = ch && !s.blocked b && s.inTurn b) = some a →
    exec (.gardenStart ch) s = .next (s.payOwed a ctx))

/-- R289-R310, R341: changes of gardens begin where their letters are in order, and memory is filled or zeroed as they ask. -/
def Obligations.GardenLettersBeginTheirChanges : Prop := ∀ (s : State) (ch : Nat) (a : Accepted),
  let l := a.letter
  let g := l.garden
  let st := s.gState g
  let acts (code : Nat) (cmd : Instr) (t : State) : Prop := letterTurn s code ch a = true → exec cmd s = .next t
  let has (t : State) (kind : JobKind) : Prop := ∃ j ∈ t.post.jobs, j.kind = kind ∧ j.letter = some { a with acting := true }
  (∀ bs i pl ts, st = gCreated ∨ st = gLoaded → s.viewRead g (l.field 0 8) (l.field 8 8) = .bytes bs → readImage bs = some i →
    i.plan = none → s.imageWindows g i = true → s.coresAsked g i.size ≤ Config.exposedCores →
    i.size + requiredReserve i.size ≤ s.goodIn (s.pavsOf g) →
    placeImage (if i.mode = 0 then s.siteRuns else s.goodSite) (s.pavsOf g) i = some pl → s.routeAll g (s.pavsOf g) i pl [] = some ts →
    acts 0x21 (.gardenLoad ch) (s.beginLoad a i pl ts (imageClamps bs))) ∧
  (g < 4 → st ≠ gEmpty → st ≠ gReleasing → letterTurn s 0x24 ch a = true → Completes (exec (.gardenRelease ch) s) fun t =>
    has t .release ∧ t.slow = s.slow ∧ t.gState g = gReleasing) ∧
  (let new := readProt l.body
   let old := (s.garden g).prot.pavs
   let added := new.pavs.filter fun p => !old.contains p
   absentPeer new = none → st ∈ [gCreated, gLoaded, gRunning, gRecovering] → s.pavBlock g added = .free → s.peerTaken g new = none →
    protFieldsOk l.body = true → connected new.pavs = true →
    ((∀ p ∈ old, p ∈ new.pavs) ∨ s.gdnSize g ≤ s.goodIn (old.filter fun p => new.pavs.contains p)) → windowsOk new.windows (s.otherWindows g) = true → peersReached new = true →
    s.awaitsZero new.windows = false → letterTurn s 0x25 ch a = true →
      Completes (exec (.protectSet ch) s) fun t => has t .protect ∧ t.slow = s.slow) ∧
  (st = gRunning → l.field 0 8 = s.openStep g → l.field 12 4 = 0 → (∀ j ∈ s.post.jobs, j.kind = .seal → j.garden ≠ g) → letterTurn s 0x27 ch a = true →
    (s.taintOf g = 0 → (∀ p ∈ s.pavsOf g, ∀ c ∈ coresOf p, (s.core c).outbox = []) → s.engAll g (· = engNone) = true →
      Completes (exec (.sealStep ch) s) fun t => (t.garden g).lastSeal = l.field 0 8 ∧ (t.garden g).sealTick = s.now ∧
        t.post.accepted = s.post.accepted.erase a ∧ t.slow = s.slow) ∧
    (s.taintOf g ≠ 0 → Completes (exec (.sealStep ch) s) fun t => (t.garden g).lastSeal = (s.garden g).lastSeal ∧
      t.post.accepted = s.post.accepted.erase a ∧ (∀ j ∈ t.post.jobs, j.kind = .seal → j.garden ≠ g) ∧ t.slow = s.slow)) ∧
  (∀ bs p, st = gLoaded ∨ st = gRunning → s.viewRead g (l.field 0 8) (l.field 8 8) = .bytes bs → readPlan bs = some p →
    (s.planAt g p).isSome = true → p.aligned = true →
      acts 0x28 (.updatePlan ch) (s.begin a { kind := .plan, garden := g, body := bs })) ∧
  (let start := l.field 0 8
   let n := l.field 8 8
   ∀ p, start % 64 = 0 → n % 64 = 0 → 64 ≤ n → n ≤ 1536 * 2 ^ 30 → s.viewAddr g start n .store = some p → (s.viewAddr g start n .host).isSome = true →
    acts 0x42 (.memFill ch) (s.begin a { kind := .fill, garden := g, arg := p, arg2 := n, body := slice l.body 16 8 })) ∧
  (∀ j, g < 4 → s.post.jobs.find? (fun j => j.kind = .fill && j.garden = g) = some j →
    exec (.memFillComplete g) s = .next ((s.fillRange g j.arg j.arg2 j.body).endJob j [])) ∧
  (∀ base size, s.toZero.contains (base, size) = true → Completes (exec (.slowTierZeroing base size) s) fun t =>
    (∀ b, base ≤ b → b < base + size → Fm.get 0 b t.slow = 0) ∧
    (∀ b, (b < base ∨ base + size ≤ b) → Fm.get 0 b t.slow = Fm.get 0 b s.slow) ∧ t.toZero = s.toZero.erase (base, size) ∧ t.cores = s.cores)

/-- R427-R437, R574, R580, R605-R609: checkpoints. A take begins with an image of its garden's own slot, is captured when its engines collect with no
seal open or have no plan, and its completion makes the image readable; a drop forgets one nothing reads; a restore writes all of it back. -/
def Obligations.CheckpointsAreTakenAndRestored : Prop := ∀ (s : State) (ch g : Nat) (a : Accepted),
  let l := a.letter
  let lg := l.garden
  let id := l.field 0 4
  let acts (code : Nat) (cmd : Instr) (t : State) : Prop := letterTurn s code ch a = true → exec cmd s = .next t
  let ends (cmd : Instr) (t : State) : Prop := exec cmd s = .next t
  (s.gState lg = gLoaded ∨ s.gState lg = gRunning → s.taking lg = false → mib (s.takeSize lg) ≤ s.ckptFree → acts 0x50 (.checkpointTake ch)
    ((((s.newImage lg).2.beginIce a { kind := .take, garden := lg, arg := s.ice.nextCkpt }).captureNow s.ice.nextCkpt lg).iceNext)) ∧
  (∀ j, g < 4 → s.iceJobOf g Job.takes = some j → s.image j.arg ≠ none → (∀ c, s.image j.arg = some c → c.captured = false) →
    s.engAll g (· = engNone) = true ∨ (s.engAll g (· = engCollect) = true ∧ ∀ k ∈ s.post.jobs, k.kind = .seal → k.garden ≠ g) →
    ends (.checkpointCapture g) (s.capture j.arg g)) ∧
  (∀ j c, g < 4 → s.iceJobOf g Job.takes = some j → s.image j.arg = some c → c.captured = true →
    (c.lost = true → ends (.takeComplete g) (s.failTake j)) ∧
    (c.lost = false → Completes (exec (.takeComplete g) s) fun t => t.slow = s.slow ∧ t.ice.erased = s.ice.erased + blocksFor c.size ∧
      ∃ d ∈ t.ice.checkpoints, d.id = c.id ∧ d.complete = true ∧ d.done = s.now ∧ d.step = c.step)) ∧
  (let cs := s.ice.checkpoints.filter fun c => c.complete && s.asksOf a c.garden
   acts 0x51 (.checkpointList ch) (s.reply a (leBytes 2 cs.length ++ cs.flatMap checkpointRecord))) ∧
  (∀ c, s.image id = some c → c.complete = true → s.reading id = none →
    acts 0x53 (.checkpointDrop ch) ((s.dropImage id).reply a [])) ∧
  (s.image id = none → acts 0x53 (.checkpointDrop ch) (s.dead a dCheckpoint { unit := 12, offset := 0 })) ∧
  (∀ c, s.gState lg = gLoaded → s.image id = some c → s.mayRestore lg c = true → s.restoreFits lg c = true →
    acts 0x52 (.checkpointRestore ch) ((s.beginIce a { kind := .restore, garden := lg, arg2 := c.id }).iceNext)) ∧
  (∀ j c, g < 4 → s.iceJobOf g (fun j => j.kind = .restore || j.kind = .autoRestore) = some j → let u := s.disarmAll g
    u.engAll g (· = engNone) = true → u.image j.arg2 = some c → c.lost = false → let w := u.writeImage g c
    (j.kind = .restore → (w.garden g).down = none → ends (.restoreComplete g) ((w.endJob j (leBytes 8 c.step)).iceNext)) ∧
    (j.kind = .restore → (w.garden g).down ≠ none → ends (.restoreComplete g) (((w.endDown g 5 true).endJob j (leBytes 8 c.step)).iceNext)) ∧
    (j.kind = .autoRestore → u.mayRestore g c = true → u.restoreFits g c = true →
      ends (.restoreComplete g) (((w.putJob { j with phase := 3 }).updPost fun p => { p with iceJob := none }).iceNext))) ∧
  (let r0 := s.ihRead 0x000
   let r1 := r0.2.ihRead 0x008
   let r2 := r1.2.ihRead 0x010
   let r3 := r2.2.ihRead 0x018
   let r4 := r3.2.ihRead 0x020
   acts 0x54 (.icehouseStatus ch) (r4.2.reply a ([r0.1, r1.1, r2.1, r3.1, r4.1].flatMap fun w => leBytes 8 w.toNat))) ∧
  (g < 4 → s.takeTime g = true → (∀ c, s.newestImage g = some c → s.vouched c = true) → s.taking g = false → mib (s.takeSize g) ≤ s.ckptFree →
    ends (.autoCheckpoint g) (((s.newImage g).2.addJob { kind := .autoTake, garden := g, arg := s.ice.nextCkpt }).iceNext))

/-- R418-R426: the icehouse's NAND. A refresh pass counts what it corrected and lost; a block that aged or read softly is rewritten; a block that fails
to program and a die that is lost are retired and never counted twice; a die that has changed by 15 °C is trained. -/
def Obligations.TheIcehouseKeepsItsNand : Prop := ∀ (s : State) (n : Nat),
  let onlyIce (t : State) : Prop := { t with ice := s.ice } = s
  (∀ rs, s.iceReady = true → s.ice.refreshed ≠ s.refreshPeriod + 1 →
    exec (.refreshRead rs) s = .next (rs.foldl State.readStripe (s.updIce fun h => { h with refreshed := s.refreshPeriod + 1 }))) ∧
  (∀ rs, s.ice.refreshed = s.refreshPeriod + 1 → exec (.refreshRead rs) s = .next s) ∧
  (∀ r : StripeReading, r.lost = false → 0 < r.soft → Completes (.next (s.readStripe r)) fun t => onlyIce t ∧ r.block ∈ t.ice.softBlocks) ∧
  (n < nandBlocks → s.iceReady = true → n ∈ s.ice.softBlocks ∨ Fm.get 0 n s.ice.written + 180 * 86400 * ticksPerSec ≤ s.now → Completes (exec (.retentionRewrite n) s) fun t =>
    t.ice.erased = s.ice.erased + 1 ∧ n ∉ t.ice.softBlocks ∧ Fm.get 0 n t.ice.written = s.now ∧ t.slow = s.slow) ∧
  (∀ rs, s.iceReady = true → s.ice.getF Reg.IH_STATUS_SCAN ≠ 0 → Completes (exec (.powerOnScan rs) s) fun t =>
    t = (rs.foldl State.readStripe s).updIce (fun h => h.setF Reg.IH_STATUS_SCAN 0) ∧ t.ice.getF Reg.IH_STATUS_SCAN = 0) ∧
  (∀ rs, s.ice.getF Reg.IH_STATUS_SCAN = 0 → exec (.powerOnScan rs) s = .next s) ∧
  (n < nandBlocks → s.iceReady = true → n ∉ s.ice.grown → Completes (exec (.programFail n) s) fun t => onlyIce t ∧ n ∈ t.ice.grown ∧
    Fm.get 0 (n / 7296) t.ice.spares = min 128 (Fm.get 0 (n / 7296) s.ice.spares + 1) ∧
    (112 < Fm.get 0 (n / 7296) t.ice.spares → t.ice.getF Reg.IH_STATUS_SPARELOW = 1)) ∧
  (n < 128 → n ∉ s.ice.diesLost → Completes (exec (.dieLost n) s) fun t => n ∈ t.ice.diesLost ∧ t.ice.getF Reg.IH_STATUS_DEGRADED = 1 ∧
    t.slow = s.slow) ∧
  (n < 128 → n ∈ s.ice.diesLost → exec (.dieLost n) s = .next s) ∧
  (∀ temp, n < 128 → n ∉ s.ice.diesLost → (∀ t, Fm.look n s.ice.dieTemp = some t → 15 ≤ (temp - ofTemp8 t).natAbs) →
    Completes (exec (.nandRetrain n temp) s) fun t => onlyIce t ∧ n ∈ t.ice.trained ∧ Fm.look n t.ice.dieTemp = some (temp8 temp))

/-- R543-R576: wardens, patrols and recovery. A warden takes its core's oldest record and counts it; a site is patrolled in segments in order, and what a
segment finds is repaired or retired; a hang asks for recovery once. -/
def Obligations.WardensPatrolsAndRecovery : Prop := ∀ (s : State) (c g : Nat), c < Config.coreSites →
  let p := pavOf c
  let x := s.site c
  let k := s.core c
  let ends (cmd : Instr) (t : State) : Prop := exec cmd s = .next t
  (∀ r rs, k.outbox = r :: rs → s.wardenNext p = some c → Completes (exec (.wardenJudge p c) s) fun t => (t.core c).outbox = rs ∧ (t.pav p).warden = coreIdx c + 1 ∧
    ((s.pav p).getF Reg.WD_PAV_CNT_JUDGED < 2 ^ 32 - 1 → (t.pav p).getF Reg.WD_PAV_CNT_JUDGED = (s.pav p).getF Reg.WD_PAV_CNT_JUDGED + 1) ∧
    ((s.pav p).owner = none → t.gardens = s.gardens ∧ t.ice = s.ice)) ∧
  (k.outbox = [] ∨ s.wardenNext p ≠ some c → ends (.wardenJudge p c) s) ∧
  (∀ waited, (s.pav p).segRun = none → s.patrolEligible c waited = true → s.patrolFirst c = true → x.nextSegment < 33 →
    Completes (exec (.patrolSegment c x.nextSegment waited) s) fun t => (t.pav p).segRun = some (c, x.nextSegment) ∧ (t.site c).segAt = s.now ∧
      t.cores = s.cores ∧ t.gardens = s.gardens) ∧
  (∀ seg, (s.pav p).segRun = some (c, seg) → let q := s.applyQueued p
    ends (.patrolSegmentEnd c .pass) (q.segmentPass c seg) ∧ (∀ b w, ends (.patrolSegmentEnd c (.lane b w)) (q.climbTo c 3)) ∧
    (∀ b n, b < 32 → n < 6144 → ends (.patrolSegmentEnd c (.line b n)) (q.repairLine c (b * 6144 + n))) ∧
    (∀ n, ends (.patrolSegmentEnd c (.failed n)) (q.segmentFail c seg n)) ∧
    (s.segmentEvent c = true → Completes (exec (.patrolAbandon c) s) fun t => (t.pav p).segRun = none ∧ (t.pav p).queued = [])) ∧
  (x.retired = false → (s.retire c 3).site c = { x with retired := true } ∧ ∃ r ∈ (s.retire c 3).ice.repairs, r.type = 1 ∧ r.unit = c) ∧
  (∀ t, x.probation = some t → t ≤ s.now → x.event = false → Completes (exec (.probationEnd c) s) fun u =>
    { u with sites := s.sites } = s ∧ u.site c = { x with probation := none, suspect := false, marks := [] }) ∧
  Completes (exec (.markExpire c) s) (fun t => { t with sites := s.sites } = s ∧
    t.site c = { x with marks := x.marks.filter fun m => s.now < m + s.cfgNat cfgPatrolMin * ticksPerMin }) ∧
  (s.overdue c = true → x.forced = none → Completes (exec (.patrolDeadline c) s) fun t =>
    { t with sites := s.sites } = s ∧ t.site c = { x with forced := some s.now }) ∧
  (∀ t, x.forced = some t → t + ticksPerMin ≤ s.now → ends (.forcedReliefTimeout c) (s.forceRelief c 4)) ∧
  (∀ l j m, g < 4 → s.recovering g = some j → j.moves.find? (fun m => m.1 = l && m.2.2 = 0) = some m → j.phase = 4 →
    s.takesWrites m.2.1 = true → ends (.reliefCopy g l) ((s.copySite g l m.2.1).putJob
      { j with moves := j.moves.map fun x => if x.1 = l then (x.1, x.2.1, 1) else x })) ∧
  (∀ found, g < 4 → s.recovering g = none → (s.garden g).recover = none → let bound := s.boundMs g * ticksPerMs
    (s.watchdogRuns g = true → (s.garden g).wdFrom + bound ≤ s.now → ends (.hangWatchdog g found) (s.hangFound g found)) ∧
    (∀ ticks, s.gState g = gRunning → (s.aveWaits g = true ∧ bound ≤ 4 * ticks) ∨ (s.tablesHeld g = true ∧ bound ≤ ticks) →
      ends (.avenueStall g ticks found) (s.hangFound g found)) ∧
    ((s.garden g).hang = none → ((s.hangFound g found).garden g).recover = some (5, 4)))

/-- R513, R532, R583, R588-R605: firmware, the owner's key, the factory stamp and postmarks. An image is staged through a parcel, checked and signed before it is
activated, and copied into the other slot on trial; the postmark is signed over its mark; the owner's key is set only where it is valid. -/
def Obligations.TrustIsKeptByCommands : Prop := ∀ (s : State) (ch : Nat) (a : Accepted),
  let l := a.letter
  let acts (code : Nat) (cmd : Instr) (t : State) : Prop := letterTurn s code ch a = true → exec cmd s = .next t
  let ends (cmd : Instr) (t : State) : Prop := exec cmd s = .next t
  let owner (k : List Byte) : State := s.updIce fun h => { h with ownerKey := k }
  (l.field 0 1 ≤ 1 → s.activation = none →
    acts 0x66 (.moduleReset ch) ((s.reply a []).askReset (if l.field 0 1 = 1 then 1 else 2))) ∧
  (∀ j, l.field 0 1 ≤ 1 → s.activation = some j →
    acts 0x66 (.moduleReset ch) (s.defer a 0x83 ((j.letter.map fun x => x.letter.sequence).getD 0))) ∧
  (let n := l.field 0 8
   let u := (s.closeParcels fun _ p => p.staging).updIce fun h => { h with staging := [], stagingLen := n, stagingDone := false }
   let x := u.addParcel { session := s.sessionOf a, garden := 0xFF, dir := 0, addr := 0, len := n, staging := true }
   s.activation = none → n % 8 = 0 → 8192 ≤ n → n ≤ 12 * 2 ^ 20 →
    ((u.openParcels (s.sessionOf a)).1 < 16 → (u.openParcels (s.sessionOf a)).2 < 256 →
      acts 0x82 (.firmwareStage ch) (x.2.reply a (leBytes 4 x.1))) ∧
    (16 ≤ (u.openParcels (s.sessionOf a)).1 ∨ 256 ≤ (u.openParcels (s.sessionOf a)).2 →
      acts 0x82 (.firmwareStage ch) (u.dead a dResource))) ∧
  (s.activation = none → s.ice.stagingDone = true → acts 0x83 (.firmwareActivate ch)
    (if fwChecks s.stagedBytes = false then s.dead a dImage else if fwSigned s.stagedBytes = false then s.dead a dSignature
     else s.begin a { kind := .firmware })) ∧
  (∀ j, s.activation = some j → s.iceBusy = none → Completes (exec .firmwareCopyComplete s) fun t =>
    t.ice.activeSlot = 1 - s.ice.activeSlot ∧ t.ice.trial = true ∧ t.ice.tries = 0 ∧
      Fm.look (1 - s.ice.activeSlot) t.ice.slots = some (fwOf s.stagedBytes) ∧ t.slow = s.slow) ∧
  (let at_ := 4000 * bitsOf l.tag 0 8
   let part := slice stampBytes at_ 4000
   acts 0x81 (.stampRead ch) (s.reply a (leBytes 2 stampLen ++ leBytes 2 at_ ++ leBytes 2 part.length ++ leBytes 2 0 ++ part))) ∧
  let made := if s.post.markRound = s.round then s.post.postmarks else 0
  (made < 32 → s.unswept = false → s.post.accepted.find? (fun b => b.letter.code = 0x80) = some a →
    let mark := s.markBytes ch ((l.body ++ List.replicate 32 0).take 32)
    acts 0x80 (.postmarkRequest ch) ((s.updPost fun p => { p with postmarks := made + 1, markRound := s.round }).reply a
      (mark ++ Config.identitySign (ascii "rolnar postmark" ++ mark)))) ∧
  (32 ≤ made ∨ s.unswept = true → acts 0x80 (.postmarkRequest ch) s) ∧
  (let key := slice l.body 0 1984
   zeroAt l.body 1984 8 = true → (key.all (· = 0) = true → acts 0x84 (.ownerKeySet ch) ((owner []).reply a [])) ∧
    (key.all (· = 0) = false → acts 0x84 (.ownerKeySet ch)
      (if Config.keyValid key = true then (owner key).reply a [] else s.dead a dField { offset := 0 }))) ∧
  (∀ i w, i < 248 → Completes (exec (.ownerload i w false) s) fun t => { t with test := s.test } = s ∧
    Fm.get 0 i t.test.ownerWords = w ∧ ∀ j, j ≠ i → Fm.get 0 j t.test.ownerWords = Fm.get 0 j s.test.ownerWords) ∧
  (∀ i w, 248 ≤ i → s.ice.ownerKey ≠ [] → ends (.ownerload i w true) { s with test := { s.test with ownerResult := 2 } }) ∧
  Completes (exec .ownerclr s) (fun t => t.ice.checkpoints = [] ∧ t.ice.ownerKey = [] ∧ t.test.clrResult = 1 ∧ t.slow = s.slow)

/-- R502-R531, R600: starts. With the busbar absent the module starts from nothing; a full bring-up and the fast path begin when they have been asked for; the
reset pin stops every core, and its rise asks for a start; test access reads reports, holds a stage and tests a pavilion without an owner. -/
def Obligations.StartsFollowTheirCause : Prop := ∀ (s : State) (b : BootFindings),
  let ends (cmd : Instr) (t : State) : Prop := exec cmd s = .next t
  (s.start.busbarAbsent = true → ends (.coldBoot b) (s.startWhole 0 b).goOn) ∧ (s.start.busbarAbsent = false → ends (.coldBoot b) s) ∧
  (∀ kind, s.start.want = some kind → s.start.running = false → s.start.busbarAbsent = false → s.power.stopped = false →
    (kind = 1 → ends (.fullBringUp b) (s.startWhole 1 b).goOn) ∧ (kind = 2 → ends (.warmFastPath b) (s.startWarm b).goOn)) ∧
  (let cold := s.startWhole 0 b
   cold.boot = s.boot + 1 ∧ cold.slow = [] ∧ cold.cores = [] ∧ cold.gardens = [] ∧ cold.start.running = true ∧ cold.start.found = b ∧
    cold.start.stage = 0 ∧ cold.start.rstHold = !s.pins.rstN ∧ (cold.ice.repairs, cold.ice.freq) = s.storedRecords ∧ cold.nextIncident = s.nextIncident ∧ cold.pending = s.pending) ∧
  (s.startWarm b).boot = s.boot + 1 ∧ (s.startWarm b).cartridges = s.cartridges ∧ (s.startWarm b).pending = s.pending ∧
  (s.start.running = true → s.start.stage = 8 → s.start.edgeDone = true → s.holds 8 = false →
    ends .settle s.settle.goOn ∧ s.settle.slow = [] ∧ s.settle.pending = s.pending) ∧
  (∀ micros, 10 ≤ micros → s.samplesRst = true → Completes (exec (.rstNAccept micros) s) fun t =>
    getF Reg.PM_STATUS_STATE t.pm = 0 ∧ t.pins.rstN = false ∧ t.start.rstLow = true ∧ t.slow = s.slow ∧
    (∀ e ∈ t.cores, e.2.getF Reg.KP_CTRL_RUN = 0) ∧ ∀ id, t.session id = none) ∧
  (∀ micros, micros < 10 → ends (.rstNAccept micros) { s with pins := { s.pins with rstN := false } }) ∧
  (let up : State := { s with pins := { s.pins with rstN := true } }
   ∀ micros,
    (s.start.rstHold = true → ends (.rstNRise micros) { up with start := { s.start with rstHold := false } }.goOn) ∧
    (s.start.rstHold = false → s.start.rstLow = true →
      ends (.rstNRise micros) { up with start := { s.start with rstLow := false, want := some (if 1000000 ≤ micros then 1 else 2) } }) ∧
    (s.start.rstHold = false → s.start.rstLow = false → ends (.rstNRise micros) up)) ∧
  (∀ i r, Fm.look i s.start.reports = some r → ends (.bootrpt i) { s with test := { s.test with bootOut := r.bytes } }) ∧
  (∀ i, Fm.look i s.start.reports = none → ends (.bootrpt i) { s with test := { s.test with bootOut := List.replicate 32 0 } }) ∧
  (∀ stage on, ends (.stagehold stage on) { s with start := { s.start with holdEnable := on, holdStage := stage } }.goOn) ∧
  (∀ p failing, p < Config.pavilions → (s.pav p).owner ≠ none →
    ends (.pavtest p failing) { s with test := { s.test with pavResult := 3 } }) ∧
  (∀ p failing, p < Config.pavilions → (s.pav p).owner = none → s.domainOn p = true → s.inService = true →
    (∀ c ∈ coresOf p, c ∈ failing → s.goodSite c = false) →
      ends (.pavtest p failing) { s with test := { s.test with pavResult := 1 } })

/-- R394-R407, R415: frames of peer ports, and what they do. A frame that is not well formed, of no agreed key or of an old tag is counted; a bundle of an avenue enters
towards its slice with its own tag; GENSYNC and PROBE tell who and what is at the other end; a port without PROBEs goes down. -/
def Obligations.PeerFramesActAtTheirPort : Prop := ∀ (s : State) (port : Nat) (pf : PeerFrame), Config.peerPresent port = true →
  let q := s.peerPort port
  let ends (cmd : Instr) (t : State) : Prop := exec cmd s = .next t
  let u := s.updPeerPort port fun q => q.incF Reg.LN_PEER_CNT_UNCORR pf.wire.fecUncorr
  let badly := u.updPeerPort port fun q => q.incF Reg.LN_PEER_CNT_FORMAT 1
  (∀ b m n, pf.destOk = false → ∀ cmd ∈ [Instr.bundle port pf b, .gensync port pf, .probe port pf m n], ends cmd u) ∧
  (∀ b m n, pf.destOk = true →
    (u.peerFormOk port pf 1 = false ∨ 6 < pf.pcp → ends (.bundle port pf b) badly) ∧
    (u.peerFormOk port pf 2 = false → ends (.gensync port pf) badly) ∧
    (u.peerFormOk port pf 3 = false ∨ pf.key ≠ 0 → ends (.probe port pf m n) badly)) ∧
  (pf.wire.fcsOk = false ∨ pf.wire.len < 64 ∨ 8254 < pf.wire.len ∨ pf.ether ≠ 0x88B5 ∨ pf.version ≠ 1 ∨ pf.bodyOk = false →
    ∀ type, u.peerFormOk port pf type = false) ∧
  (pf.destOk = true → u.peerFormOk port pf 1 = true → pf.pcp ≤ 6 → ∀ b,
    (s.recvs.find? (fun e => e.port = port && e.key = pf.key) = none →
      ends (.bundle port pf b) (u.updPeerPort port fun q => q.incF Reg.LN_PEER_CNT_UNKNOWN 1)) ∧
    (∀ e, s.recvs.find? (fun e => e.port = port && e.key = pf.key) = some e →
      let tag := s.endTag (codePeer (s.bridgeOf port)) e.garden
      let own : Bundle := { b with avenue := e.avenue, gen := tag, garden := e.garden }
      let item := ((s.portAttach port).getD e.router 0, e.slice, { own with hcrc := own.headCrc })
      (pf.rgen = tag → ends (.bundle port pf b)
        ({ u with endAve := Fm.upd [] (port * 8 + pf.pcp) (fun l => l ++ [item]) u.endAve }.peerXoff port pf.pcp)) ∧
      (pf.rgen ≠ tag → ends (.bundle port pf b) ((u.updPeerPort port fun q => q.incF Reg.LN_PEER_CNT_STALE 1).askGensync e tag)))) ∧
  (pf.destOk = true → u.peerFormOk port pf 2 = true → ends (.gensync port pf) (u.takeGensync port pf)) ∧
  (∀ e, s.sends.find? (fun e => e.port = port && e.key = pf.key) = some e → e.sent = false →
    s.takeGensync port pf = s.updSend port e.garden e.avenue fun x => { x with rgen := some pf.rgen }) ∧
  (∀ m n, pf.destOk = true → u.peerFormOk port pf 3 = true → pf.key = 0 → Completes (exec (.probe port pf m n) s) fun t =>
    (t.peerPort port).partner = some (m, n) ∧ (t.peerPort port).partnerMac = pf.srcMac ∧ (t.peerPort port).lastProbe = s.now ∧
    ((∀ p, q.partner = some p → p = (m, n)) → { t with peerPorts := s.peerPorts } = s)) ∧
  (s.lanternLit (s.bridgeOf port) = true → Completes (exec (.probeSend port) s) fun t => { t with peerPorts := s.peerPorts } = s ∧
    (s.swapOf port = none → (t.peerPort port).frames = q.frames ++ [s.peerTagged port (.probe (Config.serial.setWidth 64) port)]) ∧
    ∀ w, s.swapOf port = some w →
      (t.peerPort port).frames = q.frames ++ [s.peerTagged port (.probe (Config.serial.setWidth 64) (0x80 + w.spare))]) ∧
  (q.lastProbe + probeLimit ≤ s.now → ends (.probeTimeout port) (s.portDown port)) ∧ ends (.blockLockLoss port) (s.portDown port) ∧
  (s.portUp port = true → ((s.portDown port).peerPort port).getF Reg.LN_PEER_STATUS_UP = 0) ∧
  (s.portUp port = false → q.partner ≠ none → s.now < q.lastProbe + probeLimit → s.lanternLit (s.bridgeOf port) = true →
    Completes (exec (.peerLinkReturn port) s) fun t => (t.peerPort port).getF Reg.LN_PEER_STATUS_UP = 1 ∧ t.slow = s.slow) ∧
  (∀ n, Config.lanternPresent n = true → ends (.peerSend n) (s.peerSend n)) ∧
  (∀ n k b e tag, s.nextOut n [] (Fm.get [] (codePeer n) s.bridgeOut) = some (k, b) → s.sendAct n k b = .send e tag →
    Fm.get [] (codePeer n) (s.peerSend n).bridgeOut = (Fm.get [] (codePeer n) s.bridgeOut).erase (k, b))

/-- R394, R395, R408-R417, R484, R401: lanterns, their cartridges, their ports' pauses and swaps. A cartridge out of its limits stops serving and the other takes over; a spare carries a
port once its partner is found; a pause holds a priority until it ends. -/
def Obligations.LanternsCartridgesAndPauses : Prop := ∀ (s : State) (n c : Nat), Config.lanternPresent n = true → c < 2 →
  let key := cartKey n c
  let active := s.activeCart n
  let ends (cmd : Instr) (t : State) : Prop := exec cmd s = .next t
  (s.usableCart n active = true → ends (.cartridgeExcursion n) ((s.setUsable n active false).replaceActive n)) ∧
  (s.usableCart n active = false → ends (.cartridgeExcursion n) s) ∧
  (s.usableCart n (1 - active) = true → active < 2 → (s.replaceActive n).activeCart n = 1 - active) ∧
  (∀ r0 r1, Completes (exec (.cartridgeJudgement n r0 r1) s) fun t => t.slow = s.slow ∧ t.cores = s.cores ∧
    (t.cartridge (cartKey n 0)).output = r0.output ∧ (t.cartridge (cartKey n 1)).output = r1.output) ∧
  Completes (exec (.cartridgeRelease n c) s) (fun t => (t.cartridge key).inserted = false ∧ (t.cartridge key).emitting = false ∧
    t.slow = s.slow ∧ t.cores = s.cores) ∧
  ((s.cartridge key).inserted = false → Completes (exec (.cartridgeInsert n c) s) fun t => { t with cartridges := s.cartridges } = s ∧
    t.cartridge key = { inserted := true, changes := (s.cartridge key).changes + 1 }) ∧
  ((s.cartridge key).inserted = true → (s.cartridge key).emitting = false → Completes (exec (.cartridgeReady n c) s) fun t =>
    (t.cartridge key).emitting = true ∧ t.usableCart n c = true ∧ t.slow = s.slow) ∧
  (∀ port link, port < 2 → link < 2 → Completes (exec (.hostLinkDown port link) s) fun t => { t with hostPorts := s.hostPorts } = s ∧
    (t.hostPort port).getF (linkF link) = 0 ∧ ∀ d, d ≠ port → t.hostPort d = s.hostPort d) ∧
  (∀ port link, port < 2 → link < 2 → s.lanternLit 2 = true → s.hasLink port link = true → s.swaps = [] →
    Completes (exec (.hostLinkUp port link) s) fun t => { t with hostPorts := s.hostPorts } = s ∧ (t.hostPort port).getF (linkF link) = 1) ∧
  (∀ o, Config.orangeryPresent o = true → o ∉ s.power.edgeFailed → Completes (exec (.edgeRegulatorFail 0 (.orangery o)) s) fun t =>
    o ∈ t.power.edgeFailed ∧ (t.orang o).getF Reg.OR_STATUS_FAULT = 1 ∧ (t.orang o).getF Reg.OR_STATUS_READY = 0 ∧
      ((∀ g < 4, (s.orang o).eng g ≠ engCommitting) → t.slow = s.slow)) ∧
  (∀ r, ∀ x ∈ [(EdgeUnit.postmaster, 32), (.icehouse, 33), (.lodge, 34), (.sundial, 35)], Completes (exec (.edgeRegulatorFail r x.1) s) fun t =>
    x.2 ∈ t.power.edgeFailed ∧ t.power.stopped = true ∧ t.pins.pgood = false ∧ t.slow = s.slow) ∧
  (∀ port prio quanta, Config.peerPresent port = true → prio < 7 → ends (.pfcFrame true port prio quanta)
    (s.updPeerPort port fun q => q.setF (peerPausedF prio) (if 0 < quanta then 1 else 0)) ∧
    ends (.pauseExpire true port prio) (s.updPeerPort port fun q => q.setF (peerPausedF prio) 0) ∧
    ((s.peerPort port).getF (xoffF prio) = 1 →
      ends (.pfcRefresh true port prio) (s.sendPfc port prio (decide (524288 < s.ingress port prio))))) ∧
  (∀ port readings spare, Config.peerPresent port = true → [0, 1].find? s.spareFree = some spare → s.cfg cfgSwapAuto = 1 → s.inService = true →
    s.pastLimits readings = true → (∀ w ∈ s.swaps, w.port ≠ port) →
    (∀ j ∈ s.post.jobs, ∀ d ∈ s.swapGardens port, j.changesGarden d = false) →
      ends (.autoSwap port readings) ((s.startSwap port spare true).addJob { kind := .autoSwap, arg := port, arg2 := spare })) ∧
  (∀ readings : List (Nat × Nat), readings.length = 16 → (∀ r ∈ readings, s.cfgNat cfgSwapFec ≤ r.1 ∨ s.cfgNat cfgSwapTx ≤ r.2) →
    s.pastLimits readings = true) ∧
  (∀ spare m p, spare < 2 → Completes (exec (.swapPartnerFound spare m p) s) fun t => { t with swaps := s.swaps } = s ∧
    ∀ w ∈ s.swaps, w.spare = spare → w.phase = 0 → w.port < 16 → (s.peerPort w.port).partner = some (m, p) → { w with phase := 1 } ∈ t.swaps) ∧
  (∀ spare, spare < 2 → (∀ w ∈ s.swaps, w.spare = spare → w.phase = 0 → s.now < w.began + 600 * ticksPerSec) →
    ends (.swapTimeout spare) s) ∧
  (∀ spare w j, spare < 2 → s.swaps.find? (fun w => w.spare = spare && w.phase = 0 && w.began + 600 * ticksPerSec ≤ s.now) = some w →
    s.jobById w.job = some j → j.phase = 0 → (s.swapGardens w.port).isEmpty = true → ends (.swapTimeout spare) (s.dropSwap j dState))

/-- R404-R409: letters of peer avenues and of ports. Each names what is wrong with it, and begins its change where nothing is. -/
def Obligations.PeerLettersAct : Prop := ∀ (s : State) (ch : Nat) (a : Accepted),
  let l := a.letter
  let g := l.garden
  let e := l.peerEntry a.channel
  let p := l.field 0 1
  let spare := l.field 1 1
  let acts (code : Nat) (cmd : Instr) (t : State) : Prop := letterTurn s code ch a = true → exec cmd s = .next t
  let list := if l.field 3 1 = 0 then s.sends else s.recvs
  (16 ≤ e.port → acts 0x90 (.peerAvenueOpen ch) (s.dead a dField { offset := 2 })) ∧
  (Config.peerPresent e.port = true → s.portClosing g e.port = none → e.port < 16 →
    (s.gState g = gLoaded ∨ s.gState g = gRunning) → s.peerRecord g e.avenue e.port = true →
    ((s.garden g).prot.peer.testBit e.port = false → acts 0x90 (.peerAvenueOpen ch) (s.dead a dProtection { unit := 8, unitId := e.port })) ∧
    ((s.garden g).prot.peer.testBit e.port = true → l.peerFields = true →
      (∀ x ∈ list, x.port = e.port → x.key ≠ e.key ∧ (x.garden ≠ g ∨ x.avenue ≠ e.avenue)) → (list.filter fun x => x.port = e.port).length < 64 →
      acts 0x90 (.peerAvenueOpen ch) (s.begin a { kind := .peerOpen, garden := g, changes := [.peer g (l.field 3 1 = 0) true e] }))) ∧
  (l.field 0 2 < 1024 → acts 0x91 (.peerAvenueClose ch) (s.begin a { kind := .peerClose, garden := g, arg := l.field 0 2, arg2 := 16 })) ∧
  (1024 ≤ l.field 0 2 → acts 0x91 (.peerAvenueClose ch) (s.dead a dField { offset := 0 })) ∧
  (p < 16 ∧ Config.peerPresent p = true ∨ p = 0x80 ∨ p = 0x81 → spare < 2 → s.spareFree spare = true → (∀ w ∈ s.swaps, w.port ≠ p) →
    (∀ j ∈ s.post.jobs, ∀ d ∈ s.swapGardens p, j.changesGarden d = false) →
      acts 0x92 (.peerPortSwap ch) ((s.startSwap p spare false).begin a { kind := .swap, arg := p, arg2 := spare })) ∧
  (16 ≤ p → acts 0x93 (.peerStatus ch) (s.dead a dField { offset := 0 })) ∧
  (p < 16 → Config.peerPresent p = true →
    let q := s.peerPort p
    let count (l : List PeerEntry) : Nat := (l.filter fun e => e.port = p).length
    acts 0x93 (.peerStatus ch) (s.reply a (leBytes 8 (s.peerShow p (getReg .ln 0x200 q.regs)).toNat ++ leBytes 8 (getReg .ln 0x208 q.regs).toNat ++
      leBytes 8 (q.partner.getD (0, 0)).1.toNat ++ leBytes 1 (q.partner.getD (0, 0)).2 ++ leBytes 1 (count s.sends) ++ leBytes 1 (count s.recvs))))

/-- R353, R359-R366, R376-R392: frames of the host ports. One that the port cannot take, that is not of version 1 or not well formed, of no session, not authentic,
or seen before is counted and has no further effect; one that is taken acts, is acknowledged, and its session sends what waits. -/
def Obligations.HostFramesActOnTheirSession : Prop := ∀ (s : State) (f : Frame), f.path.port < 2 →
  let port := f.path.port
  let udp := s.iturnUdp port
  let heard := s.heardOn ⟨f.path, f.wire⟩
  let marked := if f.ce then heard.updSession f.session fun x => { x with ceNoted := true } else heard
  let ends (cmd : Instr) (t : State) : Prop := exec cmd s = .next t
  let done (t : State) : State := t.flushSession f.session
  let mine (u : State) (x : Session) : Session := (u.session f.session).getD x
  (∀ l q i n o m g, ∀ e ∈ [(4, Instr.finished f m g), (5, .regReq f q), (8, .parcelPull f i n o), (9, .iturnAck f)] ++
      (if f.session = 0 then [] else [(1, .letter f l)]),
    (s.windowOpen = false → ends e.2 heard) ∧
    (∀ cnt, s.windowOpen = true → s.wireFault port f.wire udp = some cnt → ends e.2 (heard.bumpIturn port cnt)) ∧
    (s.hears ⟨f.path, f.wire⟩ udp = true →
      (f.sound e.1 = false → ends e.2 (marked.bumpIturn port Reg.LN_ITURN_CNT_FORMAT)) ∧
      (f.sound e.1 = true → s.session f.session = none →
        ends e.2 ((marked.bumpIturn port Reg.LN_ITURN_CNT_UNKNOWN).sendGone f.path f.session (Fm.get 1 f.session s.bridge.ended))) ∧
      (∀ x, f.sound e.1 = true → s.session f.session = some x →
        (f.authOk = false ∨ x.phaseOk (f.flags / 2) s.now = false → ends e.2 (marked.bumpIturn port Reg.LN_ITURN_CNT_AUTH)) ∧
        (f.authOk = true → x.phaseOk (f.flags / 2) s.now = true → x.seen.contains f.pn = true ∨ f.pn + 1024 < x.newest →
          Completes (exec e.2 s) fun t => t.chans = s.chans ∧
            ∃ y, t.session f.session = some y ∧ y.path = f.path ∧ y.seen = x.seen ∧ y.lastFrame = x.lastFrame)))) ∧
  (∀ x type el, takenFrame s f type el x = true → (heard.intake f type el).2 = true ∧ ∃ y, (s.took f type el).session f.session = some y ∧
    y.path = f.path ∧ y.channel = x.channel ∧ f.pn ∈ y.seen ∧ y.lastFrame = s.now) ∧
  (∀ l : Letter, f.session = 0 → s.hears ⟨f.path, f.wire⟩ udp = true →
    let heardBy := if f.ce then heard.updBridge fun b => { b with publicCe := true } else heard
    (f.version = 1 → f.type = 1 → f.flags = 0 → f.formOk = true → l.body.length ≤ 4064 →
      ((s.chan 0).inSlots.length < 8 → ends (.letter f l) (heardBy.slotLetter 0 f l) ∧ ((heardBy.slotLetter 0 f l).chan 0).inSlots =
        (s.chan 0).inSlots ++ [{ letter := l, fits := decide (l.length = l.body.length), path := f.path }]) ∧
      (8 ≤ (s.chan 0).inSlots.length → ends (.letter f l) (heardBy.bumpIturn port Reg.LN_ITURN_CNT_BUSY))) ∧
    (f.version ≠ 1 ∨ f.type ≠ 1 ∨ f.flags ≠ 0 ∨ f.formOk = false ∨ 4064 < l.body.length →
      ends (.letter f l) (heardBy.bumpIturn port Reg.LN_ITURN_CNT_FORMAT))) ∧
  (∀ l x, f.session ≠ 0 → takenFrame s f 1 true x = true → let u := s.took f 1 true
    ((s.chan x.channel).inSlots.length < 8 → ends (.letter f l) (done ((u.slotLetter x.channel f l).ackFrame f.session f.pn))) ∧
    (8 ≤ (s.chan x.channel).inSlots.length → ends (.letter f l) (done (u.discardFrame f Reg.LN_ITURN_CNT_BUSY)))) ∧
  (∀ x mac sig, takenFrame s f 4 true x = true → let u := s.took f 4 true
    let right := mac && (x.role = roleT || (sig && !s.ice.ownerKey.isEmpty))
    (x.ready = true → ends (.finished f mac sig) (done (u.ackFrame f.session f.pn))) ∧
    (x.ready = false → right = true →
      ends (.finished f mac sig) (done ((u.putSession f.session { mine u x with ready := true, readyAt := s.now }).ackFrame f.session f.pn))) ∧
    (x.ready = false → right = false → ends (.finished f mac sig) (done ((u.endSession f.session 5).sendGone f.path f.session 5)))) ∧
  (∀ x q, takenFrame s f 5 true x = true → let u := s.took f 5 true
    (∀ e, x.replies.find? (fun e => e.1 = q.reqid) = some e →
      ends (.regReq f q) (done ((u.ackFrame f.session f.pn).queueContent f.session [.plain 6 e.2]))) ∧
    (x.replies.find? (fun e => e.1 = q.reqid) = none →
      let r := if q.ok then u.regAccess x.channel q else (u, [], false)
      let status := if !q.ok then 1 else if r.2.2 then 2 else 0
      let reply := leBytes 4 q.reqid ++ leBytes 2 q.count ++ leBytes 1 status ++ leBytes 1 0 ++ wordsBytes r.2.1
      ends (.regReq f q) (done (((r.1.updSession f.session fun x => { x with replies := ((q.reqid, reply) :: x.replies).take 16 }).ackFrame
        f.session f.pn).queueContent f.session [.plain 6 reply])))) ∧
  (∀ x id off data, let f' := { f with wire := { f.wire with len := max f.wire.len (data.length + 112) } }
    8 ≤ data.length → data.length ≤ 8192 → data.length % 8 = 0 → takenFrame s f' 7 true x = true → let u := s.took f' 7 true
    (s.parcelOk f' id 0 off data.length = false → ends (.parcelData f id off data) (done (u.parcelFault f'))) ∧
    (s.parcelOk f' id 0 off data.length = true → s.parcelHeld id = true →
      ends (.parcelData f id off data) (done (u.discardFrame f' Reg.LN_ITURN_CNT_BUSY))) ∧
    (∀ p, s.parcelOk f' id 0 off data.length = true → s.parcelHeld id = false → s.parcel id = some p →
      (p.staging = false → ends (.parcelData f id off data) (done (u.parcelWrite f' id off data))) ∧
      (p.staging = true → ends (.parcelData f id off data) (done (((u.updIce fun h =>
        { h with staging := writeBytes off data h.staging }).parcelMoved id off data.length).ackFrame f.session f.pn))))) ∧
  (∀ x id len off, takenFrame s f 8 true x = true → let u := s.took f 8 true
    let pulls := (mine u x).pulls.filter fun q => u.pullBusy f.session (mine u x) q
    (s.parcelOk f id 1 off len = false ∨ 4194304 < len → ends (.parcelPull f id len off) (done (u.parcelFault f))) ∧
    (s.parcelOk f id 1 off len = true → len ≤ 4194304 → s.parcelHeld id = true →
      ends (.parcelPull f id len off) (done (u.discardFrame f Reg.LN_ITURN_CNT_BUSY))) ∧
    (s.parcelOk f id 1 off len = true → len ≤ 4194304 → s.parcelHeld id = false → x.pulls.length < 16 →
      ends (.parcelPull f id len off) (done (((u.putSession f.session { mine u x with pulls := pulls ++ [(id, off, len)] }).ackFrame
        f.session f.pn).queueContent f.session ((List.range (ceilDiv len 8192)).map fun i =>
          Content.data id (off + 8192 * i) (min 8192 (len - 8192 * i))))))) ∧
  (∀ x, takenFrame s f 9 false x = true → ends (.iturnAck f) (done (s.took f 9 false)))

/-- R365, R372-R377, R380, R353-R358: a session's timers, and what a host port answers. A frame unacknowledged in time is sent again from a small window; a session idle, unacknowledged,
not finished or not bound in time, or at its key's limit, ends. -/
def Obligations.SessionTimersAndPortAnswers : Prop := ∀ (s : State) (id : Nat) (x : Session), s.session id = some x →
  let ends (cmd : Instr) (t : State) : Prop := exec cmd s = .next t
  (∀ pn f, x.inflight.find? (fun f => f.pn = pn) = some f →
    let paused := ∃ w ∈ s.bridge.waiting, w.session = id ∧ w.pn = pn
    (s.now < f.sent + x.rto ∨ paused → ends (.retransmissionTimer id pn) s) ∧
    (f.sent + x.rto ≤ s.now → ¬paused → ends (.retransmissionTimer id pn) (((s.putSession id { x with
      inflight := x.inflight.erase f, sendQ := f.content :: x.sendQ, cwnd := 16608, slow := false,
      rto := min (2 * x.rto) 10000000 }).bumpIturn x.path.port Reg.LN_ITURN_STAT_RETX).flushSession id))) ∧
  (x.lastFrame + s.cfgNat cfgIdleS * ticksPerSec ≤ s.now → ends (.sessionIdleTimeout id) (s.endSession id 3)) ∧
  (s.now < x.lastFrame + s.cfgNat cfgIdleS * ticksPerSec → ends (.sessionIdleTimeout id) s) ∧
  ((∃ e ∈ x.firsts, e.2 + 5 * ticksPerSec ≤ s.now) → ends (.unackedTimeout id) (s.endSession id 2)) ∧
  (x.ready = false → x.opened + ticksPerSec ≤ s.now → ends (.finishedTimeout id) ((s.endSession id 5).sendGone x.path id 5)) ∧
  (x.ready = true → ends (.finishedTimeout id) s) ∧
  (x.ready = true → x.role = roleT → x.bound = false → x.readyAt + 60 * ticksPerSec ≤ s.now → ends (.unboundTimeout id) (s.endSession id 2)) ∧
  (x.bound = true → ends (.unboundTimeout id) s) ∧
  (∀ t, x.oldUntil = some t → t ≤ s.now → ends (.oldPhaseExpire id) (s.putSession id { x with oldUntil := none, oldKeys := none })) ∧
  (2 ^ 32 ≤ x.txKey ∨ 2 ^ 32 ≤ x.rxKey → ends (.keyLimit id) ((s.endSession id 2).sendGone x.path id 2)) ∧
  (x.txKey < 2 ^ 32 → x.rxKey < 2 ^ 32 → ends (.keyLimit id) s) ∧
  (∀ reason, (s.endSession id reason).session id = none ∧ Fm.look id (s.endSession id reason).bridge.ended = some reason ∧
    ((s.endSession id reason).chan x.channel).role = 0 ∧ (s.endSession id reason).slow = s.slow) ∧
  (∀ (h : Heard) (target : Nat), s.hears h none = true →
    let u := s.heardOn h
    let port := h.path.port
    (s.ip4 port = some target → ends (.arpRequest h target) (u.answer h.path 0) ∧ (∀ hi lo : Word, lo.toNat = target →
      ends (.echoRequest h false hi lo) (u.answer h.path 2))) ∧
    (s.ip4 port ≠ some target → ends (.arpRequest h target) u) ∧
    (∀ hi lo, s.isIp6 port hi lo = true → ends (.neighbourSolicitation h hi lo) (u.answer h.path 1) ∧
      ends (.echoRequest h true hi lo) (u.answer h.path 3)) ∧
    (∀ hi lo, s.isIp6 port hi lo = false → ends (.neighbourSolicitation h hi lo) u ∧ ends (.echoRequest h true hi lo) u)) ∧
  (∀ port prio quanta, port < 2 → prio < 8 → s.hostPauses port prio = true →
    let u := s.updHostPort port fun q => q.incF Reg.LN_HOST_MAC_CNT_PFCRX 1
    (0 < quanta → ends (.pfcFrame false port prio quanta) (u.updHostPort port fun q => q.setF (hostPausedF prio) 1)) ∧
    ends (.pfcFrame false port prio 0) ((u.updHostPort port fun q => q.setF (hostPausedF prio) 0).resumeHost port) ∧
    ends (.pauseExpire false port prio) ((s.updHostPort port fun q => q.setF (hostPausedF prio) 0).resumeHost port))

/-- R361, R362, R453-R456, R635: the discipline of the sundial and its reference clock. A SYNC of the master followed, or an edge, gives an offset, which steps the epoch or is servoed; the better
dataset is followed; a source that is silent too long puts the sundial into holdover. -/
def Obligations.TheDisciplineFollowsItsSource : Prop := ∀ (s : State) (h : Heard) (domain : Nat),
  let port := h.path.port
  port < 2 → getF Reg.SD_TIME_SOURCE s.sd = port + 1 → s.cfgNat cfgPtpDomain = domain →
  let u := s.heardOn h
  let ends (cmd : Instr) (t : State) : Prop := exec cmd s = .next t
  (∀ source m a, s.hears h (some 319) = true →
    (s.follows source = true → ends (.sync h domain source m a)
      ({ u with disc := { u.disc with t1 := m, t2 := a - s.rxDelay port, syncPath := h.path } }.takeOffset
        (s.outside (a - s.rxDelay port) - m - s.disc.pathDelay))) ∧
    (s.follows source = false → ends (.sync h domain source m a) u)) ∧
  (∀ off : Int, 16000000 < off.natAbs → s.epoch - off / 16 < 2 ^ 63 → - 2 ^ 63 ≤ s.epoch - off / 16 → Completes (.next (s.takeOffset off)) fun t =>
    t.epoch = s.epoch - off / 16 ∧ getF Reg.SD_TIME_STEPPED t.sd = 1 ∧ getF Reg.SD_TIME_HOLDOVER t.sd = 0 ∧ t.disc.lastSync = s.now ∧ t.disc.inRange = 0) ∧
  (∀ d, s.hears h (some 320) = true →
    (s.disc.master = none → ends (.announce h domain d) { u with disc := { u.disc with master := some d } }) ∧
    (∀ m, s.disc.master = some m → m.getLast? = d.getLast? ∨ better d m = true →
      ends (.announce h domain d) { u with disc := { u.disc with master := some d } }) ∧
    (∀ m, s.disc.master = some m → m.getLast? ≠ d.getLast? → better d m = false → ends (.announce h domain d) u)) ∧
  (∀ source r i t3, s.hears h (some 320) = true → s.disc.delaySent = some t3 →
    (s.follows source = true → Completes (exec (.delayResp h domain source r i) s) fun t => { t with disc := u.disc } = u ∧
      t.disc.pathDelay = ((s.outside s.disc.t2 - s.disc.t1) + (r - s.outside t3)) / 2 ∧ t.disc.delaySent = none ∧
      ticksPerSec / 16 ≤ t.disc.delayInterval ∧ (∀ k : Nat, i = k → t.disc.delayInterval = ticksPerSec * 2 ^ k)) ∧
    (s.follows source = false → ends (.delayResp h domain source r i) u)) ∧
  (∀ d, s.windowOpen = true → s.disc.master ≠ none → s.disc.delayAt + s.disc.delayInterval ≤ s.now → s.iturnPaused port = false →
    let a := s.answer s.disc.syncPath 4
    ends (.delayReq port d) { a with disc := { a.disc with delaySent := some (d + s.txDelay port), delayAt := s.now } }) ∧
  (∀ d, s.disc.master = none ∨ s.now < s.disc.delayAt + s.disc.delayInterval ∨ s.iturnPaused port = true → ends (.delayReq port d) s) ∧
  (s.now < s.disc.lastSync + 16 * ticksPerSec → ends .disciplineHoldover s) ∧
  (getF Reg.SD_TIME_HOLDOVER s.sd = 0 → s.disc.lastSync + 16 * ticksPerSec ≤ s.now → Completes (exec .disciplineHoldover s) fun t =>
    getF Reg.SD_TIME_HOLDOVER t.sd = 1 ∧ getF Reg.SD_TIME_LOCKED t.sd = 0 ∧ t.disc.inRange = 0 ∧ t.slow = s.slow) ∧
  (∀ (u : State) (stamp : Int), getF Reg.SD_TIME_SOURCE u.sd = 3 → u.power.stopped = false →
    (∀ e, u.disc.lastEdge = some e → stamp - e < 800000000 → Completes (exec (.syncInEdge stamp) u) fun t =>
      getF Reg.SD_TIME_SYNCFAULT t.sd = 1 ∧ t.disc = u.disc ∧ t.slow = u.slow) ∧
    (∀ e, u.disc.lastEdge = some e → 800000000 ≤ stamp - e → u.disc.firstEdge = false → exec (.syncInEdge stamp) u =
      .next ({ u with disc := { u.disc with lastEdge := some stamp, firstEdge := false } }.takeOffset (toSecond (u.outside stamp))))) ∧
  Completes (exec .refclkReturn s) (fun t => t.pins.refclk = true ∧ t.srcHoldover = false ∧ { t with pins := s.pins, srcHoldover := s.srcHoldover } = s) ∧
  Completes (exec .refclkLoss s) (fun t => t.pins.refclk = false ∧ t.slow = s.slow ∧ (s.srcLocked = true → t.srcHoldover = true))

/-- R455-R459, R464, R465: chimes. A unit that agrees records the stage and acknowledges; with every acknowledgement in, the chime is set two rounds ahead or at the round asked for; a
refused or late stage is discarded; a unit applies its records at their chime, and drops one that never gets one. -/
def Obligations.StagesAreAgreedAndChime : Prop := ∀ (s : State) (u id : Nat), u < chimeUnits →
  let rs := s.recordsOf u
  let ends (cmd : Instr) (t : State) : Prop := exec cmd s = .next t
  (∀ g, s.stageOf id = some g → g.pendingAck.contains u = true → g.t = none → s.unitLive u = true →
    let cs := g.changes.filter (s.reaches u)
    let locked := rs.any fun r => r.changes.any fun a => cs.any fun b => a.clashes b
    (locked = false → rs.length < 8 → s.unitAgrees u cs = true → Completes (exec (.stage u id) s) fun t =>
      t.recordsOf u = rs ++ [{ id := id, changes := cs, since := s.now }] ∧ t.slow = s.slow ∧ t.cores = s.cores ∧
      (s.round ≤ g.round → t.stageOf id = some { g with pendingAck := g.pendingAck.filter (· ≠ u), lastAck := s.now }) ∧
      (g.round < s.round → t.stageOf id = some g)) ∧
    (locked = true ∨ 8 ≤ rs.length ∨ s.unitAgrees u cs = false → Completes (exec (.stage u id) s) fun t =>
      t.recordsOf u = rs ∧ t.stageOf id = some { g with refused := true } ∧ t.slow = s.slow)) ∧
  (s.stageOf id = none → ends (.stage u id) s ∧ ends (.ackDeadline id) s) ∧
  (getF Reg.PM_STATUS_STATE s.pm ≠ 2 → ends (.ackDeadline id) s) ∧
  (∀ g, getF Reg.PM_STATUS_STATE s.pm = 2 → s.stageOf id = some g → g.t = none →
    (g.refused = true ∨ g.pendingAck ≠ [] ∧ (g.round < s.round ∨ s.tick = 65535)) → ends (.ackDeadline id) (s.discardStage g)) ∧
  (∀ g, getF Reg.PM_STATUS_STATE s.pm = 2 → s.stageOf id = some g → g.t = none → g.refused = false → g.pendingAck = [] → Completes (exec (.ackDeadline id) s) fun t =>
    ∃ h n, t.stageOf id = some h ∧ h.t = some n ∧ t.records = s.records ∧ t.slow = s.slow ∧
      let low := ((g.lastAck + 65535) / 65536 + 2) * 65536
      low ≤ n ∧ n ≤ low + 16384 * 65536 ∧ n % 65536 = 0 ∧
        (g.named = 0 → n = low) ∧ (g.named % 65536 = 0 → low ≤ g.named → g.named ≤ low + 16384 * 65536 → n = g.named)) ∧
  (∀ g t r, s.stageOf id = some g → g.t = some t → rs.find? (fun r => r.id = id && r.t.isNone) = some r →
    (s.unitCount u < t → ends (.chime u id) (s.setRecords u (rs.map fun x => if x.id = id then { x with t := some t } else x))) ∧
    (t ≤ s.unitCount u → ends (.chime u id) ((((s.setRecords u (rs.filter fun x => x.id ≠ id)).applyRecords u [{ r with t := some t }]).incSd
      Reg.SD_CNT_LATE 1).reportAt 0x41 (if u < 432 then 2 else 0) u none))) ∧
  (s.post.discarded.contains (u, id) = true → (rs.any fun r => r.id = id) = true →
    ends (.stageDiscard u id) (((s.updPost fun p => { p with discarded := p.discarded.erase (u, id) }).setRecords u
      (rs.filter fun x => x.id ≠ id)).dropVoltage u)) ∧
  (s.post.discarded.contains (u, id) = false → ends (.stageDiscard u id) s) ∧
  (let due (r : StageRec) : Bool := r.t.any fun t => t ≤ s.unitCount u
   ends (.chimeApply u) ((s.setRecords u (rs.filter fun r => !due r)).applyRecords u (rs.filter due))) ∧
  (∀ r, rs.find? (fun r => r.id = id) = some r → (r.t ≠ none ∨ s.now < r.since + 16 * 65536) → ends (.recordExpire u id) s) ∧
  (∀ r, rs.find? (fun r => r.id = id) = some r → r.t = none → r.since + 16 * 65536 ≤ s.now → Completes (exec (.recordExpire u id) s) fun t =>
    t.recordsOf u = rs.filter (fun x => x.id ≠ id) ∧ t.slow = s.slow)

/-- R439-R449, R454: the sundial and the clocks. A strobe counts, the copies follow it; a pavilion that loses its input holds over and chooses a source, relocks to it, or goes dark when its holdover
ends; monitors below their limit stretch. -/
def Obligations.ClocksAndTheSundialRun : Prop := ∀ (s : State) (p : Nat), p < Config.pavilions →
  let v := s.pav p
  let ends (cmd : Instr) (t : State) : Prop := exec cmd s = .next t
  (∀ n drifts, s.power.stopped = false → s.now + n < 2 ^ 64 → Completes (exec (.tickStrobe n drifts) s) fun t =>
    t.now = s.now + n ∧ t.cores = s.cores ∧ t.slow = s.slow ∧ t.gardens = s.gardens ∧
    (drifts = [] → (s.pavs.map Prod.fst).Nodup → ∀ w, Fm.look p s.pavs = some w → t.pav p = w.follow n 0) ∧
    (∀ d : Int, drifts = [(p, d)] → (s.pavs.map Prod.fst).Nodup → ∀ w, Fm.look p s.pavs = some w → t.pav p = w.follow n d)) ∧
  (∀ n drifts, s.power.stopped = true → ends (.tickStrobe n drifts) s) ∧
  Completes (exec .fullCount s) (fun t => t.now = s.now ∧ t.slow = s.slow ∧
    (s.unitLive p = true → v.getF Reg.PV_CLK_STATUS_HOLDOVER = 0 → v.sdHold = false → (t.pav p).sdLag = min 0 v.sdLag ∧
      (t.pav p).sdHold = decide (v.sdLag < 0) ∧ (1 < v.sdLag.natAbs → (t.pav p).getF Reg.PV_CLK_STATUS_SDERR = 1))) ∧
  (v.powered = true → v.getF Reg.PV_CLK_STATUS_LOCKED = 1 → v.getF Reg.PV_CLK_STATUS_HOLDOVER = 0 → Completes (exec (.inputLoss p) s) fun t =>
    OnlyPav p s t ∧ (t.pav p).getF Reg.PV_CLK_STATUS_HOLDOVER = 1 ∧ (t.pav p).hold = s.now ∧ (t.pav p).newSource = s.chooseSource p) ∧
  (v.powered = true → v.newSource = none → v.getF Reg.PV_CLK_STATUS_HOLDOVER = 1 ∨ v.dark = true →
    ends (.sourceRetry p) (s.updPav p fun v => { v with newSource := s.chooseSource p })) ∧
  (v.getF Reg.PV_CLK_STATUS_HOLDOVER = 1 → v.newSource = none → v.hold + 20000 ≤ s.now → Completes (exec (.goDark p) s) fun t =>
    (t.pav p).dark = true ∧ (t.pav p).getF Reg.PV_CLK_STATUS_LOCKED = 0 ∧ (t.pav p).getF Reg.PV_REG_STATUS_ON = 0 ∧ t.slow = s.slow) ∧
  (v.getF Reg.PV_CLK_STATUS_HOLDOVER = 0 → ends (.goDark p) s) ∧
  (∀ side, v.newSource = some side → side < 4 → Completes (exec (.relock p) s) fun t =>
    (t.pav p).getF Reg.PV_CLK_STATUS_LOCKED = 1 ∧ (t.pav p).getF Reg.PV_CLK_STATUS_HOLDOVER = 0 ∧ (t.pav p).newSource = none ∧
    (t.pav p).dark = false ∧ (t.pav p).getF Reg.PV_CLK_STATUS_SOURCE = side ∧ t.slow = s.slow) ∧
  (v.newSource = none → ends (.relock p) s) ∧
  (∀ ms, ms.length = 16 → (∀ m ∈ ms, m < 16) → v.getF Reg.PV_REG_STATUS_ON = 1 → Completes (exec (.marginReport p ms) s) fun t => OnlyPav p s t ∧
    (t.pav p).stretchRound = v.stretchRound + (if ms.any (fun m => m < v.getF Reg.PV_CLK_CFG_MARGINMIN) then 1 else 0) ∧
    ∀ i < 16, (t.pav p).getF ⟨.pv, 0x58, 4 * i, 4⟩ = min (v.getF ⟨.pv, 0x58, 4 * i, 4⟩) (ms.getD i 15))

/-- Log entry 1: a step takes the command at the front of the queue and runs it on the state with the rest; on an empty queue the module idles. -/
def Obligations.AStepRunsTheFrontCommand : Prop := ∀ (s : State) (c : Instr) (rest : List Instr),
  (s.pending = c :: rest → step s = exec c { s with pending := rest }) ∧ (s.pending = [] → step s = .next s)

/-- Every command that names units the module has completes, in every state, but for a busbar beyond its ratings (R630), where nothing is defined; one that
names a unit the module does not have changes nothing (log entry 38, the model's choice). -/
def Obligations.EveryWellFormedCommandCompletes : Prop := ∀ (c : Instr) (s : State),
  (c.wf = true → withinRatings c = true → ∃ t, exec c s = .next t) ∧ (withinRatings c = false → exec c s = .fault .absoluteMaximum) ∧
  (c.wf = false → withinRatings c = true → exec c s = .next s)

/-- R8, log entry 6: every step keeps the slow tier in canonical form, and only well-formed commands waiting. -/
def Obligations.EveryStepKeepsTheInvariant : Prop := ∀ (s t : State), s.Inv → step s = .next t → t.Inv

/-- R8, R89, R142, R507, log entries 1 and 6: the state after reset meets the invariant: nothing waits, nothing is written, no core runs, the postmaster is before stage 2,
and every register reads its reset value. -/
def Obligations.ResetMeetsTheInvariant : Prop :=
  State.reset.Inv ∧ State.reset.pending = [] ∧ State.reset.slow = [] ∧ getF Reg.PM_STATUS_STATE State.reset.pm = 0 ∧
  (∀ c, (State.reset.core c).spad = [] ∧ (State.reset.core c).pstore = [] ∧ (State.reset.core c).getF Reg.KP_CTRL_RUN = 0 ∧
    (State.reset.core c).getF Reg.KP_STATUS_STATE = 0 ∧ getReg .kp Reg.KP_CHAIN_SEED_SEED.off (State.reset.core c).regs = 0) ∧
  (∀ g, (State.reset.garden g).getF Reg.GD_STATUS_STATE = gEmpty ∧ State.reset.stepOpen g = false) ∧
  ∀ off, getReg .pm off State.reset.pm = regReset .pm off ∧ getReg .sd off State.reset.sd = regReset .sd off ∧
    getReg .pw off State.reset.pw = regReset .pw off ∧ getReg .wd off State.reset.wd = regReset .wd off

/-- R14: the access codes, for every field of every register of the table. -/
def Obligations.FieldsFollowTheirAccessCodes : Prop := ∀ (b : Blk) (off : Nat) (d : RDef) (f : FDef) (v : Word) (m : RegFile),
  findReg off (regDefs b) = some d → f ∈ d.flds →
  let g : Fld := ⟨b, off, f.lo, f.w⟩
  let old := getF g m
  let asked := bitsOf v f.lo f.w
  let written := getF g (busWrite b off v m)
  let shown := bitsOf (busRead b off m).1 f.lo f.w
  let left := getF g (busRead b off m).2
  (f.acc = .ro → written = old ∧ shown = old ∧ left = old) ∧
  (f.acc = .rw → written = asked ∧ shown = old ∧ left = old) ∧
  (f.acc = .wo → shown = 0) ∧
  (f.acc = .w1c → (∀ i < f.w, written.testBit i = (old.testBit i && !asked.testBit i)) ∧ shown = old ∧ left = old) ∧
  (f.acc = .rc → shown = old ∧ left = 0 ∧ written = old)

/-- R99: what the ALU computes, as numbers: an ALU instruction writes the operation its FN selects, shift counts are modulo 64, and a greater FN is a keeper fault. -/
def Obligations.TheAluComputesItsTable : Prop := ∀ (x y : Word),
  let n := y.toNat % 64
  let r (fn : Nat) : Word := aluOp fn x y
  (r 0).toNat = (x.toNat + y.toNat) % 2 ^ 64 ∧ (r 1).toNat = (x.toNat + 2 ^ 64 - y.toNat) % 2 ^ 64 ∧
  (∀ i < 64, (r 2).getLsbD i = (x.getLsbD i && y.getLsbD i) ∧ (r 3).getLsbD i = (x.getLsbD i || y.getLsbD i) ∧
    (r 4).getLsbD i = (x.getLsbD i ^^ y.getLsbD i)) ∧
  (r 5).toNat = x.toNat * 2 ^ n % 2 ^ 64 ∧ (r 6).toNat = x.toNat / 2 ^ n ∧ (r 7).toInt = x.toInt / 2 ^ n ∧
  (r 8).toNat = x.toNat * y.toNat % 2 ^ 64 ∧ (r 9).toInt = x.toInt * y.toInt / 2 ^ 64 ∧ (r 10).toNat = x.toNat * y.toNat / 2 ^ 64 ∧
  (r 11).toInt = min x.toInt y.toInt ∧ (r 12).toInt = max x.toInt y.toInt ∧ (r 13).toNat = min x.toNat y.toNat ∧
  (r 14).toNat = max x.toNat y.toNat ∧
  ∀ (s : State) (c : Nat) (w : W32), (issues s c 0x04 w = true → x = (s.core c).sReg (aOf w) → y = (s.core c).sReg (bOf w) →
      Completes (exec (.alu c) s) fun t => fnOf w ≤ 0x0E ∧ (t.core c).sReg (dOf w) = if dOf w = 0 then 0 else r (fnOf w)) ∧
    (c < Config.coreSites → s.keeperRuns c = true → (s.core c).fetch = some w → opOf w = 0x04 → 0x0F ≤ fnOf w →
      ∃ cause, 0 < cause ∧ exec (.alu c) s = .next (s.faulted c cause))

/-- R332, R549, R578-R580: a garden's first taint decides its reason, and one after its commit is the next step's; an incident is recorded under the next number with the
count and the start it happened in, or counted as a repeat of one of its round. -/
def Obligations.TaintsAndIncidentsAreRecorded : Prop := ∀ (s : State) (g reason : Nat) (i : Incident), g < 4 → 0 < reason → reason < 8 →
  let now := getF (Reg.WD_GARDEN_TAINT g) s.wd
  (s.stepOpen g = false → s.taint g reason = s) ∧
  (s.stepOpen g = true → (s.garden g).committing = false →
    (now = 0 → getF (Reg.WD_GARDEN_TAINT g) (s.taint g reason).wd = reason ∧ { s.taint g reason with wd := s.wd } = s) ∧
    (now ≠ 0 → s.taint g reason = s)) ∧
  (s.stepOpen g = true → (s.garden g).committing = true → OnlyGarden g s (s.taint g reason) ∧
    ((s.taint g reason).garden g).nextTaint = if (s.garden g).nextTaint = 0 then reason else (s.garden g).nextTaint) ∧
  (let same (j : Incident) : Prop := j.kind = i.kind ∧ j.unit = i.unit ∧ j.unitId = i.unitId ∧ j.boot = s.boot ∧ j.sundial / 65536 = s.round
   ((∃ j ∈ s.ice.incidents, same j) → (s.raise i).nextIncident = s.nextIncident ∧ (s.raise i).ice.incidents.length = s.ice.incidents.length) ∧
   ((∀ j ∈ s.ice.incidents, ¬ same j) → (s.raise i).nextIncident = s.nextIncident + 1 ∧ ∃ r : Incident,
     r.number = s.nextIncident ∧ r.kind = i.kind ∧ r.unit = i.unit ∧ r.unitId = i.unitId ∧ r.boot = s.boot ∧ r.sundial = s.now ∧
     (logSize (s.ice.incidents ++ [r]) ≤ s.ice.logCap → (s.raise i).ice.incidents = s.ice.incidents ++ [r]) ∧
     (s.nextIncident < 2 ^ 48 → getF Reg.WD_INC_LAST_LAST (s.raise i).wd = s.nextIncident)))

/-- R523: RST_N is accepted when it stays low for 10 µs, and a shorter low pulse is ignored: the pin is back as it was when it has risen, and nothing else has changed. -/
def Obligations.AShortResetPulseIsIgnored : Prop := ∀ (s : State) (low after : Nat), s.samplesRst = true → s.pins.rstN = true →
  (low < 10 → Completes (exec (.rstNAccept low) s) fun t => { t with pins := s.pins } = s ∧ exec (.rstNRise after) t = .next s) ∧
  (10 ≤ low → Completes (exec (.rstNAccept low) s) fun t => t.start.rstLow = true ∧ getF Reg.PM_STATUS_STATE t.pm = 0)
end

