-- ==== Sys2Proof/Laws/Fmap.lean ====
section
/-! SUPPORT. The laws of sparse stores: what a read gives after a write, and that every operation keeps the canonical form. -/

namespace Sys2Proof.Machine.Fm

variable {α β : Type}

@[simp] theorem get_nil (d : α) (k : Nat) : get d k [] = d := rfl

theorem get_put_same (d : α) (k : Nat) (v : α) (m : FMap α) : get d k (put k v m) = v := by
  induction m with
  | nil => simp [put, get]
  | cons e m ih =>
    obtain ⟨j, u⟩ := e
    by_cases h1 : k < j
    · simp [put, get, h1]
    · by_cases h2 : k = j
      · simp [put, get, h2]
      · simp [put, get, h1, h2, ih]

theorem get_put_other (d : α) {j k : Nat} (h : j ≠ k) (v : α) (m : FMap α) : get d j (put k v m) = get d j m := by
  induction m with
  | nil => simp [put, get, h]
  | cons e m ih =>
    obtain ⟨i, u⟩ := e
    by_cases h1 : k < i
    · simp [put, get, h1, h]
    · by_cases h2 : k = i
      · subst h2; simp [put, get, h]
      · by_cases h3 : j = i <;> simp [put, get, h1, h2, h3, ih]

theorem get_del_same (d : α) (k : Nat) (m : FMap α) : get d k (del k m) = d := by
  induction m with
  | nil => rfl
  | cons e m ih =>
    obtain ⟨j, u⟩ := e
    by_cases h : k = j <;> simp [del, get, h]
    · subst h; exact ih
    · exact ih

theorem get_del_other (d : α) {j k : Nat} (h : j ≠ k) (m : FMap α) : get d j (del k m) = get d j m := by
  induction m with
  | nil => rfl
  | cons e m ih =>
    obtain ⟨i, u⟩ := e
    by_cases h1 : k = i
    · subst h1; simp [del, get, h, ih]
    · by_cases h2 : j = i <;> simp [del, get, h1, h2, ih]

@[simp] theorem get_set_same [DecidableEq α] (d : α) (k : Nat) (v : α) (m : FMap α) : get d k (set d k v m) = v := by
  by_cases h : v = d
  · simp [set, h, get_del_same]
  · simp [set, h, get_put_same]

theorem get_set_other [DecidableEq α] (d : α) {j k : Nat} (h : j ≠ k) (v : α) (m : FMap α) :
    get d j (set d k v m) = get d j m := by
  by_cases hv : v = d
  · simp [set, hv, get_del_other d h]
  · simp [set, hv, get_put_other d h]

theorem get_set [DecidableEq α] (d : α) (j k : Nat) (v : α) (m : FMap α) :
    get d j (set d k v m) = if j = k then v else get d j m := by
  by_cases h : j = k
  · subst h; simp
  · simp [h, get_set_other d h]

/-- The same where the two keys have defaults of their own. -/
theorem get_set_other' [DecidableEq α] (d e : α) {j k : Nat} (h : j ≠ k) (v : α) (m : FMap α) :
    get d j (set e k v m) = get d j m := by
  by_cases hv : v = e
  · simp [set, hv, get_del_other d h]
  · simp [set, hv, get_put_other d h]

/-! ### The canonical form -/

/-- Keys strictly rising and no listed value equal to the default. -/
theorem wf_iff [DecidableEq α] (d : α) (m : FMap α) :
    wf d m = true ↔ (m.Pairwise fun a b => a.1 < b.1) ∧ ∀ e ∈ m, e.2 ≠ d := by
  induction m with
  | nil => simp [wf]
  | cons e m ih =>
    obtain ⟨j, v⟩ := e
    cases m with
    | nil => simp [wf]
    | cons e' m =>
      obtain ⟨k, u⟩ := e'
      simp only [wf, Bool.and_eq_true, decide_eq_true_eq, ih]
      simp only [List.pairwise_cons, List.mem_cons, forall_eq_or_imp]
      constructor
      · rintro ⟨⟨h1, h2⟩, ⟨h3, h4⟩, h5, h6⟩
        exact ⟨⟨⟨h1, fun e he => lt_trans h1 (h3 e he)⟩, h3, h4⟩, h2, h5, h6⟩
      · rintro ⟨⟨⟨h1, -⟩, h3, h4⟩, h2, h5, h6⟩
        exact ⟨⟨h1, h2⟩, ⟨h3, h4⟩, h5, h6⟩

@[simp] theorem wf_nil [DecidableEq α] (d : α) : wf d ([] : FMap α) = true := rfl

theorem mem_put {k : Nat} {v : α} {m : FMap α} {e : Nat × α} (h : e ∈ put k v m) : e = (k, v) ∨ e ∈ m := by
  induction m with
  | nil => simpa [put] using h
  | cons a m ih =>
    obtain ⟨j, u⟩ := a
    unfold put at h
    split at h
    · simpa using h
    · split at h
      · rcases List.mem_cons.1 h with h | h
        · exact .inl h
        · exact .inr (List.mem_cons_of_mem _ h)
      · rcases List.mem_cons.1 h with h | h
        · exact .inr (h ▸ List.mem_cons_self)
        · exact (ih h).imp_right (List.mem_cons_of_mem _)

theorem pairwise_put (k : Nat) (v : α) (m : FMap α) (h : m.Pairwise fun a b => a.1 < b.1) :
    (put k v m).Pairwise fun a b => a.1 < b.1 := by
  induction m with
  | nil => simp [put]
  | cons a m ih =>
    obtain ⟨j, u⟩ := a
    obtain ⟨h1, h2⟩ := List.pairwise_cons.1 h
    unfold put
    split
    · next hlt =>
      refine List.pairwise_cons.2 ⟨fun e he => ?_, h⟩
      rcases List.mem_cons.1 he with rfl | he
      · exact hlt
      · exact lt_trans hlt (h1 e he)
    · split
      · next heq => subst heq; exact List.pairwise_cons.2 ⟨h1, h2⟩
      · refine List.pairwise_cons.2 ⟨fun e he => ?_, ih h2⟩
        rcases mem_put he with rfl | he
        · simp; omega
        · exact h1 e he

theorem del_eq_filter (k : Nat) (m : FMap α) : del k m = m.filter fun e => e.1 ≠ k := by
  induction m with
  | nil => rfl
  | cons a m ih =>
    obtain ⟨j, u⟩ := a
    by_cases h : k = j
    · subst h; simp [del, ih]
    · simp [del, h, ih, Ne.symm h]

theorem wf_filter [DecidableEq α] {d : α} {m : FMap α} (p : Nat × α → Bool) (h : wf d m = true) : wf d (m.filter p) = true := by
  rw [wf_iff] at *
  exact ⟨h.1.filter p, fun e he => h.2 e (List.mem_of_mem_filter he)⟩

theorem wf_del [DecidableEq α] {d : α} {m : FMap α} (k : Nat) (h : wf d m = true) : wf d (del k m) = true := by
  rw [del_eq_filter]; exact wf_filter _ h

theorem wf_set [DecidableEq α] {d : α} {m : FMap α} (k : Nat) (v : α) (h : wf d m = true) : wf d (set d k v m) = true := by
  unfold set
  split
  · exact wf_del k h
  · next hv =>
    rw [wf_iff] at *
    exact ⟨pairwise_put k v m h.1, fun e he => (mem_put he).elim (fun e1 => e1 ▸ hv) (h.2 e)⟩

theorem wf_upd [DecidableEq α] {d : α} {m : FMap α} (k : Nat) (f : α → α) (h : wf d m = true) : wf d (upd d k f m) = true :=
  wf_set k _ h

theorem wf_clearRange [DecidableEq α] {d : α} {m : FMap α} (lo n : Nat) (h : wf d m = true) : wf d (clearRange lo n m) = true :=
  wf_filter _ h

theorem wf_putAll [DecidableEq α] {d : α} {m : FMap α} (new : FMap α) (h : wf d m = true) : wf d (putAll d new m) = true := by
  unfold putAll
  induction new generalizing m with
  | nil => exact h
  | cons e new ih => exact ih (wf_set _ _ h)

theorem wf_mapv [DecidableEq α] {d : α} {m : FMap α} (f : Nat → α → α) (h : wf d m = true) : wf d (mapv d f m) = true := by
  rw [wf_iff] at *
  refine ⟨?_, ?_⟩
  · unfold mapv
    rw [List.pairwise_filterMap]
    refine h.1.imp ?_
    intro a b hab a' ha b' hb
    dsimp at ha hb
    split at ha <;> simp at ha
    split at hb <;> simp at hb
    rw [← ha, ← hb]; exact hab
  · intro e he
    obtain ⟨a, _, ha⟩ := List.mem_filterMap.1 he
    dsimp at ha
    split at ha <;> simp at ha
    next hne => rw [← ha]; exact hne

end Sys2Proof.Machine.Fm
end

