-- ==== Sys2Proof/Laws/Look.lean ====
section
/-! SUPPORT. Reads of a sparse store that may hold nothing under a key. -/

namespace Sys2Proof.Machine.Fm

variable {α β : Type}

theorem look_put_same (k : Nat) (v : α) (m : FMap α) : look k (put k v m) = some v := by
  induction m with
  | nil => simp [put, look]
  | cons e m ih =>
    obtain ⟨j, u⟩ := e
    by_cases h1 : k < j
    · simp [put, look, h1]
    · by_cases h2 : k = j
      · simp [put, look, h2]
      · have h3 : ¬ j = k := fun e => h2 e.symm
        simpa [put, look, h1, h2, h3] using ih

theorem look_put_other {j k : Nat} (h : j ≠ k) (v : α) (m : FMap α) : look j (put k v m) = look j m := by
  have h' : ¬ k = j := fun e => h e.symm
  induction m with
  | nil => simp [put, look, h']
  | cons e m ih =>
    obtain ⟨i, u⟩ := e
    by_cases h1 : k < i
    · simp [put, look, h1, h']
    · by_cases h2 : k = i
      · subst h2; simp [put, look, h']
      · by_cases h3 : i = j
        · subst h3; simp [put, look, h1, h']
        · simpa [put, look, h1, h2, h3] using ih

theorem look_put (j k : Nat) (v : α) (m : FMap α) : look j (put k v m) = if j = k then some v else look j m := by
  split
  next h => subst h; exact look_put_same _ _ _
  next h => exact look_put_other h _ _

theorem look_del_same (k : Nat) (m : FMap α) : look k (del k m) = none := by
  induction m with
  | nil => rfl
  | cons e m ih =>
    obtain ⟨j, u⟩ := e
    by_cases h : k = j
    · subst h; simpa [del] using ih
    · have h' : ¬ j = k := fun e => h e.symm
      simpa [del, look, h, h'] using ih

theorem look_del_other {j k : Nat} (h : j ≠ k) (m : FMap α) : look j (del k m) = look j m := by
  have h' : ¬ k = j := fun e => h e.symm
  induction m with
  | nil => rfl
  | cons e m ih =>
    obtain ⟨i, u⟩ := e
    by_cases h1 : k = i
    · subst h1; simpa [del, look, h'] using ih
    · by_cases h2 : i = j
      · subst h2; simp [del, look, h']
      · simpa [del, look, h1, h2] using ih

end Sys2Proof.Machine.Fm
end

