-- ==== Sys2Proof/Laws/KeptBase.lean ====
section
/-! SUPPORT. What no command but a few touches: the slow tier's bytes and the queue of waiting commands. -/

namespace Sys2Proof.Machine

/-- The slow tier's bytes and the queue. -/
def State.kept (s : State) : FMap Byte × List Instr := (s.slow, s.pending)

/-- A command's answer leaves them as they are. -/
def Keeps (s : State) (r : Res) : Prop := ∀ t, r = .next t → t.kept = s.kept

def KOut.keeps (s : State) : KOut → Prop
  | .fault _ => True
  | .goes t _ | .jump t _ | .wait t | .halt t => t.kept = s.kept

@[simp ↓] theorem kept_fold (s : State) : (s.slow, s.pending) = s.kept := congrArg id rfl
@[simp ↓] theorem kept_mk (a0 a1 a2 a3 a4 a5 a6 a7 a8 a9 a10 a11 a12 a13 a14 a15 a16 a17 a18 a19 a20 a21 a22 a23 a24 a25 a26 a27 a28 a29 a30
      a31 a32 a33 a34 a35 a36 a37 a38 a39 a40 a41 a42 a43 a44 a45 a46 a47 a48 a49) :
    (State.mk a0 a1 a2 a3 a4 a5 a6 a7 a8 a9 a10 a11 a12 a13 a14 a15 a16 a17 a18 a19 a20 a21 a22 a23 a24 a25 a26 a27 a28 a29 a30
      a31 a32 a33 a34 a35 a36 a37 a38 a39 a40 a41 a42 a43 a44 a45 a46 a47 a48 a49).kept = (a16, a49) := congrArg id rfl

@[simp ↓] theorem keeps_next (s t : State) : Keeps s (.next t) ↔ t.kept = s.kept := by simp [Keeps]
@[simp ↓] theorem keeps_fault (s : State) (r : Fault) : Keeps s (.fault r) := by simp [Keeps]
@[simp ↓] theorem keeps_refused (s : State) (r : Refusal) : Keeps s (.refused r) := by simp [Keeps]
@[simp ↓] theorem keeps_ite (s : State) (c : Prop) [Decidable c] (a b : Res) (ha : Keeps s a) (hb : Keeps s b) :
    Keeps s (if c then a else b) := by split <;> assumption

@[simp ↓] theorem kept_ite (c : Prop) [Decidable c] (a b : State) : (if c then a else b).kept = if c then a.kept else b.kept := by
  split <;> rfl

@[simp ↓] theorem kept_foldl {α : Type} (f : State → α → State) (h : ∀ s a, (f s a).kept = s.kept) (l : List α) (s : State) :
    (l.foldl f s).kept = s.kept := by
  induction l generalizing s with
  | nil => rfl
  | cons a l ih => rw [List.foldl_cons, ih, h]

@[simp ↓] theorem keeps_kfault (s : State) (x : Nat) : (KOut.fault x).keeps s := trivial
@[simp ↓] theorem keeps_goes (s t : State) (n : Nat) : (KOut.goes t n).keeps s ↔ t.kept = s.kept := Iff.rfl
@[simp ↓] theorem keeps_jump (s t : State) (n : Int) : (KOut.jump t n).keeps s ↔ t.kept = s.kept := Iff.rfl
@[simp ↓] theorem keeps_wait (s t : State) : (KOut.wait t).keeps s ↔ t.kept = s.kept := Iff.rfl
@[simp ↓] theorem keeps_halt (s t : State) : (KOut.halt t).keeps s ↔ t.kept = s.kept := Iff.rfl
@[simp ↓] theorem kept_getD (o : Option State) (s : State) (h : ∀ t, o = some t → t.kept = s.kept) : (o.getD s).kept = s.kept := by
  cases o with
  | none => rfl
  | some t => exact h t rfl
theorem kept_foldl' {α : Type} (f : State → α → State) (l : List α) (s t : State) (ht : t.kept = s.kept)
    (h : ∀ s a, (f s a).kept = s.kept) : (l.foldl f t).kept = s.kept := (kept_foldl f h l t).trans ht

theorem kept_getD2 {k : FMap Byte × List Instr} (o : Option State) (d : State) (h : ∀ t, o = some t → t.kept = k) (hd : d.kept = k) :
    (o.getD d).kept = k := by
  cases o with
  | none => exact hd
  | some t => exact h t rfl

theorem kept_orElse {k : FMap Byte × List Instr} (a b : Option State) (ha : ∀ t, a = some t → t.kept = k) (hb : ∀ t, b = some t → t.kept = k) :
    ∀ t, (a <|> b) = some t → t.kept = k := by
  cases a with
  | none => simpa using hb
  | some u => simpa using ha

theorem kept_findSome {α : Type} {k : FMap Byte × List Instr} (f : α → Option State) (h : ∀ a t, f a = some t → t.kept = k) (l : List α) :
    ∀ t, l.findSome? f = some t → t.kept = k := by
  intro t ht
  obtain ⟨a, _, ha⟩ := List.exists_of_findSome?_eq_some ht
  exact h a t ha

theorem kept_mapOpt {α : Type} {k : FMap Byte × List Instr} (o : Option α) (f : α → State) (h : ∀ a, (f a).kept = k) :
    ∀ t, o.map f = some t → t.kept = k := by
  cases o with
  | none => simp
  | some a => simp [h]

end Sys2Proof.Machine
end

