-- ==== Sys2Proof/Laws/KeptCore.lean ====
section
/-! SUPPORT. Commands and operations that leave the slow tier's bytes and the queue of waiting commands as they are: the operations every command shares, the keepers, the fabric, the orangeries. -/

namespace Sys2Proof.Machine

/-! ### Machine/Ops.lean -/

@[simp ↓] theorem State.setCore_kept (s : State) (c : Nat) (k : Core) : (State.setCore s c k).kept = s.kept :=
  by simp [State.setCore]

@[simp ↓] theorem State.updCore_kept (s : State) (c : Nat) (f : Core → Core) : (State.updCore s c f).kept = s.kept :=
  by simp [State.updCore]

@[simp ↓] theorem State.setPav_kept (s : State) (p : Nat) (v : Pav) : (State.setPav s p v).kept = s.kept :=
  by simp [State.setPav]

@[simp ↓] theorem State.updPav_kept (s : State) (p : Nat) (f : Pav → Pav) : (State.updPav s p f).kept = s.kept :=
  by simp [State.updPav]

@[simp ↓] theorem State.updSite_kept (s : State) (c : Nat) (f : Site → Site) : (State.updSite s c f).kept = s.kept :=
  by simp [State.updSite]

@[simp ↓] theorem State.setOra_kept (s : State) (o : Nat) (v : Ora) : (State.setOra s o v).kept = s.kept :=
  by simp [State.setOra]

@[simp ↓] theorem State.updOra_kept (s : State) (o : Nat) (f : Ora → Ora) : (State.updOra s o f).kept = s.kept :=
  by simp [State.updOra]

@[simp ↓] theorem State.updGarden_kept (s : State) (g : Nat) (f : Gdn → Gdn) : (State.updGarden s g f).kept = s.kept :=
  by simp [State.updGarden]

@[simp ↓] theorem State.updChan_kept (s : State) (n : Nat) (f : Chan → Chan) : (State.updChan s n f).kept = s.kept :=
  by simp [State.updChan]

@[simp ↓] theorem State.updHostPort_kept (s : State) (n : Nat) (f : Port → Port) : (State.updHostPort s n f).kept = s.kept :=
  by simp [State.updHostPort]

@[simp ↓] theorem State.updPeerPort_kept (s : State) (n : Nat) (f : Port → Port) : (State.updPeerPort s n f).kept = s.kept :=
  by simp [State.updPeerPort]

@[simp ↓] theorem State.updSparePort_kept (s : State) (n : Nat) (f : Port → Port) : (State.updSparePort s n f).kept = s.kept :=
  by simp [State.updSparePort]

@[simp ↓] theorem State.updLantern_kept (s : State) (n : Nat) (f : Port → Port) : (State.updLantern s n f).kept = s.kept :=
  by simp [State.updLantern]

@[simp ↓] theorem State.updCartridge_kept (s : State) (n : Nat) (f : Cartridge → Cartridge) : (State.updCartridge s n f).kept = s.kept :=
  by simp [State.updCartridge]

@[simp ↓] theorem State.updPost_kept (s : State) (f : Post → Post) : (State.updPost s f).kept = s.kept :=
  by simp [State.updPost]

@[simp ↓] theorem State.updIce_kept (s : State) (f : Ice → Ice) : (State.updIce s f).kept = s.kept :=
  by simp [State.updIce]

@[simp ↓] theorem State.updPower_kept (s : State) (f : Power → Power) : (State.updPower s f).kept = s.kept :=
  by simp [State.updPower]

@[simp ↓] theorem State.setPm_kept (s : State) (f : Fld) (v : Nat) : (State.setPm s f v).kept = s.kept :=
  by simp [State.setPm]

@[simp ↓] theorem State.setSd_kept (s : State) (f : Fld) (v : Nat) : (State.setSd s f v).kept = s.kept :=
  by simp [State.setSd]

@[simp ↓] theorem State.setPw_kept (s : State) (f : Fld) (v : Nat) : (State.setPw s f v).kept = s.kept :=
  by simp [State.setPw]

@[simp ↓] theorem State.setWd_kept (s : State) (f : Fld) (v : Nat) : (State.setWd s f v).kept = s.kept :=
  by simp [State.setWd]

@[simp ↓] theorem State.incWd_kept (s : State) (f : Fld) (n : Nat) : (State.incWd s f n).kept = s.kept :=
  by simp [State.incWd]

@[simp ↓] theorem State.incPw_kept (s : State) (f : Fld) (n : Nat) : (State.incPw s f n).kept = s.kept :=
  by simp [State.incPw]

@[simp ↓] theorem State.incSd_kept (s : State) (f : Fld) (n : Nat) : (State.incSd s f n).kept = s.kept :=
  by simp [State.incSd]

@[simp ↓] theorem State.draw_kept (s : State) : (State.draw s).2.kept = s.kept :=
  by simp [State.draw]

@[simp ↓] theorem onCore_kept (c : Nat) (s : State) (f : State → State) (hf : ∀ s, (f s).kept = s.kept) : Keeps s (onCore c s f) :=
  by simp [onCore, hf]

@[simp ↓] theorem onPav_kept (p : Nat) (s : State) (f : State → State) (hf : ∀ s, (f s).kept = s.kept) : Keeps s (onPav p s f) :=
  by simp [onPav, hf]

@[simp ↓] theorem onOra_kept (o : Nat) (s : State) (f : State → State) (hf : ∀ s, (f s).kept = s.kept) : Keeps s (onOra o s f) :=
  by simp [onOra, hf]

@[simp ↓] theorem onGarden_kept (g : Nat) (s : State) (f : State → State) (hf : ∀ s, (f s).kept = s.kept) : Keeps s (onGarden g s f) :=
  by simp [onGarden, hf]

@[simp ↓] theorem onChan_kept (n : Nat) (s : State) (f : State → State) (hf : ∀ s, (f s).kept = s.kept) : Keeps s (onChan n s f) :=
  by simp [onChan, hf]

@[simp ↓] theorem onUnit_kept (ok : Bool) (s : State) (f : State → State) (hf : ∀ s, (f s).kept = s.kept) : Keeps s (onUnit ok s f) :=
  by simp [onUnit, hf]

@[simp ↓] theorem State.record_kept (s : State) (i : Incident) : (State.record s i).kept = s.kept :=
  by simp [State.record]

@[simp ↓] theorem State.log_kept (s : State) (i : Incident) : (State.log s i).kept = s.kept := by
  unfold State.log
  (try dsimp only)
  (repeat' split) <;> simp

@[simp ↓] theorem State.raise_kept (s : State) (i : Incident) : (State.raise s i).kept = s.kept :=
  by simp [State.raise]

@[simp ↓] theorem State.report_kept (s : State) (i : Incident) : (State.report s i).kept = s.kept := by
  unfold State.report
  (try dsimp only)
  (repeat' split) <;> simp

@[simp ↓] theorem State.taint_kept (s : State) (g : Nat) (reason : Nat) : (State.taint s g reason).kept = s.kept :=
  by simp [State.taint]

@[simp ↓] theorem State.taintOpt_kept (s : State) (g : Option Nat) (reason : Nat) : (State.taintOpt s g reason).kept = s.kept := by
  unfold State.taintOpt
  (repeat' split) <;> simp

@[simp ↓] theorem State.raiseAt_kept (s : State) (kind : Nat) (unit : Nat) (unitId : Nat) (g : Option Nat) (op : Nat) (action : Nat) : (State.raiseAt s kind unit unitId g op action).kept = s.kept :=
  by simp [State.raiseAt]

@[simp ↓] theorem State.reportAt_kept (s : State) (kind : Nat) (unit : Nat) (unitId : Nat) (g : Option Nat) (op : Nat) (action : Nat) : (State.reportAt s kind unit unitId g op action).kept = s.kept :=
  by simp [State.reportAt]

@[simp ↓] theorem State.repair_kept (s : State) (r : Repair) : (State.repair s r).kept = s.kept :=
  by simp [State.repair]

@[simp ↓] theorem State.reportRepair_kept (s : State) (r : Repair) : (State.reportRepair s r).kept = s.kept := by
  unfold State.reportRepair
  (try dsimp only)
  (repeat' split) <;> simp

@[simp ↓] theorem State.pollUnits_kept (s : State)  : (State.pollUnits s).kept = s.kept := by
  unfold State.pollUnits
  (try dsimp only)
  (repeat' split) <;> simp

@[simp ↓] theorem State.coreUe_kept (s : State) (c : Nat) (op : Nat) : (State.coreUe s c op).kept = s.kept :=
  by simp [State.coreUe]

@[simp ↓] theorem State.noteWords_kept (s : State) (c : Nat) (ws : List Nat) : (State.noteWords s c ws).kept = s.kept := by
  unfold State.noteWords
  (repeat' split) <;> simp

@[simp ↓] theorem State.markSite_kept (s : State) (c : Nat) : (State.markSite s c).kept = s.kept :=
  by simp [State.markSite]

@[simp ↓] theorem State.coreUeMark_kept (s : State) (c : Nat) (op : Nat) : (State.coreUeMark s c op).kept = s.kept :=
  by simp [State.coreUeMark]

@[simp ↓] theorem State.addrError_kept (s : State) (g : Nat) : (State.addrError s g).kept = s.kept :=
  by simp [State.addrError]

@[simp ↓] theorem State.spadTouch_kept (s : State) (c : Nat) (off : Nat) (n : Nat) (op : Nat) : (State.spadTouch s c off n op).kept = s.kept :=
  by simp [State.spadTouch]


/-! ### Machine/KeeperOps.lean -/

@[simp ↓] theorem keeperAfter_kept (c : Nat) (s : State) (last : Bool) (x0 : KOut) (hx0 : x0.keeps s) : (keeperAfter c s last x0).kept = s.kept := by
  cases x0 <;> unfold keeperAfter <;> dsimp only <;> (repeat' split) <;> (try rw [State.updCore_kept]) <;> exact hx0

@[simp ↓] theorem keeperExec_kept (op : Nat) (reads : W32 → List Nat) (body : W32 → State → KOut) (c : Nat) (s : State) (hbody : ∀ w s, (body w s).keeps s) : (keeperExec op reads body c s).kept = s.kept := by
  unfold keeperExec
  dsimp only
  split
  · rfl
  split
  · simp
  next w _ =>
  split
  · rfl
  split
  · simp
  split
  · split <;> simp
  · rw [keeperAfter_kept]
    · simp
    · have h := hbody w ((s.updCore c Core.corrected).updCore c (Core.interlock (rP (prOf w) :: reads w)))
      generalize body w _ = o at h ⊢
      cases o <;> simp_all [KOut.keeps]

@[simp ↓] theorem keeperOp_kept (op : Nat) (reads : W32 → List Nat) (body : Nat → W32 → State → KOut) (c : Nat) (s : State) (hbody : ∀ c w s, (body c w s).keeps s) : Keeps s (keeperOp op reads body c s) :=
  by simp [keeperOp, hbody]

@[simp ↓] theorem onlyCore_kept (f : W32 → Core → Core) (occ : Nat) (c : Nat) (w : W32) (s : State) : (onlyCore f occ c w s).keeps s :=
  by simp [onlyCore]

@[simp ↓] theorem State.reserve_kept (s : State) (c : Nat) (u : QUnit) (addr : Nat) (op : Nat) : (State.reserve s c u addr op).kept = s.kept :=
  by simp [State.reserve]

@[simp ↓] theorem queueIssue_kept (u : QUnit) (scale : Int) (c : Nat) (w : W32) (s : State) : (queueIssue u scale c w s).keeps s := by
  unfold queueIssue
  try dsimp only
  (repeat' split) <;> simp


/-! ### Machine/Keeper.lean -/

@[simp ↓] theorem execNop_kept (core : Nat) (s : State) : Keeps s (execNop core s) :=
  by simp [execNop]

@[simp ↓] theorem execHalt_kept (core : Nat) (s : State) : Keeps s (execHalt core s) :=
  by simp [execHalt]

@[simp ↓] theorem execAlu_kept (core : Nat) (s : State) : Keeps s (execAlu core s) :=
  by simp [execAlu]

@[simp ↓] theorem execAddi_kept (core : Nat) (s : State) : Keeps s (execAddi core s) :=
  by simp [execAddi]

@[simp ↓] theorem execAndi_kept (core : Nat) (s : State) : Keeps s (execAndi core s) :=
  by simp [execAndi]

@[simp ↓] theorem execOri_kept (core : Nat) (s : State) : Keeps s (execOri core s) :=
  by simp [execOri]

@[simp ↓] theorem execXori_kept (core : Nat) (s : State) : Keeps s (execXori core s) :=
  by simp [execXori]

@[simp ↓] theorem execShi_kept (core : Nat) (s : State) : Keeps s (execShi core s) :=
  by simp [execShi]

@[simp ↓] theorem execLi_kept (core : Nat) (s : State) : Keeps s (execLi core s) :=
  by simp [execLi]

@[simp ↓] theorem execLis_kept (core : Nat) (s : State) : Keeps s (execLis core s) :=
  by simp [execLis]

@[simp ↓] theorem execCmp_kept (core : Nat) (s : State) : Keeps s (execCmp core s) :=
  by simp [execCmp]

@[simp ↓] theorem execCmpi_kept (core : Nat) (s : State) : Keeps s (execCmpi core s) :=
  by simp [execCmpi]

@[simp ↓] theorem execPlog_kept (core : Nat) (s : State) : Keeps s (execPlog core s) :=
  by simp [execPlog]

@[simp ↓] theorem loadOp_kept (n : Nat) (c : Nat) (w : W32) (s : State) : (loadOp n c w s).keeps s := by
  unfold loadOp
  (repeat' split) <;> simp

@[simp ↓] theorem storeOp_kept (n : Nat) (c : Nat) (w : W32) (s : State) : (storeOp n c w s).keeps s := by
  unfold storeOp
  (repeat' split) <;> simp

@[simp ↓] theorem execLd_kept (core : Nat) (s : State) : Keeps s (execLd core s) :=
  by simp [execLd]

@[simp ↓] theorem execLdw_kept (core : Nat) (s : State) : Keeps s (execLdw core s) :=
  by simp [execLdw]

@[simp ↓] theorem execSt_kept (core : Nat) (s : State) : Keeps s (execSt core s) :=
  by simp [execSt]

@[simp ↓] theorem execStw_kept (core : Nat) (s : State) : Keeps s (execStw core s) :=
  by simp [execStw]

@[simp ↓] theorem execAdda_kept (core : Nat) (s : State) : Keeps s (execAdda core s) :=
  by simp [execAdda]

@[simp ↓] theorem execAddas_kept (core : Nat) (s : State) : Keeps s (execAddas core s) :=
  by simp [execAddas]

@[simp ↓] theorem execMova_kept (core : Nat) (s : State) : Keeps s (execMova core s) :=
  by simp [execMova]

@[simp ↓] theorem execMovs_kept (core : Nat) (s : State) : Keeps s (execMovs core s) :=
  by simp [execMovs]

@[simp ↓] theorem execBr_kept (core : Nat) (s : State) : Keeps s (execBr core s) :=
  by simp [execBr]

@[simp ↓] theorem execCall_kept (core : Nat) (s : State) : Keeps s (execCall core s) :=
  by simp [execCall]

@[simp ↓] theorem execJr_kept (core : Nat) (s : State) : Keeps s (execJr core s) :=
  by simp [execJr]

@[simp ↓] theorem execQcube_kept (core : Nat) (s : State) : Keeps s (execQcube core s) :=
  by simp [execQcube]

@[simp ↓] theorem execQchain_kept (core : Nat) (s : State) : Keeps s (execQchain core s) :=
  by simp [execQchain]

@[simp ↓] theorem execQport_kept (core : Nat) (s : State) : Keeps s (execQport core s) :=
  by simp [execQport]

@[simp ↓] theorem execQueueStallRelease_kept (core : Nat) (s : State) : Keeps s (execQueueStallRelease core s) := by
  unfold execQueueStallRelease
  with_reducible apply onCore_kept
  intros
  try dsimp only
  (repeat' split) <;> simp

@[simp ↓] theorem execDescriptorEntry_kept (core : Nat) (unit : QUnit) (s : State) : Keeps s (execDescriptorEntry core unit s) :=
  by simp [execDescriptorEntry]

@[simp ↓] theorem waitOp_kept (kind : W32 → WaitKind) (c : Nat) (w : W32) (s : State) : (waitOp kind c w s).keeps s :=
  by simp [waitOp]

@[simp ↓] theorem execQwait_kept (core : Nat) (s : State) : Keeps s (execQwait core s) :=
  by simp [execQwait]

@[simp ↓] theorem execFset_kept (core : Nat) (s : State) : Keeps s (execFset core s) :=
  by simp [execFset]

@[simp ↓] theorem execFclr_kept (core : Nat) (s : State) : Keeps s (execFclr core s) :=
  by simp [execFclr]

@[simp ↓] theorem execWaitf_kept (core : Nat) (s : State) : Keeps s (execWaitf core s) :=
  by simp [execWaitf]

@[simp ↓] theorem execWaitw_kept (core : Nat) (s : State) : Keeps s (execWaitw core s) := by
  unfold execWaitw
  with_reducible apply keeperOp_kept
  intros
  try dsimp only
  (repeat' split) <;> simp

@[simp ↓] theorem execWaitwPoll_kept (core : Nat) (s : State) : Keeps s (execWaitwPoll core s) := by
  unfold execWaitwPoll
  with_reducible apply onCore_kept
  intros
  try dsimp only
  (repeat' split) <;> simp

@[simp ↓] theorem execWaitt_kept (core : Nat) (s : State) : Keeps s (execWaitt core s) :=
  by simp [execWaitt]

@[simp ↓] theorem execDelay_kept (core : Nat) (s : State) : Keeps s (execDelay core s) :=
  by simp [execDelay]

@[simp ↓] theorem execDelayExpire_kept (core : Nat) (s : State) : Keeps s (execDelayExpire core s) := by
  unfold execDelayExpire
  with_reducible apply onCore_kept
  intro s
  generalize (s.core core).wait.kind = w
  cases w <;> simp

@[simp ↓] theorem execWaitSuccess_kept (core : Nat) (cycles : Nat) (s : State) : Keeps s (execWaitSuccess core cycles s) :=
  by simp [execWaitSuccess]

@[simp ↓] theorem execWaitTimeout_kept (core : Nat) (s : State) : Keeps s (execWaitTimeout core s) :=
  by simp [execWaitTimeout]

@[simp ↓] theorem execFsig_kept (core : Nat) (s : State) : Keeps s (execFsig core s) := by
  unfold execFsig
  with_reducible apply keeperOp_kept
  intro c w s
  generalize s.lcore c _ = o
  cases o <;> simp

@[simp ↓] theorem execFsend_kept (core : Nat) (s : State) : Keeps s (execFsend core s) := by
  unfold execFsend
  with_reducible apply keeperOp_kept
  intros
  try dsimp only
  (repeat' split) <;> simp

@[simp ↓] theorem execCpool_kept (core : Nat) (s : State) : Keeps s (execCpool core s) := by
  unfold execCpool
  with_reducible apply keeperOp_kept
  intros
  try dsimp only
  (repeat' split) <;> simp

@[simp ↓] theorem execCfree_kept (core : Nat) (s : State) : Keeps s (execCfree core s) := by
  unfold execCfree
  with_reducible apply keeperOp_kept
  intros
  try dsimp only
  (repeat' split) <;> simp

@[simp ↓] theorem execCreq_kept (core : Nat) (s : State) : Keeps s (execCreq core s) := by
  unfold execCreq
  with_reducible apply keeperOp_kept
  intros
  try dsimp only
  (repeat' split) <;> simp

@[simp ↓] theorem execCwait_kept (core : Nat) (s : State) : Keeps s (execCwait core s) :=
  by simp [execCwait]

@[simp ↓] theorem execCdrop_kept (core : Nat) (s : State) : Keeps s (execCdrop core s) :=
  by simp [execCdrop]

@[simp ↓] theorem execBell_kept (core : Nat) (s : State) : Keeps s (execBell core s) := by
  unfold execBell
  with_reducible apply keeperOp_kept
  intros
  try dsimp only
  (repeat' split) <;> simp

@[simp ↓] theorem execSdr_kept (core : Nat) (s : State) : Keeps s (execSdr core s) :=
  by simp [execSdr]

@[simp ↓] theorem execKrd_kept (core : Nat) (s : State) : Keeps s (execKrd core s) :=
  by simp [execKrd]

@[simp ↓] theorem execKwr_kept (core : Nat) (s : State) : Keeps s (execKwr core s) :=
  by simp [execKwr]

@[simp ↓] theorem execRunSet_kept (core : Nat) (s : State) : Keeps s (execRunSet core s) :=
  by simp [execRunSet]

@[simp ↓] theorem execRunClear_kept (core : Nat) (s : State) : Keeps s (execRunClear core s) :=
  by simp [execRunClear]

@[simp ↓] theorem execKpChainSeed_kept (core : Nat) (seed : Word) (s : State) : Keeps s (execKpChainSeed core seed s) :=
  by simp [execKpChainSeed]

@[simp ↓] theorem execCoreReset_kept (core : Nat) (s : State) : Keeps s (execCoreReset core s) :=
  by simp [execCoreReset]


/-! ### Machine/FabricOps.lean -/

@[simp ↓] theorem State.setFpWord_kept (s : State) (base : Nat) (p : Nat) (n : Nat) (w : Word) : (State.setFpWord s base p n w).kept = s.kept :=
  by simp [State.setFpWord]

@[simp ↓] theorem State.pushFq_kept (s : State) (r port slice : Nat) (f : Flit) : (State.pushFq s r port slice f).kept = s.kept := by
  unfold State.pushFq
  (try dsimp only)
  (repeat' split) <;> simp

@[simp ↓] theorem State.popFq_kept (s : State) (r : Nat) (port : Nat) (slice : Nat) (reply : Bool) : (State.popFq s r port slice reply).kept = s.kept :=
  by simp [State.popFq]

@[simp ↓] theorem State.pushAq_kept (s : State) (r port slice : Nat) (f : AveFlit) : (State.pushAq s r port slice f).kept = s.kept := by
  unfold State.pushAq
  (try dsimp only)
  (repeat' split) <;> simp

@[simp ↓] theorem State.popAq_kept (s : State) (r : Nat) (port : Nat) (slice : Nat) : (State.popAq s r port slice).kept = s.kept :=
  by simp [State.popAq]

@[simp ↓] theorem State.landEntry_kept (s : State) (r port : Nat) (e : GateEntry) : (State.landEntry s r port e).kept = s.kept := by
  unfold State.landEntry
  (try dsimp only)
  (repeat' split) <;> simp

@[simp ↓] theorem State.openGate_kept (s : State) (r side : Nat) : (State.openGate s r side).kept = s.kept := by
  unfold State.openGate
  (try dsimp only)
  (repeat' split) <;> simp

@[simp ↓] theorem State.closeGate_kept (s : State) (r side : Nat) : (State.closeGate s r side).kept = s.kept := by
  unfold State.closeGate
  (try dsimp only)
  (repeat' split) <;> simp

@[simp ↓] theorem State.bumpLink_kept (s : State) (r : Nat) (port : Nat) (f : Nat → Fld) (n : Nat) : (State.bumpLink s r port f n).kept = s.kept :=
  by simp [State.bumpLink]

@[simp ↓] theorem State.fabricError_kept (s : State) (r : Nat) (g : Nat) (op : Nat) : (State.fabricError s r g op).kept = s.kept :=
  by simp [State.fabricError]

@[simp ↓] theorem State.countCheck_kept (s : State) (r port g op : Nat) (h : HeadCheck) : (s.countCheck r port g op h).kept = s.kept := by
  cases h <;> simp [State.countCheck]

@[simp ↓] theorem State.countCorrected_kept (s : State) (r port : Nat) (e : FlitErr) : (s.countCorrected r port e).kept = s.kept := by
  cases e <;> simp [State.countCorrected]


/-! ### Machine/Scratchpad.lean -/

@[simp ↓] theorem execScrubPass_kept (core : Nat) (ce : List Nat) (ue : List Nat) (s : State) : Keeps s (execScrubPass core ce ue s) :=
  by simp [execScrubPass]

@[simp ↓] theorem execCorrectedWriteBack_kept (core : Nat) (word : Nat) (s : State) : Keeps s (execCorrectedWriteBack core word s) :=
  by simp [execCorrectedWriteBack]

@[simp ↓] theorem State.startZero_kept (s : State) (p : Nat) : (State.startZero s p).kept = s.kept :=
  by simp [State.startZero]

@[simp ↓] theorem execPvSpadZero_kept (pav : Nat) (s : State) : Keeps s (execPvSpadZero pav s) :=
  by simp [execPvSpadZero]

@[simp ↓] theorem State.zeroPav_kept (s : State) (p : Nat) : (State.zeroPav s p).kept = s.kept :=
  by simp [State.zeroPav]

@[simp ↓] theorem execZeroingComplete_kept (pav : Nat) (s : State) : Keeps s (execZeroingComplete pav s) :=
  by simp [execZeroingComplete]

@[simp ↓] theorem execLineRedirect_kept (core : Nat) (bank : Nat) (line : Nat) (s : State) : Keeps s (execLineRedirect core bank line s) :=
  by simp [execLineRedirect]


/-! ### Machine/PortOps.lean -/

@[simp ↓] theorem State.failRun_kept (s : State) (c : Nat) (i : Nat) (r : PortRun) (cause : Nat) : (State.failRun s c i r cause).kept = s.kept :=
  by simp [State.failRun]

@[simp ↓] theorem State.freePrefix_kept (s : State) (n : Nat) : (State.freePrefix s n).2.kept = s.kept :=
  by simp [State.freePrefix]

@[simp ↓] theorem pump_kept (c : Nat) (i : Nat) (d : PortDesc) (x0 : Nat) (x1 : State) (x2 : PortRun) : (pump c i d x0 x1 x2).kept = x1.kept := by
  induction x0 generalizing x1 x2 with
  | zero => simp [pump]
  | succ n ih =>
    unfold pump
    extract_lets +onlyGivenNames dn
    split
    · simp
    split
    · simp
    split
    · simp
    extract_lets +onlyGivenNames k last
    split
    · simp
    split
    · simp
    split
    · extract_lets +onlyGivenNames a s1
      have h1 : s1.kept = x1.kept := by simp [s1]
      clear_value s1
      split
      · next q _ =>
        have h := State.freePrefix_kept s1 q
        generalize s1.freePrefix q = z at h
        obtain ⟨m, t⟩ := z
        dsimp only at h ⊢
        simp [h, h1]
      · simp [ih, h1]
    · simp [ih]

@[simp ↓] theorem State.pumpRun_kept (s : State) (c : Nat) (i : Nat) (r : PortRun) : (State.pumpRun s c i r).kept = s.kept :=
  by simp [State.pumpRun]

@[simp ↓] theorem State.readRow_kept (s : State) (c : Nat) (off : Nat) (n : Nat) (op : Nat) : (State.readRow s c off n op).2.2.kept = s.kept := by
  unfold State.readRow
  try dsimp only
  (repeat' split) <;> simp

@[simp ↓] theorem copyRows_kept (c : Nat) (d : PortDesc) (x0 : Nat) (x1 : Nat) (x2 : State) : (copyRows c d x0 x1 x2).1.kept = x2.kept := by
  induction x0 generalizing x1 x2 with
  | zero => rfl
  | succ n ih =>
    have h := State.readRow_kept x2 c (d.srcAt x1) d.len 0x4001
    unfold copyRows
    generalize x2.readRow c (d.srcAt x1) d.len 0x4001 = o at h
    obtain ⟨bs, ok, s⟩ := o
    dsimp only at h ⊢
    cases ok <;> simp [ih, h]

@[simp ↓] theorem sendRows_kept (c : Nat) (d : PortDesc) (x0 : Nat) (x1 : Nat) (x2 : State) (x3 : List Byte) : (sendRows c d x0 x1 x2 x3).2.2.kept = x2.kept := by
  induction x0 generalizing x1 x2 x3 with
  | zero => rfl
  | succ n ih =>
    have h := State.readRow_kept x2 c (d.srcAt x1) d.len 0x4006
    unfold sendRows
    generalize x2.readRow c (d.srcAt x1) d.len 0x4006 = o at h
    obtain ⟨bs, ok, s⟩ := o
    dsimp only at h ⊢
    cases ok <;> simp [ih, h]

@[simp ↓] theorem portStart_kept (op : Nat) (body : Nat → PortDesc → PortRun → State → State) (c : Nat) (s : State) (hbody : ∀ i d r s, (body i d r s).kept = s.kept) : Keeps s (portStart op body c s) := by
  unfold portStart
  with_reducible apply onCore_kept
  intros
  try dsimp only
  (repeat' split) <;> simp [hbody]


/-! ### Machine/Fabric.lean -/

@[simp ↓] theorem State.enter_kept (s : State) (r : Nat) (port : Nat) (p : Packet) : ∀ t, State.enter s r port p = some t → t.kept = s.kept :=
  by simp [State.enter]

theorem State.enterOn_kept (s : State) (r port : Nat) (reply : Bool) : ∀ t, State.enterOn s r port reply = some t → t.kept = s.kept := by
  unfold State.enterOn
  dsimp only
  split
  · simp
  · exact kept_mapOpt _ _ fun f => by simp

@[simp ↓] theorem State.enterAve_kept (s : State) (r port sl : Nat) (f : AveFlit) : (State.enterAve s r port sl f).kept = s.kept := by
  unfold State.enterAve
  (try dsimp only)
  (repeat' split) <;> simp

@[simp ↓] theorem State.failDevice_kept (s : State) (c : Nat) (p : Packet) : (State.failDevice s c p).kept = s.kept := by
  unfold State.failDevice
  try dsimp only
  (repeat' split) <;> simp

theorem State.injectClass_kept (s : State) (c g : Nat) (reply : Bool) : ∀ t, State.injectClass s c g reply = some t → t.kept = s.kept := by
  unfold State.injectClass
  dsimp only
  split
  · simp
  split
  · simp
  split
  · split <;> (intro t h; simp only [Option.some.injEq] at h; rw [← h]; simp)
  split
  · intro t h; simp only [Option.some.injEq] at h; rw [← h]; simp
  · intro t h; rw [State.enter_kept _ _ _ _ t h]; simp

@[simp ↓] theorem State.injectCore_kept (s : State) (c : Nat) : (State.injectCore s c).kept = s.kept := by
  unfold State.injectCore
  split
  · rfl
  split
  · rfl
  · exact kept_getD2 _ _ (kept_orElse _ _ (State.enterOn_kept _ _ _ _) (kept_orElse _ _ (State.injectClass_kept _ _ _ _)
      (kept_orElse _ _ (State.enterOn_kept _ _ _ _) (State.injectClass_kept _ _ _ _)))) rfl

@[simp ↓] theorem State.sendAve_kept (s : State) (c sl : Nat) (f : AveFlit) : (State.sendAve s c sl f).kept = s.kept := by
  unfold State.sendAve
  (try dsimp only)
  (repeat' split) <;> simp

@[simp ↓] theorem State.injectBundle_kept (s : State) (c : Nat) : (State.injectBundle s c).kept = s.kept := by
  unfold State.injectBundle
  dsimp only
  split
  · rfl
  split
  · simp
  · split <;> simp
  · split
    · rfl
    split
    · rfl
    · split <;> simp

theorem State.startEnd_kept (s : State) (code : Nat) (a : Nat × Nat × Nat) (p : Packet) : ∀ t, State.startEnd s code a p = some t → t.kept = s.kept := by
  unfold State.startEnd
  dsimp only
  split
  · simp
  split
  · intro t h; simp only [Option.some.injEq] at h; rw [← h]; simp
  · intro t h; rw [State.enter_kept _ _ _ _ t h]; simp

@[simp ↓] theorem State.injectEnd_kept (s : State) (code : Nat) : (State.injectEnd s code).kept = s.kept := by
  unfold State.injectEnd
  split
  · rfl
  next a _ =>
    have on (reply : Bool) := kept_orElse _ _
      (kept_findSome (k := s.kept) (fun (x : Nat × Nat) => if s.fabricOn x.1 then s.enterOn x.1 x.2 reply else none)
        (fun x t h => by split at h; exact State.enterOn_kept _ _ _ _ t h; cases h) (attachRouters a))
      (kept_findSome (k := s.kept) (s.startEnd code a) (fun p t h => State.startEnd_kept _ _ _ _ t h)
        ((Fm.get [] code s.endOut).filter fun p => replyType p.type = reply && s.endGives code p))
    exact kept_getD2 _ _ (kept_orElse _ _ (on true) (on false)) rfl

@[simp ↓] theorem State.injectPeer_kept (s : State) (code : Nat) : (State.injectPeer s code).kept = s.kept := by
  unfold State.injectPeer
  try dsimp only
  (repeat' split) <;> simp

@[simp ↓] theorem execInjection_kept (src : Nat) (avenue : Bool) (s : State) : Keeps s (execInjection src avenue s) :=
  by simp [execInjection]

@[simp ↓] theorem State.deliverEnd_kept (s : State) (r : Nat) (side : Nat) (p : Packet) : (State.deliverEnd s r side p).kept = s.kept :=
  by simp [State.deliverEnd]

@[simp ↓] theorem State.deliverCore_kept (s : State) (r : Nat) (port : Nat) (p : Packet) : (State.deliverCore s r port p).kept = s.kept :=
  by simp [State.deliverCore]

@[simp ↓] theorem State.putEntry_kept (s : State) (r out slice : Nat) (fp : List (Nat × Flit)) (ave : List (Nat × AveFlit)) : (State.putEntry s r out slice fp ave).kept = s.kept := by
  unfold State.putEntry
  (try dsimp only)
  (repeat' split) <;> simp

@[simp ↓] theorem State.gateCycle_kept (s : State) (r port : Nat) : (State.gateCycle s r port).kept = s.kept := by
  unfold State.gateCycle
  (try dsimp only)
  (repeat' split) <;> simp

@[simp ↓] theorem State.discardFq_kept (s : State) (r port slice : Nat) (reply : Bool) (f : Flit) : (State.discardFq s r port slice reply f).kept = s.kept := by
  unfold State.discardFq
  (try dsimp only)
  (repeat' split) <;> simp

@[simp ↓] theorem State.forwardFlit_kept (s : State) (r port slice : Nat) (f : Flit) (cuts : Bool) : (State.forwardFlit s r port slice f cuts).kept = s.kept := by
  unfold State.forwardFlit
  (try dsimp only)
  (repeat' split) <;> simp

@[simp ↓] theorem State.deliverFlit_kept (s : State) (r port sl : Nat) (f : AveFlit) : (State.deliverFlit s r port sl f).kept = s.kept := by
  unfold State.deliverFlit
  (try dsimp only)
  (repeat' split) <;> simp

@[simp ↓] theorem State.branch_kept (r port sl : Nat) (e : AveEntry) (f : AveFlit) (s : State) (out : Nat) : (State.branch r port sl e f s out).kept = s.kept := by
  unfold State.branch
  (try dsimp only)
  (repeat' split) <;> simp

@[simp ↓] theorem State.discardAq_kept (s : State) (r port sl : Nat) (f : AveFlit) : (State.discardAq s r port sl f).kept = s.kept := by
  unfold State.discardAq
  (try dsimp only)
  (repeat' split) <;> simp

@[simp ↓] theorem State.moveFlit_kept (s : State) (r port sl : Nat) (err : FlitErr) (may : AveEntry → Bundle → Bool) : (State.moveFlit s r port sl err may).kept = s.kept := by
  unfold State.moveFlit
  (try dsimp only)
  (repeat' split) <;> simp

@[simp ↓] theorem State.routeFlit_kept (s : State) (r port slice : Nat) (reply : Bool) (err : FlitErr) : (State.routeFlit s r port slice reply err).kept = s.kept := by
  unfold State.routeFlit
  (try dsimp only)
  (repeat' split) <;> simp

@[simp ↓] theorem execRoutePacket_kept (router : Nat) (port : Nat) (slice : Nat) (reply : Bool) (avenue : Bool) (err : FlitErr) (s : State) : Keeps s (execRoutePacket router port slice reply avenue err s) := by
  unfold execRoutePacket
  with_reducible apply onUnit_kept
  intros
  try dsimp only
  (repeat' split) <;> simp

@[simp ↓] theorem execAvenueBundle_kept (router port slice : Nat) (err : FlitErr) (s : State) : Keeps s (execAvenueBundle router port slice err s) := by
  unfold execAvenueBundle
  (try dsimp only)
  (repeat' split) <;> simp

@[simp ↓] theorem execDrainMarker_kept (router port slice : Nat) (err : FlitErr) (s : State) : Keeps s (execDrainMarker router port slice err s) := by
  unfold execDrainMarker
  (try dsimp only)
  (repeat' split) <;> simp

@[simp ↓] theorem State.arrival_kept (s : State) (c : Nat) (t : Nat) (f : Packet → State → State) (hf : ∀ p s, (f p s).kept = s.kept) : (State.arrival s c t f).kept = s.kept := by
  unfold State.arrival
  (repeat' split) <;> simp [hf]

@[simp ↓] theorem execWrite_kept (core : Nat) (s : State) : Keeps s (execWrite core s) := by
  unfold execWrite
  with_reducible apply onCore_kept
  intro s
  with_reducible apply State.arrival_kept
  intro p s
  dsimp only
  split
  · simp
  · split <;> simp

@[simp ↓] theorem State.spadAddrError_kept (s : State) (c : Nat) (g : Nat) : (State.spadAddrError s c g).kept = s.kept :=
  by simp [State.spadAddrError]

@[simp ↓] theorem State.readCore_kept (s : State) (c : Nat) : (State.readCore s c).kept = s.kept :=
  by simp [State.readCore]

@[simp ↓] theorem landReads_kept (c i n : Nat) (r : PortRun) (s : State) : (landReads c i n r s).kept = s.kept := by
  induction n generalizing r s with
  | zero => simp [landReads]
  | succ n ih =>
    unfold landReads
    split
    · simp
    split
    · simp
    · next x _ =>
      dsimp only
      split
      · simp [ih]
      · next q _ =>
        have h := State.freePrefix_kept s q
        generalize s.freePrefix q = z at h
        obtain ⟨m, t⟩ := z
        dsimp only at h ⊢
        simp [h]

@[simp ↓] theorem State.readDataCore_kept (s : State) (c : Nat) : (State.readDataCore s c).kept = s.kept := by
  unfold State.readDataCore
  with_reducible apply State.arrival_kept
  intro p s
  dsimp only
  split
  · rfl
  · simp

@[simp ↓] theorem execSignal_kept (core : Nat) (s : State) : Keeps s (execSignal core s) :=
  by simp [execSignal]

@[simp ↓] theorem execCreditRequest_kept (core : Nat) (s : State) : Keeps s (execCreditRequest core s) :=
  by simp [execCreditRequest]

@[simp ↓] theorem execCanswer_kept (core : Nat) (s : State) : Keeps s (execCanswer core s) :=
  by simp [execCanswer]

@[simp ↓] theorem State.ackCore_kept (s : State) (c : Nat) : (State.ackCore s c).kept = s.kept := by
  unfold State.ackCore
  with_reducible apply State.arrival_kept
  intro p s
  extract_lets +onlyGivenNames v
  split <;> simp

@[simp ↓] theorem execNotice_kept (core : Nat) (s : State) : Keeps s (execNotice core s) := by
  unfold execNotice
  with_reducible apply onCore_kept
  intro s
  with_reducible apply State.arrival_kept
  intro p s
  extract_lets +onlyGivenNames v mine
  split <;> simp

@[simp ↓] theorem execBellRelease_kept (garden : Nat) (bell : Nat) (core : Nat) (s : State) : Keeps s (execBellRelease garden bell core s) :=
  by simp [execBellRelease]

@[simp ↓] theorem execStarvationPromote_kept (core : Nat) (remote : Bool) (s : State) : Keeps s (execStarvationPromote core remote s) :=
  by simp [execStarvationPromote]

@[simp ↓] theorem execFpQuiet_kept (pav : Nat) (garden : Nat) (s : State) : Keeps s (execFpQuiet pav garden s) :=
  by simp [execFpQuiet]

@[simp ↓] theorem State.armEntries_kept (s : State) (pav : Nat) (mask : Nat) : (State.armEntries s pav mask).kept = s.kept :=
  by simp [State.armEntries]

@[simp ↓] theorem execPvFabArm_kept (pav : Nat) (mask : Nat) (s : State) : Keeps s (execPvFabArm pav mask s) :=
  by simp [execPvFabArm]

@[simp ↓] theorem State.markEntries_kept (s : State) (pav : Nat) (mask : Nat) : (State.markEntries s pav mask).kept = s.kept :=
  by simp [State.markEntries]

@[simp ↓] theorem execPvFabMark_kept (pav : Nat) (mask : Nat) (s : State) : Keeps s (execPvFabMark pav mask s) :=
  by simp [execPvFabMark]

@[simp ↓] theorem State.setUp_kept (s : State) (r : Nat) (side : Nat) (up : Bool) : (State.setUp s r side up).kept = s.kept :=
  by simp [State.setUp]

@[simp ↓] theorem State.markDown_kept (s : State) (r : Nat) (side : Nat) : (State.markDown s r side).kept = s.kept :=
  by simp [State.markDown]

@[simp ↓] theorem State.findErrs_kept (s : State) (o : Nat) (read : Nat → Bool) (g : Option Nat) (op : Nat) : (s.findErrs o read g op).kept = s.kept := by
  unfold State.findErrs
  dsimp only
  split
  · rfl
  split
  · simp
  · cases g <;> simp

@[simp ↓] theorem execLinkDown_kept (router : Nat) (side : Nat) (s : State) : Keeps s (execLinkDown router side s) := by
  unfold execLinkDown
  (repeat' split) <;> simp

@[simp ↓] theorem execGateBufferAlign_kept (router side lo hi : Nat) (s : State) : Keeps s (execGateBufferAlign router side lo hi s) := by
  unfold execGateBufferAlign
  with_reducible apply onUnit_kept
  intro s
  (try dsimp only)
  (repeat' split) <;> simp


/-! ### Machine/OraOps.lean -/

@[simp ↓] theorem State.slowTouch_kept (s : State) (a : Nat) (n : Nat) (g : Option Nat) (op : Nat) : (State.slowTouch s a n g op).kept = s.kept := by
  simp [State.slowTouch]


/-! ### Machine/Orangery.lean -/

@[simp ↓] theorem State.sendEnd_kept (s : State) (code : Nat) (p : Packet) : (State.sendEnd s code p).kept = s.kept :=
  by simp [State.sendEnd]

@[simp ↓] theorem State.mergeReads_kept (s : State) (o g a n : Nat) : (State.mergeReads s o g a n).kept = s.kept := by
  simp [State.mergeReads]

@[simp ↓] theorem onEngine_kept (ora : Nat) (garden : Nat) (s : State) (f : State → State) (hf : ∀ s, (f s).kept = s.kept) : Keeps s (onEngine ora garden s f) :=
  by simp [onEngine, hf]

@[simp ↓] theorem execArm_kept (ora : Nat) (garden : Nat) (s : State) : Keeps s (execArm ora garden s) :=
  by simp [execArm]

@[simp ↓] theorem execPrepare_kept (ora : Nat) (garden : Nat) (s : State) : Keeps s (execPrepare ora garden s) :=
  by simp [execPrepare]

@[simp ↓] theorem execCommit_kept (ora : Nat) (garden : Nat) (scale : W32) (s : State) : Keeps s (execCommit ora garden scale s) :=
  by simp [execCommit]

@[simp ↓] theorem execDiscard_kept (ora : Nat) (garden : Nat) (s : State) : Keeps s (execDiscard ora garden s) :=
  by simp [execDiscard]

@[simp ↓] theorem execDisarm_kept (ora : Nat) (garden : Nat) (s : State) : Keeps s (execDisarm ora garden s) :=
  by simp [execDisarm]

@[simp ↓] theorem State.normLayer_kept (o : Nat) (s : State) (l : Layer) : (State.normLayer o s l).kept = s.kept :=
  by simp [State.normLayer]

@[simp ↓] theorem State.engineIncident_kept (s : State) (o : Nat) (g : Nat) : (State.engineIncident s o g).kept = s.kept :=
  by simp [State.engineIncident]

@[simp ↓] theorem execOrArena_kept (ora : Nat) (garden : Nat) (value : Word) (s : State) : Keeps s (execOrArena ora garden value s) :=
  by simp [execOrArena]

@[simp ↓] theorem execOrLayerWord_kept (ora : Nat) (layer : Nat) (w : Nat) (value : Word) (s : State) : Keeps s (execOrLayerWord ora layer w value s) :=
  by simp [execOrLayerWord]

@[simp ↓] theorem execChannelCheck_kept (ora : Nat) (found : ChannelStep) (s : State) : Keeps s (execChannelCheck ora found s) := by
  unfold execChannelCheck
  (try dsimp only)
  (repeat' split) <;> simp

@[simp ↓] theorem execChannelRetrainEnd_kept (ora : Nat) (s : State) : Keeps s (execChannelRetrainEnd ora s) :=
  by simp [execChannelRetrainEnd]

@[simp ↓] theorem execBlockWriteBack_kept (ora : Nat) (block : Nat) (s : State) : Keeps s (execBlockWriteBack ora block s) :=
  by simp [execBlockWriteBack]

@[simp ↓] theorem execRowRetire_kept (ora : Nat) (row : Nat) (s : State) : Keeps s (execRowRetire ora row s) := by
  unfold execRowRetire
  with_reducible apply onOra_kept
  intro s
  dsimp only
  (repeat' split) <;> simp

@[simp ↓] theorem onModule_kept (ora : Nat) (m : Nat) (s : State) (f : State → State) (hf : ∀ s, (f s).kept = s.kept) : Keeps s (onModule ora m s f) :=
  by simp [onModule, hf]


/-! ### Machine/PowerOps.lean -/

@[simp ↓] theorem State.reindex_kept (s : State) (p : Nat) : (State.reindex s p).kept = s.kept :=
  by simp [State.reindex]

@[simp ↓] theorem State.eachPav_kept (s : State) (f : Nat → Pav → Pav) : (State.eachPav s f).kept = s.kept :=
  by simp [State.eachPav]

@[simp ↓] theorem State.reindexAll_kept (s : State) : (State.reindexAll s).kept = s.kept :=
  by simp [State.reindexAll]

@[simp ↓] theorem State.wantRecovery_kept (s : State) (g : Nat) (cause : Nat) (strength : Nat) : (State.wantRecovery s g cause strength).kept = s.kept :=
  by simp [State.wantRecovery]

@[simp ↓] theorem State.wantUncounted_kept (s : State) (g cause strength : Nat) : (State.wantUncounted s g cause strength).kept = s.kept := by
  unfold State.wantUncounted
  (try dsimp only)
  (repeat' split) <;> simp

@[simp ↓] theorem State.loseWork_kept (s : State) (p : Nat) : (State.loseWork s p).kept = s.kept := by
  unfold State.loseWork
  (repeat' split) <;> simp

@[simp ↓] theorem State.resetCores_kept (s : State) (p : Nat) (f : Core → Core) : (State.resetCores s p f).kept = s.kept :=
  by simp [State.resetCores]

@[simp ↓] theorem State.domainOff_kept (s : State) (p : Nat) : (State.domainOff s p).kept = s.kept :=
  by simp [State.domainOff]

@[simp ↓] theorem State.pavDark_kept (s : State) (p : Nat) : (State.pavDark s p).kept = s.kept :=
  by simp [State.pavDark]

@[simp ↓] theorem State.identify_kept (s : State) (p : Nat) : (State.identify s p).kept = s.kept :=
  by unfold State.identify; exact kept_foldl _ (fun s a => by simp) _ _

@[simp ↓] theorem State.allOff_kept (s : State) : (State.allOff s).kept = s.kept :=
  by simp [State.allOff]

@[simp ↓] theorem State.thermTrip_kept (s : State) (cause : Nat) : (State.thermTrip s cause).kept = s.kept :=
  by simp [State.thermTrip]

@[simp ↓] theorem State.moduleStop_kept (s : State) : (State.moduleStop s).kept = s.kept :=
  by simp [State.moduleStop]

@[simp ↓] theorem State.addJob_kept (s : State) (j : Job) : (State.addJob s j).kept = s.kept :=
  by simp [State.addJob]

end Sys2Proof.Machine
end

