-- ==== Sys2Proof/Laws/KeptHost.lean ====
section
/-! SUPPORT. Commands and operations that leave the slow tier's bytes and the queue of waiting commands as they are: the host bridge, chimes, letters, registers and the clock. -/

namespace Sys2Proof.Machine

/-! ### Machine/HostOps.lean -/

@[simp ↓] theorem State.updBridge_kept (s : State) (f : Bridge → Bridge) : (State.updBridge s f).kept = s.kept :=
  by simp [State.updBridge]

@[simp ↓] theorem State.putSession_kept (s : State) (id : Nat) (x : Session) : (State.putSession s id x).kept = s.kept :=
  by simp [State.putSession]

@[simp ↓] theorem State.updSession_kept (s : State) (id : Nat) (f : Session → Session) : (State.updSession s id f).kept = s.kept := by
  unfold State.updSession
  (repeat' split) <;> simp

@[simp ↓] theorem State.putParcel_kept (s : State) (id : Nat) (x : Parcel) : (State.putParcel s id x).kept = s.kept :=
  by simp [State.putParcel]

@[simp ↓] theorem State.bumpIturn_kept (s : State) (port : Nat) (f : Fld) : (State.bumpIturn s port f).kept = s.kept :=
  by simp [State.bumpIturn]

@[simp ↓] theorem State.emit_kept (s : State) (f : TxFrame) : (State.emit s f).kept = s.kept := by
  unfold State.emit
  (try dsimp only)
  (repeat' split) <;> simp

@[simp ↓] theorem State.sendFrame_kept (s : State) (id : Nat) (type : Nat) (payload : List Byte) : (State.sendFrame s id type payload).kept = s.kept := by
  unfold State.sendFrame
  (repeat' split) <;> simp

@[simp ↓] theorem State.ackFrame_kept (s : State) (id : Nat) (pn : Nat) : (State.ackFrame s id pn).kept = s.kept :=
  by simp [State.ackFrame]

@[simp ↓] theorem State.launch_kept (s : State) (id : Nat) (c : Content) (payload : List Byte) : (State.launch s id c payload).kept = s.kept := by
  unfold State.launch
  (repeat' split) <;> simp

@[simp ↓] theorem State.bridgeSend_kept (s : State) (p : Packet) : (State.bridgeSend s p).kept = s.kept :=
  by simp [State.bridgeSend]

@[simp ↓] theorem State.buildData_kept (s : State) (id : Nat) (parcel : Nat) (off : Nat) (len : Nat) : (State.buildData s id parcel off len).kept = s.kept := by
  unfold State.buildData
  (repeat' split) <;> simp

@[simp ↓] theorem flush_kept (id : Nat) (x0 : Nat) (x1 : State) : (flush id x0 x1).kept = x1.kept := by
  induction x0 generalizing x1 with
  | zero => rfl
  | succ n ih =>
    unfold flush
    split
    · rfl
    split
    · rfl
    split
    · rfl
    rw [ih]
    split <;> simp

@[simp ↓] theorem State.flushSession_kept (s : State) (id : Nat) : (State.flushSession s id).kept = s.kept := by
  unfold State.flushSession
  (repeat' split) <;> simp

@[simp ↓] theorem State.queueContent_kept (s : State) (id : Nat) (cs : List Content) : (State.queueContent s id cs).kept = s.kept :=
  by simp [State.queueContent]

@[simp ↓] theorem State.sendGone_kept (s : State) (path : Path) (id : Nat) (reason : Nat) : (State.sendGone s path id reason).kept = s.kept :=
  by simp [State.sendGone]

@[simp ↓] theorem State.muteChannel_kept (s : State) (ch : Nat) : (State.muteChannel s ch).kept = s.kept :=
  by simp [State.muteChannel]

@[simp ↓] theorem State.closeParcels_kept (s : State) (which : Nat → Parcel → Bool) : (State.closeParcels s which).kept = s.kept :=
  by simp [State.closeParcels]

@[simp ↓] theorem State.endSession_kept (s : State) (id : Nat) (reason : Nat) : (State.endSession s id reason).kept = s.kept := by
  unfold State.endSession
  (repeat' split) <;> simp

@[simp ↓] theorem State.endAll_kept (s : State) (reason : Nat) : (State.endAll s reason).kept = s.kept :=
  by simp [State.endAll]

@[simp ↓] theorem State.freeReceipt_kept (s : State) (id : Nat) (ch : Nat) (r : Receipt) : (State.freeReceipt s id ch r).kept = s.kept := by
  unfold State.freeReceipt
  (repeat' split) <;> simp

@[simp ↓] theorem State.takeAcks_kept (s : State) (id : Nat) (largest : Nat) (sack : Nat) : (State.takeAcks s id largest sack).kept = s.kept := by
  unfold State.takeAcks
  (try simp)
  (repeat' (first | (split <;> (try simp)) | (with_reducible refine kept_foldl' _ _ _ _ ?_ ?_) | (intro _; (try simp)) | (simp_all; done)))

@[simp ↓] theorem State.intake_kept (s : State) (f : Frame) (type : Nat) (eliciting : Bool) : (State.intake s f type eliciting).1.kept = s.kept := by
  unfold State.intake
  extract_lets +onlyGivenNames port s1
  have h1 : s1.kept = s.kept := by simp only [s1]; split <;> simp
  clear_value s1
  split
  · simp [h1]
  split
  · simp [h1]
  split
  · simp [h1]
  extract_lets x top x2 ece x3 s3 s4
  split
  · simp [h1]
  split
  · simp [h1]
  split
  · simp [h1]
  · have h4 : s4.kept = s.kept := by simp only [s4]; split <;> simp [s3, h1]
    simp [h4]

@[simp ↓] theorem State.discardFrame_kept (s : State) (f : Frame) (cnt : Fld) : (State.discardFrame s f cnt).kept = s.kept :=
  by simp [State.discardFrame]

@[simp ↓] theorem State.parcelMoved_kept (s : State) (id : Nat) (off : Nat) (len : Nat) : (State.parcelMoved s id off len).kept = s.kept := by
  unfold State.parcelMoved
  (repeat' split) <;> simp

@[simp ↓] theorem State.hostGen_kept (s : State) (g : Nat) : (State.hostGen s g).kept = s.kept :=
  by simp [State.hostGen]


/-! ### Machine/ChimeOps.lean -/

@[simp ↓] theorem State.setRecords_kept (s : State) (u : Nat) (rs : List StageRec) : (State.setRecords s u rs).kept = s.kept :=
  by simp [State.setRecords]

@[simp ↓] theorem State.copyShadow_kept (s : State) (block : Nat) (mine : Nat → Bool) (inst : Nat) : (State.copyShadow s block mine inst).kept = s.kept :=
  by simp [State.copyShadow]

@[simp ↓] theorem State.snapUnit_kept (s : State) (u : Nat) : (State.snapUnit s u).kept = s.kept :=
  by simp [State.snapUnit]

@[simp ↓] theorem State.snapPost_kept (s : State) : (State.snapPost s).kept = s.kept :=
  by simp [State.snapPost]

@[simp ↓] theorem State.applyFootpaths_kept (s : State) (p : Nat) : (State.applyFootpaths s p).kept = s.kept :=
  by simp [State.applyFootpaths]

@[simp ↓] theorem State.setRun_kept (s : State) (p : Nat) (cores : List Nat) (set : Bool) : (State.setRun s p cores set).kept = s.kept :=
  by simp [State.setRun]

@[simp ↓] theorem State.applyProt_kept (s : State) (p : Nat) (g : Nat) (old : Protection) (new : Protection) : (State.applyProt s p g old new).kept = s.kept :=
  by simp [State.applyProt]

@[simp ↓] theorem State.applyPav_kept (s : State) (p : Nat) (x0 : Change) : (State.applyPav s p x0).kept = s.kept := by
  unfold State.applyPav
  (repeat' split) <;> simp

@[simp ↓] theorem State.setEndTag_kept (s : State) (code : Nat) (g : Nat) (tag : Nat) : (State.setEndTag s code g tag).kept = s.kept :=
  by simp [State.setEndTag]

@[simp ↓] theorem State.peerFrame_kept (s : State) (port : Nat) (f : Nat → PeerOut) : (State.peerFrame s port f).kept = s.kept :=
  by simp [State.peerFrame]

@[simp ↓] theorem State.gensync_kept (s : State) (e : PeerEntry) (tag : Nat) : (State.gensync s e tag).kept = s.kept :=
  by simp [State.gensync]

@[simp ↓] theorem State.peerGen_kept (s : State) (ports : Nat → Bool) (g : Nat) (tag : Nat) : (State.peerGen s ports g tag).kept = s.kept :=
  by simp [State.peerGen]

@[simp ↓] theorem State.applyPeer_kept (s : State) (g : Nat) (send : Bool) (add : Bool) (e : PeerEntry) : (State.applyPeer s g send add e).kept = s.kept := by
  unfold State.applyPeer
  (repeat' split) <;> simp

@[simp ↓] theorem State.applyCarry_kept (s : State) (port : Nat) (spare : Nat) : (State.applyCarry s port spare).kept = s.kept :=
  by simp [State.applyCarry]

@[simp ↓] theorem State.applyCap_kept (s : State) (cap : Nat) (w1 : Nat) (w2 : Nat) (halved : Option Bool) : (State.applyCap s cap w1 w2 halved).kept = s.kept := by
  unfold State.applyCap
  (repeat' split) <;> simp

@[simp ↓] theorem State.applySource_kept (s : State) (src : Nat) : (State.applySource s src).kept = s.kept :=
  by simp [State.applySource]

@[simp ↓] theorem State.applyConfig_kept (s : State) (u : Nat) (es : List (Nat × Word)) : (State.applyConfig s u es).kept = s.kept := by
  unfold State.applyConfig
  (try dsimp only)
  (repeat' split) <;> simp

@[simp ↓] theorem State.applyChange_kept (s : State) (u : Nat) (c : Change) : (State.applyChange s u c).kept = s.kept := by
  unfold State.applyChange
  (repeat' split) <;> simp

@[simp ↓] theorem State.applyRecords_kept (s : State) (u : Nat) (rs : List StageRec) : (State.applyRecords s u rs).kept = s.kept := by
  unfold State.applyRecords
  (try simp)
  (repeat' (first | (split <;> (try simp)) | (with_reducible refine kept_foldl' _ _ _ _ ?_ ?_) | (intro _; (try simp)) | (simp_all; done)))

@[simp ↓] theorem State.refreshPav_kept (s : State) (p : Nat) : (State.refreshPav s p).kept = s.kept := by
  unfold State.refreshPav
  try dsimp only
  (repeat' split) <;> simp

@[simp ↓] theorem State.holdLinks_kept (s : State) (p : Nat) : (State.holdLinks s p).kept = s.kept := by
  unfold State.holdLinks
  (try simp)
  (repeat' (first | (split <;> (try simp)) | (with_reducible refine kept_foldl' _ _ _ _ ?_ ?_) | (intro _; (try simp)) | (simp_all; done)))


/-! ### Machine/MailOps.lean -/

@[simp ↓] theorem State.enqueue_kept (s : State) (ch : Nat) (path : Path) (r : Receipt) : (State.enqueue s ch path r).kept = s.kept :=
  by simp [State.enqueue]

@[simp ↓] theorem State.place_kept (s : State) (a : Accepted) (r : Receipt) : (State.place s a r).kept = s.kept :=
  by simp [State.place]

@[simp ↓] theorem State.drop_kept (s : State) (a : Accepted) : (State.drop s a).kept = s.kept :=
  by simp [State.drop]

@[simp ↓] theorem State.reply_kept (s : State) (a : Accepted) (body : List Byte) (chime : Nat) (clamps : (List Clamp)) : (State.reply s a body chime clamps).kept = s.kept :=
  by simp [State.reply]

@[simp ↓] theorem State.notSealed_kept (s : State) (a : Accepted) (reason : Nat) (body : List Byte) : (State.notSealed s a reason body).kept = s.kept :=
  by simp [State.notSealed]

@[simp ↓] theorem State.dead_kept (s : State) (a : Accepted) (reason : Nat) (d : Detail) : (State.dead s a reason d).kept = s.kept :=
  by simp [State.dead]

@[simp ↓] theorem State.begin_kept (s : State) (a : Accepted) (j : Job) : (State.begin s a j).kept = s.kept :=
  by simp [State.begin]

@[simp ↓] theorem State.defer_kept (s : State) (a : Accepted) (code : Nat) (seq : Nat) : (State.defer s a code seq).kept = s.kept :=
  by simp [State.defer]

@[simp ↓] theorem State.payOwed_kept (s : State) (a : Accepted) (ctx : Word) : (State.payOwed s a ctx).kept = s.kept :=
  by simp [State.payOwed]

@[simp ↓] theorem onLetter_kept (code : Nat) (ch : Nat) (s : State) (f : Accepted → State → State) (hf : ∀ p s, (f p s).kept = s.kept) : Keeps s (onLetter code ch s f) := by
  unfold onLetter
  with_reducible apply onChan_kept
  intro s
  split
  · rfl
  split
  · rfl
  split
  · simp
  · exact hf _ _

@[simp ↓] theorem State.acceptAgain_kept (s : State) (ch : Nat) (x : Slotted) : (State.acceptAgain s ch x).kept = s.kept := by
  unfold State.acceptAgain
  extract_lets +onlyGivenNames s1
  have h1 : s1.kept = s.kept := by simp [s1]
  clear_value s1
  generalize ((s.chan ch).recent.find? _).bind _ = o
  cases o <;> simp [h1]

@[simp ↓] theorem State.markWaiting_kept (s : State) : (State.markWaiting s).kept = s.kept := by
  unfold State.markWaiting
  (try dsimp only)
  (repeat' split) <;> simp

@[simp ↓] theorem State.acceptNew_kept (s : State) (ch : Nat) (a : Accepted) : (State.acceptNew s ch a).kept = s.kept := by
  unfold State.acceptNew
  extract_lets +onlyGivenNames s1
  have h1 : s1.kept = s.kept := by simp [s1]
  clear_value s1
  generalize s1.catalogueCheck ch a.letter = o
  cases o
  · extract_lets +onlyGivenNames b s2
    have h2 : s2.kept = s1.kept := by simp [s2]
    clear_value s2
    simp [h1, h2]
  · simp [h1]

@[simp ↓] theorem State.accept_kept (s : State) (ch : Nat) (x : Slotted) : (State.accept s ch x).kept = s.kept := by
  unfold State.accept
  try dsimp only
  (repeat' split) <;> simp

@[simp ↓] theorem scanChannel_kept (ch : Nat) (x0 : Nat) (x1 : State) : (scanChannel ch x0 x1).kept = x1.kept := by
  induction x0 generalizing x1 with
  | zero => rfl
  | succ n ih =>
    unfold scanChannel
    extract_lets +onlyGivenNames c
    split
    · rfl
    split
    · rfl
    · simp [ih]

@[simp ↓] theorem State.scan_kept (s : State) : (State.scan s).kept = s.kept :=
  by simp [State.scan]

@[simp ↓] theorem State.take_kept (s : State) (ch : Nat) : (State.take s ch).kept = s.kept := by
  unfold State.take
  (repeat' split) <;> simp

@[simp ↓] theorem State.readOut_kept (s : State) (ch : Nat) : (State.readOut s ch).2.kept = s.kept := by
  unfold State.readOut
  try dsimp only
  (repeat' split) <;> simp


/-! ### Machine/RegOps.lean -/

@[simp ↓] theorem State.pvRead_kept (s : State) (p : Nat) (off : Nat) : (State.pvRead s p off).2.kept = s.kept :=
  by simp [State.pvRead]

@[simp ↓] theorem State.orRead_kept (s : State) (o : Nat) (off : Nat) : (State.orRead s o off).2.kept = s.kept := by
  unfold State.orRead
  (repeat' split) <;> simp

@[simp ↓] theorem State.lnRead_kept (s : State) (kind : Nat) (idx : Nat) (off : Nat) : (State.lnRead s kind idx off).2.kept = s.kept := by
  unfold State.lnRead
  (repeat' split) <;> simp

@[simp ↓] theorem State.wdRead_kept (s : State) (off : Nat) : (State.wdRead s off).2.kept = s.kept :=
  by simp [State.wdRead]

@[simp ↓] theorem State.ihRead_kept (s : State) (off : Nat) : (State.ihRead s off).2.kept = s.kept := by
  unfold State.ihRead
  try dsimp only
  (repeat' split) <;> simp

@[simp ↓] theorem State.pmRead_kept (s : State) (ch : Nat) (off : Nat) : (State.pmRead s ch off).2.kept = s.kept := by
  unfold State.pmRead
  try dsimp only
  (repeat' split) <;> simp

@[simp ↓] theorem State.mbxCtl_kept (s : State) (ch : Nat) (v : Word) : (State.mbxCtl s ch v).kept = s.kept :=
  by simp [State.mbxCtl]

@[simp ↓] theorem State.pmWrite_kept (s : State) (ch : Nat) (off : Nat) (v : Word) : (State.pmWrite s ch off v).kept = s.kept := by
  unfold State.pmWrite
  split <;> simp

@[simp ↓] theorem State.readReg_kept (s : State) (ch : Nat) (a : Nat) : (State.readReg s ch a).2.kept = s.kept := by
  unfold State.readReg
  try dsimp only
  (repeat' split) <;> simp

@[simp ↓] theorem State.pvWrite_kept (s : State) (p : Nat) (off : Nat) (v : Word) : (State.pvWrite s p off v).kept = s.kept :=
  by simp [State.pvWrite]

@[simp ↓] theorem State.orWrite_kept (s : State) (o : Nat) (off : Nat) (v : Word) : (State.orWrite s o off v).kept = s.kept :=
  by simp [State.orWrite]

@[simp ↓] theorem State.mapWrite_kept (s : State) (g : Nat) (v : Word) : (State.mapWrite s g v).kept = s.kept :=
  by simp [State.mapWrite]

@[simp ↓] theorem State.gdWrite_kept (s : State) (g : Nat) (off : Nat) (v : Word) : (State.gdWrite s g off v).kept = s.kept :=
  by simp [State.gdWrite]

@[simp ↓] theorem State.kpWrite_kept (s : State) (c : Nat) (off : Nat) (v : Word) : (State.kpWrite s c off v).kept = s.kept :=
  by simp [State.kpWrite]

@[simp ↓] theorem State.writeReg_kept (s : State) (ch : Nat) (a : Nat) (v : Word) : (State.writeReg s ch a v).kept = s.kept := by
  unfold State.writeReg
  (repeat' split) <;> simp


/-! ### Machine/Mail.lean -/

@[simp ↓] theorem onWindow_kept (ch : Nat) (s : State) (f : State → State) (hf : ∀ s, (f s).kept = s.kept) : Keeps s (onWindow ch s f) :=
  by simp [onWindow, hf]

@[simp ↓] theorem execPost_kept (ch : Nat) (s : State) : Keeps s (execPost ch s) :=
  by simp [execPost]

@[simp ↓] theorem execTake_kept (ch : Nat) (s : State) : Keeps s (execTake ch s) :=
  by simp [execTake]

@[simp ↓] theorem execAbort_kept (ch : Nat) (s : State) : Keeps s (execAbort ch s) :=
  by simp [execAbort]

@[simp ↓] theorem execPmMbxReset_kept (ch : Nat) (s : State) : Keeps s (execPmMbxReset ch s) :=
  by simp [execPmMbxReset]

@[simp ↓] theorem execPmMbxIn_kept (ch : Nat) (data : Word) (s : State) : Keeps s (execPmMbxIn ch data s) :=
  by simp [execPmMbxIn]

@[simp ↓] theorem execPmMbxOut_kept (ch : Nat) (s : State) : Keeps s (execPmMbxOut ch s) :=
  by simp [execPmMbxOut]

@[simp ↓] theorem State.smb_kept (s : State) (v : Option Word) : (State.smb s v).kept = s.kept :=
  by simp [State.smb]

@[simp ↓] theorem smbus_kept (offset : Nat) (pec : Bool) (s : State) (f : State → State) (hf : ∀ s, (f s).kept = s.kept) : Keeps s (smbus offset pec s f) :=
  by simp [smbus, hf]

@[simp ↓] theorem execReadReg_kept (offset : Nat) (pec : Bool) (s : State) : Keeps s (execReadReg offset pec s) :=
  by simp [execReadReg]

@[simp ↓] theorem execWriteReg_kept (offset : Nat) (value : Word) (pec : Bool) (s : State) : Keeps s (execWriteReg offset value pec s) :=
  by simp [execWriteReg]

@[simp ↓] theorem execStatus_kept (pec : Bool) (s : State) : Keeps s (execStatus pec s) :=
  by simp [execStatus]

@[simp ↓] theorem execPostwin_kept (reg : BitVec 80) (s : State) : Keeps s (execPostwin reg s) :=
  by simp [execPostwin]

@[simp ↓] theorem execRegisterWrite_kept (path : WritePath) (addr : Nat) (value : Word) (s : State) : Keeps s (execRegisterWrite path addr value s) := by
  unfold execRegisterWrite
  (repeat' split) <;> simp


/-! ### Machine/Host.lean -/

@[simp ↓] theorem onHeard_kept (h : Heard) (udp : Option Nat) (s : State) (f : State → State) (hf : ∀ s, (f s).kept = s.kept) : Keeps s (onHeard h udp s f) := by
  unfold onHeard
  with_reducible apply onUnit_kept
  intro s
  dsimp only
  split
  · simp
  split
  · simp
  · simp [hf]

@[simp ↓] theorem onFrame_kept (f : Frame) (type : Nat) (eliciting : Bool) (s : State) (act : State → State) (hact : ∀ s, (act s).kept = s.kept) : Keeps s (onFrame f type eliciting s act) := by
  unfold onFrame
  with_reducible apply onHeard_kept
  intro s
  have h := State.intake_kept s f type eliciting
  generalize s.intake f type eliciting = z at h
  obtain ⟨t, ok⟩ := z
  dsimp only at h ⊢
  split <;> simp [hact, h]

@[simp ↓] theorem State.slotLetter_kept (s : State) (ch : Nat) (f : Frame) (l : Letter) : (State.slotLetter s ch f l).kept = s.kept :=
  by simp [State.slotLetter]

@[simp ↓] theorem execLetter_kept (f : Frame) (l : Letter) (s : State) : Keeps s (execLetter f l s) := by
  unfold execLetter
  split
  · with_reducible apply onHeard_kept
    intro s
    dsimp only
    (repeat' split) <;> simp
  · with_reducible apply onFrame_kept
    intro s
    (repeat' split) <;> simp

@[simp ↓] theorem execFinished_kept (f : Frame) (macOk : Bool) (sigOk : Bool) (s : State) : Keeps s (execFinished f macOk sigOk s) := by
  unfold execFinished
  with_reducible apply onFrame_kept
  intros
  try dsimp only
  (repeat' split) <;> simp

@[simp ↓] theorem State.regAccess_kept (s : State) (ch : Nat) (q : RegReq) : (State.regAccess s ch q).1.kept = s.kept := by
  unfold State.regAccess
  split
  · have h : ∀ (l : List (Nat × Word)) (a : State × List Word × Bool), (l.foldl (fun (a : State × List Word × Bool) p =>
        (a.1.pmWrite ch p.1 p.2, [], a.2.2 || a.1.pmDenied ch p.1)) a).1.kept = a.1.kept := by
      intro l
      induction l with
      | nil => intro a; rfl
      | cons o l ih => intro a; rw [List.foldl_cons, ih]; simp
    rw [h]
  · have h : ∀ (l : List Nat) (a : State × List Word × Bool), (l.foldl (fun (a : State × List Word × Bool) o =>
        let (w, s) := a.1.pmRead ch o; (s, a.2.1 ++ [w], a.2.2 || a.1.pmDenied ch o)) a).1.kept = a.1.kept := by
      intro l
      induction l with
      | nil => intro a; rfl
      | cons o l ih => intro a; rw [List.foldl_cons, ih]; simp
    rw [h]

@[simp ↓] theorem execRegReq_kept (f : Frame) (q : RegReq) (s : State) : Keeps s (execRegReq f q s) := by
  unfold execRegReq
  with_reducible apply onFrame_kept
  intro s
  split
  · rfl
  split
  · simp
  next x _ _ _ =>
  have h : (if q.ok then s.regAccess x.channel q else (s, ([] : List Word), false)).1.kept = s.kept := by split <;> simp
  generalize (if q.ok then s.regAccess x.channel q else (s, ([] : List Word), false)) = o at h
  obtain ⟨t, v, d⟩ := o
  dsimp only at h ⊢
  simp [h]

@[simp ↓] theorem State.hostXoff_kept (s : State) (port : Nat) : (State.hostXoff s port).kept = s.kept :=
  by simp [State.hostXoff]

@[simp ↓] theorem State.parcelFault_kept (s : State) (f : Frame) : (State.parcelFault s f).kept = s.kept :=
  by simp [State.parcelFault]

@[simp ↓] theorem State.parcelWrite_kept (s : State) (f : Frame) (id : Nat) (off : Nat) (data : List Byte) : (State.parcelWrite s f id off data).kept = s.kept := by
  unfold State.parcelWrite
  (repeat' split) <;> simp

@[simp ↓] theorem execParcelData_kept (f : Frame) (parcel : Nat) (offset : Nat) (data : List Byte) (s : State) : Keeps s (execParcelData f parcel offset data s) :=
  by simp [execParcelData]

@[simp ↓] theorem execParcelPull_kept (f : Frame) (parcel : Nat) (len : Nat) (offset : Nat) (s : State) : Keeps s (execParcelPull f parcel len offset s) := by
  unfold execParcelPull
  with_reducible apply onFrame_kept
  intros
  try dsimp only
  (repeat' split) <;> simp

@[simp ↓] theorem execIturnAck_kept (f : Frame) (s : State) : Keeps s (execIturnAck f s) :=
  by simp [execIturnAck]

@[simp ↓] theorem State.bridgeArrival_kept (s : State) (t : Nat) (f : Packet → State → State) (hf : ∀ p s, (f p s).kept = s.kept) : (State.bridgeArrival s t f).kept = s.kept := by
  unfold State.bridgeArrival
  (repeat' split) <;> simp [hf]

@[simp ↓] theorem State.ackHost_kept (s : State) : (State.ackHost s).kept = s.kept := by
  unfold State.ackHost
  with_reducible apply State.bridgeArrival_kept
  intros
  try dsimp only
  (repeat' split) <;> simp

@[simp ↓] theorem State.readDataHost_kept (s : State) : (State.readDataHost s).kept = s.kept := by
  unfold State.readDataHost
  with_reducible apply State.bridgeArrival_kept
  intros
  try dsimp only
  (repeat' split) <;> simp

@[simp ↓] theorem onSession_kept (id : Nat) (s : State) (f : Session → State → State) (hf : ∀ p s, (f p s).kept = s.kept) : Keeps s (onSession id s f) := by
  unfold onSession
  (repeat' split) <;> simp [hf]

@[simp ↓] theorem execRetransmissionTimer_kept (session : Nat) (pn : Nat) (s : State) : Keeps s (execRetransmissionTimer session pn s) := by
  unfold execRetransmissionTimer
  with_reducible apply onSession_kept
  intros
  try dsimp only
  (repeat' split) <;> simp

@[simp ↓] theorem execSessionIdleTimeout_kept (session : Nat) (s : State) : Keeps s (execSessionIdleTimeout session s) :=
  by simp [execSessionIdleTimeout]

@[simp ↓] theorem execUnackedTimeout_kept (session : Nat) (s : State) : Keeps s (execUnackedTimeout session s) :=
  by simp [execUnackedTimeout]

@[simp ↓] theorem execFinishedTimeout_kept (session : Nat) (s : State) : Keeps s (execFinishedTimeout session s) :=
  by simp [execFinishedTimeout]

@[simp ↓] theorem execUnboundTimeout_kept (session : Nat) (s : State) : Keeps s (execUnboundTimeout session s) :=
  by simp [execUnboundTimeout]

@[simp ↓] theorem execOldPhaseExpire_kept (session : Nat) (s : State) : Keeps s (execOldPhaseExpire session s) := by
  unfold execOldPhaseExpire
  with_reducible apply onSession_kept
  intros
  try dsimp only
  (repeat' split) <;> simp

@[simp ↓] theorem execKeyLimit_kept (session : Nat) (s : State) : Keeps s (execKeyLimit session s) :=
  by simp [execKeyLimit]

@[simp ↓] theorem State.answer_kept (s : State) (dest : Path) (kind : Nat) : (State.answer s dest kind).kept = s.kept :=
  by simp [State.answer]

@[simp ↓] theorem execArpRequest_kept (h : Heard) (target : Nat) (s : State) : Keeps s (execArpRequest h target s) :=
  by simp [execArpRequest]

@[simp ↓] theorem execNeighbourSolicitation_kept (h : Heard) (hi : Word) (lo : Word) (s : State) : Keeps s (execNeighbourSolicitation h hi lo s) :=
  by simp [execNeighbourSolicitation]

@[simp ↓] theorem execEchoRequest_kept (h : Heard) (v6 : Bool) (hi : Word) (lo : Word) (s : State) : Keeps s (execEchoRequest h v6 hi lo s) := by
  unfold execEchoRequest
  with_reducible apply onHeard_kept
  intro s
  (repeat' split) <;> simp


/-! ### Machine/Arrivals.lean -/

@[simp ↓] theorem atEndpoint_kept (dest : Nat) (s : State) (core : State → Nat → State) (ora : State → Nat → State) (host post : State → State) (hcore : ∀ s n, (core s n).kept = s.kept) (hora : ∀ s n, (ora s n).kept = s.kept) (hhost : ∀ s, (host s).kept = s.kept) (hpost : ∀ s, (post s).kept = s.kept) : Keeps s (atEndpoint dest s core ora host post) := by
  unfold atEndpoint
  (repeat' split) <;> simp [hcore, hora, hhost, hpost]

@[simp ↓] theorem State.readPost_kept (s : State) : (State.readPost s).kept = s.kept := by
  unfold State.readPost
  split
  · rfl
  next p ps _ =>
  have h : ∀ (l : List Nat) (x : List Byte × State), (l.foldl (fun (x : List Byte × State) i =>
      let (w, s) := x.2.readReg 64 (p.addr + 8 * i); (x.1 ++ leBytes 8 w.toNat, s)) x).2.kept = x.2.kept := by
    intro l
    induction l with
    | nil => intro x; rfl
    | cons i l ih => intro x; rw [List.foldl_cons, ih]; simp
  simp [h]

@[simp ↓] theorem execReadData_kept (dest : Nat) (s : State) : Keeps s (execReadData dest s) :=
  by simp [execReadData]

@[simp ↓] theorem execAck_kept (dest : Nat) (s : State) : Keeps s (execAck dest s) :=
  by simp [execAck]


/-! ### Machine/Clock.lean -/

@[simp ↓] theorem execInputLoss_kept (pav : Nat) (s : State) : Keeps s (execInputLoss pav s) :=
  by simp [execInputLoss]

@[simp ↓] theorem execSourceRetry_kept (pav : Nat) (s : State) : Keeps s (execSourceRetry pav s) :=
  by simp [execSourceRetry]

@[simp ↓] theorem execGoDark_kept (pav : Nat) (s : State) : Keeps s (execGoDark pav s) :=
  by simp [execGoDark]

@[simp ↓] theorem execMarginReport_kept (pav : Nat) (margins : List Nat) (s : State) : Keeps s (execMarginReport pav margins s) :=
  by simp [execMarginReport]

@[simp ↓] theorem State.nextChime_kept (s : State) : (State.nextChime s).kept = s.kept :=
  by simp [State.nextChime]

@[simp ↓] theorem execTickStrobe_kept (ticks : Nat) (drifts : List (Nat × Int)) (s : State) : Keeps s (execTickStrobe ticks drifts s) :=
  by simp [execTickStrobe]

@[simp ↓] theorem execFullCount_kept (s : State) : Keeps s (execFullCount s) :=
  by simp [execFullCount]

@[simp ↓] theorem State.disciplineHold_kept (s : State) : (State.disciplineHold s).kept = s.kept :=
  by simp [State.disciplineHold]

@[simp ↓] theorem execRefclkLoss_kept (s : State) : Keeps s (execRefclkLoss s) :=
  by simp [execRefclkLoss]

@[simp ↓] theorem execRefclkReturn_kept (s : State) : Keeps s (execRefclkReturn s) :=
  by simp [execRefclkReturn]

@[simp ↓] theorem State.updStage_kept (s : State) (id : Nat) (f : Stage → Stage) : (State.updStage s id f).kept = s.kept :=
  by simp [State.updStage]

@[simp ↓] theorem State.showStage_kept (s : State) (id : Nat) : (State.showStage s id).kept = s.kept := by
  unfold State.showStage
  (repeat' split) <;> simp

@[simp ↓] theorem State.raiseForStage_kept (s : State) (u : Nat) (cs : List Change) : (State.raiseForStage s u cs).kept = s.kept := by
  unfold State.raiseForStage
  (try simp)
  (repeat' (first | (split <;> (try simp)) | (with_reducible refine kept_foldl' _ _ _ _ ?_ ?_) | (intro _; (try simp)) | (simp_all; done)))

@[simp ↓] theorem State.dropVoltage_kept (s : State) (u : Nat) : (State.dropVoltage s u).kept = s.kept :=
  by simp [State.dropVoltage]

@[simp ↓] theorem execStage_kept (unit : Nat) (id : Nat) (s : State) : Keeps s (execStage unit id s) := by
  unfold execStage
  with_reducible apply onUnit_kept
  intros
  try dsimp only
  (repeat' split) <;> simp

@[simp ↓] theorem State.updJob_kept (s : State) (id : Nat) (f : Job → Job) : (State.updJob s id f).kept = s.kept :=
  by simp [State.updJob]

@[simp ↓] theorem State.discardStage_kept (s : State) (g : Stage) : (State.discardStage s g).kept = s.kept := by
  unfold State.discardStage
  try dsimp only
  (repeat' split) <;> simp

@[simp ↓] theorem execAckDeadline_kept (id : Nat) (s : State) : Keeps s (execAckDeadline id s) := by
  unfold execAckDeadline
  (repeat' split) <;> simp

@[simp ↓] theorem execChime_kept (unit : Nat) (id : Nat) (s : State) : Keeps s (execChime unit id s) := by
  unfold execChime
  with_reducible apply onUnit_kept
  intros
  try dsimp only
  (repeat' split) <;> simp

@[simp ↓] theorem execStageDiscard_kept (unit : Nat) (id : Nat) (s : State) : Keeps s (execStageDiscard unit id s) :=
  by simp [execStageDiscard]

@[simp ↓] theorem execChimeApply_kept (unit : Nat) (s : State) : Keeps s (execChimeApply unit s) :=
  by simp [execChimeApply]

@[simp ↓] theorem execRecordExpire_kept (unit : Nat) (id : Nat) (s : State) : Keeps s (execRecordExpire unit id s) := by
  unfold execRecordExpire
  with_reducible apply onUnit_kept
  intros
  try dsimp only
  (repeat' split) <;> simp

end Sys2Proof.Machine
end

