-- ==== Sys2Proof/Laws/KeptGardens.lean ====
section
/-! SUPPORT. Commands and operations that leave the slow tier's bytes and the queue of waiting commands as they are: gardens, checkpoints, recovery, peers and power. -/

namespace Sys2Proof.Machine

/-! ### Machine/JobOps.lean -/

@[simp ↓] theorem State.dropJob_kept (s : State) (j : Job) : (State.dropJob s j).kept = s.kept :=
  by simp [State.dropJob]

@[simp ↓] theorem State.putJob_kept (s : State) (j : Job) : (State.putJob s j).kept = s.kept :=
  by simp [State.putJob]

@[simp ↓] theorem State.answerJob_kept (s : State) (j : Job) (body : List Byte) : (State.answerJob s j body).kept = s.kept := by
  unfold State.answerJob
  (repeat' split) <;> simp

@[simp ↓] theorem State.endJob_kept (s : State) (j : Job) (body : List Byte) : (State.endJob s j body).kept = s.kept :=
  by simp [State.endJob]

@[simp ↓] theorem State.failJob_kept (s : State) (j : Job) (reason : Nat) (d : Detail) : (State.failJob s j reason d).kept = s.kept := by
  unfold State.failJob
  (repeat' split) <;> simp

@[simp ↓] theorem State.nextPhase_kept (s : State) (j : Job) (phase : Nat) (cs : List Change) : (State.nextPhase s j phase cs).kept = s.kept :=
  by simp [State.nextPhase]

@[simp ↓] theorem State.broadcast_kept (s : State) (j : Job) : (State.broadcast s j).kept = s.kept :=
  by simp [State.broadcast]

@[simp ↓] theorem State.closeStage_kept (s : State) (g : Stage) : (State.closeStage s g).kept = s.kept :=
  by simp [State.closeStage]

@[simp ↓] theorem State.armPeers_kept (s : State) (g : Nat) (ports : List Nat) : (State.armPeers s g ports).kept = s.kept :=
  by simp [State.armPeers]

@[simp ↓] theorem State.markPeers_kept (s : State) (g : Nat) (ports : List Nat) : (State.markPeers s g ports).kept = s.kept :=
  by simp [State.markPeers]

@[simp ↓] theorem State.startDrain_kept (s : State) (g : Nat) (pavs : List Nat) (ports : List Nat) : (State.startDrain s g pavs ports).kept = s.kept :=
  by simp [State.startDrain]

@[simp ↓] theorem State.endDrain_kept (s : State) (g : Nat) (pavs : List Nat) : (State.endDrain s g pavs).kept = s.kept :=
  by simp [State.endDrain]

@[simp ↓] theorem State.letGo_kept (s : State) (g : Nat) (pavs : List Nat) : (State.letGo s g pavs).kept = s.kept :=
  by simp [State.letGo]

@[simp ↓] theorem State.setGState_kept (s : State) (g : Nat) (v : Nat) : (State.setGState s g v).kept = s.kept :=
  by simp [State.setGState]

@[simp ↓] theorem State.recountDown_kept (s : State) (f : List Counted → List Counted) : (State.recountDown s f).kept = s.kept := by
  unfold State.recountDown
  (try dsimp only)
  (repeat' split) <;> simp

@[simp ↓] theorem State.pauseDown_kept (s : State) (g : Nat) : (State.pauseDown s g).kept = s.kept := by
  unfold State.pauseDown
  (try dsimp only)
  (repeat' split) <;> simp

@[simp ↓] theorem State.resumeDown_kept (s : State) (g : Nat) : (State.resumeDown s g).kept = s.kept := by
  unfold State.resumeDown
  (try dsimp only)
  (repeat' split) <;> simp

@[simp ↓] theorem State.chargeHang_kept (s : State) (g : Nat) : (State.chargeHang s g).kept = s.kept := by
  unfold State.chargeHang
  (try dsimp only)
  (repeat' split) <;> simp

@[simp ↓] theorem State.standHang_kept (s : State) (g : Nat) : (State.standHang s g).kept = s.kept := by
  unfold State.standHang
  (try dsimp only)
  (repeat' split) <;> simp

@[simp ↓] theorem State.endDown_kept (s : State) (g : Nat) (action : Nat) (counted : Bool) : (State.endDown s g action counted).kept = s.kept :=
  by simp [State.endDown]

@[simp ↓] theorem State.chainEvent_kept (s : State) (g : Nat) (code : Nat) (hash : List Byte) : (State.chainEvent s g code hash).kept = s.kept :=
  by simp [State.chainEvent]

@[simp ↓] theorem State.setShort_kept (s : State) (g : Nat) (short : Bool) : (State.setShort s g short).kept = s.kept := by
  unfold State.setShort
  (try dsimp only)
  (repeat' split) <;> simp

@[simp ↓] theorem State.checkShort_kept (s : State) (g : Nat) : (State.checkShort s g).kept = s.kept := by
  unfold State.checkShort
  try dsimp only
  (repeat' split) <;> simp


/-! ### Machine/PlaceOps.lean -/

@[simp ↓] theorem State.stageTables_kept (s : State) (g : Nat) (pavs : List Nat) (trees : List Tree) (place : FMap Nat) : (State.stageTables s g pavs trees place).kept = s.kept :=
  by simp [State.stageTables]


/-! ### Machine/EngineOps.lean -/

@[simp ↓] theorem State.eachOra_kept (s : State) (f : Nat → Ora → Ora) : (State.eachOra s f).kept = s.kept :=
  by simp [State.eachOra]

@[simp ↓] theorem State.writePlan_kept (s : State) (g : Nat) (p : Plan) : (State.writePlan s g p).kept = s.kept :=
  by simp [State.writePlan]

@[simp ↓] theorem State.clearPlan_kept (s : State) (g : Nat) : (State.clearPlan s g).kept = s.kept :=
  by simp [State.clearPlan]

@[simp ↓] theorem State.armAll_kept (s : State) (g : Nat) : (State.armAll s g).kept = s.kept :=
  by simp [State.armAll]

@[simp ↓] theorem State.disarmAll_kept (s : State) (g : Nat) : (State.disarmAll s g).kept = s.kept :=
  by simp [State.disarmAll]

@[simp ↓] theorem State.discardAll_kept (s : State) (g : Nat) : (State.discardAll s g).kept = s.kept :=
  by simp [State.discardAll]

@[simp ↓] theorem State.combineRho_kept (s : State) (g : Nat) : (State.combineRho s g).kept = s.kept := by
  unfold State.combineRho
  (repeat' split) <;> simp


/-! ### Machine/Gardens.lean -/

@[simp ↓] theorem State.stageProt_kept (s : State) (g : Nat) (pavs : List Nat) (new : Protection) : (State.stageProt s g pavs new).kept = s.kept :=
  by simp [State.stageProt]

@[simp ↓] theorem State.releaseWindows_kept (s : State) (gone : List Window) (still : List Window) : (State.releaseWindows s gone still).kept = s.kept :=
  by simp [State.releaseWindows]

@[simp ↓] theorem State.gardenCreate_kept (s : State) (a : Accepted) : (State.gardenCreate s a).kept = s.kept := by
  unfold State.gardenCreate
  try dsimp only
  (repeat' split) <;> simp

@[simp ↓] theorem execGardenCreate_kept (ch : Nat) (s : State) : Keeps s (execGardenCreate ch s) :=
  by simp [execGardenCreate]

@[simp ↓] theorem State.createPoll_kept (s : State) (j : Job) : (State.createPoll s j).kept = s.kept :=
  by simp [State.createPoll]

@[simp ↓] theorem State.createChimed_kept (s : State) (j : Job) : (State.createChimed s j).kept = s.kept :=
  by simp [State.createChimed]

@[simp ↓] theorem State.beginLoad_kept (s : State) (a : Accepted) (i : Image) (pl : Placement) (ts : List Tree) (cl : List Clamp) : (State.beginLoad s a i pl ts cl).kept = s.kept :=
  by simp [State.beginLoad]

@[simp ↓] theorem State.gardenLoad_kept (s : State) (a : Accepted) : (State.gardenLoad s a).kept = s.kept := by
  unfold State.gardenLoad
  try dsimp only
  (repeat' split) <;> simp

@[simp ↓] theorem execGardenLoad_kept (ch : Nat) (s : State) : Keeps s (execGardenLoad ch s) :=
  by simp [execGardenLoad]

@[simp ↓] theorem State.writeShares_kept (s : State) (j : Job) (i : Image) : (State.writeShares s j i).kept = s.kept := by
  unfold State.writeShares
  (try dsimp only)
  (repeat' split) <;> simp

@[simp ↓] theorem State.planBack_kept (s : State) (g : Nat) (sv : Saved) : (State.planBack s g sv).kept = s.kept := by
  unfold State.planBack
  (try dsimp only)
  (repeat' split) <;> simp

@[simp ↓] theorem State.loadUndo_kept (s : State) (g : Nat) : (State.loadUndo s g).kept = s.kept :=
  by simp [State.loadUndo]

@[simp ↓] theorem State.stageLoad_kept (s : State) (j : Job) : (State.stageLoad s j).kept = s.kept :=
  by simp [State.stageLoad]

@[simp ↓] theorem State.drainLoad_kept (s : State) (j : Job) : (State.drainLoad s j).kept = s.kept :=
  by simp [State.drainLoad]

@[simp ↓] theorem State.armLoad_kept (s : State) (j : Job) : (State.armLoad s j).kept = s.kept := by
  unfold State.armLoad
  (try dsimp only)
  (repeat' split) <;> simp

@[simp ↓] theorem State.loadPoll_kept (s : State) (j : Job) : (State.loadPoll s j).kept = s.kept := by
  unfold State.loadPoll
  try dsimp only
  (repeat' split) <;> simp

@[simp ↓] theorem State.loadChimed_kept (s : State) (j : Job) : (State.loadChimed s j).kept = s.kept := by
  unfold State.loadChimed
  (repeat' split) <;> simp

@[simp ↓] theorem State.writeMapped_kept (s : State) (cores : List Nat) (off : Nat) (w : Word) : (State.writeMapped s cores off w).kept = s.kept :=
  by simp [State.writeMapped]

@[simp ↓] theorem State.gardenStart_kept (s : State) (a : Accepted) : (State.gardenStart s a).kept = s.kept :=
  by simp [State.gardenStart]

@[simp ↓] theorem execGardenStart_kept (ch : Nat) (s : State) : Keeps s (execGardenStart ch s) :=
  by simp [execGardenStart]

@[simp ↓] theorem State.freshRun_kept (s : State) (g : Nat) (runs : Nat) : (State.freshRun s g runs).kept = s.kept :=
  by simp [State.freshRun]

@[simp ↓] theorem State.startChimed_kept (s : State) (j : Job) : (State.startChimed s j).kept = s.kept :=
  by simp [State.startChimed]

@[simp ↓] theorem State.gardenStop_kept (s : State) (a : Accepted) : (State.gardenStop s a).kept = s.kept :=
  by simp [State.gardenStop]

@[simp ↓] theorem execGardenStop_kept (ch : Nat) (s : State) : Keeps s (execGardenStop ch s) :=
  by simp [execGardenStop]

@[simp ↓] theorem State.endRun_kept (s : State) (g : Nat) : (State.endRun s g).kept = s.kept :=
  by simp [State.endRun]

@[simp ↓] theorem State.stopChimed_kept (s : State) (j : Job) : (State.stopChimed s j).kept = s.kept :=
  by simp [State.stopChimed]

@[simp ↓] theorem State.dropImages_kept (s : State) (g : Nat) : (State.dropImages s g).kept = s.kept := by
  unfold State.dropImages
  (repeat' split) <;> simp

@[simp ↓] theorem State.gardenRelease_kept (s : State) (a : Accepted) : (State.gardenRelease s a).kept = s.kept :=
  by simp [State.gardenRelease]

@[simp ↓] theorem execGardenRelease_kept (ch : Nat) (s : State) : Keeps s (execGardenRelease ch s) :=
  by simp [execGardenRelease]

@[simp ↓] theorem State.abandonWaiting_kept (s : State) (g : Nat) : (State.abandonWaiting s g).kept = s.kept :=
  by simp [State.abandonWaiting]

@[simp ↓] theorem State.releasePoll_kept (s : State) (j : Job) : (State.releasePoll s j).kept = s.kept := by
  unfold State.releasePoll
  (repeat' split) <;> simp

@[simp ↓] theorem State.releaseChimed_kept (s : State) (j : Job) : (State.releaseChimed s j).kept = s.kept := by
  unfold State.releaseChimed
  (repeat' split) <;> simp

@[simp ↓] theorem State.protectSet_kept (s : State) (a : Accepted) : (State.protectSet s a).kept = s.kept := by
  unfold State.protectSet
  try dsimp only
  (repeat' split) <;> simp

@[simp ↓] theorem execProtectSet_kept (ch : Nat) (s : State) : Keeps s (execProtectSet ch s) :=
  by simp [execProtectSet]

@[simp ↓] theorem State.protectStage_kept (s : State) (j : Job) : (State.protectStage s j).kept = s.kept :=
  by simp [State.protectStage]

@[simp ↓] theorem State.protectPoll_kept (s : State) (j : Job) : (State.protectPoll s j).kept = s.kept := by
  unfold State.protectPoll
  (repeat' split) <;> simp

@[simp ↓] theorem State.protectChimed_kept (s : State) (j : Job) : (State.protectChimed s j).kept = s.kept :=
  by simp [State.protectChimed]


/-! ### Machine/Steps.lean -/

@[simp ↓] theorem execGardenStatus_kept (ch : Nat) (s : State) : Keeps s (execGardenStatus ch s) :=
  by simp [execGardenStatus]

@[simp ↓] theorem State.markWardens_kept (s : State) (g : Nat) : (State.markWardens s g).kept = s.kept :=
  by simp [State.markWardens]

@[simp ↓] theorem State.clearMarks_kept (s : State) (g : Nat) : (State.clearMarks s g).kept = s.kept :=
  by simp [State.clearMarks]

@[simp ↓] theorem State.answerSeal_kept (s : State) (j : Job) (status : Nat) (reason : Nat) : (State.answerSeal s j status reason).kept = s.kept := by
  unfold State.answerSeal
  (repeat' split) <;> simp

@[simp ↓] theorem State.sealed_kept (s : State) (j : Job) : (State.sealed s j).kept = s.kept :=
  by simp [State.sealed]

@[simp ↓] theorem State.sealPoll_kept (s : State) (j : Job) : (State.sealPoll s j).kept = s.kept := by
  unfold State.sealPoll
  (repeat' split) <;> simp

@[simp ↓] theorem State.sealStep_kept (s : State) (a : Accepted) : (State.sealStep s a).kept = s.kept := by
  unfold State.sealStep
  try dsimp only
  (repeat' split) <;> simp

@[simp ↓] theorem execSealStep_kept (ch : Nat) (s : State) : Keeps s (execSealStep ch s) :=
  by simp [execSealStep]

@[simp ↓] theorem State.updatePlan_kept (s : State) (a : Accepted) : (State.updatePlan s a).kept = s.kept := by
  unfold State.updatePlan
  try dsimp only
  (repeat' split) <;> simp

@[simp ↓] theorem execUpdatePlan_kept (ch : Nat) (s : State) : Keeps s (execUpdatePlan ch s) :=
  by simp [execUpdatePlan]

@[simp ↓] theorem State.setPlan_kept (s : State) (g : Nat) (p : Option Plan) : (State.setPlan s g p).kept = s.kept :=
  by simp [State.setPlan]

@[simp ↓] theorem State.planArm_kept (s : State) (j : Job) : (State.planArm s j).kept = s.kept := by
  unfold State.planArm
  (try dsimp only)
  (repeat' split) <;> simp

@[simp ↓] theorem State.planPoll_kept (s : State) (j : Job) : (State.planPoll s j).kept = s.kept := by
  unfold State.planPoll
  try dsimp only
  (repeat' split) <;> simp

@[simp ↓] theorem State.memFill_kept (s : State) (a : Accepted) : (State.memFill s a).kept = s.kept := by
  unfold State.memFill
  try dsimp only
  (repeat' split) <;> simp

@[simp ↓] theorem execMemFill_kept (ch : Nat) (s : State) : Keeps s (execMemFill ch s) :=
  by simp [execMemFill]


/-! ### Machine/Icehouse.lean -/

@[simp ↓] theorem State.touchRanges_kept (s : State) (g : Nat) (rs : List (Nat × Nat)) : (State.touchRanges s g rs).kept = s.kept := by
  unfold State.touchRanges
  (try simp)
  (repeat' (first | (split <;> (try simp)) | (with_reducible refine kept_foldl' _ _ _ _ ?_ ?_) | (intro _; (try simp)) | (simp_all; done)))

@[simp ↓] theorem State.iceNext_kept (s : State) : (State.iceNext s).kept = s.kept := by
  unfold State.iceNext
  (repeat' split) <;> simp

@[simp ↓] theorem State.beginIce_kept (s : State) (a : Accepted) (j : Job) : (State.beginIce s a j).kept = s.kept := by
  unfold State.beginIce
  (repeat' split) <;> simp

@[simp ↓] theorem State.putImage_kept (s : State) (c : Checkpoint) : (State.putImage s c).kept = s.kept :=
  by simp [State.putImage]

@[simp ↓] theorem State.dropImage_kept (s : State) (id : Nat) : (State.dropImage s id).kept = s.kept :=
  by simp [State.dropImage]

@[simp ↓] theorem State.restartPatrols_kept (s : State) (g : Nat) : (State.restartPatrols s g).kept = s.kept :=
  by simp [State.restartPatrols]

@[simp ↓] theorem State.capture_kept (s : State) (id : Nat) (g : Nat) : (State.capture s id g).kept = s.kept := by
  unfold State.capture
  (repeat' split) <;> simp

@[simp ↓] theorem State.newImage_kept (s : State) (g : Nat) : (State.newImage s g).2.kept = s.kept :=
  by simp [State.newImage]

@[simp ↓] theorem State.captureNow_kept (s : State) (id : Nat) (g : Nat) : (State.captureNow s id g).kept = s.kept :=
  by simp [State.captureNow]

@[simp ↓] theorem State.checkpointTake_kept (s : State) (a : Accepted) : (State.checkpointTake s a).kept = s.kept :=
  by simp [State.checkpointTake]

@[simp ↓] theorem execCheckpointTake_kept (ch : Nat) (s : State) : Keeps s (execCheckpointTake ch s) :=
  by simp [execCheckpointTake]

@[simp ↓] theorem execCheckpointCapture_kept (garden : Nat) (s : State) : Keeps s (execCheckpointCapture garden s) := by
  unfold execCheckpointCapture
  with_reducible apply onGarden_kept
  intros
  try dsimp only
  (repeat' split) <;> simp

@[simp ↓] theorem State.vouch_kept (s : State) : (State.vouch s).kept = s.kept :=
  by simp [State.vouch]

@[simp ↓] theorem State.failTake_kept (s : State) (j : Job) : (State.failTake s j).kept = s.kept :=
  by simp [State.failTake]

@[simp ↓] theorem execCheckpointList_kept (ch : Nat) (s : State) : Keeps s (execCheckpointList ch s) :=
  by simp [execCheckpointList]

@[simp ↓] theorem State.checkpointDrop_kept (s : State) (a : Accepted) : (State.checkpointDrop s a).kept = s.kept := by
  unfold State.checkpointDrop
  try dsimp only
  (repeat' split) <;> simp

@[simp ↓] theorem execCheckpointDrop_kept (ch : Nat) (s : State) : Keeps s (execCheckpointDrop ch s) :=
  by simp [execCheckpointDrop]

@[simp ↓] theorem execIcehouseStatus_kept (ch : Nat) (s : State) : Keeps s (execIcehouseStatus ch s) :=
  by simp [execIcehouseStatus]

@[simp ↓] theorem State.checkpointRestore_kept (s : State) (a : Accepted) : (State.checkpointRestore s a).kept = s.kept := by
  unfold State.checkpointRestore
  (repeat' split) <;> simp

@[simp ↓] theorem execCheckpointRestore_kept (ch : Nat) (s : State) : Keeps s (execCheckpointRestore ch s) :=
  by simp [execCheckpointRestore]

@[simp ↓] theorem execAutoCheckpoint_kept (garden : Nat) (s : State) : Keeps s (execAutoCheckpoint garden s) :=
  by simp [execAutoCheckpoint]

@[simp ↓] theorem State.iceIncident_kept (s : State) : (State.iceIncident s).kept = s.kept :=
  by simp [State.iceIncident]

@[simp ↓] theorem State.eraseBlocks_kept (s : State) (n : Nat) : (State.eraseBlocks s n).kept = s.kept :=
  by simp [State.eraseBlocks]

@[simp ↓] theorem execTakeComplete_kept (garden : Nat) (s : State) : Keeps s (execTakeComplete garden s) := by
  unfold execTakeComplete
  with_reducible apply onGarden_kept
  intro s
  split
  · rfl
  split
  · simp
  next c _ =>
  split
  · rfl
  split
  · simp
  · extract_lets +onlyGivenNames place scratch c1 c2 s1 s2 s3
    have h1 : s1.kept = s.kept := by simp [s1]
    have h2 : s2.kept = s.kept := kept_foldl' _ _ _ _ h1 fun s a => by simp
    have h3 : s3.kept = s.kept := by simp [s3, h2]
    simp [h3]

@[simp ↓] theorem State.loseStripe_kept (s : State) (area : StripeArea) : (State.loseStripe s area).kept = s.kept := by
  unfold State.loseStripe
  try dsimp only
  (repeat' split) <;> simp

@[simp ↓] theorem State.readStripe_kept (s : State) (r : StripeReading) : (State.readStripe s r).kept = s.kept :=
  by simp [State.readStripe]

@[simp ↓] theorem execRefreshRead_kept (readings : List StripeReading) (s : State) : Keeps s (execRefreshRead readings s) :=
  by simp [execRefreshRead]

@[simp ↓] theorem execRetentionRewrite_kept (block : Nat) (s : State) : Keeps s (execRetentionRewrite block s) :=
  by simp [execRetentionRewrite]

@[simp ↓] theorem execPowerOnScan_kept (readings : List StripeReading) (s : State) : Keeps s (execPowerOnScan readings s) := by
  unfold execPowerOnScan
  (try dsimp only)
  (repeat' split) <;> simp

@[simp ↓] theorem execProgramFail_kept (block : Nat) (s : State) : Keeps s (execProgramFail block s) :=
  by simp [execProgramFail]

@[simp ↓] theorem execDieLost_kept (die : Nat) (s : State) : Keeps s (execDieLost die s) :=
  by simp [execDieLost]

@[simp ↓] theorem execNandRetrain_kept (die : Nat) (temp : Int) (s : State) : Keeps s (execNandRetrain die temp s) :=
  by simp [execNandRetrain]


/-! ### Machine/Recovery.lean -/

@[simp ↓] theorem State.suspectEvent_kept (s : State) (c : Nat) : (State.suspectEvent s c).kept = s.kept :=
  by simp [State.suspectEvent]

@[simp ↓] theorem State.wantMove_kept (s : State) (g : Nat) (ls : List Nat) (fromImage : Bool) : (State.wantMove s g ls fromImage).kept = s.kept :=
  by simp [State.wantMove]

@[simp ↓] theorem State.resetIdle_kept (s : State) (c : Nat) : (State.resetIdle s c).kept = s.kept := by
  unfold State.resetIdle
  (try dsimp only)
  (repeat' split) <;> simp

@[simp ↓] theorem State.retire_kept (s : State) (c : Nat) (cause : Nat) : (State.retire s c cause).kept = s.kept := by
  unfold State.retire
  try dsimp only
  (repeat' split) <;> simp

@[simp ↓] theorem State.setVoff_kept (s : State) (p : Nat) : (State.setVoff s p).kept = s.kept :=
  by simp [State.setVoff]

@[simp ↓] theorem State.climbTo_kept (s : State) (c rung : Nat) : (State.climbTo s c rung).kept = s.kept := by
  unfold State.climbTo
  (try dsimp only)
  (repeat' split) <;> simp

@[simp ↓] theorem State.climb_kept (s : State) (c : Nat) : (State.climb s c).kept = s.kept := by
  unfold State.climb
  try dsimp only
  (repeat' split) <;> simp

@[simp ↓] theorem State.climbAll_kept (s : State) : (State.climbAll s).kept = s.kept :=
  by simp [State.climbAll]

@[simp ↓] theorem State.repairLine_kept (s : State) (c : Nat) (key : Nat) : (State.repairLine s c key).kept = s.kept :=
  by simp [State.repairLine]

@[simp ↓] theorem State.repairLines_kept (s : State) : (State.repairLines s).kept = s.kept :=
  by simp [State.repairLines]

@[simp ↓] theorem State.poisonLetter_kept (s : State) (ctx : Word) (ch : Nat) : (State.poisonLetter s ctx ch).kept = s.kept := by
  unfold State.poisonLetter
  try dsimp only
  (repeat' split) <;> simp

@[simp ↓] theorem State.poisonIncident_kept (s : State) (g : Nat) (ctx : Word) : (State.poisonIncident s g ctx).kept = s.kept :=
  by simp [State.poisonIncident]

@[simp ↓] theorem State.endHang_kept (s : State) (g : Nat) : (State.endHang s g).kept = s.kept :=
  by simp [State.endHang]

@[simp ↓] theorem State.poisonStep_kept (s : State) (g : Nat) (reset : Bool) : (State.poisonStep s g reset).kept = s.kept := by
  unfold State.poisonStep
  (try dsimp only)
  (repeat' split) <;> simp

@[simp ↓] theorem State.poisonChimed_kept (s : State) (j : Job) : (State.poisonChimed s j).kept = s.kept :=
  by simp [State.poisonChimed]

@[simp ↓] theorem State.poisonOther_kept (s : State) (g : Nat) (ctx : Word) : (State.poisonOther s g ctx).kept = s.kept := by
  unfold State.poisonOther
  try dsimp only
  (repeat' split) <;> simp

@[simp ↓] theorem State.judgeRun_kept (s : State) (g : Nat) : (State.judgeRun s g).kept = s.kept := by
  unfold State.judgeRun
  (try simp)
  (repeat' (first | (split <;> (try simp)) | (with_reducible refine kept_foldl' _ _ _ _ ?_ ?_) | (intro _; (try simp)) | (simp_all; done)))

@[simp ↓] theorem State.causeOf_kept (s : State) (reason : Nat) : (State.causeOf s reason).2.kept = s.kept := by
  unfold State.causeOf
  try dsimp only
  (repeat' split) <;> simp

@[simp ↓] theorem State.beginReset_kept (s : State) (g : Nat) (j : Job) : (State.beginReset s g j).kept = s.kept :=
  by simp [State.beginReset]

theorem State.chooseNow_kept (s : State) (j : Job) : ∀ x, s.chooseNow j = some x → x.2.kept = s.kept := by
  intro x h
  unfold State.chooseNow at h
  simp only [Option.map_eq_some_iff] at h
  obtain ⟨r, _, rfl⟩ := h
  dsimp only
  (repeat' split) <;> simp

@[simp ↓] theorem State.beginDown_kept (s : State) (g : Nat) (from_ : Nat) (hang : Bool) : (State.beginDown s g from_ hang).kept = s.kept := by
  unfold State.beginDown
  (try dsimp only)
  (repeat' split) <;> simp

@[simp ↓] theorem State.beginRelief_kept (s : State) (g : Nat) (j : Job) : (State.beginRelief s g j).kept = s.kept := by
  unfold State.beginRelief
  extract_lets j x
  have h : x.2.kept = s.kept := by
    simp only [x]
    cases hc : s.chooseNow j with
    | none => rfl
    | some y => exact State.chooseNow_kept s j y hc
  simp [h]

@[simp ↓] theorem State.beginRecovery_kept (s : State) (g cause strength : Nat) : (State.beginRecovery s g cause strength).kept = s.kept := by
  unfold State.beginRecovery
  (try dsimp only)
  (repeat' split) <;> simp

@[simp ↓] theorem State.unseal_kept (s : State) (g : Nat) : (State.unseal s g).kept = s.kept := by
  unfold State.unseal
  (repeat' split) <;> simp

@[simp ↓] theorem State.resetChimed_kept (s : State) (j : Job) : (State.resetChimed s j).kept = s.kept :=
  by simp [State.resetChimed]

@[simp ↓] theorem State.setActive_kept (s : State) (g : Nat) (v : Nat) : (State.setActive s g v).kept = s.kept :=
  by simp [State.setActive]

@[simp ↓] theorem State.chooseTargets_kept (s : State) (j : Job) : (State.chooseTargets s j).kept = s.kept := by
  unfold State.chooseTargets
  extract_lets +onlyGivenNames g
  cases hc : s.chooseNow j with
  | none => simp
  | some y =>
    obtain ⟨k, t⟩ := y
    have h := State.chooseNow_kept s j (k, t) hc
    dsimp only at h ⊢
    simp [h]

@[simp ↓] theorem State.keepSite_kept (s : State) (g c : Nat) : (State.keepSite s g c).kept = s.kept := by
  unfold State.keepSite
  (try dsimp only)
  (repeat' split) <;> simp

@[simp ↓] theorem State.copySite_kept (s : State) (g : Nat) (l : Nat) (target : Nat) : (State.copySite s g l target).kept = s.kept :=
  by simp [State.copySite]

@[simp ↓] theorem execReliefCopy_kept (garden : Nat) (lcore : Nat) (s : State) : Keeps s (execReliefCopy garden lcore s) := by
  unfold execReliefCopy
  with_reducible apply onGarden_kept
  intros
  try dsimp only
  (repeat' split) <;> simp

@[simp ↓] theorem State.stageRestart_kept (s : State) (j : Job) : (State.stageRestart s j).kept = s.kept := by
  unfold State.stageRestart
  extract_lets +onlyGivenNames g d place cores run s1 extra ps s2 s3 s4 cs
  have h1 : s1.kept = s.kept := by simp only [s1]; split <;> simp
  clear_value s1
  have h2 : s2.kept = s.kept := by simp only [s2]; split <;> simp [h1]
  clear_value s2
  have h3 : s3.kept = s.kept := by simp [s3, h2]
  clear_value s3
  have h4 : s4.kept = s.kept := by simp only [s4]; split <;> simp [h3]
  clear_value s4
  simp [h4]

@[simp ↓] theorem State.recoverPoll_kept (s : State) (j : Job) : (State.recoverPoll s j).kept = s.kept := by
  unfold State.recoverPoll
  (repeat' split) <;> simp

@[simp ↓] theorem State.movedSites_kept (s : State) (g : Nat) (j : Job) (old : FMap Nat) : (State.movedSites s g j old).kept = s.kept :=
  by simp [State.movedSites]

@[simp ↓] theorem State.restartChimed_kept (s : State) (j : Job) : (State.restartChimed s j).kept = s.kept :=
  by simp [State.restartChimed]

@[simp ↓] theorem State.recoverChimed_kept (s : State) (j : Job) : (State.recoverChimed s j).kept = s.kept :=
  by simp [State.recoverChimed]

@[simp ↓] theorem State.gardenReset_kept (s : State) (a : Accepted) : (State.gardenReset s a).kept = s.kept :=
  by simp [State.gardenReset]

@[simp ↓] theorem execGardenReset_kept (ch : Nat) (s : State) : Keeps s (execGardenReset ch s) :=
  by simp [execGardenReset]

@[simp ↓] theorem State.hangFound_kept (s : State) (g : Nat) (p : Probe) : (State.hangFound s g p).kept = s.kept := by
  unfold State.hangFound
  (try dsimp only)
  (repeat' split) <;> simp

@[simp ↓] theorem State.nextSuspect_kept (s : State) (g : Nat) : (State.nextSuspect s g).kept = s.kept := by
  unfold State.nextSuspect
  (repeat' split) <;> simp

@[simp ↓] theorem execHangWatchdog_kept (garden : Nat) (found : Probe) (s : State) : Keeps s (execHangWatchdog garden found s) := by
  unfold execHangWatchdog
  (try dsimp only)
  (repeat' split) <;> simp

@[simp ↓] theorem execAvenueStall_kept (garden ticks : Nat) (found : Probe) (s : State) : Keeps s (execAvenueStall garden ticks found s) := by
  unfold execAvenueStall
  (try dsimp only)
  (repeat' split) <;> simp

@[simp ↓] theorem State.forceRelief_kept (s : State) (c : Nat) (cause : Nat) : (State.forceRelief s c cause).kept = s.kept := by
  unfold State.forceRelief
  try dsimp only
  (repeat' split) <;> simp

@[simp ↓] theorem State.forcedAtSeal_kept (s : State) : (State.forcedAtSeal s).kept = s.kept := by
  unfold State.forcedAtSeal
  (try simp)
  (repeat' (first | (split <;> (try simp)) | (with_reducible refine kept_foldl' _ _ _ _ ?_ ?_) | (intro _; (try simp)) | (simp_all; done)))

@[simp ↓] theorem State.stopCut_kept (s : State) (g : Nat) : (State.stopCut s g).kept = s.kept := by
  unfold State.stopCut
  (try dsimp only)
  (repeat' split) <;> simp

@[simp ↓] theorem State.decideGarden_kept (s : State) (g : Nat) : (State.decideGarden s g).kept = s.kept := by
  unfold State.decideGarden
  try dsimp only
  (repeat' split) <;> simp

@[simp ↓] theorem State.decide_kept (s : State) : (State.decide s).kept = s.kept :=
  by simp [State.decide]


/-! ### Machine/PeerOps.lean -/

@[simp ↓] theorem State.portIncident_kept (s : State) (unit : Nat) (id : Nat) (gs : List Nat) : (State.portIncident s unit id gs).kept = s.kept := by
  unfold State.portIncident
  extract_lets +onlyGivenNames g t
  have h : t.kept = s.kept := by simp only [t, State.report_kept]
  clear_value t
  simp [h]

@[simp ↓] theorem State.portDown_kept (s : State) (port : Nat) : (State.portDown s port).kept = s.kept :=
  by simp [State.portDown]

@[simp ↓] theorem State.hostDown_kept (s : State) (h : Nat) : (State.hostDown s h).kept = s.kept :=
  by simp [State.hostDown]

@[simp ↓] theorem State.lanternDown_kept (s : State) (n : Nat) : (State.lanternDown s n).kept = s.kept :=
  by simp [State.lanternDown]

@[simp ↓] theorem State.setUsable_kept (s : State) (n : Nat) (c : Nat) (b : Bool) : (State.setUsable s n c b).kept = s.kept :=
  by simp [State.setUsable]

@[simp ↓] theorem State.replaceActive_kept (s : State) (n : Nat) : (State.replaceActive s n).kept = s.kept :=
  by simp [State.replaceActive]

@[simp ↓] theorem State.sendPfc_kept (s : State) (port : Nat) (prio : Nat) (pause : Bool) : (State.sendPfc s port prio pause).kept = s.kept :=
  by simp [State.sendPfc]

@[simp ↓] theorem State.peerXoff_kept (s : State) (port : Nat) (prio : Nat) : (State.peerXoff s port prio).kept = s.kept :=
  by simp [State.peerXoff]

@[simp ↓] theorem State.updSend_kept (s : State) (port : Nat) (g : Nat) (ave : Nat) (f : PeerEntry → PeerEntry) : (State.updSend s port g ave f).kept = s.kept :=
  by simp [State.updSend]

@[simp ↓] theorem State.peerSend_kept (s : State) (bridge : Nat) : (State.peerSend s bridge).kept = s.kept := by
  unfold State.peerSend
  try dsimp only
  (repeat' split) <;> simp

@[simp ↓] theorem State.peerCount_kept (s : State) (port : Nat) (f : Fld) : (State.peerCount s port f).kept = s.kept :=
  by simp [State.peerCount]

@[simp ↓] theorem State.askGensync_kept (s : State) (e : PeerEntry) (tag : BitVec 8) : (State.askGensync s e tag).kept = s.kept :=
  by simp [State.askGensync]

@[simp ↓] theorem State.peerBundle_kept (s : State) (port : Nat) (pf : PeerFrame) (b : Bundle) : (State.peerBundle s port pf b).kept = s.kept := by
  unfold State.peerBundle
  (repeat' split) <;> simp

@[simp ↓] theorem State.enterDiscard_kept (s : State) (e : PeerEntry) : (State.enterDiscard s e).kept = s.kept := by
  unfold State.enterDiscard
  try dsimp only
  (repeat' split) <;> simp

@[simp ↓] theorem State.takeGensync_kept (s : State) (port : Nat) (pf : PeerFrame) : (State.takeGensync s port pf).kept = s.kept := by
  unfold State.takeGensync
  (repeat' split) <;> simp

@[simp ↓] theorem State.takeProbe_kept (s : State) (port : Nat) (pf : PeerFrame) (from_ : Word × Nat) : (State.takeProbe s port pf from_).kept = s.kept :=
  by simp [State.takeProbe]

@[simp ↓] theorem State.peerAvenueOpen_kept (s : State) (a : Accepted) : (State.peerAvenueOpen s a).kept = s.kept := by
  unfold State.peerAvenueOpen
  try dsimp only
  (repeat' split) <;> simp

@[simp ↓] theorem State.closePoll_kept (s : State) (j : Job) : (State.closePoll s j).kept = s.kept := by
  unfold State.closePoll
  (repeat' split) <;> simp

@[simp ↓] theorem State.startSwap_kept (s : State) (port : Nat) (spare : Nat) (auto : Bool) : (State.startSwap s port spare auto).kept = s.kept :=
  by simp [State.startSwap]

@[simp ↓] theorem State.stageSwap_kept (s : State) (j : Job) (routes : Option (List Tree)) : (State.stageSwap s j routes).kept = s.kept :=
  by simp [State.stageSwap]

@[simp ↓] theorem State.dropSwap_kept (s : State) (j : Job) (reason : Nat) : (State.dropSwap s j reason).kept = s.kept :=
  by simp [State.dropSwap]

@[simp ↓] theorem State.swapPoll_kept (s : State) (j : Job) : (State.swapPoll s j).kept = s.kept := by
  unfold State.swapPoll
  (repeat' split) <;> simp

@[simp ↓] theorem State.recordSwap_kept (s : State) (unit : Nat) (spare : Nat) : (State.recordSwap s unit spare).kept = s.kept :=
  by simp [State.recordSwap]

@[simp ↓] theorem State.swapChimed_kept (s : State) (j : Job) : (State.swapChimed s j).kept = s.kept :=
  by simp [State.swapChimed]


/-! ### Machine/Power.lean -/

@[simp ↓] theorem State.assertAlert_kept (s : State) (src : Nat) : (State.assertAlert s src).kept = s.kept :=
  by simp [State.assertAlert]

@[simp ↓] theorem State.unitAlert_kept (s : State) (src unit : Nat) (on : Bool) : (State.unitAlert s src unit on).kept = s.kept := by
  unfold State.unitAlert
  (repeat' split) <;> simp

@[simp ↓] theorem execAlertAssert_kept (source unit nanos : Nat) (s : State) : Keeps s (execAlertAssert source unit nanos s) := by
  unfold execAlertAssert
  with_reducible apply onUnit_kept
  intro s
  dsimp only
  (repeat' split) <;> simp

@[simp ↓] theorem execAlertSourceRelease_kept (source unit : Nat) (s : State) : Keeps s (execAlertSourceRelease source unit s) := by
  unfold execAlertSourceRelease
  with_reducible apply onUnit_kept
  intro s
  dsimp only
  (repeat' split) <;> simp

@[simp ↓] theorem State.endAlertHold_kept (s : State) : (State.endAlertHold s).kept = s.kept := by
  unfold State.endAlertHold
  (try dsimp only)
  (repeat' split) <;> simp

@[simp ↓] theorem execCapHalving_kept (s : State) : Keeps s (execCapHalving s) :=
  by simp [execCapHalving]

@[simp ↓] theorem State.stageCapIndex_kept (s : State) (idx : Nat) : (State.stageCapIndex s idx).kept = s.kept :=
  by simp [State.stageCapIndex]

@[simp ↓] theorem execCapLoop_kept (mean : Nat) (s : State) : Keeps s (execCapLoop mean s) := by
  unfold execCapLoop
  try dsimp only
  (repeat' split) <;> simp

@[simp ↓] theorem execFastLimiter_kept (watts micros : Nat) (s : State) : Keeps s (execFastLimiter watts micros s) := by
  unfold execFastLimiter
  (try dsimp only)
  (repeat' split) <;> simp

@[simp ↓] theorem execConverterFail_kept (conv : Nat) (s : State) : Keeps s (execConverterFail conv s) :=
  by simp [execConverterFail]

@[simp ↓] theorem busbar_kept (mv : Int) (s : State) (f : State → State) (hf : ∀ s, (f s).kept = s.kept) : Keeps s (busbar mv s f) :=
  by simp [busbar, hf]

@[simp ↓] theorem execBusbarUndervoltage_kept (mv : Int) (micros : Nat) (s : State) : Keeps s (execBusbarUndervoltage mv micros s) := by
  unfold execBusbarUndervoltage
  (try dsimp only)
  (repeat' split) <;> simp

@[simp ↓] theorem execBusbarHigh_kept (mv : Int) (s : State) : Keeps s (execBusbarHigh mv s) :=
  by simp [execBusbarHigh]

@[simp ↓] theorem execPhaseFault_kept (pav : Nat) (phase : Nat) (s : State) : Keeps s (execPhaseFault pav phase s) :=
  by simp [execPhaseFault]

@[simp ↓] theorem State.pavLost_kept (s : State) (p : Nat) (strength : Nat) : (State.pavLost s p strength).kept = s.kept := by
  unfold State.pavLost
  try dsimp only
  (repeat' split) <;> simp

@[simp ↓] theorem execPlotShort_kept (plot : Nat) (s : State) : Keeps s (execPlotShort plot s) :=
  by simp [execPlotShort]

@[simp ↓] theorem execThoroughfareRegulatorFault_kept (pav : Nat) (s : State) : Keeps s (execThoroughfareRegulatorFault pav s) :=
  by simp [execThoroughfareRegulatorFault]

@[simp ↓] theorem State.startPowerOn_kept (s : State) (p : Nat) : (State.startPowerOn s p).kept = s.kept :=
  by simp [State.startPowerOn]

@[simp ↓] theorem execDomainPowerOn_kept (pav : Nat) (s : State) : Keeps s (execDomainPowerOn pav s) :=
  by simp [execDomainPowerOn]

@[simp ↓] theorem execCoreSwitchOn_kept (pav : Nat) (amps : Nat) (s : State) : Keeps s (execCoreSwitchOn pav amps s) :=
  by simp [execCoreSwitchOn]

@[simp ↓] theorem execHalfSlope_kept (pav micros : Nat) (s : State) : Keeps s (execHalfSlope pav micros s) := by
  unfold execHalfSlope
  (try dsimp only)
  (repeat' split) <;> simp

@[simp ↓] theorem execDomainOnComplete_kept (pav : Nat) (s : State) : Keeps s (execDomainOnComplete pav s) :=
  by simp [execDomainOnComplete]

@[simp ↓] theorem execDomainSwitchOff_kept (pav : Nat) (s : State) : Keeps s (execDomainSwitchOff pav s) :=
  by simp [execDomainSwitchOff]

@[simp ↓] theorem execSwitchOffComplete_kept (pav : Nat) (s : State) : Keeps s (execSwitchOffComplete pav s) :=
  by simp [execSwitchOffComplete]

@[simp ↓] theorem execOutputWithinVset_kept (pav : Nat) (s : State) : Keeps s (execOutputWithinVset pav s) := by
  unfold execOutputWithinVset
  with_reducible apply onPav_kept
  intros
  try dsimp only
  (repeat' split) <;> simp

@[simp ↓] theorem State.hottest_kept (s : State) : (State.hottest s).kept = s.kept := by
  unfold State.hottest
  (repeat' split) <;> simp

@[simp ↓] theorem State.computeHeat_kept (s : State) (p : Nat) (t : Int) : (State.computeHeat s p t).kept = s.kept :=
  by simp [State.computeHeat]

@[simp ↓] theorem State.sample_kept (s : State) (x0 : Sample) : (State.sample s x0).kept = s.kept := by
  unfold State.sample
  (repeat' split) <;> simp

@[simp ↓] theorem execSensorSample_kept (sample : Sample) (s : State) : Keeps s (execSensorSample sample s) :=
  by simp [execSensorSample]

@[simp ↓] theorem execHeatContributionRise_kept (pav : Nat) (s : State) : Keeps s (execHeatContributionRise pav s) :=
  by simp [execHeatContributionRise]

@[simp ↓] theorem execHeatContributionFall_kept (pav : Nat) (s : State) : Keeps s (execHeatContributionFall pav s) :=
  by simp [execHeatContributionFall]

@[simp ↓] theorem execMr4Read_kept (ora : Nat) (temps : List Int) (s : State) : Keeps s (execMr4Read ora temps s) :=
  by simp [execMr4Read]

end Sys2Proof.Machine
end

