-- ==== Sys2Proof/Laws/KeptRest.lean ====
section
/-! SUPPORT. Commands and operations that leave the slow tier's bytes and the queue of waiting commands as they are: letters, trust, starts, the engines of a core and the rounds. -/

namespace Sys2Proof.Machine

/-! ### Machine/ConfigOps.lean -/

@[simp ↓] theorem State.configStage_kept (s : State) (a : Accepted) : (State.configStage s a).kept = s.kept := by
  unfold State.configStage
  try dsimp only
  (repeat' split) <;> simp

@[simp ↓] theorem State.configRead_kept (s : State) (a : Accepted) : (State.configRead s a).kept = s.kept :=
  by simp [State.configRead]

@[simp ↓] theorem State.chimeSet_kept (s : State) (a : Accepted) : (State.chimeSet s a).kept = s.kept :=
  by simp [State.chimeSet]

@[simp ↓] theorem State.configChimed_kept (s : State) (j : Job) : (State.configChimed s j).kept = s.kept :=
  by simp [State.configChimed]

@[simp ↓] theorem State.powerCapSet_kept (s : State) (a : Accepted) : (State.powerCapSet s a).kept = s.kept :=
  by simp [State.powerCapSet]


/-! ### Machine/Letters.lean -/

@[simp ↓] theorem State.randomBytes_kept (s : State) (n : Nat) : (State.randomBytes s n).2.kept = s.kept :=
  by simp [State.randomBytes]

@[simp ↓] theorem State.openSession_kept (s : State) (a : Accepted) : (State.openSession s a).kept = s.kept := by
  unfold State.openSession
  try dsimp only
  (repeat' split) <;> simp

@[simp ↓] theorem execOpenSession_kept (ch : Nat) (s : State) : Keeps s (execOpenSession ch s) :=
  by simp [execOpenSession]

@[simp ↓] theorem execCloseSession_kept (ch : Nat) (s : State) : Keeps s (execCloseSession ch s) :=
  by simp [execCloseSession]

@[simp ↓] theorem execPing_kept (ch : Nat) (s : State) : Keeps s (execPing ch s) :=
  by simp [execPing]

@[simp ↓] theorem execRekey_kept (ch : Nat) (s : State) : Keeps s (execRekey ch s) := by
  unfold execRekey
  with_reducible apply onLetter_kept
  intros
  try dsimp only
  (repeat' split) <;> simp

@[simp ↓] theorem execSessionList_kept (ch : Nat) (s : State) : Keeps s (execSessionList ch s) :=
  by simp [execSessionList]

@[simp ↓] theorem execSessionBind_kept (ch : Nat) (s : State) : Keeps s (execSessionBind ch s) := by
  unfold execSessionBind
  with_reducible apply onLetter_kept
  intros
  try dsimp only
  (repeat' split) <;> simp

@[simp ↓] theorem State.peekReg_kept (s : State) (ch : Nat) (addr : Nat) : (State.peekReg s ch addr).2.kept = s.kept := by
  unfold State.peekReg
  (repeat' split) <;> simp

@[simp ↓] theorem execRegRead_kept (ch : Nat) (s : State) : Keeps s (execRegRead ch s) := by
  unfold execRegRead
  with_reducible apply onLetter_kept
  intro a s
  dsimp only
  split
  · simp
  split
  · simp
  have h : ∀ (l : List Nat) (r : List Word × State), (l.foldl (fun (r : List Word × State) x => let (w, s) := r.2.peekReg ch x; (r.1 ++ [w], s)) r).2.kept = r.2.kept := by
    intro l
    induction l with
    | nil => intro a; rfl
    | cons o l ih => intro a; rw [List.foldl_cons, ih]; simp
  have h2 := h (addrsOf a.letter) ([], s)
  generalize (addrsOf a.letter).foldl _ _ = z at h2 ⊢
  obtain ⟨v, t⟩ := z
  dsimp only at h2 ⊢
  simp [h2]

@[simp ↓] theorem execRegWrite_kept (ch : Nat) (s : State) : Keeps s (execRegWrite ch s) :=
  by simp [execRegWrite]

@[simp ↓] theorem execMbxStatus_kept (ch : Nat) (s : State) : Keeps s (execMbxStatus ch s) :=
  by simp [execMbxStatus]

@[simp ↓] theorem execMbxFlush_kept (ch : Nat) (s : State) : Keeps s (execMbxFlush ch s) :=
  by simp [execMbxFlush]

@[simp ↓] theorem State.addParcel_kept (s : State) (p : Parcel) : (State.addParcel s p).2.kept = s.kept :=
  by simp [State.addParcel]

@[simp ↓] theorem execParcelOpen_kept (ch : Nat) (s : State) : Keeps s (execParcelOpen ch s) :=
  by simp [execParcelOpen]

@[simp ↓] theorem execParcelClose_kept (ch : Nat) (s : State) : Keeps s (execParcelClose ch s) := by
  unfold execParcelClose
  with_reducible apply onLetter_kept
  intros
  try dsimp only
  (repeat' split) <;> simp

@[simp ↓] theorem execConfigStage_kept (ch : Nat) (s : State) : Keeps s (execConfigStage ch s) :=
  by simp [execConfigStage]

@[simp ↓] theorem execConfigRead_kept (ch : Nat) (s : State) : Keeps s (execConfigRead ch s) :=
  by simp [execConfigRead]

@[simp ↓] theorem execChimeSet_kept (ch : Nat) (s : State) : Keeps s (execChimeSet ch s) :=
  by simp [execChimeSet]

@[simp ↓] theorem execPowerCapSet_kept (ch : Nat) (s : State) : Keeps s (execPowerCapSet ch s) :=
  by simp [execPowerCapSet]

@[simp ↓] theorem execDividerSet_kept (ch : Nat) (s : State) : Keeps s (execDividerSet ch s) :=
  by simp [execDividerSet]

@[simp ↓] theorem State.dividerChimed_kept (s : State) (j : Job) : (State.dividerChimed s j).kept = s.kept :=
  by simp [State.dividerChimed]

@[simp ↓] theorem execTimeSource_kept (ch : Nat) (s : State) : Keeps s (execTimeSource ch s) :=
  by simp [execTimeSource]

@[simp ↓] theorem execIncidentRead_kept (ch : Nat) (s : State) : Keeps s (execIncidentRead ch s) :=
  by simp [execIncidentRead]

@[simp ↓] theorem execIncidentAck_kept (ch : Nat) (s : State) : Keeps s (execIncidentAck ch s) :=
  by simp [execIncidentAck]

@[simp ↓] theorem execSnapshotRequest_kept (ch : Nat) (s : State) : Keeps s (execSnapshotRequest ch s) :=
  by simp [execSnapshotRequest]

@[simp ↓] theorem State.snapshotChimed_kept (s : State) (j : Job) : (State.snapshotChimed s j).kept = s.kept :=
  by simp [State.snapshotChimed]

@[simp ↓] theorem execSnapshotRead_kept (ch : Nat) (s : State) : Keeps s (execSnapshotRead ch s) := by
  unfold execSnapshotRead
  with_reducible apply onLetter_kept
  intros
  try dsimp only
  (repeat' split) <;> simp

@[simp ↓] theorem execSensorRead_kept (ch : Nat) (s : State) : Keeps s (execSensorRead ch s) := by
  unfold execSensorRead
  with_reducible apply onLetter_kept
  intros
  try dsimp only
  (repeat' split) <;> simp

@[simp ↓] theorem execCapacityRead_kept (ch : Nat) (s : State) : Keeps s (execCapacityRead ch s) :=
  by simp [execCapacityRead]


/-! ### Machine/Trust.lean -/

@[simp ↓] theorem State.askReset_kept (s : State) (kind : Nat) : (State.askReset s kind).kept = s.kept :=
  by simp [State.askReset]

@[simp ↓] theorem State.moduleReset_kept (s : State) (a : Accepted) : (State.moduleReset s a).kept = s.kept := by
  unfold State.moduleReset
  (repeat' split) <;> simp

@[simp ↓] theorem execModuleReset_kept (ch : Nat) (s : State) : Keeps s (execModuleReset ch s) :=
  by simp [execModuleReset]

@[simp ↓] theorem State.setDirectory_kept (s : State) (slot : Nat) (trial : Bool) (tries : Nat) : (State.setDirectory s slot trial tries).kept = s.kept :=
  by simp [State.setDirectory]

@[simp ↓] theorem State.lockSlot_kept (s : State) (slot : Nat) : (State.lockSlot s slot).kept = s.kept :=
  by simp [State.lockSlot]

@[simp ↓] theorem State.firmwareStage_kept (s : State) (a : Accepted) : (State.firmwareStage s a).kept = s.kept :=
  by simp [State.firmwareStage]

@[simp ↓] theorem execFirmwareStage_kept (ch : Nat) (s : State) : Keeps s (execFirmwareStage ch s) :=
  by simp [execFirmwareStage]

@[simp ↓] theorem State.firmwareActivate_kept (s : State) (a : Accepted) : (State.firmwareActivate s a).kept = s.kept :=
  by simp [State.firmwareActivate]

@[simp ↓] theorem execFirmwareActivate_kept (ch : Nat) (s : State) : Keeps s (execFirmwareActivate ch s) :=
  by simp [execFirmwareActivate]

@[simp ↓] theorem State.answerAll_kept (s : State) (code : Nat) : (State.answerAll s code).kept = s.kept :=
  by simp [State.answerAll]

@[simp ↓] theorem execFirmwareCopyComplete_kept (s : State) : Keeps s (execFirmwareCopyComplete s) := by
  unfold execFirmwareCopyComplete
  (repeat' split) <;> simp

@[simp ↓] theorem execStampRead_kept (ch : Nat) (s : State) : Keeps s (execStampRead ch s) :=
  by simp [execStampRead]

@[simp ↓] theorem execPostmarkRequest_kept (ch : Nat) (s : State) : Keeps s (execPostmarkRequest ch s) :=
  by simp [execPostmarkRequest]

@[simp ↓] theorem execOwnerKeySet_kept (ch : Nat) (s : State) : Keeps s (execOwnerKeySet ch s) :=
  by simp [execOwnerKeySet]

@[simp ↓] theorem execOwnerload_kept (index : Nat) (data : Word) (commit : Bool) (s : State) : Keeps s (execOwnerload index data commit s) := by
  unfold execOwnerload
  (repeat' split) <;> simp

@[simp ↓] theorem execOwnerclr_kept (s : State) : Keeps s (execOwnerclr s) :=
  by simp [execOwnerclr]


/-! ### Machine/Peer.lean -/

@[simp ↓] theorem onPeer_kept (port : Nat) (s : State) (f : State → State) (hf : ∀ s, (f s).kept = s.kept) : Keeps s (onPeer port s f) :=
  by simp [onPeer, hf]

@[simp ↓] theorem onLantern_kept (n : Nat) (s : State) (f : State → State) (hf : ∀ s, (f s).kept = s.kept) : Keeps s (onLantern n s f) :=
  by simp [onLantern, hf]

@[simp ↓] theorem onPeerFrame_kept (port : Nat) (pf : PeerFrame) (ok : State → Bool) (s : State) (f : State → State) (hf : ∀ s, (f s).kept = s.kept) : Keeps s (onPeerFrame port pf ok s f) := by
  unfold onPeerFrame
  (try dsimp only)
  (repeat' split) <;> simp [hf]

@[simp ↓] theorem execBundle_kept (port : Nat) (pf : PeerFrame) (b : Bundle) (s : State) : Keeps s (execBundle port pf b s) :=
  by simp [execBundle]

@[simp ↓] theorem execGensync_kept (port : Nat) (pf : PeerFrame) (s : State) : Keeps s (execGensync port pf s) :=
  by simp [execGensync]

@[simp ↓] theorem execProbe_kept (port : Nat) (pf : PeerFrame) (module : Word) (partner : Nat) (s : State) : Keeps s (execProbe port pf module partner s) :=
  by simp [execProbe]

@[simp ↓] theorem execProbeSend_kept (port : Nat) (s : State) : Keeps s (execProbeSend port s) :=
  by simp [execProbeSend]

@[simp ↓] theorem execPeerSend_kept (bridge : Nat) (s : State) : Keeps s (execPeerSend bridge s) :=
  by simp [execPeerSend]

@[simp ↓] theorem execProbeTimeout_kept (port : Nat) (s : State) : Keeps s (execProbeTimeout port s) :=
  by simp [execProbeTimeout]

@[simp ↓] theorem execBlockLockLoss_kept (port : Nat) (s : State) : Keeps s (execBlockLockLoss port s) :=
  by simp [execBlockLockLoss]

@[simp ↓] theorem execPeerLinkReturn_kept (port : Nat) (s : State) : Keeps s (execPeerLinkReturn port s) :=
  by simp [execPeerLinkReturn]

@[simp ↓] theorem State.hostSwapped_kept (s : State) (h : Nat) : (State.hostSwapped s h).kept = s.kept := by
  unfold State.hostSwapped
  try dsimp only
  (repeat' split) <;> simp

@[simp ↓] theorem execHostLinkUp_kept (port : Nat) (link : Nat) (s : State) : Keeps s (execHostLinkUp port link s) :=
  by simp [execHostLinkUp]

@[simp ↓] theorem execHostLinkDown_kept (port : Nat) (link : Nat) (s : State) : Keeps s (execHostLinkDown port link s) :=
  by simp [execHostLinkDown]

@[simp ↓] theorem State.resumeHost_kept (s : State) (port : Nat) : (State.resumeHost s port).kept = s.kept :=
  by simp [State.resumeHost]

@[simp ↓] theorem execPfcFrame_kept (peer : Bool) (port : Nat) (prio : Nat) (quanta : Nat) (s : State) : Keeps s (execPfcFrame peer port prio quanta s) :=
  by simp [execPfcFrame]

@[simp ↓] theorem execPauseExpire_kept (peer : Bool) (port : Nat) (prio : Nat) (s : State) : Keeps s (execPauseExpire peer port prio s) :=
  by simp [execPauseExpire]

@[simp ↓] theorem execPfcRefresh_kept (peer : Bool) (port : Nat) (prio : Nat) (s : State) : Keeps s (execPfcRefresh peer port prio s) :=
  by simp [execPfcRefresh]

@[simp ↓] theorem execCartridgeExcursion_kept (lantern : Nat) (s : State) : Keeps s (execCartridgeExcursion lantern s) :=
  by simp [execCartridgeExcursion]

@[simp ↓] theorem execCartridgeJudgement_kept (lantern : Nat) (r0 : CartReading) (r1 : CartReading) (s : State) : Keeps s (execCartridgeJudgement lantern r0 r1 s) :=
  by simp [execCartridgeJudgement]

@[simp ↓] theorem execCartridgeRelease_kept (lantern : Nat) (cart : Nat) (s : State) : Keeps s (execCartridgeRelease lantern cart s) :=
  by simp [execCartridgeRelease]

@[simp ↓] theorem execCartridgeInsert_kept (lantern : Nat) (cart : Nat) (s : State) : Keeps s (execCartridgeInsert lantern cart s) :=
  by simp [execCartridgeInsert]

@[simp ↓] theorem execCartridgeReady_kept (lantern : Nat) (cart : Nat) (s : State) : Keeps s (execCartridgeReady lantern cart s) :=
  by simp [execCartridgeReady]

@[simp ↓] theorem execPeerAvenueOpen_kept (ch : Nat) (s : State) : Keeps s (execPeerAvenueOpen ch s) :=
  by simp [execPeerAvenueOpen]

@[simp ↓] theorem execPeerAvenueClose_kept (ch : Nat) (s : State) : Keeps s (execPeerAvenueClose ch s) :=
  by simp [execPeerAvenueClose]

@[simp ↓] theorem State.peerPortSwap_kept (s : State) (a : Accepted) : (State.peerPortSwap s a).kept = s.kept := by
  unfold State.peerPortSwap
  try dsimp only
  (repeat' split) <;> simp

@[simp ↓] theorem execPeerPortSwap_kept (ch : Nat) (s : State) : Keeps s (execPeerPortSwap ch s) :=
  by simp [execPeerPortSwap]

@[simp ↓] theorem execAutoSwap_kept (port : Nat) (readings : List (Nat × Nat)) (s : State) : Keeps s (execAutoSwap port readings s) := by
  unfold execAutoSwap
  with_reducible apply onPeer_kept
  intro s
  split
  · rfl
  · split <;> simp

@[simp ↓] theorem execSwapPartnerFound_kept (spare : Nat) (module : Word) (partner : Nat) (s : State) : Keeps s (execSwapPartnerFound spare module partner s) :=
  by simp [execSwapPartnerFound]

@[simp ↓] theorem execSwapTimeout_kept (spare : Nat) (s : State) : Keeps s (execSwapTimeout spare s) := by
  unfold execSwapTimeout
  with_reducible apply onUnit_kept
  intros
  try dsimp only
  (repeat' split) <;> simp

@[simp ↓] theorem execPeerStatus_kept (ch : Nat) (s : State) : Keeps s (execPeerStatus ch s) :=
  by simp [execPeerStatus]


/-! ### Machine/StartOps.lean -/

@[simp ↓] theorem State.endStage_kept (s : State) (next : Nat) (r : Report) : (State.endStage s next r).kept = s.kept :=
  by simp [State.endStage]

@[simp ↓] theorem State.stopStart_kept (s : State) (stage : Nat) (unit : Nat) : (State.stopStart s stage unit).kept = s.kept :=
  by simp [State.stopStart]

@[simp ↓] theorem State.stagePower_kept (s : State) : (State.stagePower s).kept = s.kept :=
  by simp [State.stagePower]

@[simp ↓] theorem State.lodgeTrial_kept (s : State) : (State.lodgeTrial s).kept = s.kept :=
  by simp [State.lodgeTrial]

@[simp ↓] theorem State.stageLodge_kept (s : State) : (State.stageLodge s).kept = s.kept :=
  by simp [State.stageLodge]

@[simp ↓] theorem State.loadConfig_kept (s : State) : (State.loadConfig s).1.kept = s.kept :=
  by simp [State.loadConfig]

@[simp ↓] theorem State.reapplySwap_kept (s : State) (port : Nat) (spare : Nat) : (State.reapplySwap s port spare).kept = s.kept :=
  by simp [State.reapplySwap]

@[simp ↓] theorem State.reapply_kept (s : State) (r : Repair) : (State.reapply s r).kept = s.kept := by
  unfold State.reapply
  (repeat' split) <;> simp

@[simp ↓] theorem State.stageRecords_kept (s : State) : (State.stageRecords s).kept = s.kept :=
  by simp [State.stageRecords]

@[simp ↓] theorem State.dropRepair_kept (s : State) (type : Nat) (unit : Nat) (a : Nat) : (State.dropRepair s type unit a).kept = s.kept :=
  by simp [State.dropRepair]

@[simp ↓] theorem State.plotOn_kept (s : State) (q : Nat) : (State.plotOn s q).kept = s.kept :=
  by simp [State.plotOn]

@[simp ↓] theorem State.thoroughfareOn_kept (s : State) (p : Nat) : (State.thoroughfareOn s p).kept = s.kept := by
  unfold State.thoroughfareOn
  (repeat' split) <;> simp

@[simp ↓] theorem State.lockPav_kept (s : State) (e : Nat × Nat) : (State.lockPav s e).kept = s.kept := by
  unfold State.lockPav
  (try dsimp only)
  (repeat' split) <;> simp

@[simp ↓] theorem State.lockWaves_kept (pavs : List Nat) (n : Nat) (s : State) : (State.lockWaves pavs n s).kept = s.kept := by
  induction n generalizing s with
  | zero => rfl
  | succ n ih =>
    unfold State.lockWaves
    dsimp only
    split <;> simp [ih]

@[simp ↓] theorem State.alignRouter_kept (s : State) (r : Nat) : (State.alignRouter s r).kept = s.kept := by
  unfold State.alignRouter
  (try simp)
  (repeat' (first | (split <;> (try simp)) | (with_reducible refine kept_foldl' _ _ _ _ ?_ ?_) | (intro _; (try simp)) | (simp_all; done)))

@[simp ↓] theorem State.lockAll_kept (s : State) : (State.lockAll s).kept = s.kept := by
  simp [State.lockAll]

@[simp ↓] theorem State.stageSpread_kept (s : State) : (State.stageSpread s).kept = s.kept :=
  by simp [State.stageSpread]

@[simp ↓] theorem State.trainLantern_kept (s : State) (n : Nat) : (State.trainLantern s n).kept = s.kept :=
  by simp [State.trainLantern]

@[simp ↓] theorem State.hostMode_kept (s : State) (h : Nat) : (State.hostMode s h).kept = s.kept :=
  by simp [State.hostMode]

@[simp ↓] theorem State.speeds_kept (s : State) (p : Nat) : (State.speeds s p).kept = s.kept :=
  by simp [State.speeds]

@[simp ↓] theorem State.wakePav_kept (s : State) (p : Nat) : (State.wakePav s p).kept = s.kept :=
  by simp [State.wakePav]

@[simp ↓] theorem State.stageWake_kept (s : State) : (State.stageWake s).kept = s.kept :=
  by simp [State.stageWake]

@[simp ↓] theorem State.retireAtStart_kept (s : State) (c : Nat) (cause : Nat) : (State.retireAtStart s c cause).kept = s.kept :=
  by simp [State.retireAtStart]

@[simp ↓] theorem State.testLine_kept (s : State) (x : Nat × Nat × Nat) : (State.testLine s x).kept = s.kept :=
  by simp [State.testLine]

@[simp ↓] theorem State.testLane_kept (s : State) (x : Nat × Nat × Bool × Nat) : (State.testLane s x).kept = s.kept :=
  by simp [State.testLane]

@[simp ↓] theorem State.stageTest_kept (s : State) : (State.stageTest s).kept = s.kept :=
  by simp [State.stageTest]

@[simp ↓] theorem State.paceSite_kept (s : State) (c : Nat) : (State.paceSite s c).kept = s.kept :=
  by simp [State.paceSite]

@[simp ↓] theorem State.retireSlow_kept (s : State) : (State.retireSlow s).kept = s.kept :=
  by simp [State.retireSlow]

@[simp ↓] theorem State.stagePace_kept (s : State) : (State.stagePace s).kept = s.kept :=
  by simp [State.stagePace]

@[simp ↓] theorem State.writeRoute_kept (s : State) (m : FMap Nat) (plain : Bool) (base p : Nat) : (State.writeRoute s m plain base p).kept = s.kept := by
  unfold State.writeRoute
  (try dsimp only)
  (repeat' split) <;> simp

@[simp ↓] theorem State.writeRoutes_kept (s : State) (base : Nat) : (State.writeRoutes s base).kept = s.kept :=
  by simp [State.writeRoutes]

@[simp ↓] theorem State.giveTables_kept (s : State) (p : Nat) : (State.giveTables s p).kept = s.kept := by
  unfold State.giveTables
  (try dsimp only)
  (repeat' split) <;> simp

@[simp ↓] theorem State.capacity_kept (s : State) : (State.capacity s).kept = s.kept :=
  by simp [State.capacity]

@[simp ↓] theorem State.enterService_kept (s : State) : (State.enterService s).kept = s.kept :=
  by simp [State.enterService]


/-! ### Machine/Boot.lean -/

@[simp ↓] theorem execRstNAccept_kept (micros : Nat) (s : State) : Keeps s (execRstNAccept micros s) :=
  by simp [execRstNAccept]

@[simp ↓] theorem execBootrpt_kept (index : Nat) (s : State) : Keeps s (execBootrpt index s) :=
  by simp [execBootrpt]

@[simp ↓] theorem execPavtest_kept (pav : Nat) (failing : List Nat) (s : State) : Keeps s (execPavtest pav failing s) :=
  by simp [execPavtest]

@[simp ↓] theorem execRelock_kept (pav : Nat) (s : State) : Keeps s (execRelock pav s) := by
  unfold execRelock
  with_reducible apply onPav_kept
  intro s
  dsimp only
  split
  · rfl
  · simp


/-! ### Machine/Cube.lean -/

@[simp ↓] theorem State.accUpset_kept (s : State) (c : Nat) (t : Nat) (op : Nat) : (State.accUpset s c t op).kept = s.kept :=
  by simp [State.accUpset]

@[simp ↓] theorem execMma_kept (core : Nat) (upsets : List Nat) (s : State) : Keeps s (execMma core upsets s) := by
  unfold execMma
  with_reducible apply onCore_kept
  intros
  try dsimp only
  (repeat' split) <;> simp

@[simp ↓] theorem execMmaComplete_kept (core : Nat) (s : State) : Keeps s (execMmaComplete core s) := by
  unfold execMmaComplete
  with_reducible apply onCore_kept
  intros
  try dsimp only
  (repeat' split) <;> simp

@[simp ↓] theorem execZero_kept (core : Nat) (s : State) : Keeps s (execZero core s) := by
  unfold execZero
  with_reducible apply onCore_kept
  intros
  try dsimp only
  (repeat' split) <;> simp

@[simp ↓] theorem execZeroComplete_kept (core : Nat) (s : State) : Keeps s (execZeroComplete core s) := by
  unfold execZeroComplete
  with_reducible apply onCore_kept
  intros
  try dsimp only
  (repeat' split) <;> simp

@[simp ↓] theorem execCubeRejectComplete_kept (core : Nat) (s : State) : Keeps s (execCubeRejectComplete core s) := by
  unfold execCubeRejectComplete
  with_reducible apply onCore_kept
  intros
  try dsimp only
  (repeat' split) <;> simp


/-! ### Machine/Chain.lean -/

@[simp ↓] theorem execChainStart_kept (core : Nat) (s : State) : Keeps s (execChainStart core s) := by
  unfold execChainStart
  with_reducible apply onCore_kept
  intros
  try dsimp only
  (repeat' split) <;> simp

@[simp ↓] theorem execChainRejectComplete_kept (core : Nat) (s : State) : Keeps s (execChainRejectComplete core s) := by
  unfold execChainRejectComplete
  with_reducible apply onCore_kept
  intros
  try dsimp only
  (repeat' split) <;> simp

@[simp ↓] theorem State.tallyUpset_kept (s : State) (c : Nat) (t : Nat) : (State.tallyUpset s c t).kept = s.kept :=
  by simp [State.tallyUpset]

@[simp ↓] theorem State.slotUpset_kept (s : State) (c : Nat) (e : Nat) : (State.slotUpset s c e).kept = s.kept :=
  by simp [State.slotUpset]

@[simp ↓] theorem State.tallyCorrected_kept (s : State) (c : Nat) : (State.tallyCorrected s c).kept = s.kept := by
  unfold State.tallyCorrected
  (try dsimp only)
  (repeat' split) <;> simp

@[simp ↓] theorem State.beatUpset_kept (d : ChainDesc) (b : Nat) (c : Nat) (s : State) (u : Nat) : (State.beatUpset d b c s u).kept = s.kept :=
  by simp [State.beatUpset]

@[simp ↓] theorem execChainBeat_kept (core : Nat) (upsets : List Nat) (s : State) : Keeps s (execChainBeat core upsets s) := by
  unfold execChainBeat
  with_reducible apply onCore_kept
  intros
  try dsimp only
  (repeat' split) <;> simp

@[simp ↓] theorem execChainComplete_kept (core which : Nat) (s : State) : Keeps s (execChainComplete core which s) := by
  unfold execChainComplete
  with_reducible apply onCore_kept
  intro s
  split
  · rfl
  · split <;> simp


/-! ### Machine/Discipline.lean -/

@[simp ↓] theorem State.setEpoch_kept (s : State) (e : Int) : (State.setEpoch s e).kept = s.kept :=
  by simp [State.setEpoch]

@[simp ↓] theorem State.setTrim_kept (s : State) (t : Int) : (State.setTrim s t).kept = s.kept :=
  by simp [State.setTrim]

@[simp ↓] theorem State.servo_kept (s : State) (offset : Int) : (State.servo s offset).kept = s.kept :=
  by simp [State.servo]

@[simp ↓] theorem State.takeOffset_kept (s : State) (offset : Int) : (State.takeOffset s offset).kept = s.kept :=
  by simp [State.takeOffset]

@[simp ↓] theorem onPtp_kept (h : Heard) (udp domain : Nat) (s : State) (f : State → State) (hf : ∀ s, (f s).kept = s.kept) : Keeps s (onPtp h udp domain s f) := by
  unfold onPtp
  (try dsimp only)
  (repeat' split) <;> simp [hf]

@[simp ↓] theorem execSync_kept (h : Heard) (domain source : Nat) (masterTime arrival : Int) (s : State) : Keeps s (execSync h domain source masterTime arrival s) := by
  unfold execSync
  (try dsimp only)
  (repeat' split) <;> simp

@[simp ↓] theorem execAnnounce_kept (h : Heard) (domain : Nat) (dataset : List Nat) (s : State) : Keeps s (execAnnounce h domain dataset s) := by
  unfold execAnnounce
  (try dsimp only)
  (repeat' split) <;> simp

@[simp ↓] theorem execDelayResp_kept (h : Heard) (domain source : Nat) (recvTime logInterval : Int) (s : State) : Keeps s (execDelayResp h domain source recvTime logInterval s) := by
  unfold execDelayResp
  with_reducible apply onPtp_kept
  intro s
  split <;> first | rfl | simp

@[simp ↓] theorem execDelayReq_kept (port : Nat) (departure : Int) (s : State) : Keeps s (execDelayReq port departure s) :=
  by simp [execDelayReq]

@[simp ↓] theorem execSyncInEdge_kept (stamp : Int) (s : State) : Keeps s (execSyncInEdge stamp s) := by
  unfold execSyncInEdge
  (repeat' split) <;> simp

@[simp ↓] theorem execDisciplineHoldover_kept (s : State) : Keeps s (execDisciplineHoldover s) :=
  by simp [execDisciplineHoldover]


/-! ### Machine/Faults.lean -/

@[simp ↓] theorem State.wardenFail_kept (s : State) (g : Nat) (c : Nat) (cause : Nat) (next : Bool) (r : List Word) : (State.wardenFail s g c cause next r).kept = s.kept :=
  by simp [State.wardenFail]

@[simp ↓] theorem execWardenJudge_kept (pav : Nat) (core : Nat) (s : State) : Keeps s (execWardenJudge pav core s) := by
  unfold execWardenJudge
  with_reducible apply onUnit_kept
  intros
  try dsimp only
  (repeat' split) <;> simp

@[simp ↓] theorem execPatrolSegment_kept (core segment waited : Nat) (s : State) : Keeps s (execPatrolSegment core segment waited s) := by
  unfold execPatrolSegment
  (try dsimp only)
  (repeat' split) <;> simp

@[simp ↓] theorem State.applyQueued_kept (s : State) (p : Nat) : (State.applyQueued s p).kept = s.kept :=
  by simp [State.applyQueued]

@[simp ↓] theorem State.patrolDone_kept (s : State) (c : Nat) : (State.patrolDone s c).kept = s.kept :=
  by simp [State.patrolDone]

@[simp ↓] theorem State.segmentPass_kept (s : State) (c : Nat) (seg : Nat) : (State.segmentPass s c seg).kept = s.kept :=
  by simp [State.segmentPass]

@[simp ↓] theorem State.segmentFail_kept (s : State) (c : Nat) (seg : Nat) (test : Nat) : (State.segmentFail s c seg test).kept = s.kept :=
  by simp [State.segmentFail]

@[simp ↓] theorem execPatrolSegmentEnd_kept (core : Nat) (finding : Finding) (s : State) : Keeps s (execPatrolSegmentEnd core finding s) := by
  unfold execPatrolSegmentEnd
  with_reducible apply onCore_kept
  intros
  try dsimp only
  (repeat' split) <;> simp

@[simp ↓] theorem execPatrolAbandon_kept (core : Nat) (s : State) : Keeps s (execPatrolAbandon core s) :=
  by simp [execPatrolAbandon]

@[simp ↓] theorem execProbationEnd_kept (core : Nat) (s : State) : Keeps s (execProbationEnd core s) := by
  unfold execProbationEnd
  with_reducible apply onCore_kept
  intros
  try dsimp only
  (repeat' split) <;> simp

@[simp ↓] theorem execMarkExpire_kept (core : Nat) (s : State) : Keeps s (execMarkExpire core s) :=
  by simp [execMarkExpire]

@[simp ↓] theorem execPatrolDeadline_kept (core : Nat) (s : State) : Keeps s (execPatrolDeadline core s) :=
  by simp [execPatrolDeadline]

@[simp ↓] theorem execForcedReliefTimeout_kept (core : Nat) (s : State) : Keeps s (execForcedReliefTimeout core s) := by
  unfold execForcedReliefTimeout
  with_reducible apply onCore_kept
  intros
  try dsimp only
  (repeat' split) <;> simp


/-! ### Machine/Porter.lean -/

@[simp ↓] theorem execCopy_kept (core : Nat) (s : State) : Keeps s (execCopy core s) :=
  by simp [execCopy]

@[simp ↓] theorem execPut_kept (core : Nat) (s : State) : Keeps s (execPut core s) := by
  unfold execPut
  with_reducible apply portStart_kept
  intros
  try dsimp only
  (repeat' split) <;> simp

@[simp ↓] theorem execGet_kept (core : Nat) (s : State) : Keeps s (execGet core s) :=
  by simp [execGet]

@[simp ↓] theorem execLoad_kept (core : Nat) (s : State) : Keeps s (execLoad core s) :=
  by simp [execLoad]

@[simp ↓] theorem execStore_kept (core : Nat) (s : State) : Keeps s (execStore core s) :=
  by simp [execStore]

@[simp ↓] theorem execAsend_kept (core : Nat) (s : State) : Keeps s (execAsend core s) := by
  unfold execAsend
  with_reducible apply portStart_kept
  intros
  try dsimp only
  (repeat' split) <;> simp

@[simp ↓] theorem execArecv_kept (core : Nat) (s : State) : Keeps s (execArecv core s) :=
  by simp [execArecv]

@[simp ↓] theorem execProg_kept (core : Nat) (s : State) : Keeps s (execProg core s) :=
  by simp [execProg]

@[simp ↓] theorem execPorterRejectComplete_kept (core : Nat) (s : State) : Keeps s (execPorterRejectComplete core s) := by
  unfold execPorterRejectComplete
  with_reducible apply onCore_kept
  intros
  try dsimp only
  (repeat' split) <;> simp

@[simp ↓] theorem execPorterComplete_kept (core : Nat) (s : State) : Keeps s (execPorterComplete core s) := by
  unfold execPorterComplete
  with_reducible apply onCore_kept
  intros
  try dsimp only
  (repeat' split) <;> simp


/-! ### Machine/Rounds.lean -/

@[simp ↓] theorem State.beginReroute_kept (s : State) : (State.beginReroute s).kept = s.kept :=
  by simp [State.beginReroute]

@[simp ↓] theorem State.stageRoutes_kept (s : State) : (State.stageRoutes s).kept = s.kept := by
  unfold State.stageRoutes
  (try simp)
  (repeat' (first | (split <;> (try simp)) | (with_reducible refine kept_foldl' _ _ _ _ ?_ ?_) | (intro _; (try simp)) | (simp_all; done)))

@[simp ↓] theorem State.reroutePoll_kept (s : State) (j : Job) : (State.reroutePoll s j).kept = s.kept :=
  by simp [State.reroutePoll]

@[simp ↓] theorem State.rerouteChimed_kept (s : State) (j : Job) : (State.rerouteChimed s j).kept = s.kept :=
  by simp [State.rerouteChimed]

@[simp ↓] theorem State.giveUpTake_kept (s : State) (j : Job) (reason : Nat) : (State.giveUpTake s j reason).kept = s.kept :=
  by simp [State.giveUpTake]

@[simp ↓] theorem State.giveUpRelease_kept (s : State) (j : Job) (reason : Nat) : (State.giveUpRelease s j reason).kept = s.kept :=
  by simp [State.giveUpRelease]

@[simp ↓] theorem State.giveUp_kept (s : State) (j : Job) (reason : Nat) : (State.giveUp s j reason).kept = s.kept := by
  unfold State.giveUp
  (repeat' split) <;> simp

@[simp ↓] theorem State.stageFailed_kept (s : State) (j : Job) : (State.stageFailed s j).kept = s.kept := by
  unfold State.stageFailed
  (repeat' split) <;> simp

@[simp ↓] theorem State.stageFailures_kept (s : State) : (State.stageFailures s).kept = s.kept :=
  by simp [State.stageFailures]

@[simp ↓] theorem State.capStepChimed_kept (s : State) (j : Job) : (State.capStepChimed s j).kept = s.kept :=
  by simp [State.capStepChimed]

@[simp ↓] theorem State.chimed_kept (s : State) (j : Job) : (State.chimed s j).kept = s.kept := by
  unfold State.chimed
  (repeat' split) <;> simp

@[simp ↓] theorem State.stageDone_kept (s : State) (g : Stage) : (State.stageDone s g).kept = s.kept := by
  unfold State.stageDone
  try dsimp only
  (repeat' split) <;> simp

@[simp ↓] theorem State.stagesDone_kept (s : State) : (State.stagesDone s).kept = s.kept :=
  by simp [State.stagesDone]

@[simp ↓] theorem State.poll_kept (s : State) (j : Job) : (State.poll s j).kept = s.kept := by
  unfold State.poll
  (repeat' split) <;> simp

@[simp ↓] theorem State.polls_kept (s : State) : (State.polls s).kept = s.kept := by
  unfold State.polls
  (try simp)
  (repeat' (first | (split <;> (try simp)) | (with_reducible refine kept_foldl' _ _ _ _ ?_ ?_) | (intro _; (try simp)) | (simp_all; done)))

@[simp ↓] theorem State.keeperFault_kept (s : State) (c : Nat) : (State.keeperFault s c).kept = s.kept := by
  unfold State.keeperFault
  try dsimp only
  (repeat' split) <;> simp

@[simp ↓] theorem State.keeperFaults_kept (s : State) : (State.keeperFaults s).kept = s.kept :=
  by simp [State.keeperFaults]

@[simp ↓] theorem State.marginFault_kept (s : State) (p : Nat) : (State.marginFault s p).kept = s.kept := by
  unfold State.marginFault
  try dsimp only
  (repeat' split) <;> simp

@[simp ↓] theorem State.marginFaults_kept (s : State) : (State.marginFaults s).kept = s.kept :=
  by simp [State.marginFaults]

@[simp ↓] theorem State.recount_kept (s : State) : (State.recount s).kept = s.kept :=
  by simp [State.recount]

@[simp ↓] theorem State.sweep_kept (s : State) : (State.sweep s).kept = s.kept :=
  by simp [State.sweep]

@[simp ↓] theorem execSweep_kept (s : State) : Keeps s (execSweep s) :=
  by simp [execSweep]

@[simp ↓] theorem execSecondScan_kept (s : State) : Keeps s (execSecondScan s) :=
  by simp [execSecondScan]

@[simp ↓] theorem State.broadcastJob_kept (s : State) (id : Nat) : (State.broadcastJob s id).kept = s.kept := by
  unfold State.broadcastJob
  (repeat' split) <;> simp

@[simp ↓] theorem State.broadcasts_kept (s : State) : (State.broadcasts s).kept = s.kept :=
  by simp [State.broadcasts]

@[simp ↓] theorem execDecisionPoint_kept (s : State) : Keeps s (execDecisionPoint s) :=
  by simp [execDecisionPoint]

@[simp ↓] theorem execPostmasterRestart_kept (s : State) : Keeps s (execPostmasterRestart s) :=
  by simp [execPostmasterRestart]

@[simp ↓] theorem State.discardOpen_kept (s : State) : (State.discardOpen s).kept = s.kept :=
  by simp [State.discardOpen]

@[simp ↓] theorem State.killLetters_kept (s : State) : (State.killLetters s).kept = s.kept :=
  by simp [State.killLetters]

@[simp ↓] theorem State.endPause_kept (s : State) : (State.endPause s).kept = s.kept :=
  by simp [State.endPause]

@[simp ↓] theorem execRestartResume_kept (s : State) : Keeps s (execRestartResume s) :=
  by simp [execRestartResume]

end Sys2Proof.Machine
end

