-- ==== Sys2Proof/Laws/Sound.lean ====
section
/-! SUPPORT. The commands that change the slow tier, and the step that keeps its canonical form and the queue. -/

namespace Sys2Proof.Machine

/-- The queue is as it was, and a canonical slow tier stays canonical. -/
def Sound (s t : State) : Prop := t.pending = s.pending ∧ (Fm.wf 0 s.slow = true → Fm.wf 0 t.slow = true)

/-- A command's answer does so. -/
def SoundRes (s : State) (r : Res) : Prop := ∀ t, r = .next t → Sound s t

theorem Sound.refl (s : State) : Sound s s := ⟨rfl, id⟩
theorem Sound.trans {s t u : State} (h : Sound s t) (k : Sound t u) : Sound s u := ⟨k.1.trans h.1, k.2 ∘ h.2⟩

theorem sound_of_kept {s t : State} (h : t.kept = s.kept) : Sound s t := by
  have h1 : t.slow = s.slow := congrArg Prod.fst h
  have h2 : t.pending = s.pending := congrArg Prod.snd h
  exact ⟨h2, fun k => by rw [h1]; exact k⟩

theorem soundRes_of_keeps {s : State} {r : Res} (h : Keeps s r) : SoundRes s r := fun t e => sound_of_kept (h t e)
theorem soundRes_next {s t : State} (h : Sound s t) : SoundRes s (.next t) := fun u e => by cases e; exact h
theorem soundRes_fault (s : State) (r : Fault) : SoundRes s (.fault r) := fun u e => by cases e
theorem soundRes_refused (s : State) (r : Refusal) : SoundRes s (.refused r) := fun u e => by cases e

/-- What leaves both as they are after a sound change is sound. -/
theorem Sound.andKept {s t u : State} (h : Sound s t) (k : u.kept = t.kept) : Sound s u := h.trans (sound_of_kept k)

theorem sound_foldl {α : Type} {f : State → α → State} (h : ∀ s a, Sound s (f s a)) (l : List α) (s : State) :
    Sound s (l.foldl f s) := by
  induction l generalizing s with
  | nil => exact Sound.refl s
  | cons a l ih => exact (h s a).trans (ih _)

theorem sound_slow (s : State) (m : FMap Byte) (h : Fm.wf 0 s.slow = true → Fm.wf 0 m = true) : Sound s { s with slow := m } :=
  ⟨rfl, h⟩

theorem wf_writeBytes (a : Nat) (bs : List Byte) (m : FMap Byte) (h : Fm.wf 0 m = true) : Fm.wf 0 (writeBytes a bs m) = true := by
  induction bs generalizing a m with
  | nil => exact h
  | cons b bs ih => exact ih _ _ (Fm.wf_set _ _ h)

/-! ### Writes -/

theorem State.slowWrite_sound (s : State) (a : Nat) (bs : List Byte) : Sound s (s.slowWrite a bs) := by
  unfold State.slowWrite
  exact (sound_slow s _ (wf_writeBytes a bs _)).andKept (State.updOra_kept _ _ _)

theorem slowWriteAll_sound (fuel a : Nat) (bs : List Byte) (s : State) : Sound s (slowWriteAll fuel a bs s) := by
  induction fuel generalizing a bs s with
  | zero => exact Sound.refl s
  | succ n ih =>
    unfold slowWriteAll
    split
    · exact Sound.refl s
    · exact (State.slowWrite_sound s a _).trans (ih _ _ _)

theorem State.slowWriteLong_sound (s : State) (a : Nat) (bs : List Byte) : Sound s (s.slowWriteLong a bs) :=
  slowWriteAll_sound _ _ _ _

theorem State.gardenWrite_sound (s : State) (o g a : Nat) (bs : List Byte) : Sound s (s.gardenWrite o g a bs) := by
  unfold State.gardenWrite
  extract_lets +onlyGivenNames v e
  split
  · exact State.slowWrite_sound _ _ _
  split
  · exact sound_of_kept (State.updOra_kept _ _ _)
  split
  · exact (State.slowWrite_sound _ _ _).andKept (State.updOra_kept _ _ _)
  · exact State.slowWrite_sound _ _ _

theorem State.fillRange_sound (s : State) (g a n : Nat) (pattern : List Byte) : Sound s (s.fillRange g a n pattern) :=
  sound_foldl (fun _ _ => State.gardenWrite_sound _ _ _ _ _) _ _

theorem State.fillFrom_sound (s : State) (a n view : Nat) (m : FMap Byte) : Sound s (s.fillFrom a n view m) := by
  unfold State.fillFrom
  exact (sound_slow s _ (fun h => Fm.wf_putAll _ (Fm.wf_clearRange _ _ h))).andKept (State.eachOra_kept _ _)

theorem writeSlow_sound (g : Nat) (m : FMap Byte) (rs : List (Nat × Nat)) (n : Nat) (s : State) :
    Sound s (writeSlow g m rs n s) := by
  induction rs generalizing n s with
  | nil => exact Sound.refl s
  | cons r rs ih =>
    unfold writeSlow
    extract_lets +onlyGivenNames k t
    have h : Sound s t := by
      simp only [t]
      split
      · exact State.fillFrom_sound _ _ _ _ _
      · exact Sound.refl s
    exact h.trans (ih _ _)

theorem State.writeImage_sound (s : State) (g : Nat) (c : Checkpoint) : Sound s (s.writeImage g c) := by
  unfold State.writeImage
  extract_lets +onlyGivenNames rs s1 s2 s3 s4 s5
  refine (writeSlow_sound g c.slowBytes rs (sumLen rs) s).andKept ?_
  have h2 : s2.kept = s1.kept := by
    simp only [s2]
    exact kept_foldl _ (fun s a => by split <;> simp) _ _
  have h3 : s3.kept = s1.kept := by
    simp only [s3]
    split <;> simp [h2]
  have h4 : s4.kept = s1.kept := by simp [s4, h3]
  have h5 : s5.kept = s1.kept := by simp [s5, h4]
  simp [h5, s1, rs]

theorem State.stopRestore_sound (s : State) (g : Nat) (c : Checkpoint) : Sound s (s.stopRestore g c) := by
  unfold State.stopRestore
  exact (sound_of_kept (State.draw_kept s)).trans (writeSlow_sound _ _ _ _ _)

theorem State.restoreDone_sound (s : State) (j : Job) : Sound s (s.restoreDone j) := by
  unfold State.restoreDone
  extract_lets +onlyGivenNames g s1
  have h1 : Sound s s1 := sound_of_kept (by simp [s1])
  clear_value s1
  split
  · exact h1
  split
  · exact h1.andKept (by simp)
  next c _ =>
  split
  · exact (h1.trans (State.stopRestore_sound s1 g c)).andKept (by simp)
  · exact (h1.trans (State.writeImage_sound s1 g c)).andKept (by simp)

theorem State.autoRestoreDone_sound (s : State) (j : Job) : Sound s (s.autoRestoreDone j) := by
  unfold State.autoRestoreDone
  extract_lets +onlyGivenNames g s1
  have h1 : Sound s s1 := sound_of_kept (by simp [s1])
  clear_value s1
  split
  · exact h1
  extract_lets +onlyGivenNames free
  have hf : ∀ t, (free t).kept = t.kept := fun t => by simp [free]
  clear_value free
  split
  · split
    · extract_lets +onlyGivenNames s2 other
      have h2 : Sound s s2 := by
        simp only [s2]
        split
        · exact h1.trans (State.stopRestore_sound _ _ _)
        · exact h1
      clear_value s2 other
      split
      · exact h2.andKept (by simp)
      · exact h2.andKept (by simp [hf])
    · next c _ _ =>
      exact (h1.trans (State.writeImage_sound s1 g c)).andKept (by simp [hf])
  · exact h1.andKept (by simp [hf])

/-! ### The garden's layers -/

theorem State.commitGranule_sound (o : Nat) (l : Layer) (k : Coef) (p : Pass) (qj : Nat × Nat) :
    Sound p.s (State.commitGranule o l k p qj).s := by
  unfold State.commitGranule
  extract_lets +onlyGivenNames wA mA sA slot data own
  split
  · exact Sound.refl _
  split
  · exact Sound.refl _
  extract_lets +onlyGivenNames s p2 v
  have hs : s.kept = p.s.kept := by simp [s]
  clear_value s
  split
  · exact sound_of_kept hs
  split
  · exact sound_of_kept (by simp [hs])
  extract_lets +onlyGivenNames ws ms bs fs
  generalize signGranule k ws ms bs fs = z
  obtain ⟨nw, nm, c⟩ := z
  dsimp only
  exact (((sound_of_kept hs).trans (State.slowWrite_sound s wA _)).trans (State.slowWrite_sound _ mA _)).andKept
    (State.updOra_kept _ _ _)

theorem State.commitLayer_sound (o : Nat) (p : Pass) (l : Layer) : Sound p.s (State.commitLayer o p l).s := by
  have h : ∀ (k : Coef) (xs : List (Nat × Nat)) (p : Pass), Sound p.s (xs.foldl (State.commitGranule o l k) p).s := by
    intro k xs
    induction xs with
    | nil => exact fun p => Sound.refl _
    | cons x xs ih => exact fun p => (State.commitGranule_sound o l k p x).trans (ih _)
  unfold State.commitLayer
  split
  · exact Sound.refl _
  extract_lets +onlyGivenNames s k p2
  have hs : Sound p.s s := sound_of_kept (by simp [s])
  have h2 : Sound p.s p2.s := hs.trans (h k _ _)
  clear_value p2
  split
  · exact h2
  · exact h2.andKept (by simp)

theorem State.runCommit_sound (s : State) (o g : Nat) (left : Option Nat) : Sound s (s.runCommit o g left) := by
  have h : ∀ (ls : List Layer) (p : Pass), Sound p.s (ls.foldl (State.commitLayer o) p).s := by
    intro ls
    induction ls with
    | nil => exact fun p => Sound.refl _
    | cons l ls ih => exact fun p => (State.commitLayer_sound o p l).trans (ih _)
  unfold State.runCommit
  extract_lets +onlyGivenNames p
  have h2 : Sound s p.s := h _ _
  clear_value p
  split <;> exact h2.andKept (by simp)

/-! ### Errors of memory -/

theorem State.spoil_sound (o : Nat) (s : State) (e : BlockErr) : Sound s (State.spoil o s e) := by
  have h : ∀ (fs : List (Nat × Byte)) (m : FMap Byte), Fm.wf 0 m = true →
      Fm.wf 0 (fs.foldl (fun m f => Fm.upd 0 (slowOf o (64 * e.block + f.1)) (· ^^^ f.2) m) m) = true := by
    intro fs
    induction fs with
    | nil => exact fun m h => h
    | cons f fs ih => exact fun m h => ih _ (Fm.wf_set _ _ h)
  unfold State.spoil
  extract_lets +onlyGivenNames v
  split
  · exact Sound.refl s
  split
  · exact sound_of_kept (by simp)
  extract_lets +onlyGivenNames t
  have ht : Sound s t := sound_of_kept (by simp [t])
  clear_value t
  split
  · exact ht
  · exact ht.trans (sound_slow t _ (h _ _))

theorem State.meets_sound (s : State) (o : Nat) (e : MemErr) : Sound s (s.meets o e) :=
  (sound_foldl (State.spoil_sound o) _ _).andKept (State.updOra_kept _ _ _)

theorem State.oraArrival_sound (s : State) (o t : Nat) (e : MemErr) (f : Packet → State → State) (hf : ∀ p s, Sound s (f p s)) :
    Sound s (s.oraArrival o t e f) := by
  unfold State.oraArrival
  extract_lets +onlyGivenNames v
  split
  · exact Sound.refl s
  split
  · exact Sound.refl s
  extract_lets +onlyGivenNames u
  have hu : Sound s u := (State.meets_sound s o e).andKept (State.updOra_kept _ _ _)
  clear_value u
  split
  · split
    · exact hu.andKept (by simp)
    · exact hu
  · exact hu.trans (hf _ _)

theorem State.readOra_sound (s : State) (o : Nat) (e : MemErr) : Sound s (s.readOra o e) :=
  State.oraArrival_sound _ _ _ _ _ fun p s => sound_of_kept (by simp)

/-! ### The loss of an orangery -/

theorem State.breakCommit_sound (o : Nat) (s : State) (g : Nat) : Sound s (State.breakCommit o s g) := by
  unfold State.breakCommit
  split
  · exact Sound.refl s
  · dsimp only
    exact ((sound_of_kept (State.draw_kept s)).trans (State.runCommit_sound _ o g _)).andKept (State.updOra_kept _ _ _)

theorem State.oraLoss_sound (s : State) (o : Nat) : Sound s (s.oraLoss o) := by
  unfold State.oraLoss
  extract_lets +onlyGivenNames s1 s2 s3 s4 s5
  have h1 : Sound s s1 := sound_of_kept (kept_foldl _ (fun s a => by simp) _ _)
  have h2 : Sound s s2 := h1.trans (sound_foldl (State.breakCommit_sound o) _ _)
  clear_value s2
  exact h2.andKept (by simp [s5, s4, s3])

theorem State.moduleDown_sound (s : State) (o m : Nat) : Sound s (s.moduleDown o m) := by
  unfold State.moduleDown
  split
  · exact Sound.refl s
  extract_lets +onlyGivenNames t
  have ht : Sound s t := sound_of_kept (by simp [t])
  clear_value t
  split
  · exact ht.trans (State.oraLoss_sound t o)
  · exact ht

/-! ### Starts -/

theorem State.powerLoss_sound (s : State) : Sound s s.powerLoss := ⟨rfl, fun _ => rfl⟩

theorem State.startWhole_sound (s : State) (kind : Nat) (b : BootFindings) : Sound s (s.startWhole kind b) := by
  unfold State.startWhole
  extract_lets t
  split
  · exact ⟨rfl, fun _ => rfl⟩
  · exact ⟨rfl, fun _ => rfl⟩

theorem State.startWarm_sound (s : State) (b : BootFindings) : Sound s (s.startWarm b) := ⟨rfl, fun _ => rfl⟩

theorem State.settle_sound (s : State) : Sound s s.settle := by
  unfold State.settle
  extract_lets +onlyGivenNames s1 b s2 s3 s4 p s5
  have h1 : s1.kept = s.kept := kept_foldl _ (fun s a => State.zeroPav_kept _ _) _ _
  clear_value s1
  have h2 : Sound s s2 := by
    have hb : b.kept = s1.kept := kept_foldl _ (fun s a => State.updOra_kept _ _ _) _ _
    simp only [s2]
    clear_value b
    exact ((sound_of_kept h1).trans (sound_of_kept hb)).trans (sound_slow b [] fun _ => Fm.wf_nil _)
  clear_value s2
  exact h2.andKept (by simp [s5, s4, s3])

theorem State.trainOra_sound (s : State) (o : Nat) : Sound s (s.trainOra o) := by
  unfold State.trainOra
  extract_lets +onlyGivenNames b one s1 v slow linked
  have hone : ∀ s m, (one s m).kept = s.kept := by
    intro s m
    simp only [one]
    split
    · simp
    · simp
    · split <;> simp
  have h1 : s1.kept = s.kept := by simp only [s1, hone]
  clear_value s1
  split
  · exact sound_of_kept (by simp [h1])
  · exact (sound_of_kept (by simp [h1])).trans (State.oraLoss_sound _ _)

theorem State.stageEdge_sound (s : State) : Sound s s.stageEdge := by
  unfold State.stageEdge
  extract_lets +onlyGivenNames ls s1 lostO lostL next s2
  have h1 : Sound s s1 := by
    have h : Sound s (allOras.foldl State.trainOra ((s.hostMode 0).hostMode 1)) :=
      (sound_of_kept (by simp)).trans (sound_foldl State.trainOra_sound _ _)
    exact h.andKept (kept_foldl _ (fun s a => State.trainLantern_kept _ _) _ _)
  clear_value s1
  exact h1.andKept (by simp [s2])

theorem State.stepStart_sound (s : State) : Sound s s.stepStart := by
  unfold State.stepStart
  extract_lets +onlyGivenNames n
  split
  · exact Sound.refl s
  split
  · exact State.stageEdge_sound s
  split
  · exact Sound.refl s
  refine sound_of_kept ?_
  clear_value n
  split
  all_goals simp

theorem State.goOn_sound (s : State) : Sound s s.goOn := by
  have h : ∀ (n : Nat) (s : State), Sound s (State.runStart n s) := by
    intro n
    induction n with
    | zero => exact fun s => Sound.refl s
    | succ n ih => exact fun s => (State.stepStart_sound s).trans (ih _)
  exact h 10 s

/-! ### The commands -/

theorem onUnit_sound (ok : Bool) (s : State) (f : State → State) (h : ∀ s, Sound s (f s)) : SoundRes s (onUnit ok s f) := by
  unfold onUnit
  split
  · exact soundRes_next (h s)
  · exact soundRes_next (Sound.refl s)

theorem onOra_sound (o : Nat) (s : State) (f : State → State) (h : ∀ s, Sound s (f s)) : SoundRes s (onOra o s f) := by
  unfold onOra
  split
  · exact soundRes_next (h s)
  · exact soundRes_next (Sound.refl s)

theorem onGarden_sound (g : Nat) (s : State) (f : State → State) (h : ∀ s, Sound s (f s)) : SoundRes s (onGarden g s f) := by
  unfold onGarden
  split
  · exact soundRes_next (h s)
  · exact soundRes_next (Sound.refl s)

theorem execCommitEnd_sound (ora garden : Nat) (err : MemErr) (broken : Option Nat) (s : State) :
    SoundRes s (execCommitEnd ora garden err broken s) := by
  unfold execCommitEnd onEngine
  refine onUnit_sound _ _ _ fun s => ?_
  extract_lets +onlyGivenNames t
  have ht : Sound s t := State.meets_sound s ora err
  clear_value t
  split
  · exact ht
  · exact ht.trans (State.runCommit_sound _ _ _ _)

theorem execNormPassEnd_sound (ora garden : Nat) (err : MemErr) (s : State) : SoundRes s (execNormPassEnd ora garden err s) := by
  unfold execNormPassEnd onEngine
  refine onUnit_sound _ _ _ fun s => ?_
  extract_lets +onlyGivenNames t v
  have ht : Sound s t := State.meets_sound s ora err
  clear_value t
  split
  · exact ht
  · exact ht.andKept (by simp)

theorem execPreparePassEnd_sound (ora garden : Nat) (err : MemErr) (s : State) : SoundRes s (execPreparePassEnd ora garden err s) := by
  unfold execPreparePassEnd onEngine
  refine onUnit_sound _ _ _ fun s => ?_
  extract_lets +onlyGivenNames t v
  have ht : Sound s t := State.meets_sound s ora err
  clear_value t
  split
  · exact ht
  · exact ht.andKept (by simp)

theorem execMemoryScrub_sound (ora : Nat) (err : MemErr) (s : State) : SoundRes s (execMemoryScrub ora err s) := by
  unfold execMemoryScrub
  refine onOra_sound _ _ _ fun s => ?_
  extract_lets +onlyGivenNames t o
  have ht : Sound s t := State.meets_sound s ora err
  clear_value t
  split
  · exact ht
  · exact ht.andKept (by simp)

theorem execUcieRetrain_sound (ora module : Nat) (res : Option UcieResult) (s : State) : SoundRes s (execUcieRetrain ora module res s) := by
  unfold execUcieRetrain onModule
  refine onUnit_sound _ _ _ fun s => ?_
  extract_lets +onlyGivenNames rate
  split
  · exact sound_of_kept (by split <;> simp)
  · exact sound_of_kept (by split <;> simp)
  · split
    · exact State.moduleDown_sound s ora module
    · exact Sound.refl s

theorem execUcieModuleDown_sound (ora module : Nat) (s : State) : SoundRes s (execUcieModuleDown ora module s) := by
  unfold execUcieModuleDown onModule
  exact onUnit_sound _ _ _ fun s => State.moduleDown_sound s ora module

theorem execEdgeRegulatorFail_sound (reg : Nat) (feeds : EdgeUnit) (s : State) : SoundRes s (execEdgeRegulatorFail reg feeds s) := by
  unfold execEdgeRegulatorFail
  extract_lets +onlyGivenNames lost
  have hl : ∀ n s, (lost n s).kept = s.kept := fun n s => rfl
  clear_value lost
  split
  · refine onUnit_sound _ _ _ fun s => ?_
    split
    · exact Sound.refl s
    · exact (sound_of_kept (by simp [hl])).trans (State.oraLoss_sound _ _)
  · exact soundRes_of_keeps (onLantern_kept _ _ _ fun s => by simp [hl])
  all_goals exact soundRes_next (sound_of_kept (by simp [hl]))

theorem execRead_sound (dest : Nat) (err : MemErr) (s : State) : SoundRes s (execRead dest err s) := by
  unfold execRead atEndpoint
  split
  · exact soundRes_next (sound_of_kept (State.readCore_kept _ _))
  split
  · exact onOra_sound _ _ _ fun s => State.readOra_sound _ _ _
  split
  · exact soundRes_next (Sound.refl s)
  split
  · exact soundRes_next (sound_of_kept (State.readPost_kept s))
  · exact soundRes_next (Sound.refl s)

theorem execSlowTierZeroing_sound (base size : Nat) (s : State) : SoundRes s (execSlowTierZeroing base size s) := by
  unfold execSlowTierZeroing
  split
  · exact soundRes_next (Sound.refl s)
  · extract_lets +onlyGivenNames zero
    refine soundRes_next ((sound_slow s (Fm.clearRange base size s.slow) (Fm.wf_clearRange _ _)).andKept ?_)
    simp only [zero]
    rw [kept_foldl _ (fun s a => State.updOra_kept _ _ _)]
    rfl

theorem execDevwrite_sound (ora : Nat) (err : MemErr) (s : State) : SoundRes s (execDevwrite ora err s) := by
  unfold execDevwrite
  refine onOra_sound _ _ _ fun s => State.oraArrival_sound _ _ _ _ _ fun p s => ?_
  extract_lets +onlyGivenNames t
  have ht : Sound s t := by
    simp only [t]
    split
    · exact sound_of_kept (State.addrError_kept _ _)
    · exact (sound_of_kept (State.mergeReads_kept _ _ _ _ _)).trans (State.gardenWrite_sound _ _ _ _ _)
  exact ht.andKept (State.sendEnd_kept _ _ _)

theorem execMemFillComplete_sound (garden : Nat) (s : State) : SoundRes s (execMemFillComplete garden s) := by
  unfold execMemFillComplete
  refine onGarden_sound _ _ _ fun s => ?_
  split
  · exact Sound.refl _
  · exact (State.fillRange_sound _ _ _ _ _).andKept (State.endJob_kept _ _ _)

theorem execRestoreComplete_sound (garden : Nat) (s : State) : SoundRes s (execRestoreComplete garden s) := by
  unfold execRestoreComplete
  refine onGarden_sound _ _ _ fun s => ?_
  split
  · exact Sound.refl _
  split
  · exact State.restoreDone_sound _ _
  · exact State.autoRestoreDone_sound _ _

theorem busbar_sound (mv : Int) (s : State) (f : State → State) (h : Sound s (f s)) : SoundRes s (busbar mv s f) := by
  unfold busbar
  split
  · exact soundRes_fault _ _
  · exact soundRes_next h

theorem execBusbarCollapse_sound (mv : Int) (micros : Nat) (s : State) : SoundRes s (execBusbarCollapse mv micros s) :=
  busbar_sound _ _ _ (by split <;> [exact State.powerLoss_sound s; exact Sound.refl s])

theorem execBusbarOvervoltage_sound (mv : Int) (micros : Nat) (s : State) : SoundRes s (execBusbarOvervoltage mv micros s) := by
  unfold execBusbarOvervoltage
  split
  · exact soundRes_fault _ _
  · exact busbar_sound _ _ _ (by split <;> [exact State.powerLoss_sound s; exact Sound.refl s])

theorem soundRes_goOn {s t : State} (h : Sound s t) : SoundRes s (.next t.goOn) := soundRes_next (h.trans (State.goOn_sound t))

theorem soundRes_start {ok : Prop} [Decidable ok] {s t : State} (h : Sound s t) :
    SoundRes s (if ok then .next t.goOn else .next s) := by
  split
  · exact soundRes_goOn h
  · exact soundRes_next (Sound.refl s)

theorem execColdBoot_sound (b : BootFindings) (s : State) : SoundRes s (execColdBoot b s) :=
  soundRes_start (State.startWhole_sound _ _ _)

theorem execFullBringUp_sound (b : BootFindings) (s : State) : SoundRes s (execFullBringUp b s) :=
  soundRes_start (State.startWhole_sound _ _ _)

theorem execWarmFastPath_sound (b : BootFindings) (s : State) : SoundRes s (execWarmFastPath b s) :=
  soundRes_start (State.startWarm_sound _ _)

theorem execSettle_sound (s : State) : SoundRes s (execSettle s) := soundRes_start (State.settle_sound _)

theorem execRstNRise_sound (micros : Nat) (s : State) : SoundRes s (execRstNRise micros s) := by
  unfold execRstNRise
  extract_lets +onlyGivenNames p t
  have ht : t.kept = s.kept := rfl
  clear_value t
  split
  · exact soundRes_goOn (sound_of_kept (by simp [ht]))
  split
  · exact soundRes_next (sound_of_kept ht)
  · exact soundRes_next (sound_of_kept (by simp [ht]))

theorem execAlertHoldEnd_sound (s : State) : SoundRes s (execAlertHoldEnd s) :=
  soundRes_goOn (sound_of_kept (State.endAlertHold_kept s))

theorem execStagehold_sound (stage : Nat) (enable : Bool) (s : State) : SoundRes s (execStagehold stage enable s) :=
  soundRes_goOn (sound_of_kept rfl)

end Sys2Proof.Machine
end

