-- ==== Sys2Proof/Laws/Regs.lean ====
section
/-! SUPPORT. Reading a register field after a field has been written. -/

namespace Sys2Proof.Machine

@[simp] theorem getReg_setReg_same (b : Blk) (off : Nat) (v : Word) (m : RegFile) : getReg b off (setReg b off v m) = v :=
  Fm.get_set_same _ _ _ _

theorem getReg_setReg_other (b b' : Blk) {off off' : Nat} (h : off' ≠ off) (v : Word) (m : RegFile) :
    getReg b' off' (setReg b off v m) = getReg b' off' m :=
  Fm.get_set_other' _ _ h _ _

/-- A word is its high part, a field and its low part. -/
theorem parts (x lo w : Nat) : x = x / 2 ^ (lo + w) * 2 ^ (lo + w) + x / 2 ^ lo % 2 ^ w * 2 ^ lo + x % 2 ^ lo := by
  have h1 := Nat.div_add_mod x (2 ^ lo)
  have h2 := Nat.div_add_mod (x / 2 ^ lo) (2 ^ w)
  rw [Nat.div_div_eq_div_mul, ← Nat.pow_add] at h2
  have h3 : x / 2 ^ (lo + w) * 2 ^ (lo + w) = 2 ^ lo * (2 ^ w * (x / 2 ^ (lo + w))) := by rw [Nat.pow_add]; ring
  have h4 : x / 2 ^ lo % 2 ^ w * 2 ^ lo = 2 ^ lo * (x / 2 ^ lo % 2 ^ w) := Nat.mul_comm _ _
  rw [h3, h4, ← Nat.mul_add, h2, h1]

theorem withBits_toNat (x : Word) (lo w v : Nat) (h : lo + w ≤ 64) :
    (withBits x lo w v).toNat = x.toNat / 2 ^ (lo + w) * 2 ^ (lo + w) + v % 2 ^ w * 2 ^ lo + x.toNat % 2 ^ lo := by
  have hp := parts x.toNat lo w
  have hx := x.isLt
  have hv : v % 2 ^ w < 2 ^ w := Nat.mod_lt _ (Nat.two_pow_pos w)
  have hl : x.toNat % 2 ^ lo < 2 ^ lo := Nat.mod_lt _ (Nat.two_pow_pos lo)
  have hmul : v % 2 ^ w * 2 ^ lo + 2 ^ lo ≤ 2 ^ (lo + w) := by
    calc v % 2 ^ w * 2 ^ lo + 2 ^ lo = (v % 2 ^ w + 1) * 2 ^ lo := by ring
      _ ≤ 2 ^ w * 2 ^ lo := Nat.mul_le_mul_right _ hv
      _ = 2 ^ (lo + w) := by rw [Nat.pow_add]; ring
  have hd : 2 ^ (lo + w) ∣ 2 ^ 64 := Nat.pow_dvd_pow 2 h
  have hhi : x.toNat / 2 ^ (lo + w) * 2 ^ (lo + w) + 2 ^ (lo + w) ≤ 2 ^ 64 := by
    obtain ⟨k, hk⟩ := hd
    have : x.toNat / 2 ^ (lo + w) < k := Nat.div_lt_of_lt_mul (by omega)
    calc x.toNat / 2 ^ (lo + w) * 2 ^ (lo + w) + 2 ^ (lo + w) = (x.toNat / 2 ^ (lo + w) + 1) * 2 ^ (lo + w) := by ring
      _ ≤ k * 2 ^ (lo + w) := Nat.mul_le_mul_right _ this
      _ = 2 ^ 64 := by rw [hk]; ring
  unfold withBits
  rw [BitVec.toNat_ofNat, Nat.mod_eq_of_lt] <;> omega

theorem bitsOf_withBits_same (x : Word) (lo w v : Nat) (h : lo + w ≤ 64) : bitsOf (withBits x lo w v) lo w = v % 2 ^ w := by
  have hl : x.toNat % 2 ^ lo < 2 ^ lo := Nat.mod_lt _ (Nat.two_pow_pos lo)
  unfold bitsOf
  rw [withBits_toNat x lo w v h]
  have e : x.toNat / 2 ^ (lo + w) * 2 ^ (lo + w) + v % 2 ^ w * 2 ^ lo + x.toNat % 2 ^ lo =
      x.toNat % 2 ^ lo + 2 ^ lo * (v % 2 ^ w + 2 ^ w * (x.toNat / 2 ^ (lo + w))) := by rw [Nat.pow_add]; ring
  rw [e, Nat.add_mul_div_left _ _ (Nat.two_pow_pos lo), Nat.div_eq_of_lt hl, Nat.zero_add, Nat.add_mul_mod_self_left, Nat.mod_mod]

/-- A field below or above the one written reads as before. -/
theorem bitsOf_withBits_other (x : Word) {lo w lo' w' : Nat} (v : Nat) (h : lo + w ≤ 64) (hd : lo' + w' ≤ lo ∨ lo + w ≤ lo') :
    bitsOf (withBits x lo w v) lo' w' = bitsOf x lo' w' := by
  have hl : x.toNat % 2 ^ lo < 2 ^ lo := Nat.mod_lt _ (Nat.two_pow_pos lo)
  have hv : v % 2 ^ w < 2 ^ w := Nat.mod_lt _ (Nat.two_pow_pos w)
  unfold bitsOf
  rw [withBits_toNat x lo w v h]
  rcases hd with hd | hd
  · have key : ∀ a : Nat, a / 2 ^ lo' % 2 ^ w' = a % 2 ^ lo / 2 ^ lo' % 2 ^ w' := by
      intro a
      apply Nat.eq_of_testBit_eq
      intro i
      simp only [Nat.testBit_mod_two_pow, Nat.testBit_div_two_pow]
      by_cases hi : i < w'
      · have : lo' + i < lo := by omega
        simp [hi, this, Nat.add_comm]
      · simp [hi]
    have e : (x.toNat / 2 ^ (lo + w) * 2 ^ (lo + w) + v % 2 ^ w * 2 ^ lo + x.toNat % 2 ^ lo) % 2 ^ lo = x.toNat % 2 ^ lo := by
      have : x.toNat / 2 ^ (lo + w) * 2 ^ (lo + w) + v % 2 ^ w * 2 ^ lo + x.toNat % 2 ^ lo =
        x.toNat % 2 ^ lo + 2 ^ lo * (v % 2 ^ w + 2 ^ w * (x.toNat / 2 ^ (lo + w))) := by rw [Nat.pow_add]; ring
      rw [this, Nat.add_mul_mod_self_left, Nat.mod_mod]
    rw [key, e, ← key]
  · obtain ⟨k, rfl⟩ := Nat.exists_eq_add_of_le hd
    have e : ∀ a : Nat, a / 2 ^ (lo + w + k) = a / 2 ^ (lo + w) / 2 ^ k := fun a => by rw [Nat.div_div_eq_div_mul, ← Nat.pow_add]
    rw [e, e]
    congr 2
    have hs : v % 2 ^ w * 2 ^ lo + x.toNat % 2 ^ lo < 2 ^ (lo + w) := by
      calc v % 2 ^ w * 2 ^ lo + x.toNat % 2 ^ lo < v % 2 ^ w * 2 ^ lo + 2 ^ lo := by omega
        _ = (v % 2 ^ w + 1) * 2 ^ lo := by ring
        _ ≤ 2 ^ w * 2 ^ lo := Nat.mul_le_mul_right _ hv
        _ = 2 ^ (lo + w) := by rw [Nat.pow_add]; ring
    rw [Nat.add_assoc, Nat.add_comm, Nat.add_mul_div_right _ _ (Nat.two_pow_pos _), Nat.div_eq_of_lt hs, Nat.zero_add]

/-- A field reads as it was written, cut to its width. -/
theorem getF_setF_same (f : Fld) (v : Nat) (m : RegFile) (h : f.lo + f.w ≤ 64) : getF f (setF f v m) = v % 2 ^ f.w := by
  unfold getF setF
  rw [getReg_setReg_same, bitsOf_withBits_same _ _ _ _ h]

/-- A field of another register, or another part of the same, reads as before. -/
theorem getF_setF_other (f g : Fld) (v : Nat) (m : RegFile) (h : f.lo + f.w ≤ 64)
    (hd : g.off ≠ f.off ∨ (g.blk = f.blk ∧ (g.lo + g.w ≤ f.lo ∨ f.lo + f.w ≤ g.lo))) : getF g (setF f v m) = getF g m := by
  unfold getF setF
  by_cases ho : g.off = f.off
  · rcases hd with hd | ⟨hb, hd⟩
    · exact absurd ho hd
    · rw [ho, hb, getReg_setReg_same, bitsOf_withBits_other _ _ h hd]
  · rw [getReg_setReg_other _ _ ho]

theorem getF_lt (f : Fld) (m : RegFile) : getF f m < 2 ^ f.w := Nat.mod_lt _ (Nat.two_pow_pos _)

/-- A saturating count. -/
theorem getF_incF_same (f : Fld) (n : Nat) (m : RegFile) (h : f.lo + f.w ≤ 64) :
    getF f (incF f n m) = min (getF f m + n) (2 ^ f.w - 1) := by
  have := Nat.two_pow_pos f.w
  unfold incF
  rw [getF_setF_same _ _ _ h, Nat.mod_eq_of_lt]
  omega

end Sys2Proof.Machine
end

