-- ==== Sys2Proof/Laws/State.lean ====
section
/-! SUPPORT. What each update of a part of the state leaves in every other field, and what a unit reads as after it. -/

namespace Sys2Proof.Machine

variable (s : State)

/-! ### Units -/

@[simp] theorem State.setCore_same (c : Nat) (k : Core) : (s.setCore c k).core c = k := Fm.get_set_same _ _ _ _
theorem State.setCore_other (c : Nat) (k : Core) {d : Nat} (h : d ≠ c) : (s.setCore c k).core d = s.core d := Fm.get_set_other _ h _ _
@[simp] theorem State.updCore_same (c : Nat) (f : Core → Core) : (s.updCore c f).core c = f (s.core c) := Fm.get_set_same _ _ _ _
theorem State.updCore_other (c : Nat) (f : Core → Core) {d : Nat} (h : d ≠ c) : (s.updCore c f).core d = s.core d := Fm.get_set_other _ h _ _
@[simp] theorem State.setPav_same (p : Nat) (v : Pav) : (s.setPav p v).pav p = v := Fm.get_set_same _ _ _ _
theorem State.setPav_other (p : Nat) (v : Pav) {d : Nat} (h : d ≠ p) : (s.setPav p v).pav d = s.pav d := Fm.get_set_other _ h _ _
@[simp] theorem State.updPav_same (p : Nat) (f : Pav → Pav) : (s.updPav p f).pav p = f (s.pav p) := Fm.get_set_same _ _ _ _
theorem State.updPav_other (p : Nat) (f : Pav → Pav) {d : Nat} (h : d ≠ p) : (s.updPav p f).pav d = s.pav d := Fm.get_set_other _ h _ _
@[simp] theorem State.updSite_same (c : Nat) (f : Site → Site) : (s.updSite c f).site c = f (s.site c) := Fm.get_set_same _ _ _ _
theorem State.updSite_other (c : Nat) (f : Site → Site) {d : Nat} (h : d ≠ c) : (s.updSite c f).site d = s.site d := Fm.get_set_other _ h _ _
@[simp] theorem State.setOra_same (o : Nat) (v : Ora) : (s.setOra o v).orang o = v := Fm.get_set_same _ _ _ _
theorem State.setOra_other (o : Nat) (v : Ora) {d : Nat} (h : d ≠ o) : (s.setOra o v).orang d = s.orang d := Fm.get_set_other _ h _ _
@[simp] theorem State.updOra_same (o : Nat) (f : Ora → Ora) : (s.updOra o f).orang o = f (s.orang o) := Fm.get_set_same _ _ _ _
theorem State.updOra_other (o : Nat) (f : Ora → Ora) {d : Nat} (h : d ≠ o) : (s.updOra o f).orang d = s.orang d := Fm.get_set_other _ h _ _
@[simp] theorem State.updGarden_same (g : Nat) (f : Gdn → Gdn) : (s.updGarden g f).garden g = f (s.garden g) := Fm.get_set_same _ _ _ _
theorem State.updGarden_other (g : Nat) (f : Gdn → Gdn) {d : Nat} (h : d ≠ g) : (s.updGarden g f).garden d = s.garden d := Fm.get_set_other _ h _ _
@[simp] theorem State.updChan_same (n : Nat) (f : Chan → Chan) : (s.updChan n f).chan n = f (s.chan n) := Fm.get_set_same _ _ _ _
theorem State.updChan_other (n : Nat) (f : Chan → Chan) {d : Nat} (h : d ≠ n) : (s.updChan n f).chan d = s.chan d := Fm.get_set_other _ h _ _
@[simp] theorem State.updHostPort_same (n : Nat) (f : Port → Port) : (s.updHostPort n f).hostPort n = f (s.hostPort n) := Fm.get_set_same _ _ _ _
theorem State.updHostPort_other (n : Nat) (f : Port → Port) {d : Nat} (h : d ≠ n) : (s.updHostPort n f).hostPort d = s.hostPort d := Fm.get_set_other _ h _ _
@[simp] theorem State.updPeerPort_same (n : Nat) (f : Port → Port) : (s.updPeerPort n f).peerPort n = f (s.peerPort n) := Fm.get_set_same _ _ _ _
theorem State.updPeerPort_other (n : Nat) (f : Port → Port) {d : Nat} (h : d ≠ n) : (s.updPeerPort n f).peerPort d = s.peerPort d := Fm.get_set_other _ h _ _
@[simp] theorem State.updSparePort_same (n : Nat) (f : Port → Port) : (s.updSparePort n f).sparePort n = f (s.sparePort n) := Fm.get_set_same _ _ _ _
theorem State.updSparePort_other (n : Nat) (f : Port → Port) {d : Nat} (h : d ≠ n) : (s.updSparePort n f).sparePort d = s.sparePort d := Fm.get_set_other _ h _ _
@[simp] theorem State.updLantern_same (n : Nat) (f : Port → Port) : (s.updLantern n f).lantern n = f (s.lantern n) := Fm.get_set_same _ _ _ _
theorem State.updLantern_other (n : Nat) (f : Port → Port) {d : Nat} (h : d ≠ n) : (s.updLantern n f).lantern d = s.lantern d := Fm.get_set_other _ h _ _
@[simp] theorem State.updCartridge_same (n : Nat) (f : Cartridge → Cartridge) : (s.updCartridge n f).cartridge n = f (s.cartridge n) := Fm.get_set_same _ _ _ _
theorem State.updCartridge_other (n : Nat) (f : Cartridge → Cartridge) {d : Nat} (h : d ≠ n) : (s.updCartridge n f).cartridge d = s.cartridge d := Fm.get_set_other _ h _ _

/-! ### Fields -/

@[simp] theorem State.setCore_pavs (c : Nat) (k : Core) : (s.setCore c k).pavs = s.pavs := rfl
@[simp] theorem State.setCore_sites (c : Nat) (k : Core) : (s.setCore c k).sites = s.sites := rfl
@[simp] theorem State.setCore_oras (c : Nat) (k : Core) : (s.setCore c k).oras = s.oras := rfl
@[simp] theorem State.setCore_gardens (c : Nat) (k : Core) : (s.setCore c k).gardens = s.gardens := rfl
@[simp] theorem State.setCore_chans (c : Nat) (k : Core) : (s.setCore c k).chans = s.chans := rfl
@[simp] theorem State.setCore_hostPorts (c : Nat) (k : Core) : (s.setCore c k).hostPorts = s.hostPorts := rfl
@[simp] theorem State.setCore_peerPorts (c : Nat) (k : Core) : (s.setCore c k).peerPorts = s.peerPorts := rfl
@[simp] theorem State.setCore_sparePorts (c : Nat) (k : Core) : (s.setCore c k).sparePorts = s.sparePorts := rfl
@[simp] theorem State.setCore_lanterns (c : Nat) (k : Core) : (s.setCore c k).lanterns = s.lanterns := rfl
@[simp] theorem State.setCore_cartridges (c : Nat) (k : Core) : (s.setCore c k).cartridges = s.cartridges := rfl
@[simp] theorem State.setCore_swaps (c : Nat) (k : Core) : (s.setCore c k).swaps = s.swaps := rfl
@[simp] theorem State.setCore_sends (c : Nat) (k : Core) : (s.setCore c k).sends = s.sends := rfl
@[simp] theorem State.setCore_recvs (c : Nat) (k : Core) : (s.setCore c k).recvs = s.recvs := rfl
@[simp] theorem State.setCore_endOut (c : Nat) (k : Core) : (s.setCore c k).endOut = s.endOut := rfl
@[simp] theorem State.setCore_endAve (c : Nat) (k : Core) : (s.setCore c k).endAve = s.endAve := rfl
@[simp] theorem State.setCore_slow (c : Nat) (k : Core) : (s.setCore c k).slow = s.slow := rfl
@[simp] theorem State.setCore_bridgeOut (c : Nat) (k : Core) : (s.setCore c k).bridgeOut = s.bridgeOut := rfl
@[simp] theorem State.setCore_bridge (c : Nat) (k : Core) : (s.setCore c k).bridge = s.bridge := rfl
@[simp] theorem State.setCore_pm (c : Nat) (k : Core) : (s.setCore c k).pm = s.pm := rfl
@[simp] theorem State.setCore_sd (c : Nat) (k : Core) : (s.setCore c k).sd = s.sd := rfl
@[simp] theorem State.setCore_pw (c : Nat) (k : Core) : (s.setCore c k).pw = s.pw := rfl
@[simp] theorem State.setCore_wd (c : Nat) (k : Core) : (s.setCore c k).wd = s.wd := rfl
@[simp] theorem State.setCore_post (c : Nat) (k : Core) : (s.setCore c k).post = s.post := rfl
@[simp] theorem State.setCore_disc (c : Nat) (k : Core) : (s.setCore c k).disc = s.disc := rfl
@[simp] theorem State.setCore_ice (c : Nat) (k : Core) : (s.setCore c k).ice = s.ice := rfl
@[simp] theorem State.setCore_power (c : Nat) (k : Core) : (s.setCore c k).power = s.power := rfl
@[simp] theorem State.setCore_start (c : Nat) (k : Core) : (s.setCore c k).start = s.start := rfl
@[simp] theorem State.setCore_frank (c : Nat) (k : Core) : (s.setCore c k).frank = s.frank := rfl
@[simp] theorem State.setCore_pins (c : Nat) (k : Core) : (s.setCore c k).pins = s.pins := rfl
@[simp] theorem State.setCore_test (c : Nat) (k : Core) : (s.setCore c k).test = s.test := rfl
@[simp] theorem State.setCore_smbOut (c : Nat) (k : Core) : (s.setCore c k).smbOut = s.smbOut := rfl
@[simp] theorem State.setCore_tags (c : Nat) (k : Core) : (s.setCore c k).tags = s.tags := rfl
@[simp] theorem State.setCore_records (c : Nat) (k : Core) : (s.setCore c k).records = s.records := rfl
@[simp] theorem State.setCore_shadows (c : Nat) (k : Core) : (s.setCore c k).shadows = s.shadows := rfl
@[simp] theorem State.setCore_shadowInvalid (c : Nat) (k : Core) : (s.setCore c k).shadowInvalid = s.shadowInvalid := rfl
@[simp] theorem State.setCore_cfgActive (c : Nat) (k : Core) : (s.setCore c k).cfgActive = s.cfgActive := rfl
@[simp] theorem State.setCore_cfgStaged (c : Nat) (k : Core) : (s.setCore c k).cfgStaged = s.cfgStaged := rfl
@[simp] theorem State.setCore_addrErr (c : Nat) (k : Core) : (s.setCore c k).addrErr = s.addrErr := rfl
@[simp] theorem State.setCore_srcLocked (c : Nat) (k : Core) : (s.setCore c k).srcLocked = s.srcLocked := rfl
@[simp] theorem State.setCore_srcHoldover (c : Nat) (k : Core) : (s.setCore c k).srcHoldover = s.srcHoldover := rfl
@[simp] theorem State.setCore_met (c : Nat) (k : Core) : (s.setCore c k).met = s.met := rfl
@[simp] theorem State.setCore_metRepairs (c : Nat) (k : Core) : (s.setCore c k).metRepairs = s.metRepairs := rfl
@[simp] theorem State.setCore_boot (c : Nat) (k : Core) : (s.setCore c k).boot = s.boot := rfl
@[simp] theorem State.setCore_nextIncident (c : Nat) (k : Core) : (s.setCore c k).nextIncident = s.nextIncident := rfl
@[simp] theorem State.setCore_highSince (c : Nat) (k : Core) : (s.setCore c k).highSince = s.highSince := rfl
@[simp] theorem State.setCore_bellRel (c : Nat) (k : Core) : (s.setCore c k).bellRel = s.bellRel := rfl
@[simp] theorem State.setCore_toZero (c : Nat) (k : Core) : (s.setCore c k).toZero = s.toZero := rfl
@[simp] theorem State.setCore_freeCtr (c : Nat) (k : Core) : (s.setCore c k).freeCtr = s.freeCtr := rfl
@[simp] theorem State.setCore_pending (c : Nat) (k : Core) : (s.setCore c k).pending = s.pending := rfl

@[simp] theorem State.updCore_pavs (c : Nat) (f : Core → Core) : (s.updCore c f).pavs = s.pavs := rfl
@[simp] theorem State.updCore_sites (c : Nat) (f : Core → Core) : (s.updCore c f).sites = s.sites := rfl
@[simp] theorem State.updCore_oras (c : Nat) (f : Core → Core) : (s.updCore c f).oras = s.oras := rfl
@[simp] theorem State.updCore_gardens (c : Nat) (f : Core → Core) : (s.updCore c f).gardens = s.gardens := rfl
@[simp] theorem State.updCore_chans (c : Nat) (f : Core → Core) : (s.updCore c f).chans = s.chans := rfl
@[simp] theorem State.updCore_hostPorts (c : Nat) (f : Core → Core) : (s.updCore c f).hostPorts = s.hostPorts := rfl
@[simp] theorem State.updCore_peerPorts (c : Nat) (f : Core → Core) : (s.updCore c f).peerPorts = s.peerPorts := rfl
@[simp] theorem State.updCore_sparePorts (c : Nat) (f : Core → Core) : (s.updCore c f).sparePorts = s.sparePorts := rfl
@[simp] theorem State.updCore_lanterns (c : Nat) (f : Core → Core) : (s.updCore c f).lanterns = s.lanterns := rfl
@[simp] theorem State.updCore_cartridges (c : Nat) (f : Core → Core) : (s.updCore c f).cartridges = s.cartridges := rfl
@[simp] theorem State.updCore_swaps (c : Nat) (f : Core → Core) : (s.updCore c f).swaps = s.swaps := rfl
@[simp] theorem State.updCore_sends (c : Nat) (f : Core → Core) : (s.updCore c f).sends = s.sends := rfl
@[simp] theorem State.updCore_recvs (c : Nat) (f : Core → Core) : (s.updCore c f).recvs = s.recvs := rfl
@[simp] theorem State.updCore_endOut (c : Nat) (f : Core → Core) : (s.updCore c f).endOut = s.endOut := rfl
@[simp] theorem State.updCore_endAve (c : Nat) (f : Core → Core) : (s.updCore c f).endAve = s.endAve := rfl
@[simp] theorem State.updCore_slow (c : Nat) (f : Core → Core) : (s.updCore c f).slow = s.slow := rfl
@[simp] theorem State.updCore_bridgeOut (c : Nat) (f : Core → Core) : (s.updCore c f).bridgeOut = s.bridgeOut := rfl
@[simp] theorem State.updCore_bridge (c : Nat) (f : Core → Core) : (s.updCore c f).bridge = s.bridge := rfl
@[simp] theorem State.updCore_pm (c : Nat) (f : Core → Core) : (s.updCore c f).pm = s.pm := rfl
@[simp] theorem State.updCore_sd (c : Nat) (f : Core → Core) : (s.updCore c f).sd = s.sd := rfl
@[simp] theorem State.updCore_pw (c : Nat) (f : Core → Core) : (s.updCore c f).pw = s.pw := rfl
@[simp] theorem State.updCore_wd (c : Nat) (f : Core → Core) : (s.updCore c f).wd = s.wd := rfl
@[simp] theorem State.updCore_post (c : Nat) (f : Core → Core) : (s.updCore c f).post = s.post := rfl
@[simp] theorem State.updCore_disc (c : Nat) (f : Core → Core) : (s.updCore c f).disc = s.disc := rfl
@[simp] theorem State.updCore_ice (c : Nat) (f : Core → Core) : (s.updCore c f).ice = s.ice := rfl
@[simp] theorem State.updCore_power (c : Nat) (f : Core → Core) : (s.updCore c f).power = s.power := rfl
@[simp] theorem State.updCore_start (c : Nat) (f : Core → Core) : (s.updCore c f).start = s.start := rfl
@[simp] theorem State.updCore_frank (c : Nat) (f : Core → Core) : (s.updCore c f).frank = s.frank := rfl
@[simp] theorem State.updCore_pins (c : Nat) (f : Core → Core) : (s.updCore c f).pins = s.pins := rfl
@[simp] theorem State.updCore_test (c : Nat) (f : Core → Core) : (s.updCore c f).test = s.test := rfl
@[simp] theorem State.updCore_smbOut (c : Nat) (f : Core → Core) : (s.updCore c f).smbOut = s.smbOut := rfl
@[simp] theorem State.updCore_tags (c : Nat) (f : Core → Core) : (s.updCore c f).tags = s.tags := rfl
@[simp] theorem State.updCore_records (c : Nat) (f : Core → Core) : (s.updCore c f).records = s.records := rfl
@[simp] theorem State.updCore_shadows (c : Nat) (f : Core → Core) : (s.updCore c f).shadows = s.shadows := rfl
@[simp] theorem State.updCore_shadowInvalid (c : Nat) (f : Core → Core) : (s.updCore c f).shadowInvalid = s.shadowInvalid := rfl
@[simp] theorem State.updCore_cfgActive (c : Nat) (f : Core → Core) : (s.updCore c f).cfgActive = s.cfgActive := rfl
@[simp] theorem State.updCore_cfgStaged (c : Nat) (f : Core → Core) : (s.updCore c f).cfgStaged = s.cfgStaged := rfl
@[simp] theorem State.updCore_addrErr (c : Nat) (f : Core → Core) : (s.updCore c f).addrErr = s.addrErr := rfl
@[simp] theorem State.updCore_srcLocked (c : Nat) (f : Core → Core) : (s.updCore c f).srcLocked = s.srcLocked := rfl
@[simp] theorem State.updCore_srcHoldover (c : Nat) (f : Core → Core) : (s.updCore c f).srcHoldover = s.srcHoldover := rfl
@[simp] theorem State.updCore_met (c : Nat) (f : Core → Core) : (s.updCore c f).met = s.met := rfl
@[simp] theorem State.updCore_metRepairs (c : Nat) (f : Core → Core) : (s.updCore c f).metRepairs = s.metRepairs := rfl
@[simp] theorem State.updCore_boot (c : Nat) (f : Core → Core) : (s.updCore c f).boot = s.boot := rfl
@[simp] theorem State.updCore_nextIncident (c : Nat) (f : Core → Core) : (s.updCore c f).nextIncident = s.nextIncident := rfl
@[simp] theorem State.updCore_highSince (c : Nat) (f : Core → Core) : (s.updCore c f).highSince = s.highSince := rfl
@[simp] theorem State.updCore_bellRel (c : Nat) (f : Core → Core) : (s.updCore c f).bellRel = s.bellRel := rfl
@[simp] theorem State.updCore_toZero (c : Nat) (f : Core → Core) : (s.updCore c f).toZero = s.toZero := rfl
@[simp] theorem State.updCore_freeCtr (c : Nat) (f : Core → Core) : (s.updCore c f).freeCtr = s.freeCtr := rfl
@[simp] theorem State.updCore_pending (c : Nat) (f : Core → Core) : (s.updCore c f).pending = s.pending := rfl

@[simp] theorem State.setPav_cores (p : Nat) (v : Pav) : (s.setPav p v).cores = s.cores := rfl
@[simp] theorem State.setPav_sites (p : Nat) (v : Pav) : (s.setPav p v).sites = s.sites := rfl
@[simp] theorem State.setPav_oras (p : Nat) (v : Pav) : (s.setPav p v).oras = s.oras := rfl
@[simp] theorem State.setPav_gardens (p : Nat) (v : Pav) : (s.setPav p v).gardens = s.gardens := rfl
@[simp] theorem State.setPav_chans (p : Nat) (v : Pav) : (s.setPav p v).chans = s.chans := rfl
@[simp] theorem State.setPav_hostPorts (p : Nat) (v : Pav) : (s.setPav p v).hostPorts = s.hostPorts := rfl
@[simp] theorem State.setPav_peerPorts (p : Nat) (v : Pav) : (s.setPav p v).peerPorts = s.peerPorts := rfl
@[simp] theorem State.setPav_sparePorts (p : Nat) (v : Pav) : (s.setPav p v).sparePorts = s.sparePorts := rfl
@[simp] theorem State.setPav_lanterns (p : Nat) (v : Pav) : (s.setPav p v).lanterns = s.lanterns := rfl
@[simp] theorem State.setPav_cartridges (p : Nat) (v : Pav) : (s.setPav p v).cartridges = s.cartridges := rfl
@[simp] theorem State.setPav_swaps (p : Nat) (v : Pav) : (s.setPav p v).swaps = s.swaps := rfl
@[simp] theorem State.setPav_sends (p : Nat) (v : Pav) : (s.setPav p v).sends = s.sends := rfl
@[simp] theorem State.setPav_recvs (p : Nat) (v : Pav) : (s.setPav p v).recvs = s.recvs := rfl
@[simp] theorem State.setPav_endOut (p : Nat) (v : Pav) : (s.setPav p v).endOut = s.endOut := rfl
@[simp] theorem State.setPav_endAve (p : Nat) (v : Pav) : (s.setPav p v).endAve = s.endAve := rfl
@[simp] theorem State.setPav_slow (p : Nat) (v : Pav) : (s.setPav p v).slow = s.slow := rfl
@[simp] theorem State.setPav_bridgeOut (p : Nat) (v : Pav) : (s.setPav p v).bridgeOut = s.bridgeOut := rfl
@[simp] theorem State.setPav_bridge (p : Nat) (v : Pav) : (s.setPav p v).bridge = s.bridge := rfl
@[simp] theorem State.setPav_pm (p : Nat) (v : Pav) : (s.setPav p v).pm = s.pm := rfl
@[simp] theorem State.setPav_sd (p : Nat) (v : Pav) : (s.setPav p v).sd = s.sd := rfl
@[simp] theorem State.setPav_pw (p : Nat) (v : Pav) : (s.setPav p v).pw = s.pw := rfl
@[simp] theorem State.setPav_wd (p : Nat) (v : Pav) : (s.setPav p v).wd = s.wd := rfl
@[simp] theorem State.setPav_post (p : Nat) (v : Pav) : (s.setPav p v).post = s.post := rfl
@[simp] theorem State.setPav_disc (p : Nat) (v : Pav) : (s.setPav p v).disc = s.disc := rfl
@[simp] theorem State.setPav_ice (p : Nat) (v : Pav) : (s.setPav p v).ice = s.ice := rfl
@[simp] theorem State.setPav_power (p : Nat) (v : Pav) : (s.setPav p v).power = s.power := rfl
@[simp] theorem State.setPav_start (p : Nat) (v : Pav) : (s.setPav p v).start = s.start := rfl
@[simp] theorem State.setPav_frank (p : Nat) (v : Pav) : (s.setPav p v).frank = s.frank := rfl
@[simp] theorem State.setPav_pins (p : Nat) (v : Pav) : (s.setPav p v).pins = s.pins := rfl
@[simp] theorem State.setPav_test (p : Nat) (v : Pav) : (s.setPav p v).test = s.test := rfl
@[simp] theorem State.setPav_smbOut (p : Nat) (v : Pav) : (s.setPav p v).smbOut = s.smbOut := rfl
@[simp] theorem State.setPav_tags (p : Nat) (v : Pav) : (s.setPav p v).tags = s.tags := rfl
@[simp] theorem State.setPav_records (p : Nat) (v : Pav) : (s.setPav p v).records = s.records := rfl
@[simp] theorem State.setPav_shadows (p : Nat) (v : Pav) : (s.setPav p v).shadows = s.shadows := rfl
@[simp] theorem State.setPav_shadowInvalid (p : Nat) (v : Pav) : (s.setPav p v).shadowInvalid = s.shadowInvalid := rfl
@[simp] theorem State.setPav_cfgActive (p : Nat) (v : Pav) : (s.setPav p v).cfgActive = s.cfgActive := rfl
@[simp] theorem State.setPav_cfgStaged (p : Nat) (v : Pav) : (s.setPav p v).cfgStaged = s.cfgStaged := rfl
@[simp] theorem State.setPav_addrErr (p : Nat) (v : Pav) : (s.setPav p v).addrErr = s.addrErr := rfl
@[simp] theorem State.setPav_srcLocked (p : Nat) (v : Pav) : (s.setPav p v).srcLocked = s.srcLocked := rfl
@[simp] theorem State.setPav_srcHoldover (p : Nat) (v : Pav) : (s.setPav p v).srcHoldover = s.srcHoldover := rfl
@[simp] theorem State.setPav_met (p : Nat) (v : Pav) : (s.setPav p v).met = s.met := rfl
@[simp] theorem State.setPav_metRepairs (p : Nat) (v : Pav) : (s.setPav p v).metRepairs = s.metRepairs := rfl
@[simp] theorem State.setPav_boot (p : Nat) (v : Pav) : (s.setPav p v).boot = s.boot := rfl
@[simp] theorem State.setPav_nextIncident (p : Nat) (v : Pav) : (s.setPav p v).nextIncident = s.nextIncident := rfl
@[simp] theorem State.setPav_highSince (p : Nat) (v : Pav) : (s.setPav p v).highSince = s.highSince := rfl
@[simp] theorem State.setPav_bellRel (p : Nat) (v : Pav) : (s.setPav p v).bellRel = s.bellRel := rfl
@[simp] theorem State.setPav_toZero (p : Nat) (v : Pav) : (s.setPav p v).toZero = s.toZero := rfl
@[simp] theorem State.setPav_freeCtr (p : Nat) (v : Pav) : (s.setPav p v).freeCtr = s.freeCtr := rfl
@[simp] theorem State.setPav_pending (p : Nat) (v : Pav) : (s.setPav p v).pending = s.pending := rfl

@[simp] theorem State.updPav_cores (p : Nat) (f : Pav → Pav) : (s.updPav p f).cores = s.cores := rfl
@[simp] theorem State.updPav_sites (p : Nat) (f : Pav → Pav) : (s.updPav p f).sites = s.sites := rfl
@[simp] theorem State.updPav_oras (p : Nat) (f : Pav → Pav) : (s.updPav p f).oras = s.oras := rfl
@[simp] theorem State.updPav_gardens (p : Nat) (f : Pav → Pav) : (s.updPav p f).gardens = s.gardens := rfl
@[simp] theorem State.updPav_chans (p : Nat) (f : Pav → Pav) : (s.updPav p f).chans = s.chans := rfl
@[simp] theorem State.updPav_hostPorts (p : Nat) (f : Pav → Pav) : (s.updPav p f).hostPorts = s.hostPorts := rfl
@[simp] theorem State.updPav_peerPorts (p : Nat) (f : Pav → Pav) : (s.updPav p f).peerPorts = s.peerPorts := rfl
@[simp] theorem State.updPav_sparePorts (p : Nat) (f : Pav → Pav) : (s.updPav p f).sparePorts = s.sparePorts := rfl
@[simp] theorem State.updPav_lanterns (p : Nat) (f : Pav → Pav) : (s.updPav p f).lanterns = s.lanterns := rfl
@[simp] theorem State.updPav_cartridges (p : Nat) (f : Pav → Pav) : (s.updPav p f).cartridges = s.cartridges := rfl
@[simp] theorem State.updPav_swaps (p : Nat) (f : Pav → Pav) : (s.updPav p f).swaps = s.swaps := rfl
@[simp] theorem State.updPav_sends (p : Nat) (f : Pav → Pav) : (s.updPav p f).sends = s.sends := rfl
@[simp] theorem State.updPav_recvs (p : Nat) (f : Pav → Pav) : (s.updPav p f).recvs = s.recvs := rfl
@[simp] theorem State.updPav_endOut (p : Nat) (f : Pav → Pav) : (s.updPav p f).endOut = s.endOut := rfl
@[simp] theorem State.updPav_endAve (p : Nat) (f : Pav → Pav) : (s.updPav p f).endAve = s.endAve := rfl
@[simp] theorem State.updPav_slow (p : Nat) (f : Pav → Pav) : (s.updPav p f).slow = s.slow := rfl
@[simp] theorem State.updPav_bridgeOut (p : Nat) (f : Pav → Pav) : (s.updPav p f).bridgeOut = s.bridgeOut := rfl
@[simp] theorem State.updPav_bridge (p : Nat) (f : Pav → Pav) : (s.updPav p f).bridge = s.bridge := rfl
@[simp] theorem State.updPav_pm (p : Nat) (f : Pav → Pav) : (s.updPav p f).pm = s.pm := rfl
@[simp] theorem State.updPav_sd (p : Nat) (f : Pav → Pav) : (s.updPav p f).sd = s.sd := rfl
@[simp] theorem State.updPav_pw (p : Nat) (f : Pav → Pav) : (s.updPav p f).pw = s.pw := rfl
@[simp] theorem State.updPav_wd (p : Nat) (f : Pav → Pav) : (s.updPav p f).wd = s.wd := rfl
@[simp] theorem State.updPav_post (p : Nat) (f : Pav → Pav) : (s.updPav p f).post = s.post := rfl
@[simp] theorem State.updPav_disc (p : Nat) (f : Pav → Pav) : (s.updPav p f).disc = s.disc := rfl
@[simp] theorem State.updPav_ice (p : Nat) (f : Pav → Pav) : (s.updPav p f).ice = s.ice := rfl
@[simp] theorem State.updPav_power (p : Nat) (f : Pav → Pav) : (s.updPav p f).power = s.power := rfl
@[simp] theorem State.updPav_start (p : Nat) (f : Pav → Pav) : (s.updPav p f).start = s.start := rfl
@[simp] theorem State.updPav_frank (p : Nat) (f : Pav → Pav) : (s.updPav p f).frank = s.frank := rfl
@[simp] theorem State.updPav_pins (p : Nat) (f : Pav → Pav) : (s.updPav p f).pins = s.pins := rfl
@[simp] theorem State.updPav_test (p : Nat) (f : Pav → Pav) : (s.updPav p f).test = s.test := rfl
@[simp] theorem State.updPav_smbOut (p : Nat) (f : Pav → Pav) : (s.updPav p f).smbOut = s.smbOut := rfl
@[simp] theorem State.updPav_tags (p : Nat) (f : Pav → Pav) : (s.updPav p f).tags = s.tags := rfl
@[simp] theorem State.updPav_records (p : Nat) (f : Pav → Pav) : (s.updPav p f).records = s.records := rfl
@[simp] theorem State.updPav_shadows (p : Nat) (f : Pav → Pav) : (s.updPav p f).shadows = s.shadows := rfl
@[simp] theorem State.updPav_shadowInvalid (p : Nat) (f : Pav → Pav) : (s.updPav p f).shadowInvalid = s.shadowInvalid := rfl
@[simp] theorem State.updPav_cfgActive (p : Nat) (f : Pav → Pav) : (s.updPav p f).cfgActive = s.cfgActive := rfl
@[simp] theorem State.updPav_cfgStaged (p : Nat) (f : Pav → Pav) : (s.updPav p f).cfgStaged = s.cfgStaged := rfl
@[simp] theorem State.updPav_addrErr (p : Nat) (f : Pav → Pav) : (s.updPav p f).addrErr = s.addrErr := rfl
@[simp] theorem State.updPav_srcLocked (p : Nat) (f : Pav → Pav) : (s.updPav p f).srcLocked = s.srcLocked := rfl
@[simp] theorem State.updPav_srcHoldover (p : Nat) (f : Pav → Pav) : (s.updPav p f).srcHoldover = s.srcHoldover := rfl
@[simp] theorem State.updPav_met (p : Nat) (f : Pav → Pav) : (s.updPav p f).met = s.met := rfl
@[simp] theorem State.updPav_metRepairs (p : Nat) (f : Pav → Pav) : (s.updPav p f).metRepairs = s.metRepairs := rfl
@[simp] theorem State.updPav_boot (p : Nat) (f : Pav → Pav) : (s.updPav p f).boot = s.boot := rfl
@[simp] theorem State.updPav_nextIncident (p : Nat) (f : Pav → Pav) : (s.updPav p f).nextIncident = s.nextIncident := rfl
@[simp] theorem State.updPav_highSince (p : Nat) (f : Pav → Pav) : (s.updPav p f).highSince = s.highSince := rfl
@[simp] theorem State.updPav_bellRel (p : Nat) (f : Pav → Pav) : (s.updPav p f).bellRel = s.bellRel := rfl
@[simp] theorem State.updPav_toZero (p : Nat) (f : Pav → Pav) : (s.updPav p f).toZero = s.toZero := rfl
@[simp] theorem State.updPav_freeCtr (p : Nat) (f : Pav → Pav) : (s.updPav p f).freeCtr = s.freeCtr := rfl
@[simp] theorem State.updPav_pending (p : Nat) (f : Pav → Pav) : (s.updPav p f).pending = s.pending := rfl

@[simp] theorem State.updSite_cores (c : Nat) (f : Site → Site) : (s.updSite c f).cores = s.cores := rfl
@[simp] theorem State.updSite_pavs (c : Nat) (f : Site → Site) : (s.updSite c f).pavs = s.pavs := rfl
@[simp] theorem State.updSite_oras (c : Nat) (f : Site → Site) : (s.updSite c f).oras = s.oras := rfl
@[simp] theorem State.updSite_gardens (c : Nat) (f : Site → Site) : (s.updSite c f).gardens = s.gardens := rfl
@[simp] theorem State.updSite_chans (c : Nat) (f : Site → Site) : (s.updSite c f).chans = s.chans := rfl
@[simp] theorem State.updSite_hostPorts (c : Nat) (f : Site → Site) : (s.updSite c f).hostPorts = s.hostPorts := rfl
@[simp] theorem State.updSite_peerPorts (c : Nat) (f : Site → Site) : (s.updSite c f).peerPorts = s.peerPorts := rfl
@[simp] theorem State.updSite_sparePorts (c : Nat) (f : Site → Site) : (s.updSite c f).sparePorts = s.sparePorts := rfl
@[simp] theorem State.updSite_lanterns (c : Nat) (f : Site → Site) : (s.updSite c f).lanterns = s.lanterns := rfl
@[simp] theorem State.updSite_cartridges (c : Nat) (f : Site → Site) : (s.updSite c f).cartridges = s.cartridges := rfl
@[simp] theorem State.updSite_swaps (c : Nat) (f : Site → Site) : (s.updSite c f).swaps = s.swaps := rfl
@[simp] theorem State.updSite_sends (c : Nat) (f : Site → Site) : (s.updSite c f).sends = s.sends := rfl
@[simp] theorem State.updSite_recvs (c : Nat) (f : Site → Site) : (s.updSite c f).recvs = s.recvs := rfl
@[simp] theorem State.updSite_endOut (c : Nat) (f : Site → Site) : (s.updSite c f).endOut = s.endOut := rfl
@[simp] theorem State.updSite_endAve (c : Nat) (f : Site → Site) : (s.updSite c f).endAve = s.endAve := rfl
@[simp] theorem State.updSite_slow (c : Nat) (f : Site → Site) : (s.updSite c f).slow = s.slow := rfl
@[simp] theorem State.updSite_bridgeOut (c : Nat) (f : Site → Site) : (s.updSite c f).bridgeOut = s.bridgeOut := rfl
@[simp] theorem State.updSite_bridge (c : Nat) (f : Site → Site) : (s.updSite c f).bridge = s.bridge := rfl
@[simp] theorem State.updSite_pm (c : Nat) (f : Site → Site) : (s.updSite c f).pm = s.pm := rfl
@[simp] theorem State.updSite_sd (c : Nat) (f : Site → Site) : (s.updSite c f).sd = s.sd := rfl
@[simp] theorem State.updSite_pw (c : Nat) (f : Site → Site) : (s.updSite c f).pw = s.pw := rfl
@[simp] theorem State.updSite_wd (c : Nat) (f : Site → Site) : (s.updSite c f).wd = s.wd := rfl
@[simp] theorem State.updSite_post (c : Nat) (f : Site → Site) : (s.updSite c f).post = s.post := rfl
@[simp] theorem State.updSite_disc (c : Nat) (f : Site → Site) : (s.updSite c f).disc = s.disc := rfl
@[simp] theorem State.updSite_ice (c : Nat) (f : Site → Site) : (s.updSite c f).ice = s.ice := rfl
@[simp] theorem State.updSite_power (c : Nat) (f : Site → Site) : (s.updSite c f).power = s.power := rfl
@[simp] theorem State.updSite_start (c : Nat) (f : Site → Site) : (s.updSite c f).start = s.start := rfl
@[simp] theorem State.updSite_frank (c : Nat) (f : Site → Site) : (s.updSite c f).frank = s.frank := rfl
@[simp] theorem State.updSite_pins (c : Nat) (f : Site → Site) : (s.updSite c f).pins = s.pins := rfl
@[simp] theorem State.updSite_test (c : Nat) (f : Site → Site) : (s.updSite c f).test = s.test := rfl
@[simp] theorem State.updSite_smbOut (c : Nat) (f : Site → Site) : (s.updSite c f).smbOut = s.smbOut := rfl
@[simp] theorem State.updSite_tags (c : Nat) (f : Site → Site) : (s.updSite c f).tags = s.tags := rfl
@[simp] theorem State.updSite_records (c : Nat) (f : Site → Site) : (s.updSite c f).records = s.records := rfl
@[simp] theorem State.updSite_shadows (c : Nat) (f : Site → Site) : (s.updSite c f).shadows = s.shadows := rfl
@[simp] theorem State.updSite_shadowInvalid (c : Nat) (f : Site → Site) : (s.updSite c f).shadowInvalid = s.shadowInvalid := rfl
@[simp] theorem State.updSite_cfgActive (c : Nat) (f : Site → Site) : (s.updSite c f).cfgActive = s.cfgActive := rfl
@[simp] theorem State.updSite_cfgStaged (c : Nat) (f : Site → Site) : (s.updSite c f).cfgStaged = s.cfgStaged := rfl
@[simp] theorem State.updSite_addrErr (c : Nat) (f : Site → Site) : (s.updSite c f).addrErr = s.addrErr := rfl
@[simp] theorem State.updSite_srcLocked (c : Nat) (f : Site → Site) : (s.updSite c f).srcLocked = s.srcLocked := rfl
@[simp] theorem State.updSite_srcHoldover (c : Nat) (f : Site → Site) : (s.updSite c f).srcHoldover = s.srcHoldover := rfl
@[simp] theorem State.updSite_met (c : Nat) (f : Site → Site) : (s.updSite c f).met = s.met := rfl
@[simp] theorem State.updSite_metRepairs (c : Nat) (f : Site → Site) : (s.updSite c f).metRepairs = s.metRepairs := rfl
@[simp] theorem State.updSite_boot (c : Nat) (f : Site → Site) : (s.updSite c f).boot = s.boot := rfl
@[simp] theorem State.updSite_nextIncident (c : Nat) (f : Site → Site) : (s.updSite c f).nextIncident = s.nextIncident := rfl
@[simp] theorem State.updSite_highSince (c : Nat) (f : Site → Site) : (s.updSite c f).highSince = s.highSince := rfl
@[simp] theorem State.updSite_bellRel (c : Nat) (f : Site → Site) : (s.updSite c f).bellRel = s.bellRel := rfl
@[simp] theorem State.updSite_toZero (c : Nat) (f : Site → Site) : (s.updSite c f).toZero = s.toZero := rfl
@[simp] theorem State.updSite_freeCtr (c : Nat) (f : Site → Site) : (s.updSite c f).freeCtr = s.freeCtr := rfl
@[simp] theorem State.updSite_pending (c : Nat) (f : Site → Site) : (s.updSite c f).pending = s.pending := rfl

@[simp] theorem State.setOra_cores (o : Nat) (v : Ora) : (s.setOra o v).cores = s.cores := rfl
@[simp] theorem State.setOra_pavs (o : Nat) (v : Ora) : (s.setOra o v).pavs = s.pavs := rfl
@[simp] theorem State.setOra_sites (o : Nat) (v : Ora) : (s.setOra o v).sites = s.sites := rfl
@[simp] theorem State.setOra_gardens (o : Nat) (v : Ora) : (s.setOra o v).gardens = s.gardens := rfl
@[simp] theorem State.setOra_chans (o : Nat) (v : Ora) : (s.setOra o v).chans = s.chans := rfl
@[simp] theorem State.setOra_hostPorts (o : Nat) (v : Ora) : (s.setOra o v).hostPorts = s.hostPorts := rfl
@[simp] theorem State.setOra_peerPorts (o : Nat) (v : Ora) : (s.setOra o v).peerPorts = s.peerPorts := rfl
@[simp] theorem State.setOra_sparePorts (o : Nat) (v : Ora) : (s.setOra o v).sparePorts = s.sparePorts := rfl
@[simp] theorem State.setOra_lanterns (o : Nat) (v : Ora) : (s.setOra o v).lanterns = s.lanterns := rfl
@[simp] theorem State.setOra_cartridges (o : Nat) (v : Ora) : (s.setOra o v).cartridges = s.cartridges := rfl
@[simp] theorem State.setOra_swaps (o : Nat) (v : Ora) : (s.setOra o v).swaps = s.swaps := rfl
@[simp] theorem State.setOra_sends (o : Nat) (v : Ora) : (s.setOra o v).sends = s.sends := rfl
@[simp] theorem State.setOra_recvs (o : Nat) (v : Ora) : (s.setOra o v).recvs = s.recvs := rfl
@[simp] theorem State.setOra_endOut (o : Nat) (v : Ora) : (s.setOra o v).endOut = s.endOut := rfl
@[simp] theorem State.setOra_endAve (o : Nat) (v : Ora) : (s.setOra o v).endAve = s.endAve := rfl
@[simp] theorem State.setOra_slow (o : Nat) (v : Ora) : (s.setOra o v).slow = s.slow := rfl
@[simp] theorem State.setOra_bridgeOut (o : Nat) (v : Ora) : (s.setOra o v).bridgeOut = s.bridgeOut := rfl
@[simp] theorem State.setOra_bridge (o : Nat) (v : Ora) : (s.setOra o v).bridge = s.bridge := rfl
@[simp] theorem State.setOra_pm (o : Nat) (v : Ora) : (s.setOra o v).pm = s.pm := rfl
@[simp] theorem State.setOra_sd (o : Nat) (v : Ora) : (s.setOra o v).sd = s.sd := rfl
@[simp] theorem State.setOra_pw (o : Nat) (v : Ora) : (s.setOra o v).pw = s.pw := rfl
@[simp] theorem State.setOra_wd (o : Nat) (v : Ora) : (s.setOra o v).wd = s.wd := rfl
@[simp] theorem State.setOra_post (o : Nat) (v : Ora) : (s.setOra o v).post = s.post := rfl
@[simp] theorem State.setOra_disc (o : Nat) (v : Ora) : (s.setOra o v).disc = s.disc := rfl
@[simp] theorem State.setOra_ice (o : Nat) (v : Ora) : (s.setOra o v).ice = s.ice := rfl
@[simp] theorem State.setOra_power (o : Nat) (v : Ora) : (s.setOra o v).power = s.power := rfl
@[simp] theorem State.setOra_start (o : Nat) (v : Ora) : (s.setOra o v).start = s.start := rfl
@[simp] theorem State.setOra_frank (o : Nat) (v : Ora) : (s.setOra o v).frank = s.frank := rfl
@[simp] theorem State.setOra_pins (o : Nat) (v : Ora) : (s.setOra o v).pins = s.pins := rfl
@[simp] theorem State.setOra_test (o : Nat) (v : Ora) : (s.setOra o v).test = s.test := rfl
@[simp] theorem State.setOra_smbOut (o : Nat) (v : Ora) : (s.setOra o v).smbOut = s.smbOut := rfl
@[simp] theorem State.setOra_tags (o : Nat) (v : Ora) : (s.setOra o v).tags = s.tags := rfl
@[simp] theorem State.setOra_records (o : Nat) (v : Ora) : (s.setOra o v).records = s.records := rfl
@[simp] theorem State.setOra_shadows (o : Nat) (v : Ora) : (s.setOra o v).shadows = s.shadows := rfl
@[simp] theorem State.setOra_shadowInvalid (o : Nat) (v : Ora) : (s.setOra o v).shadowInvalid = s.shadowInvalid := rfl
@[simp] theorem State.setOra_cfgActive (o : Nat) (v : Ora) : (s.setOra o v).cfgActive = s.cfgActive := rfl
@[simp] theorem State.setOra_cfgStaged (o : Nat) (v : Ora) : (s.setOra o v).cfgStaged = s.cfgStaged := rfl
@[simp] theorem State.setOra_addrErr (o : Nat) (v : Ora) : (s.setOra o v).addrErr = s.addrErr := rfl
@[simp] theorem State.setOra_srcLocked (o : Nat) (v : Ora) : (s.setOra o v).srcLocked = s.srcLocked := rfl
@[simp] theorem State.setOra_srcHoldover (o : Nat) (v : Ora) : (s.setOra o v).srcHoldover = s.srcHoldover := rfl
@[simp] theorem State.setOra_met (o : Nat) (v : Ora) : (s.setOra o v).met = s.met := rfl
@[simp] theorem State.setOra_metRepairs (o : Nat) (v : Ora) : (s.setOra o v).metRepairs = s.metRepairs := rfl
@[simp] theorem State.setOra_boot (o : Nat) (v : Ora) : (s.setOra o v).boot = s.boot := rfl
@[simp] theorem State.setOra_nextIncident (o : Nat) (v : Ora) : (s.setOra o v).nextIncident = s.nextIncident := rfl
@[simp] theorem State.setOra_highSince (o : Nat) (v : Ora) : (s.setOra o v).highSince = s.highSince := rfl
@[simp] theorem State.setOra_bellRel (o : Nat) (v : Ora) : (s.setOra o v).bellRel = s.bellRel := rfl
@[simp] theorem State.setOra_toZero (o : Nat) (v : Ora) : (s.setOra o v).toZero = s.toZero := rfl
@[simp] theorem State.setOra_freeCtr (o : Nat) (v : Ora) : (s.setOra o v).freeCtr = s.freeCtr := rfl
@[simp] theorem State.setOra_pending (o : Nat) (v : Ora) : (s.setOra o v).pending = s.pending := rfl

@[simp] theorem State.updOra_cores (o : Nat) (f : Ora → Ora) : (s.updOra o f).cores = s.cores := rfl
@[simp] theorem State.updOra_pavs (o : Nat) (f : Ora → Ora) : (s.updOra o f).pavs = s.pavs := rfl
@[simp] theorem State.updOra_sites (o : Nat) (f : Ora → Ora) : (s.updOra o f).sites = s.sites := rfl
@[simp] theorem State.updOra_gardens (o : Nat) (f : Ora → Ora) : (s.updOra o f).gardens = s.gardens := rfl
@[simp] theorem State.updOra_chans (o : Nat) (f : Ora → Ora) : (s.updOra o f).chans = s.chans := rfl
@[simp] theorem State.updOra_hostPorts (o : Nat) (f : Ora → Ora) : (s.updOra o f).hostPorts = s.hostPorts := rfl
@[simp] theorem State.updOra_peerPorts (o : Nat) (f : Ora → Ora) : (s.updOra o f).peerPorts = s.peerPorts := rfl
@[simp] theorem State.updOra_sparePorts (o : Nat) (f : Ora → Ora) : (s.updOra o f).sparePorts = s.sparePorts := rfl
@[simp] theorem State.updOra_lanterns (o : Nat) (f : Ora → Ora) : (s.updOra o f).lanterns = s.lanterns := rfl
@[simp] theorem State.updOra_cartridges (o : Nat) (f : Ora → Ora) : (s.updOra o f).cartridges = s.cartridges := rfl
@[simp] theorem State.updOra_swaps (o : Nat) (f : Ora → Ora) : (s.updOra o f).swaps = s.swaps := rfl
@[simp] theorem State.updOra_sends (o : Nat) (f : Ora → Ora) : (s.updOra o f).sends = s.sends := rfl
@[simp] theorem State.updOra_recvs (o : Nat) (f : Ora → Ora) : (s.updOra o f).recvs = s.recvs := rfl
@[simp] theorem State.updOra_endOut (o : Nat) (f : Ora → Ora) : (s.updOra o f).endOut = s.endOut := rfl
@[simp] theorem State.updOra_endAve (o : Nat) (f : Ora → Ora) : (s.updOra o f).endAve = s.endAve := rfl
@[simp] theorem State.updOra_slow (o : Nat) (f : Ora → Ora) : (s.updOra o f).slow = s.slow := rfl
@[simp] theorem State.updOra_bridgeOut (o : Nat) (f : Ora → Ora) : (s.updOra o f).bridgeOut = s.bridgeOut := rfl
@[simp] theorem State.updOra_bridge (o : Nat) (f : Ora → Ora) : (s.updOra o f).bridge = s.bridge := rfl
@[simp] theorem State.updOra_pm (o : Nat) (f : Ora → Ora) : (s.updOra o f).pm = s.pm := rfl
@[simp] theorem State.updOra_sd (o : Nat) (f : Ora → Ora) : (s.updOra o f).sd = s.sd := rfl
@[simp] theorem State.updOra_pw (o : Nat) (f : Ora → Ora) : (s.updOra o f).pw = s.pw := rfl
@[simp] theorem State.updOra_wd (o : Nat) (f : Ora → Ora) : (s.updOra o f).wd = s.wd := rfl
@[simp] theorem State.updOra_post (o : Nat) (f : Ora → Ora) : (s.updOra o f).post = s.post := rfl
@[simp] theorem State.updOra_disc (o : Nat) (f : Ora → Ora) : (s.updOra o f).disc = s.disc := rfl
@[simp] theorem State.updOra_ice (o : Nat) (f : Ora → Ora) : (s.updOra o f).ice = s.ice := rfl
@[simp] theorem State.updOra_power (o : Nat) (f : Ora → Ora) : (s.updOra o f).power = s.power := rfl
@[simp] theorem State.updOra_start (o : Nat) (f : Ora → Ora) : (s.updOra o f).start = s.start := rfl
@[simp] theorem State.updOra_frank (o : Nat) (f : Ora → Ora) : (s.updOra o f).frank = s.frank := rfl
@[simp] theorem State.updOra_pins (o : Nat) (f : Ora → Ora) : (s.updOra o f).pins = s.pins := rfl
@[simp] theorem State.updOra_test (o : Nat) (f : Ora → Ora) : (s.updOra o f).test = s.test := rfl
@[simp] theorem State.updOra_smbOut (o : Nat) (f : Ora → Ora) : (s.updOra o f).smbOut = s.smbOut := rfl
@[simp] theorem State.updOra_tags (o : Nat) (f : Ora → Ora) : (s.updOra o f).tags = s.tags := rfl
@[simp] theorem State.updOra_records (o : Nat) (f : Ora → Ora) : (s.updOra o f).records = s.records := rfl
@[simp] theorem State.updOra_shadows (o : Nat) (f : Ora → Ora) : (s.updOra o f).shadows = s.shadows := rfl
@[simp] theorem State.updOra_shadowInvalid (o : Nat) (f : Ora → Ora) : (s.updOra o f).shadowInvalid = s.shadowInvalid := rfl
@[simp] theorem State.updOra_cfgActive (o : Nat) (f : Ora → Ora) : (s.updOra o f).cfgActive = s.cfgActive := rfl
@[simp] theorem State.updOra_cfgStaged (o : Nat) (f : Ora → Ora) : (s.updOra o f).cfgStaged = s.cfgStaged := rfl
@[simp] theorem State.updOra_addrErr (o : Nat) (f : Ora → Ora) : (s.updOra o f).addrErr = s.addrErr := rfl
@[simp] theorem State.updOra_srcLocked (o : Nat) (f : Ora → Ora) : (s.updOra o f).srcLocked = s.srcLocked := rfl
@[simp] theorem State.updOra_srcHoldover (o : Nat) (f : Ora → Ora) : (s.updOra o f).srcHoldover = s.srcHoldover := rfl
@[simp] theorem State.updOra_met (o : Nat) (f : Ora → Ora) : (s.updOra o f).met = s.met := rfl
@[simp] theorem State.updOra_metRepairs (o : Nat) (f : Ora → Ora) : (s.updOra o f).metRepairs = s.metRepairs := rfl
@[simp] theorem State.updOra_boot (o : Nat) (f : Ora → Ora) : (s.updOra o f).boot = s.boot := rfl
@[simp] theorem State.updOra_nextIncident (o : Nat) (f : Ora → Ora) : (s.updOra o f).nextIncident = s.nextIncident := rfl
@[simp] theorem State.updOra_highSince (o : Nat) (f : Ora → Ora) : (s.updOra o f).highSince = s.highSince := rfl
@[simp] theorem State.updOra_bellRel (o : Nat) (f : Ora → Ora) : (s.updOra o f).bellRel = s.bellRel := rfl
@[simp] theorem State.updOra_toZero (o : Nat) (f : Ora → Ora) : (s.updOra o f).toZero = s.toZero := rfl
@[simp] theorem State.updOra_freeCtr (o : Nat) (f : Ora → Ora) : (s.updOra o f).freeCtr = s.freeCtr := rfl
@[simp] theorem State.updOra_pending (o : Nat) (f : Ora → Ora) : (s.updOra o f).pending = s.pending := rfl

@[simp] theorem State.updGarden_cores (g : Nat) (f : Gdn → Gdn) : (s.updGarden g f).cores = s.cores := rfl
@[simp] theorem State.updGarden_pavs (g : Nat) (f : Gdn → Gdn) : (s.updGarden g f).pavs = s.pavs := rfl
@[simp] theorem State.updGarden_sites (g : Nat) (f : Gdn → Gdn) : (s.updGarden g f).sites = s.sites := rfl
@[simp] theorem State.updGarden_oras (g : Nat) (f : Gdn → Gdn) : (s.updGarden g f).oras = s.oras := rfl
@[simp] theorem State.updGarden_chans (g : Nat) (f : Gdn → Gdn) : (s.updGarden g f).chans = s.chans := rfl
@[simp] theorem State.updGarden_hostPorts (g : Nat) (f : Gdn → Gdn) : (s.updGarden g f).hostPorts = s.hostPorts := rfl
@[simp] theorem State.updGarden_peerPorts (g : Nat) (f : Gdn → Gdn) : (s.updGarden g f).peerPorts = s.peerPorts := rfl
@[simp] theorem State.updGarden_sparePorts (g : Nat) (f : Gdn → Gdn) : (s.updGarden g f).sparePorts = s.sparePorts := rfl
@[simp] theorem State.updGarden_lanterns (g : Nat) (f : Gdn → Gdn) : (s.updGarden g f).lanterns = s.lanterns := rfl
@[simp] theorem State.updGarden_cartridges (g : Nat) (f : Gdn → Gdn) : (s.updGarden g f).cartridges = s.cartridges := rfl
@[simp] theorem State.updGarden_swaps (g : Nat) (f : Gdn → Gdn) : (s.updGarden g f).swaps = s.swaps := rfl
@[simp] theorem State.updGarden_sends (g : Nat) (f : Gdn → Gdn) : (s.updGarden g f).sends = s.sends := rfl
@[simp] theorem State.updGarden_recvs (g : Nat) (f : Gdn → Gdn) : (s.updGarden g f).recvs = s.recvs := rfl
@[simp] theorem State.updGarden_endOut (g : Nat) (f : Gdn → Gdn) : (s.updGarden g f).endOut = s.endOut := rfl
@[simp] theorem State.updGarden_endAve (g : Nat) (f : Gdn → Gdn) : (s.updGarden g f).endAve = s.endAve := rfl
@[simp] theorem State.updGarden_slow (g : Nat) (f : Gdn → Gdn) : (s.updGarden g f).slow = s.slow := rfl
@[simp] theorem State.updGarden_bridgeOut (g : Nat) (f : Gdn → Gdn) : (s.updGarden g f).bridgeOut = s.bridgeOut := rfl
@[simp] theorem State.updGarden_bridge (g : Nat) (f : Gdn → Gdn) : (s.updGarden g f).bridge = s.bridge := rfl
@[simp] theorem State.updGarden_pm (g : Nat) (f : Gdn → Gdn) : (s.updGarden g f).pm = s.pm := rfl
@[simp] theorem State.updGarden_sd (g : Nat) (f : Gdn → Gdn) : (s.updGarden g f).sd = s.sd := rfl
@[simp] theorem State.updGarden_pw (g : Nat) (f : Gdn → Gdn) : (s.updGarden g f).pw = s.pw := rfl
@[simp] theorem State.updGarden_wd (g : Nat) (f : Gdn → Gdn) : (s.updGarden g f).wd = s.wd := rfl
@[simp] theorem State.updGarden_post (g : Nat) (f : Gdn → Gdn) : (s.updGarden g f).post = s.post := rfl
@[simp] theorem State.updGarden_disc (g : Nat) (f : Gdn → Gdn) : (s.updGarden g f).disc = s.disc := rfl
@[simp] theorem State.updGarden_ice (g : Nat) (f : Gdn → Gdn) : (s.updGarden g f).ice = s.ice := rfl
@[simp] theorem State.updGarden_power (g : Nat) (f : Gdn → Gdn) : (s.updGarden g f).power = s.power := rfl
@[simp] theorem State.updGarden_start (g : Nat) (f : Gdn → Gdn) : (s.updGarden g f).start = s.start := rfl
@[simp] theorem State.updGarden_frank (g : Nat) (f : Gdn → Gdn) : (s.updGarden g f).frank = s.frank := rfl
@[simp] theorem State.updGarden_pins (g : Nat) (f : Gdn → Gdn) : (s.updGarden g f).pins = s.pins := rfl
@[simp] theorem State.updGarden_test (g : Nat) (f : Gdn → Gdn) : (s.updGarden g f).test = s.test := rfl
@[simp] theorem State.updGarden_smbOut (g : Nat) (f : Gdn → Gdn) : (s.updGarden g f).smbOut = s.smbOut := rfl
@[simp] theorem State.updGarden_tags (g : Nat) (f : Gdn → Gdn) : (s.updGarden g f).tags = s.tags := rfl
@[simp] theorem State.updGarden_records (g : Nat) (f : Gdn → Gdn) : (s.updGarden g f).records = s.records := rfl
@[simp] theorem State.updGarden_shadows (g : Nat) (f : Gdn → Gdn) : (s.updGarden g f).shadows = s.shadows := rfl
@[simp] theorem State.updGarden_shadowInvalid (g : Nat) (f : Gdn → Gdn) : (s.updGarden g f).shadowInvalid = s.shadowInvalid := rfl
@[simp] theorem State.updGarden_cfgActive (g : Nat) (f : Gdn → Gdn) : (s.updGarden g f).cfgActive = s.cfgActive := rfl
@[simp] theorem State.updGarden_cfgStaged (g : Nat) (f : Gdn → Gdn) : (s.updGarden g f).cfgStaged = s.cfgStaged := rfl
@[simp] theorem State.updGarden_addrErr (g : Nat) (f : Gdn → Gdn) : (s.updGarden g f).addrErr = s.addrErr := rfl
@[simp] theorem State.updGarden_srcLocked (g : Nat) (f : Gdn → Gdn) : (s.updGarden g f).srcLocked = s.srcLocked := rfl
@[simp] theorem State.updGarden_srcHoldover (g : Nat) (f : Gdn → Gdn) : (s.updGarden g f).srcHoldover = s.srcHoldover := rfl
@[simp] theorem State.updGarden_met (g : Nat) (f : Gdn → Gdn) : (s.updGarden g f).met = s.met := rfl
@[simp] theorem State.updGarden_metRepairs (g : Nat) (f : Gdn → Gdn) : (s.updGarden g f).metRepairs = s.metRepairs := rfl
@[simp] theorem State.updGarden_boot (g : Nat) (f : Gdn → Gdn) : (s.updGarden g f).boot = s.boot := rfl
@[simp] theorem State.updGarden_nextIncident (g : Nat) (f : Gdn → Gdn) : (s.updGarden g f).nextIncident = s.nextIncident := rfl
@[simp] theorem State.updGarden_highSince (g : Nat) (f : Gdn → Gdn) : (s.updGarden g f).highSince = s.highSince := rfl
@[simp] theorem State.updGarden_bellRel (g : Nat) (f : Gdn → Gdn) : (s.updGarden g f).bellRel = s.bellRel := rfl
@[simp] theorem State.updGarden_toZero (g : Nat) (f : Gdn → Gdn) : (s.updGarden g f).toZero = s.toZero := rfl
@[simp] theorem State.updGarden_freeCtr (g : Nat) (f : Gdn → Gdn) : (s.updGarden g f).freeCtr = s.freeCtr := rfl
@[simp] theorem State.updGarden_pending (g : Nat) (f : Gdn → Gdn) : (s.updGarden g f).pending = s.pending := rfl

@[simp] theorem State.updChan_cores (n : Nat) (f : Chan → Chan) : (s.updChan n f).cores = s.cores := rfl
@[simp] theorem State.updChan_pavs (n : Nat) (f : Chan → Chan) : (s.updChan n f).pavs = s.pavs := rfl
@[simp] theorem State.updChan_sites (n : Nat) (f : Chan → Chan) : (s.updChan n f).sites = s.sites := rfl
@[simp] theorem State.updChan_oras (n : Nat) (f : Chan → Chan) : (s.updChan n f).oras = s.oras := rfl
@[simp] theorem State.updChan_gardens (n : Nat) (f : Chan → Chan) : (s.updChan n f).gardens = s.gardens := rfl
@[simp] theorem State.updChan_hostPorts (n : Nat) (f : Chan → Chan) : (s.updChan n f).hostPorts = s.hostPorts := rfl
@[simp] theorem State.updChan_peerPorts (n : Nat) (f : Chan → Chan) : (s.updChan n f).peerPorts = s.peerPorts := rfl
@[simp] theorem State.updChan_sparePorts (n : Nat) (f : Chan → Chan) : (s.updChan n f).sparePorts = s.sparePorts := rfl
@[simp] theorem State.updChan_lanterns (n : Nat) (f : Chan → Chan) : (s.updChan n f).lanterns = s.lanterns := rfl
@[simp] theorem State.updChan_cartridges (n : Nat) (f : Chan → Chan) : (s.updChan n f).cartridges = s.cartridges := rfl
@[simp] theorem State.updChan_swaps (n : Nat) (f : Chan → Chan) : (s.updChan n f).swaps = s.swaps := rfl
@[simp] theorem State.updChan_sends (n : Nat) (f : Chan → Chan) : (s.updChan n f).sends = s.sends := rfl
@[simp] theorem State.updChan_recvs (n : Nat) (f : Chan → Chan) : (s.updChan n f).recvs = s.recvs := rfl
@[simp] theorem State.updChan_endOut (n : Nat) (f : Chan → Chan) : (s.updChan n f).endOut = s.endOut := rfl
@[simp] theorem State.updChan_endAve (n : Nat) (f : Chan → Chan) : (s.updChan n f).endAve = s.endAve := rfl
@[simp] theorem State.updChan_slow (n : Nat) (f : Chan → Chan) : (s.updChan n f).slow = s.slow := rfl
@[simp] theorem State.updChan_bridgeOut (n : Nat) (f : Chan → Chan) : (s.updChan n f).bridgeOut = s.bridgeOut := rfl
@[simp] theorem State.updChan_bridge (n : Nat) (f : Chan → Chan) : (s.updChan n f).bridge = s.bridge := rfl
@[simp] theorem State.updChan_pm (n : Nat) (f : Chan → Chan) : (s.updChan n f).pm = s.pm := rfl
@[simp] theorem State.updChan_sd (n : Nat) (f : Chan → Chan) : (s.updChan n f).sd = s.sd := rfl
@[simp] theorem State.updChan_pw (n : Nat) (f : Chan → Chan) : (s.updChan n f).pw = s.pw := rfl
@[simp] theorem State.updChan_wd (n : Nat) (f : Chan → Chan) : (s.updChan n f).wd = s.wd := rfl
@[simp] theorem State.updChan_post (n : Nat) (f : Chan → Chan) : (s.updChan n f).post = s.post := rfl
@[simp] theorem State.updChan_disc (n : Nat) (f : Chan → Chan) : (s.updChan n f).disc = s.disc := rfl
@[simp] theorem State.updChan_ice (n : Nat) (f : Chan → Chan) : (s.updChan n f).ice = s.ice := rfl
@[simp] theorem State.updChan_power (n : Nat) (f : Chan → Chan) : (s.updChan n f).power = s.power := rfl
@[simp] theorem State.updChan_start (n : Nat) (f : Chan → Chan) : (s.updChan n f).start = s.start := rfl
@[simp] theorem State.updChan_frank (n : Nat) (f : Chan → Chan) : (s.updChan n f).frank = s.frank := rfl
@[simp] theorem State.updChan_pins (n : Nat) (f : Chan → Chan) : (s.updChan n f).pins = s.pins := rfl
@[simp] theorem State.updChan_test (n : Nat) (f : Chan → Chan) : (s.updChan n f).test = s.test := rfl
@[simp] theorem State.updChan_smbOut (n : Nat) (f : Chan → Chan) : (s.updChan n f).smbOut = s.smbOut := rfl
@[simp] theorem State.updChan_tags (n : Nat) (f : Chan → Chan) : (s.updChan n f).tags = s.tags := rfl
@[simp] theorem State.updChan_records (n : Nat) (f : Chan → Chan) : (s.updChan n f).records = s.records := rfl
@[simp] theorem State.updChan_shadows (n : Nat) (f : Chan → Chan) : (s.updChan n f).shadows = s.shadows := rfl
@[simp] theorem State.updChan_shadowInvalid (n : Nat) (f : Chan → Chan) : (s.updChan n f).shadowInvalid = s.shadowInvalid := rfl
@[simp] theorem State.updChan_cfgActive (n : Nat) (f : Chan → Chan) : (s.updChan n f).cfgActive = s.cfgActive := rfl
@[simp] theorem State.updChan_cfgStaged (n : Nat) (f : Chan → Chan) : (s.updChan n f).cfgStaged = s.cfgStaged := rfl
@[simp] theorem State.updChan_addrErr (n : Nat) (f : Chan → Chan) : (s.updChan n f).addrErr = s.addrErr := rfl
@[simp] theorem State.updChan_srcLocked (n : Nat) (f : Chan → Chan) : (s.updChan n f).srcLocked = s.srcLocked := rfl
@[simp] theorem State.updChan_srcHoldover (n : Nat) (f : Chan → Chan) : (s.updChan n f).srcHoldover = s.srcHoldover := rfl
@[simp] theorem State.updChan_met (n : Nat) (f : Chan → Chan) : (s.updChan n f).met = s.met := rfl
@[simp] theorem State.updChan_metRepairs (n : Nat) (f : Chan → Chan) : (s.updChan n f).metRepairs = s.metRepairs := rfl
@[simp] theorem State.updChan_boot (n : Nat) (f : Chan → Chan) : (s.updChan n f).boot = s.boot := rfl
@[simp] theorem State.updChan_nextIncident (n : Nat) (f : Chan → Chan) : (s.updChan n f).nextIncident = s.nextIncident := rfl
@[simp] theorem State.updChan_highSince (n : Nat) (f : Chan → Chan) : (s.updChan n f).highSince = s.highSince := rfl
@[simp] theorem State.updChan_bellRel (n : Nat) (f : Chan → Chan) : (s.updChan n f).bellRel = s.bellRel := rfl
@[simp] theorem State.updChan_toZero (n : Nat) (f : Chan → Chan) : (s.updChan n f).toZero = s.toZero := rfl
@[simp] theorem State.updChan_freeCtr (n : Nat) (f : Chan → Chan) : (s.updChan n f).freeCtr = s.freeCtr := rfl
@[simp] theorem State.updChan_pending (n : Nat) (f : Chan → Chan) : (s.updChan n f).pending = s.pending := rfl

@[simp] theorem State.updHostPort_cores (n : Nat) (f : Port → Port) : (s.updHostPort n f).cores = s.cores := rfl
@[simp] theorem State.updHostPort_pavs (n : Nat) (f : Port → Port) : (s.updHostPort n f).pavs = s.pavs := rfl
@[simp] theorem State.updHostPort_sites (n : Nat) (f : Port → Port) : (s.updHostPort n f).sites = s.sites := rfl
@[simp] theorem State.updHostPort_oras (n : Nat) (f : Port → Port) : (s.updHostPort n f).oras = s.oras := rfl
@[simp] theorem State.updHostPort_gardens (n : Nat) (f : Port → Port) : (s.updHostPort n f).gardens = s.gardens := rfl
@[simp] theorem State.updHostPort_chans (n : Nat) (f : Port → Port) : (s.updHostPort n f).chans = s.chans := rfl
@[simp] theorem State.updHostPort_peerPorts (n : Nat) (f : Port → Port) : (s.updHostPort n f).peerPorts = s.peerPorts := rfl
@[simp] theorem State.updHostPort_sparePorts (n : Nat) (f : Port → Port) : (s.updHostPort n f).sparePorts = s.sparePorts := rfl
@[simp] theorem State.updHostPort_lanterns (n : Nat) (f : Port → Port) : (s.updHostPort n f).lanterns = s.lanterns := rfl
@[simp] theorem State.updHostPort_cartridges (n : Nat) (f : Port → Port) : (s.updHostPort n f).cartridges = s.cartridges := rfl
@[simp] theorem State.updHostPort_swaps (n : Nat) (f : Port → Port) : (s.updHostPort n f).swaps = s.swaps := rfl
@[simp] theorem State.updHostPort_sends (n : Nat) (f : Port → Port) : (s.updHostPort n f).sends = s.sends := rfl
@[simp] theorem State.updHostPort_recvs (n : Nat) (f : Port → Port) : (s.updHostPort n f).recvs = s.recvs := rfl
@[simp] theorem State.updHostPort_endOut (n : Nat) (f : Port → Port) : (s.updHostPort n f).endOut = s.endOut := rfl
@[simp] theorem State.updHostPort_endAve (n : Nat) (f : Port → Port) : (s.updHostPort n f).endAve = s.endAve := rfl
@[simp] theorem State.updHostPort_slow (n : Nat) (f : Port → Port) : (s.updHostPort n f).slow = s.slow := rfl
@[simp] theorem State.updHostPort_bridgeOut (n : Nat) (f : Port → Port) : (s.updHostPort n f).bridgeOut = s.bridgeOut := rfl
@[simp] theorem State.updHostPort_bridge (n : Nat) (f : Port → Port) : (s.updHostPort n f).bridge = s.bridge := rfl
@[simp] theorem State.updHostPort_pm (n : Nat) (f : Port → Port) : (s.updHostPort n f).pm = s.pm := rfl
@[simp] theorem State.updHostPort_sd (n : Nat) (f : Port → Port) : (s.updHostPort n f).sd = s.sd := rfl
@[simp] theorem State.updHostPort_pw (n : Nat) (f : Port → Port) : (s.updHostPort n f).pw = s.pw := rfl
@[simp] theorem State.updHostPort_wd (n : Nat) (f : Port → Port) : (s.updHostPort n f).wd = s.wd := rfl
@[simp] theorem State.updHostPort_post (n : Nat) (f : Port → Port) : (s.updHostPort n f).post = s.post := rfl
@[simp] theorem State.updHostPort_disc (n : Nat) (f : Port → Port) : (s.updHostPort n f).disc = s.disc := rfl
@[simp] theorem State.updHostPort_ice (n : Nat) (f : Port → Port) : (s.updHostPort n f).ice = s.ice := rfl
@[simp] theorem State.updHostPort_power (n : Nat) (f : Port → Port) : (s.updHostPort n f).power = s.power := rfl
@[simp] theorem State.updHostPort_start (n : Nat) (f : Port → Port) : (s.updHostPort n f).start = s.start := rfl
@[simp] theorem State.updHostPort_frank (n : Nat) (f : Port → Port) : (s.updHostPort n f).frank = s.frank := rfl
@[simp] theorem State.updHostPort_pins (n : Nat) (f : Port → Port) : (s.updHostPort n f).pins = s.pins := rfl
@[simp] theorem State.updHostPort_test (n : Nat) (f : Port → Port) : (s.updHostPort n f).test = s.test := rfl
@[simp] theorem State.updHostPort_smbOut (n : Nat) (f : Port → Port) : (s.updHostPort n f).smbOut = s.smbOut := rfl
@[simp] theorem State.updHostPort_tags (n : Nat) (f : Port → Port) : (s.updHostPort n f).tags = s.tags := rfl
@[simp] theorem State.updHostPort_records (n : Nat) (f : Port → Port) : (s.updHostPort n f).records = s.records := rfl
@[simp] theorem State.updHostPort_shadows (n : Nat) (f : Port → Port) : (s.updHostPort n f).shadows = s.shadows := rfl
@[simp] theorem State.updHostPort_shadowInvalid (n : Nat) (f : Port → Port) : (s.updHostPort n f).shadowInvalid = s.shadowInvalid := rfl
@[simp] theorem State.updHostPort_cfgActive (n : Nat) (f : Port → Port) : (s.updHostPort n f).cfgActive = s.cfgActive := rfl
@[simp] theorem State.updHostPort_cfgStaged (n : Nat) (f : Port → Port) : (s.updHostPort n f).cfgStaged = s.cfgStaged := rfl
@[simp] theorem State.updHostPort_addrErr (n : Nat) (f : Port → Port) : (s.updHostPort n f).addrErr = s.addrErr := rfl
@[simp] theorem State.updHostPort_srcLocked (n : Nat) (f : Port → Port) : (s.updHostPort n f).srcLocked = s.srcLocked := rfl
@[simp] theorem State.updHostPort_srcHoldover (n : Nat) (f : Port → Port) : (s.updHostPort n f).srcHoldover = s.srcHoldover := rfl
@[simp] theorem State.updHostPort_met (n : Nat) (f : Port → Port) : (s.updHostPort n f).met = s.met := rfl
@[simp] theorem State.updHostPort_metRepairs (n : Nat) (f : Port → Port) : (s.updHostPort n f).metRepairs = s.metRepairs := rfl
@[simp] theorem State.updHostPort_boot (n : Nat) (f : Port → Port) : (s.updHostPort n f).boot = s.boot := rfl
@[simp] theorem State.updHostPort_nextIncident (n : Nat) (f : Port → Port) : (s.updHostPort n f).nextIncident = s.nextIncident := rfl
@[simp] theorem State.updHostPort_highSince (n : Nat) (f : Port → Port) : (s.updHostPort n f).highSince = s.highSince := rfl
@[simp] theorem State.updHostPort_bellRel (n : Nat) (f : Port → Port) : (s.updHostPort n f).bellRel = s.bellRel := rfl
@[simp] theorem State.updHostPort_toZero (n : Nat) (f : Port → Port) : (s.updHostPort n f).toZero = s.toZero := rfl
@[simp] theorem State.updHostPort_freeCtr (n : Nat) (f : Port → Port) : (s.updHostPort n f).freeCtr = s.freeCtr := rfl
@[simp] theorem State.updHostPort_pending (n : Nat) (f : Port → Port) : (s.updHostPort n f).pending = s.pending := rfl

@[simp] theorem State.updPeerPort_cores (n : Nat) (f : Port → Port) : (s.updPeerPort n f).cores = s.cores := rfl
@[simp] theorem State.updPeerPort_pavs (n : Nat) (f : Port → Port) : (s.updPeerPort n f).pavs = s.pavs := rfl
@[simp] theorem State.updPeerPort_sites (n : Nat) (f : Port → Port) : (s.updPeerPort n f).sites = s.sites := rfl
@[simp] theorem State.updPeerPort_oras (n : Nat) (f : Port → Port) : (s.updPeerPort n f).oras = s.oras := rfl
@[simp] theorem State.updPeerPort_gardens (n : Nat) (f : Port → Port) : (s.updPeerPort n f).gardens = s.gardens := rfl
@[simp] theorem State.updPeerPort_chans (n : Nat) (f : Port → Port) : (s.updPeerPort n f).chans = s.chans := rfl
@[simp] theorem State.updPeerPort_hostPorts (n : Nat) (f : Port → Port) : (s.updPeerPort n f).hostPorts = s.hostPorts := rfl
@[simp] theorem State.updPeerPort_sparePorts (n : Nat) (f : Port → Port) : (s.updPeerPort n f).sparePorts = s.sparePorts := rfl
@[simp] theorem State.updPeerPort_lanterns (n : Nat) (f : Port → Port) : (s.updPeerPort n f).lanterns = s.lanterns := rfl
@[simp] theorem State.updPeerPort_cartridges (n : Nat) (f : Port → Port) : (s.updPeerPort n f).cartridges = s.cartridges := rfl
@[simp] theorem State.updPeerPort_swaps (n : Nat) (f : Port → Port) : (s.updPeerPort n f).swaps = s.swaps := rfl
@[simp] theorem State.updPeerPort_sends (n : Nat) (f : Port → Port) : (s.updPeerPort n f).sends = s.sends := rfl
@[simp] theorem State.updPeerPort_recvs (n : Nat) (f : Port → Port) : (s.updPeerPort n f).recvs = s.recvs := rfl
@[simp] theorem State.updPeerPort_endOut (n : Nat) (f : Port → Port) : (s.updPeerPort n f).endOut = s.endOut := rfl
@[simp] theorem State.updPeerPort_endAve (n : Nat) (f : Port → Port) : (s.updPeerPort n f).endAve = s.endAve := rfl
@[simp] theorem State.updPeerPort_slow (n : Nat) (f : Port → Port) : (s.updPeerPort n f).slow = s.slow := rfl
@[simp] theorem State.updPeerPort_bridgeOut (n : Nat) (f : Port → Port) : (s.updPeerPort n f).bridgeOut = s.bridgeOut := rfl
@[simp] theorem State.updPeerPort_bridge (n : Nat) (f : Port → Port) : (s.updPeerPort n f).bridge = s.bridge := rfl
@[simp] theorem State.updPeerPort_pm (n : Nat) (f : Port → Port) : (s.updPeerPort n f).pm = s.pm := rfl
@[simp] theorem State.updPeerPort_sd (n : Nat) (f : Port → Port) : (s.updPeerPort n f).sd = s.sd := rfl
@[simp] theorem State.updPeerPort_pw (n : Nat) (f : Port → Port) : (s.updPeerPort n f).pw = s.pw := rfl
@[simp] theorem State.updPeerPort_wd (n : Nat) (f : Port → Port) : (s.updPeerPort n f).wd = s.wd := rfl
@[simp] theorem State.updPeerPort_post (n : Nat) (f : Port → Port) : (s.updPeerPort n f).post = s.post := rfl
@[simp] theorem State.updPeerPort_disc (n : Nat) (f : Port → Port) : (s.updPeerPort n f).disc = s.disc := rfl
@[simp] theorem State.updPeerPort_ice (n : Nat) (f : Port → Port) : (s.updPeerPort n f).ice = s.ice := rfl
@[simp] theorem State.updPeerPort_power (n : Nat) (f : Port → Port) : (s.updPeerPort n f).power = s.power := rfl
@[simp] theorem State.updPeerPort_start (n : Nat) (f : Port → Port) : (s.updPeerPort n f).start = s.start := rfl
@[simp] theorem State.updPeerPort_frank (n : Nat) (f : Port → Port) : (s.updPeerPort n f).frank = s.frank := rfl
@[simp] theorem State.updPeerPort_pins (n : Nat) (f : Port → Port) : (s.updPeerPort n f).pins = s.pins := rfl
@[simp] theorem State.updPeerPort_test (n : Nat) (f : Port → Port) : (s.updPeerPort n f).test = s.test := rfl
@[simp] theorem State.updPeerPort_smbOut (n : Nat) (f : Port → Port) : (s.updPeerPort n f).smbOut = s.smbOut := rfl
@[simp] theorem State.updPeerPort_tags (n : Nat) (f : Port → Port) : (s.updPeerPort n f).tags = s.tags := rfl
@[simp] theorem State.updPeerPort_records (n : Nat) (f : Port → Port) : (s.updPeerPort n f).records = s.records := rfl
@[simp] theorem State.updPeerPort_shadows (n : Nat) (f : Port → Port) : (s.updPeerPort n f).shadows = s.shadows := rfl
@[simp] theorem State.updPeerPort_shadowInvalid (n : Nat) (f : Port → Port) : (s.updPeerPort n f).shadowInvalid = s.shadowInvalid := rfl
@[simp] theorem State.updPeerPort_cfgActive (n : Nat) (f : Port → Port) : (s.updPeerPort n f).cfgActive = s.cfgActive := rfl
@[simp] theorem State.updPeerPort_cfgStaged (n : Nat) (f : Port → Port) : (s.updPeerPort n f).cfgStaged = s.cfgStaged := rfl
@[simp] theorem State.updPeerPort_addrErr (n : Nat) (f : Port → Port) : (s.updPeerPort n f).addrErr = s.addrErr := rfl
@[simp] theorem State.updPeerPort_srcLocked (n : Nat) (f : Port → Port) : (s.updPeerPort n f).srcLocked = s.srcLocked := rfl
@[simp] theorem State.updPeerPort_srcHoldover (n : Nat) (f : Port → Port) : (s.updPeerPort n f).srcHoldover = s.srcHoldover := rfl
@[simp] theorem State.updPeerPort_met (n : Nat) (f : Port → Port) : (s.updPeerPort n f).met = s.met := rfl
@[simp] theorem State.updPeerPort_metRepairs (n : Nat) (f : Port → Port) : (s.updPeerPort n f).metRepairs = s.metRepairs := rfl
@[simp] theorem State.updPeerPort_boot (n : Nat) (f : Port → Port) : (s.updPeerPort n f).boot = s.boot := rfl
@[simp] theorem State.updPeerPort_nextIncident (n : Nat) (f : Port → Port) : (s.updPeerPort n f).nextIncident = s.nextIncident := rfl
@[simp] theorem State.updPeerPort_highSince (n : Nat) (f : Port → Port) : (s.updPeerPort n f).highSince = s.highSince := rfl
@[simp] theorem State.updPeerPort_bellRel (n : Nat) (f : Port → Port) : (s.updPeerPort n f).bellRel = s.bellRel := rfl
@[simp] theorem State.updPeerPort_toZero (n : Nat) (f : Port → Port) : (s.updPeerPort n f).toZero = s.toZero := rfl
@[simp] theorem State.updPeerPort_freeCtr (n : Nat) (f : Port → Port) : (s.updPeerPort n f).freeCtr = s.freeCtr := rfl
@[simp] theorem State.updPeerPort_pending (n : Nat) (f : Port → Port) : (s.updPeerPort n f).pending = s.pending := rfl

@[simp] theorem State.updSparePort_cores (n : Nat) (f : Port → Port) : (s.updSparePort n f).cores = s.cores := rfl
@[simp] theorem State.updSparePort_pavs (n : Nat) (f : Port → Port) : (s.updSparePort n f).pavs = s.pavs := rfl
@[simp] theorem State.updSparePort_sites (n : Nat) (f : Port → Port) : (s.updSparePort n f).sites = s.sites := rfl
@[simp] theorem State.updSparePort_oras (n : Nat) (f : Port → Port) : (s.updSparePort n f).oras = s.oras := rfl
@[simp] theorem State.updSparePort_gardens (n : Nat) (f : Port → Port) : (s.updSparePort n f).gardens = s.gardens := rfl
@[simp] theorem State.updSparePort_chans (n : Nat) (f : Port → Port) : (s.updSparePort n f).chans = s.chans := rfl
@[simp] theorem State.updSparePort_hostPorts (n : Nat) (f : Port → Port) : (s.updSparePort n f).hostPorts = s.hostPorts := rfl
@[simp] theorem State.updSparePort_peerPorts (n : Nat) (f : Port → Port) : (s.updSparePort n f).peerPorts = s.peerPorts := rfl
@[simp] theorem State.updSparePort_lanterns (n : Nat) (f : Port → Port) : (s.updSparePort n f).lanterns = s.lanterns := rfl
@[simp] theorem State.updSparePort_cartridges (n : Nat) (f : Port → Port) : (s.updSparePort n f).cartridges = s.cartridges := rfl
@[simp] theorem State.updSparePort_swaps (n : Nat) (f : Port → Port) : (s.updSparePort n f).swaps = s.swaps := rfl
@[simp] theorem State.updSparePort_sends (n : Nat) (f : Port → Port) : (s.updSparePort n f).sends = s.sends := rfl
@[simp] theorem State.updSparePort_recvs (n : Nat) (f : Port → Port) : (s.updSparePort n f).recvs = s.recvs := rfl
@[simp] theorem State.updSparePort_endOut (n : Nat) (f : Port → Port) : (s.updSparePort n f).endOut = s.endOut := rfl
@[simp] theorem State.updSparePort_endAve (n : Nat) (f : Port → Port) : (s.updSparePort n f).endAve = s.endAve := rfl
@[simp] theorem State.updSparePort_slow (n : Nat) (f : Port → Port) : (s.updSparePort n f).slow = s.slow := rfl
@[simp] theorem State.updSparePort_bridgeOut (n : Nat) (f : Port → Port) : (s.updSparePort n f).bridgeOut = s.bridgeOut := rfl
@[simp] theorem State.updSparePort_bridge (n : Nat) (f : Port → Port) : (s.updSparePort n f).bridge = s.bridge := rfl
@[simp] theorem State.updSparePort_pm (n : Nat) (f : Port → Port) : (s.updSparePort n f).pm = s.pm := rfl
@[simp] theorem State.updSparePort_sd (n : Nat) (f : Port → Port) : (s.updSparePort n f).sd = s.sd := rfl
@[simp] theorem State.updSparePort_pw (n : Nat) (f : Port → Port) : (s.updSparePort n f).pw = s.pw := rfl
@[simp] theorem State.updSparePort_wd (n : Nat) (f : Port → Port) : (s.updSparePort n f).wd = s.wd := rfl
@[simp] theorem State.updSparePort_post (n : Nat) (f : Port → Port) : (s.updSparePort n f).post = s.post := rfl
@[simp] theorem State.updSparePort_disc (n : Nat) (f : Port → Port) : (s.updSparePort n f).disc = s.disc := rfl
@[simp] theorem State.updSparePort_ice (n : Nat) (f : Port → Port) : (s.updSparePort n f).ice = s.ice := rfl
@[simp] theorem State.updSparePort_power (n : Nat) (f : Port → Port) : (s.updSparePort n f).power = s.power := rfl
@[simp] theorem State.updSparePort_start (n : Nat) (f : Port → Port) : (s.updSparePort n f).start = s.start := rfl
@[simp] theorem State.updSparePort_frank (n : Nat) (f : Port → Port) : (s.updSparePort n f).frank = s.frank := rfl
@[simp] theorem State.updSparePort_pins (n : Nat) (f : Port → Port) : (s.updSparePort n f).pins = s.pins := rfl
@[simp] theorem State.updSparePort_test (n : Nat) (f : Port → Port) : (s.updSparePort n f).test = s.test := rfl
@[simp] theorem State.updSparePort_smbOut (n : Nat) (f : Port → Port) : (s.updSparePort n f).smbOut = s.smbOut := rfl
@[simp] theorem State.updSparePort_tags (n : Nat) (f : Port → Port) : (s.updSparePort n f).tags = s.tags := rfl
@[simp] theorem State.updSparePort_records (n : Nat) (f : Port → Port) : (s.updSparePort n f).records = s.records := rfl
@[simp] theorem State.updSparePort_shadows (n : Nat) (f : Port → Port) : (s.updSparePort n f).shadows = s.shadows := rfl
@[simp] theorem State.updSparePort_shadowInvalid (n : Nat) (f : Port → Port) : (s.updSparePort n f).shadowInvalid = s.shadowInvalid := rfl
@[simp] theorem State.updSparePort_cfgActive (n : Nat) (f : Port → Port) : (s.updSparePort n f).cfgActive = s.cfgActive := rfl
@[simp] theorem State.updSparePort_cfgStaged (n : Nat) (f : Port → Port) : (s.updSparePort n f).cfgStaged = s.cfgStaged := rfl
@[simp] theorem State.updSparePort_addrErr (n : Nat) (f : Port → Port) : (s.updSparePort n f).addrErr = s.addrErr := rfl
@[simp] theorem State.updSparePort_srcLocked (n : Nat) (f : Port → Port) : (s.updSparePort n f).srcLocked = s.srcLocked := rfl
@[simp] theorem State.updSparePort_srcHoldover (n : Nat) (f : Port → Port) : (s.updSparePort n f).srcHoldover = s.srcHoldover := rfl
@[simp] theorem State.updSparePort_met (n : Nat) (f : Port → Port) : (s.updSparePort n f).met = s.met := rfl
@[simp] theorem State.updSparePort_metRepairs (n : Nat) (f : Port → Port) : (s.updSparePort n f).metRepairs = s.metRepairs := rfl
@[simp] theorem State.updSparePort_boot (n : Nat) (f : Port → Port) : (s.updSparePort n f).boot = s.boot := rfl
@[simp] theorem State.updSparePort_nextIncident (n : Nat) (f : Port → Port) : (s.updSparePort n f).nextIncident = s.nextIncident := rfl
@[simp] theorem State.updSparePort_highSince (n : Nat) (f : Port → Port) : (s.updSparePort n f).highSince = s.highSince := rfl
@[simp] theorem State.updSparePort_bellRel (n : Nat) (f : Port → Port) : (s.updSparePort n f).bellRel = s.bellRel := rfl
@[simp] theorem State.updSparePort_toZero (n : Nat) (f : Port → Port) : (s.updSparePort n f).toZero = s.toZero := rfl
@[simp] theorem State.updSparePort_freeCtr (n : Nat) (f : Port → Port) : (s.updSparePort n f).freeCtr = s.freeCtr := rfl
@[simp] theorem State.updSparePort_pending (n : Nat) (f : Port → Port) : (s.updSparePort n f).pending = s.pending := rfl

@[simp] theorem State.updLantern_cores (n : Nat) (f : Port → Port) : (s.updLantern n f).cores = s.cores := rfl
@[simp] theorem State.updLantern_pavs (n : Nat) (f : Port → Port) : (s.updLantern n f).pavs = s.pavs := rfl
@[simp] theorem State.updLantern_sites (n : Nat) (f : Port → Port) : (s.updLantern n f).sites = s.sites := rfl
@[simp] theorem State.updLantern_oras (n : Nat) (f : Port → Port) : (s.updLantern n f).oras = s.oras := rfl
@[simp] theorem State.updLantern_gardens (n : Nat) (f : Port → Port) : (s.updLantern n f).gardens = s.gardens := rfl
@[simp] theorem State.updLantern_chans (n : Nat) (f : Port → Port) : (s.updLantern n f).chans = s.chans := rfl
@[simp] theorem State.updLantern_hostPorts (n : Nat) (f : Port → Port) : (s.updLantern n f).hostPorts = s.hostPorts := rfl
@[simp] theorem State.updLantern_peerPorts (n : Nat) (f : Port → Port) : (s.updLantern n f).peerPorts = s.peerPorts := rfl
@[simp] theorem State.updLantern_sparePorts (n : Nat) (f : Port → Port) : (s.updLantern n f).sparePorts = s.sparePorts := rfl
@[simp] theorem State.updLantern_cartridges (n : Nat) (f : Port → Port) : (s.updLantern n f).cartridges = s.cartridges := rfl
@[simp] theorem State.updLantern_swaps (n : Nat) (f : Port → Port) : (s.updLantern n f).swaps = s.swaps := rfl
@[simp] theorem State.updLantern_sends (n : Nat) (f : Port → Port) : (s.updLantern n f).sends = s.sends := rfl
@[simp] theorem State.updLantern_recvs (n : Nat) (f : Port → Port) : (s.updLantern n f).recvs = s.recvs := rfl
@[simp] theorem State.updLantern_endOut (n : Nat) (f : Port → Port) : (s.updLantern n f).endOut = s.endOut := rfl
@[simp] theorem State.updLantern_endAve (n : Nat) (f : Port → Port) : (s.updLantern n f).endAve = s.endAve := rfl
@[simp] theorem State.updLantern_slow (n : Nat) (f : Port → Port) : (s.updLantern n f).slow = s.slow := rfl
@[simp] theorem State.updLantern_bridgeOut (n : Nat) (f : Port → Port) : (s.updLantern n f).bridgeOut = s.bridgeOut := rfl
@[simp] theorem State.updLantern_bridge (n : Nat) (f : Port → Port) : (s.updLantern n f).bridge = s.bridge := rfl
@[simp] theorem State.updLantern_pm (n : Nat) (f : Port → Port) : (s.updLantern n f).pm = s.pm := rfl
@[simp] theorem State.updLantern_sd (n : Nat) (f : Port → Port) : (s.updLantern n f).sd = s.sd := rfl
@[simp] theorem State.updLantern_pw (n : Nat) (f : Port → Port) : (s.updLantern n f).pw = s.pw := rfl
@[simp] theorem State.updLantern_wd (n : Nat) (f : Port → Port) : (s.updLantern n f).wd = s.wd := rfl
@[simp] theorem State.updLantern_post (n : Nat) (f : Port → Port) : (s.updLantern n f).post = s.post := rfl
@[simp] theorem State.updLantern_disc (n : Nat) (f : Port → Port) : (s.updLantern n f).disc = s.disc := rfl
@[simp] theorem State.updLantern_ice (n : Nat) (f : Port → Port) : (s.updLantern n f).ice = s.ice := rfl
@[simp] theorem State.updLantern_power (n : Nat) (f : Port → Port) : (s.updLantern n f).power = s.power := rfl
@[simp] theorem State.updLantern_start (n : Nat) (f : Port → Port) : (s.updLantern n f).start = s.start := rfl
@[simp] theorem State.updLantern_frank (n : Nat) (f : Port → Port) : (s.updLantern n f).frank = s.frank := rfl
@[simp] theorem State.updLantern_pins (n : Nat) (f : Port → Port) : (s.updLantern n f).pins = s.pins := rfl
@[simp] theorem State.updLantern_test (n : Nat) (f : Port → Port) : (s.updLantern n f).test = s.test := rfl
@[simp] theorem State.updLantern_smbOut (n : Nat) (f : Port → Port) : (s.updLantern n f).smbOut = s.smbOut := rfl
@[simp] theorem State.updLantern_tags (n : Nat) (f : Port → Port) : (s.updLantern n f).tags = s.tags := rfl
@[simp] theorem State.updLantern_records (n : Nat) (f : Port → Port) : (s.updLantern n f).records = s.records := rfl
@[simp] theorem State.updLantern_shadows (n : Nat) (f : Port → Port) : (s.updLantern n f).shadows = s.shadows := rfl
@[simp] theorem State.updLantern_shadowInvalid (n : Nat) (f : Port → Port) : (s.updLantern n f).shadowInvalid = s.shadowInvalid := rfl
@[simp] theorem State.updLantern_cfgActive (n : Nat) (f : Port → Port) : (s.updLantern n f).cfgActive = s.cfgActive := rfl
@[simp] theorem State.updLantern_cfgStaged (n : Nat) (f : Port → Port) : (s.updLantern n f).cfgStaged = s.cfgStaged := rfl
@[simp] theorem State.updLantern_addrErr (n : Nat) (f : Port → Port) : (s.updLantern n f).addrErr = s.addrErr := rfl
@[simp] theorem State.updLantern_srcLocked (n : Nat) (f : Port → Port) : (s.updLantern n f).srcLocked = s.srcLocked := rfl
@[simp] theorem State.updLantern_srcHoldover (n : Nat) (f : Port → Port) : (s.updLantern n f).srcHoldover = s.srcHoldover := rfl
@[simp] theorem State.updLantern_met (n : Nat) (f : Port → Port) : (s.updLantern n f).met = s.met := rfl
@[simp] theorem State.updLantern_metRepairs (n : Nat) (f : Port → Port) : (s.updLantern n f).metRepairs = s.metRepairs := rfl
@[simp] theorem State.updLantern_boot (n : Nat) (f : Port → Port) : (s.updLantern n f).boot = s.boot := rfl
@[simp] theorem State.updLantern_nextIncident (n : Nat) (f : Port → Port) : (s.updLantern n f).nextIncident = s.nextIncident := rfl
@[simp] theorem State.updLantern_highSince (n : Nat) (f : Port → Port) : (s.updLantern n f).highSince = s.highSince := rfl
@[simp] theorem State.updLantern_bellRel (n : Nat) (f : Port → Port) : (s.updLantern n f).bellRel = s.bellRel := rfl
@[simp] theorem State.updLantern_toZero (n : Nat) (f : Port → Port) : (s.updLantern n f).toZero = s.toZero := rfl
@[simp] theorem State.updLantern_freeCtr (n : Nat) (f : Port → Port) : (s.updLantern n f).freeCtr = s.freeCtr := rfl
@[simp] theorem State.updLantern_pending (n : Nat) (f : Port → Port) : (s.updLantern n f).pending = s.pending := rfl

@[simp] theorem State.updCartridge_cores (n : Nat) (f : Cartridge → Cartridge) : (s.updCartridge n f).cores = s.cores := rfl
@[simp] theorem State.updCartridge_pavs (n : Nat) (f : Cartridge → Cartridge) : (s.updCartridge n f).pavs = s.pavs := rfl
@[simp] theorem State.updCartridge_sites (n : Nat) (f : Cartridge → Cartridge) : (s.updCartridge n f).sites = s.sites := rfl
@[simp] theorem State.updCartridge_oras (n : Nat) (f : Cartridge → Cartridge) : (s.updCartridge n f).oras = s.oras := rfl
@[simp] theorem State.updCartridge_gardens (n : Nat) (f : Cartridge → Cartridge) : (s.updCartridge n f).gardens = s.gardens := rfl
@[simp] theorem State.updCartridge_chans (n : Nat) (f : Cartridge → Cartridge) : (s.updCartridge n f).chans = s.chans := rfl
@[simp] theorem State.updCartridge_hostPorts (n : Nat) (f : Cartridge → Cartridge) : (s.updCartridge n f).hostPorts = s.hostPorts := rfl
@[simp] theorem State.updCartridge_peerPorts (n : Nat) (f : Cartridge → Cartridge) : (s.updCartridge n f).peerPorts = s.peerPorts := rfl
@[simp] theorem State.updCartridge_sparePorts (n : Nat) (f : Cartridge → Cartridge) : (s.updCartridge n f).sparePorts = s.sparePorts := rfl
@[simp] theorem State.updCartridge_lanterns (n : Nat) (f : Cartridge → Cartridge) : (s.updCartridge n f).lanterns = s.lanterns := rfl
@[simp] theorem State.updCartridge_swaps (n : Nat) (f : Cartridge → Cartridge) : (s.updCartridge n f).swaps = s.swaps := rfl
@[simp] theorem State.updCartridge_sends (n : Nat) (f : Cartridge → Cartridge) : (s.updCartridge n f).sends = s.sends := rfl
@[simp] theorem State.updCartridge_recvs (n : Nat) (f : Cartridge → Cartridge) : (s.updCartridge n f).recvs = s.recvs := rfl
@[simp] theorem State.updCartridge_endOut (n : Nat) (f : Cartridge → Cartridge) : (s.updCartridge n f).endOut = s.endOut := rfl
@[simp] theorem State.updCartridge_endAve (n : Nat) (f : Cartridge → Cartridge) : (s.updCartridge n f).endAve = s.endAve := rfl
@[simp] theorem State.updCartridge_slow (n : Nat) (f : Cartridge → Cartridge) : (s.updCartridge n f).slow = s.slow := rfl
@[simp] theorem State.updCartridge_bridgeOut (n : Nat) (f : Cartridge → Cartridge) : (s.updCartridge n f).bridgeOut = s.bridgeOut := rfl
@[simp] theorem State.updCartridge_bridge (n : Nat) (f : Cartridge → Cartridge) : (s.updCartridge n f).bridge = s.bridge := rfl
@[simp] theorem State.updCartridge_pm (n : Nat) (f : Cartridge → Cartridge) : (s.updCartridge n f).pm = s.pm := rfl
@[simp] theorem State.updCartridge_sd (n : Nat) (f : Cartridge → Cartridge) : (s.updCartridge n f).sd = s.sd := rfl
@[simp] theorem State.updCartridge_pw (n : Nat) (f : Cartridge → Cartridge) : (s.updCartridge n f).pw = s.pw := rfl
@[simp] theorem State.updCartridge_wd (n : Nat) (f : Cartridge → Cartridge) : (s.updCartridge n f).wd = s.wd := rfl
@[simp] theorem State.updCartridge_post (n : Nat) (f : Cartridge → Cartridge) : (s.updCartridge n f).post = s.post := rfl
@[simp] theorem State.updCartridge_disc (n : Nat) (f : Cartridge → Cartridge) : (s.updCartridge n f).disc = s.disc := rfl
@[simp] theorem State.updCartridge_ice (n : Nat) (f : Cartridge → Cartridge) : (s.updCartridge n f).ice = s.ice := rfl
@[simp] theorem State.updCartridge_power (n : Nat) (f : Cartridge → Cartridge) : (s.updCartridge n f).power = s.power := rfl
@[simp] theorem State.updCartridge_start (n : Nat) (f : Cartridge → Cartridge) : (s.updCartridge n f).start = s.start := rfl
@[simp] theorem State.updCartridge_frank (n : Nat) (f : Cartridge → Cartridge) : (s.updCartridge n f).frank = s.frank := rfl
@[simp] theorem State.updCartridge_pins (n : Nat) (f : Cartridge → Cartridge) : (s.updCartridge n f).pins = s.pins := rfl
@[simp] theorem State.updCartridge_test (n : Nat) (f : Cartridge → Cartridge) : (s.updCartridge n f).test = s.test := rfl
@[simp] theorem State.updCartridge_smbOut (n : Nat) (f : Cartridge → Cartridge) : (s.updCartridge n f).smbOut = s.smbOut := rfl
@[simp] theorem State.updCartridge_tags (n : Nat) (f : Cartridge → Cartridge) : (s.updCartridge n f).tags = s.tags := rfl
@[simp] theorem State.updCartridge_records (n : Nat) (f : Cartridge → Cartridge) : (s.updCartridge n f).records = s.records := rfl
@[simp] theorem State.updCartridge_shadows (n : Nat) (f : Cartridge → Cartridge) : (s.updCartridge n f).shadows = s.shadows := rfl
@[simp] theorem State.updCartridge_shadowInvalid (n : Nat) (f : Cartridge → Cartridge) : (s.updCartridge n f).shadowInvalid = s.shadowInvalid := rfl
@[simp] theorem State.updCartridge_cfgActive (n : Nat) (f : Cartridge → Cartridge) : (s.updCartridge n f).cfgActive = s.cfgActive := rfl
@[simp] theorem State.updCartridge_cfgStaged (n : Nat) (f : Cartridge → Cartridge) : (s.updCartridge n f).cfgStaged = s.cfgStaged := rfl
@[simp] theorem State.updCartridge_addrErr (n : Nat) (f : Cartridge → Cartridge) : (s.updCartridge n f).addrErr = s.addrErr := rfl
@[simp] theorem State.updCartridge_srcLocked (n : Nat) (f : Cartridge → Cartridge) : (s.updCartridge n f).srcLocked = s.srcLocked := rfl
@[simp] theorem State.updCartridge_srcHoldover (n : Nat) (f : Cartridge → Cartridge) : (s.updCartridge n f).srcHoldover = s.srcHoldover := rfl
@[simp] theorem State.updCartridge_met (n : Nat) (f : Cartridge → Cartridge) : (s.updCartridge n f).met = s.met := rfl
@[simp] theorem State.updCartridge_metRepairs (n : Nat) (f : Cartridge → Cartridge) : (s.updCartridge n f).metRepairs = s.metRepairs := rfl
@[simp] theorem State.updCartridge_boot (n : Nat) (f : Cartridge → Cartridge) : (s.updCartridge n f).boot = s.boot := rfl
@[simp] theorem State.updCartridge_nextIncident (n : Nat) (f : Cartridge → Cartridge) : (s.updCartridge n f).nextIncident = s.nextIncident := rfl
@[simp] theorem State.updCartridge_highSince (n : Nat) (f : Cartridge → Cartridge) : (s.updCartridge n f).highSince = s.highSince := rfl
@[simp] theorem State.updCartridge_bellRel (n : Nat) (f : Cartridge → Cartridge) : (s.updCartridge n f).bellRel = s.bellRel := rfl
@[simp] theorem State.updCartridge_toZero (n : Nat) (f : Cartridge → Cartridge) : (s.updCartridge n f).toZero = s.toZero := rfl
@[simp] theorem State.updCartridge_freeCtr (n : Nat) (f : Cartridge → Cartridge) : (s.updCartridge n f).freeCtr = s.freeCtr := rfl
@[simp] theorem State.updCartridge_pending (n : Nat) (f : Cartridge → Cartridge) : (s.updCartridge n f).pending = s.pending := rfl

@[simp] theorem State.updPost_cores (f : Post → Post) : (s.updPost f).cores = s.cores := rfl
@[simp] theorem State.updPost_pavs (f : Post → Post) : (s.updPost f).pavs = s.pavs := rfl
@[simp] theorem State.updPost_sites (f : Post → Post) : (s.updPost f).sites = s.sites := rfl
@[simp] theorem State.updPost_oras (f : Post → Post) : (s.updPost f).oras = s.oras := rfl
@[simp] theorem State.updPost_gardens (f : Post → Post) : (s.updPost f).gardens = s.gardens := rfl
@[simp] theorem State.updPost_chans (f : Post → Post) : (s.updPost f).chans = s.chans := rfl
@[simp] theorem State.updPost_hostPorts (f : Post → Post) : (s.updPost f).hostPorts = s.hostPorts := rfl
@[simp] theorem State.updPost_peerPorts (f : Post → Post) : (s.updPost f).peerPorts = s.peerPorts := rfl
@[simp] theorem State.updPost_sparePorts (f : Post → Post) : (s.updPost f).sparePorts = s.sparePorts := rfl
@[simp] theorem State.updPost_lanterns (f : Post → Post) : (s.updPost f).lanterns = s.lanterns := rfl
@[simp] theorem State.updPost_cartridges (f : Post → Post) : (s.updPost f).cartridges = s.cartridges := rfl
@[simp] theorem State.updPost_swaps (f : Post → Post) : (s.updPost f).swaps = s.swaps := rfl
@[simp] theorem State.updPost_sends (f : Post → Post) : (s.updPost f).sends = s.sends := rfl
@[simp] theorem State.updPost_recvs (f : Post → Post) : (s.updPost f).recvs = s.recvs := rfl
@[simp] theorem State.updPost_endOut (f : Post → Post) : (s.updPost f).endOut = s.endOut := rfl
@[simp] theorem State.updPost_endAve (f : Post → Post) : (s.updPost f).endAve = s.endAve := rfl
@[simp] theorem State.updPost_slow (f : Post → Post) : (s.updPost f).slow = s.slow := rfl
@[simp] theorem State.updPost_bridgeOut (f : Post → Post) : (s.updPost f).bridgeOut = s.bridgeOut := rfl
@[simp] theorem State.updPost_bridge (f : Post → Post) : (s.updPost f).bridge = s.bridge := rfl
@[simp] theorem State.updPost_pm (f : Post → Post) : (s.updPost f).pm = s.pm := rfl
@[simp] theorem State.updPost_sd (f : Post → Post) : (s.updPost f).sd = s.sd := rfl
@[simp] theorem State.updPost_pw (f : Post → Post) : (s.updPost f).pw = s.pw := rfl
@[simp] theorem State.updPost_wd (f : Post → Post) : (s.updPost f).wd = s.wd := rfl
@[simp] theorem State.updPost_disc (f : Post → Post) : (s.updPost f).disc = s.disc := rfl
@[simp] theorem State.updPost_ice (f : Post → Post) : (s.updPost f).ice = s.ice := rfl
@[simp] theorem State.updPost_power (f : Post → Post) : (s.updPost f).power = s.power := rfl
@[simp] theorem State.updPost_start (f : Post → Post) : (s.updPost f).start = s.start := rfl
@[simp] theorem State.updPost_frank (f : Post → Post) : (s.updPost f).frank = s.frank := rfl
@[simp] theorem State.updPost_pins (f : Post → Post) : (s.updPost f).pins = s.pins := rfl
@[simp] theorem State.updPost_test (f : Post → Post) : (s.updPost f).test = s.test := rfl
@[simp] theorem State.updPost_smbOut (f : Post → Post) : (s.updPost f).smbOut = s.smbOut := rfl
@[simp] theorem State.updPost_tags (f : Post → Post) : (s.updPost f).tags = s.tags := rfl
@[simp] theorem State.updPost_records (f : Post → Post) : (s.updPost f).records = s.records := rfl
@[simp] theorem State.updPost_shadows (f : Post → Post) : (s.updPost f).shadows = s.shadows := rfl
@[simp] theorem State.updPost_shadowInvalid (f : Post → Post) : (s.updPost f).shadowInvalid = s.shadowInvalid := rfl
@[simp] theorem State.updPost_cfgActive (f : Post → Post) : (s.updPost f).cfgActive = s.cfgActive := rfl
@[simp] theorem State.updPost_cfgStaged (f : Post → Post) : (s.updPost f).cfgStaged = s.cfgStaged := rfl
@[simp] theorem State.updPost_addrErr (f : Post → Post) : (s.updPost f).addrErr = s.addrErr := rfl
@[simp] theorem State.updPost_srcLocked (f : Post → Post) : (s.updPost f).srcLocked = s.srcLocked := rfl
@[simp] theorem State.updPost_srcHoldover (f : Post → Post) : (s.updPost f).srcHoldover = s.srcHoldover := rfl
@[simp] theorem State.updPost_met (f : Post → Post) : (s.updPost f).met = s.met := rfl
@[simp] theorem State.updPost_metRepairs (f : Post → Post) : (s.updPost f).metRepairs = s.metRepairs := rfl
@[simp] theorem State.updPost_boot (f : Post → Post) : (s.updPost f).boot = s.boot := rfl
@[simp] theorem State.updPost_nextIncident (f : Post → Post) : (s.updPost f).nextIncident = s.nextIncident := rfl
@[simp] theorem State.updPost_highSince (f : Post → Post) : (s.updPost f).highSince = s.highSince := rfl
@[simp] theorem State.updPost_bellRel (f : Post → Post) : (s.updPost f).bellRel = s.bellRel := rfl
@[simp] theorem State.updPost_toZero (f : Post → Post) : (s.updPost f).toZero = s.toZero := rfl
@[simp] theorem State.updPost_freeCtr (f : Post → Post) : (s.updPost f).freeCtr = s.freeCtr := rfl
@[simp] theorem State.updPost_pending (f : Post → Post) : (s.updPost f).pending = s.pending := rfl
@[simp] theorem State.updPost_post (f : Post → Post) : (s.updPost f).post = f s.post := rfl

@[simp] theorem State.updIce_cores (f : Ice → Ice) : (s.updIce f).cores = s.cores := rfl
@[simp] theorem State.updIce_pavs (f : Ice → Ice) : (s.updIce f).pavs = s.pavs := rfl
@[simp] theorem State.updIce_sites (f : Ice → Ice) : (s.updIce f).sites = s.sites := rfl
@[simp] theorem State.updIce_oras (f : Ice → Ice) : (s.updIce f).oras = s.oras := rfl
@[simp] theorem State.updIce_gardens (f : Ice → Ice) : (s.updIce f).gardens = s.gardens := rfl
@[simp] theorem State.updIce_chans (f : Ice → Ice) : (s.updIce f).chans = s.chans := rfl
@[simp] theorem State.updIce_hostPorts (f : Ice → Ice) : (s.updIce f).hostPorts = s.hostPorts := rfl
@[simp] theorem State.updIce_peerPorts (f : Ice → Ice) : (s.updIce f).peerPorts = s.peerPorts := rfl
@[simp] theorem State.updIce_sparePorts (f : Ice → Ice) : (s.updIce f).sparePorts = s.sparePorts := rfl
@[simp] theorem State.updIce_lanterns (f : Ice → Ice) : (s.updIce f).lanterns = s.lanterns := rfl
@[simp] theorem State.updIce_cartridges (f : Ice → Ice) : (s.updIce f).cartridges = s.cartridges := rfl
@[simp] theorem State.updIce_swaps (f : Ice → Ice) : (s.updIce f).swaps = s.swaps := rfl
@[simp] theorem State.updIce_sends (f : Ice → Ice) : (s.updIce f).sends = s.sends := rfl
@[simp] theorem State.updIce_recvs (f : Ice → Ice) : (s.updIce f).recvs = s.recvs := rfl
@[simp] theorem State.updIce_endOut (f : Ice → Ice) : (s.updIce f).endOut = s.endOut := rfl
@[simp] theorem State.updIce_endAve (f : Ice → Ice) : (s.updIce f).endAve = s.endAve := rfl
@[simp] theorem State.updIce_slow (f : Ice → Ice) : (s.updIce f).slow = s.slow := rfl
@[simp] theorem State.updIce_bridgeOut (f : Ice → Ice) : (s.updIce f).bridgeOut = s.bridgeOut := rfl
@[simp] theorem State.updIce_bridge (f : Ice → Ice) : (s.updIce f).bridge = s.bridge := rfl
@[simp] theorem State.updIce_pm (f : Ice → Ice) : (s.updIce f).pm = s.pm := rfl
@[simp] theorem State.updIce_sd (f : Ice → Ice) : (s.updIce f).sd = s.sd := rfl
@[simp] theorem State.updIce_pw (f : Ice → Ice) : (s.updIce f).pw = s.pw := rfl
@[simp] theorem State.updIce_wd (f : Ice → Ice) : (s.updIce f).wd = s.wd := rfl
@[simp] theorem State.updIce_post (f : Ice → Ice) : (s.updIce f).post = s.post := rfl
@[simp] theorem State.updIce_disc (f : Ice → Ice) : (s.updIce f).disc = s.disc := rfl
@[simp] theorem State.updIce_power (f : Ice → Ice) : (s.updIce f).power = s.power := rfl
@[simp] theorem State.updIce_start (f : Ice → Ice) : (s.updIce f).start = s.start := rfl
@[simp] theorem State.updIce_frank (f : Ice → Ice) : (s.updIce f).frank = s.frank := rfl
@[simp] theorem State.updIce_pins (f : Ice → Ice) : (s.updIce f).pins = s.pins := rfl
@[simp] theorem State.updIce_test (f : Ice → Ice) : (s.updIce f).test = s.test := rfl
@[simp] theorem State.updIce_smbOut (f : Ice → Ice) : (s.updIce f).smbOut = s.smbOut := rfl
@[simp] theorem State.updIce_tags (f : Ice → Ice) : (s.updIce f).tags = s.tags := rfl
@[simp] theorem State.updIce_records (f : Ice → Ice) : (s.updIce f).records = s.records := rfl
@[simp] theorem State.updIce_shadows (f : Ice → Ice) : (s.updIce f).shadows = s.shadows := rfl
@[simp] theorem State.updIce_shadowInvalid (f : Ice → Ice) : (s.updIce f).shadowInvalid = s.shadowInvalid := rfl
@[simp] theorem State.updIce_cfgActive (f : Ice → Ice) : (s.updIce f).cfgActive = s.cfgActive := rfl
@[simp] theorem State.updIce_cfgStaged (f : Ice → Ice) : (s.updIce f).cfgStaged = s.cfgStaged := rfl
@[simp] theorem State.updIce_addrErr (f : Ice → Ice) : (s.updIce f).addrErr = s.addrErr := rfl
@[simp] theorem State.updIce_srcLocked (f : Ice → Ice) : (s.updIce f).srcLocked = s.srcLocked := rfl
@[simp] theorem State.updIce_srcHoldover (f : Ice → Ice) : (s.updIce f).srcHoldover = s.srcHoldover := rfl
@[simp] theorem State.updIce_met (f : Ice → Ice) : (s.updIce f).met = s.met := rfl
@[simp] theorem State.updIce_metRepairs (f : Ice → Ice) : (s.updIce f).metRepairs = s.metRepairs := rfl
@[simp] theorem State.updIce_boot (f : Ice → Ice) : (s.updIce f).boot = s.boot := rfl
@[simp] theorem State.updIce_nextIncident (f : Ice → Ice) : (s.updIce f).nextIncident = s.nextIncident := rfl
@[simp] theorem State.updIce_highSince (f : Ice → Ice) : (s.updIce f).highSince = s.highSince := rfl
@[simp] theorem State.updIce_bellRel (f : Ice → Ice) : (s.updIce f).bellRel = s.bellRel := rfl
@[simp] theorem State.updIce_toZero (f : Ice → Ice) : (s.updIce f).toZero = s.toZero := rfl
@[simp] theorem State.updIce_freeCtr (f : Ice → Ice) : (s.updIce f).freeCtr = s.freeCtr := rfl
@[simp] theorem State.updIce_pending (f : Ice → Ice) : (s.updIce f).pending = s.pending := rfl
@[simp] theorem State.updIce_ice (f : Ice → Ice) : (s.updIce f).ice = f s.ice := rfl

@[simp] theorem State.updPower_cores (f : Power → Power) : (s.updPower f).cores = s.cores := rfl
@[simp] theorem State.updPower_pavs (f : Power → Power) : (s.updPower f).pavs = s.pavs := rfl
@[simp] theorem State.updPower_sites (f : Power → Power) : (s.updPower f).sites = s.sites := rfl
@[simp] theorem State.updPower_oras (f : Power → Power) : (s.updPower f).oras = s.oras := rfl
@[simp] theorem State.updPower_gardens (f : Power → Power) : (s.updPower f).gardens = s.gardens := rfl
@[simp] theorem State.updPower_chans (f : Power → Power) : (s.updPower f).chans = s.chans := rfl
@[simp] theorem State.updPower_hostPorts (f : Power → Power) : (s.updPower f).hostPorts = s.hostPorts := rfl
@[simp] theorem State.updPower_peerPorts (f : Power → Power) : (s.updPower f).peerPorts = s.peerPorts := rfl
@[simp] theorem State.updPower_sparePorts (f : Power → Power) : (s.updPower f).sparePorts = s.sparePorts := rfl
@[simp] theorem State.updPower_lanterns (f : Power → Power) : (s.updPower f).lanterns = s.lanterns := rfl
@[simp] theorem State.updPower_cartridges (f : Power → Power) : (s.updPower f).cartridges = s.cartridges := rfl
@[simp] theorem State.updPower_swaps (f : Power → Power) : (s.updPower f).swaps = s.swaps := rfl
@[simp] theorem State.updPower_sends (f : Power → Power) : (s.updPower f).sends = s.sends := rfl
@[simp] theorem State.updPower_recvs (f : Power → Power) : (s.updPower f).recvs = s.recvs := rfl
@[simp] theorem State.updPower_endOut (f : Power → Power) : (s.updPower f).endOut = s.endOut := rfl
@[simp] theorem State.updPower_endAve (f : Power → Power) : (s.updPower f).endAve = s.endAve := rfl
@[simp] theorem State.updPower_slow (f : Power → Power) : (s.updPower f).slow = s.slow := rfl
@[simp] theorem State.updPower_bridgeOut (f : Power → Power) : (s.updPower f).bridgeOut = s.bridgeOut := rfl
@[simp] theorem State.updPower_bridge (f : Power → Power) : (s.updPower f).bridge = s.bridge := rfl
@[simp] theorem State.updPower_pm (f : Power → Power) : (s.updPower f).pm = s.pm := rfl
@[simp] theorem State.updPower_sd (f : Power → Power) : (s.updPower f).sd = s.sd := rfl
@[simp] theorem State.updPower_pw (f : Power → Power) : (s.updPower f).pw = s.pw := rfl
@[simp] theorem State.updPower_wd (f : Power → Power) : (s.updPower f).wd = s.wd := rfl
@[simp] theorem State.updPower_post (f : Power → Power) : (s.updPower f).post = s.post := rfl
@[simp] theorem State.updPower_disc (f : Power → Power) : (s.updPower f).disc = s.disc := rfl
@[simp] theorem State.updPower_ice (f : Power → Power) : (s.updPower f).ice = s.ice := rfl
@[simp] theorem State.updPower_start (f : Power → Power) : (s.updPower f).start = s.start := rfl
@[simp] theorem State.updPower_frank (f : Power → Power) : (s.updPower f).frank = s.frank := rfl
@[simp] theorem State.updPower_pins (f : Power → Power) : (s.updPower f).pins = s.pins := rfl
@[simp] theorem State.updPower_test (f : Power → Power) : (s.updPower f).test = s.test := rfl
@[simp] theorem State.updPower_smbOut (f : Power → Power) : (s.updPower f).smbOut = s.smbOut := rfl
@[simp] theorem State.updPower_tags (f : Power → Power) : (s.updPower f).tags = s.tags := rfl
@[simp] theorem State.updPower_records (f : Power → Power) : (s.updPower f).records = s.records := rfl
@[simp] theorem State.updPower_shadows (f : Power → Power) : (s.updPower f).shadows = s.shadows := rfl
@[simp] theorem State.updPower_shadowInvalid (f : Power → Power) : (s.updPower f).shadowInvalid = s.shadowInvalid := rfl
@[simp] theorem State.updPower_cfgActive (f : Power → Power) : (s.updPower f).cfgActive = s.cfgActive := rfl
@[simp] theorem State.updPower_cfgStaged (f : Power → Power) : (s.updPower f).cfgStaged = s.cfgStaged := rfl
@[simp] theorem State.updPower_addrErr (f : Power → Power) : (s.updPower f).addrErr = s.addrErr := rfl
@[simp] theorem State.updPower_srcLocked (f : Power → Power) : (s.updPower f).srcLocked = s.srcLocked := rfl
@[simp] theorem State.updPower_srcHoldover (f : Power → Power) : (s.updPower f).srcHoldover = s.srcHoldover := rfl
@[simp] theorem State.updPower_met (f : Power → Power) : (s.updPower f).met = s.met := rfl
@[simp] theorem State.updPower_metRepairs (f : Power → Power) : (s.updPower f).metRepairs = s.metRepairs := rfl
@[simp] theorem State.updPower_boot (f : Power → Power) : (s.updPower f).boot = s.boot := rfl
@[simp] theorem State.updPower_nextIncident (f : Power → Power) : (s.updPower f).nextIncident = s.nextIncident := rfl
@[simp] theorem State.updPower_highSince (f : Power → Power) : (s.updPower f).highSince = s.highSince := rfl
@[simp] theorem State.updPower_bellRel (f : Power → Power) : (s.updPower f).bellRel = s.bellRel := rfl
@[simp] theorem State.updPower_toZero (f : Power → Power) : (s.updPower f).toZero = s.toZero := rfl
@[simp] theorem State.updPower_freeCtr (f : Power → Power) : (s.updPower f).freeCtr = s.freeCtr := rfl
@[simp] theorem State.updPower_pending (f : Power → Power) : (s.updPower f).pending = s.pending := rfl
@[simp] theorem State.updPower_power (f : Power → Power) : (s.updPower f).power = f s.power := rfl

@[simp] theorem State.setPm_cores (f : Fld) (v : Nat) : (s.setPm f v).cores = s.cores := rfl
@[simp] theorem State.setPm_pavs (f : Fld) (v : Nat) : (s.setPm f v).pavs = s.pavs := rfl
@[simp] theorem State.setPm_sites (f : Fld) (v : Nat) : (s.setPm f v).sites = s.sites := rfl
@[simp] theorem State.setPm_oras (f : Fld) (v : Nat) : (s.setPm f v).oras = s.oras := rfl
@[simp] theorem State.setPm_gardens (f : Fld) (v : Nat) : (s.setPm f v).gardens = s.gardens := rfl
@[simp] theorem State.setPm_chans (f : Fld) (v : Nat) : (s.setPm f v).chans = s.chans := rfl
@[simp] theorem State.setPm_hostPorts (f : Fld) (v : Nat) : (s.setPm f v).hostPorts = s.hostPorts := rfl
@[simp] theorem State.setPm_peerPorts (f : Fld) (v : Nat) : (s.setPm f v).peerPorts = s.peerPorts := rfl
@[simp] theorem State.setPm_sparePorts (f : Fld) (v : Nat) : (s.setPm f v).sparePorts = s.sparePorts := rfl
@[simp] theorem State.setPm_lanterns (f : Fld) (v : Nat) : (s.setPm f v).lanterns = s.lanterns := rfl
@[simp] theorem State.setPm_cartridges (f : Fld) (v : Nat) : (s.setPm f v).cartridges = s.cartridges := rfl
@[simp] theorem State.setPm_swaps (f : Fld) (v : Nat) : (s.setPm f v).swaps = s.swaps := rfl
@[simp] theorem State.setPm_sends (f : Fld) (v : Nat) : (s.setPm f v).sends = s.sends := rfl
@[simp] theorem State.setPm_recvs (f : Fld) (v : Nat) : (s.setPm f v).recvs = s.recvs := rfl
@[simp] theorem State.setPm_endOut (f : Fld) (v : Nat) : (s.setPm f v).endOut = s.endOut := rfl
@[simp] theorem State.setPm_endAve (f : Fld) (v : Nat) : (s.setPm f v).endAve = s.endAve := rfl
@[simp] theorem State.setPm_slow (f : Fld) (v : Nat) : (s.setPm f v).slow = s.slow := rfl
@[simp] theorem State.setPm_bridgeOut (f : Fld) (v : Nat) : (s.setPm f v).bridgeOut = s.bridgeOut := rfl
@[simp] theorem State.setPm_bridge (f : Fld) (v : Nat) : (s.setPm f v).bridge = s.bridge := rfl
@[simp] theorem State.setPm_sd (f : Fld) (v : Nat) : (s.setPm f v).sd = s.sd := rfl
@[simp] theorem State.setPm_pw (f : Fld) (v : Nat) : (s.setPm f v).pw = s.pw := rfl
@[simp] theorem State.setPm_wd (f : Fld) (v : Nat) : (s.setPm f v).wd = s.wd := rfl
@[simp] theorem State.setPm_post (f : Fld) (v : Nat) : (s.setPm f v).post = s.post := rfl
@[simp] theorem State.setPm_disc (f : Fld) (v : Nat) : (s.setPm f v).disc = s.disc := rfl
@[simp] theorem State.setPm_ice (f : Fld) (v : Nat) : (s.setPm f v).ice = s.ice := rfl
@[simp] theorem State.setPm_power (f : Fld) (v : Nat) : (s.setPm f v).power = s.power := rfl
@[simp] theorem State.setPm_start (f : Fld) (v : Nat) : (s.setPm f v).start = s.start := rfl
@[simp] theorem State.setPm_frank (f : Fld) (v : Nat) : (s.setPm f v).frank = s.frank := rfl
@[simp] theorem State.setPm_pins (f : Fld) (v : Nat) : (s.setPm f v).pins = s.pins := rfl
@[simp] theorem State.setPm_test (f : Fld) (v : Nat) : (s.setPm f v).test = s.test := rfl
@[simp] theorem State.setPm_smbOut (f : Fld) (v : Nat) : (s.setPm f v).smbOut = s.smbOut := rfl
@[simp] theorem State.setPm_tags (f : Fld) (v : Nat) : (s.setPm f v).tags = s.tags := rfl
@[simp] theorem State.setPm_records (f : Fld) (v : Nat) : (s.setPm f v).records = s.records := rfl
@[simp] theorem State.setPm_shadows (f : Fld) (v : Nat) : (s.setPm f v).shadows = s.shadows := rfl
@[simp] theorem State.setPm_shadowInvalid (f : Fld) (v : Nat) : (s.setPm f v).shadowInvalid = s.shadowInvalid := rfl
@[simp] theorem State.setPm_cfgActive (f : Fld) (v : Nat) : (s.setPm f v).cfgActive = s.cfgActive := rfl
@[simp] theorem State.setPm_cfgStaged (f : Fld) (v : Nat) : (s.setPm f v).cfgStaged = s.cfgStaged := rfl
@[simp] theorem State.setPm_addrErr (f : Fld) (v : Nat) : (s.setPm f v).addrErr = s.addrErr := rfl
@[simp] theorem State.setPm_srcLocked (f : Fld) (v : Nat) : (s.setPm f v).srcLocked = s.srcLocked := rfl
@[simp] theorem State.setPm_srcHoldover (f : Fld) (v : Nat) : (s.setPm f v).srcHoldover = s.srcHoldover := rfl
@[simp] theorem State.setPm_met (f : Fld) (v : Nat) : (s.setPm f v).met = s.met := rfl
@[simp] theorem State.setPm_metRepairs (f : Fld) (v : Nat) : (s.setPm f v).metRepairs = s.metRepairs := rfl
@[simp] theorem State.setPm_boot (f : Fld) (v : Nat) : (s.setPm f v).boot = s.boot := rfl
@[simp] theorem State.setPm_nextIncident (f : Fld) (v : Nat) : (s.setPm f v).nextIncident = s.nextIncident := rfl
@[simp] theorem State.setPm_highSince (f : Fld) (v : Nat) : (s.setPm f v).highSince = s.highSince := rfl
@[simp] theorem State.setPm_bellRel (f : Fld) (v : Nat) : (s.setPm f v).bellRel = s.bellRel := rfl
@[simp] theorem State.setPm_toZero (f : Fld) (v : Nat) : (s.setPm f v).toZero = s.toZero := rfl
@[simp] theorem State.setPm_freeCtr (f : Fld) (v : Nat) : (s.setPm f v).freeCtr = s.freeCtr := rfl
@[simp] theorem State.setPm_pending (f : Fld) (v : Nat) : (s.setPm f v).pending = s.pending := rfl
@[simp] theorem State.setPm_pm (f : Fld) (v : Nat) : (s.setPm f v).pm = setF f v s.pm := rfl

@[simp] theorem State.setSd_cores (f : Fld) (v : Nat) : (s.setSd f v).cores = s.cores := rfl
@[simp] theorem State.setSd_pavs (f : Fld) (v : Nat) : (s.setSd f v).pavs = s.pavs := rfl
@[simp] theorem State.setSd_sites (f : Fld) (v : Nat) : (s.setSd f v).sites = s.sites := rfl
@[simp] theorem State.setSd_oras (f : Fld) (v : Nat) : (s.setSd f v).oras = s.oras := rfl
@[simp] theorem State.setSd_gardens (f : Fld) (v : Nat) : (s.setSd f v).gardens = s.gardens := rfl
@[simp] theorem State.setSd_chans (f : Fld) (v : Nat) : (s.setSd f v).chans = s.chans := rfl
@[simp] theorem State.setSd_hostPorts (f : Fld) (v : Nat) : (s.setSd f v).hostPorts = s.hostPorts := rfl
@[simp] theorem State.setSd_peerPorts (f : Fld) (v : Nat) : (s.setSd f v).peerPorts = s.peerPorts := rfl
@[simp] theorem State.setSd_sparePorts (f : Fld) (v : Nat) : (s.setSd f v).sparePorts = s.sparePorts := rfl
@[simp] theorem State.setSd_lanterns (f : Fld) (v : Nat) : (s.setSd f v).lanterns = s.lanterns := rfl
@[simp] theorem State.setSd_cartridges (f : Fld) (v : Nat) : (s.setSd f v).cartridges = s.cartridges := rfl
@[simp] theorem State.setSd_swaps (f : Fld) (v : Nat) : (s.setSd f v).swaps = s.swaps := rfl
@[simp] theorem State.setSd_sends (f : Fld) (v : Nat) : (s.setSd f v).sends = s.sends := rfl
@[simp] theorem State.setSd_recvs (f : Fld) (v : Nat) : (s.setSd f v).recvs = s.recvs := rfl
@[simp] theorem State.setSd_endOut (f : Fld) (v : Nat) : (s.setSd f v).endOut = s.endOut := rfl
@[simp] theorem State.setSd_endAve (f : Fld) (v : Nat) : (s.setSd f v).endAve = s.endAve := rfl
@[simp] theorem State.setSd_slow (f : Fld) (v : Nat) : (s.setSd f v).slow = s.slow := rfl
@[simp] theorem State.setSd_bridgeOut (f : Fld) (v : Nat) : (s.setSd f v).bridgeOut = s.bridgeOut := rfl
@[simp] theorem State.setSd_bridge (f : Fld) (v : Nat) : (s.setSd f v).bridge = s.bridge := rfl
@[simp] theorem State.setSd_pm (f : Fld) (v : Nat) : (s.setSd f v).pm = s.pm := rfl
@[simp] theorem State.setSd_pw (f : Fld) (v : Nat) : (s.setSd f v).pw = s.pw := rfl
@[simp] theorem State.setSd_wd (f : Fld) (v : Nat) : (s.setSd f v).wd = s.wd := rfl
@[simp] theorem State.setSd_post (f : Fld) (v : Nat) : (s.setSd f v).post = s.post := rfl
@[simp] theorem State.setSd_disc (f : Fld) (v : Nat) : (s.setSd f v).disc = s.disc := rfl
@[simp] theorem State.setSd_ice (f : Fld) (v : Nat) : (s.setSd f v).ice = s.ice := rfl
@[simp] theorem State.setSd_power (f : Fld) (v : Nat) : (s.setSd f v).power = s.power := rfl
@[simp] theorem State.setSd_start (f : Fld) (v : Nat) : (s.setSd f v).start = s.start := rfl
@[simp] theorem State.setSd_frank (f : Fld) (v : Nat) : (s.setSd f v).frank = s.frank := rfl
@[simp] theorem State.setSd_pins (f : Fld) (v : Nat) : (s.setSd f v).pins = s.pins := rfl
@[simp] theorem State.setSd_test (f : Fld) (v : Nat) : (s.setSd f v).test = s.test := rfl
@[simp] theorem State.setSd_smbOut (f : Fld) (v : Nat) : (s.setSd f v).smbOut = s.smbOut := rfl
@[simp] theorem State.setSd_tags (f : Fld) (v : Nat) : (s.setSd f v).tags = s.tags := rfl
@[simp] theorem State.setSd_records (f : Fld) (v : Nat) : (s.setSd f v).records = s.records := rfl
@[simp] theorem State.setSd_shadows (f : Fld) (v : Nat) : (s.setSd f v).shadows = s.shadows := rfl
@[simp] theorem State.setSd_shadowInvalid (f : Fld) (v : Nat) : (s.setSd f v).shadowInvalid = s.shadowInvalid := rfl
@[simp] theorem State.setSd_cfgActive (f : Fld) (v : Nat) : (s.setSd f v).cfgActive = s.cfgActive := rfl
@[simp] theorem State.setSd_cfgStaged (f : Fld) (v : Nat) : (s.setSd f v).cfgStaged = s.cfgStaged := rfl
@[simp] theorem State.setSd_addrErr (f : Fld) (v : Nat) : (s.setSd f v).addrErr = s.addrErr := rfl
@[simp] theorem State.setSd_srcLocked (f : Fld) (v : Nat) : (s.setSd f v).srcLocked = s.srcLocked := rfl
@[simp] theorem State.setSd_srcHoldover (f : Fld) (v : Nat) : (s.setSd f v).srcHoldover = s.srcHoldover := rfl
@[simp] theorem State.setSd_met (f : Fld) (v : Nat) : (s.setSd f v).met = s.met := rfl
@[simp] theorem State.setSd_metRepairs (f : Fld) (v : Nat) : (s.setSd f v).metRepairs = s.metRepairs := rfl
@[simp] theorem State.setSd_boot (f : Fld) (v : Nat) : (s.setSd f v).boot = s.boot := rfl
@[simp] theorem State.setSd_nextIncident (f : Fld) (v : Nat) : (s.setSd f v).nextIncident = s.nextIncident := rfl
@[simp] theorem State.setSd_highSince (f : Fld) (v : Nat) : (s.setSd f v).highSince = s.highSince := rfl
@[simp] theorem State.setSd_bellRel (f : Fld) (v : Nat) : (s.setSd f v).bellRel = s.bellRel := rfl
@[simp] theorem State.setSd_toZero (f : Fld) (v : Nat) : (s.setSd f v).toZero = s.toZero := rfl
@[simp] theorem State.setSd_freeCtr (f : Fld) (v : Nat) : (s.setSd f v).freeCtr = s.freeCtr := rfl
@[simp] theorem State.setSd_pending (f : Fld) (v : Nat) : (s.setSd f v).pending = s.pending := rfl
@[simp] theorem State.setSd_sd (f : Fld) (v : Nat) : (s.setSd f v).sd = setF f v s.sd := rfl

@[simp] theorem State.setPw_cores (f : Fld) (v : Nat) : (s.setPw f v).cores = s.cores := rfl
@[simp] theorem State.setPw_pavs (f : Fld) (v : Nat) : (s.setPw f v).pavs = s.pavs := rfl
@[simp] theorem State.setPw_sites (f : Fld) (v : Nat) : (s.setPw f v).sites = s.sites := rfl
@[simp] theorem State.setPw_oras (f : Fld) (v : Nat) : (s.setPw f v).oras = s.oras := rfl
@[simp] theorem State.setPw_gardens (f : Fld) (v : Nat) : (s.setPw f v).gardens = s.gardens := rfl
@[simp] theorem State.setPw_chans (f : Fld) (v : Nat) : (s.setPw f v).chans = s.chans := rfl
@[simp] theorem State.setPw_hostPorts (f : Fld) (v : Nat) : (s.setPw f v).hostPorts = s.hostPorts := rfl
@[simp] theorem State.setPw_peerPorts (f : Fld) (v : Nat) : (s.setPw f v).peerPorts = s.peerPorts := rfl
@[simp] theorem State.setPw_sparePorts (f : Fld) (v : Nat) : (s.setPw f v).sparePorts = s.sparePorts := rfl
@[simp] theorem State.setPw_lanterns (f : Fld) (v : Nat) : (s.setPw f v).lanterns = s.lanterns := rfl
@[simp] theorem State.setPw_cartridges (f : Fld) (v : Nat) : (s.setPw f v).cartridges = s.cartridges := rfl
@[simp] theorem State.setPw_swaps (f : Fld) (v : Nat) : (s.setPw f v).swaps = s.swaps := rfl
@[simp] theorem State.setPw_sends (f : Fld) (v : Nat) : (s.setPw f v).sends = s.sends := rfl
@[simp] theorem State.setPw_recvs (f : Fld) (v : Nat) : (s.setPw f v).recvs = s.recvs := rfl
@[simp] theorem State.setPw_endOut (f : Fld) (v : Nat) : (s.setPw f v).endOut = s.endOut := rfl
@[simp] theorem State.setPw_endAve (f : Fld) (v : Nat) : (s.setPw f v).endAve = s.endAve := rfl
@[simp] theorem State.setPw_slow (f : Fld) (v : Nat) : (s.setPw f v).slow = s.slow := rfl
@[simp] theorem State.setPw_bridgeOut (f : Fld) (v : Nat) : (s.setPw f v).bridgeOut = s.bridgeOut := rfl
@[simp] theorem State.setPw_bridge (f : Fld) (v : Nat) : (s.setPw f v).bridge = s.bridge := rfl
@[simp] theorem State.setPw_pm (f : Fld) (v : Nat) : (s.setPw f v).pm = s.pm := rfl
@[simp] theorem State.setPw_sd (f : Fld) (v : Nat) : (s.setPw f v).sd = s.sd := rfl
@[simp] theorem State.setPw_wd (f : Fld) (v : Nat) : (s.setPw f v).wd = s.wd := rfl
@[simp] theorem State.setPw_post (f : Fld) (v : Nat) : (s.setPw f v).post = s.post := rfl
@[simp] theorem State.setPw_disc (f : Fld) (v : Nat) : (s.setPw f v).disc = s.disc := rfl
@[simp] theorem State.setPw_ice (f : Fld) (v : Nat) : (s.setPw f v).ice = s.ice := rfl
@[simp] theorem State.setPw_power (f : Fld) (v : Nat) : (s.setPw f v).power = s.power := rfl
@[simp] theorem State.setPw_start (f : Fld) (v : Nat) : (s.setPw f v).start = s.start := rfl
@[simp] theorem State.setPw_frank (f : Fld) (v : Nat) : (s.setPw f v).frank = s.frank := rfl
@[simp] theorem State.setPw_pins (f : Fld) (v : Nat) : (s.setPw f v).pins = s.pins := rfl
@[simp] theorem State.setPw_test (f : Fld) (v : Nat) : (s.setPw f v).test = s.test := rfl
@[simp] theorem State.setPw_smbOut (f : Fld) (v : Nat) : (s.setPw f v).smbOut = s.smbOut := rfl
@[simp] theorem State.setPw_tags (f : Fld) (v : Nat) : (s.setPw f v).tags = s.tags := rfl
@[simp] theorem State.setPw_records (f : Fld) (v : Nat) : (s.setPw f v).records = s.records := rfl
@[simp] theorem State.setPw_shadows (f : Fld) (v : Nat) : (s.setPw f v).shadows = s.shadows := rfl
@[simp] theorem State.setPw_shadowInvalid (f : Fld) (v : Nat) : (s.setPw f v).shadowInvalid = s.shadowInvalid := rfl
@[simp] theorem State.setPw_cfgActive (f : Fld) (v : Nat) : (s.setPw f v).cfgActive = s.cfgActive := rfl
@[simp] theorem State.setPw_cfgStaged (f : Fld) (v : Nat) : (s.setPw f v).cfgStaged = s.cfgStaged := rfl
@[simp] theorem State.setPw_addrErr (f : Fld) (v : Nat) : (s.setPw f v).addrErr = s.addrErr := rfl
@[simp] theorem State.setPw_srcLocked (f : Fld) (v : Nat) : (s.setPw f v).srcLocked = s.srcLocked := rfl
@[simp] theorem State.setPw_srcHoldover (f : Fld) (v : Nat) : (s.setPw f v).srcHoldover = s.srcHoldover := rfl
@[simp] theorem State.setPw_met (f : Fld) (v : Nat) : (s.setPw f v).met = s.met := rfl
@[simp] theorem State.setPw_metRepairs (f : Fld) (v : Nat) : (s.setPw f v).metRepairs = s.metRepairs := rfl
@[simp] theorem State.setPw_boot (f : Fld) (v : Nat) : (s.setPw f v).boot = s.boot := rfl
@[simp] theorem State.setPw_nextIncident (f : Fld) (v : Nat) : (s.setPw f v).nextIncident = s.nextIncident := rfl
@[simp] theorem State.setPw_highSince (f : Fld) (v : Nat) : (s.setPw f v).highSince = s.highSince := rfl
@[simp] theorem State.setPw_bellRel (f : Fld) (v : Nat) : (s.setPw f v).bellRel = s.bellRel := rfl
@[simp] theorem State.setPw_toZero (f : Fld) (v : Nat) : (s.setPw f v).toZero = s.toZero := rfl
@[simp] theorem State.setPw_freeCtr (f : Fld) (v : Nat) : (s.setPw f v).freeCtr = s.freeCtr := rfl
@[simp] theorem State.setPw_pending (f : Fld) (v : Nat) : (s.setPw f v).pending = s.pending := rfl
@[simp] theorem State.setPw_pw (f : Fld) (v : Nat) : (s.setPw f v).pw = setF f v s.pw := rfl

@[simp] theorem State.setWd_cores (f : Fld) (v : Nat) : (s.setWd f v).cores = s.cores := rfl
@[simp] theorem State.setWd_pavs (f : Fld) (v : Nat) : (s.setWd f v).pavs = s.pavs := rfl
@[simp] theorem State.setWd_sites (f : Fld) (v : Nat) : (s.setWd f v).sites = s.sites := rfl
@[simp] theorem State.setWd_oras (f : Fld) (v : Nat) : (s.setWd f v).oras = s.oras := rfl
@[simp] theorem State.setWd_gardens (f : Fld) (v : Nat) : (s.setWd f v).gardens = s.gardens := rfl
@[simp] theorem State.setWd_chans (f : Fld) (v : Nat) : (s.setWd f v).chans = s.chans := rfl
@[simp] theorem State.setWd_hostPorts (f : Fld) (v : Nat) : (s.setWd f v).hostPorts = s.hostPorts := rfl
@[simp] theorem State.setWd_peerPorts (f : Fld) (v : Nat) : (s.setWd f v).peerPorts = s.peerPorts := rfl
@[simp] theorem State.setWd_sparePorts (f : Fld) (v : Nat) : (s.setWd f v).sparePorts = s.sparePorts := rfl
@[simp] theorem State.setWd_lanterns (f : Fld) (v : Nat) : (s.setWd f v).lanterns = s.lanterns := rfl
@[simp] theorem State.setWd_cartridges (f : Fld) (v : Nat) : (s.setWd f v).cartridges = s.cartridges := rfl
@[simp] theorem State.setWd_swaps (f : Fld) (v : Nat) : (s.setWd f v).swaps = s.swaps := rfl
@[simp] theorem State.setWd_sends (f : Fld) (v : Nat) : (s.setWd f v).sends = s.sends := rfl
@[simp] theorem State.setWd_recvs (f : Fld) (v : Nat) : (s.setWd f v).recvs = s.recvs := rfl
@[simp] theorem State.setWd_endOut (f : Fld) (v : Nat) : (s.setWd f v).endOut = s.endOut := rfl
@[simp] theorem State.setWd_endAve (f : Fld) (v : Nat) : (s.setWd f v).endAve = s.endAve := rfl
@[simp] theorem State.setWd_slow (f : Fld) (v : Nat) : (s.setWd f v).slow = s.slow := rfl
@[simp] theorem State.setWd_bridgeOut (f : Fld) (v : Nat) : (s.setWd f v).bridgeOut = s.bridgeOut := rfl
@[simp] theorem State.setWd_bridge (f : Fld) (v : Nat) : (s.setWd f v).bridge = s.bridge := rfl
@[simp] theorem State.setWd_pm (f : Fld) (v : Nat) : (s.setWd f v).pm = s.pm := rfl
@[simp] theorem State.setWd_sd (f : Fld) (v : Nat) : (s.setWd f v).sd = s.sd := rfl
@[simp] theorem State.setWd_pw (f : Fld) (v : Nat) : (s.setWd f v).pw = s.pw := rfl
@[simp] theorem State.setWd_post (f : Fld) (v : Nat) : (s.setWd f v).post = s.post := rfl
@[simp] theorem State.setWd_disc (f : Fld) (v : Nat) : (s.setWd f v).disc = s.disc := rfl
@[simp] theorem State.setWd_ice (f : Fld) (v : Nat) : (s.setWd f v).ice = s.ice := rfl
@[simp] theorem State.setWd_power (f : Fld) (v : Nat) : (s.setWd f v).power = s.power := rfl
@[simp] theorem State.setWd_start (f : Fld) (v : Nat) : (s.setWd f v).start = s.start := rfl
@[simp] theorem State.setWd_frank (f : Fld) (v : Nat) : (s.setWd f v).frank = s.frank := rfl
@[simp] theorem State.setWd_pins (f : Fld) (v : Nat) : (s.setWd f v).pins = s.pins := rfl
@[simp] theorem State.setWd_test (f : Fld) (v : Nat) : (s.setWd f v).test = s.test := rfl
@[simp] theorem State.setWd_smbOut (f : Fld) (v : Nat) : (s.setWd f v).smbOut = s.smbOut := rfl
@[simp] theorem State.setWd_tags (f : Fld) (v : Nat) : (s.setWd f v).tags = s.tags := rfl
@[simp] theorem State.setWd_records (f : Fld) (v : Nat) : (s.setWd f v).records = s.records := rfl
@[simp] theorem State.setWd_shadows (f : Fld) (v : Nat) : (s.setWd f v).shadows = s.shadows := rfl
@[simp] theorem State.setWd_shadowInvalid (f : Fld) (v : Nat) : (s.setWd f v).shadowInvalid = s.shadowInvalid := rfl
@[simp] theorem State.setWd_cfgActive (f : Fld) (v : Nat) : (s.setWd f v).cfgActive = s.cfgActive := rfl
@[simp] theorem State.setWd_cfgStaged (f : Fld) (v : Nat) : (s.setWd f v).cfgStaged = s.cfgStaged := rfl
@[simp] theorem State.setWd_addrErr (f : Fld) (v : Nat) : (s.setWd f v).addrErr = s.addrErr := rfl
@[simp] theorem State.setWd_srcLocked (f : Fld) (v : Nat) : (s.setWd f v).srcLocked = s.srcLocked := rfl
@[simp] theorem State.setWd_srcHoldover (f : Fld) (v : Nat) : (s.setWd f v).srcHoldover = s.srcHoldover := rfl
@[simp] theorem State.setWd_met (f : Fld) (v : Nat) : (s.setWd f v).met = s.met := rfl
@[simp] theorem State.setWd_metRepairs (f : Fld) (v : Nat) : (s.setWd f v).metRepairs = s.metRepairs := rfl
@[simp] theorem State.setWd_boot (f : Fld) (v : Nat) : (s.setWd f v).boot = s.boot := rfl
@[simp] theorem State.setWd_nextIncident (f : Fld) (v : Nat) : (s.setWd f v).nextIncident = s.nextIncident := rfl
@[simp] theorem State.setWd_highSince (f : Fld) (v : Nat) : (s.setWd f v).highSince = s.highSince := rfl
@[simp] theorem State.setWd_bellRel (f : Fld) (v : Nat) : (s.setWd f v).bellRel = s.bellRel := rfl
@[simp] theorem State.setWd_toZero (f : Fld) (v : Nat) : (s.setWd f v).toZero = s.toZero := rfl
@[simp] theorem State.setWd_freeCtr (f : Fld) (v : Nat) : (s.setWd f v).freeCtr = s.freeCtr := rfl
@[simp] theorem State.setWd_pending (f : Fld) (v : Nat) : (s.setWd f v).pending = s.pending := rfl
@[simp] theorem State.setWd_wd (f : Fld) (v : Nat) : (s.setWd f v).wd = setF f v s.wd := rfl

@[simp] theorem State.incWd_cores (f : Fld) (n : Nat) : (s.incWd f n).cores = s.cores := rfl
@[simp] theorem State.incWd_pavs (f : Fld) (n : Nat) : (s.incWd f n).pavs = s.pavs := rfl
@[simp] theorem State.incWd_sites (f : Fld) (n : Nat) : (s.incWd f n).sites = s.sites := rfl
@[simp] theorem State.incWd_oras (f : Fld) (n : Nat) : (s.incWd f n).oras = s.oras := rfl
@[simp] theorem State.incWd_gardens (f : Fld) (n : Nat) : (s.incWd f n).gardens = s.gardens := rfl
@[simp] theorem State.incWd_chans (f : Fld) (n : Nat) : (s.incWd f n).chans = s.chans := rfl
@[simp] theorem State.incWd_hostPorts (f : Fld) (n : Nat) : (s.incWd f n).hostPorts = s.hostPorts := rfl
@[simp] theorem State.incWd_peerPorts (f : Fld) (n : Nat) : (s.incWd f n).peerPorts = s.peerPorts := rfl
@[simp] theorem State.incWd_sparePorts (f : Fld) (n : Nat) : (s.incWd f n).sparePorts = s.sparePorts := rfl
@[simp] theorem State.incWd_lanterns (f : Fld) (n : Nat) : (s.incWd f n).lanterns = s.lanterns := rfl
@[simp] theorem State.incWd_cartridges (f : Fld) (n : Nat) : (s.incWd f n).cartridges = s.cartridges := rfl
@[simp] theorem State.incWd_swaps (f : Fld) (n : Nat) : (s.incWd f n).swaps = s.swaps := rfl
@[simp] theorem State.incWd_sends (f : Fld) (n : Nat) : (s.incWd f n).sends = s.sends := rfl
@[simp] theorem State.incWd_recvs (f : Fld) (n : Nat) : (s.incWd f n).recvs = s.recvs := rfl
@[simp] theorem State.incWd_endOut (f : Fld) (n : Nat) : (s.incWd f n).endOut = s.endOut := rfl
@[simp] theorem State.incWd_endAve (f : Fld) (n : Nat) : (s.incWd f n).endAve = s.endAve := rfl
@[simp] theorem State.incWd_slow (f : Fld) (n : Nat) : (s.incWd f n).slow = s.slow := rfl
@[simp] theorem State.incWd_bridgeOut (f : Fld) (n : Nat) : (s.incWd f n).bridgeOut = s.bridgeOut := rfl
@[simp] theorem State.incWd_bridge (f : Fld) (n : Nat) : (s.incWd f n).bridge = s.bridge := rfl
@[simp] theorem State.incWd_pm (f : Fld) (n : Nat) : (s.incWd f n).pm = s.pm := rfl
@[simp] theorem State.incWd_sd (f : Fld) (n : Nat) : (s.incWd f n).sd = s.sd := rfl
@[simp] theorem State.incWd_pw (f : Fld) (n : Nat) : (s.incWd f n).pw = s.pw := rfl
@[simp] theorem State.incWd_post (f : Fld) (n : Nat) : (s.incWd f n).post = s.post := rfl
@[simp] theorem State.incWd_disc (f : Fld) (n : Nat) : (s.incWd f n).disc = s.disc := rfl
@[simp] theorem State.incWd_ice (f : Fld) (n : Nat) : (s.incWd f n).ice = s.ice := rfl
@[simp] theorem State.incWd_power (f : Fld) (n : Nat) : (s.incWd f n).power = s.power := rfl
@[simp] theorem State.incWd_start (f : Fld) (n : Nat) : (s.incWd f n).start = s.start := rfl
@[simp] theorem State.incWd_frank (f : Fld) (n : Nat) : (s.incWd f n).frank = s.frank := rfl
@[simp] theorem State.incWd_pins (f : Fld) (n : Nat) : (s.incWd f n).pins = s.pins := rfl
@[simp] theorem State.incWd_test (f : Fld) (n : Nat) : (s.incWd f n).test = s.test := rfl
@[simp] theorem State.incWd_smbOut (f : Fld) (n : Nat) : (s.incWd f n).smbOut = s.smbOut := rfl
@[simp] theorem State.incWd_tags (f : Fld) (n : Nat) : (s.incWd f n).tags = s.tags := rfl
@[simp] theorem State.incWd_records (f : Fld) (n : Nat) : (s.incWd f n).records = s.records := rfl
@[simp] theorem State.incWd_shadows (f : Fld) (n : Nat) : (s.incWd f n).shadows = s.shadows := rfl
@[simp] theorem State.incWd_shadowInvalid (f : Fld) (n : Nat) : (s.incWd f n).shadowInvalid = s.shadowInvalid := rfl
@[simp] theorem State.incWd_cfgActive (f : Fld) (n : Nat) : (s.incWd f n).cfgActive = s.cfgActive := rfl
@[simp] theorem State.incWd_cfgStaged (f : Fld) (n : Nat) : (s.incWd f n).cfgStaged = s.cfgStaged := rfl
@[simp] theorem State.incWd_addrErr (f : Fld) (n : Nat) : (s.incWd f n).addrErr = s.addrErr := rfl
@[simp] theorem State.incWd_srcLocked (f : Fld) (n : Nat) : (s.incWd f n).srcLocked = s.srcLocked := rfl
@[simp] theorem State.incWd_srcHoldover (f : Fld) (n : Nat) : (s.incWd f n).srcHoldover = s.srcHoldover := rfl
@[simp] theorem State.incWd_met (f : Fld) (n : Nat) : (s.incWd f n).met = s.met := rfl
@[simp] theorem State.incWd_metRepairs (f : Fld) (n : Nat) : (s.incWd f n).metRepairs = s.metRepairs := rfl
@[simp] theorem State.incWd_boot (f : Fld) (n : Nat) : (s.incWd f n).boot = s.boot := rfl
@[simp] theorem State.incWd_nextIncident (f : Fld) (n : Nat) : (s.incWd f n).nextIncident = s.nextIncident := rfl
@[simp] theorem State.incWd_highSince (f : Fld) (n : Nat) : (s.incWd f n).highSince = s.highSince := rfl
@[simp] theorem State.incWd_bellRel (f : Fld) (n : Nat) : (s.incWd f n).bellRel = s.bellRel := rfl
@[simp] theorem State.incWd_toZero (f : Fld) (n : Nat) : (s.incWd f n).toZero = s.toZero := rfl
@[simp] theorem State.incWd_freeCtr (f : Fld) (n : Nat) : (s.incWd f n).freeCtr = s.freeCtr := rfl
@[simp] theorem State.incWd_pending (f : Fld) (n : Nat) : (s.incWd f n).pending = s.pending := rfl
@[simp] theorem State.incWd_wd (f : Fld) (n : Nat) : (s.incWd f n).wd = incF f n s.wd := rfl

@[simp] theorem State.incPw_cores (f : Fld) (n : Nat) : (s.incPw f n).cores = s.cores := rfl
@[simp] theorem State.incPw_pavs (f : Fld) (n : Nat) : (s.incPw f n).pavs = s.pavs := rfl
@[simp] theorem State.incPw_sites (f : Fld) (n : Nat) : (s.incPw f n).sites = s.sites := rfl
@[simp] theorem State.incPw_oras (f : Fld) (n : Nat) : (s.incPw f n).oras = s.oras := rfl
@[simp] theorem State.incPw_gardens (f : Fld) (n : Nat) : (s.incPw f n).gardens = s.gardens := rfl
@[simp] theorem State.incPw_chans (f : Fld) (n : Nat) : (s.incPw f n).chans = s.chans := rfl
@[simp] theorem State.incPw_hostPorts (f : Fld) (n : Nat) : (s.incPw f n).hostPorts = s.hostPorts := rfl
@[simp] theorem State.incPw_peerPorts (f : Fld) (n : Nat) : (s.incPw f n).peerPorts = s.peerPorts := rfl
@[simp] theorem State.incPw_sparePorts (f : Fld) (n : Nat) : (s.incPw f n).sparePorts = s.sparePorts := rfl
@[simp] theorem State.incPw_lanterns (f : Fld) (n : Nat) : (s.incPw f n).lanterns = s.lanterns := rfl
@[simp] theorem State.incPw_cartridges (f : Fld) (n : Nat) : (s.incPw f n).cartridges = s.cartridges := rfl
@[simp] theorem State.incPw_swaps (f : Fld) (n : Nat) : (s.incPw f n).swaps = s.swaps := rfl
@[simp] theorem State.incPw_sends (f : Fld) (n : Nat) : (s.incPw f n).sends = s.sends := rfl
@[simp] theorem State.incPw_recvs (f : Fld) (n : Nat) : (s.incPw f n).recvs = s.recvs := rfl
@[simp] theorem State.incPw_endOut (f : Fld) (n : Nat) : (s.incPw f n).endOut = s.endOut := rfl
@[simp] theorem State.incPw_endAve (f : Fld) (n : Nat) : (s.incPw f n).endAve = s.endAve := rfl
@[simp] theorem State.incPw_slow (f : Fld) (n : Nat) : (s.incPw f n).slow = s.slow := rfl
@[simp] theorem State.incPw_bridgeOut (f : Fld) (n : Nat) : (s.incPw f n).bridgeOut = s.bridgeOut := rfl
@[simp] theorem State.incPw_bridge (f : Fld) (n : Nat) : (s.incPw f n).bridge = s.bridge := rfl
@[simp] theorem State.incPw_pm (f : Fld) (n : Nat) : (s.incPw f n).pm = s.pm := rfl
@[simp] theorem State.incPw_sd (f : Fld) (n : Nat) : (s.incPw f n).sd = s.sd := rfl
@[simp] theorem State.incPw_wd (f : Fld) (n : Nat) : (s.incPw f n).wd = s.wd := rfl
@[simp] theorem State.incPw_post (f : Fld) (n : Nat) : (s.incPw f n).post = s.post := rfl
@[simp] theorem State.incPw_disc (f : Fld) (n : Nat) : (s.incPw f n).disc = s.disc := rfl
@[simp] theorem State.incPw_ice (f : Fld) (n : Nat) : (s.incPw f n).ice = s.ice := rfl
@[simp] theorem State.incPw_power (f : Fld) (n : Nat) : (s.incPw f n).power = s.power := rfl
@[simp] theorem State.incPw_start (f : Fld) (n : Nat) : (s.incPw f n).start = s.start := rfl
@[simp] theorem State.incPw_frank (f : Fld) (n : Nat) : (s.incPw f n).frank = s.frank := rfl
@[simp] theorem State.incPw_pins (f : Fld) (n : Nat) : (s.incPw f n).pins = s.pins := rfl
@[simp] theorem State.incPw_test (f : Fld) (n : Nat) : (s.incPw f n).test = s.test := rfl
@[simp] theorem State.incPw_smbOut (f : Fld) (n : Nat) : (s.incPw f n).smbOut = s.smbOut := rfl
@[simp] theorem State.incPw_tags (f : Fld) (n : Nat) : (s.incPw f n).tags = s.tags := rfl
@[simp] theorem State.incPw_records (f : Fld) (n : Nat) : (s.incPw f n).records = s.records := rfl
@[simp] theorem State.incPw_shadows (f : Fld) (n : Nat) : (s.incPw f n).shadows = s.shadows := rfl
@[simp] theorem State.incPw_shadowInvalid (f : Fld) (n : Nat) : (s.incPw f n).shadowInvalid = s.shadowInvalid := rfl
@[simp] theorem State.incPw_cfgActive (f : Fld) (n : Nat) : (s.incPw f n).cfgActive = s.cfgActive := rfl
@[simp] theorem State.incPw_cfgStaged (f : Fld) (n : Nat) : (s.incPw f n).cfgStaged = s.cfgStaged := rfl
@[simp] theorem State.incPw_addrErr (f : Fld) (n : Nat) : (s.incPw f n).addrErr = s.addrErr := rfl
@[simp] theorem State.incPw_srcLocked (f : Fld) (n : Nat) : (s.incPw f n).srcLocked = s.srcLocked := rfl
@[simp] theorem State.incPw_srcHoldover (f : Fld) (n : Nat) : (s.incPw f n).srcHoldover = s.srcHoldover := rfl
@[simp] theorem State.incPw_met (f : Fld) (n : Nat) : (s.incPw f n).met = s.met := rfl
@[simp] theorem State.incPw_metRepairs (f : Fld) (n : Nat) : (s.incPw f n).metRepairs = s.metRepairs := rfl
@[simp] theorem State.incPw_boot (f : Fld) (n : Nat) : (s.incPw f n).boot = s.boot := rfl
@[simp] theorem State.incPw_nextIncident (f : Fld) (n : Nat) : (s.incPw f n).nextIncident = s.nextIncident := rfl
@[simp] theorem State.incPw_highSince (f : Fld) (n : Nat) : (s.incPw f n).highSince = s.highSince := rfl
@[simp] theorem State.incPw_bellRel (f : Fld) (n : Nat) : (s.incPw f n).bellRel = s.bellRel := rfl
@[simp] theorem State.incPw_toZero (f : Fld) (n : Nat) : (s.incPw f n).toZero = s.toZero := rfl
@[simp] theorem State.incPw_freeCtr (f : Fld) (n : Nat) : (s.incPw f n).freeCtr = s.freeCtr := rfl
@[simp] theorem State.incPw_pending (f : Fld) (n : Nat) : (s.incPw f n).pending = s.pending := rfl
@[simp] theorem State.incPw_pw (f : Fld) (n : Nat) : (s.incPw f n).pw = incF f n s.pw := rfl

@[simp] theorem State.incSd_cores (f : Fld) (n : Nat) : (s.incSd f n).cores = s.cores := rfl
@[simp] theorem State.incSd_pavs (f : Fld) (n : Nat) : (s.incSd f n).pavs = s.pavs := rfl
@[simp] theorem State.incSd_sites (f : Fld) (n : Nat) : (s.incSd f n).sites = s.sites := rfl
@[simp] theorem State.incSd_oras (f : Fld) (n : Nat) : (s.incSd f n).oras = s.oras := rfl
@[simp] theorem State.incSd_gardens (f : Fld) (n : Nat) : (s.incSd f n).gardens = s.gardens := rfl
@[simp] theorem State.incSd_chans (f : Fld) (n : Nat) : (s.incSd f n).chans = s.chans := rfl
@[simp] theorem State.incSd_hostPorts (f : Fld) (n : Nat) : (s.incSd f n).hostPorts = s.hostPorts := rfl
@[simp] theorem State.incSd_peerPorts (f : Fld) (n : Nat) : (s.incSd f n).peerPorts = s.peerPorts := rfl
@[simp] theorem State.incSd_sparePorts (f : Fld) (n : Nat) : (s.incSd f n).sparePorts = s.sparePorts := rfl
@[simp] theorem State.incSd_lanterns (f : Fld) (n : Nat) : (s.incSd f n).lanterns = s.lanterns := rfl
@[simp] theorem State.incSd_cartridges (f : Fld) (n : Nat) : (s.incSd f n).cartridges = s.cartridges := rfl
@[simp] theorem State.incSd_swaps (f : Fld) (n : Nat) : (s.incSd f n).swaps = s.swaps := rfl
@[simp] theorem State.incSd_sends (f : Fld) (n : Nat) : (s.incSd f n).sends = s.sends := rfl
@[simp] theorem State.incSd_recvs (f : Fld) (n : Nat) : (s.incSd f n).recvs = s.recvs := rfl
@[simp] theorem State.incSd_endOut (f : Fld) (n : Nat) : (s.incSd f n).endOut = s.endOut := rfl
@[simp] theorem State.incSd_endAve (f : Fld) (n : Nat) : (s.incSd f n).endAve = s.endAve := rfl
@[simp] theorem State.incSd_slow (f : Fld) (n : Nat) : (s.incSd f n).slow = s.slow := rfl
@[simp] theorem State.incSd_bridgeOut (f : Fld) (n : Nat) : (s.incSd f n).bridgeOut = s.bridgeOut := rfl
@[simp] theorem State.incSd_bridge (f : Fld) (n : Nat) : (s.incSd f n).bridge = s.bridge := rfl
@[simp] theorem State.incSd_pm (f : Fld) (n : Nat) : (s.incSd f n).pm = s.pm := rfl
@[simp] theorem State.incSd_pw (f : Fld) (n : Nat) : (s.incSd f n).pw = s.pw := rfl
@[simp] theorem State.incSd_wd (f : Fld) (n : Nat) : (s.incSd f n).wd = s.wd := rfl
@[simp] theorem State.incSd_post (f : Fld) (n : Nat) : (s.incSd f n).post = s.post := rfl
@[simp] theorem State.incSd_disc (f : Fld) (n : Nat) : (s.incSd f n).disc = s.disc := rfl
@[simp] theorem State.incSd_ice (f : Fld) (n : Nat) : (s.incSd f n).ice = s.ice := rfl
@[simp] theorem State.incSd_power (f : Fld) (n : Nat) : (s.incSd f n).power = s.power := rfl
@[simp] theorem State.incSd_start (f : Fld) (n : Nat) : (s.incSd f n).start = s.start := rfl
@[simp] theorem State.incSd_frank (f : Fld) (n : Nat) : (s.incSd f n).frank = s.frank := rfl
@[simp] theorem State.incSd_pins (f : Fld) (n : Nat) : (s.incSd f n).pins = s.pins := rfl
@[simp] theorem State.incSd_test (f : Fld) (n : Nat) : (s.incSd f n).test = s.test := rfl
@[simp] theorem State.incSd_smbOut (f : Fld) (n : Nat) : (s.incSd f n).smbOut = s.smbOut := rfl
@[simp] theorem State.incSd_tags (f : Fld) (n : Nat) : (s.incSd f n).tags = s.tags := rfl
@[simp] theorem State.incSd_records (f : Fld) (n : Nat) : (s.incSd f n).records = s.records := rfl
@[simp] theorem State.incSd_shadows (f : Fld) (n : Nat) : (s.incSd f n).shadows = s.shadows := rfl
@[simp] theorem State.incSd_shadowInvalid (f : Fld) (n : Nat) : (s.incSd f n).shadowInvalid = s.shadowInvalid := rfl
@[simp] theorem State.incSd_cfgActive (f : Fld) (n : Nat) : (s.incSd f n).cfgActive = s.cfgActive := rfl
@[simp] theorem State.incSd_cfgStaged (f : Fld) (n : Nat) : (s.incSd f n).cfgStaged = s.cfgStaged := rfl
@[simp] theorem State.incSd_addrErr (f : Fld) (n : Nat) : (s.incSd f n).addrErr = s.addrErr := rfl
@[simp] theorem State.incSd_srcLocked (f : Fld) (n : Nat) : (s.incSd f n).srcLocked = s.srcLocked := rfl
@[simp] theorem State.incSd_srcHoldover (f : Fld) (n : Nat) : (s.incSd f n).srcHoldover = s.srcHoldover := rfl
@[simp] theorem State.incSd_met (f : Fld) (n : Nat) : (s.incSd f n).met = s.met := rfl
@[simp] theorem State.incSd_metRepairs (f : Fld) (n : Nat) : (s.incSd f n).metRepairs = s.metRepairs := rfl
@[simp] theorem State.incSd_boot (f : Fld) (n : Nat) : (s.incSd f n).boot = s.boot := rfl
@[simp] theorem State.incSd_nextIncident (f : Fld) (n : Nat) : (s.incSd f n).nextIncident = s.nextIncident := rfl
@[simp] theorem State.incSd_highSince (f : Fld) (n : Nat) : (s.incSd f n).highSince = s.highSince := rfl
@[simp] theorem State.incSd_bellRel (f : Fld) (n : Nat) : (s.incSd f n).bellRel = s.bellRel := rfl
@[simp] theorem State.incSd_toZero (f : Fld) (n : Nat) : (s.incSd f n).toZero = s.toZero := rfl
@[simp] theorem State.incSd_freeCtr (f : Fld) (n : Nat) : (s.incSd f n).freeCtr = s.freeCtr := rfl
@[simp] theorem State.incSd_pending (f : Fld) (n : Nat) : (s.incSd f n).pending = s.pending := rfl
@[simp] theorem State.incSd_sd (f : Fld) (n : Nat) : (s.incSd f n).sd = incF f n s.sd := rfl

/-! ### A unit of one kind after an update of another -/

@[simp] theorem State.setCore_pav_as (c : Nat) (k : Core) (i : Nat) : (s.setCore c k).pav i = s.pav i := rfl
@[simp] theorem State.setCore_site_as (c : Nat) (k : Core) (i : Nat) : (s.setCore c k).site i = s.site i := rfl
@[simp] theorem State.setCore_orang_as (c : Nat) (k : Core) (i : Nat) : (s.setCore c k).orang i = s.orang i := rfl
@[simp] theorem State.setCore_garden_as (c : Nat) (k : Core) (i : Nat) : (s.setCore c k).garden i = s.garden i := rfl
@[simp] theorem State.setCore_chan_as (c : Nat) (k : Core) (i : Nat) : (s.setCore c k).chan i = s.chan i := rfl
@[simp] theorem State.setCore_hostPort_as (c : Nat) (k : Core) (i : Nat) : (s.setCore c k).hostPort i = s.hostPort i := rfl
@[simp] theorem State.setCore_peerPort_as (c : Nat) (k : Core) (i : Nat) : (s.setCore c k).peerPort i = s.peerPort i := rfl
@[simp] theorem State.setCore_sparePort_as (c : Nat) (k : Core) (i : Nat) : (s.setCore c k).sparePort i = s.sparePort i := rfl
@[simp] theorem State.setCore_lantern_as (c : Nat) (k : Core) (i : Nat) : (s.setCore c k).lantern i = s.lantern i := rfl
@[simp] theorem State.setCore_cartridge_as (c : Nat) (k : Core) (i : Nat) : (s.setCore c k).cartridge i = s.cartridge i := rfl

@[simp] theorem State.updCore_pav_as (c : Nat) (f : Core → Core) (i : Nat) : (s.updCore c f).pav i = s.pav i := rfl
@[simp] theorem State.updCore_site_as (c : Nat) (f : Core → Core) (i : Nat) : (s.updCore c f).site i = s.site i := rfl
@[simp] theorem State.updCore_orang_as (c : Nat) (f : Core → Core) (i : Nat) : (s.updCore c f).orang i = s.orang i := rfl
@[simp] theorem State.updCore_garden_as (c : Nat) (f : Core → Core) (i : Nat) : (s.updCore c f).garden i = s.garden i := rfl
@[simp] theorem State.updCore_chan_as (c : Nat) (f : Core → Core) (i : Nat) : (s.updCore c f).chan i = s.chan i := rfl
@[simp] theorem State.updCore_hostPort_as (c : Nat) (f : Core → Core) (i : Nat) : (s.updCore c f).hostPort i = s.hostPort i := rfl
@[simp] theorem State.updCore_peerPort_as (c : Nat) (f : Core → Core) (i : Nat) : (s.updCore c f).peerPort i = s.peerPort i := rfl
@[simp] theorem State.updCore_sparePort_as (c : Nat) (f : Core → Core) (i : Nat) : (s.updCore c f).sparePort i = s.sparePort i := rfl
@[simp] theorem State.updCore_lantern_as (c : Nat) (f : Core → Core) (i : Nat) : (s.updCore c f).lantern i = s.lantern i := rfl
@[simp] theorem State.updCore_cartridge_as (c : Nat) (f : Core → Core) (i : Nat) : (s.updCore c f).cartridge i = s.cartridge i := rfl

@[simp] theorem State.setPav_core_as (p : Nat) (v : Pav) (i : Nat) : (s.setPav p v).core i = s.core i := rfl
@[simp] theorem State.setPav_site_as (p : Nat) (v : Pav) (i : Nat) : (s.setPav p v).site i = s.site i := rfl
@[simp] theorem State.setPav_orang_as (p : Nat) (v : Pav) (i : Nat) : (s.setPav p v).orang i = s.orang i := rfl
@[simp] theorem State.setPav_garden_as (p : Nat) (v : Pav) (i : Nat) : (s.setPav p v).garden i = s.garden i := rfl
@[simp] theorem State.setPav_chan_as (p : Nat) (v : Pav) (i : Nat) : (s.setPav p v).chan i = s.chan i := rfl
@[simp] theorem State.setPav_hostPort_as (p : Nat) (v : Pav) (i : Nat) : (s.setPav p v).hostPort i = s.hostPort i := rfl
@[simp] theorem State.setPav_peerPort_as (p : Nat) (v : Pav) (i : Nat) : (s.setPav p v).peerPort i = s.peerPort i := rfl
@[simp] theorem State.setPav_sparePort_as (p : Nat) (v : Pav) (i : Nat) : (s.setPav p v).sparePort i = s.sparePort i := rfl
@[simp] theorem State.setPav_lantern_as (p : Nat) (v : Pav) (i : Nat) : (s.setPav p v).lantern i = s.lantern i := rfl
@[simp] theorem State.setPav_cartridge_as (p : Nat) (v : Pav) (i : Nat) : (s.setPav p v).cartridge i = s.cartridge i := rfl

@[simp] theorem State.updPav_core_as (p : Nat) (f : Pav → Pav) (i : Nat) : (s.updPav p f).core i = s.core i := rfl
@[simp] theorem State.updPav_site_as (p : Nat) (f : Pav → Pav) (i : Nat) : (s.updPav p f).site i = s.site i := rfl
@[simp] theorem State.updPav_orang_as (p : Nat) (f : Pav → Pav) (i : Nat) : (s.updPav p f).orang i = s.orang i := rfl
@[simp] theorem State.updPav_garden_as (p : Nat) (f : Pav → Pav) (i : Nat) : (s.updPav p f).garden i = s.garden i := rfl
@[simp] theorem State.updPav_chan_as (p : Nat) (f : Pav → Pav) (i : Nat) : (s.updPav p f).chan i = s.chan i := rfl
@[simp] theorem State.updPav_hostPort_as (p : Nat) (f : Pav → Pav) (i : Nat) : (s.updPav p f).hostPort i = s.hostPort i := rfl
@[simp] theorem State.updPav_peerPort_as (p : Nat) (f : Pav → Pav) (i : Nat) : (s.updPav p f).peerPort i = s.peerPort i := rfl
@[simp] theorem State.updPav_sparePort_as (p : Nat) (f : Pav → Pav) (i : Nat) : (s.updPav p f).sparePort i = s.sparePort i := rfl
@[simp] theorem State.updPav_lantern_as (p : Nat) (f : Pav → Pav) (i : Nat) : (s.updPav p f).lantern i = s.lantern i := rfl
@[simp] theorem State.updPav_cartridge_as (p : Nat) (f : Pav → Pav) (i : Nat) : (s.updPav p f).cartridge i = s.cartridge i := rfl

@[simp] theorem State.updSite_core_as (c : Nat) (f : Site → Site) (i : Nat) : (s.updSite c f).core i = s.core i := rfl
@[simp] theorem State.updSite_pav_as (c : Nat) (f : Site → Site) (i : Nat) : (s.updSite c f).pav i = s.pav i := rfl
@[simp] theorem State.updSite_orang_as (c : Nat) (f : Site → Site) (i : Nat) : (s.updSite c f).orang i = s.orang i := rfl
@[simp] theorem State.updSite_garden_as (c : Nat) (f : Site → Site) (i : Nat) : (s.updSite c f).garden i = s.garden i := rfl
@[simp] theorem State.updSite_chan_as (c : Nat) (f : Site → Site) (i : Nat) : (s.updSite c f).chan i = s.chan i := rfl
@[simp] theorem State.updSite_hostPort_as (c : Nat) (f : Site → Site) (i : Nat) : (s.updSite c f).hostPort i = s.hostPort i := rfl
@[simp] theorem State.updSite_peerPort_as (c : Nat) (f : Site → Site) (i : Nat) : (s.updSite c f).peerPort i = s.peerPort i := rfl
@[simp] theorem State.updSite_sparePort_as (c : Nat) (f : Site → Site) (i : Nat) : (s.updSite c f).sparePort i = s.sparePort i := rfl
@[simp] theorem State.updSite_lantern_as (c : Nat) (f : Site → Site) (i : Nat) : (s.updSite c f).lantern i = s.lantern i := rfl
@[simp] theorem State.updSite_cartridge_as (c : Nat) (f : Site → Site) (i : Nat) : (s.updSite c f).cartridge i = s.cartridge i := rfl

@[simp] theorem State.setOra_core_as (o : Nat) (v : Ora) (i : Nat) : (s.setOra o v).core i = s.core i := rfl
@[simp] theorem State.setOra_pav_as (o : Nat) (v : Ora) (i : Nat) : (s.setOra o v).pav i = s.pav i := rfl
@[simp] theorem State.setOra_site_as (o : Nat) (v : Ora) (i : Nat) : (s.setOra o v).site i = s.site i := rfl
@[simp] theorem State.setOra_garden_as (o : Nat) (v : Ora) (i : Nat) : (s.setOra o v).garden i = s.garden i := rfl
@[simp] theorem State.setOra_chan_as (o : Nat) (v : Ora) (i : Nat) : (s.setOra o v).chan i = s.chan i := rfl
@[simp] theorem State.setOra_hostPort_as (o : Nat) (v : Ora) (i : Nat) : (s.setOra o v).hostPort i = s.hostPort i := rfl
@[simp] theorem State.setOra_peerPort_as (o : Nat) (v : Ora) (i : Nat) : (s.setOra o v).peerPort i = s.peerPort i := rfl
@[simp] theorem State.setOra_sparePort_as (o : Nat) (v : Ora) (i : Nat) : (s.setOra o v).sparePort i = s.sparePort i := rfl
@[simp] theorem State.setOra_lantern_as (o : Nat) (v : Ora) (i : Nat) : (s.setOra o v).lantern i = s.lantern i := rfl
@[simp] theorem State.setOra_cartridge_as (o : Nat) (v : Ora) (i : Nat) : (s.setOra o v).cartridge i = s.cartridge i := rfl

@[simp] theorem State.updOra_core_as (o : Nat) (f : Ora → Ora) (i : Nat) : (s.updOra o f).core i = s.core i := rfl
@[simp] theorem State.updOra_pav_as (o : Nat) (f : Ora → Ora) (i : Nat) : (s.updOra o f).pav i = s.pav i := rfl
@[simp] theorem State.updOra_site_as (o : Nat) (f : Ora → Ora) (i : Nat) : (s.updOra o f).site i = s.site i := rfl
@[simp] theorem State.updOra_garden_as (o : Nat) (f : Ora → Ora) (i : Nat) : (s.updOra o f).garden i = s.garden i := rfl
@[simp] theorem State.updOra_chan_as (o : Nat) (f : Ora → Ora) (i : Nat) : (s.updOra o f).chan i = s.chan i := rfl
@[simp] theorem State.updOra_hostPort_as (o : Nat) (f : Ora → Ora) (i : Nat) : (s.updOra o f).hostPort i = s.hostPort i := rfl
@[simp] theorem State.updOra_peerPort_as (o : Nat) (f : Ora → Ora) (i : Nat) : (s.updOra o f).peerPort i = s.peerPort i := rfl
@[simp] theorem State.updOra_sparePort_as (o : Nat) (f : Ora → Ora) (i : Nat) : (s.updOra o f).sparePort i = s.sparePort i := rfl
@[simp] theorem State.updOra_lantern_as (o : Nat) (f : Ora → Ora) (i : Nat) : (s.updOra o f).lantern i = s.lantern i := rfl
@[simp] theorem State.updOra_cartridge_as (o : Nat) (f : Ora → Ora) (i : Nat) : (s.updOra o f).cartridge i = s.cartridge i := rfl

@[simp] theorem State.updGarden_core_as (g : Nat) (f : Gdn → Gdn) (i : Nat) : (s.updGarden g f).core i = s.core i := rfl
@[simp] theorem State.updGarden_pav_as (g : Nat) (f : Gdn → Gdn) (i : Nat) : (s.updGarden g f).pav i = s.pav i := rfl
@[simp] theorem State.updGarden_site_as (g : Nat) (f : Gdn → Gdn) (i : Nat) : (s.updGarden g f).site i = s.site i := rfl
@[simp] theorem State.updGarden_orang_as (g : Nat) (f : Gdn → Gdn) (i : Nat) : (s.updGarden g f).orang i = s.orang i := rfl
@[simp] theorem State.updGarden_chan_as (g : Nat) (f : Gdn → Gdn) (i : Nat) : (s.updGarden g f).chan i = s.chan i := rfl
@[simp] theorem State.updGarden_hostPort_as (g : Nat) (f : Gdn → Gdn) (i : Nat) : (s.updGarden g f).hostPort i = s.hostPort i := rfl
@[simp] theorem State.updGarden_peerPort_as (g : Nat) (f : Gdn → Gdn) (i : Nat) : (s.updGarden g f).peerPort i = s.peerPort i := rfl
@[simp] theorem State.updGarden_sparePort_as (g : Nat) (f : Gdn → Gdn) (i : Nat) : (s.updGarden g f).sparePort i = s.sparePort i := rfl
@[simp] theorem State.updGarden_lantern_as (g : Nat) (f : Gdn → Gdn) (i : Nat) : (s.updGarden g f).lantern i = s.lantern i := rfl
@[simp] theorem State.updGarden_cartridge_as (g : Nat) (f : Gdn → Gdn) (i : Nat) : (s.updGarden g f).cartridge i = s.cartridge i := rfl

@[simp] theorem State.updChan_core_as (n : Nat) (f : Chan → Chan) (i : Nat) : (s.updChan n f).core i = s.core i := rfl
@[simp] theorem State.updChan_pav_as (n : Nat) (f : Chan → Chan) (i : Nat) : (s.updChan n f).pav i = s.pav i := rfl
@[simp] theorem State.updChan_site_as (n : Nat) (f : Chan → Chan) (i : Nat) : (s.updChan n f).site i = s.site i := rfl
@[simp] theorem State.updChan_orang_as (n : Nat) (f : Chan → Chan) (i : Nat) : (s.updChan n f).orang i = s.orang i := rfl
@[simp] theorem State.updChan_garden_as (n : Nat) (f : Chan → Chan) (i : Nat) : (s.updChan n f).garden i = s.garden i := rfl
@[simp] theorem State.updChan_hostPort_as (n : Nat) (f : Chan → Chan) (i : Nat) : (s.updChan n f).hostPort i = s.hostPort i := rfl
@[simp] theorem State.updChan_peerPort_as (n : Nat) (f : Chan → Chan) (i : Nat) : (s.updChan n f).peerPort i = s.peerPort i := rfl
@[simp] theorem State.updChan_sparePort_as (n : Nat) (f : Chan → Chan) (i : Nat) : (s.updChan n f).sparePort i = s.sparePort i := rfl
@[simp] theorem State.updChan_lantern_as (n : Nat) (f : Chan → Chan) (i : Nat) : (s.updChan n f).lantern i = s.lantern i := rfl
@[simp] theorem State.updChan_cartridge_as (n : Nat) (f : Chan → Chan) (i : Nat) : (s.updChan n f).cartridge i = s.cartridge i := rfl

@[simp] theorem State.updHostPort_core_as (n : Nat) (f : Port → Port) (i : Nat) : (s.updHostPort n f).core i = s.core i := rfl
@[simp] theorem State.updHostPort_pav_as (n : Nat) (f : Port → Port) (i : Nat) : (s.updHostPort n f).pav i = s.pav i := rfl
@[simp] theorem State.updHostPort_site_as (n : Nat) (f : Port → Port) (i : Nat) : (s.updHostPort n f).site i = s.site i := rfl
@[simp] theorem State.updHostPort_orang_as (n : Nat) (f : Port → Port) (i : Nat) : (s.updHostPort n f).orang i = s.orang i := rfl
@[simp] theorem State.updHostPort_garden_as (n : Nat) (f : Port → Port) (i : Nat) : (s.updHostPort n f).garden i = s.garden i := rfl
@[simp] theorem State.updHostPort_chan_as (n : Nat) (f : Port → Port) (i : Nat) : (s.updHostPort n f).chan i = s.chan i := rfl
@[simp] theorem State.updHostPort_peerPort_as (n : Nat) (f : Port → Port) (i : Nat) : (s.updHostPort n f).peerPort i = s.peerPort i := rfl
@[simp] theorem State.updHostPort_sparePort_as (n : Nat) (f : Port → Port) (i : Nat) : (s.updHostPort n f).sparePort i = s.sparePort i := rfl
@[simp] theorem State.updHostPort_lantern_as (n : Nat) (f : Port → Port) (i : Nat) : (s.updHostPort n f).lantern i = s.lantern i := rfl
@[simp] theorem State.updHostPort_cartridge_as (n : Nat) (f : Port → Port) (i : Nat) : (s.updHostPort n f).cartridge i = s.cartridge i := rfl

@[simp] theorem State.updPeerPort_core_as (n : Nat) (f : Port → Port) (i : Nat) : (s.updPeerPort n f).core i = s.core i := rfl
@[simp] theorem State.updPeerPort_pav_as (n : Nat) (f : Port → Port) (i : Nat) : (s.updPeerPort n f).pav i = s.pav i := rfl
@[simp] theorem State.updPeerPort_site_as (n : Nat) (f : Port → Port) (i : Nat) : (s.updPeerPort n f).site i = s.site i := rfl
@[simp] theorem State.updPeerPort_orang_as (n : Nat) (f : Port → Port) (i : Nat) : (s.updPeerPort n f).orang i = s.orang i := rfl
@[simp] theorem State.updPeerPort_garden_as (n : Nat) (f : Port → Port) (i : Nat) : (s.updPeerPort n f).garden i = s.garden i := rfl
@[simp] theorem State.updPeerPort_chan_as (n : Nat) (f : Port → Port) (i : Nat) : (s.updPeerPort n f).chan i = s.chan i := rfl
@[simp] theorem State.updPeerPort_hostPort_as (n : Nat) (f : Port → Port) (i : Nat) : (s.updPeerPort n f).hostPort i = s.hostPort i := rfl
@[simp] theorem State.updPeerPort_sparePort_as (n : Nat) (f : Port → Port) (i : Nat) : (s.updPeerPort n f).sparePort i = s.sparePort i := rfl
@[simp] theorem State.updPeerPort_lantern_as (n : Nat) (f : Port → Port) (i : Nat) : (s.updPeerPort n f).lantern i = s.lantern i := rfl
@[simp] theorem State.updPeerPort_cartridge_as (n : Nat) (f : Port → Port) (i : Nat) : (s.updPeerPort n f).cartridge i = s.cartridge i := rfl

@[simp] theorem State.updSparePort_core_as (n : Nat) (f : Port → Port) (i : Nat) : (s.updSparePort n f).core i = s.core i := rfl
@[simp] theorem State.updSparePort_pav_as (n : Nat) (f : Port → Port) (i : Nat) : (s.updSparePort n f).pav i = s.pav i := rfl
@[simp] theorem State.updSparePort_site_as (n : Nat) (f : Port → Port) (i : Nat) : (s.updSparePort n f).site i = s.site i := rfl
@[simp] theorem State.updSparePort_orang_as (n : Nat) (f : Port → Port) (i : Nat) : (s.updSparePort n f).orang i = s.orang i := rfl
@[simp] theorem State.updSparePort_garden_as (n : Nat) (f : Port → Port) (i : Nat) : (s.updSparePort n f).garden i = s.garden i := rfl
@[simp] theorem State.updSparePort_chan_as (n : Nat) (f : Port → Port) (i : Nat) : (s.updSparePort n f).chan i = s.chan i := rfl
@[simp] theorem State.updSparePort_hostPort_as (n : Nat) (f : Port → Port) (i : Nat) : (s.updSparePort n f).hostPort i = s.hostPort i := rfl
@[simp] theorem State.updSparePort_peerPort_as (n : Nat) (f : Port → Port) (i : Nat) : (s.updSparePort n f).peerPort i = s.peerPort i := rfl
@[simp] theorem State.updSparePort_lantern_as (n : Nat) (f : Port → Port) (i : Nat) : (s.updSparePort n f).lantern i = s.lantern i := rfl
@[simp] theorem State.updSparePort_cartridge_as (n : Nat) (f : Port → Port) (i : Nat) : (s.updSparePort n f).cartridge i = s.cartridge i := rfl

@[simp] theorem State.updLantern_core_as (n : Nat) (f : Port → Port) (i : Nat) : (s.updLantern n f).core i = s.core i := rfl
@[simp] theorem State.updLantern_pav_as (n : Nat) (f : Port → Port) (i : Nat) : (s.updLantern n f).pav i = s.pav i := rfl
@[simp] theorem State.updLantern_site_as (n : Nat) (f : Port → Port) (i : Nat) : (s.updLantern n f).site i = s.site i := rfl
@[simp] theorem State.updLantern_orang_as (n : Nat) (f : Port → Port) (i : Nat) : (s.updLantern n f).orang i = s.orang i := rfl
@[simp] theorem State.updLantern_garden_as (n : Nat) (f : Port → Port) (i : Nat) : (s.updLantern n f).garden i = s.garden i := rfl
@[simp] theorem State.updLantern_chan_as (n : Nat) (f : Port → Port) (i : Nat) : (s.updLantern n f).chan i = s.chan i := rfl
@[simp] theorem State.updLantern_hostPort_as (n : Nat) (f : Port → Port) (i : Nat) : (s.updLantern n f).hostPort i = s.hostPort i := rfl
@[simp] theorem State.updLantern_peerPort_as (n : Nat) (f : Port → Port) (i : Nat) : (s.updLantern n f).peerPort i = s.peerPort i := rfl
@[simp] theorem State.updLantern_sparePort_as (n : Nat) (f : Port → Port) (i : Nat) : (s.updLantern n f).sparePort i = s.sparePort i := rfl
@[simp] theorem State.updLantern_cartridge_as (n : Nat) (f : Port → Port) (i : Nat) : (s.updLantern n f).cartridge i = s.cartridge i := rfl

@[simp] theorem State.updCartridge_core_as (n : Nat) (f : Cartridge → Cartridge) (i : Nat) : (s.updCartridge n f).core i = s.core i := rfl
@[simp] theorem State.updCartridge_pav_as (n : Nat) (f : Cartridge → Cartridge) (i : Nat) : (s.updCartridge n f).pav i = s.pav i := rfl
@[simp] theorem State.updCartridge_site_as (n : Nat) (f : Cartridge → Cartridge) (i : Nat) : (s.updCartridge n f).site i = s.site i := rfl
@[simp] theorem State.updCartridge_orang_as (n : Nat) (f : Cartridge → Cartridge) (i : Nat) : (s.updCartridge n f).orang i = s.orang i := rfl
@[simp] theorem State.updCartridge_garden_as (n : Nat) (f : Cartridge → Cartridge) (i : Nat) : (s.updCartridge n f).garden i = s.garden i := rfl
@[simp] theorem State.updCartridge_chan_as (n : Nat) (f : Cartridge → Cartridge) (i : Nat) : (s.updCartridge n f).chan i = s.chan i := rfl
@[simp] theorem State.updCartridge_hostPort_as (n : Nat) (f : Cartridge → Cartridge) (i : Nat) : (s.updCartridge n f).hostPort i = s.hostPort i := rfl
@[simp] theorem State.updCartridge_peerPort_as (n : Nat) (f : Cartridge → Cartridge) (i : Nat) : (s.updCartridge n f).peerPort i = s.peerPort i := rfl
@[simp] theorem State.updCartridge_sparePort_as (n : Nat) (f : Cartridge → Cartridge) (i : Nat) : (s.updCartridge n f).sparePort i = s.sparePort i := rfl
@[simp] theorem State.updCartridge_lantern_as (n : Nat) (f : Cartridge → Cartridge) (i : Nat) : (s.updCartridge n f).lantern i = s.lantern i := rfl

@[simp] theorem State.updPost_core_as (f : Post → Post) (i : Nat) : (s.updPost f).core i = s.core i := rfl
@[simp] theorem State.updPost_pav_as (f : Post → Post) (i : Nat) : (s.updPost f).pav i = s.pav i := rfl
@[simp] theorem State.updPost_site_as (f : Post → Post) (i : Nat) : (s.updPost f).site i = s.site i := rfl
@[simp] theorem State.updPost_orang_as (f : Post → Post) (i : Nat) : (s.updPost f).orang i = s.orang i := rfl
@[simp] theorem State.updPost_garden_as (f : Post → Post) (i : Nat) : (s.updPost f).garden i = s.garden i := rfl
@[simp] theorem State.updPost_chan_as (f : Post → Post) (i : Nat) : (s.updPost f).chan i = s.chan i := rfl
@[simp] theorem State.updPost_hostPort_as (f : Post → Post) (i : Nat) : (s.updPost f).hostPort i = s.hostPort i := rfl
@[simp] theorem State.updPost_peerPort_as (f : Post → Post) (i : Nat) : (s.updPost f).peerPort i = s.peerPort i := rfl
@[simp] theorem State.updPost_sparePort_as (f : Post → Post) (i : Nat) : (s.updPost f).sparePort i = s.sparePort i := rfl
@[simp] theorem State.updPost_lantern_as (f : Post → Post) (i : Nat) : (s.updPost f).lantern i = s.lantern i := rfl
@[simp] theorem State.updPost_cartridge_as (f : Post → Post) (i : Nat) : (s.updPost f).cartridge i = s.cartridge i := rfl

@[simp] theorem State.updIce_core_as (f : Ice → Ice) (i : Nat) : (s.updIce f).core i = s.core i := rfl
@[simp] theorem State.updIce_pav_as (f : Ice → Ice) (i : Nat) : (s.updIce f).pav i = s.pav i := rfl
@[simp] theorem State.updIce_site_as (f : Ice → Ice) (i : Nat) : (s.updIce f).site i = s.site i := rfl
@[simp] theorem State.updIce_orang_as (f : Ice → Ice) (i : Nat) : (s.updIce f).orang i = s.orang i := rfl
@[simp] theorem State.updIce_garden_as (f : Ice → Ice) (i : Nat) : (s.updIce f).garden i = s.garden i := rfl
@[simp] theorem State.updIce_chan_as (f : Ice → Ice) (i : Nat) : (s.updIce f).chan i = s.chan i := rfl
@[simp] theorem State.updIce_hostPort_as (f : Ice → Ice) (i : Nat) : (s.updIce f).hostPort i = s.hostPort i := rfl
@[simp] theorem State.updIce_peerPort_as (f : Ice → Ice) (i : Nat) : (s.updIce f).peerPort i = s.peerPort i := rfl
@[simp] theorem State.updIce_sparePort_as (f : Ice → Ice) (i : Nat) : (s.updIce f).sparePort i = s.sparePort i := rfl
@[simp] theorem State.updIce_lantern_as (f : Ice → Ice) (i : Nat) : (s.updIce f).lantern i = s.lantern i := rfl
@[simp] theorem State.updIce_cartridge_as (f : Ice → Ice) (i : Nat) : (s.updIce f).cartridge i = s.cartridge i := rfl

@[simp] theorem State.updPower_core_as (f : Power → Power) (i : Nat) : (s.updPower f).core i = s.core i := rfl
@[simp] theorem State.updPower_pav_as (f : Power → Power) (i : Nat) : (s.updPower f).pav i = s.pav i := rfl
@[simp] theorem State.updPower_site_as (f : Power → Power) (i : Nat) : (s.updPower f).site i = s.site i := rfl
@[simp] theorem State.updPower_orang_as (f : Power → Power) (i : Nat) : (s.updPower f).orang i = s.orang i := rfl
@[simp] theorem State.updPower_garden_as (f : Power → Power) (i : Nat) : (s.updPower f).garden i = s.garden i := rfl
@[simp] theorem State.updPower_chan_as (f : Power → Power) (i : Nat) : (s.updPower f).chan i = s.chan i := rfl
@[simp] theorem State.updPower_hostPort_as (f : Power → Power) (i : Nat) : (s.updPower f).hostPort i = s.hostPort i := rfl
@[simp] theorem State.updPower_peerPort_as (f : Power → Power) (i : Nat) : (s.updPower f).peerPort i = s.peerPort i := rfl
@[simp] theorem State.updPower_sparePort_as (f : Power → Power) (i : Nat) : (s.updPower f).sparePort i = s.sparePort i := rfl
@[simp] theorem State.updPower_lantern_as (f : Power → Power) (i : Nat) : (s.updPower f).lantern i = s.lantern i := rfl
@[simp] theorem State.updPower_cartridge_as (f : Power → Power) (i : Nat) : (s.updPower f).cartridge i = s.cartridge i := rfl

@[simp] theorem State.setPm_core_as (f : Fld) (v : Nat) (i : Nat) : (s.setPm f v).core i = s.core i := rfl
@[simp] theorem State.setPm_pav_as (f : Fld) (v : Nat) (i : Nat) : (s.setPm f v).pav i = s.pav i := rfl
@[simp] theorem State.setPm_site_as (f : Fld) (v : Nat) (i : Nat) : (s.setPm f v).site i = s.site i := rfl
@[simp] theorem State.setPm_orang_as (f : Fld) (v : Nat) (i : Nat) : (s.setPm f v).orang i = s.orang i := rfl
@[simp] theorem State.setPm_garden_as (f : Fld) (v : Nat) (i : Nat) : (s.setPm f v).garden i = s.garden i := rfl
@[simp] theorem State.setPm_chan_as (f : Fld) (v : Nat) (i : Nat) : (s.setPm f v).chan i = s.chan i := rfl
@[simp] theorem State.setPm_hostPort_as (f : Fld) (v : Nat) (i : Nat) : (s.setPm f v).hostPort i = s.hostPort i := rfl
@[simp] theorem State.setPm_peerPort_as (f : Fld) (v : Nat) (i : Nat) : (s.setPm f v).peerPort i = s.peerPort i := rfl
@[simp] theorem State.setPm_sparePort_as (f : Fld) (v : Nat) (i : Nat) : (s.setPm f v).sparePort i = s.sparePort i := rfl
@[simp] theorem State.setPm_lantern_as (f : Fld) (v : Nat) (i : Nat) : (s.setPm f v).lantern i = s.lantern i := rfl
@[simp] theorem State.setPm_cartridge_as (f : Fld) (v : Nat) (i : Nat) : (s.setPm f v).cartridge i = s.cartridge i := rfl

@[simp] theorem State.setSd_core_as (f : Fld) (v : Nat) (i : Nat) : (s.setSd f v).core i = s.core i := rfl
@[simp] theorem State.setSd_pav_as (f : Fld) (v : Nat) (i : Nat) : (s.setSd f v).pav i = s.pav i := rfl
@[simp] theorem State.setSd_site_as (f : Fld) (v : Nat) (i : Nat) : (s.setSd f v).site i = s.site i := rfl
@[simp] theorem State.setSd_orang_as (f : Fld) (v : Nat) (i : Nat) : (s.setSd f v).orang i = s.orang i := rfl
@[simp] theorem State.setSd_garden_as (f : Fld) (v : Nat) (i : Nat) : (s.setSd f v).garden i = s.garden i := rfl
@[simp] theorem State.setSd_chan_as (f : Fld) (v : Nat) (i : Nat) : (s.setSd f v).chan i = s.chan i := rfl
@[simp] theorem State.setSd_hostPort_as (f : Fld) (v : Nat) (i : Nat) : (s.setSd f v).hostPort i = s.hostPort i := rfl
@[simp] theorem State.setSd_peerPort_as (f : Fld) (v : Nat) (i : Nat) : (s.setSd f v).peerPort i = s.peerPort i := rfl
@[simp] theorem State.setSd_sparePort_as (f : Fld) (v : Nat) (i : Nat) : (s.setSd f v).sparePort i = s.sparePort i := rfl
@[simp] theorem State.setSd_lantern_as (f : Fld) (v : Nat) (i : Nat) : (s.setSd f v).lantern i = s.lantern i := rfl
@[simp] theorem State.setSd_cartridge_as (f : Fld) (v : Nat) (i : Nat) : (s.setSd f v).cartridge i = s.cartridge i := rfl

@[simp] theorem State.setPw_core_as (f : Fld) (v : Nat) (i : Nat) : (s.setPw f v).core i = s.core i := rfl
@[simp] theorem State.setPw_pav_as (f : Fld) (v : Nat) (i : Nat) : (s.setPw f v).pav i = s.pav i := rfl
@[simp] theorem State.setPw_site_as (f : Fld) (v : Nat) (i : Nat) : (s.setPw f v).site i = s.site i := rfl
@[simp] theorem State.setPw_orang_as (f : Fld) (v : Nat) (i : Nat) : (s.setPw f v).orang i = s.orang i := rfl
@[simp] theorem State.setPw_garden_as (f : Fld) (v : Nat) (i : Nat) : (s.setPw f v).garden i = s.garden i := rfl
@[simp] theorem State.setPw_chan_as (f : Fld) (v : Nat) (i : Nat) : (s.setPw f v).chan i = s.chan i := rfl
@[simp] theorem State.setPw_hostPort_as (f : Fld) (v : Nat) (i : Nat) : (s.setPw f v).hostPort i = s.hostPort i := rfl
@[simp] theorem State.setPw_peerPort_as (f : Fld) (v : Nat) (i : Nat) : (s.setPw f v).peerPort i = s.peerPort i := rfl
@[simp] theorem State.setPw_sparePort_as (f : Fld) (v : Nat) (i : Nat) : (s.setPw f v).sparePort i = s.sparePort i := rfl
@[simp] theorem State.setPw_lantern_as (f : Fld) (v : Nat) (i : Nat) : (s.setPw f v).lantern i = s.lantern i := rfl
@[simp] theorem State.setPw_cartridge_as (f : Fld) (v : Nat) (i : Nat) : (s.setPw f v).cartridge i = s.cartridge i := rfl

@[simp] theorem State.setWd_core_as (f : Fld) (v : Nat) (i : Nat) : (s.setWd f v).core i = s.core i := rfl
@[simp] theorem State.setWd_pav_as (f : Fld) (v : Nat) (i : Nat) : (s.setWd f v).pav i = s.pav i := rfl
@[simp] theorem State.setWd_site_as (f : Fld) (v : Nat) (i : Nat) : (s.setWd f v).site i = s.site i := rfl
@[simp] theorem State.setWd_orang_as (f : Fld) (v : Nat) (i : Nat) : (s.setWd f v).orang i = s.orang i := rfl
@[simp] theorem State.setWd_garden_as (f : Fld) (v : Nat) (i : Nat) : (s.setWd f v).garden i = s.garden i := rfl
@[simp] theorem State.setWd_chan_as (f : Fld) (v : Nat) (i : Nat) : (s.setWd f v).chan i = s.chan i := rfl
@[simp] theorem State.setWd_hostPort_as (f : Fld) (v : Nat) (i : Nat) : (s.setWd f v).hostPort i = s.hostPort i := rfl
@[simp] theorem State.setWd_peerPort_as (f : Fld) (v : Nat) (i : Nat) : (s.setWd f v).peerPort i = s.peerPort i := rfl
@[simp] theorem State.setWd_sparePort_as (f : Fld) (v : Nat) (i : Nat) : (s.setWd f v).sparePort i = s.sparePort i := rfl
@[simp] theorem State.setWd_lantern_as (f : Fld) (v : Nat) (i : Nat) : (s.setWd f v).lantern i = s.lantern i := rfl
@[simp] theorem State.setWd_cartridge_as (f : Fld) (v : Nat) (i : Nat) : (s.setWd f v).cartridge i = s.cartridge i := rfl

@[simp] theorem State.incWd_core_as (f : Fld) (n : Nat) (i : Nat) : (s.incWd f n).core i = s.core i := rfl
@[simp] theorem State.incWd_pav_as (f : Fld) (n : Nat) (i : Nat) : (s.incWd f n).pav i = s.pav i := rfl
@[simp] theorem State.incWd_site_as (f : Fld) (n : Nat) (i : Nat) : (s.incWd f n).site i = s.site i := rfl
@[simp] theorem State.incWd_orang_as (f : Fld) (n : Nat) (i : Nat) : (s.incWd f n).orang i = s.orang i := rfl
@[simp] theorem State.incWd_garden_as (f : Fld) (n : Nat) (i : Nat) : (s.incWd f n).garden i = s.garden i := rfl
@[simp] theorem State.incWd_chan_as (f : Fld) (n : Nat) (i : Nat) : (s.incWd f n).chan i = s.chan i := rfl
@[simp] theorem State.incWd_hostPort_as (f : Fld) (n : Nat) (i : Nat) : (s.incWd f n).hostPort i = s.hostPort i := rfl
@[simp] theorem State.incWd_peerPort_as (f : Fld) (n : Nat) (i : Nat) : (s.incWd f n).peerPort i = s.peerPort i := rfl
@[simp] theorem State.incWd_sparePort_as (f : Fld) (n : Nat) (i : Nat) : (s.incWd f n).sparePort i = s.sparePort i := rfl
@[simp] theorem State.incWd_lantern_as (f : Fld) (n : Nat) (i : Nat) : (s.incWd f n).lantern i = s.lantern i := rfl
@[simp] theorem State.incWd_cartridge_as (f : Fld) (n : Nat) (i : Nat) : (s.incWd f n).cartridge i = s.cartridge i := rfl

@[simp] theorem State.incPw_core_as (f : Fld) (n : Nat) (i : Nat) : (s.incPw f n).core i = s.core i := rfl
@[simp] theorem State.incPw_pav_as (f : Fld) (n : Nat) (i : Nat) : (s.incPw f n).pav i = s.pav i := rfl
@[simp] theorem State.incPw_site_as (f : Fld) (n : Nat) (i : Nat) : (s.incPw f n).site i = s.site i := rfl
@[simp] theorem State.incPw_orang_as (f : Fld) (n : Nat) (i : Nat) : (s.incPw f n).orang i = s.orang i := rfl
@[simp] theorem State.incPw_garden_as (f : Fld) (n : Nat) (i : Nat) : (s.incPw f n).garden i = s.garden i := rfl
@[simp] theorem State.incPw_chan_as (f : Fld) (n : Nat) (i : Nat) : (s.incPw f n).chan i = s.chan i := rfl
@[simp] theorem State.incPw_hostPort_as (f : Fld) (n : Nat) (i : Nat) : (s.incPw f n).hostPort i = s.hostPort i := rfl
@[simp] theorem State.incPw_peerPort_as (f : Fld) (n : Nat) (i : Nat) : (s.incPw f n).peerPort i = s.peerPort i := rfl
@[simp] theorem State.incPw_sparePort_as (f : Fld) (n : Nat) (i : Nat) : (s.incPw f n).sparePort i = s.sparePort i := rfl
@[simp] theorem State.incPw_lantern_as (f : Fld) (n : Nat) (i : Nat) : (s.incPw f n).lantern i = s.lantern i := rfl
@[simp] theorem State.incPw_cartridge_as (f : Fld) (n : Nat) (i : Nat) : (s.incPw f n).cartridge i = s.cartridge i := rfl

@[simp] theorem State.incSd_core_as (f : Fld) (n : Nat) (i : Nat) : (s.incSd f n).core i = s.core i := rfl
@[simp] theorem State.incSd_pav_as (f : Fld) (n : Nat) (i : Nat) : (s.incSd f n).pav i = s.pav i := rfl
@[simp] theorem State.incSd_site_as (f : Fld) (n : Nat) (i : Nat) : (s.incSd f n).site i = s.site i := rfl
@[simp] theorem State.incSd_orang_as (f : Fld) (n : Nat) (i : Nat) : (s.incSd f n).orang i = s.orang i := rfl
@[simp] theorem State.incSd_garden_as (f : Fld) (n : Nat) (i : Nat) : (s.incSd f n).garden i = s.garden i := rfl
@[simp] theorem State.incSd_chan_as (f : Fld) (n : Nat) (i : Nat) : (s.incSd f n).chan i = s.chan i := rfl
@[simp] theorem State.incSd_hostPort_as (f : Fld) (n : Nat) (i : Nat) : (s.incSd f n).hostPort i = s.hostPort i := rfl
@[simp] theorem State.incSd_peerPort_as (f : Fld) (n : Nat) (i : Nat) : (s.incSd f n).peerPort i = s.peerPort i := rfl
@[simp] theorem State.incSd_sparePort_as (f : Fld) (n : Nat) (i : Nat) : (s.incSd f n).sparePort i = s.sparePort i := rfl
@[simp] theorem State.incSd_lantern_as (f : Fld) (n : Nat) (i : Nat) : (s.incSd f n).lantern i = s.lantern i := rfl
@[simp] theorem State.incSd_cartridge_as (f : Fld) (n : Nat) (i : Nat) : (s.incSd f n).cartridge i = s.cartridge i := rfl

end Sys2Proof.Machine
end

