-- ==== Sys2Proof/Laws/Answers.lean ====
section
/-! SUPPORT. What answering a letter, beginning its change and sending a session's frames leave as they are. -/

namespace Sys2Proof.Machine

/-- Only the host bridge and what it offers to the fabric change. -/
def OnlyBridge (s t : State) : Prop := { t with bridge := s.bridge, endOut := s.endOut } = s

theorem OnlyBridge.refl (s : State) : OnlyBridge s s := rfl

theorem OnlyBridge.trans {s t u : State} (h : OnlyBridge s t) (k : OnlyBridge t u) : OnlyBridge s u := by
  unfold OnlyBridge at *
  rw [← h, ← k]

theorem updBridge_only (s : State) (f : Bridge → Bridge) : OnlyBridge s (s.updBridge f) := rfl
theorem putSession_only (s : State) (id : Nat) (x : Session) : OnlyBridge s (s.putSession id x) := rfl

theorem updSession_only (s : State) (id : Nat) (f : Session → Session) : OnlyBridge s (s.updSession id f) := by
  unfold State.updSession
  split
  · exact .refl s
  · exact putSession_only s id _

theorem emit_only (s : State) (f : TxFrame) : OnlyBridge s (s.emit f) := rfl

theorem sendFrame_only (s : State) (id type : Nat) (payload : List Byte) : OnlyBridge s (s.sendFrame id type payload) := by
  unfold State.sendFrame
  split
  · exact .refl s
  · exact (putSession_only s id _).trans (emit_only _ _)

theorem ackFrame_only (s : State) (id pn : Nat) : OnlyBridge s (s.ackFrame id pn) :=
  (updSession_only s id _).trans (sendFrame_only _ _ _ _)

theorem launch_only (s : State) (id : Nat) (c : Content) (payload : List Byte) : OnlyBridge s (s.launch id c payload) := by
  unfold State.launch
  split
  · exact .refl s
  · exact (putSession_only s id _).trans (sendFrame_only _ _ _ _)

theorem onlyBridge_foldl {α : Type} {f : State → α → State} (h : ∀ s a, OnlyBridge s (f s a)) (l : List α) (s : State) :
    OnlyBridge s (l.foldl f s) := by
  induction l generalizing s with
  | nil => exact .refl s
  | cons a l ih => exact (h s a).trans (ih _)

theorem buildData_only (s : State) (id parcel off len : Nat) : OnlyBridge s (s.buildData id parcel off len) := by
  unfold State.buildData
  split
  · exact .refl s
  · split
    · exact .refl s
    · extract_lets ret pieces b u
      exact (show OnlyBridge s u from updBridge_only s _).trans
        (onlyBridge_foldl (f := fun s (q : Nat × Nat) => s.bridgeSend _) (fun _ _ => rfl) pieces u)

theorem flush_only (id fuel : Nat) (s : State) : OnlyBridge s (flush id fuel s) := by
  induction fuel generalizing s with
  | zero => exact .refl s
  | succ n ih =>
    unfold flush
    split
    · exact .refl s
    · split
      · exact .refl s
      · split
        · exact .refl s
        · extract_lets u v
          have hv : OnlyBridge u v := by
            dsimp only [v]
            split
            · exact buildData_only u _ _ _ _
            · exact launch_only u _ _ _
          exact ((show OnlyBridge s u from putSession_only s id _).trans hv).trans (ih v)

theorem flushSession_only (s : State) (id : Nat) : OnlyBridge s (s.flushSession id) := by
  unfold State.flushSession
  split
  · exact .refl s
  · exact flush_only _ _ s

theorem queueContent_only (s : State) (id : Nat) (cs : List Content) : OnlyBridge s (s.queueContent id cs) :=
  (updSession_only s id _).trans (flushSession_only _ _)

/-- A session's end of a GONE frame. -/
theorem sendGone_only (s : State) (path : Path) (id reason : Nat) : OnlyBridge s (s.sendGone path id reason) := by
  unfold State.sendGone
  extract_lets sent
  split
  · exact .refl s
  · exact (updBridge_only s _).trans (emit_only _ _)

/-- Only channels, the host bridge and what it offers to the fabric change. -/
def OnlyMail (s t : State) : Prop := { t with chans := s.chans, bridge := s.bridge, endOut := s.endOut } = s

theorem OnlyMail.refl (s : State) : OnlyMail s s := rfl
theorem OnlyMail.trans {s t u : State} (h : OnlyMail s t) (k : OnlyMail t u) : OnlyMail s u := by
  unfold OnlyMail at *
  rw [← h, ← k]
theorem OnlyBridge.mail {s t : State} (h : OnlyBridge s t) : OnlyMail s t := by
  unfold OnlyBridge at h
  unfold OnlyMail
  rw [← h]
theorem updChan_only (s : State) (n : Nat) (f : Chan → Chan) : OnlyMail s (s.updChan n f) := rfl

theorem enqueue_only (s : State) (ch : Nat) (path : Path) (r : Receipt) : OnlyMail s (s.enqueue ch path r) := by
  unfold State.enqueue
  extract_lets u
  have hu : OnlyMail s u := by
    dsimp only [u]
    split
    · exact updChan_only s _ _
    · exact .refl s
  clear_value u
  refine hu.trans ?_
  split
  · exact ((updBridge_only u _).trans (emit_only _ _)).mail
  · split
    · exact (updChan_only u _ _).trans (queueContent_only _ _ _).mail
    · exact updChan_only u _ _

theorem place_only (s : State) (a : Accepted) (r : Receipt) : OnlyMail s (s.place a r) := by
  unfold State.place
  split
  · exact .refl s
  · exact (updChan_only s _ _).trans (enqueue_only _ _ _ _)

/-- Letter `a` has been answered: it no longer waits, and only channels and the host bridge have changed besides. -/
def Answered (a : Accepted) (s t : State) : Prop := OnlyMail { s with post := { s.post with accepted := s.post.accepted.erase a } } t

theorem reply_answered (s : State) (a : Accepted) (body : List Byte) (chime : Nat) (clamps : List Clamp) :
    Answered a s (s.reply a body chime clamps) := place_only _ _ _
theorem dead_answered (s : State) (a : Accepted) (reason : Nat) (d : Detail) : Answered a s (s.dead a reason d) := place_only _ _ _
theorem notSealed_answered (s : State) (a : Accepted) (reason : Nat) (body : List Byte) :
    Answered a s (s.notSealed a reason body) := place_only _ _ _

/-- A letter whose change begins: nothing but the postmaster's own lists changes. -/
theorem begin_frame (s : State) (a : Accepted) (j : Job) : { s.begin a j with post := s.post } = s := rfl
theorem begin_post (s : State) (a : Accepted) (j : Job) : (s.begin a j).post = { s.post with
    accepted := s.post.accepted.erase a, nextJob := s.post.nextJob + 1,
    jobs := s.post.jobs ++ [{ j with letter := some { a with acting := true }, id := s.post.nextJob }] } := rfl

/-! ### Sessions -/

/-- A session but for what it has to send and has in flight. -/
def Session.still (x : Session) : Session :=
  { x with sendQ := [], sendPn := 0, inflight := [], firsts := [], txKey := 0, ceNoted := false, acked := [], sentAcks := [] }

/-- The same sessions are open, and each is as it was but for what it sends. -/
def SameSessions (s t : State) : Prop := ∀ id, (t.session id).map Session.still = (s.session id).map Session.still

theorem SameSessions.refl (s : State) : SameSessions s s := fun _ => rfl
theorem SameSessions.trans {s t u : State} (h : SameSessions s t) (k : SameSessions t u) : SameSessions s u :=
  fun id => (k id).trans (h id)
theorem SameSessions.of_eq {s t : State} (h : t.bridge.sessions = s.bridge.sessions) : SameSessions s t := by
  intro id
  unfold State.session
  rw [h]

theorem session_put (s : State) (id : Nat) (x : Session) (n : Nat) :
    (s.putSession id x).session n = if n = id then some x else s.session n := by
  unfold State.session State.putSession State.updBridge
  split
  next h => subst h; exact Fm.look_put_same _ _ _
  next h => exact Fm.look_put_other h _ _

theorem sameSessions_put {s : State} {id : Nat} {x y : Session} (h : s.session id = some x) (hy : y.still = x.still) :
    SameSessions s (s.putSession id y) := by
  intro n
  rw [session_put]
  split
  next e => subst e; simp [h, hy]
  next => rfl

theorem emit_same (s : State) (f : TxFrame) : SameSessions s (s.emit f) := by
  refine .of_eq ?_
  unfold State.emit State.updBridge
  dsimp only
  split <;> rfl

theorem sendFrame_same (s : State) (id type : Nat) (payload : List Byte) : SameSessions s (s.sendFrame id type payload) := by
  unfold State.sendFrame
  split
  · exact .refl s
  next x h =>
    extract_lets f u
    exact (show SameSessions s u from sameSessions_put h rfl).trans (emit_same _ _)

theorem launch_same (s : State) (id : Nat) (c : Content) (payload : List Byte) : SameSessions s (s.launch id c payload) := by
  unfold State.launch
  split
  · exact .refl s
  next x h =>
    extract_lets f firsts
    exact SameSessions.trans (sameSessions_put h (y := { x with inflight := x.inflight ++ [f], firsts := firsts }) rfl)
      (sendFrame_same _ _ _ _)

theorem buildData_same (s : State) (id parcel off len : Nat) : SameSessions s (s.buildData id parcel off len) := by
  unfold State.buildData
  split
  · exact .refl s
  · split
    · exact .refl s
    · extract_lets ret pieces b u
      refine SameSessions.trans (t := u) (.of_eq rfl) ?_
      clear_value u
      induction pieces generalizing u with
      | nil => exact .refl u
      | cons q l ih => exact SameSessions.trans (.of_eq rfl) (ih _)

theorem flush_same (id fuel : Nat) (s : State) : SameSessions s (flush id fuel s) := by
  induction fuel generalizing s with
  | zero => exact .refl s
  | succ n ih =>
    unfold flush
    split
    · exact .refl s
    next x h =>
      split
      · exact .refl s
      · split
        · exact .refl s
        · extract_lets u v
          have hv : SameSessions u v := by
            dsimp only [v]
            split
            · exact buildData_same u _ _ _ _
            · exact launch_same u _ _ _
          exact ((show SameSessions s u from sameSessions_put h rfl).trans hv).trans (ih v)

theorem flushSession_same (s : State) (id : Nat) : SameSessions s (s.flushSession id) := by
  unfold State.flushSession
  split
  · exact .refl s
  · exact flush_same _ _ s

theorem queueContent_same (s : State) (id : Nat) (cs : List Content) : SameSessions s (s.queueContent id cs) := by
  refine SameSessions.trans ?_ (flushSession_same _ _)
  unfold State.updSession
  split
  · exact .refl s
  next x h => exact sameSessions_put h rfl

theorem enqueue_same (s : State) (ch : Nat) (path : Path) (r : Receipt) : SameSessions s (s.enqueue ch path r) := by
  unfold State.enqueue
  extract_lets u
  have hu : SameSessions s u := by
    dsimp only [u]
    split
    · exact .of_eq rfl
    · exact .refl s
  clear_value u
  refine hu.trans ?_
  split
  · exact SameSessions.trans (.of_eq rfl) (emit_same _ _)
  · split
    · exact SameSessions.trans (.of_eq rfl) (queueContent_same _ _ _)
    · exact .of_eq rfl

theorem place_same (s : State) (a : Accepted) (r : Receipt) : SameSessions s (s.place a r) := by
  unfold State.place
  split
  · exact .refl s
  · exact SameSessions.trans (.of_eq rfl) (enqueue_same _ _ _ _)

theorem reply_same (s : State) (a : Accepted) (body : List Byte) (chime : Nat) (clamps : List Clamp) :
    SameSessions s (s.reply a body chime clamps) := SameSessions.trans (.of_eq rfl) (place_same _ _ _)

end Sys2Proof.Machine
end

