-- ==== Sys2Proof/Laws/Keeper.lean ====
section
/-! SUPPORT. What an issued keeper instruction can do, said once (R95-R104). -/

namespace Sys2Proof.Machine

/-! ### One unit -/

theorem OnlyCore.refl (c : Nat) (s : State) : OnlyCore c s s := ⟨rfl, fun _ _ => rfl⟩

theorem OnlyCore.trans {c : Nat} {s t u : State} (h : OnlyCore c s t) (k : OnlyCore c t u) : OnlyCore c s u :=
  ⟨by have h1 := h.1; have k1 := k.1; rw [← h1, ← k1], fun d hd => (k.2 d hd).trans (h.2 d hd)⟩

theorem onlyCore_updCore (c : Nat) (f : Core → Core) (s : State) : OnlyCore c s (s.updCore c f) :=
  ⟨rfl, fun _ hd => State.updCore_other s c f hd⟩

/-! ### The registers an issue writes -/

theorem KpSame.refl (k : Core) : KpSame k k := ⟨fun _ _ _ => rfl, fun _ _ => rfl⟩
theorem KpSame.trans {k l m : Core} (h : KpSame k l) (j : KpSame l m) : KpSame k m :=
  ⟨fun o h1 h2 => (j.1 o h1 h2).trans (h.1 o h1 h2), fun f hf => (j.2 f hf).trans (h.2 f hf)⟩
theorem KpSame.of_regs {k l : Core} (h : l.regs = k.regs) : KpSame k l :=
  ⟨fun o _ _ => by rw [h], fun f _ => by unfold Core.getF; rw [h]⟩

theorem kpSame_setPc (k : Core) (v : Nat) : KpSame k (k.setF Reg.KP_STATUS_PC v) := by
  refine ⟨fun o h _ => getReg_setReg_other _ _ h _ _, fun f hf => ?_⟩
  simp only [List.mem_cons, List.not_mem_nil, or_false] at hf
  rcases hf with rfl | rfl | rfl | rfl <;> exact getF_setF_other _ _ _ _ (by decide) (by decide)

theorem kpSame_setCycles (k : Core) (v : Nat) : KpSame k (k.setCycles v) := by
  refine ⟨fun o _ h => getReg_setReg_other _ _ h _ _, fun f hf => ?_⟩
  simp only [List.mem_cons, List.not_mem_nil, or_false] at hf
  rcases hf with rfl | rfl | rfl | rfl <;> exact getF_setF_other _ _ _ _ (by decide) (by decide)

@[simp] theorem pc_setCycles (k : Core) (v : Nat) : (k.setCycles v).pc = k.pc :=
  getF_setF_other _ _ _ _ (by decide) (by decide)

theorem pc_setPc (k : Core) (v : Nat) (h : v < 0x2000) : (k.setF Reg.KP_STATUS_PC v).pc = v :=
  (getF_setF_same _ _ _ (by decide)).trans (Nat.mod_eq_of_lt h)

theorem pc_lt (k : Core) : k.pc < 0x2000 := getF_lt _ _

theorem pc_of_regs {k l : Core} (h : l.regs = k.regs) : l.pc = k.pc := by unfold Core.pc Core.getF; rw [h]

theorem goTo_facts (pc occ : Nat) (h : pc < 0x2000) (k : Core) :
    (k.goTo pc occ).body = k.body ∧ KpSame k (k.goTo pc occ) ∧ (k.goTo pc occ).pc = pc :=
  ⟨rfl, (kpSame_setPc k pc).trans (kpSame_setCycles _ _), by unfold Core.goTo; rw [pc_setCycles, pc_setPc _ _ h]⟩

/-! ### Issue -/

theorem interlock_facts (l : List Nat) (k : Core) : (k.interlock l).body = k.body ∧ KpSame k (k.interlock l) ∧ (k.interlock l).pc = k.pc := by
  unfold Core.interlock
  dsimp only
  split
  · exact ⟨rfl, KpSame.refl k, rfl⟩
  · exact ⟨rfl, kpSame_setCycles k _, pc_setCycles k _⟩

theorem corrected_facts (k : Core) : (Core.corrected k).body = k.body ∧ KpSame k (Core.corrected k) ∧ (Core.corrected k).pc = k.pc := by
  unfold Core.corrected
  split
  · exact ⟨rfl, KpSame.of_regs rfl, rfl⟩
  · exact ⟨rfl, KpSame.refl k, rfl⟩

/-- The state an issued instruction's body starts from: the word fetched is corrected, its registers are waited for. -/
def State.issued (s : State) (c : Nat) (l : List Nat) : State := (s.updCore c Core.corrected).updCore c (Core.interlock l)

theorem issued_ran (c : Nat) (l : List Nat) (s : State) : Ran c (s.core c).pc (s.core c) s (s.issued c l) := by
  have h1 := corrected_facts (s.core c)
  have h2 := interlock_facts l (Core.corrected (s.core c))
  refine ⟨(onlyCore_updCore _ _ _).trans (onlyCore_updCore _ _ _), ?_, ?_, ?_⟩ <;>
    (unfold State.issued; rw [State.updCore_same, State.updCore_same])
  · exact h2.1.trans h1.1
  · exact h1.2.1.trans h2.2.1
  · exact h2.2.2.trans h1.2.2

/-- An issued instruction's body runs on the state after the issue. -/
theorem keeperOp_issues {op : Nat} {reads : W32 → List Nat} {body : Nat → W32 → State → KOut} {c : Nat} {s : State} {w : W32}
    (h : issues s c op w = true) :
    keeperOp op reads body c s =
      .next (keeperAfter c (s.updCore c Core.corrected) false (body c w (s.issued c (rP (prOf w) :: reads w)))) := by
  simp only [issues, atWord, Bool.and_eq_true, decide_eq_true_eq] at h
  obtain ⟨⟨⟨⟨⟨⟨hc, hr⟩, hf⟩, ho⟩, he⟩, hl⟩, hp⟩ := h
  unfold keeperOp onCore keeperExec State.issued
  rw [if_pos hc]
  simp only [hr, hf, ho, he, hl, hp, Bool.not_true, Bool.false_eq_true, if_false, ne_eq, not_true_eq_false, false_and, decide_false]

/-- An instruction that goes on after changing its own core's body. -/
theorem ran_onlyCore {c occ pc : Nat} {s s1 : State} {f : Core → Core} {l : Core} (h : Ran c pc (s.core c) s s1)
    (hp : pc ≠ 0x1FFF) (hb : ∀ k : Core, k.body = (s.core c).body → (f k).body = l.body ∧ (f k).regs = k.regs) :
    Ran c (pc + 1) l s ((s1.updCore c f).updCore c (Core.goOn occ)) := by
  obtain ⟨h1, h2, h3, h4⟩ := h
  have hk := hb (s1.core c) h2
  have hpc : (f (s1.core c)).pc = pc := (pc_of_regs hk.2).trans h4
  have hlt : (f (s1.core c)).pc + 1 < 0x2000 := by have := pc_lt (f (s1.core c)); omega
  have hg := goTo_facts _ occ hlt (f (s1.core c))
  refine ⟨(h1.trans (onlyCore_updCore _ _ _)).trans (onlyCore_updCore _ _ _), ?_, ?_, ?_⟩ <;>
    rw [State.updCore_same, State.updCore_same]
  · exact hg.1.trans hk.1
  · exact (h3.trans (KpSame.of_regs hk.2)).trans hg.2.1
  · rw [← hpc]; exact hg.2.2

theorem keeperOp_onlyCore {op occ : Nat} {reads : W32 → List Nat} {f : W32 → Core → Core} {c : Nat} {s : State} {w : W32} {l : Core}
    (h : issues s c op w = true) (hb : ∀ k : Core, k.body = (s.core c).body → (f w k).body = l.body ∧ (f w k).regs = k.regs) :
    Completes (keeperOp op reads (onlyCore f occ) c s) (Ran c ((s.core c).pc + 1) l s) := by
  refine ⟨_, keeperOp_issues h, ran_onlyCore (issued_ran _ _ _) ?_ hb⟩
  simp only [issues, atWord, Bool.and_eq_true, decide_eq_true_eq] at h
  exact h.1.2

/-- What two cores of one body have in common. -/
theorem body_ext {k l : Core} (h : k.body = l.body) :
    k = { l with regs := k.regs, ready := k.ready, pstoreCe := k.pstoreCe, pstoreCorr := k.pstoreCorr } := by
  cases k; cases l
  simp only [Core.body, Core.mk.injEq] at h ⊢
  simp [h]

@[simp] theorem putS_body (d lat : Nat) (v : Word) (k : Core) : (putS d lat v k).body = (k.setS d v).body := rfl
@[simp] theorem putA_body (d : Nat) (v : Addr) (k : Core) : (putA d v k).body = (k.setA d v).body := rfl
@[simp] theorem putP_body (d : Nat) (v : Bool) (k : Core) : (putP d v k).body = (k.setP d v).body := rfl
@[simp] theorem putS_regs (d lat : Nat) (v : Word) (k : Core) : (putS d lat v k).regs = k.regs := by
  unfold putS Core.readyIn Core.setS; split <;> rfl
@[simp] theorem putA_regs (d : Nat) (v : Addr) (k : Core) : (putA d v k).regs = k.regs := rfl
@[simp] theorem putP_regs (d : Nat) (v : Bool) (k : Core) : (putP d v k).regs = k.regs := by
  unfold putP Core.readyIn Core.setP; split <;> rfl

end Sys2Proof.Machine
end

