-- ==== Sys2Proof/Tests/Slice0.lean ====
section
/-! SUPPORT. Tests: ill-formed commands are refused, single steps give what the spec's text says, and every hypothesis of every
statement is met by a concrete state (the theorems test_hyp_...). -/

namespace Sys2Proof.Tests

set_option Elab.async false

open Machine

/-! ### States to start from -/

/-- The module has power, and so has pavilion 0. -/
def live : State :=
  { State.reset with power := { stopped := false } }.updPav 0 fun v => { v.setF Reg.PV_REG_STATUS_ON 1 with powered := true, dark := false }

/-- The sundial has come to `n`. -/
def timeAt (n : Nat) (s : State) : State := { s with sd := setF Reg.SD_COUNT_COUNT n s.sd }

/-- Core 0 as given, in pavilion 0. -/
def withCore (k : Core) : State := live.updCore 0 fun _ => k

/-- Core 0 runs, and the first word of its program is `w`. -/
def keeper (w : W32) (k : Core := {}) : State := withCore { k.setF Reg.KP_STATUS_STATE 1 with pstore := [(0, w)] }

/-- Instruction words of form R, I, U and J, executed always (R94). -/
def wordR (op d a b fn : Nat) : W32 := BitVec.ofNat 32 (op * 2 ^ 26 + d * 2 ^ 17 + a * 2 ^ 12 + b * 2 ^ 7 + fn)
def wordI (op d a imm : Nat) : W32 := BitVec.ofNat 32 (op * 2 ^ 26 + d * 2 ^ 17 + a * 2 ^ 12 + imm)
def wordU (op d imm : Nat) : W32 := BitVec.ofNat 32 (op * 2 ^ 26 + d * 2 ^ 17 + imm)

/-- The word issues at core 0. -/
def goes (op : Nat) (w : W32) (k : Core := {}) : Bool := issues (keeper w k) 0 op w

/-! ### Keepers -/

theorem test_hyp_ScalarInstructionsWriteTheirResult : goes 0x01 (wordI 1 0 0 0) ∧ goes 0x04 (wordR 4 1 2 3 14) ∧
    (∀ op ∈ [5, 6, 7, 8, 9], goes op (wordI op 31 1 0)) ∧ (∀ op ∈ [0x0A, 0x0B], goes op (wordU op 1 0x1FFFF)) ∧
    goes 0x17 (wordR 0x17 1 15 0 0) ∧ goes 0x38 (wordU 0x38 1 0) := by decide +kernel

theorem test_hyp_PredicateAndAddressInstructionsWriteTheirResult : goes 0x0C (wordR 0x0C 7 1 2 6) ∧ goes 0x0D (wordI 0x0D 1 1 0xDFF) ∧
    goes 0x0E (wordR 0x0E 1 2 3 3) ∧ goes 0x14 (wordI 0x14 15 0 0xFFF) ∧ goes 0x15 (wordR 0x15 1 2 3 0) ∧ goes 0x16 (wordR 0x16 1 2 0 0) ∧
    goes 0x34 (wordI 0x34 0 0 15) := by decide +kernel

/-- a0 at the last doubleword of the scratchpad. -/
def atEnd (n : Nat) : Core := ({} : Core).setA 1 (BitVec.ofNat 48 (spadBytes - n))

theorem test_hyp_LoadsAndStoresMoveTheirBytes :
    (∀ e ∈ [(0x10, 8), (0x11, 4), (0x12, 8), (0x13, 4)], goes e.1 (wordI e.1 1 1 0) (atEnd e.2) ∧
      lsAddr e.2 (wordI e.1 1 1 0) ((keeper (wordI e.1 1 1 0) (atEnd e.2)).core 0) = some (spadBytes - e.2)) ∧
    ((keeper 0).core 0).clean 0 8 := by decide +kernel

theorem test_hyp_BranchesGoToTheirTarget : goes 0x18 (BitVec.ofNat 32 (0x18 * 2 ^ 26)) ∧ goes 0x19 (BitVec.ofNat 32 (0x19 * 2 ^ 26 + 0x1FFF)) ∧
    ((0 : Int) * 4 + soff22Of (BitVec.ofNat 32 (0x19 * 2 ^ 26 + 0x1FFF)) * 4 = 0x7FFC) ∧
    goes 0x1A (wordR 0x1A 0 1 0 0) (({} : Core).setS 1 0x7FFF) ∧ goes 0x1A (wordR 0x1A 0 1 0 0) (({} : Core).setS 1 0x8000) ∧
    goes 0x18 0x603FFFFF ∧ (0 : Int) * 4 + soff22Of 0x603FFFFF * 4 < 0 ∧ goes 0x19 0x64002000 ∧ 0x7FFC < (0 : Int) * 4 + soff22Of 0x64002000 * 4 ∧ goes 0x02 (wordI 2 0 0 0) := by decide +kernel

theorem test_hyp_WaitInstructionsBeginToWait : goes 0x23 (wordI 0x23 1 1 7) ∧ goes 0x26 (wordI 0x26 1 1 127) ∧ goes 0x28 (wordI 0x28 0 1 0) ∧
    goes 0x29 (wordI 0x29 0 1 0xFFF) ∧ goes 0x33 (wordI 0x33 1 1 15) ∧ goes 0x27 (wordR 0x27 1 1 2 6) ∧ goes 0x27 (wordR 0x27 1 1 2 14) ∧
    inSpad 0 8 ∧ goes 0x35 (wordI 0x35 1 1 15) (({} : Core).setF Reg.KP_BELL_MEMBER 0x8000) ∧
    (({} : Core).setF Reg.KP_BELL_MEMBER 0x8000).member 15 := by decide +kernel

/-- Core 0 waits. -/
def waiting (kind : WaitKind) (timeout : Nat := 0) (k : Core := {}) : State := withCore { k with wait := { kind := kind, dst := 1, timeout := timeout } }

theorem test_hyp_WaitsEnd : live.keeperOn 0 ∧ (waiting (.bell 3)).waitHolds 0 ∧ (waiting (.queueIdle 7)).waitHolds 0 ∧
    (waiting (.grant 2)).waitHolds 0 ∧ (waiting (.flag 5 true) 0 (({} : Core).setFlag 5)).waitHolds 0 ∧ (waiting (.sundial 0)).waitHolds 0 ∧
    (waiting (.flag 5 true)).waitHolds 0 = false ∧ timedWait (.flag 5 true) ∧
    (let s := waiting (.word 0 0 true 0) 8
     (s.core 0).clean 0 4 ∧ condHolds 0 (BitVec.ofNat 64 (leVal ((s.core 0).spadRead 0 4))) 0) ∧
    condHolds 1 (BitVec.ofNat 64 (leVal (((waiting (.word 0 1 true 0) 7).core 0).spadRead 0 4))) 0 = false ∧
    (∀ e ∈ [(0, QUnit.cube), (1, .chain), (2, .port)], (((waiting (.queueFull e.1 0)).core 0).queue e.2).length < 16 ∧
      ((waiting (.queueFull e.1 0)).core 0).descOk e.2 0) := by decide +kernel

theorem test_hyp_KeeperStatusFollowsWaitsAndFaults : (15 < 16) ∧ ∀ r ∈ [0, 31], Fm.get 0 r ({} : Core).ready < 2 ^ 64 := by decide +kernel

/-- Core 0 belongs to garden 0, which has `n` cores. -/
def owned (n : Nat) (s : State) : State := (s.updPav 0 fun v => { v with owner := some 0 }).updGarden 0 fun d => d.setF Reg.GD_STATUS_SIZE n

theorem test_hyp_FlagsSendsAndRegisterAccess : goes 0x24 (wordI 0x24 0 0 63) ∧ goes 0x25 (wordI 0x25 0 0 63) ∧ goes 0x25 (wordI 0x25 0 1 2048) ∧
    goes 0x39 (wordI 0x39 1 0 1) ∧ goes 0x3A (wordI 0x3A 0 1 0) ∧
    (let s := owned 4 (keeper (wordI 0x2C 0 1 63) (({} : Core).setS 1 3))
     issues s 0 0x2C (wordI 0x2C 0 1 63) ∧ ((s.core 0).sReg 1).toNat < s.gardenSize (s.ownerOf 0)) ∧
    (let k := ({} : Core).setSlot 15 { state := 2, wlen := 1 }
     goes 0x2D (wordR 0x2D 15 1 2 15) k ∧ (k.slot 15).state = 2 ∧ 0 + 128 ≤ (k.slot 15).wlen * 256 ∧ inSpad 0 128) := by decide +kernel

theorem test_hyp_CreditInstructions : goes 0x30 (wordR 0x30 7 1 2 0) ∧
    (let k := ({} : Core).setS 2 256
     goes 0x30 (wordR 0x30 7 1 2 0) k ∧ inSpad 0 256 ∧ (k.pool 7).isOpen = false ∧ (k.pool 7).closing = false) ∧
    goes 0x31 (wordR 0x31 7 0 1 0) ∧
    (let w := wordR 0x32 15 1 2 0
     let s := owned 1 (keeper w (({} : Core).setS 2 0x7FFF07))
     issues s 0 0x32 w ∧ ((s.core 0).slot 15).state ≠ 1 ∧ 0x7FFF07 < 2 ^ 23 ∧ 0x7FFF07 / 8 % 32 = 0 ∧
       ((s.core 0).sReg 1).toNat < s.gardenSize (s.ownerOf 0)) := by decide +kernel

def fullQueue : List QSlot := List.replicate 16 { seq := 0, words := [] }

theorem test_hyp_QueueInstructionsReserveOrStall :
    (∀ e ∈ [(0x20, QUnit.cube), (0x21, .chain), (0x22, .port)], goes e.1 (wordI e.1 0 1 0) ∧ ((keeper (wordI e.1 0 1 0)).core 0).descOk e.2 0 ∧
      (((keeper (wordI e.1 0 1 0)).core 0).queue e.2).length < 16) ∧
    (let k : Core := { cubeQ := fullQueue, chainQ := fullQueue, portQ := fullQueue }
     ∀ e ∈ [(0x20, QUnit.cube), (0x21, .chain), (0x22, .port)], goes e.1 (wordI e.1 0 1 0) k ∧ k.descOk e.2 0 ∧ 16 ≤ (k.queue e.2).length) := by
  decide +kernel

theorem test_hyp_RunSeedAndCoreReset : (0 < Config.coreSites) ∧ ({} : Core).getF Reg.KP_CTRL_RUN = 0 ∧
    (({} : Core).setF Reg.KP_CTRL_RUN 1).getF Reg.KP_CTRL_RUN = 1 ∧ (({} : Core).setF Reg.KP_CTRL_RUN 1).getF Reg.KP_STATUS_STATE ≠ 3 ∧
    live.mayReset 0 ∧ (withCore (({} : Core).setF Reg.KP_STATUS_STATE 3)).mayReset 0 = false := by decide +kernel
theorem test_hyp_KeeperFaultsAndPredicates : (keeper 0).keeperRuns 0 ∧
    ((keeper 0 { pstoreBad := [0] }).core 0).fetch = none ∧ ((keeper 0).core 0).fetch = some 0 ∧ opForm 0 = none ∧ encCause 0 = some 1 ∧
    encCause (wordR 0x04 0 0 0 15) = some 1 ∧ ((keeper (wordI 0x05 1 1 0 ||| 0x02000000)).core 0).fetch = some 0x16021000 ∧
    opOf 0x16021000 = 5 ∧ encCause 0x16021000 = none ∧ (({} : Core).pReg (prOf 0x16021000) = pnOf 0x16021000) ∧ ({} : Core).pc ≠ 0x1FFF ∧
    atWord (keeper (wordI 0x11 1 1 1)) 0 0x11 (wordI 0x11 1 1 1) := by decide +kernel

/-- NOP in the last word of the program store. -/
def lastNop : State := withCore { ((({} : Core).setF Reg.KP_STATUS_STATE 1).setF Reg.KP_STATUS_PC 0x1FFF) with pstore := [(0x1FFF, wordI 1 0 0 0)] }

theorem test_hyp_KeeperFaultsAndPredicates_bodies :
    (lastNop.keeperRuns 0 ∧ (lastNop.core 0).fetch = some (wordI 1 0 0 0) ∧ opOf (wordI 1 0 0 0) = 1 ∧ encCause (wordI 1 0 0 0) = none ∧ (lastNop.core 0).pc = 0x1FFF) ∧
    (∀ u, ∃ t n, onlyCore (fun _ k => k) 1 0 (wordI 1 0 0 0) u = .goes t n) ∧
    ∀ u, (fun (_ : Nat) (_ : W32) (_ : State) => KOut.fault 3) 0 (wordI 0x11 1 1 1) u = .fault 3 :=
  ⟨by decide +kernel, fun _ => ⟨_, _, rfl⟩, fun _ => rfl⟩

theorem test_hyp_KeeperRegistersReadAsWritten : (31 < 32) ∧ (15 < 16) ∧ (7 < 8) ∧ (30 ≠ 31) ∧ (63 < 64) ∧ (0 ≠ 63) := by decide

/-! ### Units of a core -/

def cubeQ1 (w0 : Word) : QSlot := { seq := 1, words := [w0, 0, 0, 0], entered := true }
def cubeAt (w0 : Word) : State := withCore { cubeQ := [cubeQ1 w0] }

/-- A descriptor at the head of the cubes' queue, in order. -/
def cubeReady (w0 : Word) : Bool :=
  let k := (cubeAt w0).core 0
  let d := decodeCube [w0, 0, 0, 0]
  decide (k.cubeHead = some (cubeQ1 w0)) && decide (d.reject [] = none) && k.chainsClear 1 d.tiles

theorem test_hyp_CubeRunsItsHeadDescriptor : live.computeOn 0 ∧ cubeReady 1 ∧ cubeReady 2 ∧
    (decodeCube (cubeQ1 0).words).reject [] = some 1 ∧ (decodeCube (cubeQ1 0x3F00000100000002).words).op = 2 ∧
    (decodeCube (cubeQ1 0x3F00000100000002).words).reject [] = some 3 := by decide +kernel

def chainQ1 (hdr : Word) : QSlot := { seq := 1, words := [hdr, 2, 0, 0x0822, 0, 0x200], entered := true }
def chainAt (k : Core) : State := withCore k

/-- A chain whose beats are done: its one stage computes, where the next only passes its operand on. -/
def chainDone (stage : Word) : ChainRun := { slot := { seq := 1, words := [0, 2, 0, 0x0822, 0, stage], entered := true } }

theorem test_hyp_ChainUnitRunsChains :
    (decodeChain (chainQ1 0).words).reject ({} : Core).env = none ∧ (decodeChain (chainQ1 0xFFFFFE0000000000).words).reject [] = some (1, 0) ∧
    (let s := chainAt { chainQ := [chainQ1 0], chainBad := some false }
     s.computeOn 0 ∧ (s.core 0).chainHead = some (chainQ1 0)) ∧
    (let s := chainAt { chainRun := some { slot := chainQ1 0 } }
     (s.core 0).cubesClear 1 ((decodeChain (chainQ1 0).words).beatTiles 0) ∧ (s.core 0).outboxRoom (decodeChain (chainQ1 0).words) 0 ∧
     (s.core 0).spadUe = [] ∧ (s.core 0).spadCe = []) ∧
    (let ts := completionTimes 0 [chainDone 0x213, chainDone 0x200]
     ∀ t ∈ ts.take 1, ts.getD 1 0 < t) := by decide +kernel

def portQ1 (ws : List Word) : QSlot := { seq := 1, words := ws, entered := true }
def portAt (ws : List Word) (k : Core := {}) : State := owned 4 (withCore { k with portQ := [portQ1 ws] })

/-- Avenue 0 of garden 0 leaves core 0 on slice 1 and is delivered there. -/
def aveEntry (m : Nat) : Word := BitVec.ofNat 64 (1 + m)

/-- A descriptor at the head of the porter's queue, in order. -/
def portReady (op : Word) : Bool :=
  let s := portAt [op, 0, 0, 0]
  let d := decodePort [op, 0, 0, 0]
  decide ((s.core 0).portHead = some (portQ1 [op, 0, 0, 0])) && decide (d.op = op.toNat) && s.computeOn 0 && decide (d.reject = none)

theorem test_hyp_PorterRunsItsHeadDescriptor : portReady 1 ∧ portReady 2 ∧ portReady 3 ∧ portReady 4 ∧ portReady 5 ∧ portReady 6 ∧
    portReady 7 ∧ portReady 8 ∧
    (let s := portAt [1, 0, 0, 0]; let d := decodePort [1, 0, 0, 0]; (copyRows 0 d d.rows 0 s).2) ∧
    (putCause 4 (decodePort [2, 0, 0, 0]) { state := 2, wlen := 1 } = none) ∧
    (decodePort [3, 0, 0, 0]).target < (portAt [3, 0, 0, 0]).gardenSize ((portAt [3, 0, 0, 0]).ownerOf 0) ∧
    (let s := (portAt [6, 0, 0, 0]).updPav 0 fun v => { v with regs := setReg .pv (aveActive + 8 * aveIdx 0 4 1) 1 v.regs }
     (s.pav 0).sourceEntry 0 0 (decodePort [6, 0, 0, 0]).target = some 1 ∧
     (let d := decodePort [6, 0, 0, 0]; (sendRows 0 d d.rows 0 s []).2.1)) ∧
    (((portAt [7, 0, 0, 0]).updPav 0 fun v => { v with regs := setReg .pv (aveActive + 8 * aveIdx 0 0 1) 0x20001 v.regs }).pav 0
      |>.deliveryEntry 0 0 0).isSome ∧
    ((portAt [8, 0, 0, 0]).readRow 0 0 8 0x4008).2.1 := by decide +kernel
/-! ### Packets and the fabric -/

def withInbox (p : Packet) (k : Core := {}) : State := withCore { k with inbox := [p] }

/-- The packet is the oldest of its kind at core 0, of the generation of its garden. -/
def arrived (s : State) (p : Packet) : Bool :=
  decide (firstOf p.type [] (s.core 0).inbox = some (p, [])) && s.computeOn 0 && decide (s.pavTag (pavOf 0) p.garden = p.gen)

def writeP : Packet := { type := 1, payload := [1, 2, 3, 4, 5, 6, 7, 8] }
/-- A transfer that waits for the reply to its one packet. -/
def runOf (op : Nat) (d : Nat) : PortRun := { slot := portQ1 [BitVec.ofNat 64 (op + d * 2 ^ 39), 0, 0, 0], op := op, outst := [(0, 8)] }

theorem test_hyp_PacketsActAtTheirCore :
    (let s := withInbox writeP { pools := [(0, { isOpen := true, size := 1, grants := [{ num := 0, pad := 0, wbase := 0, wlen := 1 }] })] }
     arrived s writeP ∧ (s.core 0).windowFor writeP = some 0) ∧
    (let s := withInbox writeP; arrived s writeP ∧ (s.core 0).windowFor writeP = none) ∧
    (let p : Packet := { type := 2, payload := leBytes 8 (8 * 2 ^ 23) }
     arrived (withInbox p) p ∧ p.addr + p.span ≤ spadBytes) ∧
    (let p : Packet := { type := 3, payload := [1, 2, 3, 4, 5, 6, 7, 8] }
     let asked (r : PortRun) : Bool := (r.op = 3 || r.op = 4) &&
       (r.came.filter fun y => (y.1, y.2.1.length) = (p.addr, p.payload.length)).length < (r.outst.filter (· = (p.addr, p.payload.length))).length
     let late := { runOf 3 0 with outst := [(8, 8), (0, 8)] }
     arrived (withInbox p { portRun := [runOf 3 0] }) p ∧ findRun [runOf 3 0] asked = some (0, runOf 3 0) ∧ (runOf 3 0).came = [] ∧ p.bad = none ∧
       findRun [late] asked = some (0, late)) ∧
    (∀ n ∈ [4, 5, 6], arrived (withInbox { type := n }) { type := n }) ∧
    ((({} : Core).setSlot 0 { state := 1 }).slot 0).state = 1 ∧
    (let p : Packet := { type := 7, payload := [], src := 0 }
     let s := (withInbox p { portRun := [runOf 2 0] }).updPav 0 fun v => { v with map := [(0, 0x8000)] }
     arrived s p ∧ mapCore (s.pav 0).map 0 = some 0 ∧ (findRun (s.core 0).portRun (fun r => r.outst.any ((s.pav 0).acked p r))).isSome) ∧
    (let p : Packet := { type := 8, addr := 2 }
     arrived (withInbox p { portRun := [runOf 6 0] }) p ∧ (findRun [runOf 6 0] (fun r => r.op = 6 && r.failed = 0)).isSome) ∧
    (let p : Packet := { type := 8, addr := 1, src := 0 }
     arrived (withInbox p { portRun := [runOf 2 0] }) p ∧
     (findRun [runOf 2 0] (fun r => r.op = 2 && r.outst.any (fun o => o.1 = p.about) &&
       mapCore [(0, 0x8000)] (decodePort r.slot.words).target = some p.src)).isSome) := by decide +kernel

def linked (c side : Nat) (s : State) : State := s.updPav (pavOf c) fun v => v.setF (Reg.PV_LINK_CNT_UP (cntIdx c side)) 1

/-- The first flit of a packet of three. -/
def longP (type : Nat) : Packet := { type := type, payload := List.replicate 64 0 }
def atPav (f : Pav → Pav) (k : Core := {}) : State := (owned 1 (withCore k)).updPav 0 f
def aveRow (v : Pav) : Pav := { v with regs := setReg .pv (aveActive + 8 * aveIdx 0 4 1) 1 v.regs }

theorem test_hyp_TrafficEntersTheFabric : (queueOn 11) ∧
    (let s := atPav (fun v => { v with entering := [(fqKey 0 4 0 true, { pkt := longP 3, idx := 1 })] })
     s.ownerOf 0 = some 0 ∧ s.fabricOn 0 ∧ (s.enterOn 0 4 true).isSome) ∧
    (let p : Packet := { type := 3, dest := 0, naming := .physical }
     let s := atPav id { out := [p] }
     (s.core 0).out.find? (fun p => replyType p.type) = some p ∧ s.computeOn 0 ∧ (s.enterOn 0 4 true).isNone ∧
       (s.pav 0).resolve p = some (0, 0) ∧ (s.exitOf 0 0).isSome ∧
       ((s.updCore 0 fun k => { k with out := k.out.erase p }).enter 0 4 (p.stamp 0 0 0 0 (s.pavTag (pavOf 0) 0))).isSome) ∧
    (let s := atPav (fun v => { v with entering := [(fqKey 0 4 0 false, { pkt := longP 1, idx := 1 })] })
     (s.enterOn 0 4 true).isNone ∧ (s.enterOn 0 4 false).isSome) ∧
    (let p : Packet := { type := 1, dest := 0, payload := [0, 0, 0, 0, 0, 0, 0, 0] }
     let s := atPav (fun v => { v with map := [(0, 0x8000)] }) { out := [p] }
     (∀ q ∈ (s.core 0).out, replyType q.type = false) ∧ s.held 0 0 = false ∧ (s.enterOn 0 4 false).isNone ∧ (s.pav 0).resolve p = some (0, 0) ∧
       ((s.updCore 0 fun k => { k with out := k.out.erase p }).enter 0 4 (p.stamp 0 0 0 0 (s.pavTag (pavOf 0) 0))).isSome) ∧
    ((((atPav fun v => { v with aveEntering := [(aqKey 0 4 1, { bun := { avenue := 0 } })] }).pav 0).aveNext 0 4).isSome) ∧
    (let b : Bundle := { avenue := 0 }
     let s := atPav aveRow { aveOut := [(1, b)] }
     let e := (s.pav 0).ave aveActive (aveIdx 0 4 1)
     s.computeOn 0 ∧ s.fabricOn 0 ∧ s.held 0 e.garden = false ∧ (s.pav 0).aveNext 0 4 = none ∧ (s.pav 0).aveFree 0 4 1 ∧ e.valid ∧
       e.avenue = b.avenue ∧ ∀ x ∈ [1, 2, 3], (s.pav 0).markers.contains (aveIdx 0 4 x) = false) ∧
    (let s := atPav fun v => aveRow { v with markers := [aveIdx 0 4 1] }
     ((s.pav 0).ave aveActive (aveIdx 0 4 1)).valid ∧
       ([1, 2, 3].find? fun x => (s.pav 0).markers.contains (aveIdx 0 4 x) && (s.pav 0).aveFree 0 4 x) = some 1) := by decide +kernel

theorem test_hyp_TrafficEntersTheFabric_endpoints : (isEndpoint 0x7100) ∧
    (let p : Packet := { type := 3, dest := 0 }
     let s := { live.updPav 8 (fun v => { v with powered := true, dark := false }) with endOut := [(0x7100, [p])] }
     s.attach 0x7100 = some (0, 64, 67) ∧ s.endGives 0x7100 p ∧
       (∀ x ∈ attachRouters (0, 64, 67), s.fabricOn x.1 = true → s.enterOn x.1 x.2 true = none) ∧
       (let rs := edgePort (0, 64, 67) (s.placeOf 0).1 (s.placeOf 0).2
        s.fabricOn rs.1 ∧ (s.exitOf 0x7100 0).isSome ∧ (s.enter rs.1 rs.2 p).isSome)) ∧
    (let s := live.updPav 8 fun v => { v with powered := true, dark := false, aveEntering := [(aqKey 64 0 1, { bun := { avenue := 0 } })] }
     ((attachRouters (0, 64, 67)).findSome? fun x => if s.fabricOn x.1 then ((s.pav (pavOf x.1)).aveNext x.1 0).map fun y => (x.1, y.1, y.2) else none).isSome) := by
  decide +kernel

/-- A flit at the head of an input of core 0's router. -/
def atRouter (p : Packet) : State := live.updPav 0 fun v => { v with fq := [(fqKey 0 4 0 false, [{ pkt := p }])] }
def goodHead (p : Packet) : Packet := { p with hcrc := p.headCrc }

/-- The flit at the head of that input may go to an output's lane. -/
def mayGo (s : State) (r out : Nat) (f : Flit) : Bool :=
  decide (s.bound r (fqKey r 4 0 false) f = some (out, 0)) && s.canGo r out 0 f && s.serves r out 0 false 16 f && s.stileServes s.aveReady r out 0

theorem test_hyp_RoutersMovePacketsAndBundles : routeFits 0 4 3 ∧ live.fabricOn 0 ∧ isSeam 0 4 = false ∧
    (isSeam 8 3 ∧ ((live.updPav 1 fun v => { v with gates := [(gateKey 8 3, [{}, {}, {}])] }).pav (pavOf 8)).gate 8 3 = [{}, {}, {}] ∧
      ((live.updPav 1 fun v => { v with gates := [(gateKey 8 3, [{}])] }).pav (pavOf 8)).gate 8 3 = [{}]) ∧
    (let p := goodHead { type := 1 }
     let s := atRouter p
     flitCheck .none true ((p.hcrc ^^^ flitMask .none) = p.headCrc) (s.pavTag (pavOf 0) p.garden = p.gen) = .pass ∧
       flitCheck (.head 1) true ((p.hcrc ^^^ flitMask (.head 1)) = p.headCrc) true = .crc ∧ mayGo s 0 4 { pkt := p } ∧
       ({ pkt := p } : Flit).last ∧ replyType p.type = false) ∧
    (let p := goodHead { type := 1, dest := 1 }
     let s := linked 1 3 (atRouter p)
     mayGo s 0 1 { pkt := p } ∧ neighbour 0 1 = some 1 ∧ s.linkMarkedDown 0 1 = false ∧ isSeam 0 1 = false) ∧
    (let p := goodHead { type := 1, src := 7, dest := 8 }
     let s := linked 8 3 (linked 7 1 ((live.updPav 0 fun v => { v with fq := [(fqKey 7 4 0 false, [{ pkt := p }])] }).updPav 1 fun v =>
       v.setF Reg.PV_REG_STATUS_ON 1 |> fun v => { v with powered := true, dark := false }))
     mayGo s 7 1 { pkt := p } ∧ neighbour 7 1 = some 8 ∧ s.linkMarkedDown 7 1 = false ∧ isSeam 7 1) := by decide +kernel

theorem test_hyp_RoutersMovePacketsAndBundles_bundles :
    (let b0 : Bundle := { avenue := 0 }
     let f : AveFlit := { bun := { b0 with hcrc := b0.headCrc } }
     let s := (atPav aveRow {}).updPav 0 fun v => { v with aq := [(aqKey 0 4 1, [f])] }
     let e := (s.pav 0).ave aveActive (aveIdx 0 4 1)
     (s.pav 0).aqAt (aqKey 0 4 1) = [f] ∧ flitCheck .none true true (s.pavTag (pavOf 0) f.bun.garden = f.bun.gen) = .pass ∧ e.valid ∧
       e.goesTo 4 = false ∧ ((List.range 5).filter e.goesTo).all fun o => s.branchOn 0 e f o && (4 ≤ o || s.stileServes s.aveReady 0 o (e.sliceOn o))) := by
  decide +kernel

theorem test_hyp_FabricEvents :
    (let s := { live with bellRel := [(3 * 16 + 15, 0)] }
     s.bellRel.contains (3 * 16 + 15, 0) ∧ (s.pav (pavOf 0)).testing 0 = false) ∧
    (let p : Packet := { type := 1, dest := 0, payload := [0, 0, 0, 0, 0, 0, 0, 0] }
     (({ inbox := [p] } : Core).requests true)) ∧
    ((live.pav 0).holdsFlit 3 = false ∧ (live.pav 0).owner ≠ some 3) ∧ ((atRouter { type := 1, garden := 3 }).pav 0).holdsFlit 3 ∧
    (431 < Config.pavilions) ∧ (27647 < Config.coreSites) ∧
    (neighbour 7 1 = some 8 ∧ pavOf 8 ≠ pavOf 7 ∧ live.fabricOn 8 = false) ∧
    (let s := live.updPav 1 fun v => { v with powered := true, dark := false }
     neighbour 7 1 = some 8 ∧ s.fabricOn 8 ∧ s.fabricOn 7 ∧ s.linkUp 7 1 = false ∧
       Fm.get 0 (coreIdx 7 * 4 + 1) (s.pav (pavOf 7)).alignFails < 7) := by decide +kernel
theorem test_hyp_ScratchpadUpkeep :
    (live.updPav 0 fun v => v.setF Reg.PV_SPAD_CTL_SCRUBEN 1).scrubs 0 ∧ State.reset.scrubs 0 = false ∧ (live.core 0).scrubbed ≠ live.scrubPeriod 0 + 1 ∧
    (withCore { spadWb := [16383] }).computeOn 0 ∧ live.computeOn 0 ∧ (live.pav 431).getF Reg.PV_SPAD_CTL_BUSY = 0 ∧
    ((coresOf 431).all fun c => (live.core c).getF Reg.KP_CTRL_RUN ≠ 1) ∧
    (let s := live.updPav 0 fun v => (v.setF Reg.PV_SPAD_CTL_BUSY 1).setF Reg.PV_REG_STATUS_ON 1
     (s.pav 0).getF Reg.PV_SPAD_CTL_BUSY = 1 ∧ (s.pav 0).getF Reg.PV_REG_STATUS_ON = 1) ∧
    ((withCore { spadCopying := [31 * 6144 + 6143] }).core 0).spadCopying.contains (31 * 6144 + 6143) := by decide +kernel

/-! ### Orangeries -/

def atOra (f : Ora → Ora) : State := live.updOra 15 f

theorem test_hyp_OrangeryAnswersPackets :
    (let p : Packet := { type := 9, payload := [1] }
     let s := atOra fun v => { v with inbox := [p] }
     Config.orangeryPresent 15 ∧ (s.orang 15).inbox = [p] ∧ (s.orang 15).channelHeld 0 1 = false ∧ s.endTag (codeOra 15) 0 = p.gen ∧
       0 + 1 ≤ Config.slowBytes) ∧
    (let p : Packet := { type := 2, addr := 15 * 4096, payload := leBytes 8 (8 * 2 ^ 23) }
     let s := atOra fun v => { v with inbox := [p] }
     (s.orang 15).inbox = [p] ∧ (s.orang 15).channelHeld (localOf p.addr) p.span = false ∧ oraOf p.addr = 15 ∧ p.addr + p.span ≤ Config.slowBytes ∧
       (s.orang 15).poison = []) ∧
    ((live.orang 15).inArena 3 0 = false ∧ (atOra (Ora.setEng 3 engCollect) |>.orang 15).eng 3 ≤ engCollect) := by decide +kernel

theorem test_hyp_UpdateEngineCommands : engines = true ∧ (live.orang 15).eng 3 = engNone ∧ (live.orang 15).planOk 3 ∧
    (let v : Ora := { regs := setReg .ora (layerOff 0 0) (0x4000000000000) [] }
     (v.layer 0).valid ∧ v.eng 0 = engNone ∧ v.planOk 0 = false) ∧
    (∀ e ∈ [engCollect, engPrepared, engCommitting], ((live.orang 15).setEng 3 e).eng 3 = e ∧ e ≠ engNone ∧ e ≠ engNorm) ∧
    engCollect ≠ engPrepared ∧ (live.orang 15).layerWritable 65535 7 0 ∧
    (Ora.setEng 0 engNorm {}).layerWritable 65535 0 0 = false := by
  decide +kernel

theorem test_hyp_UpdateEnginePasses : Config.orangeryPresent 15 ∧
    (∀ e ∈ [engNorm, engPreparing, engCommitting], ((live.orang 15).setEng 3 e).eng 3 = e) ∧ Fm.wf 0 live.slow ∧
    (live.orang 15).lost = false ∧ (live.meets 15 {}).slow = live.slow := by decide +kernel

theorem test_hyp_OrangeryUpkeep :
    (let v := (((({} : Ora).setF Reg.OR_MEM_STATUS_TRAINED 1).setF Reg.OR_MEM_CTL_SCRUBEN 1).setF (rateF 1) 2).setF (rateF 0) 2
     v.getF Reg.OR_MEM_STATUS_TRAINED = 1 ∧ v.held = none ∧ v.early = [] ∧ v.checkDue live.round ∧ v.retraining = false ∧
     v.getF Reg.OR_MEM_CTL_SCRUBEN = 1 ∧ v.scrubbed ≠ v.scrubPeriod live.now + 1 ∧ v.getF (rateF 1) = 2 ∧ v.getF (rateF 0) ≠ 0 ∧
     v.getF Reg.OR_MEM_STATUS_RETIRED < spareRows) ∧
    (({ held := some 15 } : Ora).held ≠ none ∧ ({ retraining := true } : Ora).retraining ∧ 7 ∈ ({ wb := [7] } : Ora).wb) ∧
    ((({} : Ora).setF (rateF 0) 3).getF (rateF 0) = 3 ∧ (({} : Ora).setF (rateF 0) 3).getF (rateF 1) = 0 ∧
      ((({} : Ora).setF (rateF 0) 3).setF (rateF 1) 1).getF (rateF 1) ≠ 0) ∧
    (let e : BlockErr := { block := 7 }
     ({ blocks := [e] } : MemErr).blocks = [e]) ∧
    3 ≤ Fm.get 0 7 (({ rowScrub := [(7, 3)] } : Ora).rowScrub) ∧ ({ rowBad := [7] } : Ora).rowBad.contains 7 := by decide +kernel

/-! ### Power -/

theorem test_hyp_AlertsAndTheCapHoldPowerDown : live.power.stopped = false ∧ alertFits 1 23 ∧ alertFits 0 0 ∧
    (let s := timeAt (500 * ticksPerUs) { live.setPw Reg.PW_STATUS_ALERTHOLD 1 with power := { live.power with holdCount := true } }
     s.alertHold ∧ s.power.holdCount ∧ s.power.releasedAt + 500 * ticksPerUs ≤ s.now ∧ s.start.running = false) ∧
    (let s := timeAt ticksPerSec (live.setPw Reg.PW_STATUS_ALERTHOLD 1)
     s.alertHold ∧ s.power.heldFrom + (s.power.halvings + 1) * ticksPerSec ≤ s.now) ∧
    (live.power.looped ≠ live.round + 1 ∧ live.hasJob .capStep = false ∧ live.alertHold = false ∧ getF Reg.PW_STATUS_CAPIDX live.pw < 7 ∧
      105 * getF Reg.PW_CAP_CAP live.pw < 100 * 20000) ∧
    (let s := (live.setPw (Reg.PW_CONV_OK 23) 1).setPw Reg.PW_STATUS_CONVOK 24
     getF (Reg.PW_CONV_OK 23) s.pw = 1 ∧ 1 ≤ getF Reg.PW_STATUS_CONVOK s.pw) := by decide +kernel

theorem test_hyp_TheBusbarHasItsBands : live.power.stopped = false ∧ (∀ t ∈ live.highSince, t + ticksPerMin ≤ live.now) ∧
    ((-1000 : Int) ≤ -1000 ∧ (-1000 : Int) < 36000) ∧ ((62000 : Int) < 72000 ∧ (72000 : Int) ≤ 72000) ∧ ((36000 : Int) ≤ 36000 ∧ (36000 : Int) < 40000) ∧
    ((60000 : Int) < 62000 ∧ (62000 : Int) ≤ 62000) ∧ ((64000 : Int) < 64001 ∧ 1000 < 1001) ∧ (72000 : Int) < 72001 := by decide +kernel

/-- Pavilion 0's registers as given. -/
def pavAt (f : Pav → Pav) : State := live.updPav 0 f

theorem test_hyp_DomainsLosePowerAndGetIt :
    (let s := pavAt fun v => v.setF Reg.PV_REG_STATUS_PHASEOK 0xFF
     ((s.pav 0).getF Reg.PV_REG_STATUS_PHASEOK).testBit 7 ∧ (s.pav 0).getF Reg.PV_REG_STATUS_LOST + 1 < 3) ∧
    (let s := pavAt fun v => (v.setF Reg.PV_REG_STATUS_PHASEOK 0x3F).setF Reg.PV_REG_STATUS_LOST 2
     ((s.pav 0).getF Reg.PV_REG_STATUS_PHASEOK).testBit 0 ∧ 3 ≤ (s.pav 0).getF Reg.PV_REG_STATUS_LOST + 1 ∧
       (s.pav 0).getF Reg.PV_REG_STATUS_ON = 1) ∧
    (({} : Pav).setF Reg.PV_REG_STATUS_ON 0 |> fun v => ({ v with powered := true, dark := false } : Pav)).mayPower ∧
    getF (Reg.PW_PLOT_ON 35) (live.setPw (Reg.PW_PLOT_ON 35) 1).pw = 1 ∧
    ((pavAt fun v => v.setF Reg.PV_REG_STATUS_THOK 1).pav 0).getF Reg.PV_REG_STATUS_THOK = 1 ∧
    (let s := pavAt fun v => { v with switchingOff := true }
     (s.pav 0).switchingOff ∧ (s.pav 0).powerOnWait = false ∧ s.pins.thermTrip = false) ∧
    (let s := pavAt fun v => (v.setF Reg.PV_REG_STATUS_POWERING 1).setF Reg.PV_REG_STATUS_CORESON 63
     (s.pav 0).powering ∧ (∀ d ∈ plotPavs (plotOf 0), d < 0 → (s.pav d).powering = false) ∧ s.alertHold = false ∧
       (s.pav 0).getF Reg.PV_REG_STATUS_CORESON < 64) ∧
    (let s := pavAt fun v => (v.setF Reg.PV_REG_STATUS_POWERING 1).setF Reg.PV_REG_STATUS_CORESON 64
     (s.pav 0).powering ∧ (s.pav 0).sdLag.natAbs ≤ 1 ∧ (s.pav 0).getF Reg.PV_REG_STATUS_CORESON = 64) ∧
    ((pavAt fun v => { v with pendingIdx := some 7 }).pav 0).pendingIdx = some 7 := by decide +kernel
theorem test_hyp_SensorsAndHeatSlowTheModule : live.power.stopped = false ∧
    (let s := timeAt 65536 (pavAt fun v => { v with hotSince := some 0 })
     (s.pav 0).hotSince = some 0 ∧ 0 + 65536 ≤ s.now ∧ (s.pav 0).getF Reg.PV_REG_STATUS_HEATIDX < 7) ∧
    (let s := timeAt (16 * 65536) (pavAt fun v => { v.setF Reg.PV_REG_STATUS_HEATIDX 7 with coolSince := some 0 })
     (s.pav 0).coolSince = some 0 ∧ 0 + 16 * 65536 ≤ s.now ∧ 0 < (s.pav 0).getF Reg.PV_REG_STATUS_HEATIDX) ∧
    ((live.pav 0).hotSince = none ∧ (live.pav 0).coolSince = none) ∧
    Config.orangeryPresent 15 ∧ (List.replicate 32 (111 : Int)).length = 32 := by decide +kernel

/-! ### The postmaster -/

/-- The postmaster serves. -/
def serving : State := live.setPm Reg.PM_STATUS_STATE 2

def withChan (ch : Nat) (c : Chan) : State := serving.updChan ch fun _ => c
def ownChan (c : Chan := {}) : Chan := { c with bound := 1, role := roleO }
def someReceipt : Receipt :=
  { code := 3, garden := 0xFF, session := 0, sequence := 7, flags := 1, status := 0, reason := 0, tag := 0, chime := 0,
    waited := 0, waitedSeq := 0, body := [], clamps := [] }

theorem test_hyp_TheWindowFormsAndTakesLetters : ownWindow (withChan 63 (ownChan {})) 63 ∧
    (ownChan { forming := List.replicate 511 0 }).forming.length < 512 ∧ 512 ≤ (List.replicate 512 (0 : Word)).length ∧
    (ownChan {}).inSlots.length < 8 ∧ 8 ≤ (List.replicate 8 ({ letter := { code := 3 } } : Slotted)).length ∧
    (let c := ownChan { outSlots := [someReceipt] }
     c.outSlots = [someReceipt] ∧ 8 * c.outPos < someReceipt.bytes.length ∧ (withChan 63 c).session c.session = none ∧ c.heldOut = []) ∧
    ownWindow (withChan 63 {}) 63 = false := by decide +kernel

theorem test_hyp_OtherPathsReachTheWindow : serving.windowOpen ∧ (0x1F8 % 8 = 0 ∧ 0x1F8 ≤ 0x1F8) ∧
    (true && serving.windowOpen && decide (0x200 % 8 = 0) && decide (0x200 ≤ 0x1F8)) = false ∧ live.windowOpen = false ∧
    ((1 : BitVec 80) <<< 74).toNat / 2 ^ 74 % 2 = 1 ∧ ((0 : BitVec 80)).toNat / 2 ^ 74 % 2 = 0 ∧
    pathChan .smbus < 65 ∧ pathChan .smbus ≠ 64 ∧ regAt 0x200000010000 = .pv 0 ∧
    serving.mayWrite (pathChan .smbus) 0x200000010000 ∧ regAt 0 = .nothing ∧ serving.mayWrite (pathChan .smbus) 0 = false := by decide +kernel

theorem test_hyp_RoundsAndRestart : serving.inService ∧ live.inService = false ∧
    (serving.post.swept ≠ serving.round + 1 ∧ (timeAt 40000 serving).tick ≤ 40000 ∧ ¬(timeAt 40001 serving).tick ≤ 40000) ∧
    (serving.post.scanned ≠ serving.round + 1 ∧ 32768 ≤ (timeAt 32768 serving).tick ∧ ¬32768 ≤ (timeAt 32767 serving).tick) ∧
    (let s := timeAt 49152 (serving.updPost fun p => { p with swept := 1 })
     s.post.decided ≠ s.round + 1 ∧ s.post.swept = s.round + 1 ∧ 49152 ≤ s.tick) ∧
    (serving.updPost fun p => { p with swept := 1, scanned := 1, decided := 1 }).post.decided = serving.round + 1 ∧
    (let fw : Firmware := { fwId := 1, svn := 1, keyid := 0, hash := [1, 2, 3] }
     let s := { (live.setPm Reg.PM_STATUS_STATE 3).updIce (fun h => { h with slots := [(0, fw), (1, fw)] }) with
       frank := { live.frank with lockSlot := 1, lockHash := [1, 2, 3] } }
     getF Reg.PM_STATUS_STATE s.pm = 3 ∧ (s.slotFw s.frank.lockSlot).hash = s.frank.lockHash ∧
       s.ice.slotLost.contains s.frank.lockSlot = false ∧
       (s.updIce fun h => { h with slotLost := [1] }).ice.slotLost.contains s.frank.lockSlot) := by decide +kernel

theorem test_hyp_LettersAreAnsweredOnTheirChannel : (({ channel := 1, letter := { code := 3 } } : Accepted).mute = false) ∧ (0 < 1) ∧
    ((serving.chan 1).outSlots.length < 8 ∧ (serving.chan 1).heldOut = [] ∧ serving.session (serving.chan 1).session = none) ∧
    8 ≤ ((withChan 1 { outSlots := List.replicate 8 someReceipt }).chan 1).outSlots.length := by decide +kernel

theorem test_hyp_LettersAreCheckedAsTheyAreTaken :
    (let l : Letter := { version := 2, code := 3 }
     l.version ≠ 1 ∧ (serving.chan 63).outSlots.length < 8 ∧ (serving.chan 63).heldOut = [] ∧ serving.session (serving.chan 63).session = none) ∧
    (let x : Slotted := { letter := { code := 3, length := 8, sequence := 9, body := [0, 0, 0, 0, 0, 0, 0, 0] } }
     let s := withChan 63 { lastSeq := some 7, recent := [(7, some someReceipt)], role := roleO }
     x.headOk = none ∧ (s.chan 63).lastSeq = some 7 ∧ x.letter.sequence ≠ (7 + 1) % 2 ^ 32 ∧ (∀ e ∈ (s.chan 63).recent, e.1 ≠ 9) ∧
       (s.chan 63).recent.find? (fun e => e.1 = 7) = some (7, some someReceipt) ∧ 7 ≠ (7 + 1) % 2 ^ 32 ∧
       (8 = (7 + 1) % 2 ^ 32 ∧ s.catalogueCheck 63 x.letter = none)) ∧
    (let x : Slotted := { letter := { code := 0xFF } }
     x.headOk = none ∧ letterRoles 0xFF = 0) ∧
    (let x : Slotted := { letter := { code := 5 } }
     x.headOk = none ∧ letterRoles 5 ≠ 0 ∧ letterRoles 5 &&& serving.roleOf 63 = 0) ∧
    (let x : Slotted := { letter := { code := 0x22, garden := 4 } }
     x.headOk = none ∧ letterRoles 0x22 &&& (withChan 63 (ownChan {})).roleOf 63 ≠ 0 ∧ needsGarden 0x22 ∧ 4 ≤ x.letter.garden) := by decide +kernel

/-- A letter of an owner's channel that is the oldest of its code. -/
def oldest (s : State) (ch : Nat) (l : Letter) : State := s.updPost fun p => { p with accepted := [{ channel := ch, letter := l }] }
def takesTurn (s : State) (ch : Nat) (l : Letter) : Bool := letterTurn (oldest s ch l) l.code ch { channel := ch, letter := l }
def owner1 : State := withChan 1 (ownChan {})

theorem test_hyp_SessionLettersAct :
    (∀ code ∈ [1, 2, 3, 4, 5, 6, 0x13], takesTurn owner1 1 { code := code }) ∧ takesTurn serving 0 { code := 1 } ∧
    (let s := serving.putSession 5 { channel := 4, role := roleT }
     let l : Letter := { code := 4, body := [1, 0, 0, 0, 0, 0, 0, 0] }
     s.session 5 = some { channel := 4, role := roleT } ∧ l.field 0 1 = 1 - 0 ∧ l.field 1 7 = 0) ∧
    (let l : Letter := { code := 6, body := [5, 0, 0, 0, 15, 0, 0, 0] }
     l.field 0 4 = 5 ∧ l.field 4 1 < 16 ∧ l.field 5 3 = 0) ∧
    (let l : Letter := { code := 1, body := [2, 0, 0, 0, 0, 0, 0, 0] }
     l.field 0 1 = 2 ∧ l.field 1 7 = 0 ∧ serving.unboundFrom 0 = false ∧ serving.freeChannel (l.field 0 1 = 1) = some 4) := by decide +kernel

theorem test_hyp_RegisterAndParcelLettersAct :
    (∀ code ∈ [0x10, 0x11, 0x12, 0x40, 0x41], takesTurn owner1 1 { code := code }) ∧
    (let l : Letter := { code := 0x11, body := leBytes 8 0x200000010000 ++ leBytes 8 1 ++ leBytes 8 0 }
     l.field 0 8 % 8 = 0 ∧ l.field 8 2 = 1 ∧ l.field 10 6 = 0 ∧ (∀ x ∈ addrsOf l, owner1.mayWrite 1 x)) ∧
    (let l : Letter := { code := 0x11, body := leBytes 8 4 ++ leBytes 8 32 }
     l.field 8 2 = 32 ∧ ∃ x ∈ addrsOf l, owner1.mayWrite 1 x = false) ∧ ({ code := 0x12, body := [63] } : Letter).field 0 1 < 64 ∧
    (let s := owner1.updBridge fun b => { b with prot := [(0, { windows := [{ size := 1, host := true }] })] }
     let l : Letter := { code := 0x40, garden := 0, body := leBytes 8 1 ++ leBytes 8 viewSlow ++ leBytes 8 65536 }
     l.field 0 1 ≤ 1 ∧ l.field 1 7 = 0 ∧ l.field 8 8 % 8 = 0 ∧ l.field 16 8 % 8 = 0 ∧ 8 ≤ l.field 16 8 ∧ l.field 16 8 ≤ 1536 * 2 ^ 30 ∧
       (s.hostWindow 0 (l.field 8 8) (l.field 16 8)).isSome ∧ (s.openParcels 0).1 < 16 ∧ (s.openParcels 0).2 < 256) ∧
    (let p : Parcel := { session := 0, garden := 0xFF, dir := 0, addr := 0, len := 8 }
     let s := owner1.putParcel 9 p
     s.parcel 9 = some p ∧ p.isOpen ∧ p.session = s.sessionOf { channel := 1, letter := { code := 0x41 } } ∧ p.garden = ({ code := 0x41 } : Letter).garden) := by
  decide +kernel
theorem test_hyp_ConfigurationAndTelemetryLettersAct :
    (∀ code ∈ [0x60, 0x61, 0x62, 0x63, 0x64, 0x65, 0x70, 0x71, 0x72, 0x73, 0x74, 0x75], takesTurn owner1 1 { code := code }) ∧
    (let l : Letter := { code := 0x60, length := 16, body := leBytes 8 1 ++ leBytes 8 0xFFFF }
     cfgEntries l ≠ [] ∧ ∀ e ∈ cfgEntries l, cfgFields.contains e.2.1 ∧ e.2.2.1 = 0) ∧
    (∀ n ∈ [0, 1, 2], ({ code := 0x61, body := leBytes 2 n ++ leBytes 2 0 ++ leBytes 2 254 } : Letter).field 0 1 = n ∧
      ({ code := 0x61, body := leBytes 2 n ++ leBytes 2 0 ++ leBytes 2 254 } : Letter).field 4 2 = 254) ∧
    (owner1.updGarden 0 fun d => { d with prot := { pavs := [0] } }).pavsOf 0 ≠ [] ∧ ({ code := 0x64, body := [7] } : Letter).field 0 1 = 7 ∧
    (let l : Letter := { code := 0x63, body := leBytes 4 5000 ++ leBytes 4 0 }
     5000 ≤ l.field 0 4 ∧ l.field 0 4 ≤ 16000 ∧ l.field 0 4 ≤ (owner1.setPw Reg.PW_STATUS_CONVOK 24).converterLimit ∧ l.field 4 4 = 0 ∧ l.field 8 4 = 0 ∧
       getF Reg.PW_CAP_WIN1 owner1.pw ≤ getF Reg.PW_CAP_WIN2 owner1.pw) ∧
    ({ code := 0x71, body := leBytes 8 1 } : Letter).field 0 8 < 2 ^ 64 ∧
    ({ code := 0x65, body := [3] } : Letter).field 0 1 ≤ 3 ∧ owner1.roleOf 1 ≠ roleT ∧
    (let l : Letter := { code := 0x73, body := leBytes 8 0 ++ leBytes 2 11 ++ leBytes 2 27647 ++ leBytes 2 65535 }
     l.field 0 8 = getF Reg.SD_SNAP_T_T owner1.sd ∧ snapShape (l.field 8 2) = some (27648, 1) ∧ l.field 10 2 < 27648 ∧ 1 ≤ l.field 12 2) ∧
    ({ code := 0x73, body := [1] } : Letter).field 0 8 ≠ getF Reg.SD_SNAP_T_T owner1.sd ∧
    (owner1.sensorClass (({ code := 0x74, body := [4] } : Letter).field 0 1)).isSome := by decide +kernel

/-! ### Gardens -/

/-- Garden 0 in a state, with pavilion 0 and one window of the slow tier. -/
def gardenIn (st : Nat) : State :=
  owner1.updGarden 0 fun d => { d.setF Reg.GD_STATUS_STATE st with
    prot := { pavs := [0], windows := [{ size := 1, rd := true, wr := true, host := true }] } }

/-- A protection record: pavilion 0, no window. -/
def protBytes : List Byte := 1 :: List.replicate 63 0

def gardenLetter (code : Nat) (body : List Byte := []) : Letter := { code := code, garden := 0, body := body }

theorem test_hyp_GardenLettersFollowTheGardensState :
    (∀ code ∈ [0x20, 0x21, 0x22, 0x23, 0x24, 0x25, 0x26, 0x27, 0x28, 0x29], takesTurn (gardenIn gRunning) 1 (gardenLetter code) ∧
      takesTurn (gardenIn gEmpty) 1 (gardenLetter code)) ∧
    (gardenIn gRunning).gState 0 = gRunning ∧ (gardenIn gEmpty).gState 0 = gEmpty ∧ (gardenIn gLoaded).gState 0 = gLoaded ∧
    takesTurn (gardenIn gLoaded) 1 (gardenLetter 0x22) ∧ absentPeer (readProt []) = none ∧
    (let s := owner1
     let l := gardenLetter 0x20 protBytes
     let prot := readProt l.body
     takesTurn s 1 l ∧ absentPeer prot = none ∧ s.gState 0 = gEmpty ∧ s.pavBlock 0 prot.pavs = .free ∧ s.peerTaken 0 prot = none ∧ protFieldsOk l.body ∧ connected prot.pavs ∧
       windowsOk prot.windows (s.otherWindows 0) ∧ peersReached prot ∧ s.awaitsZero prot.windows = false) ∧
    engines = true ∧ ((gardenIn gRunning).recovering 0).isSome = false ∧
    (let s := oldest ((gardenIn gRunning).updGarden 0 fun d => { d with owed := [((1 : Word) <<< 56, 1)] }) 1 (gardenLetter 0x22)
     let a : Accepted := { channel := 1, letter := gardenLetter 0x22 }
     s.inService ∧ s.owed a = some ((1 : Word) <<< 56) ∧
       s.post.accepted.find? (fun b => b.letter.code = 0x22 && b.channel = 1 && !s.blocked b && s.inTurn b) = some a) := by decide +kernel

/-- A garden image of one core (R300-R304): the header, a directory of two sections, a program of one word, no layers. -/
def imageBytes : List Byte :=
  leBytes 4 0x49474C57 ++ leBytes 2 1 ++ [1, 0] ++ leBytes 4 1 ++ leBytes 4 0 ++ leBytes 8 152 ++ leBytes 4 2 ++ List.replicate 36 0 ++
  (leBytes 4 2 ++ leBytes 4 1 ++ leBytes 8 128 ++ leBytes 8 20 ++ leBytes 8 0) ++
  (leBytes 4 9 ++ leBytes 4 0 ++ leBytes 8 152 ++ leBytes 8 0 ++ leBytes 8 0) ++
  (leBytes 4 1 ++ leBytes 4 0 ++ leBytes 4 1 ++ leBytes 4 0 ++ leBytes 4 0x04000000) ++ leBytes 4 0

/-- Garden 0, created or loaded, finds `bs` at the start of its slow tier. -/
def holding (st : Nat) (bs : List Byte) : State := { gardenIn st with slow := writeBytes 0 bs [] }
def readsBack (st code : Nat) (bs : List Byte) : Bool :=
  let s := holding st bs
  let l := gardenLetter code (leBytes 8 viewSlow ++ leBytes 8 bs.length)
  takesTurn s 1 l && decide (s.viewRead 0 (l.field 0 8) (l.field 8 8) = .bytes bs)

/-- The image can be loaded. -/
def loads (s : State) (i : Image) : Bool :=
  decide (i.plan = none) && s.imageWindows 0 i && decide (s.coresAsked 0 i.size ≤ Config.exposedCores) &&
  decide (i.size + requiredReserve i.size ≤ s.goodIn (s.pavsOf 0)) &&
  match placeImage (if i.mode = 0 then s.siteRuns else s.goodSite) (s.pavsOf 0) i with
  | none => false
  | some pl => (s.routeAll 0 (s.pavsOf 0) i pl []).isSome

def planBytes : List Byte := leBytes 8 viewSlow ++ leBytes 8 65536 ++ leBytes 8 0

theorem test_hyp_GardenLettersBeginTheirChanges :
    (readsBack gCreated 0x21 imageBytes ∧ (readImage imageBytes).any (loads (holding gCreated imageBytes))) ∧
    (takesTurn (gardenIn gRunning) 1 (gardenLetter 0x24) ∧ gRunning ≠ gEmpty ∧ gRunning ≠ gReleasing) ∧
    (let s := gardenIn gRunning
     let l := gardenLetter 0x25 protBytes
     let new := readProt l.body
     takesTurn s 1 l ∧ absentPeer new = none ∧ s.gState 0 = gRunning ∧
       s.pavBlock 0 (new.pavs.filter fun p => !(s.garden 0).prot.pavs.contains p) = .free ∧ protFieldsOk l.body ∧ connected new.pavs ∧
       s.peerTaken 0 new = none ∧ (∀ p ∈ (s.garden 0).prot.pavs, p ∈ new.pavs) ∧
       s.gdnSize 0 ≤ s.goodIn ((s.garden 0).prot.pavs.filter fun p => new.pavs.contains p) ∧ windowsOk new.windows (s.otherWindows 0) ∧ peersReached new ∧ s.awaitsZero new.windows = false) ∧
    (let s := gardenIn gRunning
     let l := gardenLetter 0x27 (leBytes 8 (s.openStep 0) ++ leBytes 8 0xFFFFFFFF)
     takesTurn s 1 l ∧ l.field 0 8 = s.openStep 0 ∧ l.field 12 4 = 0 ∧ (∀ j ∈ s.post.jobs, j.kind = .seal → j.garden ≠ 0) ∧ s.taintOf 0 = 0 ∧
       (∀ p ∈ s.pavsOf 0, ∀ c ∈ coresOf p, (s.core c).outbox = []) ∧ s.engAll 0 (· = engNone)) ∧
    ({ gardenIn gRunning with wd := setF (Reg.WD_GARDEN_TAINT 0) 1 [] }).taintOf 0 ≠ 0 ∧
    (readsBack gLoaded 0x28 planBytes ∧ (readPlan planBytes).any fun p => ((holding gLoaded planBytes).planAt 0 p).isSome && p.aligned) ∧
    (let s := gardenIn gRunning
     let l := gardenLetter 0x42 (leBytes 8 viewSlow ++ leBytes 8 64 ++ leBytes 8 0)
     takesTurn s 1 l ∧ l.field 0 8 % 64 = 0 ∧ l.field 8 8 % 64 = 0 ∧ 64 ≤ l.field 8 8 ∧ l.field 8 8 ≤ 1536 * 2 ^ 30 ∧
       s.viewAddr 0 (l.field 0 8) 64 .store = some 0 ∧ (s.viewAddr 0 (l.field 0 8) 64 .host).isSome) ∧
    (((gardenIn gRunning).addJob { kind := .fill, garden := 0, arg2 := 64 }).post.jobs.find? (fun j => j.kind = .fill && j.garden = 0)).isSome ∧
    ({ owner1 with toZero := [(0, 65536)] }).toZero.contains (0, 65536) := by decide +kernel

def someImage : Checkpoint := { id := 3, garden := 0, slot := 0, complete := true, captured := true, image := List.replicate 48 0 }

/-- The icehouse works on a take of garden 0 into image 3. -/
def takingIt (c : Checkpoint) : State :=
  ((gardenIn gRunning).updIce fun h => { h with checkpoints := [c] }).updPost fun p =>
    { p with jobs := [{ id := 8, kind := .take, garden := 0, arg := 3 }], iceJob := some 8 }

theorem test_hyp_CheckpointsAreTakenAndRestored :
    (∀ code ∈ [0x50, 0x51, 0x52, 0x53, 0x54], takesTurn (gardenIn gLoaded) 1 (gardenLetter code)) ∧
    (let s := gardenIn gLoaded; s.gState 0 = gLoaded ∧ s.taking 0 = false ∧ mib (s.takeSize 0) ≤ s.ckptFree) ∧
    (let s := takingIt { someImage with complete := false, captured := false }
     (s.iceJobOf 0 Job.takes).isSome ∧ (s.image 3).isSome ∧ (s.image 3).any (fun c => !c.captured) ∧ s.engAll 0 (· = engNone)) ∧
    (let s := { gardenIn gRunning with oras := (List.range 16).map fun o => (o, ({} : Ora).setEng 0 engCollect) }
     s.engAll 0 (· = engCollect) ∧ ∀ k ∈ s.post.jobs, k.kind = .seal → k.garden ≠ 0) ∧
    (takingIt { someImage with lost := true }).image 3 = some { someImage with lost := true } ∧
    (let s := takingIt { someImage with complete := false }
     (s.iceJobOf 0 Job.takes).any fun j => (s.image j.arg).any fun c => c.captured && !c.lost) ∧
    (let s := (gardenIn gLoaded).updIce fun h => { h with checkpoints := [someImage] }
     let l := gardenLetter 0x53 (leBytes 4 3)
     takesTurn s 1 l ∧ s.image (l.field 0 4) = some someImage ∧ s.reading 3 = none ∧ s.image 0 = none ∧ s.mayRestore 0 someImage ∧
       s.restoreFits 0 someImage) ∧
    (∀ k ∈ [JobKind.restore, .autoRestore],
      let s := ((gardenIn gLoaded).updIce fun h => { h with checkpoints := [someImage] }).updPost fun p =>
        { p with jobs := [{ id := 8, kind := k, garden := 0, arg2 := 3 }], iceJob := some 8 }
      ((s.iceJobOf 0 (fun j => j.kind = .restore || j.kind = .autoRestore)).any fun j => j.kind = k && j.arg2 = 3) ∧
      (let u := s.disarmAll 0
       u.engAll 0 (· = engNone) ∧ u.image 3 = some someImage ∧ u.mayRestore 0 someImage ∧ u.restoreFits 0 someImage ∧
        ((u.writeImage 0 someImage).garden 0).down = none) ∧
      (((s.updGarden 0 fun d => { d with down := some {} }).garden 0).down).isSome) ∧
    (let oras := (List.range 16).map fun o => (o, ({} : Ora).setEng 0 engCollect)
     let s := { gardenIn gRunning with oras := oras, sd := setF Reg.SD_COUNT_COUNT (2 ^ 60) [] }
     s.takeTime 0 ∧ s.newestImage 0 = none ∧ s.taking 0 = false ∧ mib (s.takeSize 0) ≤ s.ckptFree) := by decide +kernel
theorem test_hyp_TheIcehouseKeepsItsNand :
    (let s := serving.updIce fun h => { h.setF Reg.IH_STATUS_READY 1 with softBlocks := [933887] }
     s.iceReady ∧ 933887 < nandBlocks ∧ 933887 ∈ s.ice.softBlocks ∧ 933887 ∉ s.ice.grown ∧ 127 ∉ s.ice.diesLost ∧ s.ice.refreshed ≠ s.refreshPeriod + 1) ∧
    (let s := serving.updIce fun h => (h.setF Reg.IH_STATUS_READY 1).setF Reg.IH_STATUS_SCAN 1
     s.iceReady ∧ s.ice.getF Reg.IH_STATUS_SCAN ≠ 0) ∧ serving.ice.getF Reg.IH_STATUS_SCAN = 0 ∧
    (serving.updIce fun h => { h with refreshed := 1 }).ice.refreshed = serving.refreshPeriod + 1 ∧
    (({ block := 0, soft := 1 } : StripeReading).lost = false ∧ 0 < ({ block := 0, soft := 1 } : StripeReading).soft) ∧
    (127 ∈ (serving.updIce fun h => { h with diesLost := [127] }).ice.diesLost) ∧
    (Fm.look 127 (serving.updIce fun h => { h with dieTemp := [(127, temp8 25)] }).ice.dieTemp = some 25 ∧ 15 ≤ ((40 : Int) - ofTemp8 25).natAbs) := by
  decide +kernel

def siteAt (f : Site → Site) : State := live.updSite 0 f

theorem test_hyp_WardensPatrolsAndRecovery :
    (let s := withCore { outbox := [[0]] }
     (s.core 0).outbox = [[0]] ∧ s.wardenNext 0 = some 0 ∧ (s.pav 0).getF Reg.WD_PAV_CNT_JUDGED < 2 ^ 32 - 1 ∧ (s.pav 0).owner = none ∧ (live.core 0).outbox = []) ∧
    (let s := siteAt fun x => { x with targeted := true }
     (s.site 0).targeted ∧ (s.pav 0).segRun = none ∧ s.patrolEligible 0 0 ∧ s.patrolFirst 0 ∧ (s.site 0).nextSegment < 33) ∧
    (let s := pavAt fun v => { v with segRun := some (0, 32), queued := [(0, 64)] }
     (s.pav 0).segRun = some (0, 32) ∧ s.segmentEvent 0) ∧ (31 < 32 ∧ 6143 < 6144) ∧
    (live.site 0).retired = false ∧
    (let x := (siteAt fun x => { x with probation := some 0 }).site 0
     x.probation = some 0 ∧ 0 ≤ live.now ∧ x.event = false) ∧
    (let s := { live.updGarden 0 fun d => { d with place := [(0, 0)] } with sd := setF Reg.SD_COUNT_COUNT (2 ^ 60) [] }
     s.overdue 0 ∧ (s.site 0).forced = none ∧ 0 + ticksPerMin ≤ s.now) ∧
    (let j : Job := { kind := .relief, garden := 0, phase := 4, moves := [(0, 1, 0)] }
     let s := (gardenIn gRunning).updPost fun p => { p with jobs := [j] }
     s.recovering 0 = some j ∧ j.moves.find? (fun m => m.1 = 0 && m.2.2 = 0) = some (0, 1, 0) ∧ s.takesWrites 1) ∧
    ((gardenIn gRunning).updPav 0 fun v => { v with aq := [(0, [{ bun := { avenue := 0 } }])] }).aveWaits 0 ∧
    ((gardenIn gRunning).updPav 0 fun v => v.setF (holdF 0) 1).tablesHeld 0 ∧
    (let s := { (gardenIn gRunning).updGarden 0 fun d => { d with wdOn := true } with sd := setF Reg.SD_COUNT_COUNT (2 ^ 60) [] }
     s.recovering 0 = none ∧ (s.garden 0).recover = none ∧ s.watchdogRuns 0 ∧ (s.garden 0).wdFrom + s.boundMs 0 * ticksPerMs ≤ s.now ∧
       s.gState 0 = gRunning ∧ (s.garden 0).hang = none) := by decide +kernel

/-! ### Trust and starts -/

def activating : State := owner1.addJob { kind := .firmware }

theorem test_hyp_TrustIsKeptByCommands :
    (∀ code ∈ [0x66, 0x80, 0x81, 0x82, 0x83, 0x84], takesTurn owner1 1 { code := code }) ∧ owner1.activation = none ∧
    ({ code := 0x66, body := [1] } : Letter).field 0 1 ≤ 1 ∧ activating.activation.isSome ∧ activating.iceBusy = none ∧
    takesTurn activating 1 { code := 0x66, body := [1] } ∧
    (let l : Letter := { code := 0x82, body := leBytes 8 (12 * 2 ^ 20) }
     l.field 0 8 % 8 = 0 ∧ 8192 ≤ l.field 0 8 ∧ l.field 0 8 ≤ 12 * 2 ^ 20 ∧
       (let u := (owner1.closeParcels fun _ p => p.staging).updIce fun h => { h with staging := [], stagingLen := l.field 0 8, stagingDone := false }
        (u.openParcels (owner1.sessionOf { channel := 1, letter := l })).1 < 16 ∧ (u.openParcels (owner1.sessionOf { channel := 1, letter := l })).2 < 256)) ∧
    (owner1.updIce fun h => { h with stagingDone := true }).ice.stagingDone ∧
    (let l : Letter := { code := 0x80 }
     let s := oldest owner1 1 l
     (if s.post.markRound = s.round then s.post.postmarks else 0) < 32 ∧ s.unswept = false ∧ s.post.accepted.find? (fun b => b.letter.code = 0x80) = some { channel := 1, letter := l }) ∧
    (let s := owner1.updPost fun p => { p with postmarks := 32 }
     32 ≤ (if s.post.markRound = s.round then s.post.postmarks else 0)) ∧
    (zeroAt [] 1984 8 ∧ (slice [] 0 1984).all (· = 0)) ∧ (zeroAt [1] 1984 8 ∧ (slice [1] 0 1984).all (· = 0) = false) ∧
    (247 < 248 ∧ 248 ≤ 248) ∧ (owner1.updIce fun h => { h with ownerKey := [1] }).ice.ownerKey ≠ [] := by decide +kernel

def asked (kind : Nat) : State := { live with start := { busbarAbsent := false, want := some kind } }

theorem test_hyp_StartsFollowTheirCause : State.reset.start.busbarAbsent ∧ (asked 1).start.busbarAbsent = false ∧
    (∀ k ∈ [1, 2], (asked k).start.want = some k ∧ (asked k).start.running = false ∧ (asked k).power.stopped = false) ∧
    (let s := { live with start := { running := true, stage := 8, edgeDone := true } }
     s.start.running ∧ s.start.stage = 8 ∧ s.start.edgeDone ∧ s.holds 8 = false) ∧
    ({ live with start := { busbarAbsent := false } }).samplesRst ∧ ({ live with start := { rstLow := true } }).start.rstLow ∧
    (Fm.look 63 ([] : FMap Report) = none ∧ Fm.look 5 [(5, ({ stage := 5 } : Report))] = some { stage := 5 }) ∧
    ((owned 1 live).pav 0).owner ≠ none ∧
    ((serving.pav 0).owner = none ∧ serving.domainOn 0 ∧ serving.inService ∧ ∀ c ∈ coresOf 0, c ∈ [64] → serving.goodSite c = false) := by
  decide +kernel

/-! ### Peers and hosts -/

/-- Lantern 0 lit, port 3 on it up. -/
def lit : State :=
  { serving with cartridges := (List.range 10).map fun k => (k, { emitting := true }) }.updPeerPort 3 fun q =>
    { q.setF Reg.LN_PEER_STATUS_UP 1 with partner := some (5, 3) }
def ready (n : Nat) : State := (lit.updLantern n fun q => q.setF Reg.LN_LANT_STATUS_USABLE 3)

theorem test_hyp_PeerFramesActAtTheirPort : Config.peerPresent 15 ∧ ({ destOk := false } : PeerFrame).destOk = false ∧
    ({ bodyOk := false } : PeerFrame).bodyOk = false ∧
    (∀ t ∈ [1, 2, 3], serving.peerFormOk 15 { type := t, key := if t = 3 then 0 else 9 } t) ∧ serving.peerFormOk 15 { type := 0 } 1 = false ∧
    ({ pcp := 7 } : PeerFrame).pcp > 6 ∧
    serving.recvs.find? (fun e => e.port = 15 && e.key = 9) = none ∧
    (let e : PeerEntry := { port := 15, garden := 0, avenue := 4, key := 9 }
     let s := { serving with recvs := [e], sends := [e] }
     s.recvs.find? (fun e => e.port = 15 && e.key = 9) = some e ∧ s.sends.find? (fun e => e.port = 15 && e.key = 9) = some e ∧ e.sent = false ∧
       s.endTag (codePeer (s.bridgeOf 15)) e.garden = 0 ∧ (1 : BitVec 8) ≠ 0) ∧
    (∀ p, (serving.peerPort 15).partner = some p → p = (1, 1)) ∧
    ((ready 0).lanternLit ((ready 0).bridgeOf 3) ∧ (ready 0).swapOf 3 = none ∧ (ready 0).portUp 3 ∧ ((ready 0).peerPort 3).partner ≠ none) ∧
    (let s := { ready 0 with sd := setF Reg.SD_COUNT_COUNT (2 ^ 60) [] }
     (s.peerPort 3).lastProbe + probeLimit ≤ s.now) ∧
    (let s := (ready 0).updPeerPort 3 fun q => { q with regs := [], lastProbe := 2 ^ 60 }
     s.portUp 3 = false ∧ s.now < (s.peerPort 3).lastProbe + probeLimit ∧ s.lanternLit (s.bridgeOf 3)) ∧
    (let e : PeerEntry := { port := 3, garden := 0, avenue := 4, key := 9, rgen := some 0 }
     let b : Bundle := { avenue := 4 }
     let s := { ready 0 with sends := [e], bridgeOut := [(codePeer 0, [(20 * 4 + 1, b)])] }
     s.nextOut 0 [] (Fm.get [] (codePeer 0) s.bridgeOut) = some (20 * 4 + 1, b) ∧ s.sendAct 0 (20 * 4 + 1) b = .send e 0) ∧
    Config.lanternPresent 0 := by decide +kernel

theorem test_hyp_LanternsCartridgesAndPauses : (Config.lanternPresent 4 ∧ serving.usableCart 0 0 = false ∧ (ready 0).usableCart 0 ((ready 0).activeCart 0) ∧
    (ready 0).usableCart 0 (1 - (ready 0).activeCart 0) ∧ (ready 0).activeCart 0 < 2) ∧
    (let s := { serving with cartridges := [(cartKey 4 1, { inserted := false })] }
     (s.cartridge (cartKey 4 1)).inserted = false ∧ (s.cartridge (cartKey 4 0)).inserted ∧ (s.cartridge (cartKey 4 0)).emitting = false) ∧
    ((ready 2).lanternLit 2 ∧ (ready 2).hasLink 1 0 ∧ (ready 2).swaps = [] ∧
      ((ready 2).updHostPort 1 fun q => q.setF Reg.LN_HOST_STATUS_MODE 1).hasLink 1 1) ∧
    (Config.orangeryPresent 15 ∧ 15 ∉ serving.power.edgeFailed) ∧
    (Config.peerPresent 0 ∧ ((serving.updPeerPort 0 fun q => q.setF (xoffF 6) 1).peerPort 0).getF (xoffF 6) = 1) ∧
    (let s := { serving with cfgActive := [(cfgSwapAuto, 1)] }
     s.spareFree 0 ∧ s.cfg cfgSwapAuto = 1 ∧ s.inService ∧ s.swaps = [] ∧ s.post.jobs = [] ∧
     s.pastLimits (List.replicate 16 (s.cfgNat cfgSwapFec, 0)) ∧ s.pastLimits (List.replicate 16 (0, s.cfgNat cfgSwapTx))) ∧
    (let w : Swap := { port := 3, spare := 1, auto := true, phase := 0, began := 0, job := 9 }
     let s := { (lit.updPost fun p => { p with jobs := [{ id := 9, kind := .autoSwap, arg := 3 }] }) with swaps := [w] }
     (s.peerPort w.port).partner = some (5, 3) ∧ s.now < w.began + 600 * ticksPerSec ∧
     (let u := { s with sd := setF Reg.SD_COUNT_COUNT (600 * ticksPerSec) [] }
      u.swaps.find? (fun w => w.spare = 1 && w.phase = 0 && w.began + 600 * ticksPerSec ≤ u.now) = some w ∧
      u.jobById w.job = some { id := 9, kind := .autoSwap, arg := 3 } ∧ (u.swapGardens w.port).isEmpty)) := by decide +kernel

/-- PEER_AVENUE_OPEN of avenue 1,023 at port 15, as a receive avenue. -/
def openBody (port send : Nat) : List Byte :=
  leBytes 2 1023 ++ leBytes 1 port ++ leBytes 1 send ++ leBytes 4 77 ++ leBytes 1 6 ++ leBytes 1 3 ++ leBytes 1 1 ++ leBytes 5 0
/-- A garden image with nothing but avenue 1,023 of peer port 15. -/
def emptyImage : Image :=
  let ave : AveRec := { avenue := 1023, source := 0, dests := [], peer := some 15, hint := [] }
  { mode := 0, flags := 0, size := 1, footW := 0, footH := 0, watchdog := 0, divider := 0, place := [], programs := [], resident := [],
    avenues := [ave], bells := [], windows := [], plan := none, envelopes := [], layers := [], hash := [] }
def peerGarden (mask : Nat) : State := (gardenIn gLoaded).updGarden 0 fun d =>
  { d with prot := { d.prot with peer := mask }, image := some emptyImage }

theorem test_hyp_PeerLettersAct : (∀ code ∈ [0x91, 0x92, 0x93], takesTurn owner1 1 { code := code }) ∧
    takesTurn owner1 1 { code := 0x90, garden := 0, body := openBody 16 1 } ∧
    ({ code := 0x90, garden := 0, body := openBody 16 1 } : Letter).field 2 1 = 16 ∧
    (∀ mask ∈ [0, 0x8000], ∀ send ∈ [0, 1],
      let l : Letter := { code := 0x90, garden := 0, body := openBody 15 send }
      let s := peerGarden mask
      let e := l.peerEntry 1
      letterTurn (s.updPost fun p => { p with accepted := [{ channel := 1, letter := l }] }) 0x90 1 { channel := 1, letter := l } ∧
      Config.peerPresent e.port ∧ s.portClosing 0 e.port = none ∧ s.gState 0 = gLoaded ∧ s.peerRecord 0 e.avenue e.port ∧
      (s.garden 0).prot.peer.testBit e.port = (mask != 0) ∧ l.peerFields ∧ s.sends = [] ∧ s.recvs = []) ∧
    (∀ v ∈ [1023, 1024], ({ code := 0x91, body := leBytes 8 v } : Letter).field 0 2 = v) ∧
    (∀ v ∈ [0x80, 0x81, 15, 16], ({ code := 0x92, body := leBytes 8 v } : Letter).field 0 1 = v) ∧
    owner1.spareFree 1 ∧ owner1.swaps = [] ∧ owner1.post.jobs = [] := by decide +kernel

/-- A session of the host, number 5, on channel 4, of garden 0's tenant. -/
def tenant : Session := { channel := 4, role := roleT, ready := true }
def withSession (x : Session) : State := serving.putSession 5 x
def frameOf (type : Nat) (fl : Nat := 0) : Frame := { type := type, session := 5, pn := 1, flags := fl }
def takes (s : State) (type : Nat) (el : Bool := true) (x : Session := tenant) : Bool := takenFrame s (frameOf type) type el x
def withParcel (p : Parcel) : State := (withSession tenant).putParcel 2 p

/-- A full frame of PARCEL_DATA. -/
def dataFrame : Frame := { frameOf 7 with wire := { len := 8304 } }

theorem test_hyp_HostFramesActOnTheirSession : (∀ t ∈ [1, 4, 5, 7, 8], takes (withSession tenant) t) ∧ takes (withSession tenant) 9 false ∧
    live.windowOpen = false ∧ serving.wireFault 1 { fcsOk := false } (serving.iturnUdp 1) = some Reg.LN_HOST_MAC_CNT_FCS ∧
    serving.hears ⟨{}, {}⟩ (serving.iturnUdp 0) ∧ (frameOf 1).sound 4 = false ∧ (∀ t ∈ [1, 4, 5, 8, 9], (frameOf t).sound t) ∧ serving.session 5 = none ∧
    ((withSession { tenant with seen := [1] }).session 5 = some { tenant with seen := [1] } ∧ tenant.phaseOk 0 0 ∧ tenant.phaseOk 1 0 = false ∧
      [1].contains (frameOf 1).pn) ∧
    ((serving.chan 0).inSlots.length < 8 ∧ 8 ≤ (List.replicate 8 ({ letter := { code := 3 } } : Slotted)).length ∧
      (List.replicate 4064 (0 : Byte)).length ≤ 4064) ∧
    takes (withSession { tenant with ready := false }) 4 true { tenant with ready := false } ∧
    (let x := { tenant with replies := [(3, [1])] }
     takes (withSession x) 5 true x ∧ x.replies.find? (fun e => e.1 = 3) = some (3, [1]) ∧ tenant.replies.find? (fun e => e.1 = 3) = none) ∧
    ({ reqid := 4, count := 32, write := false, offset := 0x100 } : RegReq).ok ∧
    (let s := withParcel { session := 5, garden := 0, dir := 0, addr := 0, len := 8192, staging := true }
     takenFrame s dataFrame 7 true tenant ∧ s.parcelOk dataFrame 2 0 0 8192 ∧ s.parcelHeld 2 = false ∧ (s.parcel 2).map (·.staging) = some true ∧
       s.parcelOk dataFrame 2 0 8 8192 = false) ∧
    (let s := withParcel { session := 5, garden := 0, dir := 1, addr := 0, len := 4194304, staging := true }
     takes s 8 ∧ s.parcelOk (frameOf 8) 2 1 0 4194304 ∧ s.parcelHeld 2 = false ∧ s.parcelOk (frameOf 8) 2 1 8 4194304 = false ∧ tenant.pulls.length < 16) := by
  decide +kernel

theorem test_hyp_SessionTimersAndPortAnswers : (withSession tenant).session 5 = some tenant ∧
    (let f : InFlight := { pn := 9, content := .plain 6 [], ip := 64, sent := 0 }
     let x := { tenant with inflight := [f] }
     x.inflight.find? (fun f => f.pn = 9) = some f ∧ (withSession x).now < f.sent + x.rto ∧ f.sent + { x with rto := 0 }.rto ≤ (withSession x).now ∧ (withSession x).bridge.waiting = []) ∧
    (let s := { withSession tenant with sd := setF Reg.SD_COUNT_COUNT (2 ^ 60) [] }
     tenant.lastFrame + s.cfgNat cfgIdleS * ticksPerSec ≤ s.now ∧ (0 : Nat) + 5 * ticksPerSec ≤ s.now ∧ tenant.opened + ticksPerSec ≤ s.now ∧
       tenant.readyAt + 60 * ticksPerSec ≤ s.now ∧ tenant.role = roleT ∧ tenant.bound = false) ∧
    (withSession tenant).now < tenant.lastFrame + (withSession tenant).cfgNat cfgIdleS * ticksPerSec ∧
    ({ tenant with oldUntil := some 0 } : Session).oldUntil = some 0 ∧ 2 ^ 32 ≤ ({ tenant with txKey := 2 ^ 32 } : Session).txKey ∧
    (let s := { withSession tenant with cfgActive := [(cfgHost 1 7, 2 ^ 32 + 0x0A000001)] }
     s.hears ⟨{ port := 1 }, {}⟩ none ∧ s.ip4 1 = some 0x0A000001 ∧ (0x0A000001 : Word).toNat = 0x0A000001 ∧ s.ip4 1 ≠ some 0) ∧
    (let s := { withSession tenant with cfgActive := [(cfgHost 1 5, 0xFE80000000000000)] }
     s.isIp6 1 0xFE80000000000000 (s.cfg (cfgHost 1 6))) ∧
    ({ serving with cfgActive := [(cfgHost 1 3, 0x80)] }).hostPauses 1 7 := by decide +kernel

def slave : State := { serving with sd := setF Reg.SD_TIME_SOURCE 2 serving.sd, disc := { serving.disc with master := some [1, 2, 9], delaySent := some 5 } }

theorem test_hyp_TheDisciplineFollowsItsSource : getF Reg.SD_TIME_SOURCE slave.sd = 1 + 1 ∧ slave.cfgNat cfgPtpDomain = 0 ∧
    slave.hears ⟨{ port := 1 }, { udp := 319 }⟩ (some 319) ∧ slave.hears ⟨{ port := 1 }, { udp := 320 }⟩ (some 320) ∧ slave.windowOpen ∧
    slave.follows 9 ∧ slave.follows 8 = false ∧ slave.disc.master ≠ none ∧ slave.disc.delaySent = some 5 ∧ serving.disc.master = none ∧
    slave.iturnPaused 1 = false ∧
    (16000000 < (16000001 : Int).natAbs ∧ slave.epoch - 16000001 / 16 < 2 ^ 63 ∧ - 2 ^ 63 ≤ slave.epoch - 16000001 / 16) ∧
    (better [1, 1, 8] [1, 2, 9] ∧ better [1, 3, 8] [1, 2, 9] = false ∧ [1, 2, 9].getLast? ≠ [1, 3, 8].getLast?) ∧
    slave.disc.delayAt + 0 ≤ slave.now ∧ slave.now < slave.disc.lastSync + 16 * ticksPerSec ∧
    (let s := { slave with sd := setF Reg.SD_COUNT_COUNT (2 ^ 60) slave.sd }
     getF Reg.SD_TIME_HOLDOVER s.sd = 0 ∧ s.disc.lastSync + 16 * ticksPerSec ≤ s.now ∧ s.disc.delayAt + s.disc.delayInterval ≤ s.now) ∧
    (let u := { slave with sd := setF Reg.SD_TIME_SOURCE 3 slave.sd, disc := { slave.disc with lastEdge := some 0, firstEdge := false } }
     getF Reg.SD_TIME_SOURCE u.sd = 3 ∧ u.power.stopped = false ∧ u.disc.lastEdge = some 0 ∧ (799999999 - 0 : Int) < 800000000) := by decide +kernel

/-- A stage asked of thoroughfare 0. -/
def stage0 : Stage := { id := 4, changes := [.snap], units := [0], pendingAck := [0] }
def staging (g : Stage) (rs : List StageRec := []) : State :=
  { (serving.updPost fun p => { p with stages := [g] }).updPav 0 fun v => v.setF Reg.PV_CLK_STATUS_LOCKED 1 with records := [(0, rs)] }

theorem test_hyp_StagesAreAgreedAndChime : (0 < chimeUnits ∧ 454 < chimeUnits) ∧
    (let s := staging stage0
     s.stageOf 4 = some stage0 ∧ stage0.pendingAck.contains 0 ∧ s.unitLive 0 ∧ s.recordsOf 0 = [] ∧ stage0.t = none ∧ s.round ≤ stage0.round ∧ ([] : List StageRec).length < 8 ∧
       s.unitAgrees 0 (stage0.changes.filter (s.reaches 0)) ∧ s.stageOf 5 = none) ∧
    (let rs := [({ id := 3, changes := [.snap] } : StageRec)]
     let s := staging stage0 rs
     s.recordsOf 0 = rs ∧ (rs.any fun r => r.changes.any fun a => (stage0.changes.filter (s.reaches 0)).any fun b => a.clashes b)) ∧
    ({ stage0 with refused := true } : Stage).refused ∧
    (let s := { staging stage0 with sd := setF Reg.SD_COUNT_COUNT 65536 [] }
     s.stageOf 4 = some stage0 ∧ stage0.pendingAck ≠ [] ∧ stage0.round < s.round ∧ getF Reg.PM_STATUS_STATE s.pm = 2 ∧ (timeAt 65535 s).tick = 65535) ∧
    (let g := { stage0 with pendingAck := [], lastAck := 1, named := 5 * 65536 }
     let low := ((g.lastAck + 65535) / 65536 + 2) * 65536
     low = 3 * 65536 ∧ g.named % 65536 = 0 ∧ low ≤ g.named ∧ g.named ≤ low + 16384 * 65536) ∧
    (let g := { stage0 with t := some 65536 }
     let r : StageRec := { id := 4, changes := [.snap] }
     let s := staging g [r]
     s.stageOf 4 = some g ∧ (s.recordsOf 0).find? (fun r => r.id = 4 && r.t.isNone) = some r ∧ s.unitCount 0 < 65536 ∧ s.now < r.since + 16 * 65536) ∧
    (let s := { (staging stage0 [{ id := 4, changes := [.snap] }]).updPost (fun p => { p with discarded := [(0, 4)] }) with
                  sd := setF Reg.SD_COUNT_COUNT (16 * 65536) [] }
     s.post.discarded.contains (0, 4) ∧ ((s.recordsOf 0).any fun r => r.id = 4) ∧ 0 + 16 * 65536 ≤ s.now) ∧
    serving.post.discarded.contains (0, 4) = false := by decide +kernel

/-- Pavilion 18 has power, and holds over. -/
def holding18 (new : Option Nat) : State := serving.updPav 18 fun v =>
  { v.setF Reg.PV_CLK_STATUS_HOLDOVER 1 with powered := true, newSource := new }

theorem test_hyp_ClocksAndTheSundialRun : (serving.pavs.map Prod.fst).Nodup ∧ (Fm.look 0 serving.pavs).isSome ∧
    (let s := serving.updPav 0 fun v => { v.setF Reg.PV_CLK_STATUS_LOCKED 1 with sdLag := -2 }
     s.unitLive 0 ∧ (s.pav 0).getF Reg.PV_CLK_STATUS_HOLDOVER = 0 ∧ (s.pav 0).sdHold = false ∧ 1 < (s.pav 0).sdLag.natAbs) ∧
    431 < Config.pavilions ∧ serving.power.stopped = false ∧ serving.now + (2 ^ 64 - 1) < 2 ^ 64 ∧ State.reset.power.stopped ∧
    (let v := (serving.updPav 18 fun v => { v.setF Reg.PV_CLK_STATUS_LOCKED 1 with powered := true }).pav 18
     v.powered ∧ v.getF Reg.PV_CLK_STATUS_LOCKED = 1 ∧ v.getF Reg.PV_CLK_STATUS_HOLDOVER = 0 ∧ v.newSource = none) ∧
    (let s := holding18 none
     (s.pav 18).powered ∧ (s.pav 18).newSource = none ∧ (s.pav 18).getF Reg.PV_CLK_STATUS_HOLDOVER = 1) ∧
    (let s := { holding18 none with sd := setF Reg.SD_COUNT_COUNT 20000 [] }
     (s.pav 18).hold + 20000 ≤ s.now) ∧
    ((holding18 (some 3)).pav 18).newSource = some 3 ∧
    (live.pav 0).getF Reg.PV_REG_STATUS_ON = 1 ∧ (List.replicate 16 15).length = 16 ∧ ∀ m ∈ List.replicate 16 15, m < 16 := by decide +kernel

/-! ### The whole module -/

/-- The step answers a next state of which `f` holds. -/
def nextIs (r : Res) (f : State → Bool) : Bool := match r with | .next t => f t | _ => false

theorem test_hyp_AStepRunsTheFrontCommand : ({ live with pending := [.nop 0, .settle] } : State).pending = [.nop 0, .settle] ∧ live.pending = [] := by
  decide +kernel

theorem test_hyp_EveryWellFormedCommandCompletes : (Instr.nop 27647).wf ∧ withinRatings (.busbarHigh 72000) ∧
    withinRatings (.busbarHigh 72001) = false ∧ withinRatings (.busbarCollapse (-1001) 0) = false ∧ (Instr.nop 27648).wf = false := by decide +kernel

theorem test_hyp_EveryStepKeepsTheInvariant :
    (let s : State := { live with slow := [(0, 1), (7, 2)], pending := [.nop 0, .registerWrite (.chan 64) 0 0] }
     (Fm.wf 0 s.slow ∧ ∀ c ∈ s.pending, c.wf) ∧ nextIs (step s) fun t => t.pending = [.registerWrite (.chan 64) 0 0]) := by decide +kernel

/-- Some register of the table has a field of this access code. -/
def hasAccess (a : Acc) : Bool :=
  [Blk.kp, .pv, .ora, .gd, .ln, .ih, .pm, .sd, .pw, .wd].any fun b => (regDefs b).any fun d =>
    decide (findReg d.off (regDefs b) = some d) && d.flds.any fun f => f.acc = a

theorem test_hyp_FieldsFollowTheirAccessCodes : hasAccess .ro ∧ hasAccess .rw ∧ hasAccess .wo ∧ hasAccess .w1c ∧ hasAccess .rc := by decide +kernel

theorem test_hyp_TheAluComputesItsTable : opOf (wordR 4 1 2 3 15) = 0x04 ∧ fnOf (wordR 4 1 2 3 15) = 0x0F ∧ fnOf (wordR 4 1 2 3 0x7F) = 0x7F ∧
    goes 4 (wordR 4 1 2 3 14) ∧ goes 4 (wordR 4 0 2 3 0) ∧ (keeper (wordR 4 1 2 3 15)).keeperRuns 0 ∧ ((keeper (wordR 4 1 2 3 15)).core 0).fetch = some (wordR 4 1 2 3 15) := by
  decide +kernel

/-- Garden 0's step is open: GD_STATUS.STATE is 5 . -/
def opened : State := gardenIn 5
def someIncident : Incident := { kind := 1 }

theorem test_hyp_TaintsAndIncidentsAreRecorded : serving.stepOpen 3 = false ∧ opened.stepOpen 0 ∧ (opened.garden 0).committing = false ∧
    getF (Reg.WD_GARDEN_TAINT 0) opened.wd = 0 ∧ getF (Reg.WD_GARDEN_TAINT 0) (opened.taint 0 7).wd ≠ 0 ∧
    (let s := opened.updGarden 0 fun d => { d with committing := true }
     s.stepOpen 0 ∧ (s.garden 0).committing) ∧
    serving.ice.incidents = [] ∧ (let s := serving.raise someIncident
      s.ice.incidents.any fun j => j.kind = 1 && j.unit = someIncident.unit && j.unitId = someIncident.unitId && j.boot = s.boot && j.sundial / 65536 = s.round) ∧
    serving.nextIncident < 2 ^ 48 := by decide +kernel

theorem test_hyp_AShortResetPulseIsIgnored : ({ live with start := { busbarAbsent := false } } : State).samplesRst ∧ live.pins.rstN := by decide +kernel

/-! ### Well-formedness: each check refuses a term -/

def refuses (l : List Instr) : Bool := l.all fun c => !c.wf
def grants (l : List Instr) : Bool := l.all fun c => c.wf

theorem test_wf_cores : refuses [.nop 27648, .descriptorEntry 27648 .cube, .patrolDeadline 27648, .lineRedirect 27648 0 0] ∧
    grants [.nop 27647, .descriptorEntry 27647 .cube, .patrolDeadline 27647, .lineRedirect 27647 0 0] := by decide +kernel
theorem test_wf_units : refuses [.goDark 432, .orArena 16 0 0, .arm 0 4, .post 64, .stage 455 0, .chimeApply 455, .fpQuiet 432 0, .fpQuiet 0 4,
      .bellRelease 0 16 0, .bellRelease 4 0 0, .bellRelease 0 0 27648] ∧
    grants [.goDark 431, .orArena 15 0 0, .arm 0 3, .post 63, .stage 454 0, .fpQuiet 431 3, .bellRelease 3 15 27647] := by decide +kernel
theorem test_wf_routers : refuses [.linkDown 0 4, .linkDown 27648 0, .gateBufferAlign 0 4 3 5, .avenueBundle 0 5 0 .none, .avenueBundle 0 0 4 .none, .drainMarker 27648 0 0 .none] ∧
    grants [.linkDown 27647 3, .avenueBundle 27647 4 3 .none] := by decide +kernel
theorem test_wf_endpoints : refuses [.read 0x7010 {}, .read 0x7300 {}, .readData 27648, .ack 0x7201] ∧
    grants [.read 0x700F {}, .read 0x7100 {}, .readData 27647] ∧ isEndpoint 0x7100 ∧ isEndpoint 0x7304 ∧ isEndpoint 0x7305 = false := by decide +kernel
theorem test_wf_orangeries : refuses [.orLayerWord 0 65536 0 0, .orLayerWord 0 0 8 0, .mr4Read 0 (List.replicate 31 0), .ucieModuleDown 0 2] ∧
    grants [.orLayerWord 0 65535 7 0, .mr4Read 0 (List.replicate 32 0), .ucieModuleDown 0 1] := by decide +kernel
theorem test_wf_ports : refuses [.regReq { path := { port := 2 } } { reqid := 0, count := 1, write := false, offset := 0 }, .iturnAck { path := { port := 2 } },
      .arpRequest ⟨{ port := 2 }, {}⟩ 0, .sync ⟨{ port := 2 }, {}⟩ 0 0 0 0, .pfcFrame false 2 0 0, .pfcFrame true 16 0 0, .pfcFrame false 0 8 0, .probeSend 16, .hostLinkUp 2 0, .hostLinkDown 0 2] ∧
    grants [.iturnAck { path := { port := 1 } }, .arpRequest ⟨{ port := 1 }, {}⟩ 0, .pfcFrame true 15 7 0, .probeSend 15, .hostLinkUp 1 1] := by decide +kernel
theorem test_wf_edge : refuses [.cartridgeExcursion 5, .cartridgeInsert 0 2, .swapTimeout 2, .retentionRewrite (128 * 7296), .dieLost 128, .plotShort 36,
      .converterFail 24, .phaseFault 0 8, .alertAssert 5 0 50, .edgeRegulatorFail 0 (.lantern 5), .sensorSample (.plot 36 0 0), .sensorSample (.voltage 432 0),
      .marginReport 0 (List.replicate 15 0), .marginReport 0 (List.replicate 16 16), .registerWrite (.chan 65) 0 0, .wardenJudge 54 0] ∧
    grants [.cartridgeExcursion 4, .cartridgeInsert 0 1, .retentionRewrite (128 * 7296 - 1), .plotShort 35, .converterFail 23, .phaseFault 0 7,
      .edgeRegulatorFail 0 .icehouse, .marginReport 0 (List.replicate 16 15), .registerWrite (.chan 64) 0 0, .wardenJudge 54 4321] := by decide +kernel

/-! ### Worked examples of the spec -/

/-- Chapter 0's example: core 4,321 lies in pavilion 54 and plot 0. -/
theorem test_example_core : coreX 4321 = 1 ∧ coreY 4321 = 30 ∧ pavOf 4321 = 54 ∧ plotOf 54 = 0 := by decide +kernel

/-- Chapter 7's example: the orangery of a slow-tier byte and its local address. -/
theorem test_example_slowTier : oraOf 0x00C35A7E9F10 = 9 ∧ slowOf 9 0x0C35A7EF10 = 0x00C35A7E9F10 := by decide +kernel

/-- Chapter 7's example: ρ of 2^24 parameters with S 4,096, and the commit of four elements, the last of them frozen. -/
theorem test_example_commit : rhoOf (.fin false 4096 0) (2 ^ 24) = 0x3C800000 ∧
    (let l := decodeLayer 0 [0, 0, 0, 0, 0, 0x3E0000003C000000, 0x3F7C00003F600000, 0x3C80000000000000]
     signGranule (l.coef 0x3F800000) [0x3F000000, 0xBE800000, 0x3E000000, 0x3F400000] [0x3E80, 0x3F00, 0, 0x3E00] [false, true, true, false]
         [false, false, false, true] =
       ([0x3EFFEF00, 0xBE800F80, 0x3E001F80, 0x3F400000], [0x3E86, 0x3EF4, 0xBC80, 0x3E00], 0)) := by decide +kernel

/-- Chapter 2's example: descriptor 0 of the 256 x 256 x 4,096 product. -/
theorem test_example_cube :
    (let d := decodeCube [0x001FF1C302020001, 0x0000100200000000, 0x0020000001100000, 0]
     d.op = 1 ∧ d.pair = 2 ∧ d.acc = false ∧ d.flagen ∧ d.flag = 0 ∧ d.mt = 4 ∧ d.nt = 8 ∧ d.ks = 512 ∧ d.accbase = 0 ∧ d.abase = 0 ∧ d.asm = 1024 ∧
       d.ask = 2 ∧ d.sbase = 0x100000 ∧ d.ssk = 2 ∧ d.ssn = 1024 ∧ d.rsv = 0) := by decide +kernel

/-- R202's CRC-8 of the bytes of "123456789", worked out by hand; R74's draw 0 of seed 0, by its pseudocode. -/
theorem test_codes : crc8 [0x31, 0x32, 0x33, 0x34, 0x35, 0x36, 0x37, 0x38, 0x39] = 0xF4 ∧ drawAt 0 0 = 0xE220A8397B1DCDAF := by decide +kernel

/-! ### One step -/

/-- Chapter 4's example: WAITF p1, flag 3, CLR at 0x0104 begins to wait; BR at 0x0108 goes to 0x0120 when p1 is 0. -/
def at108 (w : W32) : State := withCore { ((({} : Core).setF Reg.KP_STATUS_STATE 1).setF Reg.KP_STATUS_PC 0x42) with pstore := [(0x42, w)] }

theorem test_example_issue : opOf 0x98025043 = 0x26 ∧ opOf 0x80001000 = 0x20 ∧ opOf 0x84002000 = 0x21 ∧
    nextIs (exec (.br 0) (at108 0x62400006)) (fun t => (t.core 0).pc = 0x48) ∧
    nextIs (exec (.waitf 0) (keeper 0x98025043)) (fun t => (t.core 0).wait.kind = .flag 3 true) := by decide +kernel

/-- R91, R98: ADDI sign-extends; a write of s0 is discarded. -/
theorem test_addi : nextIs (exec (.addi 0) (keeper (wordI 5 1 0 0xFFF))) (fun t => (t.core 0).sReg 1 = BitVec.ofNat 64 (2 ^ 64 - 1)) ∧
    nextIs (exec (.addi 0) (keeper (wordI 5 0 0 0xFFF))) (fun t => (t.core 0).sReg 0 = 0) := by decide +kernel

/-- R98: MOVA keeps 48 bits. -/
theorem test_mova : nextIs (exec (.mova 0) (keeper (wordR 0x16 1 2 0 0) (({} : Core).setS 2 0xFFFF000000000001))) (fun t => (t.core 0).aReg 1 = 1) := by
  decide +kernel

/-- R102: a NOP in the last word faults with cause 4, and PC stays at it. -/
theorem test_lastWord : nextIs (exec (.nop 0) lastNop)
    (fun t => (t.core 0).getF Reg.KP_STATUS_FAULT = 4 ∧ (t.core 0).pc = 0x1FFF ∧ (t.core 0).getF Reg.KP_STATUS_STATE = 3) := by decide +kernel

/-- The command ends in the fault of R630. -/
def faultsAt (r : Res) : Bool := match r with | .fault .absoluteMaximum => true | _ => false
/-- The module has started. -/
def up : State := { live with start := { busbarAbsent := false } }

/-- R630: a busbar beyond its ratings ends the run; R523: 10 µs of RST_N low is a reset. -/
theorem test_edges : faultsAt (exec (.busbarHigh 72001) live) ∧
    nextIs (exec (.rstNAccept 10) up) (fun t => t.start.rstLow) ∧ nextIs (exec (.rstNAccept 9) up) (fun t => !t.start.rstLow) ∧
    nextIs (exec (.tickStrobe 65536 []) live) (fun t => t.round = 1) := by decide +kernel

/-- The table gives no bits: no word spells a command, and none is put in front. -/
theorem test_words : decodeTableWord 32 0 = none ∧ (State.reset.withFetchWord 32 0).pending = [] := by decide +kernel

/-- The nearest FP32 value of a function of an FP32 operand. -/
def nearest (opc c : Nat) : Nat := match fp32.decode c with | .fin s m e => (fp32.encode (unaryExact opc s m e)).1 | _ => 0

/-- R65, R651: e³ = 20.0855369 is 0x41A0AF2E; 1 ulp about 1/3 = 0x3EAAAAAB admits one neighbour only. -/
theorem test_functions : nearest 0x15 0x40400000 = 0x41A0AF2E ∧ nearest 0x10 0x40400000 = 0x3EAAAAAB ∧
    withinBound 0x10 (fp32.decode 0x3EAAAAAA) (unaryExact 0x10 false 3 0) ∧
    withinBound 0x10 (fp32.decode 0x3EAAAAAC) (unaryExact 0x10 false 3 0) = false := by decide +kernel
end Sys2Proof.Tests
end

/-! ## The access codes (R13, R14)

The fields of a register lie apart from each other and within its word, so a word whose fields are mapped holds in each field
what was made of that field alone. A bus access therefore does to a field what its access code says, whatever stands beside it. -/

namespace Sys2Proof.Machine

/-! ### Mapping the fields of a word -/

/-- The fields stand in rising order without overlap, and end within the 64 bits of a word. -/
abbrev FieldsFit (ds : List FDef) : Prop :=
  (∀ f ∈ ds, f.lo + f.w ≤ 64) ∧ ds.Pairwise fun f g => f.lo + f.w ≤ g.lo

/-- The fields are written in rising order, so none written after `f` reaches down to it. -/
theorem bitsOf_foldl_withBits_of_above (f : FDef) (v : FDef → Nat) (ds : List FDef) (hfit : ∀ d ∈ ds, d.lo + d.w ≤ 64)
    (habove : ∀ d ∈ ds, f.lo + f.w ≤ d.lo) (a : Word) :
    bitsOf (ds.foldl (fun a d => withBits a d.lo d.w (v d)) a) f.lo f.w = bitsOf a f.lo f.w := by
  induction ds generalizing a with
  | nil => rfl
  | cons d ds ih =>
    rw [List.forall_mem_cons] at hfit habove
    rw [List.foldl_cons, ih hfit.2 habove.2, bitsOf_withBits_other a (v d) hfit.1 (.inl habove.1)]

theorem bitsOf_foldl_withBits_of_mem {f : FDef} (v : FDef → Nat) {ds : List FDef} (hfit : FieldsFit ds) (hf : f ∈ ds) (a : Word) :
    bitsOf (ds.foldl (fun a d => withBits a d.lo d.w (v d)) a) f.lo f.w = v f % 2 ^ f.w := by
  induction ds generalizing a with
  | nil => cases hf
  | cons d ds ih =>
    obtain ⟨hword, hrise⟩ := hfit
    rw [List.forall_mem_cons] at hword
    rw [List.pairwise_cons] at hrise
    rw [List.foldl_cons]
    rcases List.mem_cons.1 hf with rfl | hf
    · rw [bitsOf_foldl_withBits_of_above f v ds hword.2 hrise.1, bitsOf_withBits_same _ _ _ _ hword.1]
    · exact ih ⟨hword.2, hrise.2⟩ hf _

theorem bitsOf_mapFields {f : FDef} {ds : List FDef} (hfit : FieldsFit ds) (hf : f ∈ ds) (g : FDef → Nat → Nat) (x : Word) :
    bitsOf (mapFields ds g x) f.lo f.w = g f (bitsOf x f.lo f.w) % 2 ^ f.w :=
  bitsOf_foldl_withBits_of_mem (fun d => g d (bitsOf x d.lo d.w)) hfit hf 0

theorem bitsOf_lt (x : Word) (lo w : Nat) : bitsOf x lo w < 2 ^ w := Nat.mod_lt _ (Nat.two_pow_pos w)

/-! ### The register table -/

theorem findReg_mem {off : Nat} {d : RDef} {ds : List RDef} (h : findReg off ds = some d) : d ∈ ds := by
  induction ds with
  | nil => cases h
  | cons e ds ih =>
    rw [findReg] at h
    split at h
    · cases h; exact List.mem_cons_self
    · exact List.mem_cons_of_mem _ (ih h)

/-- A finite check of the register table, block by block. -/
theorem regDefs_fieldsFit (b : Blk) : ∀ d ∈ regDefs b, FieldsFit d.flds := by
  cases b <;> decide +kernel

theorem findReg_fieldsFit {b : Blk} {off : Nat} {d : RDef} (h : findReg off (regDefs b) = some d) : FieldsFit d.flds :=
  regDefs_fieldsFit b d (findReg_mem h)

/-! ### What an access makes of one field -/

/-- The W1C mask of `fieldWritten`, bit by bit. -/
theorem testBit_and_mask_xor (old : Nat) {v w i : Nat} (hi : i < w) :
    (old &&& ((2 ^ w - 1) ^^^ v)).testBit i = (old.testBit i && !v.testBit i) := by
  rw [Nat.testBit_and, Nat.testBit_xor, Nat.testBit_two_pow_sub_one, decide_eq_true hi, Bool.true_xor]

theorem fieldWritten_lt (f : FDef) {old v : Nat} (hold : old < 2 ^ f.w) (hv : v < 2 ^ f.w) : fieldWritten f old v < 2 ^ f.w := by
  unfold fieldWritten
  split
  · exact hv
  · exact Nat.and_le_left.trans_lt hold
  · exact hold
  · exact hold
  · exact Nat.two_pow_pos f.w

theorem fieldShown_lt (f : FDef) {old : Nat} (hold : old < 2 ^ f.w) : fieldShown f old < 2 ^ f.w := by
  unfold fieldShown
  split
  · exact Nat.two_pow_pos f.w
  · exact hold

theorem fieldAfterRead_lt (f : FDef) {old : Nat} (hold : old < 2 ^ f.w) : fieldAfterRead f old < 2 ^ f.w := by
  unfold fieldAfterRead
  split
  · exact Nat.two_pow_pos f.w
  · exact hold

/-! ### What a bus access does to a field of the table -/

section
variable {b : Blk} {off : Nat} {d : RDef} {f : FDef} (hd : findReg off (regDefs b) = some d) (hf : f ∈ d.flds)
include hd hf

theorem getF_busWrite (v : Word) (m : RegFile) : getF ⟨b, off, f.lo, f.w⟩ (busWrite b off v m) =
    fieldWritten f (getF ⟨b, off, f.lo, f.w⟩ m) (bitsOf v f.lo f.w) := by
  simp only [busWrite, hd, getF, getReg_setReg_same]
  rw [bitsOf_mapFields (findReg_fieldsFit hd) hf]
  exact Nat.mod_eq_of_lt (fieldWritten_lt f (bitsOf_lt _ _ _) (bitsOf_lt _ _ _))

theorem bitsOf_busRead (m : RegFile) :
    bitsOf (busRead b off m).1 f.lo f.w = fieldShown f (getF ⟨b, off, f.lo, f.w⟩ m) := by
  simp only [busRead, hd, getF]
  rw [bitsOf_mapFields (findReg_fieldsFit hd) hf]
  exact Nat.mod_eq_of_lt (fieldShown_lt f (bitsOf_lt _ _ _))

theorem getF_busRead (m : RegFile) :
    getF ⟨b, off, f.lo, f.w⟩ (busRead b off m).2 = fieldAfterRead f (getF ⟨b, off, f.lo, f.w⟩ m) := by
  simp only [busRead, hd, getF, getReg_setReg_same]
  rw [bitsOf_mapFields (findReg_fieldsFit hd) hf]
  exact Nat.mod_eq_of_lt (fieldAfterRead_lt f (bitsOf_lt _ _ _))

end

/-- Settles O57: what a bus access does to a field depends on that field alone (`getF_busWrite`, `bitsOf_busRead`,
`getF_busRead`), so each access code is a case of `fieldWritten`, `fieldShown` and `fieldAfterRead`. -/
theorem fieldsFollowTheirAccessCodes : Obligations.FieldsFollowTheirAccessCodes := by
  intro b off d f v m hd hf g old asked written shown left
  have hwritten : written = fieldWritten f old asked := getF_busWrite hd hf v m
  have hshown : shown = fieldShown f old := bitsOf_busRead hd hf m
  have hleft : left = fieldAfterRead f old := getF_busRead hd hf m
  rw [hwritten, hshown, hleft]
  refine ⟨fun hro => ?_, fun hrw => ?_, fun hwo => ?_, fun hw1c => ?_, fun hrc => ?_⟩
  · simp [fieldWritten, fieldShown, fieldAfterRead, hro]
  · simp [fieldWritten, fieldShown, fieldAfterRead, hrw]
  · simp [fieldShown, hwo]
  · simpa [fieldWritten, fieldShown, fieldAfterRead, hw1c] using fun i hi => testBit_and_mask_xor old hi
  · simp [fieldWritten, fieldShown, fieldAfterRead, hrc]

end Sys2Proof.Machine

/-! ## A keeper's registers (R91, R116)

A register file is a sparse store, so a register reads as it was written by the laws of `Fm`. To set a flag again leaves the core
the same, and not only its flags: a field written twice with one value leaves the register file of the first write. -/

namespace Sys2Proof.Machine.Fm

variable {α : Type}

theorem put_put_self (k : Nat) (v : α) (m : FMap α) : put k v (put k v m) = put k v m := by
  induction m with
  | nil => simp [put]
  | cons e m ih =>
    obtain ⟨j, u⟩ := e
    rcases Nat.lt_trichotomy k j with h | rfl | h
    · simp [put, h]
    · simp [put]
    · simp [put, h.not_gt, h.ne', ih]

theorem del_del_self (k : Nat) (m : FMap α) : del k (del k m) = del k m := by simp [del_eq_filter]

theorem set_set_self [DecidableEq α] (d : α) (k : Nat) (v : α) (m : FMap α) : set d k v (set d k v m) = set d k v m := by
  by_cases h : v = d
  · simp [set, h, del_del_self]
  · simp [set, h, put_put_self]

end Sys2Proof.Machine.Fm

namespace Sys2Proof.Machine

/-! ### Scalar, address and predicate registers -/

@[simp] theorem sReg_zero (k : Core) : k.sReg 0 = 0 := rfl
@[simp] theorem pReg_zero (k : Core) : k.pReg 0 = true := rfl
@[simp] theorem setS_zero (k : Core) (v : Word) : k.setS 0 v = k := rfl
@[simp] theorem setP_zero (k : Core) (v : Bool) : k.setP 0 v = k := rfl

theorem sReg_setS_same (k : Core) {i : Nat} (hi : i ≠ 0) (v : Word) : (k.setS i v).sReg i = v := by
  simp [Core.setS, Core.sReg, hi]

theorem sReg_setS_other (k : Core) {i j : Nat} (hij : i ≠ j) (v : Word) : (k.setS i v).sReg j = k.sReg j := by
  by_cases hi : i = 0
  · rw [hi, setS_zero]
  · simp [Core.setS, Core.sReg, hi, Fm.get_set_other _ hij.symm]

theorem sReg_setS (k : Core) (i : Nat) (v : Word) : (k.setS i v).sReg i = if i = 0 then 0 else v := by
  split
  next hi => rw [hi, sReg_zero]
  next hi => exact sReg_setS_same k hi v

theorem aReg_setA_same (k : Core) (i : Nat) (a : Addr) : (k.setA i a).aReg i = a := Fm.get_set_same _ _ _ _

theorem aReg_setA_other (k : Core) {i j : Nat} (hij : i ≠ j) (a : Addr) : (k.setA i a).aReg j = k.aReg j :=
  Fm.get_set_other _ hij.symm _ _

theorem pReg_setP_same (k : Core) {i : Nat} (hi : i ≠ 0) (b : Bool) : (k.setP i b).pReg i = b := by
  simp [Core.setP, Core.pReg, hi]

theorem pReg_setP_other (k : Core) {i j : Nat} (hij : i ≠ j) (b : Bool) : (k.setP i b).pReg j = k.pReg j := by
  by_cases hi : i = 0
  · rw [hi, setP_zero]
  · simp [Core.setP, Core.pReg, hi, Fm.get_set_other _ hij.symm]

/-! ### Flags -/

/-- To write into a field what it holds leaves the word as it is. -/
theorem withBits_bitsOf {x : Word} {lo w v : Nat} (h : bitsOf x lo w = v % 2 ^ w) : withBits x lo w v = x := by
  have hle : bitsOf x lo w * 2 ^ lo ≤ x.toNat := (Nat.mul_le_mul_right _ (Nat.mod_le _ _)).trans (Nat.div_mul_le_self _ _)
  unfold withBits
  rw [← h]
  unfold bitsOf at hle ⊢
  rw [Nat.sub_add_cancel hle, BitVec.ofNat_toNat, BitVec.setWidth_eq]

theorem setF_setF_self (f : Fld) (v : Nat) (m : RegFile) (h : f.lo + f.w ≤ 64) : setF f v (setF f v m) = setF f v m := by
  unfold setF
  rw [getReg_setReg_same, withBits_bitsOf (bitsOf_withBits_same _ _ _ _ h)]
  exact Fm.set_set_self _ _ _ _

theorem getF_setFlag (k : Core) {f : Nat} (hf : f < 64) :
    (Core.setFlag f k).getF Reg.KP_FLAGS_FLAGS = k.getF Reg.KP_FLAGS_FLAGS ||| 2 ^ f :=
  (getF_setF_same _ _ _ (by decide)).trans
    (Nat.mod_eq_of_lt (Nat.or_lt_two_pow (getF_lt _ _) (Nat.pow_lt_pow_right Nat.one_lt_two hf)))

theorem setFlag_setFlag (k : Core) {f : Nat} (hf : f < 64) : Core.setFlag f (Core.setFlag f k) = Core.setFlag f k := by
  rw [Core.setFlag, getF_setFlag k hf, Nat.or_assoc, Nat.or_self]
  simp only [Core.setFlag, Core.setF, setF_setF_self _ _ _ (show Reg.KP_FLAGS_FLAGS.lo + Reg.KP_FLAGS_FLAGS.w ≤ 64 by decide)]

theorem testBit_setFlag_same (k : Core) {f : Nat} (hf : f < 64) :
    ((Core.setFlag f k).getF Reg.KP_FLAGS_FLAGS).testBit f = true := by
  rw [getF_setFlag k hf, Nat.testBit_or, Nat.testBit_two_pow_self, Bool.or_true]

theorem testBit_setFlag_other (k : Core) {f g : Nat} (hf : f < 64) (hg : g ≠ f) :
    ((Core.setFlag f k).getF Reg.KP_FLAGS_FLAGS).testBit g = (k.getF Reg.KP_FLAGS_FLAGS).testBit g := by
  rw [getF_setFlag k hf, Nat.testBit_or, Nat.testBit_two_pow_of_ne hg.symm, Bool.or_false]

/-- Settles O13: the registers by the laws of their stores, the flags by `getF_setFlag`. -/
theorem keeperRegistersReadAsWritten : Obligations.KeeperRegistersReadAsWritten := by
  intro k i j v a b _ _
  refine ⟨sReg_zero _, sReg_zero _, pReg_zero _, pReg_zero _, setS_zero _ _, setP_zero _ _, fun hi => sReg_setS_same k hi v,
    fun _ => aReg_setA_same k i a, fun _ hi => pReg_setP_same k hi b, fun hij => ?_, fun f hf => ?_⟩
  · exact ⟨sReg_setS_other k hij v, pReg_setP_other k hij b, aReg_setA_other k hij a⟩
  · exact ⟨testBit_setFlag_same k hf, setFlag_setFlag k hf, fun g _ hg => testBit_setFlag_other k hf hg⟩

end Sys2Proof.Machine

/-! ## The ALU (R99)

The operations, read as numbers: those whose result need not fit in 64 bits are taken modulo 2^64, and the two high halves of a
product fit. An ALU instruction that issues has an FN of the table, because a greater one is an encoding fault (R95). -/

namespace Sys2Proof.Machine

/-! ### The operations -/

theorem toNat_aluOp_sub (x y : Word) : (aluOp 1 x y).toNat = (x.toNat + 2 ^ 64 - y.toNat) % 2 ^ 64 := by
  have hy := y.isLt
  change (x - y).toNat = _
  rw [BitVec.toNat_sub]
  omega

theorem toNat_aluOp_shiftLeft (x y : Word) : (aluOp 5 x y).toNat = x.toNat * 2 ^ (y.toNat % 64) % 2 ^ 64 := by
  change (x <<< (y.toNat % 64)).toNat = _
  rw [BitVec.toNat_shiftLeft, Nat.shiftLeft_eq]

theorem toNat_aluOp_shiftRight (x y : Word) : (aluOp 6 x y).toNat = x.toNat / 2 ^ (y.toNat % 64) := by
  change (x >>> (y.toNat % 64)).toNat = _
  rw [BitVec.toNat_ushiftRight, Nat.shiftRight_eq_div_pow]

theorem toInt_aluOp_sshiftRight (x y : Word) : (aluOp 7 x y).toInt = x.toInt / 2 ^ (y.toNat % 64) := by
  change (x.sshiftRight (y.toNat % 64)).toInt = _
  rw [BitVec.toInt_sshiftRight, Int.shiftRight_eq_div_pow, Nat.cast_pow, Nat.cast_ofNat]

/-- A signed product lies within 2^126 of 0, so its high half is a signed word. -/
theorem toInt_aluOp_mulHigh (x y : Word) : (aluOp 9 x y).toInt = x.toInt * y.toInt / 2 ^ 64 := by
  have hlo : -(2 ^ 126) ≤ x.toInt * y.toInt := BitVec.le_toInt_mul_toInt
  have hhi : x.toInt * y.toInt ≤ 2 ^ 126 := BitVec.toInt_mul_toInt_le
  change (BitVec.ofInt 64 (x.toInt * y.toInt / 2 ^ 64)).toInt = _
  exact BitVec.toInt_ofInt_eq_self (by decide) (by omega) (by omega)

/-- An unsigned product lies below 2^128, so its high half is a word. -/
theorem toNat_aluOp_mulHighUnsigned (x y : Word) : (aluOp 10 x y).toNat = x.toNat * y.toNat / 2 ^ 64 := by
  have hlt : x.toNat * y.toNat < 2 ^ 64 * 2 ^ 64 := Nat.mul_lt_mul'' x.isLt y.isLt
  exact (BitVec.toNat_ofNat _ _).trans (Nat.mod_eq_of_lt (Nat.div_lt_of_lt_mul hlt))

theorem toInt_aluOp_min (x y : Word) : (aluOp 11 x y).toInt = min x.toInt y.toInt := by
  change (if x.slt y then x else y).toInt = _
  simp only [apply_ite BitVec.toInt, BitVec.slt_iff_toInt_lt, min_def_lt]

theorem toInt_aluOp_max (x y : Word) : (aluOp 12 x y).toInt = max x.toInt y.toInt := by
  change (if x.slt y then y else x).toInt = _
  simp only [apply_ite BitVec.toInt, BitVec.slt_iff_toInt_lt, max_def_lt]

theorem toNat_aluOp_min (x y : Word) : (aluOp 13 x y).toNat = min x.toNat y.toNat := by
  change (if x.ult y then x else y).toNat = _
  simp only [apply_ite BitVec.toNat, BitVec.ult_iff_toNat_lt, min_def_lt]

theorem toNat_aluOp_max (x y : Word) : (aluOp 14 x y).toNat = max x.toNat y.toNat := by
  change (if x.ult y then y else x).toNat = _
  simp only [apply_ite BitVec.toNat, BitVec.ult_iff_toNat_lt, max_def_lt]

/-! ### The instruction -/

theorem sReg_of_body {k l : Core} (h : k.body = l.body) (i : Nat) : k.sReg i = l.sReg i := by
  rw [body_ext h]
  rfl

theorem setS_body {k l : Core} (h : k.body = l.body) (i : Nat) (v : Word) : (k.setS i v).body = (l.setS i v).body := by
  rw [body_ext h]
  unfold Core.setS
  split <;> rfl

/-- An ALU instruction that issues writes its destination and nothing else, and fetch goes on at the next word. -/
theorem exec_alu_issues {s : State} {c : Nat} {w : W32} (h : issues s c 0x04 w = true) :
    Completes (exec (.alu c) s) (Ran c ((s.core c).pc + 1)
      ((s.core c).setS (dOf w) (aluOp (fnOf w) ((s.core c).sReg (aOf w)) ((s.core c).sReg (bOf w)))) s) :=
  keeperOp_onlyCore h fun k hk => ⟨by rw [putS_body, sReg_of_body hk, sReg_of_body hk]; exact setS_body hk _ _, putS_regs _ _ _ _⟩

/-- Each register field of an ALU instruction is a scalar register, so only its FN can be wrong (R97, R99). -/
theorem encCause_alu {w : W32} (h : opOf w = 0x04) : encCause w = if fnOf w ≤ 0x0E then none else some 1 := by
  simp [encCause, h, opForm, FieldUse.bad, orCause, when1]

/-- A running keeper that fetches an ill-encoded word stops with its cause, whether or not it would execute (R95). -/
theorem keeperOp_faults {op : Nat} {reads : W32 → List Nat} {body : Nat → W32 → State → KOut} {c : Nat} {s : State} {w : W32} {x : Nat}
    (hc : c < Config.coreSites) (hr : s.keeperRuns c = true) (hf : (s.core c).fetch = some w) (ho : opOf w = op)
    (he : encCause w = some x) : keeperOp op reads body c s = .next (s.faulted c x) := by
  unfold keeperOp onCore keeperExec State.faulted
  rw [if_pos hc]
  simp only [hr, hf, ho, he, Bool.not_true, Bool.false_eq_true, if_false, ne_eq, not_true_eq_false, false_and]

theorem fnOf_of_issues_alu {s : State} {c : Nat} {w : W32} (h : issues s c 0x04 w = true) : fnOf w ≤ 0x0E := by
  simp only [issues, atWord, Bool.and_eq_true, decide_eq_true_eq] at h
  obtain ⟨⟨⟨⟨_, ho⟩, he⟩, _⟩, _⟩ := h
  by_contra hfn
  rw [encCause_alu ho, if_neg hfn] at he
  cases he

/-- Settles O58: each operation by its `aluOp` lemma or as the library has it, the instruction by `exec_alu_issues` and `keeperOp_faults`. -/
theorem theAluComputesItsTable : Obligations.TheAluComputesItsTable := by
  intro x y n r
  refine ⟨BitVec.toNat_add x y, toNat_aluOp_sub x y, fun i _ => ⟨BitVec.getLsbD_and, BitVec.getLsbD_or, BitVec.getLsbD_xor⟩,
    toNat_aluOp_shiftLeft x y, toNat_aluOp_shiftRight x y, toInt_aluOp_sshiftRight x y, BitVec.toNat_mul x y,
    toInt_aluOp_mulHigh x y, toNat_aluOp_mulHighUnsigned x y, toInt_aluOp_min x y, toInt_aluOp_max x y, toNat_aluOp_min x y,
    toNat_aluOp_max x y, fun s c w => ⟨fun h hx hy => ?_, fun hc hr hf ho hfn => ⟨1, Nat.one_pos, ?_⟩⟩⟩
  · obtain ⟨t, ht, _, hbody, _⟩ := exec_alu_issues h
    refine ⟨t, ht, fnOf_of_issues_alu h, ?_⟩
    rw [sReg_of_body hbody, sReg_setS, ← hx, ← hy]
  · exact keeperOp_faults hc hr hf ho (by rw [encCause_alu ho, if_neg (by omega)])

end Sys2Proof.Machine

/-! ## The whole module

A command that names a unit the module does not have does nothing, and every other one ends, but for a busbar beyond its ratings: each
shared frame of commands (`onCore`, `onUnit`, ...) is guarded by the check of its unit. No command touches the queue, and the
commands that change the slow tier keep its canonical form. -/

namespace Sys2Proof.Machine

/-- The commands that change the slow tier keep its canonical form; every other one leaves it and the queue as they are. -/
theorem exec_sound (i : Instr) (s : State) : SoundRes s (exec i s) := by
  cases i <;> dsimp only [exec]
  case read => exact execRead_sound _ _ s
  case devwrite => exact execDevwrite_sound _ _ s
  case normPassEnd => exact execNormPassEnd_sound _ _ _ s
  case preparePassEnd => exact execPreparePassEnd_sound _ _ _ s
  case commitEnd => exact execCommitEnd_sound _ _ _ _ s
  case memoryScrub => exact execMemoryScrub_sound _ _ s
  case ucieRetrain => exact execUcieRetrain_sound _ _ _ s
  case ucieModuleDown => exact execUcieModuleDown_sound _ _ s
  case edgeRegulatorFail reg feeds => exact execEdgeRegulatorFail_sound reg feeds s
  case slowTierZeroing => exact execSlowTierZeroing_sound _ _ s
  case memFillComplete => exact execMemFillComplete_sound _ s
  case restoreComplete => exact execRestoreComplete_sound _ s
  case busbarCollapse => exact execBusbarCollapse_sound _ _ s
  case busbarOvervoltage => exact execBusbarOvervoltage_sound _ _ s
  case coldBoot => exact execColdBoot_sound _ s
  case fullBringUp => exact execFullBringUp_sound _ s
  case warmFastPath => exact execWarmFastPath_sound _ s
  case settle => exact execSettle_sound s
  case rstNRise => exact execRstNRise_sound _ s
  case alertHoldEnd => exact execAlertHoldEnd_sound s
  case stagehold => exact execStagehold_sound _ _ s
  all_goals exact soundRes_of_keeps (by simp)

/-- Settles O55: an idle module stays as it is, and a command is sound on the state that has lost it from its queue (`exec_sound`). -/
theorem everyStepKeepsTheInvariant : Obligations.EveryStepKeepsTheInvariant := by
  intro s t ⟨hslow, hqueue⟩ hstep
  unfold step at hstep
  split at hstep
  next =>
    cases hstep
    exact ⟨hslow, hqueue⟩
  next c rest hpending =>
    obtain ⟨hrest, hkeeps⟩ := exec_sound c _ t hstep
    refine ⟨hkeeps hslow, fun d hd => hqueue d ?_⟩
    rw [hrest] at hd
    rw [hpending]
    exact List.mem_cons_of_mem c hd

/-- Settles O53, by the two cases of `step`. -/
theorem aStepRunsTheFrontCommand : Obligations.AStepRunsTheFrontCommand := by
  intro s c rest
  refine ⟨fun h => ?_, fun h => ?_⟩
  · unfold step
    rw [h]
  · unfold step
    rw [h]

/-! ### Commands that name their units -/

/-- The command completes. -/
def Ends (r : Res) : Prop := ∃ t, r = .next t

/-- The command completes, and where its operands are not `ok` nothing happens (log entry 38). -/
def Guarded (ok : Bool) (s : State) (r : Res) : Prop := Ends r ∧ (ok = false → r = .next s)

@[simp] theorem ends_next (s : State) : Ends (.next s) := ⟨s, rfl⟩

theorem ends_ite {p : Prop} [Decidable p] {a b : Res} (ha : Ends a) (hb : Ends b) : Ends (if p then a else b) := by
  split <;> assumption

theorem ends_onSession (id : Nat) (s : State) (f : Session → State → State) : Ends (onSession id s f) := by
  unfold onSession
  split <;> exact ends_next _

theorem guarded_of_ends {s : State} {r : Res} (h : Ends r) : Guarded true s r := ⟨h, by simp⟩

theorem guarded_onUnit (ok : Bool) (s : State) (f : State → State) : Guarded ok s (onUnit ok s f) := by
  cases ok
  · exact ⟨ends_next s, fun _ => rfl⟩
  · exact ⟨ends_next _, by simp⟩

theorem guarded_ite {p : Prop} [Decidable p] (s t : State) : Guarded (decide p) s (if p then .next t else .next s) := by
  by_cases h : p <;> simp [Guarded, h]

theorem guarded_onCore (c : Nat) (s : State) (f : State → State) : Guarded (isCore c) s (onCore c s f) := guarded_ite s _
theorem guarded_onPav (p : Nat) (s : State) (f : State → State) : Guarded (isPav p) s (onPav p s f) := guarded_ite s _
theorem guarded_onGarden (g : Nat) (s : State) (f : State → State) : Guarded (isGarden g) s (onGarden g s f) := guarded_ite s _
theorem guarded_onChan (n : Nat) (s : State) (f : State → State) : Guarded (isChan n) s (onChan n s f) := guarded_ite s _
theorem guarded_onOra (o : Nat) (s : State) (f : State → State) : Guarded (isOra o) s (onOra o s f) := guarded_onUnit _ s f
theorem guarded_keeperOp (op : Nat) (reads : W32 → List Nat) (body : Nat → W32 → State → KOut) (c : Nat) (s : State) :
    Guarded (isCore c) s (keeperOp op reads body c s) := guarded_onCore c s _
theorem guarded_portStart (op : Nat) (body : Nat → PortDesc → PortRun → State → State) (c : Nat) (s : State) :
    Guarded (isCore c) s (portStart op body c s) := guarded_onCore c s _

theorem guarded_onEngine (o g : Nat) (s : State) (f : State → State) : Guarded (isOra o && isGarden g) s (onEngine o g s f) := guarded_onUnit _ s f
theorem guarded_onModule (o m : Nat) (s : State) (f : State → State) : Guarded (isOra o && decide (m < 2)) s (onModule o m s f) := guarded_onUnit _ s f
theorem guarded_onWindow (ch : Nat) (s : State) (f : State → State) : Guarded (isChan ch) s (onWindow ch s f) := guarded_onChan ch s _
theorem guarded_onLetter (code ch : Nat) (s : State) (f : Accepted → State → State) : Guarded (isChan ch) s (onLetter code ch s f) :=
  guarded_onChan ch s _
theorem guarded_onHeard (h : Heard) (udp : Option Nat) (s : State) (f : State → State) :
    Guarded (decide (h.path.port < 2)) s (onHeard h udp s f) := guarded_onUnit _ s _
theorem guarded_onPtp (h : Heard) (udp domain : Nat) (s : State) (f : State → State) :
    Guarded (decide (h.path.port < 2)) s (onPtp h udp domain s f) := guarded_onHeard h _ s _
theorem guarded_onFrame (f : Frame) (type : Nat) (eliciting : Bool) (s : State) (act : State → State) :
    Guarded (decide (f.path.port < 2)) s (onFrame f type eliciting s act) := guarded_onHeard _ _ s _
theorem guarded_onPeer (port : Nat) (s : State) (f : State → State) : Guarded (Config.peerPresent port) s (onPeer port s f) :=
  guarded_onUnit _ s f
theorem guarded_onLantern (n : Nat) (s : State) (f : State → State) : Guarded (Config.lanternPresent n) s (onLantern n s f) :=
  guarded_onUnit _ s f
theorem guarded_pfcFits (peer : Bool) (port prio : Nat) (s : State) (f : State → State) :
    Guarded ((if peer then Config.peerPresent port else decide (port < 2)) && decide (prio < 8)) s (onUnit (pfcFits peer port prio) s f) := by
  cases peer <;> exact guarded_onUnit _ s f
theorem guarded_onPeerFrame (port : Nat) (pf : PeerFrame) (ok : State → Bool) (s : State) (f : State → State) :
    Guarded (Config.peerPresent port) s (onPeerFrame port pf ok s f) := guarded_onPeer port s _

/-- A packet at a code that is no endpoint's acts nowhere. -/
theorem guarded_atEndpoint (dest : Nat) (s : State) (core ora : State → Nat → State) (host post : State → State) :
    Guarded (takesPackets dest || decide (dest = 0x7100)) s (atEndpoint dest s core ora host post) := by
  unfold atEndpoint
  refine ⟨ends_ite (ends_next _) (ends_ite (guarded_onOra _ s _).1 (ends_ite (ends_next _) (ends_ite (ends_next _) (ends_next _)))),
    fun h => ?_⟩
  simp only [takesPackets, isCore, Bool.or_eq_false_iff, decide_eq_false_iff_not] at h
  obtain ⟨⟨⟨hcore, hora⟩, hhost⟩, hpost⟩ := h
  rw [if_neg hcore, if_neg (show ¬dest = codeHost from hhost), if_neg (show ¬dest = codePost from hpost)]
  split
  next hdest =>
    rw [decide_eq_true (show 0x7000 ≤ dest from hdest.1), Bool.true_and] at hora
    exact (guarded_onOra _ s _).2 hora
  next => rfl

/-- ... and where the postmaster takes none of its kind, neither at the postmaster's. -/
theorem guarded_atEndpoint_id (dest : Nat) (s : State) (core ora : State → Nat → State) (host : State → State) :
    Guarded (takesPackets dest) s (atEndpoint dest s core ora host id) := by
  have h := guarded_atEndpoint dest s core ora host id
  refine ⟨h.1, fun hd => ?_⟩
  by_cases hpost : dest = 0x7100
  · subst hpost
    rfl
  · exact h.2 (by simp [hd, hpost])

theorem execLetter_guarded (f : Frame) (l : Letter) (s : State) : Guarded (decide (f.path.port < 2)) s (execLetter f l s) := by
  unfold execLetter
  split
  · exact guarded_onHeard _ _ s _
  · exact guarded_onFrame _ _ _ s _

theorem execParcelData_guarded (f : Frame) (parcel offset : Nat) (data : List Byte) (s : State) :
    Guarded (decide (f.path.port < 2)) s (execParcelData f parcel offset data s) := by
  unfold execParcelData
  exact guarded_onFrame { f with wire := _, formOk := _ } 7 true s _

theorem execRegisterWrite_guarded (path : WritePath) (addr : Nat) (value : Word) (s : State) :
    Guarded (isPath path) s (execRegisterWrite path addr value s) := by
  unfold execRegisterWrite
  cases path <;> exact guarded_onUnit _ s _

theorem execEdgeRegulatorFail_guarded (reg : Nat) (feeds : EdgeUnit) (s : State) :
    Guarded (feedsOk feeds) s (execEdgeRegulatorFail reg feeds s) := by
  unfold execEdgeRegulatorFail
  cases feeds
  case orangery n => exact guarded_onUnit (Config.orangeryPresent n) s _
  case lantern n => exact guarded_onLantern n s _
  all_goals exact guarded_of_ends (ends_next _)

theorem ends_smbus (offset : Nat) (pec : Bool) (s : State) (f : State → State) : Ends (smbus offset pec s f) :=
  ends_ite (ends_next _) (ends_next _)

theorem ends_busbar {mv : Int} {s : State} {f : State → State} (h : -1000 ≤ mv ∧ mv ≤ 72000) : Ends (busbar mv s f) := by
  unfold busbar
  rw [if_neg (by simp; omega)]
  exact ends_next _

theorem execBusbarOvervoltage_ends {mv : Int} {micros : Nat} {s : State} (h : withinRatings (.busbarOvervoltage mv micros) = true) :
    Ends (execBusbarOvervoltage mv micros s) := by
  simp only [withinRatings, decide_eq_true_eq] at h
  unfold execBusbarOvervoltage
  rw [if_neg (by simp; omega)]
  exact ends_busbar ⟨h.1, h.2.1⟩

theorem execAckDeadline_ends (id : Nat) (s : State) : Ends (execAckDeadline id s) := by
  unfold execAckDeadline
  repeat' first | exact ends_next _ | split

theorem execFirmwareCopyComplete_ends (s : State) : Ends (execFirmwareCopyComplete s) := by
  unfold execFirmwareCopyComplete
  repeat' first | exact ends_next _ | split

theorem exec_guarded (i : Instr) (s : State) (h : withinRatings i = true) : Guarded i.wf s (exec i s) := by
  cases i <;> dsimp only [exec, Instr.wf]
  case nop | halt | alu | addi | andi | ori | xori | shi | li | lis | cmp | cmpi | plog | ld | ldw | st | stw | adda | addas
      | mova | movs | br | call | jr | qcube | qchain | qport | qwait | fset | fclr | waitf | waitw | waitt | delay | fsig |
      fsend | cpool | cfree | creq | cwait | cdrop | bell | sdr | krd | kwr => exact guarded_keeperOp _ _ _ _ s
  case copy | put | get | load | store | asend | arecv | prog => exact guarded_portStart _ _ _ s
  case queueStallRelease | descriptorEntry | waitwPoll | delayExpire | waitSuccess | waitTimeout | runSet | runClear |
      kpChainSeed | coreReset | mma | mmaComplete | zero | zeroComplete | cubeRejectComplete | chainStart |
      chainRejectComplete | chainBeat | chainComplete | porterRejectComplete | porterComplete | write | signal |
      creditRequest | canswer | notice | starvationPromote | scrubPass | correctedWriteBack | patrolSegment |
      patrolSegmentEnd | patrolAbandon | probationEnd | markExpire | patrolDeadline | forcedReliefTimeout | lineRedirect => exact guarded_onCore _ s _
  case pvFabArm | pvFabMark | pvSpadZero | zeroingComplete | inputLoss | sourceRetry | goDark | relock |
      thoroughfareRegulatorFault | domainPowerOn | coreSwitchOn | halfSlope | domainOnComplete | domainSwitchOff |
      switchOffComplete | heatContributionRise | heatContributionFall | pavtest | outputWithinVset => exact guarded_onPav _ s _
  case devwrite | channelCheck | channelRetrainEnd | memoryScrub | blockWriteBack | rowRetire => exact guarded_onOra _ s _
  case arm | prepare | commit | discard | disarm | normPassEnd | preparePassEnd | commitEnd | orArena => exact guarded_onEngine _ _ s _
  case ucieRetrain | ucieModuleDown => exact guarded_onModule _ _ s _
  case checkpointCapture | takeComplete | restoreComplete | reliefCopy | hangWatchdog | avenueStall | autoCheckpoint |
      memFillComplete => exact guarded_onGarden _ s _
  case post | take | pmMbxReset | pmMbxIn | pmMbxOut | abort => exact guarded_onWindow _ s _
  case openSession | closeSession | ping | rekey | sessionList | sessionBind | regRead | regWrite | mbxStatus | mbxFlush |
      gardenCreate | gardenLoad | gardenStart | gardenStop | gardenRelease | protectSet | gardenStatus | sealStep |
      updatePlan | gardenReset | parcelOpen | parcelClose | memFill | checkpointTake | checkpointList | checkpointRestore |
      checkpointDrop | icehouseStatus | configStage | configRead | chimeSet | powerCapSet | dividerSet | timeSource |
      moduleReset | incidentRead | incidentAck | snapshotRequest | snapshotRead | sensorRead | capacityRead | postmarkRequest
      | stampRead | firmwareStage | firmwareActivate | ownerKeySet | peerAvenueOpen | peerAvenueClose | peerPortSwap |
      peerStatus => exact guarded_onLetter _ _ s _
  case finished | regReq | parcelPull | iturnAck => exact guarded_onFrame _ _ _ s _
  case parcelData => exact execParcelData_guarded _ _ _ _ s
  case letter => exact execLetter_guarded _ _ s
  case arpRequest | neighbourSolicitation | echoRequest => exact guarded_onHeard _ _ s _
  case sync | announce | delayResp => exact guarded_onPtp _ _ _ s _
  case bundle | gensync | probe => exact guarded_onPeerFrame _ _ _ s _
  case probeSend | probeTimeout | blockLockLoss | peerLinkReturn | autoSwap => exact guarded_onPeer _ s _
  case peerSend | cartridgeExcursion | cartridgeJudgement => exact guarded_onLantern _ s _
  case retransmissionTimer | sessionIdleTimeout | unackedTimeout | finishedTimeout | unboundTimeout | oldPhaseExpire |
      keyLimit => exact guarded_of_ends (ends_onSession _ s _)
  case pfcFrame | pauseExpire | pfcRefresh => exact guarded_pfcFits _ _ _ s _
  case injection | routePacket | avenueBundle | drainMarker | bellRelease | fpQuiet | linkDown | gateBufferAlign |
      orLayerWord | mr4Read | delayReq | cartridgeRelease | cartridgeInsert | cartridgeReady | swapPartnerFound |
      swapTimeout | retentionRewrite | programFail | dieLost | nandRetrain | marginReport | stage | chime | stageDiscard |
      chimeApply | recordExpire | converterFail | phaseFault | plotShort | alertAssert | sensorSample | wardenJudge |
      alertSourceRelease => exact guarded_onUnit _ s _
  case hostLinkUp | hostLinkDown => rw [← Bool.decide_and]; exact guarded_onUnit _ s _
  case registerWrite => exact execRegisterWrite_guarded _ _ _ s
  case edgeRegulatorFail => exact execEdgeRegulatorFail_guarded _ _ s
  case read => exact guarded_atEndpoint _ s _ _ _ _
  case readData | ack => exact guarded_atEndpoint_id _ s _ _ _
  case sweep | secondScan | decisionPoint | fullCount | refclkReturn | alertHoldEnd | stagehold | bootrpt | ownerclr =>
      exact guarded_of_ends (ends_next _)
  case slowTierZeroing | refreshRead | powerOnScan | capHalving | fastLimiter | tickStrobe | status | rstNAccept | refclkLoss |
      disciplineHoldover | postmasterRestart | coldBoot | fullBringUp | warmFastPath | settle =>
    exact guarded_of_ends (ends_ite (ends_next _) (ends_next _))
  case capLoop => exact guarded_of_ends (ends_ite (ends_next _) (ends_ite (ends_next _) (ends_ite (ends_next _) (ends_ite (ends_ite (ends_next _) (ends_next _)) (ends_next _)))))
  case postwin | restartResume | rstNRise => exact guarded_of_ends (ends_ite (ends_next _) (ends_ite (ends_next _) (ends_next _)))
  case syncInEdge | ownerload => exact guarded_of_ends (ends_ite (ends_next _) (ends_ite (ends_next _) (ends_ite (ends_next _) (ends_next _))))
  case readReg | writeReg => exact guarded_of_ends (ends_smbus _ _ s _)
  case ackDeadline => exact guarded_of_ends (execAckDeadline_ends _ s)
  case firmwareCopyComplete => exact guarded_of_ends (execFirmwareCopyComplete_ends s)
  case busbarUndervoltage | busbarCollapse | busbarHigh => exact guarded_of_ends (ends_busbar (by simpa [withinRatings] using h))
  case busbarOvervoltage => exact guarded_of_ends (execBusbarOvervoltage_ends h)

/-- A busbar beyond its absolute maximum ratings is the one fault (R630). -/
theorem exec_faults {i : Instr} (s : State) (h : withinRatings i = false) : exec i s = .fault .absoluteMaximum := by
  cases i
  case busbarUndervoltage | busbarCollapse | busbarHigh =>
    simp only [withinRatings, decide_eq_false_iff_not] at h
    exact if_pos (by simp; omega)
  case busbarOvervoltage mv micros =>
    simp only [withinRatings, decide_eq_false_iff_not] at h
    dsimp only [exec, execBusbarOvervoltage]
    split
    next => rfl
    next hlong => exact if_pos (by simp at hlong ⊢; omega)
  all_goals cases h

/-- Settles O54: a command within its ratings is guarded by its units (`exec_guarded`), one beyond them faults (`exec_faults`). -/
theorem everyWellFormedCommandCompletes : Obligations.EveryWellFormedCommandCompletes := fun i s =>
  ⟨fun _ hr => (exec_guarded i s hr).1, exec_faults s, fun hw hr => (exec_guarded i s hr).2 hw⟩

end Sys2Proof.Machine

/-! ## Keeper instructions (R91-R131)

An issued instruction's body runs on a state that differs from the one before only in its own core's bookkeeping of issue, so
everything the body reads there is as it was. What follows is one rule for each way a body can end (a result, a change of the
state, a wait, a jump, a halt), and the statements of the keeper's instructions are those rules at each instruction. -/

namespace Sys2Proof.Machine

/-! ### What the body of an issued instruction reads -/

/-- Everything but registers of the window and the bookkeeping of issue is as before. -/
theorem Ran.core_eq {c pc : Nat} {k : Core} {s u : State} (h : Ran c pc k s u) :
    u.core c = { k with regs := (u.core c).regs, ready := (u.core c).ready, pstoreCe := (u.core c).pstoreCe, pstoreCorr := (u.core c).pstoreCorr } :=
  body_ext h.2.1

theorem aReg_of_body {k l : Core} (h : k.body = l.body) (i : Nat) : k.aReg i = l.aReg i := by
  rw [body_ext h]
  rfl

theorem pReg_of_body {k l : Core} (h : k.body = l.body) (i : Nat) : k.pReg i = l.pReg i := by
  rw [body_ext h]
  rfl

theorem setA_body {k l : Core} (h : k.body = l.body) (i : Nat) (v : Addr) : (k.setA i v).body = (l.setA i v).body := by
  rw [body_ext h]
  rfl

theorem setP_body {k l : Core} (h : k.body = l.body) (i : Nat) (v : Bool) : (k.setP i v).body = (l.setP i v).body := by
  rw [body_ext h]
  unfold Core.setP
  split <;> rfl

section
variable {c pc : Nat} {k : Core} {s u : State} (h : Ran c pc k s u)
include h

theorem Ran.sReg (i : Nat) : (u.core c).sReg i = k.sReg i := sReg_of_body h.2.1 i
theorem Ran.aReg (i : Nat) : (u.core c).aReg i = k.aReg i := aReg_of_body h.2.1 i
theorem Ran.addr (a : Nat) (d : Int) : (u.core c).addr a d = k.addr a d := by unfold Core.addr; rw [h.aReg]
theorem Ran.slot (d : Nat) : (u.core c).slot d = k.slot d := by rw [h.core_eq]; rfl
theorem Ran.pool (d : Nat) : (u.core c).pool d = k.pool d := by rw [h.core_eq]; rfl
theorem Ran.spad : (u.core c).spad = k.spad := by rw [h.core_eq]
theorem Ran.queue (q : QUnit) : (u.core c).queue q = k.queue q := by rw [h.core_eq]; cases q <;> rfl
theorem Ran.spadRead (off n : Nat) : (u.core c).spadRead off n = k.spadRead off n := by unfold Core.spadRead; rw [h.spad]
theorem Ran.descOk (q : QUnit) (addr : Nat) : (u.core c).descOk q addr = k.descOk q addr := by rw [h.core_eq]; cases q <;> rfl
theorem Ran.clean (off n : Nat) : (u.core c).clean off n = k.clean off n := by rw [h.core_eq]; rfl
theorem Ran.lsAddr (n : Nat) (w : W32) : Machine.lsAddr n w (u.core c) = Machine.lsAddr n w k := by unfold Machine.lsAddr; rw [h.addr]

theorem Ran.pavs : u.pavs = s.pavs := by rw [← h.1.1]
theorem Ran.gardens : u.gardens = s.gardens := by rw [← h.1.1]
theorem Ran.sd : u.sd = s.sd := by rw [← h.1.1]
theorem Ran.pav (p : Nat) : u.pav p = s.pav p := by unfold State.pav; rw [h.pavs]
theorem Ran.sundialOf (p : Nat) : u.sundialOf p = s.sundialOf p := by unfold State.sundialOf State.now; rw [h.sd, h.pav]

theorem Ran.lcore (v : Word) : u.lcore c v = s.lcore c v := by
  unfold State.lcore State.ownerOf State.gardenSize State.garden
  rw [h.pav, h.gardens]

end

/-- A register of the window that an issue does not write. -/
theorem Ran.getReg {c pc : Nat} {s u : State} (h : Ran c pc (s.core c) s u) {off : Nat} (hpc : off ≠ Reg.KP_STATUS_PC.off)
    (hcyc : off ≠ Reg.KP_CYCLES_CYCLES.off) : Machine.getReg .kp off (u.core c).regs = Machine.getReg .kp off (s.core c).regs :=
  h.2.2.1.1 off hpc hcyc

theorem Ran.member {c pc : Nat} {s u : State} (h : Ran c pc (s.core c) s u) (b : Nat) : (u.core c).member b = (s.core c).member b := by
  unfold Core.member Core.getF getF
  rw [show Reg.KP_BELL_MEMBER.blk = Blk.kp from rfl, h.getReg (by decide) (by decide)]

/-! ### The ways an issued instruction ends -/

theorem opOf_of_issues {s : State} {c op : Nat} {w : W32} (h : issues s c op w = true) : opOf w = op := by
  simp only [issues, atWord, Bool.and_eq_true, decide_eq_true_eq] at h
  exact h.1.1.1.2

theorem pc_of_issues {s : State} {c op : Nat} {w : W32} (h : issues s c op w = true) : (s.core c).pc ≠ 0x1FFF := by
  simp only [issues, atWord, Bool.and_eq_true, decide_eq_true_eq] at h
  exact h.1.2

section
variable {op c : Nat} {reads : W32 → List Nat} {body : Nat → W32 → State → KOut} {s : State} {w : W32} (h : issues s c op w = true)
include h

/-- The body runs on a state whose core is as before. -/
theorem keeperOp_after : ∃ u, Ran c (s.core c).pc (s.core c) s u ∧
    keeperOp op reads body c s = .next (keeperAfter c (s.updCore c Core.corrected) false (body c w u)) :=
  ⟨_, issued_ran c _ s, keeperOp_issues h⟩

theorem keeperOp_goes {f : State → State} {occ : Nat} (hb : ∀ u, Ran c (s.core c).pc (s.core c) s u → body c w u = .goes (f u) occ) :
    Completes (keeperOp op reads body c s) (Then c (fun u => (f u).updCore c (Core.goOn occ)) s) := by
  obtain ⟨u, hu, hk⟩ := keeperOp_after (reads := reads) (body := body) h
  rw [hb u hu] at hk
  exact ⟨_, hk, u, hu, rfl⟩

theorem keeperOp_waits {f : State → State} (hb : ∀ u, Ran c (s.core c).pc (s.core c) s u → body c w u = .wait (f u)) :
    Completes (keeperOp op reads body c s) (Then c f s) := by
  obtain ⟨u, hu, hk⟩ := keeperOp_after (reads := reads) (body := body) h
  rw [hb u hu] at hk
  exact ⟨_, hk, u, hu, rfl⟩

theorem keeperOp_halts {f : State → State} (hb : ∀ u, Ran c (s.core c).pc (s.core c) s u → body c w u = .halt (f u)) :
    Completes (keeperOp op reads body c s) (Then c f s) := by
  obtain ⟨u, hu, hk⟩ := keeperOp_after (reads := reads) (body := body) h
  rw [hb u hu] at hk
  exact ⟨_, hk, u, hu, rfl⟩

/-- A branch whose target lies outside the program store faults (R102). -/
theorem keeperOp_jump_faults {f : State → State} {target : Int} (ht : target < 0 ∨ 0x7FFC < target)
    (hb : ∀ u, Ran c (s.core c).pc (s.core c) s u → body c w u = .jump (f u) target) :
    keeperOp op reads body c s = .next (s.faulted c 4) := by
  obtain ⟨u, hu, hk⟩ := keeperOp_after (reads := reads) (body := body) h
  rw [hk, hb u hu]
  exact congrArg _ (if_neg (by omega))

/-- A branch inside the program store goes on at its target. -/
theorem keeperOp_jumps {target : Int} {l : Core} (h0 : 0 ≤ target) (h1 : target ≤ 0x7FFC)
    (hb : ∀ u, Ran c (s.core c).pc (s.core c) s u → ∃ v, body c w u = .jump v target ∧ Ran c (s.core c).pc l s v) :
    Completes (keeperOp op reads body c s) (Ran c (target.toNat / 4) l s) := by
  obtain ⟨u, hu, hk⟩ := keeperOp_after (reads := reads) (body := body) h
  obtain ⟨v, hv, honly, hbody, hkp, -⟩ := hb u hu
  rw [hv, keeperAfter, if_pos ⟨h0, h1⟩] at hk
  obtain ⟨hgb, hgk, hgp⟩ := goTo_facts (target.toNat / 4) 2 (by omega) (v.core c)
  refine ⟨_, hk, honly.trans (onlyCore_updCore _ _ _), ?_, ?_, ?_⟩ <;> rw [State.updCore_same]
  · exact hgb.trans hbody
  · exact hkp.trans hgk
  · exact hgp

end

/-! ### Results in a register -/

section
variable {op c : Nat} {reads : W32 → List Nat} {s : State} {w : W32} (h : issues s c op w = true)
include h

theorem keeperOp_putS {lat : W32 → Nat} {v : W32 → Core → Word} (hv : ∀ k : Core, k.body = (s.core c).body → v w k = v w (s.core c)) :
    Completes (keeperOp op reads (onlyCore fun w k => putS (dOf w) (lat w) (v w k) k) c s)
      (Ran c ((s.core c).pc + 1) ((s.core c).setS (dOf w) (v w (s.core c))) s) :=
  keeperOp_onlyCore h fun k hk => ⟨by rw [putS_body, hv k hk]; exact setS_body hk _ _, putS_regs _ _ _ _⟩

theorem keeperOp_putA {v : W32 → Core → Addr} (hv : ∀ k : Core, k.body = (s.core c).body → v w k = v w (s.core c)) :
    Completes (keeperOp op reads (onlyCore fun w k => putA (dOf w) (v w k) k) c s)
      (Ran c ((s.core c).pc + 1) ((s.core c).setA (dOf w) (v w (s.core c))) s) :=
  keeperOp_onlyCore h fun k hk => ⟨by rw [putA_body, hv k hk]; exact setA_body hk _ _, putA_regs _ _ _⟩

theorem keeperOp_putP {v : W32 → Core → Bool} (hv : ∀ k : Core, k.body = (s.core c).body → v w k = v w (s.core c)) :
    Completes (keeperOp op reads (onlyCore fun w k => putP (dOf w) (v w k) k) c s)
      (Ran c ((s.core c).pc + 1) ((s.core c).setP (dOf w) (v w (s.core c))) s) :=
  keeperOp_onlyCore h fun k hk => ⟨by rw [putP_body, hv k hk]; exact setP_body hk _ _, putP_regs _ _ _⟩

end

theorem setSlot_body {k l : Core} (h : k.body = l.body) (i : Nat) (v : Slot) : (k.setSlot i v).body = (l.setSlot i v).body := by
  rw [body_ext h]
  rfl

/-- SDR is the one result that is not read from the core: it goes on as a change of the core by a word that the issue leaves as it was. -/
theorem exec_sdr_issues {s : State} {c : Nat} {w : W32} (h : issues s c 0x38 w = true) :
    Completes (exec (.sdr c) s) (Ran c ((s.core c).pc + 1) ((s.core c).setS (dOf w) (BitVec.ofNat 64 (s.sundialOf (pavOf c)))) s) := by
  obtain ⟨t, ht, u, hu, rfl⟩ := keeperOp_goes (reads := readsNone)
    (body := fun c w s => .goes (s.updCore c (putS (dOf w) 1 (BitVec.ofNat 64 (s.sundialOf (pavOf c))))) 1)
    (f := fun u => u.updCore c (putS (dOf w) 1 (BitVec.ofNat 64 (s.sundialOf (pavOf c))))) (occ := 1) h fun u hu => by rw [hu.sundialOf]
  exact ⟨_, ht, ran_onlyCore hu (pc_of_issues h) fun k hk => ⟨setS_body hk _ _, putS_regs _ _ _ _⟩⟩

/-- Settles O1: SDR apart, each instruction's result is a function of the scalar and address registers (`keeperOp_putS`). -/
theorem scalarInstructionsWriteTheirResult : Obligations.ScalarInstructionsWriteTheirResult := by
  intro s c w k x y imm runs
  refine ⟨fun h => ?_, fun h => exec_alu_issues h, fun h => ?_, fun h => ?_, fun h => ?_, fun h => ?_, fun h => ?_, fun h => ?_,
    fun h => ?_, fun h => ?_, fun h => exec_sdr_issues h⟩
  · exact keeperOp_onlyCore h fun l hl => ⟨hl, rfl⟩
  · exact keeperOp_putS h fun l hl => by rw [sReg_of_body hl]
  · exact keeperOp_putS h fun l hl => by rw [sReg_of_body hl]
  · exact keeperOp_putS h fun l hl => by rw [sReg_of_body hl]
  · exact keeperOp_putS h fun l hl => by rw [sReg_of_body hl]
  · exact keeperOp_putS h fun l hl => by rw [sReg_of_body hl]
  · exact keeperOp_putS h fun l hl => rfl
  · exact keeperOp_putS h fun l hl => by rw [sReg_of_body hl]
  · exact keeperOp_putS h fun l hl => by rw [aReg_of_body hl]

/-- Settles O2, as O1, for predicates and address registers; CDROP empties a slot of its own core. -/
theorem predicateAndAddressInstructionsWriteTheirResult : Obligations.PredicateAndAddressInstructionsWriteTheirResult := by
  intro s c w k x runs
  refine ⟨fun h => ?_, fun h => ?_, fun h => ?_, fun h => ?_, fun h => ?_, fun h => ?_, fun h => ?_⟩
  · exact keeperOp_putP h fun l hl => by rw [sReg_of_body hl, sReg_of_body hl]
  · exact keeperOp_putP h fun l hl => by rw [sReg_of_body hl]
  · exact keeperOp_putP h fun l hl => by rw [pReg_of_body hl, pReg_of_body hl]
  · exact keeperOp_putA h fun l hl => by rw [aReg_of_body hl]
  · exact keeperOp_putA h fun l hl => by rw [aReg_of_body hl, sReg_of_body hl]
  · exact keeperOp_putA h fun l hl => by rw [sReg_of_body hl]
  · exact keeperOp_onlyCore h fun l hl => ⟨setSlot_body hl _ _, rfl⟩

/-! ### Branches and waits -/

theorem Ran.pc_eq {c pc : Nat} {k : Core} {s u : State} (h : Ran c pc k s u) : (u.core c).pc = pc := h.2.2.2

theorem Ran.branchTarget {c : Nat} {s u : State} (h : Ran c (s.core c).pc (s.core c) s u) (w : W32) :
    Machine.branchTarget w (u.core c) = Machine.branchTarget w (s.core c) := by
  unfold Machine.branchTarget
  rw [h.pc_eq]

/-- A change of the core's body after an issue. -/
theorem Ran.updCore {c pc : Nat} {k l : Core} {s u : State} {f : Core → Core} (h : Ran c pc k s u)
    (hf : (f (u.core c)).body = l.body ∧ (f (u.core c)).regs = (u.core c).regs) : Ran c pc l s (u.updCore c f) := by
  obtain ⟨honly, -, hkp, hpc⟩ := h
  refine ⟨honly.trans (onlyCore_updCore _ _ _), ?_, ?_, ?_⟩ <;> rw [State.updCore_same]
  · exact hf.1
  · exact hkp.trans (KpSame.of_regs hf.2)
  · exact (pc_of_regs hf.2).trans hpc

/-- Settles O4: BR, CALL and JR by `keeperOp_jumps` and `keeperOp_jump_faults`, HALT by `keeperOp_halts`. -/
theorem branchesGoToTheirTarget : Obligations.BranchesGoToTheirTarget := by
  intro s c w k target
  refine ⟨fun h h0 h1 => ?_, fun h h0 h1 => ?_, fun h hx => ?_, fun ht => ⟨fun h => ?_, fun h => ?_⟩, fun h hx => ?_, fun h => ?_⟩ <;>
    dsimp only [exec]
  · refine keeperOp_jumps h h0 h1 fun u hu => ⟨u, ?_, hu⟩
    rw [hu.branchTarget]
    rfl
  · refine keeperOp_jumps h h0 h1 fun u hu =>
      ⟨u.updCore c fun k => putS 31 1 (BitVec.ofNat 64 (k.pc * 4 + 4)) k, ?_, hu.updCore ⟨?_, putS_regs _ _ _ _⟩⟩
    · rw [hu.branchTarget]
      rfl
    · rw [putS_body, hu.pc_eq]
      exact setS_body hu.2.1 _ _
  · have ht : (((k.sReg (aOf w)).toNat / 4 * 4 : Nat) : Int).toNat / 4 = (k.sReg (aOf w)).toNat / 4 := by omega
    rw [← ht]
    refine keeperOp_jumps h (by omega) (by omega) fun u hu => ⟨u, ?_, hu⟩
    rw [hu.sReg]
  · refine keeperOp_jump_faults h ht (f := id) fun u hu => ?_
    rw [hu.branchTarget]
    rfl
  · refine keeperOp_jump_faults h ht (f := fun u => u.updCore c fun k => putS 31 1 (BitVec.ofNat 64 (k.pc * 4 + 4)) k) fun u hu => ?_
    rw [hu.branchTarget]
    rfl
  · refine keeperOp_jump_faults h (f := id) (target := ((k.sReg (aOf w)).toNat / 4 * 4 : Nat)) (.inr (by omega)) fun u hu => ?_
    rw [hu.sReg]
    rfl
  · exact keeperOp_halts h fun u hu => rfl

theorem updCore_congr {s : State} {c : Nat} {f g : Core → Core} (h : f (s.core c) = g (s.core c)) : s.updCore c f = s.updCore c g := by
  unfold State.updCore
  rw [h]

/-- Two changes that agree at the core as it is are one change: a body that changes its own core. -/
theorem goes_updCore {s : State} {c occ : Nat} {f g : Core → Core} (h : f (s.core c) = g (s.core c)) :
    KOut.goes (s.updCore c f) occ = KOut.goes (s.updCore c g) occ := by rw [updCore_congr h]

theorem wait_updCore {s : State} {c : Nat} {f g : Core → Core} (h : f (s.core c) = g (s.core c)) :
    KOut.wait (s.updCore c f) = KOut.wait (s.updCore c g) := by rw [updCore_congr h]

@[simp] theorem sReg_setF (k : Core) (f : Fld) (v i : Nat) : (k.setF f v).sReg i = k.sReg i := rfl

/-- A wait instruction's kind and timeout are read as they stood before the issue. -/
theorem waitOp_waits {op c : Nat} {reads : W32 → List Nat} {s : State} {w : W32} {kind : W32 → WaitKind} (h : issues s c op w = true) :
    Completes (keeperOp op reads (waitOp kind) c s)
      (Then c (fun u => u.updCore c (Core.startWait (kind w) (dOf w) ((s.core c).sReg (aOf w)).toNat)) s) :=
  keeperOp_waits h fun u hu => wait_updCore (by rw [hu.sReg])

/-- Settles O5: the waits of `waitOp` by `waitOp_waits`, the others by `keeperOp_waits`. -/
theorem waitInstructionsBeginToWait : Obligations.WaitInstructionsBeginToWait := by
  intro s c w k x waits
  refine ⟨fun h => ?_, fun h => ?_, fun h => ?_, fun h => ?_, fun h => ?_, ?_, ?_⟩ <;> dsimp only [exec, waits]
  · exact waitOp_waits h
  · exact waitOp_waits h
  · exact keeperOp_waits h fun u hu => wait_updCore (by rw [hu.sReg])
  · exact keeperOp_waits h fun u hu => wait_updCore (by rw [hu.sReg])
  · exact waitOp_waits h
  · intro halign hin h
    refine keeperOp_waits h fun u hu => ?_
    simp only [hu.aReg, k, halign, hin, decide_true, Bool.and_self, if_true]
    exact wait_updCore (by rw [hu.sReg, hu.sReg])
  · intro hmem h
    refine keeperOp_waits h fun u hu => ?_
    simp only [hu.member, k, hmem, Bool.not_true, Bool.false_eq_true, if_false]
    refine wait_updCore ?_
    split <;> rw [sReg_setF, hu.sReg]

/-! ### Reading the scratchpad -/

@[simp] theorem taint_cores (s : State) (g reason : Nat) : (s.taint g reason).cores = s.cores := by
  unfold State.taint
  split
  · rfl
  split
  · rfl
  split <;> rfl

@[simp] theorem taintOpt_cores (s : State) (g : Option Nat) (reason : Nat) : (s.taintOpt g reason).cores = s.cores := by
  cases g
  · rfl
  · exact taint_cores _ _ _

@[simp] theorem coreUe_cores (s : State) (c op : Nat) : (s.coreUe c op).cores = s.cores := taintOpt_cores _ _ _

@[simp] theorem noteWords_cores (s : State) (c : Nat) (ws : List Nat) : (s.noteWords c ws).cores = s.cores := by
  unfold State.noteWords
  split
  · rfl
  split <;> rfl

theorem core_congr {s t : State} (h : t.cores = s.cores) (c : Nat) : t.core c = s.core c := by unfold State.core; rw [h]

@[simp] theorem updPav_core (s : State) (p : Nat) (f : Pav → Pav) (c : Nat) : (s.updPav p f).core c = s.core c := rfl

/-- A read of the scratchpad leaves in its core all but the words that wait to be written back. -/
theorem spadTouch_core (s : State) (c off n op : Nat) : (s.spadTouch c off n op).core c =
    { s.core c with spadWb := ((s.core c).spadCe.filter (wordIn off n)).foldl (fun l w => sins w l) (s.core c).spadWb } := by
  unfold State.spadTouch
  dsimp only
  split
  next h =>
    rw [Bool.and_eq_true, List.isEmpty_iff] at h
    rw [h.1]
    rfl
  · split
    · rw [updPav_core, State.updCore_same]
    · rw [core_congr (coreUe_cores _ _ _), core_congr (noteWords_cores _ _ _), updPav_core, State.updCore_same]

/-- A read of words without errors does nothing beside returning their bytes. -/
theorem spadTouch_clean {s : State} {c off n op : Nat} (h : (s.core c).clean off n = true) : s.spadTouch c off n op = s := by
  unfold Core.clean at h
  simp only [Bool.and_eq_true, Bool.not_eq_true', List.any_eq_false] at h
  unfold State.spadTouch
  dsimp only
  rw [List.filter_eq_nil_iff.2 h.1, List.filter_eq_nil_iff.2 h.2]
  rfl

theorem spadTouch_spad (s : State) (c off n op : Nat) : ((s.spadTouch c off n op).core c).spad = (s.core c).spad := by
  rw [spadTouch_core]

/-! ### Flags, sends, credits and queues -/

/-- Settles O8: each body goes on after a change that reads registers as they stood before the issue (`keeperOp_goes`). -/
theorem flagsSendsAndRegisterAccess : Obligations.FlagsSendsAndRegisterAccess := by
  intro s c w k x does
  refine ⟨fun h => ?_, fun hi h => ?_, fun hi h => ?_, fun h => ?_, fun h => ?_, fun hx h => ?_,
    fun halign hin hstate hoff hlen h => ?_⟩ <;> dsimp only [exec]
  · exact keeperOp_goes h fun u hu => rfl
  · have h0 : immOf w / 2048 = 0 := by omega
    exact keeperOp_goes h fun u hu => goes_updCore (by simp only [h0, Nat.zero_ne_one, if_false])
  · have hlt : immOf w < 4096 := Nat.mod_lt _ (by decide)
    have h1 : immOf w / 2048 = 1 := by omega
    exact keeperOp_goes h fun u hu => goes_updCore (by simp only [h1, if_true, hu.sReg, x, k])
  · exact keeperOp_goes h fun u hu => rfl
  · exact keeperOp_goes h fun u hu => goes_updCore (by dsimp only; rw [hu.sReg])
  · have hd : s.lcore c x = some x.toNat := if_pos hx
    refine keeperOp_goes h fun u hu => ?_
    simp only [hu.lcore, hu.sReg, show (s.core c).sReg (aOf w) = x from rfl, hd]
  · refine keeperOp_goes (f := fun u => (u.spadTouch c (k.aReg (aOf w)).toNat (8 * (fnOf w % 16 + 1)) 0x102D).updCore c fun l => l.send _) h
      fun u hu => ?_
    simp only [hu.aReg, hu.sReg, hu.slot, show (s.core c) = k from rfl, halign, hin, hstate, hoff]
    rw [if_neg (by decide), if_neg (by simpa using hlen)]
    refine goes_updCore ?_
    unfold Core.spadRead
    rw [spadTouch_spad, hu.spad]

/-- Settles O9, as O8; a request is checked against the garden of the core, which the issue leaves as it was. -/
theorem creditInstructions : Obligations.CreditInstructions := by
  intro s c w k p n does
  refine ⟨fun hn h => ?_, fun hn h256 hbase hin hopen hclosing h => ?_, fun hn h => ?_, fun hslot hlt hrsv hdest h => ?_⟩ <;>
    dsimp only [exec] <;> refine keeperOp_goes h fun u hu => ?_
  · simp only [hu.sReg, hu.pool, show (s.core c).sReg (bOf w) = BitVec.ofNat 64 n by simp [n, k], hn]
    rfl
  · have hin1 : inSpad (k.aReg (aOf w)).toNat 1 = true := by
      simp only [inSpad, decide_eq_true_eq] at hin ⊢
      omega
    simp only [hu.sReg, hu.aReg, hu.pool, show s.core c = k from rfl, show k.pool (dOf w) = p from rfl,
      show (k.sReg (bOf w)).toNat = n from rfl, hn, h256, hbase, hin, hin1, hopen, hclosing]
    rfl
  · simp only [hu.sReg, hu.pool, show s.core c = k from rfl, show k.pool (dOf w) = p from rfl,
      show (k.sReg (bOf w)).toNat = n from rfl, if_neg (Nat.not_lt.2 hn)]
  · have h23 : n / 2 ^ 23 = 0 := Nat.div_eq_of_lt hlt
    have hd : s.lcore c (k.sReg (aOf w)) = some (k.sReg (aOf w)).toNat := if_pos hdest
    simp only [hu.sReg, hu.slot, hu.lcore, show s.core c = k from rfl, show (k.sReg (bOf w)).toNat = n from rfl, hslot, h23, hrsv, hd]
    exact ite_cond_eq_false _ _ (by simp)

/-- An issue to a queue finds the descriptor and the queue as they stood before it. -/
theorem keeperOp_queueIssue {op c : Nat} {reads : W32 → List Nat} {s : State} {w : W32} {unit : QUnit} {scale : Int}
    (h : issues s c op w = true) (hdesc : (s.core c).descOk unit ((s.core c).addr (aOf w) (simmOf w * scale)) = true) :
    (((s.core c).queue unit).length < 16 → Completes (keeperOp op reads (queueIssue unit scale) c s)
      (Then c (fun u => (u.reserve c unit ((s.core c).addr (aOf w) (simmOf w * scale)) op).updCore c (Core.goOn 1)) s)) ∧
    (16 ≤ ((s.core c).queue unit).length → Completes (keeperOp op reads (queueIssue unit scale) c s)
      (Then c (fun u => u.updCore c (Core.startWait
        (.queueFull (match unit with | .cube => 0 | .chain => 1 | .port => 2) ((s.core c).addr (aOf w) (simmOf w * scale))) 0 0)) s)) := by
  refine ⟨fun hlt => keeperOp_goes h fun u hu => ?_, fun hle => keeperOp_waits h fun u hu => ?_⟩ <;>
    simp only [queueIssue, hu.addr, hu.descOk, hu.queue, hdesc, opOf_of_issues h, Bool.not_true, Bool.false_eq_true, if_false]
  · rw [if_neg (Nat.not_le.2 hlt)]
  · rw [if_pos hle]
    cases unit <;> rfl

/-- Settles O10: the three issues by `keeperOp_queueIssue`. -/
theorem queueInstructionsReserveOrStall : Obligations.QueueInstructionsReserveOrStall :=
  fun _ _ _ => ⟨keeperOp_queueIssue, keeperOp_queueIssue, keeperOp_queueIssue, fun _ hc => if_pos hc⟩

/-! ### Loads and stores -/

@[simp] theorem leBytes_length (n v : Nat) : (leBytes n v).length = n := by
  induction n generalizing v with
  | zero => rfl
  | succ n ih => rw [leBytes, List.length_cons, ih]

theorem get_writeBytes_outside (bs : List Byte) {a b : Nat} (m : FMap Byte) (h : b < a ∨ a + bs.length ≤ b) :
    Fm.get 0 b (writeBytes a bs m) = Fm.get 0 b m := by
  induction bs generalizing a m with
  | nil => rfl
  | cons x bs ih =>
    rw [List.length_cons] at h
    rw [writeBytes, ih _ (by omega), Fm.get_set_other _ (by omega)]

theorem readBytes_writeBytes (bs : List Byte) (a : Nat) (m : FMap Byte) : readBytes (writeBytes a bs m) a bs.length = bs := by
  induction bs generalizing a m with
  | nil => rfl
  | cons x bs ih => rw [List.length_cons, readBytes, writeBytes, ih, get_writeBytes_outside _ _ (.inl (by omega)), Fm.get_set_same]

theorem spadRead_spadWrite (k : Core) (a : Nat) (bs : List Byte) : (k.spadWrite a bs).spadRead a bs.length = bs := readBytes_writeBytes bs a k.spad

@[simp] theorem sReg_goOn (k : Core) (occ i : Nat) : (k.goOn occ).sReg i = k.sReg i := rfl
@[simp] theorem spad_goOn (k : Core) (occ : Nat) : (k.goOn occ).spad = k.spad := rfl

@[simp] theorem spad_putS (d lat : Nat) (v : Word) (k : Core) : (putS d lat v k).spad = k.spad := by
  unfold putS Core.readyIn Core.setS
  split <;> rfl

theorem sReg_putS (d lat : Nat) (v : Word) (k : Core) : (putS d lat v k).sReg d = if d = 0 then 0 else v := sReg_setS k d v

theorem spadWrite_body {k l : Core} (h : k.body = l.body) (a : Nat) (bs : List Byte) : (k.spadWrite a bs).body = (l.spadWrite a bs).body := by
  rw [body_ext h]
  rfl

section
variable {op n c a : Nat} {reads : W32 → List Nat} {s : State} {w : W32} (h : issues s c op w = true) (ha : lsAddr n w (s.core c) = some a)
include h ha

/-- A load returns the bytes of the scratchpad; where they are clean, that is all it does. -/
theorem keeperOp_loads : Completes (keeperOp op reads (loadOp n) c s) fun t =>
    (t.core c).sReg (dOf w) = (if dOf w = 0 then 0 else BitVec.ofNat 64 (leVal ((s.core c).spadRead a n))) ∧
    (∀ b, Fm.get 0 b (t.core c).spad = Fm.get 0 b (s.core c).spad) ∧
    ((s.core c).clean a n = true →
      Ran c ((s.core c).pc + 1) ((s.core c).setS (dOf w) (BitVec.ofNat 64 (leVal ((s.core c).spadRead a n)))) s t) := by
  have hread {k : Core} (hk : k.spad = (s.core c).spad) : k.spadRead a n = (s.core c).spadRead a n := by
    unfold Core.spadRead
    rw [hk]
  obtain ⟨t, ht, u, hu, rfl⟩ := keeperOp_goes (reads := reads) (body := loadOp n)
    (f := fun u => (u.spadTouch c a n (0x1000 + opOf w)).updCore c fun k => putS (dOf w) 7 (BitVec.ofNat 64 (leVal (k.spadRead a n))) k)
    (occ := 1) h fun u hu => by simp only [loadOp, hu.lsAddr, ha]
  refine ⟨_, ht, ?_, fun b => ?_, fun hclean => ?_⟩
  · rw [State.updCore_same, State.updCore_same, sReg_goOn, sReg_putS, hread (by rw [spadTouch_spad, hu.spad])]
  · rw [State.updCore_same, State.updCore_same, spad_goOn, spad_putS, spadTouch_spad, hu.spad]
  · dsimp only
    rw [spadTouch_clean (by rw [hu.clean, hclean])]
    refine ran_onlyCore hu (pc_of_issues h) fun k hk => ⟨?_, putS_regs _ _ _ _⟩
    rw [putS_body, hread (by rw [body_ext hk])]
    exact setS_body hk _ _

/-- A store changes the bytes it names. -/
theorem keeperOp_stores : Completes (keeperOp op reads (storeOp n) c s) fun t =>
    Ran c ((s.core c).pc + 1) ((s.core c).spadWrite a (leBytes n ((s.core c).sReg (dOf w)).toNat)) s t ∧
    (t.core c).spadRead a n = leBytes n ((s.core c).sReg (dOf w)).toNat ∧
    ∀ b, (b < a ∨ a + n ≤ b) → Fm.get 0 b (t.core c).spad = Fm.get 0 b (s.core c).spad := by
  obtain ⟨t, ht, u, hu, rfl⟩ := keeperOp_goes (reads := reads) (body := storeOp n)
    (f := fun u => u.updCore c fun k => k.spadWrite a (leBytes n (k.sReg (dOf w)).toNat)) (occ := 1) h fun u hu => by
      simp only [storeOp, hu.lsAddr, ha]
  have hran := ran_onlyCore (occ := 1) hu (pc_of_issues h) (f := fun k => k.spadWrite a (leBytes n (k.sReg (dOf w)).toNat))
    (l := (s.core c).spadWrite a (leBytes n ((s.core c).sReg (dOf w)).toNat)) fun k hk =>
      ⟨by rw [sReg_of_body hk]; exact spadWrite_body hk _ _, rfl⟩
  have hspad := hran.spad
  refine ⟨_, ht, hran, ?_, fun b hb => ?_⟩
  · have := spadRead_spadWrite (s.core c) a (leBytes n ((s.core c).sReg (dOf w)).toNat)
    rw [leBytes_length] at this
    rw [hran.spadRead, this]
  · rw [hspad]
    exact get_writeBytes_outside _ _ (by rw [leBytes_length]; exact hb)

end

/-- Settles O3: two widths each of `keeperOp_loads` and `keeperOp_stores`. -/
theorem loadsAndStoresMoveTheirBytes : Obligations.LoadsAndStoresMoveTheirBytes :=
  fun _ _ _ _ => ⟨keeperOp_loads, keeperOp_loads, keeperOp_stores, keeperOp_stores⟩

/-! ### KP_STATUS, faults, the end of a wait -/

section
variable (k : Core)

theorem Core.getF_setF_same {f : Fld} (h : f.lo + f.w ≤ 64) (v : Nat) : (k.setF f v).getF f = v % 2 ^ f.w := Machine.getF_setF_same f v _ h

theorem Core.getF_setF_other {f g : Fld} (h : f.lo + f.w ≤ 64) (hd : g.off ≠ f.off ∨ (g.blk = f.blk ∧ (g.lo + g.w ≤ f.lo ∨ f.lo + f.w ≤ g.lo)))
    (v : Nat) : (k.setF f v).getF g = k.getF g := Machine.getF_setF_other f g v _ h hd

theorem Core.getF_lt (f : Fld) : k.getF f < 2 ^ f.w := Machine.getF_lt f k.regs

theorem Core.getF_of_regs {l : Core} (h : l.regs = k.regs) (f : Fld) : l.getF f = k.getF f := by
  unfold Core.getF
  rw [h]

theorem startWait_regs (kind : WaitKind) (d t : Nat) :
    (k.startWait kind d t).regs = ((k.setF Reg.KP_STATUS_STATE 2).setF Reg.KP_STATUS_WAIT (waitCode kind)).regs := rfl

theorem goOn_eq (occ : Nat) : k.goOn occ = (k.setF Reg.KP_STATUS_PC (k.pc + 1)).setF Reg.KP_CYCLES_CYCLES (k.cycles + occ) := rfl

theorem endWait_regs (n : Nat) : (k.endWait n).regs = (((k.setF Reg.KP_STATUS_STATE 1).setF Reg.KP_STATUS_WAIT 0).goOn (n + 1)).regs := rfl

theorem fault_regs (x : Nat) : (k.fault x).regs =
    (((k.setF Reg.KP_STATUS_FAULT x).setF Reg.KP_STATUS_STATE 3).setF Reg.KP_STATUS_WAIT 0).regs := rfl

theorem waitCode_lt (kind : WaitKind) : waitCode kind < 16 := by cases kind <;> simp [waitCode]

theorem cycles_lt : k.cycles < 2 ^ 64 := Core.getF_lt k Reg.KP_CYCLES_CYCLES

theorem cycles_interlock (l : List Nat) :
    (k.interlock l).cycles = (l.foldl (fun m r => max m (Fm.get 0 r k.ready)) k.cycles) % 2 ^ 64 := by
  unfold Core.interlock
  dsimp only
  split
  next h => rw [h, Nat.mod_eq_of_lt (cycles_lt k)]
  · exact k.getF_setF_same (f := Reg.KP_CYCLES_CYCLES) (by decide) _

end

/-- The greatest of a list's values is at least each of them, and within any bound of them all. -/
theorem le_foldl_max (f : Nat → Nat) (l : List Nat) (a : Nat) :
    a ≤ l.foldl (fun m r => max m (f r)) a ∧ ∀ r ∈ l, f r ≤ l.foldl (fun m r => max m (f r)) a := by
  induction l generalizing a with
  | nil => exact ⟨Nat.le_refl _, fun _ h => absurd h List.not_mem_nil⟩
  | cons x l ih =>
    obtain ⟨hle, hall⟩ := ih (max a (f x))
    refine ⟨Nat.le_trans (Nat.le_max_left _ _) hle, fun r hr => ?_⟩
    rcases List.mem_cons.1 hr with rfl | hr
    · exact Nat.le_trans (Nat.le_max_right _ _) hle
    · exact hall r hr

theorem foldl_max_lt (f : Nat → Nat) (b : Nat) (l : List Nat) (a : Nat) (ha : a < b) (hl : ∀ r ∈ l, f r < b) :
    l.foldl (fun m r => max m (f r)) a < b := by
  induction l generalizing a with
  | nil => exact ha
  | cons x l ih => exact ih _ (Nat.max_lt.2 ⟨ha, hl x List.mem_cons_self⟩) fun r hr => hl r (List.mem_cons_of_mem _ hr)

/-- Settles O7: the fields of KP_STATUS are apart from each other and from KP_CYCLES. -/
theorem keeperStatusFollowsWaitsAndFaults : Obligations.KeeperStatusFollowsWaitsAndFaults := by
  intro k kind d t n x l a b f
  have ha := Core.getF_of_regs _ (startWait_regs k kind d t)
  have hb := Core.getF_of_regs _ (endWait_regs k n)
  have hf := Core.getF_of_regs _ (fault_regs k x)
  refine ⟨⟨?_, ?_, ?_, ?_, rfl⟩, ⟨?_, ?_, ?_, ?_, rfl⟩, fun hx => ⟨?_, ?_, ?_, ?_, rfl, ?_⟩, cycles_interlock k l, fun h r hr => ?_⟩
  case refine_14 =>
    rw [cycles_interlock, Nat.mod_eq_of_lt (foldl_max_lt (Fm.get 0 · k.ready) _ l _ (cycles_lt k) h)]
    exact (le_foldl_max (Fm.get 0 · k.ready) l _).2 r hr
  all_goals simp (disch := decide) only [Core.pc, Core.cycles, a, b, f, ha, hb, hf, goOn_eq, Core.getF_setF_same, Core.getF_setF_other]
  case refine_2 => exact Nat.mod_eq_of_lt (waitCode_lt kind)
  case refine_10 => exact Nat.mod_eq_of_lt hx
  all_goals rfl

/-- A keeper that fetches a word of this opcode, well encoded. -/
theorem keeperOp_fetched {op c : Nat} {reads : W32 → List Nat} {body : Nat → W32 → State → KOut} {s : State} {w : W32}
    (hc : c < Config.coreSites) (hruns : s.keeperRuns c = true) (hfetch : (s.core c).fetch = some w) (hop : opOf w = op)
    (henc : encCause w = none) : keeperOp op reads body c s =
      .next (if (s.core c).pReg (prOf w) = pnOf w then
          if (s.core c).pc = 0x1FFF then s.faulted c 4 else (s.updCore c Core.corrected).updCore c (Core.goOn 1)
        else keeperAfter c (s.updCore c Core.corrected) (decide ((s.core c).pc = 0x1FFF)) (body c w (s.issued c (rP (prOf w) :: reads w)))) := by
  unfold keeperOp onCore keeperExec
  rw [if_pos hc]
  simp only [hruns, hfetch, hop, henc, Bool.not_true, Bool.false_eq_true, if_false, ne_eq, not_true_eq_false, false_and]
  rfl

theorem ran_corrected_goOn {s : State} {c : Nat} (hpc : (s.core c).pc ≠ 0x1FFF) :
    Ran c ((s.core c).pc + 1) (s.core c) s ((s.updCore c Core.corrected).updCore c (Core.goOn 1)) := by
  obtain ⟨hbody, hkp, hsame⟩ := corrected_facts (s.core c)
  have hlt : (s.core c).pc + 1 < 0x2000 := by have := pc_lt (s.core c); omega
  obtain ⟨hgb, hgk, hgp⟩ := goTo_facts ((s.core c).pc + 1) 1 hlt (s.core c).corrected
  have hgo : (s.core c).corrected.goOn 1 = (s.core c).corrected.goTo ((s.core c).pc + 1) 1 := by unfold Core.goOn; rw [hsame]
  refine ⟨(onlyCore_updCore _ _ _).trans (onlyCore_updCore _ _ _), ?_, ?_, ?_⟩ <;>
    rw [State.updCore_same, State.updCore_same, hgo]
  · exact hgb.trans hbody
  · exact hkp.trans hgk
  · exact hgp

/-- Settles O12, by the branches of the keeper's cycle (`keeperOp_fetched`). -/
theorem keeperFaultsAndPredicates : Obligations.KeeperFaultsAndPredicates := by
  intro s c op reads body hc hruns k
  refine ⟨fun hfetch => ?_, fun w x hfetch hop henc => ?_, fun w hfetch hop henc hoff hpc => ?_, fun w hfetch hop henc hpc hlast => ?_,
    fun w hw hon x hbody => ?_⟩
  · unfold keeperOp onCore keeperExec
    rw [if_pos hc]
    simp only [hruns, show (s.core c).fetch = none from hfetch, Bool.not_true, Bool.false_eq_true, if_false]
  · have hskip : ¬(opOf w ≠ op ∧ (opForm (opOf w)).isSome) := by rcases hop with hop | hop <;> simp [hop]
    unfold keeperOp onCore keeperExec
    rw [if_pos hc]
    simp only [hruns, show (s.core c).fetch = some w from hfetch, henc, if_neg hskip, Bool.not_true, Bool.false_eq_true, if_false]
    rfl
  · rw [keeperOp_fetched hc hruns hfetch hop henc, if_pos hoff, if_neg hpc]
    exact ⟨_, rfl, ran_corrected_goOn hpc⟩
  · rw [keeperOp_fetched hc hruns hfetch hop henc, if_pos (show (s.core c).pc = 0x1FFF from hpc)]
    rcases hlast with hoff | hgoes
    · rw [if_pos hoff]
    · obtain ⟨t, n, ht⟩ := hgoes (s.issued c (rP (prOf w) :: reads w))
      rw [ht, show decide ((s.core c).pc = 0x1FFF) = true from decide_eq_true hpc]
      split <;> rfl
  · have hissues : issues s c op w = true := by
      rw [issues, hw, Bool.true_and]
      exact decide_eq_true hon
    rw [keeperOp_issues hissues, hbody _ (issued_ran _ _ _)]
    rfl

/-- What an answer of the model says of one core's change: it may be read at the core as it is. -/
theorem next_updCore {s : State} {c : Nat} {f g : Core → Core} (h : f (s.core c) = g (s.core c)) :
    (.next (s.updCore c f) : Res) = .next (s.updCore c g) := by rw [updCore_congr h]

/-- Settles O6: each event is a change of its core, which its wait decides (`next_updCore`). -/
theorem waitsEnd : Obligations.WaitsEnd := by
  intro s c hc hon k d answers
  refine ⟨fun n hk => ?_, fun n htimed hflag hholds hn => ?_, fun n f hk hholds hn => ?_, fun n u hk hu => ?_, fun htimed hholds => ?_,
    fun a cond w32 ref hk hclean => ?_, fun u addr hk hlt hdesc => ?_⟩ <;> dsimp only [exec, answers]
  · unfold execDelayExpire onCore
    rw [if_pos hc]
    simp only [hon, show (s.core c).wait.kind = _ from hk, if_true]
  · have hn : n ≤ (s.core c).wait.timeout := hn
    unfold execWaitSuccess onCore
    rw [if_pos hc]
    cases hk : (s.core c).wait.kind with
    | flag f clr =>
      cases clr
      · simp only [hon, hholds, hn, hk, Bool.not_true, Bool.or_self, Bool.false_eq_true, if_false, decide_true]
        exact next_updCore (by simp only [hk, timedWait, k, d, if_true])
      · exact absurd hk (hflag f)
    | bell | grant | queueIdle =>
      simp only [hon, hholds, hn, hk, Bool.not_true, Bool.or_self, Bool.false_eq_true, if_false, decide_true]
      exact next_updCore (by simp only [hk, timedWait, k, d, if_true])
    | _ => simp [k, hk, timedWait] at htimed
  · have hn : n ≤ (s.core c).wait.timeout := hn
    unfold execWaitSuccess onCore
    rw [if_pos hc]
    simp only [hon, hholds, hn, show (s.core c).wait.kind = _ from hk, Bool.not_true, Bool.or_self, Bool.false_eq_true, if_false, decide_true]
    refine next_updCore ?_
    have htimed : timedWait (Core.clearFlags (2 ^ f) (s.core c)).wait.kind = true := by
      rw [show (Core.clearFlags (2 ^ f) (s.core c)).wait.kind = _ from hk]
      rfl
    simp only [show (s.core c).wait.kind = _ from hk, htimed, if_true]
    rfl
  · unfold execWaitSuccess onCore
    rw [if_pos hc]
    have hholds : s.waitHolds c = true := by
      unfold State.waitHolds
      simp only [show (s.core c).wait.kind = _ from hk]
      exact decide_eq_true hu
    simp only [hon, hholds, show (s.core c).wait.kind = _ from hk, Bool.not_true, Bool.or_self, Bool.false_eq_true, if_false]
    exact next_updCore (by simp only [show (s.core c).wait.kind = _ from hk, timedWait, Bool.false_eq_true, if_false])
  · unfold execWaitTimeout onCore
    rw [if_pos hc]
    simp only [hon, hholds, show timedWait (s.core c).wait.kind = _ from htimed, Bool.not_true, Bool.or_self, Bool.false_eq_true, if_false]
    exact next_updCore rfl
  · unfold execWaitwPoll onCore
    rw [if_pos hc]
    simp only [hon, show (s.core c).wait.kind = _ from hk, spadTouch_clean (show (s.core c).clean a _ = true from hclean),
      Bool.not_true, Bool.false_eq_true, if_false]
    refine ⟨fun hx => ?_, fun hx ht => ?_, fun hx ht => ?_⟩
    · rw [if_pos hx]
      exact next_updCore rfl
    · rw [if_neg (by rw [Bool.not_eq_true]; exact hx), if_pos ht]
      exact next_updCore rfl
    · rw [if_neg (by rw [Bool.not_eq_true]; exact hx), if_neg (Nat.not_lt.2 ht)]
  · unfold execQueueStallRelease onCore
    rw [if_pos hc]
    simp only [hon, show (s.core c).wait.kind = _ from hk]
    rw [if_neg (by simpa using hlt), if_neg (by simpa using hdesc)]

/-! ### RUN and core reset -/

section
variable (k : Core)

theorem startRun_eq (h : k.getF Reg.KP_CTRL_RUN = 0) : k.startRun =
    ((k.setF Reg.KP_CTRL_RUN 1).setF Reg.KP_STATUS_STATE 1).setF Reg.KP_STATUS_PC (k.getF Reg.KP_CTRL_ENTRY) :=
  if_neg (by rw [h]; decide)

theorem stopRun_eq (h : k.getF Reg.KP_CTRL_RUN = 1) (hstate : k.getF Reg.KP_STATUS_STATE ≠ 3) : k.stopRun =
    { ((k.setF Reg.KP_CTRL_RUN 0).setF Reg.KP_STATUS_STATE 0).setF Reg.KP_STATUS_WAIT 0 with wait := {} } := by
  unfold Core.stopRun
  rw [if_neg (by rw [h]; decide)]
  dsimp only
  rw [if_neg (by rwa [Core.getF_setF_other _ (by decide) (by decide)])]

theorem stopRun_regs (h : k.getF Reg.KP_CTRL_RUN = 1) (hstate : k.getF Reg.KP_STATUS_STATE ≠ 3) : k.stopRun.regs =
    (((k.setF Reg.KP_CTRL_RUN 0).setF Reg.KP_STATUS_STATE 0).setF Reg.KP_STATUS_WAIT 0).regs := by
  rw [stopRun_eq k h hstate]

theorem body_setF (f : Fld) (v : Nat) : (k.setF f v).body = k.body := rfl

theorem body_setWait (x : Wait) : Core.body { k with wait := x } = { k.body with wait := x } := rfl

theorem stopRun_body (h : k.getF Reg.KP_CTRL_RUN = 1) (hstate : k.getF Reg.KP_STATUS_STATE ≠ 3) :
    k.stopRun.body = { k.body with wait := {} } := by
  rw [stopRun_eq k h hstate, body_setWait, body_setF, body_setF, body_setF]

theorem reset_regs : k.reset.regs = Machine.setF Reg.KP_BELL_MEMBER (k.getF Reg.KP_BELL_MEMBER)
    (Machine.setF Reg.KP_CTRL_ENTRY (k.getF Reg.KP_CTRL_ENTRY) (setReg .kp 0x000 (getReg .kp 0x000 k.regs) [])) := rfl

theorem reset_entry : k.reset.getF Reg.KP_CTRL_ENTRY = k.getF Reg.KP_CTRL_ENTRY := by
  unfold Core.getF
  rw [reset_regs, Machine.getF_setF_other _ _ _ _ (by decide) (by decide), Machine.getF_setF_same _ _ _ (by decide)]
  exact Nat.mod_eq_of_lt (k.getF_lt Reg.KP_CTRL_ENTRY)

theorem reset_member : k.reset.getF Reg.KP_BELL_MEMBER = k.getF Reg.KP_BELL_MEMBER := by
  unfold Core.getF
  rw [reset_regs, Machine.getF_setF_same _ _ _ (by decide)]
  exact Nat.mod_eq_of_lt (k.getF_lt Reg.KP_BELL_MEMBER)

/-- Any other field of another register than the core's identity is at its reset value. -/
theorem reset_getF {f : Fld} (h0 : f.off ≠ 0) (hb : f.blk = .kp)
    (hentry : f.off ≠ Reg.KP_CTRL_ENTRY.off ∨ (f.lo + f.w ≤ 2 ∨ 15 ≤ f.lo)) (hmember : f.off ≠ Reg.KP_BELL_MEMBER.off) :
    k.reset.getF f = Machine.getF f [] := by
  unfold Core.getF
  rw [reset_regs, Machine.getF_setF_other _ _ _ _ (by decide) (.inl hmember),
    Machine.getF_setF_other _ _ _ _ (by decide) (hentry.imp_right fun h => ⟨hb, h⟩)]
  unfold Machine.getF
  rw [getReg_setReg_other _ _ h0]

end

/-- Settles O11, by what `Core.startRun`, `Core.stopRun`, `Core.seed` and `Core.reset` make of a core. -/
theorem runSeedAndCoreReset : Obligations.RunSeedAndCoreReset := by
  intro s c hc k
  refine ⟨fun hrun => ?_, fun hrun hstate => ?_, fun v => ?_, fun hmay => ?_, fun hmay => ?_⟩ <;> dsimp only [exec]
  · refine ⟨_, if_pos hc, onlyCore_updCore _ _ _, ?_⟩
    rw [State.updCore_same, startRun_eq _ hrun]
    refine ⟨rfl, ?_, ?_, ?_⟩ <;> simp (disch := decide) only [Core.pc, Core.getF_setF_same, Core.getF_setF_other]
    · rfl
    · rfl
    · exact Nat.mod_eq_of_lt (Core.getF_lt _ Reg.KP_CTRL_ENTRY)
  · refine ⟨_, if_pos hc, onlyCore_updCore _ _ _, ?_⟩
    have hregs := Core.getF_of_regs _ (stopRun_regs (s.core c) hrun hstate)
    rw [State.updCore_same]
    refine ⟨stopRun_body _ hrun hstate, ?_, ?_, ?_, ?_⟩ <;>
      simp (disch := decide) only [Core.pc, hregs, Core.getF_setF_same, Core.getF_setF_other]
    all_goals rfl
  · refine ⟨_, if_pos hc, onlyCore_updCore _ _ _, ?_⟩
    rw [State.updCore_same]
    exact ⟨rfl, getReg_setReg_same _ _ _ _⟩
  · unfold execCoreReset onCore
    dsimp only
    rw [if_pos hc, hmay, if_neg (by decide)]
  · unfold execCoreReset onCore
    dsimp only
    rw [if_pos hc, if_pos hmay]
    refine ⟨_, rfl, onlyCore_updCore _ _ _, ?_⟩
    rw [State.updCore_same]
    refine ⟨rfl, rfl, reset_entry _, reset_member _, (reset_getF _ (by decide) rfl (by decide) (by decide)).trans (by decide),
      (reset_getF _ (by decide) rfl (by decide) (by decide)).trans (by decide), fun i => ?_, fun i => rfl, fun i => ?_, rfl, rfl, rfl,
      (reset_getF _ (by decide) rfl (by decide) (by decide)).trans (by decide),
      (reset_getF _ (by decide) rfl (by decide) (by decide)).trans (by decide), rfl, rfl, rfl, rfl, rfl, rfl⟩
    · unfold Core.sReg
      split <;> rfl
    · exact Bool.or_false _

end Sys2Proof.Machine

/-! ## Cubes, chain unit and porter (R34-R115)

The three units of a core run the descriptors of its queues. Each of their commands is a case split over the head of a queue and the
checks of its descriptor; the conditions of a statement decide the case, and what is left is the change of one core. -/

namespace Sys2Proof.Machine

/-- What every step of a fold leaves as it was, the fold does. -/
theorem foldl_keeps {α β γ : Type} {f : α → β → α} {g : α → γ} (h : ∀ a b, g (f a b) = g a) (l : List β) (a : α) : g (l.foldl f a) = g a := by
  induction l generalizing a with
  | nil => rfl
  | cons b l ih => exact (ih (f a b)).trans (h a b)

/-- What one step of a fold brings about and every step keeps, holds after it. -/
theorem foldl_establishes {α β : Type} {f : α → β → α} {P : α → Prop} {b : β} (hset : ∀ a, P (f a b)) (hkeep : ∀ a c, P a → P (f a c))
    {l : List β} (hb : b ∈ l) (a : α) : P (l.foldl f a) := by
  have hkeeps (l : List β) (a : α) (h : P a) : P (l.foldl f a) := by
    induction l generalizing a with
    | nil => exact h
    | cons c l ih => exact ih _ (hkeep a c h)
  induction l generalizing a with
  | nil => cases hb
  | cons c l ih =>
    rcases List.mem_cons.1 hb with rfl | hb
    · exact hkeeps l _ (hset a)
    · exact ih hb _

/-- What a key holds once some keys are unlisted. -/
theorem Fm.get_filter_key {α : Type} (d : α) (p : Nat → Bool) (j : Nat) (m : FMap α) :
    Fm.get d j (m.filter fun e => p e.1) = if p j then Fm.get d j m else d := by
  induction m with
  | nil => split <;> rfl
  | cons e m ih =>
    obtain ⟨i, v⟩ := e
    by_cases hj : j = i
    · subst hj
      cases hp : p j <;> simp [hp, ih, Fm.get]
    · cases hi : p i <;> simp [hi, ih, Fm.get, hj]

theorem Fm.get_clearRange {α : Type} (d : α) {lo n j : Nat} (m : FMap α) (hlo : lo ≤ j) (hhi : j < lo + n) :
    Fm.get d j (Fm.clearRange lo n m) = d :=
  (Fm.get_filter_key d (fun i => decide (i < lo) || decide (lo + n ≤ i)) j m).trans
    (if_neg (by simp; omega))

theorem Fm.get_clearRange_default {α : Type} (d : α) (lo n : Nat) {j : Nat} {m : FMap α} (h : Fm.get d j m = d) :
    Fm.get d j (Fm.clearRange lo n m) = d := by
  refine (Fm.get_filter_key d (fun i => decide (i < lo) || decide (lo + n ≤ i)) j m).trans ?_
  split
  · exact h
  · rfl

/-! ### The cubes -/

/-- An error met in a tile leaves the cube's queue and what it runs. -/
theorem accUpset_cube (s : State) (c u op : Nat) : ((s.accUpset c u op).core c).cubeQ = (s.core c).cubeQ ∧
    ((s.accUpset c u op).core c).cubeRun = (s.core c).cubeRun := by
  unfold State.accUpset
  dsimp only
  split
  · rw [State.updCore_same]
    exact ⟨rfl, rfl⟩
  split
  · exact ⟨rfl, rfl⟩
  · have hcores : (((s.updCore c (Core.poisonTile (u % 256) true)).coreUeMark c op).core c) =
        (s.updCore c (Core.poisonTile (u % 256) true)).core c := core_congr (coreUe_cores _ _ _) c
    rw [hcores, State.updCore_same]
    exact ⟨rfl, rfl⟩

theorem accUpsets_cubeQ (c op : Nat) (us : List Nat) (s : State) :
    ((us.foldl (fun s u => s.accUpset c u op) s).core c).cubeQ = (s.core c).cubeQ :=
  foldl_keeps (g := fun s => (s.core c).cubeQ) (fun s u => (accUpset_cube s c u op).1) us s

theorem accUpsets_cubeRun (c op : Nat) (us : List Nat) (s : State) :
    ((us.foldl (fun s u => s.accUpset c u op) s).core c).cubeRun = (s.core c).cubeRun :=
  foldl_keeps (g := fun s => (s.core c).cubeRun) (fun s u => (accUpset_cube s c u op).2) us s

theorem spadTouches_cubeQ (c op : Nat) (rs : List (Nat × Nat)) (s : State) :
    ((rs.foldl (fun s r => s.spadTouch c r.1 r.2 op) s).core c).cubeQ = (s.core c).cubeQ :=
  foldl_keeps (g := fun s => (s.core c).cubeQ) (fun s r => by rw [spadTouch_core]) rs s

/-- Reads of a scratchpad without errors do nothing beside returning their bytes. -/
theorem spadTouches_clean {c op : Nat} {s : State} (hue : (s.core c).spadUe = []) (hce : (s.core c).spadCe = []) (rs : List (Nat × Nat)) :
    rs.foldl (fun s r => s.spadTouch c r.1 r.2 op) s = s := by
  induction rs with
  | nil => rfl
  | cons r rs ih => rw [List.foldl_cons, spadTouch_clean (by rw [Core.clean, hue, hce]; rfl), ih]

/-- A tile reads as zero and is not poisoned. -/
def Core.Zeroed (tile : Nat) (k : Core) : Prop := k.accPoison.contains tile = false ∧ ∀ e < 64, k.accElem tile e = 0

theorem mem_sdel {a b : Nat} {l : List Nat} : a ∈ sdel b l ↔ a ∈ l ∧ a ≠ b := by simp [sdel]

theorem zeroTile_zeroes (t : Nat) (k : Core) : (zeroTile t k).Zeroed t := by
  refine ⟨?_, fun e he => Fm.get_clearRange 0 k.acc ?_ ?_⟩
  · show (sdel t k.accPoison).contains t = false
    simp [List.contains_eq_mem, mem_sdel]
  · unfold accKey; omega
  · unfold accKey; omega

theorem zeroTile_keeps {t : Nat} {k : Core} (u : Nat) (h : k.Zeroed t) : (zeroTile u k).Zeroed t := by
  obtain ⟨hpoison, hzero⟩ := h
  refine ⟨?_, fun e he => Fm.get_clearRange_default 0 _ _ (hzero e he)⟩
  show (sdel u k.accPoison).contains t = false
  simp only [List.contains_eq_mem, decide_eq_false_iff_not, mem_sdel] at hpoison ⊢
  exact fun h => hpoison h.1

/-- The state after an accepted MMA: the errors its tiles meet come before it where it adds to them, and after its first visit otherwise. -/
def mmaTaken (c : Nat) (q : QSlot) (d : CubeDesc) (met : List Nat) (s : State) : State :=
  let s1 := if d.acc then met.foldl (fun s u => s.accUpset c u 0x2001) s else s
  let s2 := if (s.core c).spadUe.isEmpty && (s.core c).spadCe.isEmpty then s1
    else (mmaReads d).foldl (fun s r => s.spadTouch c r.1 r.2 0x2001) s1
  let s3 := s2.updCore c fun k =>
    { runMma d k with cubeQ := k.cubeQ.drop 1, cubeRun := some { slot := q, rejected := false, isZero := false } }
  if d.acc then s3 else met.foldl (fun s u => s.accUpset c u 0x2001) s3

theorem mmaTaken_queue (c : Nat) (q : QSlot) (d : CubeDesc) (met : List Nat) (s : State) :
    ((mmaTaken c q d met s).core c).cubeQ = (s.core c).cubeQ.drop 1 ∧
    ((mmaTaken c q d met s).core c).cubeRun = some { slot := q, rejected := false, isZero := false } := by
  have htouched (s1 : State) : ((if (s.core c).spadUe.isEmpty && (s.core c).spadCe.isEmpty then s1
      else (mmaReads d).foldl (fun s r => s.spadTouch c r.1 r.2 0x2001) s1).core c).cubeQ = (s1.core c).cubeQ := by
    split
    · rfl
    · exact spadTouches_cubeQ _ _ _ _
  unfold mmaTaken
  dsimp only
  split
  · rw [State.updCore_same]
    dsimp only
    rw [htouched, accUpsets_cubeQ]
    exact ⟨rfl, rfl⟩
  · rw [accUpsets_cubeQ, accUpsets_cubeRun, State.updCore_same]
    dsimp only
    rw [htouched]
    exact ⟨rfl, rfl⟩

/-- Without errors to meet, the descriptor's groups are all that is done. -/
theorem mmaTaken_clean {c : Nat} (q : QSlot) (d : CubeDesc) {s : State} (hue : (s.core c).spadUe = []) (hce : (s.core c).spadCe = []) :
    mmaTaken c q d [] s = s.updCore c fun k =>
      { runMma d k with cubeQ := k.cubeQ.drop 1, cubeRun := some { slot := q, rejected := false, isZero := false } } := by
  unfold mmaTaken
  rw [hue, hce]
  cases d.acc <;> rfl

/-- Settles O14: the commands of the cubes at a queue and a descriptor that are given. -/
theorem cubeRunsItsHeadDescriptor : Obligations.CubeRunsItsHeadDescriptor := by
  intro s c q upsets hc k d takes
  have hcore : s.core c = k := rfl
  have hd : decodeCube q.words = d := rfl
  refine ⟨fun hhead hon hop hok hclear => ?_, fun hhead hon hop hok hclear => ?_, fun x hhead hon hbad => ⟨fun hop => ?_, fun hop => ?_⟩,
    fun r hr => ⟨fun hrej hz => ?_, fun hz => ?_, fun hrej => ?_⟩⟩
  · have hexec : exec (.mma c upsets) s = .next (mmaTaken c q d
        (if d.acc || 1 < d.ks then upsets.filter fun u => d.tiles.contains (u % 256) else []) s) := by
      dsimp only [exec]
      unfold execMma onCore
      rw [if_pos hc]
      simp only [hcore, hhead, hon, hok, hclear, hd, hop]
      rfl
    rw [hexec]
    refine ⟨⟨_, rfl, mmaTaken_queue _ _ _ _ _⟩, fun hu hue hce => ?_⟩
    rw [hu, List.filter_nil, ite_self, mmaTaken_clean q d hue hce]
  · have hexec : exec (.zero c) s = .next (s.updCore c fun k =>
        { d.tiles.foldl (fun k t => zeroTile t k) k with cubeQ := k.cubeQ.drop 1, cubeRun := some (takes true) }) := by
      dsimp only [exec]
      unfold execZero onCore
      rw [if_pos hc]
      simp only [hcore, hhead, hon, hok, hclear, hd, hop]
      rfl
    refine ⟨_, hexec, onlyCore_updCore _ _ _, ?_⟩
    rw [State.updCore_same]
    exact ⟨rfl, rfl, fun tile htile => foldl_establishes (P := Core.Zeroed tile) (fun k => zeroTile_zeroes tile k)
      (fun k u h => zeroTile_keeps u h) htile k⟩
  all_goals dsimp only [exec]
  · simp only [execMma, onCore, if_pos hc, hcore, hhead, hon, hd, hop, hbad]
    rfl
  · simp only [execZero, onCore, if_pos hc, hcore, hhead, hon, hd, hop, hbad]
    rfl
  · simp only [execMmaComplete, onCore, if_pos hc, hcore, hr, hrej, hz]
    rfl
  · simp only [execZeroComplete, onCore, if_pos hc, hcore, hr, hz]
    rfl
  · simp only [execCubeRejectComplete, onCore, if_pos hc, hcore, hr, hrej]
    rfl

/-! ### The chain unit -/

/-- Settles O15: the commands of the chain unit at a queue that is given. -/
theorem chainUnitRunsChains : Obligations.ChainUnitRunsChains := by
  intro s c upsets hc k answers
  have hcore : s.core c = k := rfl
  refine ⟨fun q qs hq hentered hbad => ⟨fun b hb => ?_, fun hok => ?_⟩, fun q hon hhead => ?_, fun q qs hbad hq => ?_,
    fun r hr hon hu hue hce hclear hroom => ?_, fun n r hr hmay => ?_⟩
  · simp only [Core.chainJudge, hbad, hq, hentered, hb, Bool.not_true, Bool.false_eq_true, if_false]
  · simp only [Core.chainJudge, hbad, hq, hentered, hok, Bool.not_true, Bool.false_eq_true, if_false]
  all_goals dsimp only [answers, exec]
  · simp only [execChainStart, onCore, if_pos hc, hcore, hon, hhead, Bool.not_true, Bool.false_eq_true, if_false]
  · simp only [execChainRejectComplete, onCore, if_pos hc, hcore, hbad, hq]
  · simp only [execChainBeat, onCore, if_pos hc, hcore, hr, hon, hu, hclear, hroom, List.foldl_nil,
      spadTouches_clean (s := s) hue hce]
    rfl
  · have hmay : k.mayComplete n = true := by
      simpa [Core.mayComplete, List.all_eq_true] using hmay
    simp only [execChainComplete, onCore, if_pos hc, hcore, hr, hmay]
    rfl

/-! ### The porter -/

/-- The descriptor at the head of the porter's queue starts where its checks pass. -/
theorem portStart_starts {op c : Nat} {body : Nat → PortDesc → PortRun → State → State} {s : State} {q : QSlot} (hc : c < Config.coreSites)
    (hhead : (s.core c).portHead = some q) (hop : (decodePort q.words).op = op) (hon : s.computeOn c = true)
    (hok : (decodePort q.words).reject = none) : portStart op body c s =
      .next (body (s.core c).portRun.length (decodePort q.words) { slot := q, op := (decodePort q.words).op }
        (s.updCore c fun k => { k.pushRun { slot := q, op := (decodePort q.words).op } with promoted := sdel 0 k.promoted })) := by
  subst hop
  simp only [portStart, onCore, if_pos hc, hhead, hon, hok, ne_eq, not_true_eq_false, decide_false, Bool.not_true, Bool.or_self,
    Bool.false_eq_true, if_false]

/-- Settles O16: `portStart_starts` for each OP, and the head of the runs for what retires. -/
theorem porterRunsItsHeadDescriptor : Obligations.PorterRunsItsHeadDescriptor := by
  intro s c q hc k d r i started owner starts
  refine ⟨fun hrows hhead hop hon hok => ?_, fun hcause hhead hop hon hok => ?_, fun htarget hhead hop hon hok => ?_,
    fun hhead hop hon hok => ?_, fun hhead hop hon hok => ?_, fun slice htarget hentry hrows hhead hop hon hok => ?_,
    fun htarget hentry hhead hop hon hok => ?_, fun hrow hhead hop hon hok => ?_, fun x rs hrun => ⟨fun hrej => ?_, fun hrej hfin => ?_⟩⟩ <;>
    dsimp only [exec]
  · refine (portStart_starts hc hhead hop hon hok).trans ?_
    exact congrArg _ (if_pos hrows)
  · refine (portStart_starts hc hhead hop hon hok).trans ?_
    dsimp only
    split
    next x hx => exact absurd (hx.symm.trans hcause) nofun
    · rfl
  · exact (portStart_starts hc hhead hop hon hok).trans (congrArg _ (if_neg (Nat.not_le.2 htarget)))
  · exact portStart_starts hc hhead hop hon hok
  · exact portStart_starts hc hhead hop hon hok
  · refine (portStart_starts hc hhead hop hon hok).trans ?_
    dsimp only
    rw [if_neg (Nat.not_lt.2 htarget)]
    split
    next hx => exact absurd (hx.symm.trans hentry) nofun
    next sl hx =>
      cases Option.some.inj (hx.symm.trans hentry)
      rw [show (sendRows c (decodePort q.words) (decodePort q.words).rows 0 _ []).2.1 = true from hrows]
      rfl
  · refine (portStart_starts hc hhead hop hon hok).trans ?_
    have hsome : ((s.pav (pavOf c)).deliveryEntry c owner d.target).isNone = false := by
      rw [← Option.not_isSome, hentry]
      rfl
    refine congrArg _ (if_neg ?_)
    rw [Bool.not_eq_true, Bool.or_eq_false_iff]
    exact ⟨decide_eq_false (Nat.not_lt.2 htarget), hsome⟩
  · refine (portStart_starts hc hhead hop hon hok).trans ?_
    dsimp only
    rw [show (State.readRow _ c (decodePort q.words).src (decodePort q.words).len 0x4008).2.1 = true from hrow]
    rfl
  · simp only [execPorterRejectComplete, onCore, if_pos hc, show (s.core c).portRun = _ from hrun, hrej, if_true]
  · simp only [execPorterComplete, onCore, if_pos hc, show (s.core c).portRun = _ from hrun, hrej, hfin]
    rfl

end Sys2Proof.Machine

/-! ## Packets at their core (R128-R130, R160-R166, R204-R207)

A core acts on its oldest packet of a kind: `arrival_acts` says once what that is, and each kind of packet is then its own action on
the state in which the packet has left the inbox. -/

namespace Sys2Proof.Machine

theorem onCore_next {c : Nat} {s : State} {f : State → State} (hc : c < Config.coreSites) : onCore c s f = .next (f s) := if_pos hc

theorem atEndpoint_core {c : Nat} {s : State} {f g : State → Nat → State} {h i : State → State} (hc : c < Config.coreSites) :
    atEndpoint c s f g h i = .next (f s c) := if_pos hc

/-- The answer the oldest packet waits for lands; the ones after it are still to come. -/
theorem landReads_first {c i n : Nat} {r : PortRun} {s : State} {o : Nat × Nat} {os : List (Nat × Nat)} {bs : List Byte}
    (houtst : r.outst = o :: os) (hcame : r.came = [(o.1, bs, none)]) (hlen : bs.length = o.2) :
    landReads c i (n + 2) r s = (s.updCore c (Core.spadWrite o.1 bs)).pumpRun c i { r with outst := os, came := [] } := by
  have hfind : r.came.find? (fun x => x.1 = o.1 && x.2.1.length = o.2) = some (o.1, bs, none) := by
    rw [hcame, List.find?_cons_of_pos (by simp [hlen])]
  have hleft : ({ dropOut o r with came := r.came.erase (o.1, bs, none) } : PortRun) = { r with outst := os, came := [] } := by
    rw [hcame, dropOut, houtst]
    simp
  rw [landReads, houtst]
  dsimp only
  rw [hfind]
  dsimp only
  rw [hleft, landReads]
  cases os <;> rfl

/-- While the answer the oldest packet waits for is still to come, nothing lands. -/
theorem landReads_waits {c i n : Nat} {r : PortRun} {s : State} {o : Nat × Nat} {os : List (Nat × Nat)}
    (houtst : r.outst = o :: os) (hcame : ∀ y ∈ r.came, (y.1, y.2.1.length) ≠ o) : landReads c i (n + 1) r s = s.pumpRun c i r := by
  have hfind : r.came.find? (fun x => x.1 = o.1 && x.2.1.length = o.2) = none := by
    rw [List.find?_eq_none]
    intro y hy h
    rw [Bool.and_eq_true, decide_eq_true_eq, decide_eq_true_eq] at h
    exact hcame y hy (Prod.ext h.1 h.2)
  rw [landReads, houtst]
  dsimp only
  rw [hfind]

section
variable {s : State} {c t : Nat} {p : Packet} {rest : List Packet} (hc : c < Config.coreSites) (hon : s.computeOn c = true)
  (htag : s.pavTag (pavOf c) p.garden = p.gen) (hfirst : firstOf t [] (s.core c).inbox = some (p, rest))
include hon htag hfirst

theorem arrival_acts (f : Packet → State → State) : s.arrival c t f = f p (s.updCore c fun k => { k with inbox := rest }) := by
  unfold State.arrival
  rw [hon, hfirst]
  exact if_neg (not_not_intro htag)

include hc

theorem onCore_arrival (f : Packet → State → State) : (onCore c s fun s => s.arrival c t f) =
    .next (f p (s.updCore c fun k => { k with inbox := rest })) := by rw [onCore_next hc, arrival_acts hon htag hfirst]

end

section
variable {s : State} {c i : Nat} {p : Packet} {rest : List Packet} {r : PortRun} (hc : c < Config.coreSites) (hon : s.computeOn c = true)
  (htag : s.pavTag (pavOf c) p.garden = p.gen)
include hc hon htag

/-- An answer of a read is added to those of its transfer, and what is next in order lands. -/
theorem readData_came (hfirst : firstOf 3 [] (s.core c).inbox = some (p, rest))
    (hrun : findRun (s.core c).portRun (fun r => (r.op = 3 || r.op = 4) &&
      (r.came.filter fun y => (y.1, y.2.1.length) = (p.addr, p.payload.length)).length <
        (r.outst.filter (· = (p.addr, p.payload.length))).length) = some (i, r)) :
    execReadData c s = .next (landReads c i (r.outst.length + 1) { r with came := r.came ++ [(p.addr, p.payload, p.bad)] }
      (s.updCore c fun k => { k with inbox := rest })) := by
  refine (atEndpoint_core hc).trans ?_
  unfold State.readDataCore
  rw [arrival_acts hon htag hfirst]
  dsimp only
  rw [State.updCore_same]
  dsimp only
  rw [hrun]

/-- A NOTICE fails the transfer it is about. -/
theorem notice_fails (hfirst : firstOf 8 [] (s.core c).inbox = some (p, rest))
    (hrun : findRun (s.core c).portRun (fun r => if p.addr % 16 = 1 then r.op = 2 && r.outst.any (fun o => o.1 = p.about) &&
        mapCore (s.pav (pavOf c)).map (decodePort r.slot.words).target = some p.src
      else r.op = 6 && r.failed = 0) = some (i, r)) :
    execNotice c s = .next ((s.updCore c fun k => { k with inbox := rest }).failRun c i r (if p.addr % 16 = 1 then 1 else 7)) := by
  refine (onCore_arrival hc hon htag hfirst _).trans ?_
  dsimp only
  rw [State.updCore_same]
  split
  next hx => exact absurd (hx.symm.trans hrun) nofun
  next hx =>
    cases Option.some.inj (hx.symm.trans hrun)
    rfl

end

/-- Settles O17: each kind of packet by `arrival_acts`. -/
theorem packetsActAtTheirCore : Obligations.PacketsActAtTheirCore := by
  intro s c p rest hc hon htag k v u q acts w
  have hcore : s.core c = k := rfl
  have hu : u.core c = { k with inbox := rest } := State.updCore_same s c _
  have hw : w.core c = { k with inbox := rest, promoted := sdel 1 k.promoted } := by
    show (u.updCore c _).core c = _
    rw [State.updCore_same, hu]
  refine ⟨fun a ha hfirst => ?_, fun hnone hfirst => ?_, fun hspan hue hce err hfirst => ?_, fun i r o os hrun houtst => ⟨fun ho hcame hgood hfirst => ?_, fun ho hcame hfirst => ?_⟩, fun hfirst => ?_,
    fun hfirst => ?_, fun hslot hq hfirst => ?_, fun i r hrun hfirst => ?_, fun i r hp hrun hfirst => ?_, fun i r hp hrun hfirst => ?_⟩ <;>
    dsimp only [exec]
  · refine (onCore_arrival hc hon htag hfirst _).trans ?_
    have hwin : (w.core c).windowFor p = some a := by rw [hw]; exact ha
    dsimp only
    rw [show ((u.updCore c _).core c).windowFor p = some a from hwin]
  · refine (onCore_arrival hc hon htag hfirst _).trans ?_
    have hwin : (w.core c).windowFor p = none := by rw [hw]; exact hnone
    dsimp only
    rw [show ((u.updCore c _).core c).windowFor p = none from hwin]
  · refine (atEndpoint_core hc).trans ?_
    unfold State.readCore
    rw [arrival_acts hon htag hfirst]
    have hclean : (u.core c).clean p.addr (min p.span (spadBytes - p.addr)) = true := by rw [hu, Core.clean, hue, hce]; rfl
    dsimp only
    rw [if_neg (Nat.not_lt.2 hspan), spadTouch_clean hclean]
  · subst ho
    have hlen : r.outst.length + 1 = os.length + 2 := by rw [houtst, List.length_cons]
    have hleft : ({ r with outst := os, came := [] } : PortRun) = { r with outst := os } := by rw [← hcame]
    have hgot : ({ r with came := r.came ++ [(p.addr, p.payload, p.bad)] } : PortRun).came = [(p.addr, p.payload, none)] := by
      dsimp only
      rw [hcame, hgood, List.nil_append]
    have hland := landReads_first (c := c) (i := i) (n := os.length) (s := u)
      (r := { r with came := r.came ++ [(p.addr, p.payload, p.bad)] }) houtst hgot rfl
    rw [readData_came hc hon htag hfirst hrun, hlen]
    exact congrArg _ (hland.trans (congrArg (State.pumpRun _ c i) hleft))
  · rw [readData_came hc hon htag hfirst hrun]
    refine congrArg _ (landReads_waits houtst fun y hy => ?_)
    rcases List.mem_append.1 hy with hy | hy
    · exact hcame y hy
    · rw [List.mem_singleton.1 hy]
      exact ho.symm
  · exact onCore_arrival hc hon htag hfirst _
  · exact onCore_arrival hc hon htag hfirst _
  · refine (onCore_arrival hc hon htag hfirst _).trans (next_updCore ?_)
    have hpending : ((u.core c).slot (q / 16 % 16)).state = 1 := by rw [hu]; exact hslot
    dsimp only
    rw [if_neg (not_not_intro hpending), if_pos hq]
  · refine (atEndpoint_core hc).trans ?_
    unfold State.ackCore
    rw [arrival_acts hon htag hfirst]
    dsimp only
    rw [show (u.core c).portRun = k.portRun by rw [hu], show findRun k.portRun (fun r => r.outst.any ((u.pav (pavOf c)).acked p r)) = _ from hrun]
    rfl
  · rw [notice_fails hc hon htag hfirst (i := i) (r := r) (by rw [hp]; exact hrun), hp]
    rfl
  · rw [notice_fails hc hon htag hfirst (i := i) (r := r) (by rw [hp]; exact hrun), hp]
    rfl

end Sys2Proof.Machine

/-! ## Traffic that enters the fabric (R185-R223)

What a pavilion's queues hold after a flit is pushed or popped is said once for footpaths and avenues; an injection is then the first of
its candidates that can go. -/

namespace Sys2Proof.Machine

/-! ### Queues -/

theorem Fm.get_upd_same {α : Type} [DecidableEq α] (d : α) (k : Nat) (f : α → α) (m : FMap α) : Fm.get d k (Fm.upd d k f m) = f (Fm.get d k m) :=
  Fm.get_set_same d k _ m

section
variable (s : State) (r port sl : Nat)

theorem pushFq_fqAt (f : Flit) : ((s.pushFq r port sl f).pav (pavOf r)).fqAt (fqKey r port sl (replyType f.pkt.type)) =
    (s.pav (pavOf r)).fqAt (fqKey r port sl (replyType f.pkt.type)) ++ [f] := by
  unfold State.pushFq
  rw [State.updPav_same]
  unfold Pav.fqAt
  dsimp only
  rw [Fm.get_upd_same]

theorem pushFq_entering (f : Flit) : ((s.pushFq r port sl f).pav (pavOf r)).entering = (s.pav (pavOf r)).entering := by
  unfold State.pushFq
  rw [State.updPav_same]
  rfl

theorem pushAq_aqAt (f : AveFlit) : ((s.pushAq r port sl f).pav (pavOf r)).aqAt (aqKey r port sl) =
    (s.pav (pavOf r)).aqAt (aqKey r port sl) ++ [f] := by
  unfold State.pushAq
  rw [State.updPav_same]
  unfold Pav.aqAt
  dsimp only
  rw [Fm.get_upd_same]

theorem enterAve_aqAt (f : AveFlit) : ((s.enterAve r port sl f).pav (pavOf r)).aqAt (aqKey r port sl) =
    (s.pav (pavOf r)).aqAt (aqKey r port sl) ++ [f] := by
  unfold State.enterAve
  rw [State.updPav_same]
  exact pushAq_aqAt s r port sl f

theorem enterAve_pav (f : AveFlit) : ((s.enterAve r port sl f).pav (pavOf r)).markers = (s.pav (pavOf r)).markers ∧
    ((s.enterAve r port sl f).pav (pavOf r)).seqs = (s.pav (pavOf r)).seqs := by
  unfold State.enterAve State.pushAq
  rw [State.updPav_same, State.updPav_same]
  exact ⟨rfl, rfl⟩

theorem enterAve_cores (f : AveFlit) : (s.enterAve r port sl f).cores = s.cores := rfl

theorem sendAve_pavs (c : Nat) (f : AveFlit) : (s.sendAve c sl f).pavs = (s.enterAve c 4 sl f).pavs := by
  unfold State.sendAve
  dsimp only
  split <;> rfl

theorem sendAve_pav (c : Nat) (f : AveFlit) (p : Nat) : (s.sendAve c sl f).pav p = (s.enterAve c 4 sl f).pav p := by
  unfold State.pav
  rw [sendAve_pavs]

theorem sendAve_aveOut (c : Nat) (f : AveFlit) : ((s.sendAve c sl f).core c).aveOut = (s.core c).aveOut := by
  unfold State.sendAve
  dsimp only
  split
  · rw [State.updCore_same, core_congr (enterAve_cores s c 4 sl f)]
    rfl
  · rw [core_congr (enterAve_cores s c 4 sl f)]

theorem sendAve_marker (c : Nat) {f : AveFlit} (h : f.bun.drain = true) : s.sendAve c sl f = s.enterAve c 4 sl f := by
  unfold State.sendAve
  dsimp only
  rw [h, Bool.not_true, Bool.and_false]
  rfl

/-- A packet's first flit enters where its queue is on and no other packet is entering it; the rest of it follows. -/
theorem enter_first (p : Packet) :
    let reply := replyType p.type
    let v := s.pav (pavOf r)
    let sl := pickSlice p (v.fpInSlices r port) fun x => v.fqTaken r port x reply
    queueOn (v.fqTaken r port sl reply) = true → Fm.look (fqKey r port sl reply) v.entering = none →
      ∃ t, s.enter r port p = some t ∧ (t.pav (pavOf r)).fqAt (fqKey r port sl reply) = v.fqAt (fqKey r port sl reply) ++ [{ pkt := p }] ∧
        Fm.look (fqKey r port sl reply) (t.pav (pavOf r)).entering = (if p.flits = 1 then none else some { pkt := p, idx := 1 }) := by
  intro reply v sl hon hfree
  refine ⟨_, if_neg (by rw [hon, hfree]; decide), ?_, ?_⟩
  · rw [State.updPav_same]
    exact pushFq_fqAt s r port sl { pkt := p }
  · rw [State.updPav_same]
    dsimp only
    rw [pushFq_entering]
    by_cases h1 : p.flits = 1
    · have hnext : ({ pkt := p } : Flit).next = none := if_pos (by simp [Flit.last, h1])
      rw [hnext, if_pos h1]
      exact hfree
    · have hnext : ({ pkt := p } : Flit).next = some { pkt := p, idx := 1 } := if_neg (by simp [Flit.last, Ne.symm h1])
      rw [hnext, if_neg h1]
      exact Fm.look_put_same _ _ _

end

/-! ### Injection -/

section
variable {s t : State} {c g : Nat} (hc : c < Config.coreSites) (hg : s.ownerOf c = some g) (hon : s.fabricOn c = true)
include hc hg hon

/-- A core sends the first of what may go: a flit of a reply under way, a reply, a flit of a request under way, a request. -/
theorem injection_core : exec (.injection c false) s =
    .next (((s.enterOn c 4 true) <|> (s.injectClass c g true) <|> (s.enterOn c 4 false) <|> (s.injectClass c g false)).getD s) := by
  dsimp only [exec]
  unfold execInjection onUnit State.injectCore
  rw [if_pos (by rw [show isCore c = true from decide_eq_true hc]; rfl)]
  dsimp only
  rw [if_pos hc, hg]
  dsimp only
  rw [hon]
  rfl

end

/-- The first packet of a class enters, stamped, where its way and its queue allow. -/
theorem injectClass_enters {s t : State} {c g : Nat} {reply : Bool} {p : Packet} {dest addr : Nat}
    (hfind : ((s.core c).out.find? fun p => replyType p.type = reply) = some p) (hcomp : s.computeOn c = true)
    (hheld : reply = true ∨ s.held c g = false) (hres : (s.pav (pavOf c)).resolve p = some (dest, addr)) (hexit : (s.exitOf c dest).isSome = true)
    (henter : (s.updCore c fun k => { k with out := k.out.erase p }).enter c 4 (p.stamp dest addr c g (s.pavTag (pavOf c) g)) = some t) :
    s.injectClass c g reply = some t := by
  unfold State.injectClass
  dsimp only
  rw [hfind]
  dsimp only
  rw [if_neg, hres]
  · dsimp only
    obtain ⟨exit, hexit⟩ := Option.isSome_iff_exists.1 hexit
    rw [hexit]
    exact henter
  · rw [hcomp]
    rcases hheld with h | h <;> simp [h]

theorem injectClass_none {s : State} {c g : Nat} {reply : Bool} (h : ∀ p ∈ (s.core c).out, replyType p.type ≠ reply) :
    s.injectClass c g reply = none := by
  have hfind : ((s.core c).out.find? fun p => replyType p.type = reply) = none :=
    List.find?_eq_none.2 fun p hp => by simpa using h p hp
  unfold State.injectClass
  dsimp only
  rw [hfind]

/-- A bundle that a source entry of its avenue takes, numbered and stamped. -/
theorem numbered_facts (s : State) (c sl : Nat) (b : Bundle) :
    let e := (s.pav (pavOf c)).ave aveActive (aveIdx c 4 sl)
    let q := s.numbered c sl b
    q.garden = e.garden ∧ q.src = c ∧ q.payload = b.payload ∧ q.gen = s.pavTag (pavOf c) e.garden ∧ q.drain = b.drain ∧
      q.seq = Fm.get 0 (aveIdx c 4 sl * 2) (s.pav (pavOf c)).seqs := ⟨rfl, rfl, rfl, rfl, rfl, rfl⟩

theorem injection_bundle {s : State} {c : Nat} (hc : c < Config.coreSites) : exec (.injection c true) s = .next (s.injectBundle c) := by
  dsimp only [exec]
  unfold execInjection onUnit
  rw [if_pos (by rw [show isCore c = true from decide_eq_true hc]; rfl)]
  dsimp only
  rw [if_pos hc]
  rfl

section
variable {s : State} {c : Nat} (hon : s.fabricOn c = true)
include hon

theorem injectBundle_next {sl : Nat} {f : AveFlit} (hnext : (s.pav (pavOf c)).aveNext c 4 = some (sl, f)) :
    s.injectBundle c = s.sendAve c sl f := by
  unfold State.injectBundle
  dsimp only
  rw [hon, hnext]
  rfl

theorem injectBundle_marker {sl : Nat} (hnext : (s.pav (pavOf c)).aveNext c 4 = none)
    (hmark : ([1, 2, 3].find? fun x => (s.pav (pavOf c)).markers.contains (aveIdx c 4 x) && (s.pav (pavOf c)).aveFree c 4 x) = some sl)
    (hvalid : ((s.pav (pavOf c)).ave aveActive (aveIdx c 4 sl)).valid = true) :
    s.injectBundle c = (let u := s.updPav (pavOf c) fun v => { v with markers := sdel (aveIdx c 4 sl) v.markers }
      u.sendAve c sl { bun := u.numbered c sl { avenue := ((s.pav (pavOf c)).ave aveActive (aveIdx c 4 sl)).avenue, drain := true } }) := by
  unfold State.injectBundle
  dsimp only
  rw [hon, hnext, hmark]
  exact if_pos hvalid

theorem injectBundle_bundle {sl : Nat} {b : Bundle} {bs : List (Nat × Bundle)} (hnext : (s.pav (pavOf c)).aveNext c 4 = none)
    (hmark : ∀ x ∈ [1, 2, 3], (s.pav (pavOf c)).markers.contains (aveIdx c 4 x) = false) (hout : (s.core c).aveOut = (sl, b) :: bs)
    (hcomp : s.computeOn c = true) (hheld : s.held c ((s.pav (pavOf c)).ave aveActive (aveIdx c 4 sl)).garden = false)
    (hfree : (s.pav (pavOf c)).aveFree c 4 sl = true) (hvalid : ((s.pav (pavOf c)).ave aveActive (aveIdx c 4 sl)).valid = true)
    (hbun : ((s.pav (pavOf c)).ave aveActive (aveIdx c 4 sl)).avenue = b.avenue) :
    s.injectBundle c = (let u := s.updCore c fun k => { k with aveOut := k.aveOut.erase (sl, b) }
      (u.sendAve c sl { bun := u.numbered c sl b }).updPav (pavOf c) fun v =>
        { v with seqs := Fm.set 0 (aveIdx c 4 sl * 2) (((u.numbered c sl b).seq + 1) % 65536) v.seqs }) := by
  have hnone : ([1, 2, 3].find? fun x => (s.pav (pavOf c)).markers.contains (aveIdx c 4 x) && (s.pav (pavOf c)).aveFree c 4 x) = none := by
    rw [List.find?_eq_none]
    intro x hx
    rw [hmark x hx, Bool.false_and]
    exact Bool.false_ne_true
  unfold State.injectBundle
  dsimp only
  simp only [hon, hnext, hnone, hcomp, Bool.not_true, Bool.false_eq_true, if_false]
  rw [hout, List.find?_cons_of_pos (by rw [hfree, hheld]; rfl)]
  dsimp only
  rw [if_neg (by simp [hvalid, hbun])]

end

theorem endpoint_not_core {c : Nat} (h : isEndpoint c = true) : ¬ c < Config.coreSites := by
  simp only [isEndpoint, Bool.or_eq_true, Bool.and_eq_true, decide_eq_true_eq] at h
  show ¬ c < 27648
  omega

section
variable {s : State} {c : Nat} {a : Nat × Nat × Nat} (he : isEndpoint c = true) (ha : s.attach c = some a)
include he ha

/-- An endpoint sends a flit of a reply under way, or else the first reply that can go. -/
theorem injection_reply {p : Packet} {ps : List Packet} {t : State} (hout : Fm.get [] c s.endOut = p :: ps) (hreply : replyType p.type = true)
    (hgives : s.endGives c p = true) (hidle : ∀ x ∈ attachRouters a, s.fabricOn x.1 = true → s.enterOn x.1 x.2 true = none)
    (hstart : s.startEnd c a p = some t) : exec (.injection c false) s = .next t := by
  dsimp only [exec]
  unfold execInjection onUnit State.injectEnd
  rw [if_pos (by rw [he, Bool.or_true])]
  dsimp only
  rw [if_neg (endpoint_not_core he), ha]
  dsimp only
  have hnone : ((attachRouters a).findSome? fun x => if s.fabricOn x.1 then s.enterOn x.1 x.2 true else none) = none := by
    rw [List.findSome?_eq_none_iff]
    intro x hx
    split
    next h => exact hidle x hx h
    · rfl
  rw [hnone, hout, List.filter_cons_of_pos (by rw [hreply, hgives]; rfl), List.findSome?_cons, hstart]
  rfl

theorem injection_peer {x sl : Nat} {f : AveFlit}
    (hnext : ((attachRouters a).findSome? fun x => if s.fabricOn x.1 then ((s.pav (pavOf x.1)).aveNext x.1 0).map fun y => (x.1, y.1, y.2)
      else none) = some (x, sl, f)) : exec (.injection c true) s = .next (s.enterAve x 0 sl f) := by
  dsimp only [exec]
  unfold execInjection onUnit State.injectPeer
  rw [if_pos (by rw [he, Bool.or_true])]
  dsimp only
  rw [if_neg (endpoint_not_core he), if_pos rfl, ha]
  dsimp only
  rw [hnext]

end

theorem startEnd_enters {s : State} {c : Nat} {a : Nat × Nat × Nat} {p : Packet}
    (hon : s.fabricOn (edgePort a (s.placeOf p.dest).1 (s.placeOf p.dest).2).1 = true) (hexit : (s.exitOf c p.dest).isSome = true) :
    s.startEnd c a p = (let rs := edgePort a (s.placeOf p.dest).1 (s.placeOf p.dest).2
      ({ s with endOut := Fm.upd [] c (fun l => l.erase p) s.endOut } : State).enter rs.1 rs.2
        (p.stamp p.dest p.addr c p.garden (s.pavTag (pavOf rs.1) p.garden))) := by
  obtain ⟨exit, hexit⟩ := Option.isSome_iff_exists.1 hexit
  unfold State.startEnd
  dsimp only
  rw [hon, hexit]
  rfl

/-- Settles O18: each kind of sender by its injection, and what a queue holds then by the rules of `pushFq` and `enterAve`. -/
theorem trafficEntersTheFabric : Obligations.TrafficEntersTheFabric := by
  intro s t c k v
  refine ⟨fun r port p hon hfree => enter_first s r port p hon hfree, fun g hc hg hon => ⟨fun ht => ?_, fun p dest addr hp hcomp hidle hres hexit ht => ?_,
    fun hnone hidle => ⟨fun ht => ?_, fun p ps dest addr hp hcomp hheld hidle2 hres hexit ht => ?_⟩⟩, fun hc hon => ⟨fun sl f hnext => ?_,
    fun sl b bs hnext hmark hout hcomp hheld hfree hvalid hbun => ?_, fun sl hnext hmark hvalid => ?_⟩,
    fun p ps a he hout ha hreply hgives hidle hon hexit ht => ?_, fun a x sl f he ha hnext => injection_peer he ha hnext⟩
  · rw [injection_core hc hg hon, ht]
    rfl
  · rw [injection_core hc hg hon, hidle, injectClass_enters (by simpa using hp) hcomp (.inl rfl) hres hexit ht]
    rfl
  · rw [injection_core hc hg hon, hidle, injectClass_none (by simpa using hnone), ht]
    rfl
  · have hnot : replyType p.type = false := hnone p (by rw [show k.out = _ from hp]; exact List.mem_cons_self)
    have hfind : ((s.core c).out.find? fun p => replyType p.type = false) = some p := by
      rw [show (s.core c).out = _ from hp, List.find?_cons_of_pos (by simpa using hnot)]
    rw [injection_core hc hg hon, hidle, injectClass_none (by simpa using hnone), hidle2,
      injectClass_enters hfind hcomp (.inr hheld) hres hexit ht]
    rfl
  · rw [injection_bundle hc, injectBundle_next hon hnext]
    rfl
  · rw [injection_bundle hc, injectBundle_bundle hon hnext hmark hout hcomp hheld hfree hvalid hbun]
    let u := s.updCore c fun k => { k with aveOut := k.aveOut.erase (sl, b) }
    refine ⟨_, rfl, ?_, { bun := u.numbered c sl b }, ?_, rfl, rfl, rfl, rfl, rfl, rfl, ?_⟩
    · rw [updPav_core, sendAve_aveOut, State.updCore_same]
      dsimp only
      rw [show (s.core c).aveOut = _ from hout, List.erase_cons_head]
    · rw [State.updPav_same]
      show ((u.sendAve c sl { bun := u.numbered c sl b }).pav (pavOf c)).aqAt (aqKey c 4 sl) = _
      rw [sendAve_pav, enterAve_aqAt]
      rfl
    · rw [State.updPav_same]
      exact Fm.get_set_same _ _ _ _
  · rw [injection_bundle hc, injectBundle_marker hon hnext hmark hvalid]
    let u := s.updPav (pavOf c) fun v => { v with markers := sdel (aveIdx c 4 sl) v.markers }
    have hu : u.pav (pavOf c) = { v with markers := sdel (aveIdx c 4 sl) v.markers } := State.updPav_same s _ _
    obtain ⟨hgarden, -, -, -, hdrain, -⟩ := numbered_facts u c sl { avenue := (v.ave aveActive (aveIdx c 4 sl)).avenue, drain := true }
    dsimp only
    rw [sendAve_marker _ _ _ rfl]
    refine ⟨_, rfl, rfl, ?_, ?_, { bun := u.numbered c sl { avenue := (v.ave aveActive (aveIdx c 4 sl)).avenue, drain := true } }, ?_, hdrain, ?_⟩
    · rw [(enterAve_pav u c 4 sl _).1, hu]
      simp [List.contains_eq_mem, mem_sdel]
    · rw [(enterAve_pav u c 4 sl _).2, hu]
    · refine (enterAve_aqAt u c 4 sl _).trans ?_
      rw [hu]
      rfl
    · rw [hgarden, hu]
      rfl
  · exact injection_reply he ha hout hreply hgives hidle ((startEnd_enters hon hexit).trans ht)

end Sys2Proof.Machine

/-! ## A cycle at an input of a router (R186-R229)

An input's front flit moves in three parts: the gate buffer before it is read, the flit is compared and leaves its queue, and it is put where its
output leads. Each part is a change of one or two pavilions, of which `updPav_part` says what it leaves. -/

namespace Sys2Proof.Machine

/-- A part of a pavilion that a change of pavilions leaves is as it was, whichever pavilion changed. -/
theorem updPav_part {γ : Type} (φ : Pav → γ) {g : Pav → Pav} (h : ∀ v, φ (g v) = φ v) (s : State) (p q : Nat) :
    φ ((s.updPav p g).pav q) = φ (s.pav q) := by
  by_cases hq : q = p
  · subst hq
    rw [State.updPav_same, h]
  · rw [State.updPav_other _ _ _ hq]

/-! ### What a flit that lands leaves -/

section
variable (s : State) (r port : Nat)

theorem pushFq_gates (sl : Nat) (f : Flit) (q : Nat) : ((s.pushFq r port sl f).pav q).gates = (s.pav q).gates := by
  unfold State.pushFq
  exact updPav_part (·.gates) (by intro; rfl) s _ q

theorem pushAq_gates (sl : Nat) (f : AveFlit) (q : Nat) : ((s.pushAq r port sl f).pav q).gates = (s.pav q).gates := by
  unfold State.pushAq
  exact updPav_part (·.gates) (by intro; rfl) s _ q

theorem pushFq_fqAt_other {key sl : Nat} {f : Flit} (h : key ≠ fqKey r port sl (replyType f.pkt.type)) (q : Nat) :
    ((s.pushFq r port sl f).pav q).fqAt key = (s.pav q).fqAt key := by
  unfold State.pushFq
  exact updPav_part (fun v => Fm.get [] key v.fq) (fun v => Fm.get_set_other _ h _ _) s _ q

/-- What neither of a landing entry's kinds of flit changes, it does not. -/
theorem landEntry_keeps {γ : Type} {φ : State → γ} (hfp : ∀ (s : State) (x : Nat × Flit), φ (s.pushFq r port x.1 x.2) = φ s)
    (haq : ∀ (s : State) (x : Nat × AveFlit), φ (s.pushAq r port x.1 x.2) = φ s) (e : GateEntry) : φ (s.landEntry r port e) = φ s :=
  (foldl_keeps (f := fun (s : State) (x : Nat × AveFlit) => s.pushAq r port x.1 x.2) haq e.ave _).trans
    (foldl_keeps (f := fun (s : State) (x : Nat × Flit) => s.pushFq r port x.1 x.2) hfp e.fp s)

theorem landEntry_gates (e : GateEntry) (q : Nat) : ((s.landEntry r port e).pav q).gates = (s.pav q).gates :=
  landEntry_keeps s r port (φ := fun s => (s.pav q).gates) (fun s x => pushFq_gates s r port x.1 x.2 q) (fun s x => pushAq_gates s r port x.1 x.2 q) e

theorem landEntry_cores (e : GateEntry) : (s.landEntry r port e).cores = s.cores :=
  landEntry_keeps s r port (φ := State.cores) (fun _ _ => rfl) (fun _ _ => rfl) e

theorem gateCycle_cores : (s.gateCycle r port).cores = s.cores := by
  unfold State.gateCycle
  split
  · rfl
  dsimp only
  split
  · rfl
  split
  · exact landEntry_cores _ _ _ _
  · rfl

end

/-- Across a seam the receiver reads the oldest entry of more than two, and a cycle without flits is an entry of its own otherwise. -/
theorem gateCycle_gate {s : State} {r port : Nat} {e : GateEntry} {es : List GateEntry} (hseam : isSeam r port = true)
    (hgate : (s.pav (pavOf r)).gate r port = e :: es) :
    (2 ≤ es.length → ((s.gateCycle r port).pav (pavOf r)).gate r port = es) ∧
    (es.length < 2 → ((s.gateCycle r port).pav (pavOf r)).gate r port = e :: es ++ [({} : GateEntry)] ∧
      ((s.gateCycle r port).pav (pavOf r)).fq = (s.pav (pavOf r)).fq) := by
  unfold State.gateCycle
  dsimp only
  rw [hseam, hgate]
  dsimp only
  refine ⟨fun h => ?_, fun h => ?_⟩
  · rw [Bool.not_true, if_neg Bool.false_ne_true, if_pos h]
    unfold Pav.gate
    rw [landEntry_gates, State.updPav_same]
    exact Fm.get_set_same _ _ _ _
  · rw [Bool.not_true, if_neg Bool.false_ne_true, if_neg (Nat.not_le.2 h), State.updPav_same]
    refine ⟨?_, rfl⟩
    unfold Pav.gate
    dsimp only
    rw [Fm.get_set_same]

/-! ### Counters of a link -/

/-- A counter of a link stands apart from the tables of the pavilion. -/
theorem incCe_get {n off : Nat} (hn : n < 512) (hoff : off < 0x10000 ∨ 0x20000 ≤ off) (d : Word) (m : RegFile) :
    Fm.get d off (incF (Reg.PV_LINK_CNT_CE n) 1 m) = Fm.get d off m :=
  Fm.get_set_other' _ _ (by show off ≠ 0x10000 + 8 * n; omega) _ _

theorem incCe_ave {n : Nat} (hn : n < 512) (v : Pav) (i : Nat) : (v.incF (Reg.PV_LINK_CNT_CE n) 1).ave aveActive i = v.ave aveActive i :=
  congrArg decodeAve (incCe_get hn (.inr (by unfold aveActive; omega)) _ _)

theorem coreIdx_lt (r : Nat) : coreIdx r < 64 := by unfold coreIdx; omega
theorem cntIdx_lt (r : Nat) {port : Nat} (hp : port < 5) : cntIdx r port < 512 := by have := coreIdx_lt r; unfold cntIdx; omega

/-- The range of an endpoint's edge coordinate lies on the die (R188). -/
def EdgeRange (a : Nat × Nat × Nat) : Prop := a.2.1 ≤ 191 ∧ a.2.2 ≤ 191 ∧ (a.1 = 0 → a.2.1 ≤ 143 ∧ a.2.2 ≤ 143)

theorem edgeRange_of_if {b : Bool} {x a : Nat × Nat × Nat} (hx : EdgeRange x) (h : (if b then some x else none) = some a) : EdgeRange a := by
  split at h <;> cases h
  exact hx

theorem attach_bounds {s : State} {code : Nat} {a : Nat × Nat × Nat} (h : s.attach code = some a) : EdgeRange a := by
  unfold State.attach at h
  split at h
  · refine edgeRange_of_if ⟨?_, ?_, fun h0 => ?_⟩ h
    · dsimp only; omega
    · dsimp only; omega
    · dsimp only at h0
      split at h0 <;> cases h0
  · generalize hc : code = n at h
    split at h
    case h_1 => cases h; exact ⟨by decide, by decide, by decide⟩
    case h_8 => cases h
    all_goals exact edgeRange_of_if ⟨by decide, by decide, by decide⟩ h

theorem clampTo_le {lo hi x n : Nat} (hlo : lo ≤ n) (hhi : hi ≤ n) : clampTo lo hi x ≤ n := by unfold clampTo; omega

theorem edgePort_lt {a : Nat × Nat × Nat} (ha : EdgeRange a) (x y : Nat) : (edgePort a x y).1 < 27648 := by
  obtain ⟨hlo, hhi, hnorth⟩ := ha
  obtain ⟨side, lo, hi⟩ := a
  cases side with
  | zero =>
    have hx := clampTo_le (x := x) (hnorth rfl).1 (hnorth rfl).2
    dsimp only at hx
    show coreId _ 0 < 27648
    unfold coreId
    omega
  | succ side =>
    have hy := clampTo_le (x := y) hlo hhi
    dsimp only at hy
    show coreId (if side + 1 = 3 then 0 else 143) _ < 27648
    unfold coreId
    split <;> omega

theorem exitOf_lt {s : State} {src dest : Nat} {e : Nat × Nat} (h : s.exitOf src dest = some e) : e.1 < 27648 := by
  unfold State.exitOf at h
  split at h
  next hd => cases h; exact hd
  · split at h
    · cases h
    next a ha =>
      cases h
      exact edgePort_lt (attach_bounds ha) _ _

theorem pavOf_lt {r : Nat} (h : r < 27648) : pavOf r < 432 := by
  unfold pavOf coreX coreY
  omega

theorem countCorrected_cores (s : State) (r port : Nat) (err : FlitErr) : (s.countCorrected r port err).cores = s.cores := by
  cases err <;> rfl

theorem countCorrected_part {γ : Type} (s : State) (r port : Nat) (err : FlitErr) (φ : Pav → γ)
    (h : ∀ v : Pav, φ (v.incF (Reg.PV_LINK_CNT_CE (cntIdx r port)) 1) = φ v) (q : Nat) :
    φ ((s.countCorrected r port err).pav q) = φ (s.pav q) := by
  cases err with
  | corrected => exact updPav_part φ h s _ q
  | _ => rfl

/-- A corrected bit is counted, and nothing else of where a flit goes changes. -/
theorem countCorrected_bound (s : State) (r : Nat) {port : Nat} (hp : port < 5) (err : FlitErr) (key : Nat) (f : Flit) :
    (s.countCorrected r port err).bound r key f = s.bound r key f := by
  have hpart {γ : Type} := countCorrected_part (γ := γ) s r port err
  cases err with
  | corrected =>
    have hword (p n : Nat) (hn : n < 27) : (s.countCorrected r port .corrected).fpWord 0x200 p n = s.fpWord 0x200 p n :=
      hpart (fun v => Fm.get (dimWord p n) (0x200 + 8 * n) v.regs) (fun v => incCe_get (cntIdx_lt r hp) (.inl (by omega)) _ _) p
    have hport (exit : Nat × Nat) (he : exit.1 < 27648) : (s.countCorrected r port .corrected).nextPort r exit = s.nextPort r exit := by
      have := pavOf_lt he
      unfold State.nextPort State.fpEntry
      dsimp only
      rw [hword (pavOf r) (pavOf exit.1 / 16) (by omega)]
    have hslices (out : Nat) : ((s.countCorrected r port .corrected).pav (pavOf r)).fpSlices r out = (s.pav (pavOf r)).fpSlices r out :=
      hpart (fun v => v.fpSlices r out) (fun v => by unfold Pav.fpSlices; simp only [incCe_ave (cntIdx_lt r hp)]) _
    have htaken (q a out x : Nat) (reply : Bool) : ((s.countCorrected r port .corrected).pav q).fqTaken a out x reply =
        (s.pav q).fqTaken a out x reply := hpart (fun v => v.fqTaken a out x reply) (fun _ => rfl) q
    unfold State.bound
    dsimp only
    rw [hpart (·.holds) (by intro; rfl), show (s.countCorrected r port .corrected).exitOf f.pkt.src f.pkt.dest = s.exitOf f.pkt.src f.pkt.dest from rfl]
    cases Fm.look key (s.pav (pavOf r)).holds with
    | some x => rfl
    | none =>
      cases hexit : s.exitOf f.pkt.src f.pkt.dest with
      | none => rfl
      | some exit =>
        dsimp only
        rw [hport exit (exitOf_lt hexit)]
        simp only [hslices, htaken]
  | _ => rfl

/-! ### A flit that goes on -/

/-- A flit has left its input towards output `out`: the class's turn on the output slice moves on with a head, and its packet holds the slice
until its last. -/
def State.leaves (s : State) (r port sl : Nat) (f : Flit) (out lane : Nat) : State :=
  let reply := replyType f.pkt.type
  let key := fqKey r port sl reply
  let s := if f.idx = 0 then s.updPav (pavOf r) fun v =>
      { v with rotate := Fm.set 0 (rotKey r out lane reply) (port * 4 + sl + 1) v.rotate } else s
  (s.popFq r port sl reply).updPav (pavOf r) fun v =>
    { v with holds := if f.last then Fm.del key v.holds else Fm.put key (out, lane, f) v.holds }

section
variable (s : State) (r port sl : Nat) (f : Flit) (out lane : Nat)

/-- Parts of the pavilions that neither the turns nor the queues and holds of a footpath are in. -/
theorem leaves_part {γ : Type} (φ : Pav → γ) (h : ∀ (v : Pav) (x : FMap Nat) (y : FMap (List Flit)) (z : FMap (Nat × Nat × Flit)),
    φ { v with rotate := x } = φ v ∧ φ { v with fq := y } = φ v ∧ φ { v with holds := z } = φ v) (q : Nat) :
    φ ((s.leaves r port sl f out lane).pav q) = φ (s.pav q) := by
  have hrot (t : State) : φ ((if f.idx = 0 then t.updPav (pavOf r) fun v =>
      { v with rotate := Fm.set 0 (rotKey r out lane (replyType f.pkt.type)) (port * 4 + sl + 1) v.rotate } else t).pav q) = φ (t.pav q) := by
    split
    · exact updPav_part φ (fun v => (h v _ [] []).1) t _ q
    · rfl
  unfold State.leaves State.popFq
  dsimp only
  rw [updPav_part φ (fun v => (h v [] [] _).2.2), updPav_part φ (fun v => (h v [] _ []).2.1), hrot]

theorem leaves_cores : (s.leaves r port sl f out lane).cores = s.cores := by
  unfold State.leaves
  dsimp only
  split <;> rfl

theorem leaves_fq (q : Nat) : ((s.leaves r port sl f out lane).pav q).fq = ((s.popFq r port sl (replyType f.pkt.type)).pav q).fq := by
  have hrot : ((if f.idx = 0 then s.updPav (pavOf r) fun v =>
      { v with rotate := Fm.set 0 (rotKey r out lane (replyType f.pkt.type)) (port * 4 + sl + 1) v.rotate } else s).pav q).fq = (s.pav q).fq := by
    split
    · exact updPav_part (·.fq) (by intro; rfl) s _ q
    · rfl
  unfold State.leaves
  dsimp only
  rw [updPav_part (·.fq) (by intro; rfl)]
  unfold State.popFq
  by_cases hq : q = pavOf r
  · subst hq
    rw [State.updPav_same, State.updPav_same]
    dsimp only
    rw [hrot]
  · rw [State.updPav_other _ _ _ hq, State.updPav_other _ _ _ hq, hrot]

theorem leaves_fqAt {g : Flit} {fs : List Flit} (hfront : (s.pav (pavOf r)).fqAt (fqKey r port sl (replyType f.pkt.type)) = g :: fs) :
    ((s.leaves r port sl f out lane).pav (pavOf r)).fqAt (fqKey r port sl (replyType f.pkt.type)) = fs := by
  unfold Pav.fqAt at *
  rw [leaves_fq, State.popFq, State.updPav_same]
  dsimp only
  rw [Fm.get_upd_same, hfront]
  rfl

theorem leaves_fqAt_other {key : Nat} (q : Nat) (h : key ≠ fqKey r port sl (replyType f.pkt.type)) :
    ((s.leaves r port sl f out lane).pav q).fqAt key = (s.pav q).fqAt key := by
  unfold Pav.fqAt
  rw [leaves_fq, State.popFq]
  exact updPav_part (fun v => Fm.get [] key v.fq) (fun v => Fm.get_set_other _ h _ _) s _ q

end

/-- A flit that is not cut, whose output is up, leaves its input and is put where that leads. -/
theorem forwardFlit_goes {s : State} {r port sl : Nat} {f : Flit} {out lane : Nat}
    (hbound : s.bound r (fqKey r port sl (replyType f.pkt.type)) f = some (out, lane)) (hcut : f.cut = false)
    (hway : out = 4 ∨ (neighbour r out).isSome = true ∧ s.linkMarkedDown r out = false) :
    s.forwardFlit r port sl f false =
      if out = 4 then (if f.last then (s.leaves r port sl f out lane).deliverCore r port f.pkt else s.leaves r port sl f out lane)
      else (s.leaves r port sl f out lane).putEntry r out lane [(lane, f)] [] := by
  obtain ⟨p, idx, cut⟩ := f
  cases (show cut = false from hcut)
  unfold State.forwardFlit
  dsimp only at hbound ⊢
  rw [hbound]
  dsimp only
  rcases hway with rfl | ⟨hsome, hup⟩
  · rw [if_neg (by simp), if_neg (by simp), if_pos rfl, if_pos rfl]
    simp only [State.leaves, Bool.or_self, Bool.not_false, Bool.and_true, Bool.false_eq_true, if_false]
  · obtain ⟨r2, hr2⟩ := Option.isSome_iff_exists.1 hsome
    have h4 : out ≠ 4 := fun h => by rw [h] at hr2; cases hr2
    rw [if_neg (by simp [hup]), if_neg (by simp [hr2]), if_neg h4, if_neg h4, hr2]
    rfl

/-! ### Where a flit is put -/

/-- Inside a pavilion the receiving queue takes the flit. -/
theorem putEntry_inside {s : State} {r out lane r2 : Nat} {f : Flit} (hr2 : neighbour r out = some r2) (hseam : isSeam r out = false) :
    s.putEntry r out lane [(lane, f)] [] = s.pushFq r2 (opposite out) lane f := by
  unfold State.putEntry
  rw [hr2]
  dsimp only
  rw [hseam]
  rfl

theorem noises_keeps {γ : Type} {φ : Pav → γ} (h : ∀ g v, φ (Pav.noise g v) = φ v) (gs : List Nat) (v : Pav) :
    φ (gs.foldl (fun v g => Pav.noise g v) v) = φ v := foldl_keeps (fun v g => h g v) gs v

theorem openEntry_room {s : State} {r out sl : Nat} {e : GateEntry} (h : s.openEntry r out sl = some e) (hstile : isStile r out = true) :
    e.size < 2 := by
  unfold State.openEntry at h
  dsimp only at h
  split at h
  · cases h
  split at h
  · cases h
  split at h
  · cases h
  split at h
  · cases h
  next hroom =>
    cases h
    by_contra hsize
    exact hroom (by rw [hstile, decide_eq_true (Nat.not_lt.1 hsize), Bool.and_self, Bool.or_true])

/-- Across a seam the flit is in the last entry of the gate buffer; a stile's takes two. -/
theorem putEntry_seam {s : State} {r out lane r2 : Nat} {f : Flit} (hr2 : neighbour r out = some r2) (hseam : isSeam r out = true) :
    (∀ q, ((s.putEntry r out lane [(lane, f)] []).pav q).fq = (s.pav q).fq) ∧
    ∃ e, (((s.putEntry r out lane [(lane, f)] []).pav (pavOf r2)).gate r2 (opposite out)).getLast? = some e ∧ (lane, f) ∈ e.fp ∧
      (isStile r out = true → e.size ≤ 2) := by
  unfold State.putEntry
  rw [hr2]
  dsimp only
  rw [hseam, Bool.not_true, if_neg Bool.false_ne_true]
  refine ⟨fun q => ?_, ?_⟩
  · rw [updPav_part (·.fq) (by intro; rfl)]
    split
    · exact updPav_part (·.fq) (by intro; rfl) _ _ _
    · rfl
  · rw [State.updPav_same]
    generalize (if isStile r out then s.updPav (pavOf r) _ else s) = u
    unfold Pav.gate
    dsimp only
    rw [Fm.get_set_same]
    cases hopen : u.openEntry r out lane with
    | none => exact ⟨_, List.getLast?_concat, List.mem_singleton.2 rfl, fun _ => by show 1 ≤ 2; decide⟩
    | some e =>
      refine ⟨_, List.getLast?_concat, List.mem_append_right _ (List.mem_singleton.2 rfl), fun hstile => ?_⟩
      have := openEntry_room hopen hstile
      unfold GateEntry.size at *
      simp only [List.length_append, List.length_singleton, List.append_nil]
      omega

/-! ### Neighbours -/

/-- A neighbour has another place in its pavilion. -/
theorem coreIdx_neighbour {r side r2 : Nat} (h : neighbour r side = some r2) : coreIdx r2 ≠ coreIdx r := by
  unfold neighbour at h
  dsimp only at h
  split at h
  case h_5 => cases h
  all_goals
    split at h
    · cases h
    · cases h
      unfold coreIdx coreX coreY coreId at *
      omega

theorem neighbour_lt {r side r2 : Nat} (h : neighbour r side = some r2) : side < 4 := by
  by_contra hside
  obtain ⟨n, rfl⟩ : ∃ n, side = n + 4 := ⟨side - 4, by omega⟩
  cases h

theorem fqKey_ne {r r2 port port2 sl sl2 : Nat} {reply reply2 : Bool} (hidx : coreIdx r2 ≠ coreIdx r) (hp : port < 5) (hp2 : port2 < 5)
    (hs : sl < 4) (hs2 : sl2 < 4) : fqKey r2 port2 sl2 reply2 ≠ fqKey r port sl reply := by
  unfold fqKey
  split <;> split <;> omega

/-! ### The input of a router -/

theorem routeFits_iff {r port sl : Nat} : routeFits r port sl = true ↔ r < Config.coreSites ∧ port < 5 ∧ sl < 4 := by
  simp [routeFits, and_assoc]

section
variable {s u : State} {r port sl : Nat} {err : FlitErr}

theorem onUnit_next {ok : Bool} {f : State → State} (h : ok = true) : onUnit ok s f = .next (f s) := if_pos h

theorem not_dropped {b : Bool} {n : Nat} (h : b = false ∨ n = 0) : ¬(b && decide (n ≠ 0)) = true := by
  rcases h with rfl | rfl <;> simp

/-- A footpath's head that does not pass its comparison is discarded and counted. -/
theorem routeFlit_discards {reply : Bool} {f : Flit} {fs : List Flit} (hfront : (u.pav (pavOf r)).fqAt (fqKey r port sl reply) = f :: fs)
    (hon : u.fabricOn r = true) (h0 : f.idx = 0)
    (hbad : flitCheck err (f.idx = 0) ((f.pkt.hcrc ^^^ flitMask err) = f.pkt.headCrc) (u.pavTag (pavOf r) f.pkt.garden = f.pkt.gen) ≠ .pass) :
    u.routeFlit r port sl reply err = (((u.countCorrected r port err).discardFq r port sl reply f).countCheck r port f.pkt.garden (0x5000 + f.pkt.type)
      (flitCheck err (f.idx = 0) ((f.pkt.hcrc ^^^ flitMask err) = f.pkt.headCrc) (u.pavTag (pavOf r) f.pkt.garden = f.pkt.gen))) := by
  unfold State.routeFlit
  dsimp only
  rw [hfront]
  dsimp only
  rw [hon, Bool.not_true, if_neg Bool.false_ne_true, if_neg (not_dropped (.inr h0)), if_pos (by simpa [h0] using hbad)]

/-- One that passes, and whose output serves it, is forwarded. -/
theorem routeFlit_forwards {reply : Bool} {f : Flit} {fs : List Flit} (hfront : (u.pav (pavOf r)).fqAt (fqKey r port sl reply) = f :: fs)
    (hon : u.fabricOn r = true) (hdrop : (u.pav (pavOf r)).dropping.contains (fqKey r port sl reply) = false ∨ f.idx = 0)
    (hpass : flitCheck err (f.idx = 0) ((f.pkt.hcrc ^^^ flitMask err) = f.pkt.headCrc) (u.pavTag (pavOf r) f.pkt.garden = f.pkt.gen) = .pass)
    (hgoes : u.flitGoes u.aveReady r port sl f = true) :
    u.routeFlit r port sl reply err = (u.countCorrected r port err).forwardFlit r port sl f false := by
  unfold State.routeFlit
  dsimp only
  rw [hfront]
  dsimp only
  rw [hon, Bool.not_true, if_neg Bool.false_ne_true, if_neg (not_dropped hdrop), hpass, hgoes]
  simp

/-- A bundle's flit that no command passes over is discarded with its head, or goes to every output of its entry in one move. -/
theorem moveFlit_moves {f : AveFlit} {fs : List AveFlit} {may : AveEntry → Bundle → Bool} (hfront : (u.pav (pavOf r)).aqAt (aqKey r port sl) = f :: fs)
    (hon : u.fabricOn r = true) (hdrop : (u.pav (pavOf r)).aveDropping.contains (aqKey r port sl) = false ∨ f.idx = 0) :
    let e := (u.pav (pavOf r)).ave aveActive (aveIdx r port sl)
    let chk := flitCheck err (f.idx = 0) ((f.bun.hcrc ^^^ flitMask err) = f.bun.headCrc) (u.pavTag (pavOf r) f.bun.garden = f.bun.gen)
    let outs := (List.range 5).filter e.goesTo
    may e f.bun = true →
    (f.idx = 0 → chk ≠ .pass → u.moveFlit r port sl err may =
      ((u.countCorrected r port err).discardAq r port sl f).countCheck r port f.bun.garden 0 chk) ∧
    (chk = .pass → e.valid = true → outs.all (fun o => u.branchOn r e f o && (4 ≤ o || u.stileServes u.aveReady r o (e.sliceOn o))) = true →
      u.moveFlit r port sl err may = outs.foldl (State.branch r port sl e f) ((u.countCorrected r port err).popAq r port sl)) := by
  intro e chk outs hmay
  refine ⟨fun h0 hbad => ?_, fun hpass hvalid hall => ?_⟩ <;> unfold State.moveFlit <;> dsimp only <;> rw [hfront] <;> dsimp only
  · rw [if_neg (by simp [hon, hmay, e]), if_neg (not_dropped hdrop), if_pos (by simpa [h0, chk] using hbad)]
  · rw [if_neg (by simp [hon, hmay, e]), if_neg (not_dropped hdrop), if_neg (by simp [hpass, chk]), if_neg (by simp [hvalid, e])]
    simp only [show flitCheck _ _ _ _ = HeadCheck.pass from hpass, ne_eq, not_true_eq_false, decide_false, Bool.or_false, if_true]
    exact if_pos hall

end

/-- Settles O19: what the gate buffer gives first; then the flit at the front, compared and moved. -/
theorem routersMovePacketsAndBundles : Obligations.RoutersMovePacketsAndBundles := by
  intro s r port sl reply err hfits u v key
  obtain ⟨hr, hport, hsl⟩ := routeFits_iff.1 hfits
  refine ⟨fun hseam => ?_, fun e es hseam hgate => gateCycle_gate hseam hgate, fun f fs hfront hreply hon hdrop => ?_,
    fun f fs hfront hon hdrop cmd hcmd => ?_⟩
  · exact if_pos (by rw [hseam]; rfl)
  · have hexec : exec (.routePacket r port sl reply false err) s = .next (u.routeFlit r port sl reply err) := by
      dsimp only [exec, execRoutePacket]
      exact onUnit_next hfits
    refine ⟨fun h0 hbad => by rw [hexec, routeFlit_discards hfront hon h0 hbad], fun out lane hlane hpass hcut hbound hcan hserves hstile => ?_⟩
    subst hreply
    have hgoes : u.flitGoes u.aveReady r port sl f = true := by
      unfold State.flitGoes
      dsimp only
      rw [show u.bound r (fqKey r port sl (replyType f.pkt.type)) f = some (out, lane) from hbound]
      dsimp only
      rw [hcan, hserves, hstile]
      simp
    have hbound' := (countCorrected_bound u r hport err key f).trans hbound
    have hfront' : ((u.countCorrected r port err).pav (pavOf r)).fqAt key = f :: fs := by
      rw [countCorrected_part u r port err (fun v => v.fqAt key) (fun _ => rfl), hfront]
    have hcores : ((u.countCorrected r port err).leaves r port sl f out lane).cores = s.cores := by
      rw [leaves_cores, countCorrected_cores]
      exact gateCycle_cores s r port
    rw [hexec, routeFlit_forwards hfront hon hdrop hpass hgoes]
    refine ⟨fun h4 hlast h0 h9 => ?_, fun r2 h4 hr2 hup => ?_⟩
    · rw [forwardFlit_goes hbound' hcut (.inl h4), if_pos h4, if_pos hlast]
      refine ⟨_, rfl, ?_, ?_⟩
      · rw [State.deliverCore, if_neg (by simp [h0, Nat.not_le.2 h9]), State.updCore_same, core_congr hcores]
      · rw [State.deliverCore, if_neg (by simp [h0, Nat.not_le.2 h9])]
        exact leaves_fqAt _ r port sl f out lane hfront'
    · have hne : out ≠ 4 := Nat.ne_of_lt h4
      have hup' : (u.countCorrected r port err).linkMarkedDown r out = false :=
        (countCorrected_part u r port err (fun v => v.downLinks.contains (coreIdx r * 4 + out)) (fun _ => rfl) (pavOf r)).trans hup
      rw [forwardFlit_goes hbound' hcut (.inr ⟨by rw [hr2]; rfl, hup'⟩), if_neg hne]
      refine ⟨fun hseam => ?_, fun hseam => ?_⟩
      · rw [putEntry_inside hr2 hseam]
        have hkey : fqKey r2 (opposite out) lane (replyType f.pkt.type) ≠ key :=
          fqKey_ne (coreIdx_neighbour hr2) hport (by unfold opposite; omega) hsl hlane
        refine ⟨_, rfl, ?_, ?_⟩
        · rw [pushFq_fqAt_other _ _ _ hkey.symm]
          exact leaves_fqAt _ r port sl f out lane hfront'
        · rw [pushFq_fqAt, leaves_fqAt_other _ _ _ _ _ _ _ _ hkey, countCorrected_part u r port err (fun v => v.fqAt _) (fun _ => rfl)]
      · obtain ⟨hfq, hlast⟩ := putEntry_seam (s := (u.countCorrected r port err).leaves r port sl f out lane) (lane := lane) (f := f) hr2 hseam
        refine ⟨_, rfl, ?_, hlast⟩
        unfold Pav.fqAt
        rw [hfq]
        exact leaves_fqAt _ r port sl f out lane hfront'
  · let e := v.ave aveActive (aveIdx r port sl)
    let own : Instr := if f.bun.drain then .drainMarker r port sl err else .avenueBundle r port sl err
    have hmoves {may : AveEntry → Bundle → Bool} (hmay : may e f.bun = true) := moveFlit_moves (err := err) hfront hon hdrop hmay
    have hown : ∃ may : AveEntry → Bundle → Bool, exec own s = .next (u.moveFlit r port sl err may) ∧ may e f.bun = true := by
      cases hdrain : f.bun.drain <;> simp only [own, hdrain, if_true, Bool.false_eq_true, if_false] <;>
        dsimp only [exec, execDrainMarker, execAvenueBundle]
      · exact ⟨fun _ b => !b.drain, onUnit_next hfits, by dsimp only; rw [hdrain]; rfl⟩
      · exact ⟨fun _ b => b.drain, onUnit_next hfits, hdrain⟩
    have hcmd : ∃ may : AveEntry → Bundle → Bool, exec cmd s = .next (u.moveFlit r port sl err may) ∧ may e f.bun = true := by
      split at hcmd
      · cases List.mem_singleton.1 hcmd
        exact hown
      next hpath =>
        rcases List.mem_cons.1 hcmd with rfl | hcmd
        · dsimp only [exec, execRoutePacket]
          exact ⟨fun e _ => !(e.valid && e.goesTo 4), onUnit_next hfits, congrArg not (Bool.not_eq_true _ |>.mp hpath)⟩
        · cases List.mem_singleton.1 hcmd
          exact hown
    obtain ⟨may, hexec, hmay⟩ := hcmd
    rw [hexec]
    obtain ⟨hbad, hgood⟩ := hmoves hmay
    exact ⟨fun h0 h => congrArg _ (hbad h0 h), fun hpass hvalid hall => congrArg _ (hgood hpass hvalid hall)⟩

end Sys2Proof.Machine

/-! ## Events of the fabric (R134, R157, R223, R224, R230, R446, R447) -/

namespace Sys2Proof.Machine

/-! ### Entries of avenues -/

/-- An entry's word with DRAINED cleared decodes to the entry with DRAINED clear. -/
theorem decodeAve_clearDrained (w : Word) : decodeAve (withBits w 30 1 0) = { decodeAve w with drained := false } := by
  have kept : ∀ lo n, lo + n ≤ 30 → bitsOf (withBits w 30 1 0) lo n = bitsOf w lo n := fun lo n h => bitsOf_withBits_other w 0 (by omega) (Or.inl h)
  have cleared : bitsOf (withBits w 30 1 0) 30 1 = 0 := bitsOf_withBits_same w 30 1 0 (by omega)
  unfold decodeAve
  rw [kept 0 1 (by omega), kept 1 2 (by omega), kept 3 10 (by omega), kept 13 5 (by omega), kept 18 2 (by omega), kept 20 2 (by omega),
    kept 22 2 (by omega), kept 24 2 (by omega), kept 28 2 (by omega), cleared]
  rfl

theorem aveActive_ne {i j : Nat} (h : i ≠ j) : aveActive + 8 * i ≠ aveActive + 8 * j := by omega

/-- Clearing an entry's DRAINED changes no other bit of any entry. -/
theorem clearDrained_ave (v : Pav) (i j : Nat) :
    (v.setF (Reg.PV_AVE_ACTIVE_DRAINED j) 0).ave aveActive i =
      if i = j then { v.ave aveActive i with drained := false } else v.ave aveActive i := by
  unfold Pav.ave Pav.setF setF Reg.PV_AVE_ACTIVE_DRAINED
  rw [show 0x20000 + 8 * j = aveActive + 8 * j from by unfold aveActive; exact rfl]
  dsimp only
  split
  next hij => rw [hij, getReg_setReg_same, decodeAve_clearDrained]
  next hij => rw [getReg_setReg_other _ _ (aveActive_ne hij)]

/-- One entry of a pavilion is armed: where it delivers for a garden of the mask, its DRAINED is clear. -/
def armEntry (mask : Nat) (v : Pav) (x : Nat × Nat × Nat) : Pav :=
  let i := aveIdx x.1 x.2.1 x.2.2
  let e := v.ave aveActive i
  if e.valid && e.goesTo 4 && mask.testBit e.garden && e.drained then v.setF (Reg.PV_AVE_ACTIVE_DRAINED i) 0 else v

/-- Whether an entry delivers for a garden of the mask. -/
def delivers (mask i : Nat) (v : Pav) : Bool :=
  (v.ave aveActive i).valid && (v.ave aveActive i).goesTo 4 && mask.testBit (v.ave aveActive i).garden

theorem delivers_armEntry (mask i : Nat) (v : Pav) (x : Nat × Nat × Nat) : delivers mask i (armEntry mask v x) = delivers mask i v := by
  unfold armEntry
  dsimp only
  split
  · unfold delivers
    rw [clearDrained_ave]
    split <;> rfl
  · rfl

theorem armEntry_keeps {mask i : Nat} {v : Pav} (x : Nat × Nat × Nat) (h : (v.ave aveActive i).drained = false) :
    ((armEntry mask v x).ave aveActive i).drained = false := by
  unfold armEntry
  dsimp only
  split
  · rw [clearDrained_ave]
    split
    · rfl
    · exact h
  · exact h

theorem armEntry_clears {mask : Nat} {v : Pav} {x : Nat × Nat × Nat} (h : delivers mask (aveIdx x.1 x.2.1 x.2.2) v = true) :
    ((armEntry mask v x).ave aveActive (aveIdx x.1 x.2.1 x.2.2)).drained = false := by
  unfold delivers at h
  unfold armEntry
  dsimp only
  rw [h, Bool.true_and]
  split
  · rw [clearDrained_ave, if_pos rfl]
  next hd => exact Bool.not_eq_true _ |>.mp hd

theorem armEntries_clears {mask : Nat} {x : Nat × Nat × Nat} {xs : List (Nat × Nat × Nat)} (hx : x ∈ xs) (v : Pav)
    (h : delivers mask (aveIdx x.1 x.2.1 x.2.2) v = true) :
    ((xs.foldl (armEntry mask) v).ave aveActive (aveIdx x.1 x.2.1 x.2.2)).drained = false := by
  have key := foldl_establishes (f := armEntry mask) (b := x) (l := xs)
    (P := fun w => delivers mask (aveIdx x.1 x.2.1 x.2.2) w = true → (w.ave aveActive (aveIdx x.1 x.2.1 x.2.2)).drained = false)
    (fun w hw => armEntry_clears (by rwa [delivers_armEntry] at hw))
    (fun w y hw hd => armEntry_keeps y (hw (by rwa [delivers_armEntry] at hd))) hx v
  exact key (by rw [foldl_keeps (g := delivers mask _) (fun w y => delivers_armEntry mask _ w y)]; exact h)

theorem mem_sins {a b : Nat} {l : List Nat} : a ∈ sins b l ↔ a = b ∨ a ∈ l := by
  induction l with
  | nil => simp [sins]
  | cons c l ih =>
    rw [sins]
    split
    · simp
    split
    next h => subst h; simp
    · simp only [List.mem_cons, ih]
      tauto

theorem onlyPav_updPav (p : Nat) (f : Pav → Pav) (s : State) : OnlyPav p s (s.updPav p f) := ⟨rfl, fun _ hd => State.updPav_other s p f hd⟩

/-- The marker of one source entry is put where it is wanted. -/
def markEntry (v : Pav) (mask r : Nat) (l : List Nat) (sl : Nat) : List Nat :=
  if (v.ave aveActive (aveIdx r 4 sl)).valid && mask.testBit (v.ave aveActive (aveIdx r 4 sl)).garden then sins (aveIdx r 4 sl) l else l

theorem markEntry_keeps {v : Pav} {mask r : Nat} {i : Nat} {l : List Nat} (sl : Nat) (h : i ∈ l) : i ∈ markEntry v mask r l sl := by
  unfold markEntry
  split
  · exact mem_sins.mpr (Or.inr h)
  · exact h

theorem markEntry_marks {v : Pav} {mask r sl : Nat} (l : List Nat) (hvalid : (v.ave aveActive (aveIdx r 4 sl)).valid = true)
    (hmask : mask.testBit (v.ave aveActive (aveIdx r 4 sl)).garden = true) : aveIdx r 4 sl ∈ markEntry v mask r l sl := by
  unfold markEntry
  rw [hvalid, hmask]
  exact mem_sins.mpr (Or.inl rfl)

theorem mem_foldl_markEntry {v : Pav} {mask r i : Nat} (sls : List Nat) {l : List Nat} (h : i ∈ l) : i ∈ sls.foldl (markEntry v mask r) l := by
  induction sls generalizing l with
  | nil => exact h
  | cons sl sls ih => exact ih (markEntry_keeps sl h)

theorem foldl_markEntry_marks {v : Pav} {mask r sl : Nat} {sls : List Nat} (hsl : sl ∈ sls) (l : List Nat)
    (hvalid : (v.ave aveActive (aveIdx r 4 sl)).valid = true) (hmask : mask.testBit (v.ave aveActive (aveIdx r 4 sl)).garden = true) :
    aveIdx r 4 sl ∈ sls.foldl (markEntry v mask r) l :=
  foldl_establishes (P := fun l => aveIdx r 4 sl ∈ l) (fun l => markEntry_marks l hvalid hmask) (fun _ x h => markEntry_keeps x h) hsl l

/-- Marking the entries of a pavilion puts the marker of each source entry of a garden of the mask. -/
theorem markEntries_marks {s : State} {p mask r sl : Nat} (hr : r ∈ coresOf p) (hsl : sl ∈ [1, 2, 3])
    (hvalid : ((s.pav p).ave aveActive (aveIdx r 4 sl)).valid = true) (hmask : mask.testBit ((s.pav p).ave aveActive (aveIdx r 4 sl)).garden = true) :
    aveIdx r 4 sl ∈ ((s.markEntries p mask).pav p).markers := by
  unfold State.markEntries
  rw [State.updPav_same]
  exact foldl_establishes (P := fun l => aveIdx r 4 sl ∈ l) (f := fun l r => [1, 2, 3].foldl (markEntry (s.pav p) mask r) l)
    (fun l => foldl_markEntry_marks hsl l hvalid hmask) (fun _ _ h => mem_foldl_markEntry _ h) hr _

/-! ### Bells and links -/

section
variable {s : State} {g b c : Nat} (hg : g < 4) (hb : b < 16) (hc : c < Config.coreSites)
include hg hb hc

theorem bellUnit : (decide (g < 4) && decide (b < 16) && decide (c < Config.coreSites)) = true := by
  rw [decide_eq_true hg, decide_eq_true hb, decide_eq_true hc]; rfl

/-- BELL_RELEASE of a release that is on its way. -/
theorem execBellRelease_onWay (hrel : s.bellRel.contains (g * 16 + b, c) = true) : execBellRelease g b c s = .next (
    if (s.pav (pavOf c)).testing c then
      if (s.pav (pavOf c)).queued.contains (c, 64 + b) then s else s.updPav (pavOf c) fun v => { v with queued := v.queued ++ [(c, 64 + b)] }
    else { s with bellRel := s.bellRel.erase (g * 16 + b, c) }.updCore c (Core.release b)) := by
  have hold : (s.bellRel.all fun e => decide (e.1 ≠ g * 16 + b)) = false :=
    List.all_eq_false.mpr ⟨(g * 16 + b, c), List.contains_iff_mem.mp hrel, by simp⟩
  unfold execBellRelease
  rw [onUnit_next (bellUnit hg hb hc)]
  dsimp only
  rw [hold, Bool.false_and, Bool.false_and, if_neg Bool.false_ne_true, hrel, if_neg (by decide)]

/-- BELL_RELEASE once every member has arrived. -/
theorem execBellRelease_allArrived (hmem : c ∈ s.bellMembers g b) (hall : ∀ d ∈ s.bellMembers g b, (s.core d).arrived b = true)
    (hnone : ∀ e ∈ s.bellRel, e.1 ≠ g * 16 + b) : execBellRelease g b c s =
      execBellRelease g b c { s with bellRel := s.bellRel ++ (s.bellMembers g b).map fun d => (g * 16 + b, d) } := by
  have hstart : (s.bellRel.all (fun e => decide (e.1 ≠ g * 16 + b)) && !(s.bellMembers g b).isEmpty &&
      (s.bellMembers g b).all fun d => (s.core d).arrived b) = true := by
    rw [List.all_eq_true.mpr fun e he => decide_eq_true (hnone e he), List.all_eq_true.mpr hall, List.isEmpty_eq_false_iff.mpr (List.ne_nil_of_mem hmem)]
    rfl
  have hrel : (s.bellRel ++ (s.bellMembers g b).map fun d => (g * 16 + b, d)).contains (g * 16 + b, c) = true :=
    List.contains_iff_mem.mpr (List.mem_append_right _ (List.mem_map.mpr ⟨c, hmem, rfl⟩))
  rw [execBellRelease_onWay (s := { s with bellRel := _ }) hg hb hc hrel]
  unfold execBellRelease
  rw [onUnit_next (bellUnit hg hb hc)]
  dsimp only
  rw [hstart, if_pos rfl, hrel, if_neg (by decide)]

end

theorem linkUnit {r side : Nat} (hr : r < Config.coreSites) (hside : side < 4) : (decide (r < Config.coreSites) && decide (side < 4)) = true := by
  rw [decide_eq_true hr, decide_eq_true hside]; rfl

/-- FP_QUIET: the garden's bit is set where no flit of it is held and no core of it awaits a reply. -/
theorem execFpQuiet_quiet {s : State} {p g : Nat} (hp : p < Config.pavilions) (hg : g < 4) (hflit : (s.pav p).holdsFlit g = false)
    (hawait : (s.pav p).owner ≠ some g ∨ (coresOf p).any s.awaitsReply = false) :
    execFpQuiet p g s = .next (s.updPav p fun v => v.setF Reg.PV_FAB_STATUS_FPQUIET (v.getF Reg.PV_FAB_STATUS_FPQUIET ||| 2 ^ g)) := by
  have hbusy : ((s.pav p).holdsFlit g || (decide ((s.pav p).owner = some g) && (coresOf p).any s.awaitsReply)) = false := by
    rw [hflit, Bool.false_or]
    rcases hawait with h | h
    · rw [decide_eq_false h, Bool.false_and]
    · rw [h, Bool.and_false]
  unfold execFpQuiet
  rw [onUnit_next (by rw [decide_eq_true hp, decide_eq_true hg]; rfl)]
  dsimp only
  rw [hbusy, if_neg Bool.false_ne_true]

theorem execFpQuiet_held {s : State} {p g : Nat} (hp : p < Config.pavilions) (hg : g < 4) (hflit : (s.pav p).holdsFlit g = true) :
    execFpQuiet p g s = .next s := by
  unfold execFpQuiet
  rw [onUnit_next (by rw [decide_eq_true hp, decide_eq_true hg]; rfl)]
  dsimp only
  rw [hflit, Bool.true_or, if_pos rfl]

theorem setQuiet_testBit (v : Pav) {g : Nat} (hg : g < 4) :
    ((v.setF Reg.PV_FAB_STATUS_FPQUIET (v.getF Reg.PV_FAB_STATUS_FPQUIET ||| 2 ^ g)).getF Reg.PV_FAB_STATUS_FPQUIET).testBit g = true := by
  unfold Pav.setF Pav.getF
  rw [getF_setF_same _ _ _ (by decide), show Reg.PV_FAB_STATUS_FPQUIET.w = 4 from rfl, Nat.testBit_mod_two_pow, Nat.testBit_or, Nat.testBit_two_pow_self,
    Bool.or_true, decide_eq_true hg]
  rfl

section
variable {s : State} {r side r2 lo hi : Nat} (hr : r < Config.coreSites) (hside : side < 4) (hr2 : neighbour r side = some r2) (hpav : pavOf r2 ≠ pavOf r)
include hr hside hr2 hpav

theorem execLinkDown_off (hoff : s.fabricOn r2 = false) : execLinkDown r side s = .next (s.markDown r side) := by
  unfold execLinkDown
  rw [onUnit_next (linkUnit hr hside), hr2]
  dsimp only
  rw [decide_eq_false hpav, hoff, Bool.false_or, if_neg Bool.false_ne_true]

section
variable (hon2 : s.fabricOn r2 = true) (hon : s.fabricOn r = true) (hup : s.linkUp r side = false)
include hon2 hon hup

/-- A check of a link within the window of 3 to 5. -/
theorem execGateBufferAlign_within (hlo : 3 ≤ lo) (hhi : hi ≤ 5) : execGateBufferAlign r side lo hi s =
    .next ((s.setUp r side true).updPav (pavOf r) fun v => { v.incF Reg.PV_CLK_CNT_REALIGN 1 with
      downLinks := sdel (coreIdx r * 4 + side) v.downLinks, alignFails := Fm.del (coreIdx r * 4 + side) v.alignFails })  := by
  unfold execGateBufferAlign
  rw [onUnit_next (linkUnit hr hside), hr2]
  dsimp only
  rw [decide_eq_false hpav, hon2, hon, hup, decide_eq_true hlo, decide_eq_true hhi]
  rfl

/-- A check of a link outside the window, of which fewer than eight have failed. -/
theorem execGateBufferAlign_outside (hout : lo < 3 ∨ 5 < hi) (hfails : Fm.get 0 (coreIdx r * 4 + side) (s.pav (pavOf r)).alignFails < 7) :
    execGateBufferAlign r side lo hi s = .next (s.updPav (pavOf r) fun v =>
      { v with alignFails := Fm.set 0 (coreIdx r * 4 + side) (Fm.get 0 (coreIdx r * 4 + side) (s.pav (pavOf r)).alignFails + 1) v.alignFails }) := by
  have hwindow : (decide (3 ≤ lo) && decide (hi ≤ 5)) = false := by
    rw [Bool.and_eq_false_iff, decide_eq_false_iff_not, decide_eq_false_iff_not]; omega
  unfold execGateBufferAlign
  rw [onUnit_next (linkUnit hr hside), hr2]
  dsimp only
  rw [decide_eq_false hpav, hon2, hon, hup, hwindow]
  simp only [Bool.not_true, Bool.or_false, Bool.false_eq_true, if_false]
  rw [if_pos (Nat.succ_lt_succ hfails)]

end
end

/-- Settles O20: each command is evaluated where its event is due; of the folds over a pavilion's entries only the step at the entry that is asked for counts. -/
theorem fabricEvents : Obligations.FabricEvents := by
  intro s
  refine ⟨fun g b c hg hb hc => ⟨fun hrel htest => ?_, fun hrel htest hq => ?_, fun hmem hall hnone htest => ?_⟩, fun c remote hc hon hreq => ?_,
    fun p g hp hg hflit hawait => ?_, fun p g hp hg hflit => ?_, fun p mask hp => ?_, fun p mask hp => ?_,
    fun r side r2 hr hside hr2 hpav => ⟨fun hoff => ?_, fun hon2 hon hup => ⟨fun lo hi hlo hhi => ?_, fun lo hi hout hfails => ?_⟩⟩⟩ <;>
    dsimp only [exec]
  · rw [execBellRelease_onWay hg hb hc hrel, htest, if_neg Bool.false_ne_true]
  · rw [execBellRelease_onWay hg hb hc hrel, htest, hq, if_pos rfl, if_neg Bool.false_ne_true]
  · rw [execBellRelease_allArrived hg hb hc hmem hall hnone, execBellRelease_onWay (s := { s with bellRel := _ }) hg hb hc
      (List.contains_iff_mem.mpr (List.mem_append_right _ (List.mem_map.mpr ⟨c, hmem, rfl⟩)))]
    refine congrArg Host.Outcome.next (if_neg fun htesting => ?_)
    exact absurd (htest.symm.trans htesting) nofun
  · refine (onCore_next hc).trans ?_
    rw [hon, hreq]
    rfl
  · rw [execFpQuiet_quiet hp hg hflit hawait]
    exact ⟨_, rfl, onlyPav_updPav _ _ _, by rw [State.updPav_same]; exact setQuiet_testBit _ hg⟩
  · exact execFpQuiet_held hp hg hflit
  · refine ⟨_, if_pos hp, onlyPav_updPav _ _ _, fun x hx hvalid hgoes hmask => ?_⟩
    unfold State.armEntries
    rw [State.updPav_same]
    exact armEntries_clears hx _ (by unfold delivers; rw [hvalid, hgoes, hmask]; rfl)
  · exact ⟨_, if_pos hp, onlyPav_updPav _ _ _, fun r hr sl hsl hvalid hmask => markEntries_marks hr hsl hvalid hmask⟩
  · exact execLinkDown_off hr hside hr2 hpav hoff
  · exact execGateBufferAlign_within hr hside hr2 hpav hon2 hon hup hlo hhi
  · exact execGateBufferAlign_outside hr hside hr2 hpav hon2 hon hup hout hfails

end Sys2Proof.Machine

/-! ## Upkeep of the scratchpads (R172-R181, R536) -/

namespace Sys2Proof.Machine

theorem mem_foldl_sins {a : Nat} (xs : List Nat) {l : List Nat} : a ∈ xs.foldl (fun l x => sins x l) l ↔ a ∈ xs ∨ a ∈ l := by
  induction xs generalizing l with
  | nil => simp
  | cons x xs ih => rw [List.foldl_cons, ih, mem_sins, List.mem_cons]; tauto

/-- What a scrub pass notes of the words of a core: `ue` hold a double-bit error, `ce` a single-bit one, in the period `period`. -/
def Core.noteScrub (period : Nat) (ce ue : List Nat) (k : Core) : Core :=
  let bad := ue.foldl (fun l w => sins w l) k.spadUe
  let single := (ce.foldl (fun l w => sins w l) k.spadCe).filter fun w => !bad.contains w
  let lines := (single.map fun w => lineKey (8 * w)).eraseDups
  let weak := (ue.filter fun w => !k.spadUe.contains w).map fun w => lineKey (8 * w)
  { k with spadUe := bad, spadCe := single, spadScrub := lines.foldl (fun m l => Fm.upd 0 l (· + 1) m) k.spadScrub,
           spadWeak := weak.foldl (fun l x => sins x l) k.spadWeak, scrubbed := period }

theorem mem_noteScrub_ue (period : Nat) (ce ue : List Nat) (k : Core) (w : Nat) : w ∈ (k.noteScrub period ce ue).spadUe ↔ w ∈ ue ∨ w ∈ k.spadUe :=
  mem_foldl_sins ue

theorem mem_noteScrub_ce (period : Nat) (ce ue : List Nat) (k : Core) (w : Nat) :
    w ∈ (k.noteScrub period ce ue).spadCe ↔ (w ∈ ce ∨ w ∈ k.spadCe) ∧ w ∉ ue ∧ w ∉ k.spadUe := by
  unfold Core.noteScrub
  simp [List.mem_filter, mem_foldl_sins, List.contains_eq_mem]

/-- The words of a list that a scratchpad has. -/
def spadWords (l : List Nat) : List Nat := l.filter (· < spadBytes / 8)

theorem mem_spadWords {l : List Nat} {w : Nat} : w ∈ spadWords l ↔ w ∈ l ∧ w < spadBytes / 8 := by simp [spadWords]

theorem wordIn_spad {w : Nat} (h : w < spadBytes / 8) : wordIn 0 spadBytes w = true := by
  unfold wordIn spadBytes at *
  simp only [Bool.and_eq_true, decide_eq_true_eq]
  omega

theorem execScrubPass_due {s : State} {c : Nat} (ce ue : List Nat) (hc : c < Config.coreSites) (hscrub : s.scrubs c = true)
    (hdue : (s.core c).scrubbed ≠ s.scrubPeriod c + 1) : execScrubPass c ce ue s =
      .next ((s.updCore c (Core.noteScrub (s.scrubPeriod c + 1) (spadWords ce) (spadWords ue))).spadTouch c 0 spadBytes 0) := by
  unfold execScrubPass
  rw [onCore_next hc]
  dsimp only
  rw [hscrub, decide_eq_false hdue]
  rfl

theorem execScrubPass_idle {s : State} {c : Nat} (ce ue : List Nat) (hc : c < Config.coreSites)
    (h : s.scrubs c = false ∨ (s.core c).scrubbed = s.scrubPeriod c + 1) : execScrubPass c ce ue s = .next s := by
  unfold execScrubPass
  rw [onCore_next hc, if_pos (by simpa [Bool.or_eq_true] using h)]

/-! ### Zeroing -/

theorem startZero_free {s : State} {p : Nat} (hbusy : (s.pav p).getF Reg.PV_SPAD_CTL_BUSY = 0)
    (hrun : ∀ c ∈ coresOf p, (s.core c).getF Reg.KP_CTRL_RUN ≠ 1) :
    s.startZero p = s.updPav p fun v => v.setF Reg.PV_SPAD_CTL_BUSY 1 := by
  have hnone : ((coresOf p).any fun c => decide ((s.core c).getF Reg.KP_CTRL_RUN = 1)) = false :=
    List.any_eq_false.mpr fun c hc => by rw [decide_eq_true_eq]; exact hrun c hc
  unfold State.startZero
  rw [hbusy, hnone]
  rfl

theorem getF_setF_busy (v : Pav) (n : Nat) : (v.setF Reg.PV_SPAD_CTL_BUSY n).getF Reg.PV_SPAD_CTL_BUSY = n % 2 :=
  getF_setF_same _ _ _ (by decide)

theorem zeroed_zeroed (k : Core) : k.zeroed.zeroed = k.zeroed := rfl

/-- A fold that zeroes the cores of a list zeroes them and no others. -/
theorem foldl_zeroed_core (cs : List Nat) (s : State) (c : Nat) :
    (cs.foldl (fun s d => s.updCore d Core.zeroed) s).core c = if c ∈ cs then (s.core c).zeroed else s.core c := by
  induction cs generalizing s with
  | nil => rfl
  | cons d cs ih =>
    rw [List.foldl_cons, ih]
    by_cases hcd : c = d
    · subst hcd
      rw [State.updCore_same, zeroed_zeroed, ite_self, if_pos List.mem_cons_self]
    · rw [State.updCore_other _ _ _ hcd]
      simp only [List.mem_cons, hcd, false_or]

theorem zeroPav_core (s : State) (p c : Nat) : (s.zeroPav p).core c = if c ∈ coresOf p then (s.core c).zeroed else s.core c :=
  foldl_zeroed_core _ _ _

theorem execZeroingComplete_busy {s : State} {p : Nat} (hp : p < Config.pavilions) (hbusy : (s.pav p).getF Reg.PV_SPAD_CTL_BUSY = 1)
    (hon : (s.pav p).getF Reg.PV_REG_STATUS_ON = 1) :
    execZeroingComplete p s = .next ((s.zeroPav p).updPav p fun v => v.setF Reg.PV_SPAD_CTL_BUSY 0) := by
  unfold execZeroingComplete
  refine (if_pos hp).trans ?_
  dsimp only
  rw [hbusy, hon]
  rfl

/-! ### Spare lines -/

/-- A core whose line `key` has been copied into a spare one. -/
def Core.redirected (key : Nat) (k : Core) : Core :=
  { k with spadCopying := sdel key k.spadCopying, spadRedir := k.spadRedir ++ [key], spadScrub := Fm.del key k.spadScrub,
           spadWeak := sdel key k.spadWeak }

/-- The record of a line that a spare one replaces (R536). -/
def lineRepair (c bank line spare : Nat) : Repair := { type := 2, source := 1, unit := c, a := bank + line * 2 ^ 5 + spare * 2 ^ 18, b := 0 }

theorem execLineRedirect_copied {s : State} {c bank line : Nat} (hc : c < Config.coreSites) (hon : s.computeOn c = true)
    (hcopy : (s.core c).spadCopying.contains (bank * 6144 + line) = true) : execLineRedirect c bank line s =
      .next ((s.updCore c (Core.redirected (bank * 6144 + line))).updIce fun h =>
        { h with repairs := h.repairs ++ [lineRepair c bank line ((s.core c).spareLines bank)] }) := by
  unfold execLineRedirect
  rw [onCore_next hc]
  dsimp only
  rw [hcopy, hon]
  rfl

/-- Settles O21: each command is evaluated where it is due, and its effect read off word by word or core by core. -/
theorem scratchpadUpkeep : Obligations.ScratchpadUpkeep := by
  intro s
  refine ⟨fun c ce ue hc hscrub hdue => ?_, fun c ce ue hc h => execScrubPass_idle ce ue hc h, fun c w hc hon hw => ?_, fun p hp hbusy hrun => ?_,
    fun p hp hbusy hon => ?_, fun c bank line hc hon hcopy => ?_⟩
  · refine ⟨_, execScrubPass_due ce ue hc hscrub hdue, ?_⟩
    dsimp only
    rw [spadTouch_core, State.updCore_same]
    refine ⟨rfl, rfl, fun w hw => ⟨fun hue => ?_, fun hue => ?_, fun hce hue hold => ?_⟩⟩
    · exact (mem_noteScrub_ue (s.scrubPeriod c + 1) (spadWords ce) (spadWords ue) (s.core c) w).mpr (Or.inl (mem_spadWords.mpr ⟨hue, hw⟩))
    · exact (mem_noteScrub_ue (s.scrubPeriod c + 1) (spadWords ce) (spadWords ue) (s.core c) w).mpr (Or.inr hue)
    · have hsingle := (mem_noteScrub_ce (s.scrubPeriod c + 1) (spadWords ce) (spadWords ue) (s.core c) w).mpr
        ⟨Or.inl (mem_spadWords.mpr ⟨hce, hw⟩), fun h => hue (mem_spadWords.mp h).1, hold⟩
      exact ⟨(mem_foldl_sins _).mpr (Or.inl (List.mem_filter.mpr ⟨hsingle, wordIn_spad hw⟩)), hsingle⟩
  · dsimp only [exec, execCorrectedWriteBack]
    rw [onCore_next hc, hon, List.contains_iff_mem.mpr hw]
    rfl
  · refine ⟨_, if_pos hp, ?_⟩
    dsimp only
    rw [startZero_free hbusy hrun]
    exact ⟨onlyPav_updPav _ _ _, by rw [State.updPav_same, getF_setF_busy]⟩
  · refine ⟨_, execZeroingComplete_busy hp hbusy hon, by rw [State.updPav_same, getF_setF_busy], fun c hc => ?_, fun c hc => ?_⟩
    · rw [updPav_core, zeroPav_core, if_pos hc]
      exact ⟨rfl, rfl, rfl, rfl⟩
    · rw [updPav_core, zeroPav_core, if_neg hc]
  · refine ⟨_, execLineRedirect_copied hc hon hcopy, ?_⟩
    dsimp only
    rw [core_congr (State.updIce_cores _ _), State.updCore_same]
    exact ⟨rfl, List.mem_append_right _ List.mem_cons_self, fun h => (mem_sdel.mp h).2 rfl, rfl⟩

end Sys2Proof.Machine

/-! ## The memory of an orangery and its packets (R235, R242, R244, R261, R270) -/

namespace Sys2Proof.Machine

/-! ### What reads of a memory leave alone -/

/-- The state without what a memory's errors and the reports of them touch. -/
def State.besideMemory (s : State) : State := { s with oras := [], gardens := [], wd := [], met := [], slow := [] }

theorem beside_cores {s t : State} (h : t.besideMemory = s.besideMemory) : t.cores = s.cores := by
  have hf := congrArg State.cores h
  exact hf
theorem beside_endOut {s t : State} (h : t.besideMemory = s.besideMemory) : t.endOut = s.endOut := by
  have hf := congrArg State.endOut h
  exact hf
theorem beside_tags {s t : State} (h : t.besideMemory = s.besideMemory) : t.tags = s.tags := by
  have hf := congrArg State.tags h
  exact hf
theorem beside_pending {s t : State} (h : t.besideMemory = s.besideMemory) : t.pending = s.pending := by
  have hf := congrArg State.pending h
  exact hf

theorem updOra_beside (s : State) (o : Nat) (f : Ora → Ora) : (s.updOra o f).besideMemory = s.besideMemory := rfl

theorem taint_beside (s : State) (g reason : Nat) : (s.taint g reason).besideMemory = s.besideMemory := by
  unfold State.taint
  split
  · rfl
  split
  · rfl
  split <;> rfl

theorem taintOpt_beside (s : State) (g : Option Nat) (reason : Nat) : (s.taintOpt g reason).besideMemory = s.besideMemory := by
  cases g
  · rfl
  · exact taint_beside _ _ _

theorem taint_oras (s : State) (g reason : Nat) : (s.taint g reason).oras = s.oras := by
  unfold State.taint
  split
  · rfl
  split
  · rfl
  split <;> rfl

theorem taintOpt_oras (s : State) (g : Option Nat) (reason : Nat) : (s.taintOpt g reason).oras = s.oras := by
  cases g
  · rfl
  · exact taint_oras _ _ _

theorem orang_congr {s t : State} (h : t.oras = s.oras) (o : Nat) : t.orang o = s.orang o := by unfold State.orang; rw [h]

/-- What a read of blocks does to the memory it reads. -/
def Ora.found (read : Nat → Bool) (v : Ora) : Ora :=
  let ce := v.ce.filter read
  let bad := (v.bad.filter read).foldl (fun l b => sins b l) (v.poison.filter read)
  if ce.isEmpty && bad.isEmpty then v
  else { (v.incF Reg.OR_MEM_CNT_CE ce.length).incF Reg.OR_MEM_CNT_UE bad.length with
         wb := ce.foldl (fun l b => sins b l) v.wb, poison := bad.foldl (fun l b => sins b l) v.poison, bad := v.bad.filter (fun b => !read b),
         rowBad := bad.foldl (fun r b => sins (Config.rowOf b) r) v.rowBad }

theorem findErrs_beside (s : State) (o : Nat) (read : Nat → Bool) (g : Option Nat) (op : Nat) :
    (s.findErrs o read g op).besideMemory = s.besideMemory := by
  unfold State.findErrs
  dsimp only
  split
  · rfl
  split
  · rfl
  rw [taintOpt_beside]
  cases g <;> rfl

theorem report_updOra_orang (s : State) (o : Nat) (f : Ora → Ora) (i : Incident) : ((s.updOra o f).report i).orang o = f (s.orang o) :=
  State.updOra_same s o f
theorem report_updGarden_updOra_orang (s : State) (o g : Nat) (f : Ora → Ora) (d : Gdn → Gdn) (i : Incident) :
    (((s.updOra o f).updGarden g d).report i).orang o = f (s.orang o) := State.updOra_same s o f

theorem findErrs_orang (s : State) (o : Nat) (read : Nat → Bool) (g : Option Nat) (op : Nat) :
    (s.findErrs o read g op).orang o = (s.orang o).found read := by
  unfold State.findErrs Ora.found
  extract_lets +onlyGivenNames v ce bad
  split
  next h => exact (if_pos h).symm
  next h =>
  extract_lets t
  refine Eq.trans ?_ (if_neg h).symm
  split
  · exact State.updOra_same _ _ _
  rw [orang_congr (taintOpt_oras _ _ _)]
  cases g with
  | none => exact report_updOra_orang _ _ _ _
  | some g => exact report_updGarden_updOra_orang _ _ _ _ _ _

theorem findErrs_slow (s : State) (o : Nat) (read : Nat → Bool) (g : Option Nat) (op : Nat) : (s.findErrs o read g op).slow = s.slow :=
  congrArg Prod.fst (State.findErrs_kept s o read g op)

theorem slow_beside (s : State) (m : FMap Byte) : { s with slow := m }.besideMemory = s.besideMemory := rfl

theorem spoil_beside (o : Nat) (s : State) (e : BlockErr) : (State.spoil o s e).besideMemory = s.besideMemory := by
  unfold State.spoil
  extract_lets +onlyGivenNames v
  split
  · rfl
  split
  · exact updOra_beside _ _ _
  extract_lets +onlyGivenNames t
  have ht : t.besideMemory = s.besideMemory := updOra_beside _ _ _
  clear_value t
  split
  · exact ht
  · exact (slow_beside _ _).trans ht

/-- The errors that a memory meets stay in its memory. -/
theorem meets_beside (s : State) (o : Nat) (e : MemErr) : (s.meets o e).besideMemory = s.besideMemory :=
  (updOra_beside _ _ _).trans (foldl_keeps (spoil_beside o) e.blocks s)

theorem slow_gardens (s : State) (m : FMap Byte) : { s with slow := m }.gardens = s.gardens := rfl
theorem spoil_gardens (o : Nat) (s : State) (e : BlockErr) : (State.spoil o s e).gardens = s.gardens := by
  unfold State.spoil
  extract_lets +onlyGivenNames v
  split
  · rfl
  split
  · exact State.updOra_gardens _ _ _
  extract_lets +onlyGivenNames t
  have ht : t.gardens = s.gardens := State.updOra_gardens _ _ _
  clear_value t
  split
  · exact ht
  · exact (slow_gardens _ _).trans ht

theorem meets_gardens (s : State) (o : Nat) (e : MemErr) : (s.meets o e).gardens = s.gardens := by
  unfold State.meets
  rw [State.updOra_gardens, foldl_keeps (g := State.gardens) (spoil_gardens o)]

theorem meets_slow {s : State} {o : Nat} {e : MemErr} (h : e.blocks = []) : (s.meets o e).slow = s.slow := by
  unfold State.meets
  rw [State.updOra_slow, h, List.foldl_nil]

theorem updOra_endTag (s : State) (o : Nat) (f : Ora → Ora) (code g : Nat) : (s.updOra o f).endTag code g = s.endTag code g := rfl

theorem meets_endTag (s : State) (o : Nat) (e : MemErr) (code g : Nat) : (s.meets o e).endTag code g = s.endTag code g := by
  unfold State.endTag State.garden
  rw [beside_tags (meets_beside s o e), meets_gardens]

/-! ### Writes of the slow tier -/

theorem slowWrite_slow (s : State) (a : Nat) (bs : List Byte) : (s.slowWrite a bs).slow = writeBytes a bs s.slow := rfl

/-- A write that no arena watches for a commit writes its bytes. -/
theorem gardenWrite_slow {s : State} {o g a : Nat} {bs : List Byte} (h : (s.orang o).inArena g a = false ∨ (s.orang o).eng g ≤ engCollect) :
    (s.gardenWrite o g a bs).slow = writeBytes a bs s.slow := by
  unfold State.gardenWrite
  dsimp only
  split
  · rfl
  next harena =>
  split
  next hlate =>
    rcases h with h | h
    · exact absurd (by rw [h]; rfl) harena
    · rw [Bool.and_eq_true, decide_eq_true_eq, decide_eq_true_eq] at hlate
      exact absurd (Nat.le_trans hlate.1 h) (by decide)
  split <;> rfl

/-- A late write is counted. -/
theorem gardenWrite_late {s : State} {o g a : Nat} (bs : List Byte) (harena : (s.orang o).inArena g a = true) (hlo : engPreparing ≤ (s.orang o).eng g)
    (hhi : (s.orang o).eng g ≤ engCommitting) : s.gardenWrite o g a bs =
      s.updOra o fun v => { v.incF Reg.OR_ENG_CNT_LATE 1 with lateSince := Fm.upd 0 g (· + 1) v.lateSince } := by
  unfold State.gardenWrite
  dsimp only
  rw [harena, decide_eq_true hlo, decide_eq_true hhi]
  rfl

/-! ### Packets at an orangery -/

theorem sendEnd_slow (s : State) (code : Nat) (p : Packet) : (s.sendEnd code p).slow = s.slow := rfl
theorem sendEnd_endOut (s : State) (code : Nat) (p : Packet) :
    (s.sendEnd code p).endOut = Fm.upd [] code (· ++ [{ p with src := code }]) s.endOut := rfl


theorem isOra_lt {o : Nat} (h : Config.orangeryPresent o = true) : o < 16 := by
  unfold Config.orangeryPresent at h
  rw [Bool.and_eq_true, decide_eq_true_eq] at h
  exact h.1

theorem onOra_next {o : Nat} {s : State} {f : State → State} (h : Config.orangeryPresent o = true) : onOra o s f = .next (f s) := if_pos h

theorem atEndpoint_ora {o : Nat} {s : State} {core ora : State → Nat → State} {host post : State → State} (h : Config.orangeryPresent o = true) :
    atEndpoint (codeOra o) s core ora host post = .next (ora s o) := by
  have ho := isOra_lt h
  have hsub : codeOra o - codeOra 0 = o := by unfold codeOra; omega
  have hnot : ¬ codeOra o < Config.coreSites := by unfold codeOra Config.coreSites; omega
  unfold atEndpoint
  rw [if_neg hnot, if_pos (by unfold codeOra; omega), hsub, onOra_next h]

theorem updOra_slowRead (s : State) (o : Nat) (f : Ora → Ora) (a n : Nat) : (s.updOra o f).slowRead a n = s.slowRead a n := rfl

/-- What an orangery does with a READ it applies. -/
def State.readReply (o : Nat) (p : Packet) (s : State) : State :=
  let n := p.span
  let inn := min n (Config.slowBytes - p.addr)
  let s := if Config.slowBytes < p.addr + n then s.addrError p.garden else s
  let s := s.slowTouch p.addr inn (some p.garden) 0x5002
  s.sendEnd (codeOra o) (p.replyTo 3 (leVal p.payload % 2 ^ 23) (s.slowRead p.addr inn ++ List.replicate (n - inn) 0))

theorem readOra_eq (s : State) (o : Nat) (err : MemErr) : s.readOra o err = s.oraArrival o 2 err (State.readReply o) := rfl

/-- A READ inside the slow tier is answered with its bytes. -/
theorem readReply_inside (s : State) (o : Nat) {p : Packet} (hin : p.addr + p.span ≤ Config.slowBytes) :
    (s.readReply o p).slow = s.slow ∧ (s.readReply o p).endOut =
      Fm.upd [] (codeOra o) (· ++ [{ p.replyTo 3 (leVal p.payload % 2 ^ 23) (s.slowRead p.addr p.span) with src := codeOra o }]) s.endOut := by
  have hmin : min p.span (Config.slowBytes - p.addr) = p.span := Nat.min_eq_left (Nat.le_sub_of_add_le' hin)
  have hslow : (s.slowTouch p.addr p.span (some p.garden) 0x5002).slow = s.slow := findErrs_slow _ _ _ _ _
  have hout : (s.slowTouch p.addr p.span (some p.garden) 0x5002).endOut = s.endOut := beside_endOut (findErrs_beside _ _ _ _ _)
  have hread : (s.slowTouch p.addr p.span (some p.garden) 0x5002).slowRead p.addr p.span = s.slowRead p.addr p.span := by
    rw [State.slowRead, hslow, State.slowRead]
  unfold State.readReply
  dsimp only
  rw [hmin, if_neg (Nat.not_lt.mpr hin), sendEnd_slow, sendEnd_endOut, hslow, hout, hread, Nat.sub_self, List.replicate_zero, List.append_nil]
  exact ⟨rfl, rfl⟩

section
variable {s : State} {o : Nat} {p : Packet} {ps : List Packet} (hbox : (s.orang o).inbox = p :: ps)
  (hfree : (s.orang o).channelHeld (localOf p.addr) p.span = false) (htag : s.endTag (codeOra o) p.garden = p.gen)
include hbox hfree htag

/-- A fresh packet whose channels are free is applied, after what the memory meets. -/
theorem oraArrival_applies {n : Nat} (htype : p.type = n) (err : MemErr) (f : Packet → State → State) :
    s.oraArrival o n err f = f p ((s.meets o err).updOra o fun v => { v with inbox := ps }) := by
  generalize hm : s.meets o err = m
  have htag' : (m.updOra o fun v => { v with inbox := ps }).endTag (codeOra o) p.garden = p.gen := by
    rw [updOra_endTag, ← hm, meets_endTag, htag]
  unfold State.oraArrival
  extract_lets +onlyGivenNames v
  subst htype
  rw [show v.inbox = p :: ps from hbox, hm]
  dsimp only
  rw [show v.channelHeld (localOf p.addr) p.span = false from hfree, htag', if_neg (by simp), if_neg (not_not_intro rfl)]

end

/-- Settles O22: the packet is applied after what the memory meets (`oraArrival_applies`), and a write's bytes read back (`gardenWrite_slow`). -/
theorem orangeryAnswersPackets : Obligations.OrangeryAnswersPackets := by
  intro s o p ps err hpres hbox hfree htag met u
  refine ⟨fun htype hin => ?_, fun htype hin => ?_, meets_slow,
    fun g a bs => ⟨fun h => ?_, fun harena hlo hhi => ?_⟩⟩
  · dsimp only [exec, execDevwrite]
    rw [onOra_next hpres, oraArrival_applies hbox hfree htag htype]
    exact congrArg Host.Outcome.next (congrArg (State.sendEnd · _ _) (if_neg (by omega)))
  · dsimp only [exec, execRead]
    refine ⟨_, atEndpoint_ora hpres, ?_⟩
    rw [readOra_eq, oraArrival_applies hbox hfree htag htype]
    obtain ⟨hslow, hout⟩ := readReply_inside u o hin
    refine ⟨hslow.trans (State.updOra_slow _ _ _), ?_⟩
    rw [hout, Fm.get_upd_same, beside_endOut ((updOra_beside met o _).trans (meets_beside s o err)), updOra_slowRead]
  · refine ⟨?_, fun b hb => ?_⟩
    · rw [State.slowRead, gardenWrite_slow h, readBytes_writeBytes]
    · rw [gardenWrite_slow h, get_writeBytes_outside _ _ hb]
  · rw [gardenWrite_late bs harena hlo hhi]
    exact ⟨rfl, by rw [State.updOra_same, Fm.get_upd_same]⟩

end Sys2Proof.Machine

/-! ## The update engine (R250-R273, R278) -/

namespace Sys2Proof.Machine

/-! ### Commands -/

theorem updOra_congr {s : State} {o : Nat} {f h : Ora → Ora} (e : f (s.orang o) = h (s.orang o)) : s.updOra o f = s.updOra o h := by
  unfold State.updOra State.setOra
  rw [e]

theorem onEngine_next {o g : Nat} {s : State} {f : State → State} (hpres : Config.orangeryPresent o = true) (hg : g < 4) :
    onEngine o g s f = .next (f s) := by
  unfold onEngine
  rw [onUnit_next (by rw [hpres, decide_eq_true hg]; rfl)]

section
variable {s : State} {o g : Nat} (hpres : Config.orangeryPresent o = true) (hg : g < 4)
include hpres hg

/-- An engine's command changes its orangery alone. -/
theorem onEngine_answers {f h : Ora → Ora} (e : f (s.orang o) = h (s.orang o)) : onEngine o g s (fun s => s.updOra o f) = .next (s.updOra o h) := by
  rw [onEngine_next hpres hg, updOra_congr e]

end

theorem command_taken {v : Ora} {g : Nat} {ok : Nat → Bool} (f : Ora → Ora) (h : ok (v.eng g) = true) : v.command g ok f = f v := by
  unfold Ora.command
  rw [h]
  rfl

theorem command_refused {v : Ora} {g : Nat} {ok : Nat → Bool} (f : Ora → Ora) (h : ok (v.eng g) = false) : v.command g ok f = v.cmdErr := by
  unfold Ora.command
  rw [h, Bool.and_false]
  rfl

theorem mayDiscard_iff {e : Nat} :
    (decide (e = engCollect) || decide (e = engPrepared) || decide (e = engRefused)) = true ↔ e = engCollect ∨ e = engPrepared ∨ e = engRefused := by
  simp only [Bool.or_eq_true, decide_eq_true_eq, or_assoc]

theorem mayDisarm_iff {e : Nat} : (decide (e ≠ engNone) && decide (e ≠ engNorm)) = true ↔ e ≠ engNone ∧ e ≠ engNorm := by
  rw [Bool.and_eq_true, decide_eq_true_eq, decide_eq_true_eq]

theorem execOrLayerWord_writes {s : State} {o layer w : Nat} (value : Word) (hpres : Config.orangeryPresent o = true) (hlayer : layer < 65536)
    (hw : w < 8) : execOrLayerWord o layer w value s = .next (s.updOra o (Ora.writeLayer layer w value)) :=
  onUnit_next (by rw [hpres, decide_eq_true hlayer, decide_eq_true hw]; rfl)

theorem writeLayer_taken {v : Ora} {layer w : Nat} {value : Word} (h : v.layerWritable layer w value = true) :
    v.writeLayer layer w value = { v with regs := setReg .ora (layerOff layer w) value v.regs } := by
  unfold Ora.writeLayer
  rw [h]
  rfl

theorem writeLayer_refused {v : Ora} {layer w : Nat} {value : Word} (h : v.layerWritable layer w value = false) :
    v.writeLayer layer w value = v.cmdErr := by
  unfold Ora.writeLayer
  rw [h]
  rfl

/-- Settles O23: each command tests the engine's state (`command_taken`, `command_refused`) and changes its orangery alone (`onEngine_answers`). -/
theorem updateEngineCommands : Obligations.UpdateEngineCommands := by
  intro s o g hpres hg v e answers
  refine ⟨fun he hplan => ?_, fun he hplan => ?_, fun he => ?_, fun scale he => ?_, fun he => ?_, fun h0 h1 h6 => ?_, fun he => ?_, fun he => ?_,
    fun he => ?_, fun scale he => ?_, fun h2 h4 h5 => ?_, fun he => ?_, fun value => ⟨fun he => ?_, fun he => ?_⟩,
    fun layer w value hlayer hw => ⟨fun hok => ?_, fun hok => ?_⟩⟩ <;> dsimp only [answers, exec]
  · exact onEngine_answers hpres hg ((command_taken _ (decide_eq_true he)).trans (if_pos hplan))
  · exact onEngine_answers hpres hg ((command_taken _ (decide_eq_true he)).trans (if_neg (by rw [hplan]; decide)))
  · exact onEngine_answers hpres hg (command_taken _ (decide_eq_true he))
  · exact onEngine_answers hpres hg (command_taken _ (decide_eq_true he))
  · exact onEngine_answers hpres hg (command_taken _ (mayDiscard_iff.mpr he))
  · exact onEngine_answers hpres hg ((command_taken _ (mayDisarm_iff.mpr ⟨h0, h1⟩)).trans (if_neg h6))
  · exact onEngine_answers hpres hg ((command_taken _ (mayDisarm_iff.mpr ⟨fun h => absurd (he.symm.trans h) (by decide), fun h => absurd (he.symm.trans h) (by decide)⟩)).trans (if_pos he))
  · exact onEngine_answers hpres hg (command_refused _ (decide_eq_false he))
  · exact onEngine_answers hpres hg (command_refused _ (decide_eq_false he))
  · exact onEngine_answers hpres hg (command_refused _ (decide_eq_false he))
  · exact onEngine_answers hpres hg (command_refused _ (Bool.eq_false_iff.mpr fun h => by
      rcases mayDiscard_iff.mp h with h | h | h
      · exact h2 h
      · exact h4 h
      · exact h5 h))
  · exact onEngine_answers hpres hg (command_refused _ (Bool.eq_false_iff.mpr fun h => by
      obtain ⟨h0, h1⟩ := mayDisarm_iff.mp h
      exact he.elim h0 h1))
  · exact onEngine_answers hpres hg (if_neg (not_not_intro he))
  · exact onEngine_answers hpres hg (if_pos he)
  · rw [execOrLayerWord_writes value hpres hlayer hw]
    exact congrArg Host.Outcome.next (updOra_congr (writeLayer_taken hok))
  · rw [execOrLayerWord_writes value hpres hlayer hw]
    exact congrArg Host.Outcome.next (updOra_congr (writeLayer_refused hok))

/-! ### Passes -/

theorem getF_setF_eng (v : Ora) {g : Nat} (hg : g < 4) (e : Nat) : (v.setEng g e).eng g = e % 8 :=
  getF_setF_same _ _ _ (show 3 * g + 3 ≤ 64 by omega)

theorem eng_toCollect (v : Ora) (o : Nat) {g : Nat} (hg : g < 4) : (v.toCollect o g).eng g = engCollect := getF_setF_eng _ hg _

/-- What a read finds of a memory's errors leaves what an engine keeps beside its registers. -/
theorem found_lateSince (read : Nat → Bool) (v : Ora) : (v.found read).lateSince = v.lateSince := by
  unfold Ora.found
  dsimp only
  split <;> rfl
theorem found_deferDisarm (read : Nat → Bool) (v : Ora) : (v.found read).deferDisarm = v.deferDisarm := by
  unfold Ora.found
  dsimp only
  split <;> rfl

/-- The DISARM of an orangery that waits for a commit's end. -/
def State.deferred (o : Nat) (s : State) : List Nat := (s.orang o).deferDisarm

theorem findErrs_deferred (s : State) (o : Nat) (read : Nat → Bool) (g : Option Nat) (op : Nat) : (s.findErrs o read g op).deferred o = s.deferred o := by
  unfold State.deferred
  rw [findErrs_orang, found_deferDisarm]

theorem updOra_deferred {s : State} (o p : Nat) {f : Ora → Ora} (h : ∀ v, (f v).deferDisarm = v.deferDisarm) : (s.updOra p f).deferred o = s.deferred o := by
  unfold State.deferred
  by_cases hop : o = p
  · rw [hop, State.updOra_same, h]
  · rw [State.updOra_other _ _ _ hop]

theorem incF_deferDisarm (v : Ora) (f : Fld) (n : Nat) : (v.incF f n).deferDisarm = v.deferDisarm := by unfold Ora.incF; rfl
theorem setF_deferDisarm (v : Ora) (f : Fld) (n : Nat) : (v.setF f n).deferDisarm = v.deferDisarm := by unfold Ora.setF; rfl
theorem wrote_deferDisarm (whole touched : Nat → Bool) (v : Ora) : (v.wrote whole touched).deferDisarm = v.deferDisarm := by
  unfold Ora.wrote
  rfl
theorem sums_deferDisarm (v : Ora) (m : FMap Word) : { v with sums := m }.deferDisarm = v.deferDisarm := rfl

theorem slow_deferred (s : State) (m : FMap Byte) (o : Nat) : { s with slow := m }.deferred o = s.deferred o := rfl

theorem slowWrite_deferred (s : State) (o a : Nat) (bs : List Byte) : (s.slowWrite a bs).deferred o = s.deferred o := by
  unfold State.slowWrite
  exact updOra_deferred (s := { s with slow := _ }) o _ (wrote_deferDisarm _ _)

theorem engineIncident_deferred (s : State) (o p g : Nat) : (s.engineIncident p g).deferred o = s.deferred o := rfl

theorem commitGranule_deferred (o : Nat) (l : Layer) (k : Coef) (p : Pass) (qj : Nat × Nat) :
    (State.commitGranule o l k p qj).s.deferred o = p.s.deferred o := by
  unfold State.commitGranule
  extract_lets +onlyGivenNames wA mA sA slot data own
  split
  · rfl
  split
  · rfl
  extract_lets +onlyGivenNames s q v
  have hs : s.deferred o = p.s.deferred o := findErrs_deferred _ _ _ _ _
  clear_value s
  split
  · exact hs
  split
  · exact (engineIncident_deferred _ _ _ _).trans ((updOra_deferred _ _ fun v => incF_deferDisarm v _ _).trans hs)
  extract_lets +onlyGivenNames ws ms bs fs
  split
  refine (updOra_deferred _ _ fun v => ?_).trans ((slowWrite_deferred _ _ _ _).trans ((slowWrite_deferred _ _ _ _).trans hs))
  exact (sums_deferDisarm _ _).trans ((setF_deferDisarm _ _ _).trans (incF_deferDisarm _ _ _))

theorem commitLayer_deferred (o : Nat) (p : Pass) (l : Layer) : (State.commitLayer o p l).s.deferred o = p.s.deferred o := by
  unfold State.commitLayer
  split
  · rfl
  extract_lets +onlyGivenNames s k q
  have hs : s.deferred o = p.s.deferred o := (findErrs_deferred _ _ _ _ _).trans (updOra_deferred _ _ fun v => setF_deferDisarm v _ _)
  have hq : q.s.deferred o = p.s.deferred o :=
    (foldl_keeps (g := fun p : Pass => p.s.deferred o) (commitGranule_deferred o l k) _ _).trans hs
  clear_value q
  split
  · exact hq
  · exact (engineIncident_deferred _ _ _ _).trans hq

/-- A commit's end: the engine goes to `e`, or is disarmed where that was asked. -/
theorem eng_endCommit (v : Ora) {g : Nat} (hg : g < 4) :
    (v.endCommit g).eng g = if v.deferDisarm.contains g then engNone else v.eng g := by
  unfold Ora.endCommit
  split
  · exact getF_setF_eng _ hg _
  · rfl

theorem toCollect_deferDisarm (v : Ora) (o g : Nat) : (v.toCollect o g).deferDisarm = v.deferDisarm := by
  unfold Ora.toCollect Ora.setEng Ora.clearWritten
  rw [setF_deferDisarm]
  extract_lets mask
  exact wrote_deferDisarm mask mask v

/-- A commit that went through all its layers. -/
theorem runCommit_ends {s : State} {o g : Nat} {left : Option Nat}
    (h : (((s.orang o).layersOf g).foldl (State.commitLayer o) { s := s, left := left }).broken = false) :
    s.runCommit o g left = (((s.orang o).layersOf g).foldl (State.commitLayer o) { s := s, left := left }).s.updOra o
      fun v => (v.toCollect o g).endCommit g :=
  if_neg (by rw [h]; decide)

/-- A commit that broke off. -/
theorem runCommit_breaks {s : State} {o g : Nat} {left : Option Nat}
    (h : (((s.orang o).layersOf g).foldl (State.commitLayer o) { s := s, left := left }).broken = true) :
    s.runCommit o g left = ((((s.orang o).layersOf g).foldl (State.commitLayer o) { s := s, left := left }).s.engineIncident o g).updOra o
      fun v => (v.setEng g engFault).endCommit g :=
  if_pos h

theorem foldl_commitLayer_deferred (o : Nat) (ls : List Layer) (p : Pass) : (ls.foldl (State.commitLayer o) p).s.deferred o = p.s.deferred o :=
  foldl_keeps (g := fun p : Pass => p.s.deferred o) (commitLayer_deferred o) ls p

/-- The engine after a commit. -/
theorem runCommit_eng (s : State) (o : Nat) {g : Nat} (hg : g < 4) (left : Option Nat) : ((s.runCommit o g left).orang o).eng g =
    if (s.orang o).deferDisarm.contains g then engNone
    else if (((s.orang o).layersOf g).foldl (State.commitLayer o) { s := s, left := left }).broken then engFault else engCollect := by
  have hdefer := foldl_commitLayer_deferred o ((s.orang o).layersOf g) { s := s, left := left }
  unfold State.deferred at hdefer
  cases hbroken : (((s.orang o).layersOf g).foldl (State.commitLayer o) { s := s, left := left }).broken with
  | false =>
    rw [runCommit_ends hbroken, State.updOra_same, eng_endCommit _ hg, toCollect_deferDisarm, hdefer, eng_toCollect _ _ hg]
    rfl
  | true =>
    have hincident (t : State) : (t.engineIncident o g).orang o = t.orang o := rfl
    rw [runCommit_breaks hbroken, State.updOra_same, eng_endCommit _ hg, hincident, Ora.setEng, setF_deferDisarm, hdefer, ← Ora.setEng, getF_setF_eng _ hg]
    rfl

section
variable {s : State} {o g : Nat} {err : MemErr} (hpres : Config.orangeryPresent o = true) (hg : g < 4)
include hpres hg

theorem execNormPassEnd_norms (he : ((s.meets o err).orang o).eng g = engNorm) (hlost : ((s.meets o err).orang o).lost = false) :
    execNormPassEnd o g err s = .next (((((s.meets o err).orang o).layersOf g).foldl (State.normLayer o) (s.meets o err)).updOra o (Ora.toCollect o g)) := by
  unfold execNormPassEnd
  rw [onEngine_next hpres hg]
  exact congrArg Host.Outcome.next (if_neg (by rw [hlost, he]; decide))

theorem execNormPassEnd_idle (he : ((s.meets o err).orang o).eng g ≠ engNorm) : execNormPassEnd o g err s = .next (s.meets o err) := by
  unfold execNormPassEnd
  rw [onEngine_next hpres hg]
  exact congrArg Host.Outcome.next (if_pos (by rw [decide_eq_true he, Bool.true_or]))

theorem execPreparePassEnd_idle (he : ((s.meets o err).orang o).eng g ≠ engPreparing) : execPreparePassEnd o g err s = .next (s.meets o err) := by
  unfold execPreparePassEnd
  rw [onEngine_next hpres hg]
  exact congrArg Host.Outcome.next (if_pos (by rw [decide_eq_true he, Bool.true_or]))

theorem execCommitEnd_idle (broken : Option Nat) (he : ((s.meets o err).orang o).eng g ≠ engCommitting) :
    execCommitEnd o g err broken s = .next (s.meets o err) := by
  unfold execCommitEnd
  rw [onEngine_next hpres hg]
  exact congrArg Host.Outcome.next (if_pos he)

theorem execCommitEnd_commits (broken : Option Nat) (he : ((s.meets o err).orang o).eng g = engCommitting) :
    execCommitEnd o g err broken s = .next ((s.meets o err).runCommit o g broken) := by
  unfold execCommitEnd
  rw [onEngine_next hpres hg]
  exact congrArg Host.Outcome.next (if_neg (not_not_intro he))

end

/-- The blocks of written masks that the pass before a commit reads. -/
def preparedBlocks (o g : Nat) (v : Ora) : List Nat :=
  (v.layersOf g).flatMap fun l => (l.owned o).map fun qj => writtenBlock (localOf (l.sAddr qj.2))

/-- What the pass before a commit leaves of the engine: `n` partial sign blocks were found. -/
def Ora.prepared (g n : Nat) (v : Ora) : Ora :=
  (v.incF Reg.OR_ENG_CNT_PARTIAL n).setEng g (if n = 0 && Fm.get 0 g v.lateSince = 0 then engPrepared else engRefused)

theorem eng_prepared (v : Ora) {g : Nat} (hg : g < 4) (n : Nat) :
    (v.prepared g n).eng g = if n = 0 ∧ Fm.get 0 g v.lateSince = 0 then engPrepared else engRefused := by
  unfold Ora.prepared
  rw [getF_setF_eng _ hg]
  by_cases h : n = 0 ∧ Fm.get 0 g v.lateSince = 0
  · rw [if_pos h, if_pos (by rw [decide_eq_true h.1, decide_eq_true h.2]; rfl)]
    rfl
  · rw [if_neg h, if_neg (by rw [Bool.and_eq_true, decide_eq_true_eq, decide_eq_true_eq]; exact h)]
    rfl

theorem execPreparePassEnd_prepares {s : State} {o g : Nat} {err : MemErr} (hpres : Config.orangeryPresent o = true) (hg : g < 4)
    (he : ((s.meets o err).orang o).eng g = engPreparing) (hlost : ((s.meets o err).orang o).lost = false) :
    execPreparePassEnd o g err s = .next
      (((s.meets o err).findErrs o (preparedBlocks o g ((s.meets o err).orang o)).contains (some g) 0).updOra o
        (Ora.prepared g (((s.meets o err).orang o).partials o g))) := by
  unfold execPreparePassEnd
  rw [onEngine_next hpres hg]
  exact congrArg Host.Outcome.next (if_neg (by rw [hlost, he]; decide))

/-- Settles O24: where its engine is in the pass the command runs it to its end, whose state is read off (`eng_toCollect`, `eng_prepared`,
`runCommit_eng`). -/
theorem updateEnginePasses : Obligations.UpdateEnginePasses := by
  intro s o g err hpres hg u v
  refine ⟨fun he hlost => ?_, fun he hlost => ?_, fun broken he => ?_, execNormPassEnd_idle hpres hg, execPreparePassEnd_idle hpres hg,
    fun broken => execCommitEnd_idle hpres hg broken⟩
  · exact ⟨_, execNormPassEnd_norms hpres hg he hlost, rfl, by rw [State.updOra_same, eng_toCollect _ _ hg]⟩
  · refine ⟨_, execPreparePassEnd_prepares hpres hg he hlost, ?_, ?_, ?_⟩
    · rw [State.updOra_slow, findErrs_slow]
    · rw [State.updOra_cores, beside_cores ((findErrs_beside _ _ _ _ _).trans (meets_beside s o err))]
    · rw [State.updOra_same, eng_prepared _ hg, findErrs_orang, found_lateSince]
  · obtain ⟨hpending, hwf⟩ := (State.meets_sound s o err).trans (State.runCommit_sound u o g broken)
    exact ⟨_, execCommitEnd_commits hpres hg broken he, hpending, hwf, runCommit_ends, runCommit_breaks, runCommit_eng u o hg broken⟩

end Sys2Proof.Machine

/-! ## Channels, scrubbing, rows and links of the orangeries (R237-R239, R242-R249) -/

namespace Sys2Proof.Machine

theorem onlyOra_updOra (o : Nat) (f : Ora → Ora) (s : State) : OnlyOra o s (s.updOra o f) := ⟨rfl, fun _ hd => State.updOra_other s o f hd⟩

/-- A command that changes its orangery alone. -/
theorem completes_updOra {r : Res} {s : State} {o : Nat} {f : Ora → Ora} {P : State → Prop} (hr : r = .next (s.updOra o f))
    (hP : P (s.updOra o f)) : Completes r fun t => OnlyOra o s t ∧ P t := ⟨_, hr, onlyOra_updOra _ _ _, hP⟩

/-! ### Register fields of an orangery -/

theorem Ora.getF_setF_same (v : Ora) (f : Fld) (n : Nat) (h : f.lo + f.w ≤ 64) : (v.setF f n).getF f = n % 2 ^ f.w := Machine.getF_setF_same f n _ h

theorem Ora.getF_setF_other (v : Ora) {f g : Fld} (n : Nat) (h : f.lo + f.w ≤ 64)
    (hd : g.off ≠ f.off ∨ (g.blk = f.blk ∧ (g.lo + g.w ≤ f.lo ∨ f.lo + f.w ≤ g.lo))) : (v.setF f n).getF g = v.getF g :=
  Machine.getF_setF_other f g n _ h hd

theorem Ora.getF_incF_other (v : Ora) {f g : Fld} (n : Nat) (h : f.lo + f.w ≤ 64)
    (hd : g.off ≠ f.off ∨ (g.blk = f.blk ∧ (g.lo + g.w ≤ f.lo ∨ f.lo + f.w ≤ g.lo))) : (v.incF f n).getF g = v.getF g :=
  Machine.getF_setF_other f g _ _ h hd

/-! ### Channels -/

theorem getF_holdChannel (v : Ora) (ch : Nat) : (v.holdChannel ch).getF Reg.OR_MEM_STATUS_HELD = (ch + 1) % 16 :=
  Machine.getF_setF_same Reg.OR_MEM_STATUS_HELD (ch + 1) v.regs (by decide)

theorem getF_freeChannel (v : Ora) : v.freeChannel.getF Reg.OR_MEM_STATUS_HELD = 0 :=
  Machine.getF_setF_same Reg.OR_MEM_STATUS_HELD 0 v.regs (by decide)

theorem beginCheck_due {v : Ora} {round : Nat} (hearly : v.early = []) (hdue : v.checkDue round = true) :
    v.beginCheck round = some (v.nextCh, { v with nextCh := (v.nextCh + 1) % 16, checked := round + 1 }) := by
  unfold Ora.beginCheck
  rw [hearly, List.find?_nil]
  exact if_pos hdue

/-- The orangery whose next channel in rotation is held for its check. -/
def Ora.checksNext (round : Nat) (v : Ora) : Ora :=
  { v with nextCh := (v.nextCh + 1) % 16, checked := round + 1 }.holdChannel v.nextCh

theorem checksNext_fields (round : Nat) (v : Ora) : (v.checksNext round).nextCh = (v.nextCh + 1) % 16 ∧ (v.checksNext round).held = some v.nextCh ∧
    (v.checksNext round).checked = round + 1 ∧ (v.checksNext round).getF Reg.OR_MEM_STATUS_HELD = (v.nextCh + 1) % 16 := by
  refine ⟨?_, ?_, ?_, getF_holdChannel _ _⟩ <;> unfold Ora.checksNext Ora.holdChannel Ora.setF <;> rfl

section
variable {s : State} {o : Nat} (hpres : Config.orangeryPresent o = true)
include hpres

theorem execChannelCheck_begins (htrained : (s.orang o).getF Reg.OR_MEM_STATUS_TRAINED = 1) (hheld : (s.orang o).held = none)
    (hearly : (s.orang o).early = []) (hdue : (s.orang o).checkDue s.round = true) :
    execChannelCheck o .begins s = .next (s.updOra o (Ora.checksNext s.round)) := by
  unfold execChannelCheck
  rw [onOra_next hpres]
  refine congrArg Host.Outcome.next (updOra_congr ?_)
  dsimp only
  rw [htrained, hheld, beginCheck_due hearly hdue]
  rfl

theorem execChannelCheck_steady (h : (s.orang o).retraining = false) : execChannelCheck o .steady s = .next (s.updOra o Ora.freeChannel) := by
  unfold execChannelCheck
  rw [onOra_next hpres]
  refine congrArg Host.Outcome.next (updOra_congr ?_)
  dsimp only
  rw [h, if_neg Bool.false_ne_true]

theorem execChannelCheck_drifted (hheld : (s.orang o).held ≠ none) (h : (s.orang o).retraining = false) :
    execChannelCheck o .drifted s = .next (s.updOra o fun v => { v.incF Reg.OR_MEM_CNT_RETRAIN 1 with retraining := true }) := by
  unfold execChannelCheck
  rw [onOra_next hpres]
  refine congrArg Host.Outcome.next (updOra_congr ?_)
  dsimp only
  rw [h, Option.isNone_eq_false_iff.mpr (Option.isSome_iff_ne_none.mpr hheld)]
  rfl

theorem execChannelRetrainEnd_ends (h : (s.orang o).retraining = true) : execChannelRetrainEnd o s = .next (s.updOra o Ora.freeChannel) := by
  unfold execChannelRetrainEnd
  rw [onOra_next hpres]
  exact congrArg Host.Outcome.next (updOra_congr (if_pos h))

end

/-! ### What a memory meets -/

theorem spoil_keeps {α : Type} {p : Ora → α} (hce : ∀ v l, p { v with ce := l } = p v)
    (hbad : ∀ v l₁ l₂ l₃, p { v with ce := l₁, wb := l₂, bad := l₃ } = p v) (o : Nat) (s : State) (e : BlockErr) :
    p ((State.spoil o s e).orang o) = p (s.orang o) := by
  unfold State.spoil
  extract_lets +onlyGivenNames v
  split
  · rfl
  split
  · rw [State.updOra_same, hce]
  extract_lets +onlyGivenNames t
  have ht : p (t.orang o) = p (s.orang o) := by rw [State.updOra_same, hbad]
  clear_value t
  split
  · exact ht
  · exact ht

theorem spoil_bad {s : State} (o : Nat) (e : BlockErr) {b : Nat} (h : b ∈ (s.orang o).bad) : b ∈ ((State.spoil o s e).orang o).bad := by
  unfold State.spoil
  extract_lets +onlyGivenNames v
  split
  · exact h
  split
  · rw [State.updOra_same]
    exact h
  extract_lets +onlyGivenNames t
  have ht : b ∈ (t.orang o).bad := by
    rw [State.updOra_same]
    dsimp only
    split
    · exact h
    · exact mem_sins.mpr (Or.inr h)
  clear_value t
  split
  · exact ht
  · exact ht

/-- The counts of what a link and a device have corrected. -/
def Ora.countMet (e : MemErr) (v : Ora) : Ora :=
  ((v.incF Reg.OR_MEM_CNT_LECC e.lecc).incF Reg.OR_LINK_CNT_CRC e.crc).incF Reg.OR_LINK_CNT_RETRY e.retry

theorem meets_orang (s : State) (o : Nat) (e : MemErr) : (s.meets o e).orang o = ((e.blocks.foldl (State.spoil o) s).orang o).countMet e :=
  State.updOra_same _ _ _

theorem countMet_regs (e : MemErr) (v : Ora) (f : Fld) (h : f.off ≠ 0x28) (h' : f.off ≠ 0x10) : (v.countMet e).getF f = v.getF f := by
  unfold Ora.countMet
  rw [Ora.getF_incF_other _ _ (by decide) (Or.inl h'), Ora.getF_incF_other _ _ (by decide) (Or.inl h'), Ora.getF_incF_other _ _ (by decide) (Or.inl h)]

/-- What the errors a memory meets do not change. -/
theorem meets_keeps {α : Type} {p : Ora → α} (hce : ∀ v l, p { v with ce := l } = p v)
    (hbad : ∀ v l₁ l₂ l₃, p { v with ce := l₁, wb := l₂, bad := l₃ } = p v) {e : MemErr} (hcount : ∀ v, p (v.countMet e) = p v) (s : State) (o : Nat) :
    p ((s.meets o e).orang o) = p (s.orang o) := by
  rw [meets_orang, hcount, foldl_keeps (g := fun s : State => p (s.orang o)) (spoil_keeps hce hbad o)]

theorem meets_getF (s : State) (o : Nat) (e : MemErr) (f : Fld) (h : f.off ≠ 0x28) (h' : f.off ≠ 0x10) :
    ((s.meets o e).orang o).getF f = (s.orang o).getF f :=
  meets_keeps (p := fun v => v.getF f) (fun _ _ => rfl) (fun _ _ _ _ => rfl) (fun v => countMet_regs e v f h h') s o

theorem countMet_poison (e : MemErr) (v : Ora) : (v.countMet e).poison = v.poison := by
  unfold Ora.countMet Ora.incF
  rfl
theorem countMet_bad (e : MemErr) (v : Ora) : (v.countMet e).bad = v.bad := by
  unfold Ora.countMet Ora.incF
  rfl
theorem countMet_ce (e : MemErr) (v : Ora) : (v.countMet e).ce = v.ce := by
  unfold Ora.countMet Ora.incF
  rfl
theorem countMet_scrubbed (e : MemErr) (v : Ora) : (v.countMet e).scrubbed = v.scrubbed := by
  unfold Ora.countMet Ora.incF
  rfl

theorem meets_poison (s : State) (o : Nat) (e : MemErr) : ((s.meets o e).orang o).poison = (s.orang o).poison :=
  meets_keeps (p := Ora.poison) (fun _ _ => rfl) (fun _ _ _ _ => rfl) (countMet_poison e) s o

theorem meets_scrubbed (s : State) (o : Nat) (e : MemErr) : ((s.meets o e).orang o).scrubbed = (s.orang o).scrubbed :=
  meets_keeps (p := Ora.scrubbed) (fun _ _ => rfl) (fun _ _ _ _ => rfl) (countMet_scrubbed e) s o

theorem meets_bad {s : State} {o : Nat} (e : MemErr) {b : Nat} (h : b ∈ (s.orang o).bad) : b ∈ ((s.meets o e).orang o).bad := by
  rw [meets_orang, countMet_bad]
  induction e.blocks generalizing s with
  | nil => exact h
  | cons x xs ih => exact ih (spoil_bad o x h)

/-- A correctable error of one block that had none. -/
theorem meets_correctable {s : State} {o : Nat} {e : MemErr} {x : BlockErr} (hblocks : e.blocks = [x]) (hreal : x.real = true)
    (hpoison : x.block ∉ (s.orang o).poison) (hbad : x.block ∉ (s.orang o).bad) (hcorr : x.correctable = true) :
    x.block ∈ ((s.meets o e).orang o).ce ∧ (s.meets o e).slow = s.slow := by
  have hspoil : State.spoil o s x = s.updOra o fun v => { v with ce := sins x.block v.ce } := by
    unfold State.spoil
    extract_lets +onlyGivenNames v
    rw [if_neg (by simp [v, hreal, hpoison, hbad]), if_pos hcorr]
  rw [meets_orang, countMet_ce, hblocks, List.foldl_cons, List.foldl_nil, hspoil, State.updOra_same]
  refine ⟨mem_sins.mpr (Or.inl rfl), ?_⟩
  unfold State.meets
  rw [State.updOra_slow, hblocks, List.foldl_cons, List.foldl_nil, hspoil, State.updOra_slow]

/-- An error of one block that cannot be corrected. -/
theorem meets_uncorrectable {s : State} {o : Nat} {e : MemErr} {x : BlockErr} (hblocks : e.blocks = [x]) (hreal : x.real = true)
    (hpoison : x.block ∉ (s.orang o).poison) (hcorr : x.correctable = false) : x.block ∈ ((s.meets o e).orang o).bad := by
  rw [meets_orang, countMet_bad, hblocks, List.foldl_cons, List.foldl_nil]
  unfold State.spoil
  extract_lets +onlyGivenNames v
  rw [if_neg (by rw [hreal, hcorr, Bool.and_false]; decide), if_neg (by rw [hcorr]; decide)]
  extract_lets +onlyGivenNames t
  have ht : x.block ∈ (t.orang o).bad := by
    rw [State.updOra_same]
    dsimp only
    rw [List.contains_eq_mem, decide_eq_false hpoison]
    exact mem_sins.mpr (Or.inl rfl)
  clear_value t
  split
  · exact ht
  · exact ht

/-! ### Scrubbing -/

theorem found_scrubbed (read : Nat → Bool) (v : Ora) : (v.found read).scrubbed = v.scrubbed := by
  unfold Ora.found
  dsimp only
  split
  · rfl
  · unfold Ora.incF
    rfl

theorem filter_all (l : List Nat) : (l.filter fun _ => true) = l := List.filter_eq_self.mpr fun _ _ => rfl

theorem mem_found_poison (v : Ora) (b : Nat) : b ∈ (v.found fun _ => true).poison ↔ b ∈ v.poison ∨ b ∈ v.bad := by
  have hmem : b ∈ v.bad.foldl (fun l b => sins b l) v.poison ↔ b ∈ v.bad ∨ b ∈ v.poison := mem_foldl_sins _
  unfold Ora.found
  dsimp only
  rw [filter_all, filter_all, filter_all]
  split
  next h =>
    rw [Bool.and_eq_true, List.isEmpty_iff, List.isEmpty_iff] at h
    rw [h.2] at hmem
    simp only [List.not_mem_nil, false_iff, not_or] at hmem
    simp [hmem.1]
  · rw [mem_foldl_sins, hmem]
    tauto

theorem mem_found_wb (v : Ora) {b : Nat} (h : b ∈ v.ce) : b ∈ (v.found fun _ => true).wb := by
  unfold Ora.found
  dsimp only
  rw [filter_all, if_neg (by rw [Bool.and_eq_true, List.isEmpty_iff]; exact fun he => List.ne_nil_of_mem h he.1)]
  exact (mem_foldl_sins _).mpr (Or.inl h)

/-- What a scrub pass notes before it reads the blocks. -/
def Ora.noteScrub (now : Nat) (v : Ora) : Ora :=
  { v with scrubbed := v.scrubPeriod now + 1, rowScrub := ((v.ce.map Config.rowOf).eraseDups).foldl (fun m r => Fm.upd 0 r (· + 1) m) v.rowScrub }

theorem beside_now {s t : State} (h : t.besideMemory = s.besideMemory) : t.now = s.now := by
  have hf := congrArg State.sd h
  exact congrArg (getF Reg.SD_COUNT_COUNT) hf

theorem execMemoryScrub_due {s : State} {o : Nat} (err : MemErr) (hpres : Config.orangeryPresent o = true)
    (hen : (s.orang o).getF Reg.OR_MEM_CTL_SCRUBEN = 1) (htrained : (s.orang o).getF Reg.OR_MEM_STATUS_TRAINED = 1)
    (hdue : (s.orang o).scrubbed ≠ (s.orang o).scrubPeriod s.now + 1) :
    execMemoryScrub o err s = .next (((s.meets o err).updOra o (Ora.noteScrub s.now)).findErrs o (fun _ => true) none 0) := by
  have hnow : (s.meets o err).now = s.now := beside_now (meets_beside s o err)
  have hperiod : ((s.meets o err).orang o).scrubPeriod s.now = (s.orang o).scrubPeriod s.now := by
    unfold Ora.scrubPeriod
    rw [meets_getF _ _ _ _ (by decide) (by decide)]
  unfold execMemoryScrub
  rw [onOra_next hpres]
  refine congrArg Host.Outcome.next ((if_neg ?_).trans ?_)
  · rw [meets_getF _ _ _ _ (by decide) (by decide), meets_getF _ _ _ _ (by decide) (by decide), hen, htrained, hnow, hperiod, meets_scrubbed,
      decide_eq_false hdue]
    decide
  · rw [hnow]
    rfl

/-! ### Rows -/

/-- ROW_RETIRE of a row that is due, be it that spares run low or not. -/
theorem execRowRetire_due {s : State} {o row : Nat} (hpres : Config.orangeryPresent o = true)
    (hrow : 3 ≤ Fm.get 0 row (s.orang o).rowScrub ∨ (s.orang o).rowBad.contains row = true)
    (hspare : (s.orang o).getF Reg.OR_MEM_STATUS_RETIRED < spareRows) :
    ∃ t, execRowRetire o row s = .next t ∧ Fm.get 0 row (t.orang o).rowRetired = (s.orang o).getF Reg.OR_MEM_STATUS_RETIRED + 1 ∧
      t.metRepairs = s.metRepairs ++
        [{ type := 6, source := 1, unit := o, a := row, b := (s.orang o).getF Reg.OR_MEM_STATUS_RETIRED }] := by
  have hskip : ¬ (!(decide (3 ≤ Fm.get 0 row (s.orang o).rowScrub) || (s.orang o).rowBad.contains row) ||
      decide ((s.orang o).getF Reg.OR_MEM_STATUS_RETIRED = spareRows)) = true := by
    have hne := Nat.ne_of_lt hspare
    rcases hrow with h | h
    · rw [decide_eq_true h, decide_eq_false hne, Bool.true_or]; decide
    · rw [h, decide_eq_false hne, Bool.or_true]; decide
  unfold execRowRetire
  rw [onOra_next hpres]
  extract_lets v used n low out u w
  have hu : Fm.get 0 row (u.orang o).rowRetired = n :=
    (congrArg (fun v => Fm.get 0 row v.rowRetired) (State.updOra_same s o _)).trans (by dsimp only; exact Fm.get_set_same _ _ _ _)
  have hw : w.metRepairs = s.metRepairs ++ [{ type := 6, source := 1, unit := o, a := row, b := used }] := rfl
  refine ⟨if low || out then w.reportAt 0x12 4 o none else w, congrArg Host.Outcome.next (if_neg hskip), ?_, ?_⟩
  · split
    · exact hu
    · exact hu
  · split
    · exact hw
    · exact hw

/-! ### The link -/

theorem rateF_fits (m : Nat) : (rateF m).lo + (rateF m).w ≤ 64 := by unfold rateF; split <;> decide
theorem rateF_w (m : Nat) : (rateF m).w = 2 := by unfold rateF; split <;> rfl

theorem getF_setF_rate (v : Ora) (m n : Nat) : (v.setF (rateF m) n).getF (rateF m) = n % 4 := by
  rw [Ora.getF_setF_same _ _ _ (rateF_fits m), rateF_w]
  rfl

/-- The rate of one module says nothing of the other's. -/
theorem getF_setF_otherRate (v : Ora) {m : Nat} (hm : m < 2) (n : Nat) : (v.setF (rateF m) n).getF (rateF (1 - m)) = v.getF (rateF (1 - m)) := by
  obtain rfl | rfl : m = 0 ∨ m = 1 := by omega
  · exact Ora.getF_setF_other _ _ (by decide) (by decide)
  · exact Ora.getF_setF_other _ _ (by decide) (by decide)

/-- A module trained: its rate, its width and its repaired lanes. -/
def Ora.trained (m : Nat) (slow half : Bool) (rep : Nat) (v : Ora) : Ora :=
  ((v.setF (rateF m) (if slow then 1 else 2)).setF (halfF m) (if half then 1 else 0)).setF (repF m) (min rep 4)

theorem trained_fields (v : Ora) {m : Nat} (hm : m < 2) (slow half : Bool) {rep : Nat} (hrep : rep ≤ 4) :
    (v.trained m slow half rep).getF (rateF m) = (if slow then 1 else 2) ∧ (v.trained m slow half rep).getF (halfF m) = (if half then 1 else 0) ∧
    (v.trained m slow half rep).getF (repF m) = rep := by
  have hmin : min rep 4 % 8 = rep := by omega
  unfold Ora.trained
  obtain rfl | rfl : m = 0 ∨ m = 1 := by omega
  all_goals
    refine ⟨?_, ?_, ?_⟩
    · rw [Ora.getF_setF_other _ _ (by decide) (by decide), Ora.getF_setF_other _ _ (by decide) (by decide), Ora.getF_setF_same _ _ _ (by decide)]
      cases slow <;> rfl
    · rw [Ora.getF_setF_other _ _ (by decide) (by decide), Ora.getF_setF_same _ _ _ (by decide)]
      cases half <;> rfl
    · rw [Ora.getF_setF_same _ _ _ (by decide)]
      exact hmin

/-- A module goes down beside one that carries on. -/
theorem moduleDown_beside {s : State} {o m : Nat} (hm : m < 2) (h : (s.orang o).getF (rateF m) ≠ 0) (hother : (s.orang o).getF (rateF (1 - m)) ≠ 0) :
    s.moduleDown o m = s.updOra o fun v => v.setF (rateF m) 0 := by
  unfold State.moduleDown
  rw [if_neg h]
  exact if_neg (by rw [State.updOra_same, getF_setF_otherRate _ hm]; exact hother)

/-- The last module goes down. -/
theorem moduleDown_last {s : State} {o m : Nat} (hm : m < 2) (h : (s.orang o).getF (rateF m) ≠ 0) (hother : (s.orang o).getF (rateF (1 - m)) = 0) :
    s.moduleDown o m = (s.updOra o fun v => v.setF (rateF m) 0).oraLoss o := by
  unfold State.moduleDown
  rw [if_neg h]
  exact if_pos (by rw [State.updOra_same, getF_setF_otherRate _ hm]; exact hother)

/-- An orangery that is lost. -/
def Ora.goneLost (v : Ora) : Ora := { (v.setF Reg.OR_STATUS_FAULT 1).setF Reg.OR_STATUS_READY 0 with inbox := [] }

theorem goneLost_fields (v : Ora) : v.goneLost.getF Reg.OR_STATUS_FAULT = 1 ∧ v.goneLost.getF Reg.OR_STATUS_READY = 0 ∧ v.goneLost.inbox = [] :=
  ⟨(Ora.getF_setF_other _ _ (by decide) (by decide)).trans (Ora.getF_setF_same _ _ _ (by decide)), Ora.getF_setF_same _ _ _ (by decide), rfl⟩

/-- After the loss of an orangery it is marked so, and what it offered is gone. -/
theorem oraLoss_facts (s : State) (o : Nat) : (∃ v : Ora, (s.oraLoss o).orang o = v.goneLost) ∧ Fm.get [] (codeOra o) (s.oraLoss o).endOut = [] := by
  unfold State.oraLoss
  extract_lets t1 t2 t3 t4 t5
  have h4 : t5.orang o = (t3.orang o).goneLost := State.updOra_same t3 o Ora.goneLost
  have hout : t5.endOut = Fm.del (codeOra o) t2.endOut := rfl
  have hkeeps (xs : List Nat) : (xs.foldl (fun s g => if s.usesSlow g then s.taint g 3 else s) t5).oras = t5.oras :=
    foldl_keeps (g := State.oras) (fun s g => by split; exacts [taint_oras _ _ _, rfl]) xs t5
  have hkeepsOut (xs : List Nat) : (xs.foldl (fun s g => if s.usesSlow g then s.taint g 3 else s) t5).endOut = t5.endOut :=
    foldl_keeps (g := State.endOut) (fun s g => by split; exacts [beside_endOut (taint_beside _ _ _), rfl]) xs t5
  refine ⟨⟨t3.orang o, ?_⟩, ?_⟩
  · rw [orang_congr (hkeeps _), h4]
  · rw [hkeepsOut, hout, Fm.get_del_same]

theorem onModule_next {o m : Nat} {s : State} {f : State → State} (hpres : Config.orangeryPresent o = true) (hm : m < 2) :
    onModule o m s f = .next (f s) := by
  unfold onModule
  rw [onUnit_next (by rw [hpres, decide_eq_true hm]; rfl)]

theorem execBlockWriteBack_waits {s : State} {o b : Nat} (hpres : Config.orangeryPresent o = true) (h : b ∈ (s.orang o).wb) :
    execBlockWriteBack o b s = .next (s.updOra o fun v => { v with wb := sdel b v.wb, ce := sdel b v.ce }) :=
  (onOra_next hpres).trans (congrArg Host.Outcome.next (updOra_congr (if_pos (List.contains_iff_mem.mpr h))))

/-- A retrain that begins shows it in the rate. -/
theorem rate_retraining (v : Ora) (m : Nat) : ((v.setF (rateF m) 3).incF Reg.OR_LINK_CNT_RETRAIN 1).getF (rateF m) = 3 := by
  rw [Ora.getF_incF_other _ _ (by decide) (Or.inl (by unfold rateF; split <;> decide)), getF_setF_rate]

section
variable {s : State} {o m : Nat} (hpres : Config.orangeryPresent o = true) (hm : m < 2)
include hpres hm

theorem execUcieRetrain_begins (h : (s.orang o).getF (rateF m) = 1 ∨ (s.orang o).getF (rateF m) = 2) :
    execUcieRetrain o m none s = .next (s.updOra o fun v => (v.setF (rateF m) 3).incF Reg.OR_LINK_CNT_RETRAIN 1) := by
  unfold execUcieRetrain
  rw [onModule_next hpres hm]
  exact congrArg Host.Outcome.next (if_pos (by rcases h with h | h <;> rw [h] <;> decide))

theorem execUcieRetrain_trains (slow half : Bool) (rep : Nat) (h : (s.orang o).getF (rateF m) = 3) :
    execUcieRetrain o m (some (.trained slow half rep)) s = .next (s.updOra o (Ora.trained m slow half rep)) := by
  unfold execUcieRetrain
  rw [onModule_next hpres hm]
  exact congrArg Host.Outcome.next (if_neg (not_not_intro h))

theorem execUcieRetrain_fails (h : (s.orang o).getF (rateF m) = 3) : execUcieRetrain o m (some .failed) s = .next (s.moduleDown o m) := by
  unfold execUcieRetrain
  rw [onModule_next hpres hm]
  exact congrArg Host.Outcome.next (if_pos h)

omit hpres in
theorem moduleDown_beside_rate (h : (s.orang o).getF (rateF m) ≠ 0) (hother : (s.orang o).getF (rateF (1 - m)) ≠ 0) :
    OnlyOra o s (s.moduleDown o m) ∧ ((s.moduleDown o m).orang o).getF (rateF m) = 0 := by
  rw [moduleDown_beside hm h hother]
  exact ⟨onlyOra_updOra _ _ _, by rw [State.updOra_same, getF_setF_rate]⟩

end

/-- A scrub pass over the memory as it then stands. -/
def State.scrubMemory (o now : Nat) (s : State) : State := (s.updOra o (Ora.noteScrub now)).findErrs o (fun _ => true) none 0

/-- The blocks that hold errors as a scrub pass begins are poisoned or wait to be written back after it. -/
theorem scrubMemory_finds (s : State) (o now : Nat) : (s.scrubMemory o now).slow = s.slow ∧
    ((s.scrubMemory o now).orang o).scrubbed = (s.orang o).scrubPeriod now + 1 ∧
    (∀ b, b ∈ ((s.scrubMemory o now).orang o).poison ↔ b ∈ (s.orang o).poison ∨ b ∈ (s.orang o).bad) ∧
    ∀ b ∈ (s.orang o).ce, b ∈ ((s.scrubMemory o now).orang o).wb := by
  unfold State.scrubMemory
  rw [findErrs_orang, State.updOra_same, found_scrubbed, findErrs_slow, State.updOra_slow]
  exact ⟨rfl, rfl, fun b => mem_found_poison _ b, fun b hb => mem_found_wb _ hb⟩

/-- MEMORY_SCRUB finds the errors that stood in the memory and those it meets. -/
theorem execMemoryScrub_finds {s : State} {o : Nat} (err : MemErr) (hpres : Config.orangeryPresent o = true)
    (hen : (s.orang o).getF Reg.OR_MEM_CTL_SCRUBEN = 1) (htrained : (s.orang o).getF Reg.OR_MEM_STATUS_TRAINED = 1)
    (hdue : (s.orang o).scrubbed ≠ (s.orang o).scrubPeriod s.now + 1) :
    Completes (execMemoryScrub o err s) fun t => t.slow = (s.meets o err).slow ∧ (t.orang o).scrubbed = (s.orang o).scrubPeriod s.now + 1 ∧
      (∀ b ∈ (s.orang o).poison, b ∈ (t.orang o).poison) ∧ (∀ b ∈ (s.orang o).bad, b ∈ (t.orang o).poison) ∧
      ∀ e, err.blocks = [e] → e.real = true → e.block ∉ (s.orang o).poison → e.block ∉ (s.orang o).bad →
        (e.correctable = true → e.block ∈ (t.orang o).wb ∧ t.slow = s.slow) ∧ (e.correctable = false → e.block ∈ (t.orang o).poison) := by
  obtain ⟨hslow, hscrubbed, hpoison, hwb⟩ := scrubMemory_finds (s.meets o err) o s.now
  refine ⟨(s.meets o err).scrubMemory o s.now, execMemoryScrub_due err hpres hen htrained hdue, hslow, ?_, fun b hb => ?_, fun b hb => ?_,
    fun e hblocks hreal hp hb => ⟨fun hcorr => ?_, fun hcorr => ?_⟩⟩
  · rw [hscrubbed, Ora.scrubPeriod, meets_getF _ _ _ _ (by decide) (by decide), ← Ora.scrubPeriod]
  · exact (hpoison b).mpr (Or.inl ((meets_poison s o err).symm ▸ hb))
  · exact (hpoison b).mpr (Or.inr (meets_bad err hb))
  · obtain ⟨hce, hsame⟩ := meets_correctable hblocks hreal hp hb hcorr
    exact ⟨hwb _ hce, hslow.trans hsame⟩
  · exact (hpoison _).mpr (Or.inr (meets_uncorrectable hblocks hreal hp hcorr))

/-- Settles O25: each command changes its orangery as its own lemma says; a scrub pass finds what the memory has met (`execMemoryScrub_finds`). -/
theorem orangeryUpkeep : Obligations.OrangeryUpkeep := by
  intro s o hpres v
  refine ⟨fun htrained hheld hearly hdue => ?_, fun h => ?_, fun hheld h => ?_, fun h => ?_, fun err hen htrained hdue => ?_,
    fun b hb => ?_, fun row hrow hspare => ?_,
    fun m hm => ⟨fun h => ?_, fun slow half rep h hrep => ?_, fun h hother => ?_, fun h hother => ?_, fun h hother => ?_⟩⟩ <;> dsimp only [exec]
  · refine completes_updOra (execChannelCheck_begins hpres htrained hheld hearly hdue) ?_
    rw [State.updOra_same]
    exact checksNext_fields _ _
  · refine completes_updOra (execChannelCheck_steady hpres h) ?_
    rw [State.updOra_same]
    exact ⟨rfl, getF_freeChannel _⟩
  · refine completes_updOra (execChannelCheck_drifted hpres hheld h) ?_
    rw [State.updOra_same]
    unfold Ora.incF
    exact ⟨rfl, rfl⟩
  · refine completes_updOra (execChannelRetrainEnd_ends hpres h) ?_
    rw [State.updOra_same]
    exact ⟨rfl, rfl, getF_freeChannel _⟩
  · exact execMemoryScrub_finds err hpres hen htrained hdue
  · exact execBlockWriteBack_waits hpres hb
  · exact execRowRetire_due hpres hrow hspare
  · refine completes_updOra (execUcieRetrain_begins hpres hm h) ?_
    rw [State.updOra_same, rate_retraining]
  · refine completes_updOra (execUcieRetrain_trains hpres hm slow half rep h) ?_
    rw [State.updOra_same]
    exact trained_fields _ hm slow half hrep
  · exact ⟨_, onModule_next hpres hm, moduleDown_beside_rate hm h hother⟩
  · exact ⟨_, execUcieRetrain_fails hpres hm h, moduleDown_beside_rate hm (by rw [show (s.orang o).getF (rateF m) = 3 from h]; decide) hother⟩
  · refine ⟨_, onModule_next hpres hm, ?_⟩
    dsimp only
    rw [moduleDown_last hm h hother]
    obtain ⟨⟨w, hw⟩, hout⟩ := oraLoss_facts (s.updOra o fun v => v.setF (rateF m) 0) o
    obtain ⟨hfault, hready, hbox⟩ := goneLost_fields w
    rw [hw]
    exact ⟨hfault, hready, hbox, hout⟩

end Sys2Proof.Machine

/-! ## Alerts and the cap (R470, R490, R492-R496) -/

namespace Sys2Proof.Machine

/-! ### Every pavilion at once -/

theorem fmGet_filterMap {α : Type} [DecidableEq α] (d : α) (f : Nat → α) (ks : List Nat) {k : Nat} (h : k ∈ ks) :
    Fm.get d k (ks.filterMap fun p => if f p = d then none else some (p, f p)) = f k := by
  have key (ks : List Nat) : Fm.get d k (ks.filterMap fun p => if f p = d then none else some (p, f p)) = if k ∈ ks then f k else d := by
    induction ks with
    | nil => rfl
    | cons p ps ih =>
      by_cases hp : f p = d
      · rw [List.filterMap_cons, if_pos hp, ih]
        by_cases hkp : k = p
        · subst hkp
          rw [hp, ite_self, if_pos List.mem_cons_self]
        · simp only [List.mem_cons, hkp, false_or]
      · rw [List.filterMap_cons, if_neg hp, Fm.get, ih]
        by_cases hkp : k = p
        · subst hkp
          rw [if_pos rfl, if_pos List.mem_cons_self]
        · simp only [List.mem_cons, hkp, false_or, if_false]
  rw [key, if_pos h]

theorem eachPav_pav (s : State) (f : Nat → Pav → Pav) {p : Nat} (hp : p < Config.pavilions) : (s.eachPav f).pav p = f p (s.pav p) := by
  rw [State.eachPav, State.pav]
  exact fmGet_filterMap {} (fun p => f p (s.pav p)) _ (List.mem_range.mpr hp)

theorem eachPav_frame (s : State) (f : Nat → Pav → Pav) : { s.eachPav f with pavs := s.pavs } = s := rfl

theorem reindexAll_pav (s : State) {p : Nat} (hp : p < Config.pavilions) : s.reindexAll.pav p = (s.pav p).reindex s.alertHold := eachPav_pav s _ hp

/-! ### What power delivery keeps for itself -/

/-- The state without the pavilions, the registers of power delivery, what it keeps beside them, and the pins. -/
def State.besidePower (s : State) : State := { s with pavs := [], pw := [], power := {}, pins := {} }

theorem besidePower_frame {s t : State} (h : t.besidePower = s.besidePower) :
    { t with pavs := s.pavs, pw := s.pw, power := s.power, pins := s.pins } = s := by
  have hf := congrArg (fun u : State => { u with pavs := s.pavs, pw := s.pw, power := s.power, pins := s.pins }) h
  exact hf

theorem setPw_besidePower (s : State) (f : Fld) (v : Nat) : (s.setPw f v).besidePower = s.besidePower := rfl
theorem incPw_besidePower (s : State) (f : Fld) (n : Nat) : (s.incPw f n).besidePower = s.besidePower := rfl
theorem updPower_besidePower (s : State) (f : Power → Power) : (s.updPower f).besidePower = s.besidePower := rfl
theorem pins_besidePower (s : State) (p : Pins) : { s with pins := p }.besidePower = s.besidePower := rfl
theorem reindexAll_besidePower (s : State) : s.reindexAll.besidePower = s.besidePower := rfl

theorem unitAlert_besidePower (s : State) (n unit : Nat) (on : Bool) : (s.unitAlert n unit on).besidePower = s.besidePower := by
  unfold State.unitAlert
  split
  · rfl
  split <;> rfl

theorem unitAlert_pavs (s : State) (n unit : Nat) (on : Bool) : (s.unitAlert n unit on).pavs = s.pavs := by
  unfold State.unitAlert
  split
  · rfl
  split <;> rfl

theorem pav_congr {s t : State} (h : t.pavs = s.pavs) (p : Nat) : t.pav p = s.pav p := by unfold State.pav; rw [h]

/-- A field of PW_STATUS reads as before the alert of a unit. -/
theorem unitAlert_status (s : State) (n unit : Nat) (on : Bool) {f : Fld} (hf : f.off = 0) : getF f (s.unitAlert n unit on).pw = getF f s.pw := by
  unfold State.unitAlert
  split
  · rw [State.setPw_pw, getF_setF_other _ _ _ _ (show 2 + 1 ≤ 64 by decide) (Or.inl (by rw [hf]; show 0 ≠ 0x100 + 8 * unit; omega))]
  split <;> rfl

/-! ### Assertions -/

theorem alertSrc_lt (m : RegFile) : getF Reg.PW_STATUS_ALERTSRC m < 32 := getF_lt _ _

theorem orBit_lt {x n : Nat} (hx : x < 32) (hn : n < 5) : x ||| 2 ^ n < 32 :=
  Nat.or_lt_two_pow (n := 5) hx (Nat.pow_lt_pow_right (by decide) hn)

/-- What stands after an accepted alert of source `n`: the hold, the lowest state of every domain, the source, and nothing else. -/
structure Asserted (n : Nat) (s t : State) : Prop where
  hold : t.alertHold = true
  count : t.power.holdCount = false
  pavs : ∀ p < Config.pavilions, t.pav p = (s.pav p).reindex true
  src : getF Reg.PW_STATUS_ALERTSRC t.pw = getF Reg.PW_STATUS_ALERTSRC s.pw ||| 2 ^ n
  beside : t.besidePower = s.besidePower

theorem reindexAll_pw (s : State) : s.reindexAll.pw = s.pw := rfl
theorem reindexAll_power (s : State) : s.reindexAll.power = s.power := rfl

/-- The count of an alert's kind. -/
def alertCount (n : Nat) : Fld := if n = 0 then Reg.PW_CNT_PIN else Reg.PW_CNT_INTERNAL

theorem getF_alertCount {f : Fld} (hf : f.off = 0) (n k : Nat) (m : RegFile) : getF f (incF (alertCount n) k m) = getF f m := by
  unfold incF alertCount
  split
  · exact getF_setF_other _ _ _ _ (by decide) (Or.inl (by rw [hf]; decide))
  · exact getF_setF_other _ _ _ _ (by decide) (Or.inl (by rw [hf]; decide))

theorem assertAlert_eq (s : State) (n : Nat) : s.assertAlert n =
    ((((s.setPw Reg.PW_STATUS_ALERTSRC (getF Reg.PW_STATUS_ALERTSRC s.pw ||| 2 ^ n)).setPw Reg.PW_STATUS_ALERTHOLD 1).incPw (alertCount n) 1).updPower
      fun p => { p with holdCount := false, heldFrom := if s.alertHold then s.power.heldFrom else s.now }).reindexAll := rfl

theorem assertAlert_asserted (s : State) {n : Nat} (hn : n < 5) : Asserted n s (s.assertAlert n) := by
  have hhold (m : RegFile) : getF Reg.PW_STATUS_ALERTHOLD (incF (alertCount n) 1 (setF Reg.PW_STATUS_ALERTHOLD 1 m)) = 1 := by
    rw [getF_alertCount rfl, getF_setF_same _ _ _ (by decide)]
    rfl
  rw [assertAlert_eq]
  refine ⟨decide_eq_true ?_, ?_, fun p hp => ?_, ?_, ?_⟩
  · rw [reindexAll_pw, State.updPower_pw, State.incPw_pw, State.setPw_pw, hhold]
  · rw [reindexAll_power, State.updPower_power]
  · rw [reindexAll_pav _ hp, State.alertHold, State.updPower_pw, State.incPw_pw, State.setPw_pw, hhold, State.updPower_pav_as, State.incPw_pav_as,
      State.setPw_pav_as, State.setPw_pav_as, decide_eq_true rfl]
  · rw [reindexAll_pw, State.updPower_pw, State.incPw_pw, State.setPw_pw, State.setPw_pw, getF_alertCount rfl,
      getF_setF_other _ _ _ _ (by decide) (by decide), getF_setF_same _ _ _ (by decide), show 2 ^ Reg.PW_STATUS_ALERTSRC.w = 32 from rfl,
      Nat.mod_eq_of_lt (orBit_lt (alertSrc_lt _) hn)]
  · rw [reindexAll_besidePower, updPower_besidePower, incPw_besidePower, setPw_besidePower, setPw_besidePower]

theorem alertFits_lt {n unit : Nat} (h : alertFits n unit = true) : n < 5 := by
  unfold alertFits at h
  rw [Bool.and_eq_true, Bool.and_eq_true, decide_eq_true_eq] at h
  exact h.1.1

/-- The pin shows the alert of source 0. -/
def State.pinAlert (s : State) (n : Nat) (high : Bool) : State := if n = 0 then { s with pins := { s.pins with pwrAlertN := high } } else s

theorem pinAlert_pw (s : State) (n : Nat) (high : Bool) : (s.pinAlert n high).pw = s.pw := by unfold State.pinAlert; split <;> rfl
theorem pinAlert_power (s : State) (n : Nat) (high : Bool) : (s.pinAlert n high).power = s.power := by unfold State.pinAlert; split <;> rfl
theorem pinAlert_pavs (s : State) (n : Nat) (high : Bool) : (s.pinAlert n high).pavs = s.pavs := by unfold State.pinAlert; split <;> rfl
theorem pinAlert_besidePower (s : State) (n : Nat) (high : Bool) : (s.pinAlert n high).besidePower = s.besidePower := by
  unfold State.pinAlert; split <;> rfl
theorem pinAlert_now (s : State) (n : Nat) (high : Bool) : (s.pinAlert n high).now = s.now := by unfold State.pinAlert; split <;> rfl
theorem pinAlert_other (s : State) {n : Nat} (h : n ≠ 0) (high : Bool) : s.pinAlert n high = s := if_neg h

/-- An alert that lasts is accepted, whatever its source and unit. -/
theorem execAlertAssert_accepted {s : State} {n unit nanos : Nat} (hfits : alertFits n unit = true) (hlong : 50 ≤ nanos)
    (hstopped : s.power.stopped = false) :
    execAlertAssert n unit nanos s = .next (((s.pinAlert n false).unitAlert n unit true).assertAlert n) := by
  have hrun : ¬ (decide (nanos < 50) || (s.pinAlert n false).power.stopped) = true := by
    rw [pinAlert_power, hstopped, decide_eq_false (Nat.not_lt.mpr hlong)]; decide
  unfold execAlertAssert
  rw [onUnit_next hfits]
  exact congrArg Host.Outcome.next (if_neg hrun)

theorem execAlertAssert_short {s : State} {n unit nanos : Nat} (hfits : alertFits n unit = true) (hn : n ≠ 0) (hshort : nanos < 50) :
    execAlertAssert n unit nanos s = .next s := by
  unfold execAlertAssert
  rw [onUnit_next hfits]
  refine congrArg Host.Outcome.next ((if_pos ?_).trans (if_neg hn))
  rw [decide_eq_true hshort, Bool.true_or]

theorem unitAlert_asserted {s : State} {n unit : Nat} (hn : n < 5) : Asserted n s (((s.pinAlert n false).unitAlert n unit true).assertAlert n) := by
  obtain ⟨hhold, hcount, hpavs, hsrc, hbeside⟩ := assertAlert_asserted ((s.pinAlert n false).unitAlert n unit true) hn
  refine ⟨hhold, hcount, fun p hp => ?_, ?_, ?_⟩
  · rw [hpavs p hp, pav_congr (unitAlert_pavs _ _ _ _), pav_congr (pinAlert_pavs _ _ _)]
  · rw [hsrc, unitAlert_status _ _ _ _ rfl, pinAlert_pw]
  · rw [hbeside, unitAlert_besidePower, pinAlert_besidePower]

/-! ### Releases -/

/-- The state without the registers of power delivery, what it keeps beside them, and the pins. -/
def State.besideSupply (s : State) : State := { s with pw := [], power := {}, pins := {} }

theorem besideSupply_frame {s t : State} (h : t.besideSupply = s.besideSupply) : { t with pw := s.pw, power := s.power, pins := s.pins } = s := by
  have hf := congrArg (fun u : State => { u with pw := s.pw, power := s.power, pins := s.pins }) h
  exact hf

theorem setPw_besideSupply (s : State) (f : Fld) (v : Nat) : (s.setPw f v).besideSupply = s.besideSupply := rfl
theorem updPower_besideSupply (s : State) (f : Power → Power) : (s.updPower f).besideSupply = s.besideSupply := rfl
theorem unitAlert_besideSupply (s : State) (n unit : Nat) (on : Bool) : (s.unitAlert n unit on).besideSupply = s.besideSupply := by
  unfold State.unitAlert
  split
  · rfl
  split <;> rfl
theorem pinAlert_besideSupply (s : State) (n : Nat) (high : Bool) : (s.pinAlert n high).besideSupply = s.besideSupply := by
  unfold State.pinAlert; split <;> rfl

theorem unitAlert_holdCount (s : State) (n unit : Nat) (on : Bool) : (s.unitAlert n unit on).power.holdCount = s.power.holdCount := by
  unfold State.unitAlert
  split
  · rfl
  split <;> rfl

theorem unitAlert_now (s : State) (n unit : Nat) (on : Bool) : (s.unitAlert n unit on).now = s.now := by
  unfold State.unitAlert
  split
  · rfl
  split <;> rfl

/-- No other unit of a source asserts its alert. -/
def State.lastOf (s : State) (n unit : Nat) : Prop :=
  (n = 1 → ∀ m < 24, m ≠ unit → getF (Reg.PW_CONV_ALERT m) s.pw = 0) ∧ (n = 2 → ∀ m ∈ s.power.alerting, m = unit)

theorem getF_convAlert (m : RegFile) (i unit : Nat) :
    getF (Reg.PW_CONV_ALERT i) (setF (Reg.PW_CONV_ALERT unit) 0 m) = if i = unit then 0 else getF (Reg.PW_CONV_ALERT i) m := by
  split
  next h => rw [h, getF_setF_same _ _ _ (show 2 + 1 ≤ 64 by decide)]; exact Nat.zero_mod _
  next h => exact getF_setF_other _ _ _ _ (show 2 + 1 ≤ 64 by decide) (Or.inl (by show 0x100 + 8 * i ≠ 0x100 + 8 * unit; omega))

theorem convAlert_ne (m : RegFile) (i : Nat) : ¬ getF (Reg.PW_CONV_ALERT i) m = 1 ↔ getF (Reg.PW_CONV_ALERT i) m = 0 := by
  have h : getF (Reg.PW_CONV_ALERT i) m < 2 := getF_lt _ _
  omega

/-- With a unit released, its source still asserts an alert exactly where it was not the last. -/
theorem stillAlert_unitAlert (s : State) (n unit : Nat) : (s.unitAlert n unit false).stillAlert n = false ↔ s.lastOf n unit := by
  unfold State.unitAlert State.stillAlert State.lastOf
  by_cases h1 : n = 1
  · have h2 : ¬ n = 2 := by omega
    simp only [h1, Bool.false_eq_true, if_false, State.setPw_pw, List.any_eq_false, List.mem_range, decide_eq_true_eq, getF_convAlert,
      forall_const, if_true, show (1 : Nat) ≠ 2 by decide, false_implies, and_true]
    refine forall_congr' fun m => imp_congr_right fun _ => ?_
    split
    next he => simp [he]
    next he => rw [convAlert_ne]; simp [he]
  · by_cases h2 : n = 2
    · simp only [h2, Bool.false_eq_true, if_false, if_true, decide_true, Bool.true_and, State.updPower_power, false_implies, true_and,
        forall_const, Bool.not_eq_false', List.isEmpty_iff, show (2 : Nat) ≠ 1 by decide]
      rw [List.eq_nil_iff_forall_not_mem]
      refine forall_congr' fun m => ?_
      rw [mem_sdel]
      tauto
    · simp [h1, h2]

theorem clearBit_lt {x n : Nat} (hx : x < 32) : clearBit x n < 32 := by
  unfold clearBit
  split
  · exact Nat.lt_of_le_of_lt (Nat.sub_le _ _) hx
  · exact hx

/-- What a release of the last unit leaves of its source. -/
def State.dropSource (s : State) (n : Nat) : State :=
  let left := clearBit (getF Reg.PW_STATUS_ALERTSRC s.pw) n
  let s := s.setPw Reg.PW_STATUS_ALERTSRC left
  if s.alertHold && left = 0 && !s.power.holdCount then s.updPower fun p => { p with holdCount := true, releasedAt := s.now } else s

theorem execAlertSourceRelease_eq {s : State} {n unit : Nat} (hfits : alertFits n unit = true) : execAlertSourceRelease n unit s = .next (
    if ((s.pinAlert n true).unitAlert n unit false).stillAlert n then (s.pinAlert n true).unitAlert n unit false
    else ((s.pinAlert n true).unitAlert n unit false).dropSource n) := onUnit_next hfits

theorem alertHold_setSrc (s : State) (v : Nat) : (s.setPw Reg.PW_STATUS_ALERTSRC v).alertHold = s.alertHold := by
  unfold State.alertHold
  rw [State.setPw_pw, getF_setF_other _ _ _ _ (by decide) (by decide)]

theorem dropSource_facts (s : State) (n : Nat) : (s.dropSource n).alertHold = s.alertHold ∧ (s.dropSource n).besideSupply = s.besideSupply ∧
    getF Reg.PW_STATUS_ALERTSRC (s.dropSource n).pw = clearBit (getF Reg.PW_STATUS_ALERTSRC s.pw) n ∧
    (s.dropSource n).power.holdCount = (s.power.holdCount || s.alertHold && decide (clearBit (getF Reg.PW_STATUS_ALERTSRC s.pw) n = 0)) ∧
    (s.power.holdCount = false → s.alertHold = true → clearBit (getF Reg.PW_STATUS_ALERTSRC s.pw) n = 0 → (s.dropSource n).power.releasedAt = s.now) := by
  have hsrc : getF Reg.PW_STATUS_ALERTSRC (s.setPw Reg.PW_STATUS_ALERTSRC (clearBit (getF Reg.PW_STATUS_ALERTSRC s.pw) n)).pw =
      clearBit (getF Reg.PW_STATUS_ALERTSRC s.pw) n := by
    rw [State.setPw_pw, getF_setF_same _ _ _ (by decide), show 2 ^ Reg.PW_STATUS_ALERTSRC.w = 32 from rfl, Nat.mod_eq_of_lt (clearBit_lt (alertSrc_lt _))]
  have hhold := alertHold_setSrc s (clearBit (getF Reg.PW_STATUS_ALERTSRC s.pw) n)
  unfold State.dropSource
  dsimp only
  rw [hhold, State.setPw_power]
  split
  next h =>
    rw [Bool.and_eq_true, Bool.and_eq_true, decide_eq_true_eq, Bool.not_eq_true'] at h
    obtain ⟨⟨hon, hleft⟩, hcount⟩ := h
    refine ⟨?_, ?_, ?_, ?_, fun _ _ _ => rfl⟩
    · rw [State.alertHold, State.updPower_pw, ← State.alertHold, hhold]
    · rw [updPower_besideSupply, setPw_besideSupply]
    · rw [State.updPower_pw, hsrc]
    · rw [State.updPower_power, hon, hleft]
      simp
  next h =>
    refine ⟨hhold, setPw_besideSupply _ _ _, hsrc, ?_, fun hcount hon hleft => absurd ?_ h⟩
    · rw [State.setPw_power]
      cases hcount : s.power.holdCount
      · rw [hcount, Bool.not_false, Bool.and_true, Bool.not_eq_true] at h
        rw [h]
        rfl
      · rfl
    · rw [hon, hleft, hcount]
      rfl

/-! ### The end of a hold, halving and the cap loop -/

theorem endAlertHold_due {s : State} (hhold : s.alertHold = true) (hcount : s.power.holdCount = true)
    (hdue : s.power.releasedAt + 500 * ticksPerUs ≤ s.now) : ∃ gs, s.endAlertHold =
      (({ s with gardens := gs }.setPw Reg.PW_STATUS_ALERTHOLD 0).updPower fun p => { p with holdCount := false, halvings := 0 }).reindexAll := by
  have hgs (l : List Nat) (f : State → Nat → Gdn → Gdn) (u : State) (hu : { u with gardens := s.gardens } = s) :
      { l.foldl (fun s g => s.updGarden g (f s g)) u with gardens := s.gardens } = s := by
    induction l generalizing u with
    | nil => exact hu
    | cons g l ih => exact ih _ hu
  unfold State.endAlertHold
  rw [if_pos (by rw [hhold, hcount, decide_eq_true hdue]; rfl)]
  extract_lets held t
  have ht : { t with gardens := s.gardens } = s := hgs _ _ s rfl
  refine ⟨t.gardens, ?_⟩
  rw [show { s with gardens := t.gardens } = t by rw [← ht]]

theorem stepStart_idle {s : State} (h : s.start.running = false) : s.stepStart = s := by
  unfold State.stepStart
  rw [h]
  rfl

theorem runStart_idle {s : State} (h : s.start.running = false) (n : Nat) : State.runStart n s = s := by
  induction n with
  | zero => rfl
  | succ n ih => rw [State.runStart, stepStart_idle h, ih]

/-- A start that is not under way does not go on. -/
theorem goOn_idle {s : State} (h : s.start.running = false) : s.goOn = s := runStart_idle h 10

/-- The hold's end. -/
theorem execAlertHoldEnd_due {s : State} (hhold : s.alertHold = true) (hcount : s.power.holdCount = true)
    (hdue : s.power.releasedAt + 500 * ticksPerUs ≤ s.now) (hrun : s.start.running = false) :
    Completes (execAlertHoldEnd s) fun t => t.alertHold = false ∧ (∀ p < Config.pavilions, t.pav p = (s.pav p).reindex false) ∧
      t.power.halvings = 0 ∧ { t with pavs := s.pavs, pw := s.pw, power := s.power, gardens := s.gardens } = s := by
  obtain ⟨gs, hgs⟩ := endAlertHold_due hhold hcount hdue
  have hclear : getF Reg.PW_STATUS_ALERTHOLD (setF Reg.PW_STATUS_ALERTHOLD 0 s.pw) = 0 := by rw [getF_setF_same _ _ _ (by decide)]; rfl
  refine ⟨s.endAlertHold.goOn, rfl, ?_⟩
  rw [goOn_idle (by rw [hgs]; exact hrun), hgs]
  refine ⟨decide_eq_false ?_, fun p hp => ?_, rfl, rfl⟩
  · rw [reindexAll_pw, State.updPower_pw, State.setPw_pw, hclear]
    decide
  · rw [reindexAll_pav _ hp, State.alertHold, State.updPower_pw, State.setPw_pw, hclear, State.updPower_pav_as, State.setPw_pav_as]
    rfl

/-- The state without the incident log. -/
def State.besideLog (s : State) : State := { s with ice := {}, wd := [], nextIncident := 0 }

theorem setWd_besideLog (s : State) (f : Fld) (v : Nat) : (s.setWd f v).besideLog = s.besideLog := rfl
theorem incWd_besideLog (s : State) (f : Fld) (n : Nat) : (s.incWd f n).besideLog = s.besideLog := rfl
theorem updIce_besideLog (s : State) (f : Ice → Ice) : (s.updIce f).besideLog = s.besideLog := rfl
theorem nextIncident_besideLog (s : State) (n : Nat) : { s with nextIncident := n }.besideLog = s.besideLog := rfl

theorem record_besideLog (s : State) (i : Incident) : (s.record i).besideLog = s.besideLog := by
  unfold State.record
  extract_lets r all
  split
  exact (nextIncident_besideLog _ _).trans ((incWd_besideLog _ _ _).trans ((setWd_besideLog _ _ _).trans (updIce_besideLog _ _)))

theorem log_besideLog (s : State) (i : Incident) : (s.log i).besideLog = s.besideLog := by
  unfold State.log
  split
  · exact updIce_besideLog _ _
  · exact record_besideLog _ _

/-- An incident that is raised changes the log alone. -/
theorem raise_besideLog (s : State) (i : Incident) : (s.raise i).besideLog = s.besideLog := log_besideLog _ _

theorem raiseAt_besideLog (s : State) (kind unit unitId : Nat) (g : Option Nat) (op action : Nat) :
    (s.raiseAt kind unit unitId g op action).besideLog = s.besideLog := raise_besideLog _ _

theorem besideLog_post {s t : State} (h : t.besideLog = s.besideLog) : t.post = s.post := by
  have hf := congrArg State.post h
  exact hf
theorem besideLog_power {s t : State} (h : t.besideLog = s.besideLog) : t.power = s.power := by
  have hf := congrArg State.power h
  exact hf

/-- A job that is added keeps its kind and its changes. -/
theorem addJob_facts (s : State) (j : Job) : (s.addJob j).power = s.power ∧ (s.addJob j).pw = s.pw ∧
    ∃ i, (s.addJob j).post.jobs = s.post.jobs ++ [i] ∧ i.kind = j.kind ∧ i.changes = j.changes := ⟨rfl, rfl, _, rfl, rfl, rfl⟩

theorem execCapHalving_eq {s : State} (hhold : s.alertHold = true)
    (hdue : s.power.heldFrom + (s.power.halvings + 1) * ticksPerSec ≤ s.now) : execCapHalving s = .next
      ((((s.incPw Reg.PW_CNT_HALVE 1).updPower fun p => { p with halvings := p.halvings + 1 }).raiseAt 0x30 0 0 none).addJob
        { kind := .capHalve, changes := [.capWindows (max 5000 (getF Reg.PW_CAP_CAP s.pw / 2)) 0 0 (some true)] }) :=
  if_neg (by rw [hhold, decide_eq_false (Nat.not_lt.mpr hdue)]; decide)

theorem execCapHalving_due {s : State} (hhold : s.alertHold = true)
    (hdue : s.power.heldFrom + (s.power.halvings + 1) * ticksPerSec ≤ s.now) : Completes (execCapHalving s) fun t =>
      t.power.halvings = s.power.halvings + 1 ∧ ∃ j, t.post.jobs = s.post.jobs ++ [j] ∧ j.kind = .capHalve ∧
        j.changes = [.capWindows (max 5000 (getF Reg.PW_CAP_CAP s.pw / 2)) 0 0 (some true)] := by
  have hraised := raiseAt_besideLog ((s.incPw Reg.PW_CNT_HALVE 1).updPower fun p => { p with halvings := p.halvings + 1 }) 0x30 0 0 none 0 0
  refine ⟨_, execCapHalving_eq hhold hdue, ?_⟩
  generalize State.raiseAt _ _ _ _ _ = u at hraised ⊢
  obtain ⟨hpower, -, j, hjobs, hkind, hchanges⟩ := addJob_facts u
    { kind := .capHalve, changes := [.capWindows (max 5000 (getF Reg.PW_CAP_CAP s.pw / 2)) 0 0 (some true)] }
  refine ⟨?_, j, ?_, hkind, hchanges⟩
  · rw [hpower, besideLog_power hraised, State.updPower_power, State.incPw_power]
  · rw [hjobs, besideLog_post hraised, State.updPower_post, State.incPw_post]

/-- The state in which the cap loop decides: the round's mean has entered the history and the two means their register. -/
def State.capMeans (s : State) (mean : Nat) : State :=
  let s := s.updPower fun p => { p with looped := s.round + 1 }
  let n1 := windowRounds (getF Reg.PW_CAP_WIN1 s.pw)
  let n2 := windowRounds (getF Reg.PW_CAP_WIN2 s.pw)
  let hist := (mean :: s.power.history).take (max n1 n2)
  let s := s.updPower fun p => { p with history := hist }
  (s.setPw Reg.PW_AVG_AVG1 (sumNat (hist.take n1) / (hist.take n1).length)).setPw Reg.PW_AVG_AVG2 (sumNat (hist.take n2) / (hist.take n2).length)

theorem capMeans_getF (s : State) (mean : Nat) {f : Fld} (hf : f.off ≠ 0x18) : getF f (s.capMeans mean).pw = getF f s.pw := by
  unfold State.capMeans
  dsimp only
  rw [State.setPw_pw, getF_setF_other _ _ _ _ (by decide) (Or.inl hf), State.setPw_pw, getF_setF_other _ _ _ _ (by decide) (Or.inl hf),
    State.updPower_pw, State.updPower_pw]

theorem capMeans_post (s : State) (mean : Nat) : (s.capMeans mean).post = s.post := by
  unfold State.capMeans
  dsimp only
  rw [State.setPw_post, State.setPw_post, State.updPower_post, State.updPower_post]

theorem capMeans_looped (s : State) (mean : Nat) : (s.capMeans mean).power.looped = s.round + 1 := by
  unfold State.capMeans
  dsimp only
  rw [State.setPw_power, State.setPw_power, State.updPower_power, State.updPower_power]

theorem execCapLoop_above {s : State} {mean : Nat} (hstopped : s.power.stopped = false) (hlooped : s.power.looped ≠ s.round + 1)
    (hjob : s.hasJob .capStep = false) (hhold : s.alertHold = false) (habove : 105 * getF Reg.PW_CAP_CAP s.pw < 100 * mean)
    (hidx : getF Reg.PW_STATUS_CAPIDX s.pw < 7) :
    execCapLoop mean s = .next ((s.capMeans mean).stageCapIndex (getF Reg.PW_STATUS_CAPIDX s.pw + 1)) := by
  have hcap := capMeans_getF s mean (f := Reg.PW_CAP_CAP) (by decide)
  have hindex := capMeans_getF s mean (f := Reg.PW_STATUS_CAPIDX) (by decide)
  have hhold' : (s.capMeans mean).alertHold = false := by rw [State.alertHold, capMeans_getF _ _ (by decide), ← State.alertHold, hhold]
  have hjob' : (s.capMeans mean).hasJob .capStep = false := by rw [State.hasJob, capMeans_post, ← State.hasJob, hjob]
  unfold execCapLoop
  rw [if_neg (by rw [hstopped, decide_eq_false hlooped]; decide)]
  change (if (s.capMeans mean).hasJob .capStep || (s.capMeans mean).alertHold then _ else if (_ || decide (105 * getF Reg.PW_CAP_CAP (s.capMeans mean).pw < 100 * mean)) &&
    decide (getF Reg.PW_STATUS_CAPIDX (s.capMeans mean).pw < 7) then Host.Outcome.next ((s.capMeans mean).stageCapIndex (getF Reg.PW_STATUS_CAPIDX (s.capMeans mean).pw + 1)) else _) = _
  rw [hjob', hhold', if_neg (by decide), hcap, hindex, decide_eq_true habove, decide_eq_true hidx, Bool.or_true]
  exact if_pos rfl

theorem stageCapIndex_facts (s : State) (idx : Nat) : (s.stageCapIndex idx).power.looped = s.power.looped ∧
    ∃ j, (s.stageCapIndex idx).post.jobs = s.post.jobs ++ [j] ∧ j.kind = .capStep ∧ j.changes = [.capIndex idx] := ⟨rfl, _, rfl, rfl, rfl⟩

/-! ### Converters -/

/-- A converter is marked as failed. -/
def State.failConverter (s : State) (n : Nat) : State :=
  let s := (s.setPw (Reg.PW_CONV_OK n) 0).setPw (Reg.PW_CONV_FAULT n) 1
  s.setPw Reg.PW_STATUS_CONVOK (getF Reg.PW_STATUS_CONVOK s.pw - 1)

theorem convOff (n : Nat) {f : Fld} (hf : f.off = 0) : f.off ≠ 0x100 + 8 * n := by omega

theorem failConverter_fields (s : State) (n : Nat) : getF (Reg.PW_CONV_OK n) (s.failConverter n).pw = 0 ∧
    getF (Reg.PW_CONV_FAULT n) (s.failConverter n).pw = 1 ∧
    getF Reg.PW_STATUS_CONVOK (s.failConverter n).pw = getF Reg.PW_STATUS_CONVOK s.pw - 1 := by
  have hok : getF Reg.PW_STATUS_CONVOK s.pw < 256 := getF_lt _ _
  have hcount : getF Reg.PW_STATUS_CONVOK (setF (Reg.PW_CONV_FAULT n) 1 (setF (Reg.PW_CONV_OK n) 0 s.pw)) = getF Reg.PW_STATUS_CONVOK s.pw := by
    rw [getF_setF_other _ _ _ _ (show 1 + 1 ≤ 64 by decide) (Or.inl (convOff n rfl)),
      getF_setF_other _ _ _ _ (show 0 + 1 ≤ 64 by decide) (Or.inl (convOff n rfl))]
  unfold State.failConverter
  dsimp only
  rw [State.setPw_pw, State.setPw_pw, State.setPw_pw, hcount]
  refine ⟨?_, ?_, ?_⟩
  · rw [getF_setF_other _ _ _ _ (by decide) (Or.inl (convOff n rfl).symm),
      getF_setF_other (Reg.PW_CONV_FAULT n) (Reg.PW_CONV_OK n) _ _ (show 1 + 1 ≤ 64 by decide) (Or.inr ⟨rfl, Or.inl (show 0 + 1 ≤ 1 by decide)⟩),
      getF_setF_same _ _ _ (show 0 + 1 ≤ 64 by decide)]
    rfl
  · rw [getF_setF_other _ _ _ _ (by decide) (Or.inl (convOff n rfl).symm), getF_setF_same _ _ _ (show 1 + 1 ≤ 64 by decide)]
    rfl
  · rw [getF_setF_same _ _ _ (by decide), show 2 ^ Reg.PW_STATUS_CONVOK.w = 256 from rfl, Nat.mod_eq_of_lt (by omega)]

/-- With fewer than 20 converters working the module reports it and lowers its cap. -/
def State.fewConverters (s : State) : State :=
  if 20 ≤ getF Reg.PW_STATUS_CONVOK s.pw then s
  else
    let s := s.report { kind := 0x09, action := 7, flags := 2 }
    if getF Reg.PW_CAP_CAP s.pw ≤ s.converterLimit then s
    else s.addJob { kind := .capSet, changes := [.capWindows s.converterLimit 0 0 none] }

theorem fewConverters_pw (s : State) : s.fewConverters.pw = s.pw := by
  unfold State.fewConverters
  split
  · rfl
  extract_lets t
  have ht : t.pw = s.pw := rfl
  clear_value t
  split
  · exact ht
  · exact ht

theorem execConverterFail_fails {s : State} {n : Nat} (hn : n < 24) (hok : getF (Reg.PW_CONV_OK n) s.pw = 1) :
    execConverterFail n s = .next (s.failConverter n).fewConverters := by
  unfold execConverterFail
  rw [onUnit_next (decide_eq_true hn)]
  exact congrArg Host.Outcome.next (if_neg (by rw [hok]; decide))

/-- What an alert's release leaves. -/
theorem execAlertSourceRelease_facts {s : State} {n unit : Nat} (hfits : alertFits n unit = true) :
    Completes (execAlertSourceRelease n unit s) fun t => t.alertHold = s.alertHold ∧ { t with pw := s.pw, power := s.power, pins := s.pins } = s ∧
      (s.lastOf n unit → getF Reg.PW_STATUS_ALERTSRC t.pw = clearBit (getF Reg.PW_STATUS_ALERTSRC s.pw) n ∧
        t.power.holdCount = (s.power.holdCount || s.alertHold && decide (clearBit (getF Reg.PW_STATUS_ALERTSRC s.pw) n = 0)) ∧
        (s.power.holdCount = false → s.alertHold = true → clearBit (getF Reg.PW_STATUS_ALERTSRC s.pw) n = 0 → t.power.releasedAt = s.now)) ∧
      (¬ s.lastOf n unit → getF Reg.PW_STATUS_ALERTSRC t.pw = getF Reg.PW_STATUS_ALERTSRC s.pw ∧ t.power.holdCount = s.power.holdCount) := by
  have hlast : (s.pinAlert n true).lastOf n unit ↔ s.lastOf n unit := by rw [State.lastOf, pinAlert_pw, pinAlert_power]; exact Iff.rfl
  have hstill := stillAlert_unitAlert (s.pinAlert n true) n unit
  have hbeside : ((s.pinAlert n true).unitAlert n unit false).besideSupply = s.besideSupply :=
    (unitAlert_besideSupply _ _ _ _).trans (pinAlert_besideSupply _ _ _)
  have hstatus {f : Fld} (hf : f.off = 0) : getF f ((s.pinAlert n true).unitAlert n unit false).pw = getF f s.pw := by
    rw [unitAlert_status _ _ _ _ hf, pinAlert_pw]
  have hhold : ((s.pinAlert n true).unitAlert n unit false).alertHold = s.alertHold := by rw [State.alertHold, hstatus rfl, ← State.alertHold]
  have hcount : ((s.pinAlert n true).unitAlert n unit false).power.holdCount = s.power.holdCount := by rw [unitAlert_holdCount, pinAlert_power]
  have hnow : ((s.pinAlert n true).unitAlert n unit false).now = s.now := by rw [unitAlert_now, pinAlert_now]
  have hsrc := hstatus (f := Reg.PW_STATUS_ALERTSRC) rfl
  rw [hlast] at hstill
  refine ⟨_, execAlertSourceRelease_eq hfits, ?_⟩
  generalize (s.pinAlert n true).unitAlert n unit false = u at *
  by_cases h : s.lastOf n unit
  · rw [hstill.mpr h, if_neg (by decide)]
    obtain ⟨hdhold, hdbeside, hdsrc, hdcount, hdat⟩ := dropSource_facts u n
    rw [hsrc, hcount, hhold] at hdcount
    rw [hsrc, hcount, hhold, hnow] at hdat
    rw [hsrc] at hdsrc
    exact ⟨hdhold.trans hhold, besideSupply_frame (hdbeside.trans hbeside), fun _ => ⟨hdsrc, hdcount, hdat⟩, fun hn => absurd h hn⟩
  · rw [if_pos (Bool.not_eq_false _ ▸ fun hf => h (hstill.mp hf))]
    exact ⟨hhold, besideSupply_frame hbeside, fun hl => absurd hl h, fun _ => ⟨hsrc, hcount⟩⟩

/-- Settles O26: assertions by `Asserted`, releases by `dropSource_facts`, the rest by the lemma of its command. -/
theorem alertsAndTheCapHoldPowerDown : Obligations.AlertsAndTheCapHoldPowerDown := by
  intro s src cap idx held
  refine ⟨fun n unit nanos hfits hlong hstopped => ?_, fun n unit nanos hfits hn hshort => ?_, fun watts micros habove hstopped => ?_,
    fun n unit hfits => ?_, fun hhold hcount hdue hrun => ?_, fun hhold hdue => ?_,
    fun mean hstopped hlooped hjob hhold habove hidx => ?_, fun n hn hok => ?_⟩ <;> dsimp only [exec]
  · obtain ⟨hhold, hcount, hpavs, hsrc, hbeside⟩ := unitAlert_asserted (s := s) (unit := unit) (alertFits_lt hfits)
    exact ⟨_, execAlertAssert_accepted hfits hlong hstopped, ⟨hhold, hcount, hpavs⟩, hsrc, besidePower_frame hbeside⟩
  · exact execAlertAssert_short hfits hn hshort
  · obtain ⟨hhold, hcount, hpavs, hsrc, -⟩ := assertAlert_asserted s (show 4 < 5 by decide)
    refine ⟨s.assertAlert 4, if_neg ?_, ⟨hhold, hcount, hpavs⟩, hsrc⟩
    have habove' : (decide (20000 < watts) && decide (1 ≤ micros) || decide (16000 < watts) && decide (10000 ≤ micros)) = true := by
      simpa only [Bool.or_eq_true, Bool.and_eq_true, decide_eq_true_eq] using habove
    rw [habove', hstopped]
    decide
  · exact execAlertSourceRelease_facts hfits
  · exact execAlertHoldEnd_due hhold hcount hdue hrun
  · exact execCapHalving_due hhold hdue
  · obtain ⟨hl, hj⟩ := stageCapIndex_facts (s.capMeans mean) (idx + 1)
    exact ⟨_, execCapLoop_above hstopped hlooped hjob hhold habove hidx, hl.trans (capMeans_looped _ _), hj⟩
  · obtain ⟨hzero, hfault, hcount⟩ := failConverter_fields s n
    refine ⟨_, execConverterFail_fails hn hok, ?_⟩
    dsimp only
    rw [fewConverters_pw]
    exact ⟨hzero, hfault, fun _ => hcount⟩

end Sys2Proof.Machine

/-! ## The busbar (R472, R500, R627, R630) -/

namespace Sys2Proof.Machine

theorem busbar_within {mv : Int} (h : -1000 ≤ mv) (h' : mv ≤ 72000) (s : State) (f : State → State) : busbar mv s f = .next (f s) :=
  if_neg (by rw [Bool.or_eq_true, decide_eq_true_eq, decide_eq_true_eq]; omega)

theorem busbar_beyond {mv : Int} (h : mv < -1000 ∨ 72000 < mv) (s : State) (f : State → State) : busbar mv s f = .fault .absoluteMaximum :=
  if_pos (by rw [Bool.or_eq_true, decide_eq_true_eq, decide_eq_true_eq]; exact h)

/-- What the loss of module power leaves. -/
structure Lost (s t : State) : Prop where
  power : t.power = State.reset.power
  pgood : t.pins.pgood = false
  slow : t.slow = []
  cores : t.cores = []
  gardens : t.gardens = []
  config : t.ice.config = s.ice.config
  repairs : t.ice.repairs = s.storedRecords.1
  incidents : t.ice.incidents = s.ice.incidents
  checkpoints : ∀ c ∈ s.ice.checkpoints, c.complete = true → c ∈ t.ice.checkpoints
  nextIncident : t.nextIncident = s.nextIncident
  pending : t.pending = s.pending

theorem powerLoss_lost (s : State) : Lost s s.powerLoss where
  power := rfl
  pgood := rfl
  slow := rfl
  cores := rfl
  gardens := rfl
  config := rfl
  repairs := rfl
  incidents := rfl
  checkpoints := fun _ hc hwhole => List.mem_filter.mpr ⟨hc, hwhole⟩
  nextIncident := rfl
  pending := rfl

section
variable {mv : Int} {micros : Nat} {s : State}

theorem execBusbarCollapse_lost (h : -1000 ≤ mv) (h' : mv < 36000) (hlong : 10 ≤ micros) : execBusbarCollapse mv micros s = .next s.powerLoss :=
  (busbar_within h (by omega) s _).trans (congrArg Host.Outcome.next (if_pos (by rw [decide_eq_true h', decide_eq_true hlong]; rfl)))

theorem execBusbarCollapse_kept (h : -1000 ≤ mv) (h' : mv ≤ 72000) (hout : 36000 ≤ mv ∨ micros < 10) : execBusbarCollapse mv micros s = .next s :=
  (busbar_within h h' s _).trans (congrArg Host.Outcome.next (if_neg (by rw [Bool.and_eq_true, decide_eq_true_eq, decide_eq_true_eq]; omega)))

theorem execBusbarOvervoltage_lost (h : 62000 < mv) (h' : mv ≤ 72000) (hlong : 10 ≤ micros) (hshort : mv ≤ 64000 ∨ micros ≤ 1000) :
    execBusbarOvervoltage mv micros s = .next s.powerLoss :=
  (if_neg (by rw [Bool.and_eq_true, decide_eq_true_eq, decide_eq_true_eq]; omega)).trans ((busbar_within (by omega) h' s _).trans
    (congrArg Host.Outcome.next (if_pos (by rw [decide_eq_true h, decide_eq_true hlong]; rfl))))

theorem execBusbarOvervoltage_kept (h : -1000 ≤ mv) (h' : mv ≤ 72000) (hout : mv ≤ 62000 ∨ micros < 10) :
    execBusbarOvervoltage mv micros s = .next s :=
  (if_neg (by rw [Bool.and_eq_true, decide_eq_true_eq, decide_eq_true_eq]; omega)).trans ((busbar_within h h' s _).trans
    (congrArg Host.Outcome.next (if_neg (by rw [Bool.and_eq_true, decide_eq_true_eq, decide_eq_true_eq]; omega))))

theorem execBusbarOvervoltage_beyond (h : 64000 < mv ∧ 1000 < micros ∨ mv < -1000 ∨ 72000 < mv) :
    execBusbarOvervoltage mv micros s = .fault .absoluteMaximum := by
  unfold execBusbarOvervoltage
  split
  · rfl
  next hlong =>
    rw [Bool.and_eq_true, decide_eq_true_eq, decide_eq_true_eq] at hlong
    exact busbar_beyond (h.resolve_left hlong) _ _

theorem execBusbarUndervoltage_alerts (h : -1000 ≤ mv) (h' : mv < 40000) (hlong : 10 ≤ micros) (hrun : s.power.stopped = false) :
    execBusbarUndervoltage mv micros s = .next (s.assertAlert 3) :=
  (busbar_within h (by omega) s _).trans (congrArg Host.Outcome.next
    (if_pos (by rw [decide_eq_true h', decide_eq_true hlong, hrun]; rfl)))

theorem execBusbarUndervoltage_short (h : -1000 ≤ mv) (h' : mv ≤ 72000) (hshort : micros < 10) : execBusbarUndervoltage mv micros s = .next s :=
  (busbar_within h h' s _).trans (congrArg Host.Outcome.next
    (if_neg (by rw [decide_eq_false (Nat.not_le.mpr hshort), Bool.and_false, Bool.false_and]; decide)))

theorem execBusbarHigh_reports (h : 60000 < mv) (h' : mv ≤ 62000) (hrun : s.power.stopped = false)
    (hagain : ∀ t ∈ s.highSince, t + ticksPerMin ≤ s.now) : execBusbarHigh mv s = .next { s.reportAt 0x30 0 0 none with highSince := some s.now } := by
  have hall : (s.highSince.all fun t => decide (t + ticksPerMin ≤ s.now)) = true := by
    rw [Option.all_eq_true]
    exact fun t ht => decide_eq_true_eq.mpr (hagain t ht)
  have hlow : decide (mv ≤ 60000) = false := decide_eq_false (by omega)
  have hhigh : decide (62000 < mv) = false := decide_eq_false (by omega)
  refine (busbar_within (by omega) (by omega) s _).trans (congrArg Host.Outcome.next (if_neg ?_))
  rw [hall, hrun, hlow, hhigh]
  exact Bool.false_ne_true

end

/-- Settles O27: each command is evaluated in its band; a loss is `powerLoss_lost`, an alert `assertAlert_asserted`. -/
theorem theBusbarHasItsBands : Obligations.TheBusbarHasItsBands := by
  intro s mv micros lost
  have hlost : lost s.powerLoss := by
    obtain ⟨h1, h2, h3, h4, h5, h6, h7, h8, h9, h10, h11⟩ := powerLoss_lost s
    exact ⟨h1, h2, h3, h4, h5, h6, h7, h8, h9, h10, h11⟩
  refine ⟨fun h h' hlong => ?_, fun h h' hlong hshort => ?_, fun h h' hlong hrun => ?_, fun h h' => ⟨?_, ?_⟩, fun h h' hshort => ⟨?_, ?_, ?_⟩,
    fun h h' hrun hagain => ?_, fun h hlong => ?_, fun h c hc => ?_⟩ <;> try dsimp only [exec]
  · exact ⟨_, execBusbarCollapse_lost h h' hlong, hlost⟩
  · exact ⟨_, execBusbarOvervoltage_lost h h' hlong hshort, hlost⟩
  · obtain ⟨hhold, -, -, hsrc, -⟩ := assertAlert_asserted s (show 3 < 5 by decide)
    exact ⟨_, execBusbarUndervoltage_alerts h h' hlong hrun, hhold, hsrc⟩
  · exact execBusbarCollapse_kept (by omega) (by omega) (Or.inl h)
  · exact execBusbarOvervoltage_kept (by omega) (by omega) (Or.inl h')
  · exact execBusbarCollapse_kept h h' (Or.inr hshort)
  · exact execBusbarOvervoltage_kept h h' (Or.inr hshort)
  · exact execBusbarUndervoltage_short h h' hshort
  · exact execBusbarHigh_reports h h' hrun hagain
  · exact execBusbarOvervoltage_beyond (Or.inl ⟨h, hlong⟩)
  · simp only [List.mem_cons, List.not_mem_nil, or_false] at hc
    rcases hc with rfl | rfl | rfl | rfl <;> dsimp only [exec]
    · exact busbar_beyond h _ _
    · exact busbar_beyond h _ _
    · exact execBusbarOvervoltage_beyond (Or.inr h)
    · exact busbar_beyond h _ _

end Sys2Proof.Machine

/-! ## Compute domains (R478-R487) -/

namespace Sys2Proof.Machine

/-! ### Register fields of a pavilion -/

theorem Pav.getF_setF_same (v : Pav) (f : Fld) (n : Nat) (h : f.lo + f.w ≤ 64) : (v.setF f n).getF f = n % 2 ^ f.w := Machine.getF_setF_same f n _ h

theorem Pav.getF_setF_other (v : Pav) {f g : Fld} (n : Nat) (h : f.lo + f.w ≤ 64)
    (hd : g.off ≠ f.off ∨ (g.blk = f.blk ∧ (g.lo + g.w ≤ f.lo ∨ f.lo + f.w ≤ g.lo))) : (v.setF f n).getF g = v.getF g :=
  Machine.getF_setF_other f g n _ h hd

theorem Pav.getF_incF_other (v : Pav) {f g : Fld} (n : Nat) (h : f.lo + f.w ≤ 64)
    (hd : g.off ≠ f.off ∨ (g.blk = f.blk ∧ (g.lo + g.w ≤ f.lo ∨ f.lo + f.w ≤ g.lo))) : (v.incF f n).getF g = v.getF g :=
  Machine.getF_setF_other f g _ _ h hd

theorem Pav.setF_regs (v : Pav) (f : Fld) (n : Nat) : (v.setF f n).regs = Machine.setF f n v.regs := rfl
theorem Pav.incF_regs (v : Pav) (f : Fld) (n : Nat) : (v.incF f n).regs = Machine.incF f n v.regs := rfl

theorem Pav.getF_regs {v w : Pav} (h : w.regs = v.regs) (f : Fld) : w.getF f = v.getF f := by unfold Pav.getF; rw [h]

/-- A field that the move to an index does not write reads as before it. -/
theorem reindex_getF (alert : Bool) (v : Pav) {f : Fld} (hoff : f.off = 0x60) (hblk : f.blk = .pv) (hbits : f.lo + f.w ≤ 24 ∨ 34 ≤ f.lo) :
    (v.reindex alert).getF f = v.getF f := by
  have hclk : f.off ≠ 0x40 := by rw [hoff]; decide
  unfold Pav.reindex
  extract_lets w t mv
  have hw : w.getF f = v.getF f := Pav.getF_setF_other _ _ (by decide) (Or.inl hclk)
  unfold Pav.getF at hw ⊢
  clear_value w
  split
  · exact hw
  split
  · dsimp only
    rw [Pav.setF_regs, Pav.setF_regs, Machine.getF_setF_other _ _ _ _ (by decide) (Or.inr ⟨hblk, hbits⟩),
      Machine.getF_setF_other _ _ _ _ (by decide) (Or.inl hclk), hw]
  · dsimp only
    rw [Pav.setF_regs, Machine.getF_setF_other _ _ _ _ (by decide) (Or.inr ⟨hblk, hbits⟩), hw]

/-! ### The cores of a pavilion -/

theorem mem_coresOf (c : Nat) : c ∈ coresOf (pavOf c) := by
  refine List.mem_map.mpr ⟨coreIdx c, List.mem_range.mpr (coreIdx_lt c), ?_⟩
  unfold coreAt coreIdx pavOf coreId coreX coreY
  omega

theorem resetCores_eq (s : State) (p : Nat) (f : Core → Core) : s.resetCores p f = (coresOf p).foldl (fun s c => s.updCore c f) s := rfl

theorem resetCores_pavs (s : State) (p : Nat) (f : Core → Core) : (s.resetCores p f).pavs = s.pavs :=
  foldl_keeps (g := State.pavs) (fun s c => State.updCore_pavs s c f) _ s
theorem resetCores_pw (s : State) (p : Nat) (f : Core → Core) : (s.resetCores p f).pw = s.pw := foldl_keeps (g := State.pw) (fun s c => State.updCore_pw s c f) _ s
theorem resetCores_slow (s : State) (p : Nat) (f : Core → Core) : (s.resetCores p f).slow = s.slow :=
  foldl_keeps (g := State.slow) (fun s c => State.updCore_slow s c f) _ s

/-- What a change of the cores of a pavilion keeps in each of them. -/
theorem resetCores_keeps {α : Type} {f : Core → Core} {g : Core → α} (h : ∀ k, g (f k) = g k) (s : State) (p c : Nat) :
    g ((s.resetCores p f).core c) = g (s.core c) :=
  foldl_keeps (g := fun s : State => g (s.core c)) (fun s d => by
    by_cases hcd : c = d
    · rw [hcd, State.updCore_same, h]
    · rw [State.updCore_other _ _ _ hcd]) _ s

/-- What a change of the cores of a pavilion brings about in each of them. -/
theorem resetCores_establishes {f : Core → Core} {P : Core → Prop} (h : ∀ k, P (f k)) (s : State) {p c : Nat} (hc : c ∈ coresOf p) :
    P ((s.resetCores p f).core c) :=
  foldl_establishes (P := fun s : State => P (s.core c)) (fun s => by rw [State.updCore_same]; exact h _) (fun s d hs => by
    by_cases hcd : c = d
    · rw [hcd, State.updCore_same]; exact h _
    · rw [State.updCore_other _ _ _ hcd]; exact hs) hc s

/-! ### Work that is lost -/

theorem updGarden_beside (s : State) (g : Nat) (f : Gdn → Gdn) : (s.updGarden g f).besideMemory = s.besideMemory := rfl

theorem wantRecovery_beside (s : State) (g cause strength : Nat) : (s.wantRecovery g cause strength).besideMemory = s.besideMemory := updGarden_beside _ _ _

theorem loseWork_beside (s : State) (p : Nat) : (s.loseWork p).besideMemory = s.besideMemory := by
  unfold State.loseWork
  split
  · rfl
  extract_lets ls t
  split
  · rw [wantRecovery_beside, taint_beside]
  · rw [wantRecovery_beside, taint_beside]
    exact updGarden_beside _ _ _

theorem beside_pavs {s t : State} (h : t.besideMemory = s.besideMemory) : t.pavs = s.pavs := by
  have hf := congrArg State.pavs h
  exact hf
theorem beside_pw {s t : State} (h : t.besideMemory = s.besideMemory) : t.pw = s.pw := by
  have hf := congrArg State.pw h
  exact hf

theorem loseWork_slow (s : State) (p : Nat) : (s.loseWork p).slow = s.slow := congrArg Prod.fst (State.loseWork_kept s p)

/-! ### A domain that is switched off -/

/-- A pavilion whose domain begins to be switched off. -/
def Pav.domainOff (v : Pav) : Pav :=
  { ((v.setF Reg.PV_REG_STATUS_ON 0).setF Reg.PV_REG_STATUS_POWERING 0).setF Reg.PV_REG_STATUS_CORESON 0 with
    switchingOff := true, pendingIdx := none, segRun := none, queued := [] }

theorem domainOff_on (v : Pav) : v.domainOff.getF Reg.PV_REG_STATUS_ON = 0 := by
  unfold Pav.domainOff Pav.getF
  dsimp only
  rw [Pav.setF_regs, Pav.setF_regs, Pav.setF_regs, Machine.getF_setF_other _ _ _ _ (by decide) (by decide),
    Machine.getF_setF_other _ _ _ _ (by decide) (by decide), Machine.getF_setF_same _ _ _ (by decide)]
  rfl

/-- The plot's staging and its half slope once a pavilion of it is no longer powered on. -/
def State.unstage (s : State) (p : Nat) (was : Prop) [Decidable was] : State :=
  let more := (plotPavs (plotOf p)).any fun x => (s.pav x).getF Reg.PV_REG_STATUS_POWERING = 1
  if was then (s.setPw (Reg.PW_PLOT_STAGING (plotOf p)) (if more then 1 else 0)).setPw (Reg.PW_PLOT_HALF (plotOf p)) 0 else s

theorem unstage_cores (s : State) (p : Nat) (was : Prop) [Decidable was] : (s.unstage p was).cores = s.cores := by unfold State.unstage; dsimp only; split <;> rfl
theorem unstage_pavs (s : State) (p : Nat) (was : Prop) [Decidable was] : (s.unstage p was).pavs = s.pavs := by unfold State.unstage; dsimp only; split <;> rfl
theorem unstage_slow (s : State) (p : Nat) (was : Prop) [Decidable was] : (s.unstage p was).slow = s.slow := by unfold State.unstage; dsimp only; split <;> rfl

/-- A field of power delivery that is not a plot's staging or half slope. -/
def notStaged (f : Fld) : Prop := ∀ q, (f.off ≠ 0x200 + 8 * q ∨ f.lo + f.w ≤ 3) ∧ f.blk = .pw

theorem getF_setStaging {f : Fld} (hf : notStaged f) (q v : Nat) (m : RegFile) : getF f (setF (Reg.PW_PLOT_STAGING q) v m) = getF f m :=
  getF_setF_other _ _ _ _ (show 3 + 1 ≤ 64 by decide) ((hf q).1.imp id fun h => ⟨(hf q).2, Or.inl h⟩)

theorem getF_setHalf {f : Fld} (hf : notStaged f) (q v : Nat) (m : RegFile) : getF f (setF (Reg.PW_PLOT_HALF q) v m) = getF f m :=
  getF_setF_other _ _ _ _ (show 4 + 1 ≤ 64 by decide) ((hf q).1.imp id fun h => ⟨(hf q).2, Or.inl (Nat.le_succ_of_le h)⟩)

theorem unstage_pw (s : State) (p : Nat) (was : Prop) [Decidable was] {f : Fld} (hf : notStaged f) : getF f (s.unstage p was).pw = getF f s.pw := by
  unfold State.unstage
  dsimp only
  split
  · rw [State.setPw_pw, getF_setHalf hf, State.setPw_pw, getF_setStaging hf]
  · rfl

theorem domainOff_eq {s : State} {p : Nat} (h : (s.pav p).getF Reg.PV_REG_STATUS_ON ≠ 0 ∨ (s.pav p).getF Reg.PV_REG_STATUS_POWERING ≠ 0) :
    s.domainOff p = (((s.updPav p Pav.domainOff).unstage p ((s.pav p).getF Reg.PV_REG_STATUS_POWERING = 1)).resetCores p Core.unpowered).loseWork p := by
  refine (if_neg ?_).trans ?_
  · rw [Bool.and_eq_true, decide_eq_true_eq, decide_eq_true_eq]
    tauto
  · unfold State.unstage
    rfl

theorem domainOff_idle {s : State} {p : Nat} (h : (s.pav p).getF Reg.PV_REG_STATUS_ON = 0) (h' : (s.pav p).getF Reg.PV_REG_STATUS_POWERING = 0) :
    s.domainOff p = s := if_pos (by rw [h, h']; rfl)

/-- Either the domain is off already, or all of its pavilion and of its cores that a switch-off changes. -/
theorem domainOff_cases (s : State) (p : Nat) : (s.pav p).getF Reg.PV_REG_STATUS_ON = 0 ∧ s.domainOff p = s ∨
    s.domainOff p = (((s.updPav p Pav.domainOff).unstage p ((s.pav p).getF Reg.PV_REG_STATUS_POWERING = 1)).resetCores p Core.unpowered).loseWork p := by
  by_cases h : (s.pav p).getF Reg.PV_REG_STATUS_ON = 0 ∧ (s.pav p).getF Reg.PV_REG_STATUS_POWERING = 0
  · exact Or.inl ⟨h.1, domainOff_idle h.1 h.2⟩
  · exact Or.inr (domainOff_eq (by tauto))

theorem domainOff_pavs {s : State} {p : Nat} (h : (s.pav p).getF Reg.PV_REG_STATUS_ON ≠ 0 ∨ (s.pav p).getF Reg.PV_REG_STATUS_POWERING ≠ 0) :
    (s.domainOff p).pavs = (s.updPav p Pav.domainOff).pavs := by
  rw [domainOff_eq h, beside_pavs (loseWork_beside _ _), resetCores_pavs, unstage_pavs]

theorem domainOff_pav_on (s : State) (p : Nat) : ((s.domainOff p).pav p).getF Reg.PV_REG_STATUS_ON = 0 := by
  rcases domainOff_cases s p with ⟨hon, h⟩ | h
  · rw [h, hon]
  · rw [h, pav_congr (beside_pavs (loseWork_beside _ _)), pav_congr (resetCores_pavs _ _ _), pav_congr (unstage_pavs _ _ _), State.updPav_same,
      domainOff_on]

theorem domainOff_pav_other (s : State) {p d : Nat} (hd : d ≠ p) : (s.domainOff p).pav d = s.pav d := by
  rcases domainOff_cases s p with ⟨-, h⟩ | h
  · rw [h]
  · rw [h, pav_congr (beside_pavs (loseWork_beside _ _)), pav_congr (resetCores_pavs _ _ _), pav_congr (unstage_pavs _ _ _),
      State.updPav_other _ _ _ hd]

theorem domainOff_slow (s : State) (p : Nat) : (s.domainOff p).slow = s.slow := congrArg Prod.fst (State.domainOff_kept s p)

theorem domainOff_pw (s : State) (p : Nat) {f : Fld} (hf : notStaged f) : getF f (s.domainOff p).pw = getF f s.pw := by
  rcases domainOff_cases s p with ⟨-, h⟩ | h
  · rw [h]
  · rw [h, beside_pw (loseWork_beside _ _), resetCores_pw, unstage_pw _ _ _ hf, State.updPav_pw]

theorem unpowered_run (k : Core) : k.unpowered.getF Reg.KP_CTRL_RUN = 0 := by
  have h : k.unpowered.getF Reg.KP_CTRL_RUN = k.reset.getF Reg.KP_CTRL_RUN := rfl
  rw [h, reset_getF k (f := Reg.KP_CTRL_RUN) (by decide) (by decide) (by decide) (by decide)]
  rfl

theorem unpowered_spad (k : Core) : k.unpowered.spad = k.spad := rfl

theorem domainOff_core {s : State} {p c : Nat} (h : (s.pav p).getF Reg.PV_REG_STATUS_ON ≠ 0) (hc : c ∈ coresOf p) :
    ((s.domainOff p).core c).spad = (s.core c).spad ∧ ((s.domainOff p).core c).getF Reg.KP_CTRL_RUN = 0 := by
  rw [domainOff_eq (Or.inl h), core_congr (beside_cores (loseWork_beside _ _))]
  refine ⟨?_, resetCores_establishes (P := fun k => k.getF Reg.KP_CTRL_RUN = 0) unpowered_run _ hc⟩
  rw [resetCores_keeps (g := Core.spad) unpowered_spad, core_congr (unstage_cores _ _ _), updPav_core]

/-! ### A pavilion that goes dark -/

/-- The registers and queues of a thoroughfare without power. -/
def Pav.darkened (v : Pav) : Pav :=
  let v := ((v.setF Reg.PV_CLK_STATUS_LOCKED 0).setF Reg.PV_CLK_STATUS_HOLDOVER 0).setF Reg.PV_REG_STATUS_THOK 0
  let v := (v.setF Reg.PV_CLK_STATUS_RECORDS 0).setF Reg.PV_FAB_STATUS_STAGELOCK 0
  { v with powered := false, dark := true, newSource := none, fq := [], aq := [], entering := [], aveEntering := [], holds := [],
           dropping := [], aveDropping := [], rotate := [], gates := [], gateOpen := [], stile := [], markers := [], seqs := [],
           switchingOff := false }

theorem darkened_regs (v : Pav) : v.darkened.regs = Machine.setF Reg.PV_FAB_STATUS_STAGELOCK 0 (Machine.setF Reg.PV_CLK_STATUS_RECORDS 0
    (Machine.setF Reg.PV_REG_STATUS_THOK 0 (Machine.setF Reg.PV_CLK_STATUS_HOLDOVER 0 (Machine.setF Reg.PV_CLK_STATUS_LOCKED 0 v.regs)))) := rfl
theorem darkened_dark (v : Pav) : v.darkened.dark = true := rfl

theorem darkened_thok (v : Pav) : v.darkened.getF Reg.PV_REG_STATUS_THOK = 0 := by
  unfold Pav.getF
  rw [darkened_regs, Machine.getF_setF_other _ _ _ _ (by decide) (by decide), Machine.getF_setF_other _ _ _ _ (by decide) (by decide),
    Machine.getF_setF_same _ _ _ (by decide)]
  rfl

theorem darkened_on (v : Pav) : v.darkened.getF Reg.PV_REG_STATUS_ON = v.getF Reg.PV_REG_STATUS_ON := by
  unfold Pav.getF
  rw [darkened_regs, Machine.getF_setF_other _ _ _ _ (by decide) (by decide), Machine.getF_setF_other _ _ _ _ (by decide) (by decide),
    Machine.getF_setF_other _ _ _ _ (by decide) (by decide), Machine.getF_setF_other _ _ _ _ (by decide) (by decide),
    Machine.getF_setF_other _ _ _ _ (by decide) (by decide)]

/-- A core whose scratchpad and inbox are gone. -/
def Core.gone (k : Core) : Core := { k.zeroed with inbox := [], aveIn := [] }

/-- The copies of records that a thoroughfare held are gone with it. -/
def State.dropCopies (s : State) (p : Nat) : State := { s with records := Fm.del p s.records, shadowInvalid := sins p s.shadowInvalid }

theorem pavDark_eq (s : State) (p : Nat) : s.pavDark p = (((s.domainOff p).resetCores p Core.gone).updPav p Pav.darkened).dropCopies p := rfl

theorem dropCopies_pav (s : State) (p d : Nat) : (s.dropCopies p).pav d = s.pav d := rfl
theorem dropCopies_core (s : State) (p c : Nat) : (s.dropCopies p).core c = s.core c := rfl
theorem dropCopies_pw (s : State) (p : Nat) : (s.dropCopies p).pw = s.pw := rfl

/-- A pavilion without power. -/
structure Pav.Off (v : Pav) : Prop where
  dark : v.dark = true
  on : v.getF Reg.PV_REG_STATUS_ON = 0
  thok : v.getF Reg.PV_REG_STATUS_THOK = 0

theorem pavDark_off (s : State) (p : Nat) : ((s.pavDark p).pav p).Off := by
  rw [pavDark_eq, dropCopies_pav, State.updPav_same]
  exact ⟨darkened_dark _, by rw [darkened_on, pav_congr (resetCores_pavs _ _ _), domainOff_pav_on], darkened_thok _⟩

theorem pavDark_pav_other (s : State) {p d : Nat} (hd : d ≠ p) : (s.pavDark p).pav d = s.pav d := by
  rw [pavDark_eq, dropCopies_pav, State.updPav_other _ _ _ hd, pav_congr (resetCores_pavs _ _ _), domainOff_pav_other _ hd]

theorem pavDark_pw (s : State) (p : Nat) {f : Fld} (hf : notStaged f) : getF f (s.pavDark p).pw = getF f s.pw := by
  rw [pavDark_eq, dropCopies_pw, State.updPav_pw, resetCores_pw, domainOff_pw _ _ hf]

theorem pavDark_spad (s : State) {p c : Nat} (hc : c ∈ coresOf p) : ((s.pavDark p).core c).spad = [] := by
  rw [pavDark_eq, dropCopies_core, updPav_core]
  exact resetCores_establishes (P := fun k => k.spad = []) (fun _ => rfl) _ hc

/-- A lost pavilion is dark after its work has been noted. -/
theorem pavLost_beside (s : State) (p strength : Nat) : (s.pavLost p strength).besideMemory = ((s.loseWork p).pavDark p).besideMemory := by
  unfold State.pavLost
  generalize (s.pav p).owner = owner
  cases owner with
  | none => rfl
  | some g =>
    dsimp only
    split
    · exact wantRecovery_beside _ _ _ _
    · rfl

theorem pavLost_off (s : State) (p strength : Nat) : ((s.pavLost p strength).pav p).Off := by
  rw [pav_congr (beside_pavs (pavLost_beside s p strength))]
  exact pavDark_off _ _

theorem pavLost_pav_other (s : State) {p d : Nat} (strength : Nat) (hd : d ≠ p) : (s.pavLost p strength).pav d = s.pav d := by
  rw [pav_congr (beside_pavs (pavLost_beside s p strength)), pavDark_pav_other _ hd, pav_congr (beside_pavs (loseWork_beside _ _))]

theorem pavLost_pw (s : State) (p strength : Nat) {f : Fld} (hf : notStaged f) : getF f (s.pavLost p strength).pw = getF f s.pw := by
  rw [beside_pw (pavLost_beside s p strength), pavDark_pw _ _ hf, beside_pw (loseWork_beside _ _)]

theorem pavLost_spad (s : State) {p c : Nat} (strength : Nat) (hc : c ∈ coresOf p) : ((s.pavLost p strength).core c).spad = [] := by
  rw [core_congr (beside_cores (pavLost_beside s p strength)), pavDark_spad _ hc]

theorem pavLost_slow (s : State) (p strength : Nat) : (s.pavLost p strength).slow = s.slow := congrArg Prod.fst (State.pavLost_kept s p strength)

/-! ### Faults of plots, regulators and phases -/

/-- A plot's registers after a short. -/
def State.shortPlot (s : State) (q : Nat) : State :=
  let s := (s.setPw (Reg.PW_PLOT_ON q) 0).setPw (Reg.PW_PLOT_SHORT q) 1
  let s := (s.setPw (Reg.PW_PLOT_STAGING q) 0).setPw (Reg.PW_PLOT_HALF q) 0
  (s.incPw Reg.PW_CNT_SHORT 1).incPw Reg.PW_STATUS_PLOTSOFF 1

theorem plotField_notStaged {f : Fld} (hbits : f.lo + f.w ≤ 3) (hblk : f.blk = .pw) : notStaged f :=
  fun _ => ⟨Or.inr hbits, hblk⟩

theorem getF_incPlain {f g : Fld} {q : Nat} (hoff : f.off = 0x200 + 8 * q) (hg : g.off < 0x200) (hfits : g.lo + g.w ≤ 64) (n : Nat) (m : RegFile) :
    getF f (incF g n m) = getF f m := getF_setF_other _ _ _ _ hfits (Or.inl (by omega))

theorem shortPlot_fields (s : State) (q : Nat) : getF (Reg.PW_PLOT_ON q) (s.shortPlot q).pw = 0 ∧ getF (Reg.PW_PLOT_SHORT q) (s.shortPlot q).pw = 1 := by
  have hon : notStaged (Reg.PW_PLOT_ON q) := plotField_notStaged (show 0 + 1 ≤ 3 by decide) rfl
  have hshort : notStaged (Reg.PW_PLOT_SHORT q) := plotField_notStaged (show 1 + 1 ≤ 3 by decide) rfl
  unfold State.shortPlot
  dsimp only
  simp only [State.incPw_pw, State.setPw_pw]
  refine ⟨?_, ?_⟩
  · rw [getF_incPlain (q := q) rfl (by decide) (by decide), getF_incPlain (q := q) rfl (by decide) (by decide), getF_setHalf hon, getF_setStaging hon,
      getF_setF_other (Reg.PW_PLOT_SHORT q) (Reg.PW_PLOT_ON q) _ _ (show 1 + 1 ≤ 64 by decide) (Or.inr ⟨rfl, Or.inl (show 0 + 1 ≤ 1 by decide)⟩),
      getF_setF_same _ _ _ (show 0 + 1 ≤ 64 by decide)]
    rfl
  · rw [getF_incPlain (q := q) rfl (by decide) (by decide), getF_incPlain (q := q) rfl (by decide) (by decide), getF_setHalf hshort,
      getF_setStaging hshort, getF_setF_same _ _ _ (show 1 + 1 ≤ 64 by decide)]
    rfl

/-- Every pavilion of a list that is lost is off after it. -/
theorem foldl_pavLost_off {ds : List Nat} {d : Nat} (hd : d ∈ ds) (s : State) : ((ds.foldl (fun s p => s.pavLost p 2) s).pav d).Off :=
  foldl_establishes (f := fun s p => s.pavLost p 2) (P := fun s : State => (s.pav d).Off) (fun s => pavLost_off s d 2) (fun s c h => by
    by_cases hdc : d = c
    · rw [hdc]; exact pavLost_off s c 2
    · rw [pavLost_pav_other s 2 hdc]; exact h) hd s

theorem foldl_pavLost_pw (ds : List Nat) (s : State) {f : Fld} (hf : notStaged f) :
    getF f (ds.foldl (fun s p => s.pavLost p 2) s).pw = getF f s.pw :=
  foldl_keeps (g := fun s : State => getF f s.pw) (fun s p => pavLost_pw s p 2 hf) ds s

theorem report_pav (s : State) (i : Incident) (d : Nat) : (s.report i).pav d = s.pav d := rfl
theorem report_pw (s : State) (i : Incident) : (s.report i).pw = s.pw := rfl
theorem report_cores (s : State) (i : Incident) : (s.report i).cores = s.cores := rfl
theorem report_slow (s : State) (i : Incident) : (s.report i).slow = s.slow := rfl
theorem reportRepair_pav (s : State) (r : Repair) (d : Nat) : (s.reportRepair r).pav d = s.pav d := rfl
theorem reportRepair_pw (s : State) (r : Repair) : (s.reportRepair r).pw = s.pw := rfl
theorem reportRepair_cores (s : State) (r : Repair) : (s.reportRepair r).cores = s.cores := rfl
theorem reportRepair_slow (s : State) (r : Repair) : (s.reportRepair r).slow = s.slow := rfl

theorem execPlotShort_on {s : State} {q : Nat} (hq : q < 36) (hon : getF (Reg.PW_PLOT_ON q) s.pw = 1) : execPlotShort q s = .next
    ((((plotPavs q).foldl (fun s p => s.pavLost p 2) (s.shortPlot q)).reportRepair { type := 5, source := 1, unit := q, a := 0, b := 0 }).report
      { kind := 0x30, unit := 3, unitId := q, action := 3 }) := by
  unfold execPlotShort
  rw [onUnit_next (decide_eq_true hq)]
  exact congrArg Host.Outcome.next (if_neg (by rw [hon]; decide))

theorem execThoroughfareRegulatorFault_ok {s : State} {p : Nat} (hp : p < Config.pavilions) (hok : (s.pav p).getF Reg.PV_REG_STATUS_THOK = 1) :
    execThoroughfareRegulatorFault p s = .next
      (((s.pavLost p 3).reportRepair { type := 9, source := 1, unit := p, a := 2, b := 0 }).reportAt 0x30 2 p (s.pav p).owner) := by
  unfold execThoroughfareRegulatorFault
  refine (if_pos hp).trans ?_
  exact congrArg Host.Outcome.next (if_neg (by rw [hok]; decide))

/-- A pavilion with phase `n` of those that were `ok` latched off, `lost` in all. -/
def Pav.losePhase (ok n lost : Nat) (v : Pav) : Pav :=
  let w := (v.setF Reg.PV_REG_STATUS_PHASEOK (clearBit ok n)).setF Reg.PV_REG_STATUS_LOST lost
  let w := (w.incF Reg.PV_REG_CNT_PHASEFAULT 1).setF Reg.PV_REG_STATUS_PHASEIDX (min 2 lost)
  if 3 ≤ lost then w.setF Reg.PV_REG_STATUS_OFFPHASE 1 else w

/-- What is reported of a phase that is lost. -/
def State.reportPhase (s : State) (p n lost : Nat) (owner : Option Nat) : State :=
  (s.reportRepair { type := 4, source := 1, unit := p, a := n, b := 0 }).report
    { kind := 0x30, unit := 2, unitId := p, garden := owner.getD 0xFF, flags := if Decidable.decide (3 ≤ lost) && owner.isSome then 1 else 0,
      action := if Decidable.decide (3 ≤ lost) then 3 else 0 }

theorem execPhaseFault_latched {s : State} {p n : Nat} (hp : p < Config.pavilions) (hn : n < 8)
    (hok : ((s.pav p).getF Reg.PV_REG_STATUS_PHASEOK).testBit n = true) : execPhaseFault p n s =
    .next (let lost := (s.pav p).getF Reg.PV_REG_STATUS_LOST + 1
      let t := (s.updPav p (Pav.losePhase ((s.pav p).getF Reg.PV_REG_STATUS_PHASEOK) n lost)).reportPhase p n lost (s.pav p).owner
      if decide (3 ≤ lost) then t.domainOff p else t.reindex p) := by
  unfold execPhaseFault
  rw [onUnit_next (by rw [decide_eq_true hp, decide_eq_true hn]; rfl)]
  exact congrArg Host.Outcome.next (if_neg (by rw [hok]; decide))

theorem losePhase_fields (v : Pav) {ok lost : Nat} (n : Nat) (hok : ok < 256) (hlost : lost < 3) :
    (v.losePhase ok n lost).getF Reg.PV_REG_STATUS_PHASEOK = clearBit ok n ∧ (v.losePhase ok n lost).getF Reg.PV_REG_STATUS_LOST = lost ∧
    (v.losePhase ok n lost).getF Reg.PV_REG_STATUS_PHASEIDX = lost := by
  have hclear : clearBit ok n < 256 := by
    unfold clearBit
    split
    · exact Nat.lt_of_le_of_lt (Nat.sub_le _ _) hok
    · exact hok
  unfold Pav.losePhase
  dsimp only
  rw [if_neg (by omega), show min 2 lost = lost by omega]
  refine ⟨?_, ?_, ?_⟩
  · rw [Pav.getF_setF_other _ _ (by decide) (by decide), Pav.getF_incF_other _ _ (by decide) (by decide),
      Pav.getF_setF_other _ _ (by decide) (by decide), Pav.getF_setF_same _ _ _ (by decide)]
    exact Nat.mod_eq_of_lt hclear
  · rw [Pav.getF_setF_other _ _ (by decide) (by decide), Pav.getF_incF_other _ _ (by decide) (by decide), Pav.getF_setF_same _ _ _ (by decide)]
    exact Nat.mod_eq_of_lt (show lost < 16 by omega)
  · rw [Pav.getF_setF_same _ _ _ (by decide)]
    exact Nat.mod_eq_of_lt (show lost < 8 by omega)

theorem reportPhase_pav (s : State) (p n lost : Nat) (owner : Option Nat) (d : Nat) : (s.reportPhase p n lost owner).pav d = s.pav d := rfl
theorem reportPhase_cores (s : State) (p n lost : Nat) (owner : Option Nat) : (s.reportPhase p n lost owner).cores = s.cores := rfl
theorem reportPhase_slow (s : State) (p n lost : Nat) (owner : Option Nat) : (s.reportPhase p n lost owner).slow = s.slow := rfl

theorem reindex_pav_same (s : State) (p : Nat) : (s.reindex p).pav p = (s.pav p).reindex s.alertHold := State.updPav_same _ _ _
theorem reindex_pav_other (s : State) {p d : Nat} (hd : d ≠ p) : (s.reindex p).pav d = s.pav d := State.updPav_other _ _ _ hd
theorem reindex_cores (s : State) (p : Nat) : (s.reindex p).cores = s.cores := rfl
theorem reindex_slow (s : State) (p : Nat) : (s.reindex p).slow = s.slow := rfl
theorem reindex_pw (s : State) (p : Nat) : (s.reindex p).pw = s.pw := rfl

/-- A phase that is lost beside at most one other slows its domain. -/
theorem execPhaseFault_slows {s : State} {p n : Nat} (hp : p < Config.pavilions) (hn : n < 8)
    (hok : ((s.pav p).getF Reg.PV_REG_STATUS_PHASEOK).testBit n = true) (hlost : (s.pav p).getF Reg.PV_REG_STATUS_LOST + 1 < 3) :
    Completes (execPhaseFault p n s) fun t =>
      (t.pav p).getF Reg.PV_REG_STATUS_PHASEOK = clearBit ((s.pav p).getF Reg.PV_REG_STATUS_PHASEOK) n ∧
      (t.pav p).getF Reg.PV_REG_STATUS_LOST = (s.pav p).getF Reg.PV_REG_STATUS_LOST + 1 ∧
      (t.pav p).getF Reg.PV_REG_STATUS_PHASEIDX = (s.pav p).getF Reg.PV_REG_STATUS_LOST + 1 ∧
      (∀ d, d ≠ p → t.pav d = s.pav d) ∧ t.cores = s.cores ∧ t.slow = s.slow := by
  obtain ⟨h1, h2, h3⟩ := losePhase_fields (s.pav p) n (show (s.pav p).getF Reg.PV_REG_STATUS_PHASEOK < 256 from getF_lt _ _) hlost
  refine ⟨_, execPhaseFault_latched hp hn hok, ?_⟩
  dsimp only
  rw [decide_eq_false (by omega), if_neg (by decide), reindex_pav_same, reindex_cores, reindex_slow, reportPhase_pav, reportPhase_cores, reportPhase_slow,
    State.updPav_same, State.updPav_cores, State.updPav_slow, reindex_getF _ _ rfl rfl (by decide), reindex_getF _ _ rfl rfl (by decide),
    reindex_getF _ _ rfl rfl (by decide)]
  exact ⟨h1, h2, h3, fun d hd => by rw [reindex_pav_other _ hd, reportPhase_pav, State.updPav_other _ _ _ hd], rfl, rfl⟩

/-- The third phase that is lost switches the domain off. -/
theorem execPhaseFault_stops {s : State} {p n : Nat} (hp : p < Config.pavilions) (hn : n < 8)
    (hok : ((s.pav p).getF Reg.PV_REG_STATUS_PHASEOK).testBit n = true) (hlost : 3 ≤ (s.pav p).getF Reg.PV_REG_STATUS_LOST + 1) :
    Completes (execPhaseFault p n s) fun t => (t.pav p).getF Reg.PV_REG_STATUS_ON = 0 ∧ t.slow = s.slow := by
  refine ⟨_, execPhaseFault_latched hp hn hok, ?_⟩
  dsimp only
  rw [decide_eq_true hlost, if_pos rfl, domainOff_pav_on, domainOff_slow, reportPhase_slow, State.updPav_slow]
  exact ⟨rfl, rfl⟩

theorem execPlotShort_dark {s : State} {q : Nat} (hq : q < 36) (hon : getF (Reg.PW_PLOT_ON q) s.pw = 1) : Completes (execPlotShort q s) fun t =>
    getF (Reg.PW_PLOT_ON q) t.pw = 0 ∧ getF (Reg.PW_PLOT_SHORT q) t.pw = 1 ∧
    ∀ d ∈ plotPavs q, (t.pav d).dark = true ∧ (t.pav d).getF Reg.PV_REG_STATUS_ON = 0 := by
  obtain ⟨hzero, hone⟩ := shortPlot_fields s q
  refine ⟨_, execPlotShort_on hq hon, ?_⟩
  dsimp only
  rw [report_pw, reportRepair_pw, foldl_pavLost_pw _ _ (plotField_notStaged (show 0 + 1 ≤ 3 by decide) rfl),
    foldl_pavLost_pw _ _ (plotField_notStaged (show 1 + 1 ≤ 3 by decide) rfl)]
  refine ⟨hzero, hone, fun d hd => ?_⟩
  rw [report_pav, reportRepair_pav]
  have hoff := foldl_pavLost_off hd (s.shortPlot q)
  exact ⟨hoff.dark, hoff.on⟩

theorem execThoroughfareRegulatorFault_dark {s : State} {p : Nat} (hp : p < Config.pavilions) (hok : (s.pav p).getF Reg.PV_REG_STATUS_THOK = 1) :
    Completes (execThoroughfareRegulatorFault p s) fun t => (t.pav p).dark = true ∧ (t.pav p).getF Reg.PV_REG_STATUS_THOK = 0 ∧
      (∀ c, pavOf c = p → c < Config.coreSites → (t.core c).spad = []) ∧ t.slow = s.slow := by
  have hoff := pavLost_off s p 3
  refine ⟨_, execThoroughfareRegulatorFault_ok hp hok, ?_⟩
  unfold State.reportAt
  dsimp only
  rw [report_pav, reportRepair_pav, report_slow, reportRepair_slow, pavLost_slow]
  refine ⟨hoff.dark, hoff.thok, fun c hc _ => ?_, rfl⟩
  rw [core_congr (report_cores _ _), core_congr (reportRepair_cores _ _)]
  exact pavLost_spad s 3 (hc ▸ mem_coresOf c)

/-! ### Powering on and off -/

section
variable {s : State} {p : Nat} (hp : p < Config.pavilions)
include hp

theorem onPav_next (f : State → State) : onPav p s f = .next (f s) := if_pos hp

theorem execDomainPowerOn_starts (hmay : (s.pav p).mayPower = true) (htrip : s.pins.thermTrip = false) (hoff : (s.pav p).switchingOff = false) :
    execDomainPowerOn p s = .next (s.startPowerOn p) := by
  unfold execDomainPowerOn
  rw [onPav_next hp]
  exact congrArg Host.Outcome.next ((if_neg (by rw [hmay, htrip]; decide)).trans (if_neg (by rw [hoff]; decide)))

theorem execDomainPowerOn_waits (hmay : (s.pav p).mayPower = true) (htrip : s.pins.thermTrip = false) (hoff : (s.pav p).switchingOff = true) :
    execDomainPowerOn p s = .next (s.updPav p fun v => { v with powerOnWait := true }) := by
  unfold execDomainPowerOn
  rw [onPav_next hp]
  exact congrArg Host.Outcome.next ((if_neg (by rw [hmay, htrip]; decide)).trans (if_pos hoff))

/-- The plot's current as CORE_SWITCH_ON finds it. -/
def State.plotCurrent (s : State) (q amps : Nat) : State := (s.setPw (Reg.PW_PLOT_CURR q) amps).setPw (Reg.PW_PLOT_LIMIT q) (if 315 ≤ amps then 1 else 0)

omit hp in
theorem plotCurrent_pav (s : State) (q amps d : Nat) : (s.plotCurrent q amps).pav d = s.pav d := rfl

omit hp in
theorem alertHold_plotCurrent (s : State) (q amps : Nat) : (s.plotCurrent q amps).alertHold = s.alertHold := by
  unfold State.alertHold State.plotCurrent
  rw [State.setPw_pw, State.setPw_pw, getF_setF_other _ _ _ _ (show 2 + 1 ≤ 64 by decide) (Or.inl (by show 0 ≠ 0x200 + 8 * q; omega)),
    getF_setF_other _ _ _ _ (show 16 + 12 ≤ 64 by decide) (Or.inl (by show 0 ≠ 0x200 + 8 * q; omega))]

theorem execCoreSwitchOn_one {amps : Nat} (hpow : (s.pav p).powering = true) (hfirst : ∀ d ∈ plotPavs (plotOf p), d < p → (s.pav d).powering = false)
    (hhold : s.alertHold = false) (hless : (s.pav p).getF Reg.PV_REG_STATUS_CORESON < 64) (hamps : amps < 315) :
    execCoreSwitchOn p amps s = .next ((s.plotCurrent (plotOf p) amps).updPav p fun v => v.incF Reg.PV_REG_STATUS_CORESON 1) := by
  have hall : ((plotPavs (plotOf p)).all fun d => decide (p ≤ d) || !((s.plotCurrent (plotOf p) amps).pav d).powering) = true := by
    rw [List.all_eq_true]
    intro d hd
    by_cases h : p ≤ d
    · rw [decide_eq_true h, Bool.true_or]
    · rw [plotCurrent_pav, hfirst d hd (by omega), Bool.not_false, Bool.or_true]
  unfold execCoreSwitchOn
  rw [onPav_next hp]
  refine congrArg Host.Outcome.next (if_neg ?_)
  change ¬ ((!(s.pav p).powering || !((plotPavs (plotOf p)).all fun d => decide (p ≤ d) || !((s.plotCurrent (plotOf p) amps).pav d).powering) ||
    (s.plotCurrent (plotOf p) amps).alertHold || decide (64 ≤ (s.pav p).getF Reg.PV_REG_STATUS_CORESON) || (decide (315 ≤ amps) && _)) = true)
  rw [hpow, hall, alertHold_plotCurrent, hhold, decide_eq_false (Nat.not_le.mpr hless), decide_eq_false (Nat.not_le.mpr hamps)]
  exact Bool.false_ne_true

theorem execHalfSlope_waited {micros : Nat} (hpow : (s.pav p).powering = true) (hhold : s.alertHold = false) (hlong : 10000 ≤ micros) :
    execHalfSlope p micros s = .next (s.setPw (Reg.PW_PLOT_HALF (plotOf p)) 1) := by
  unfold execHalfSlope
  rw [onPav_next hp]
  exact congrArg Host.Outcome.next (if_pos (by rw [hpow, hhold, decide_eq_true hlong]; rfl))

/-- A pavilion whose 64 cores are on. -/
def Pav.poweredOn (v : Pav) : Pav := (v.setF Reg.PV_REG_STATUS_POWERING 0).setF Reg.PV_REG_STATUS_ON 1

/-- A plot once a pavilion of it is on. -/
def State.stageNext (s : State) (q : Nat) : State :=
  (s.setPw (Reg.PW_PLOT_STAGING q) (if (plotPavs q).any fun p => (s.pav p).powering then 1 else 0)).setPw (Reg.PW_PLOT_HALF q) 0

theorem execDomainOnComplete_on (hpow : (s.pav p).powering = true) (hlag : (s.pav p).sdLag.natAbs ≤ 1)
    (hall : (s.pav p).getF Reg.PV_REG_STATUS_CORESON = 64) : execDomainOnComplete p s =
      .next (((((s.updPav p Pav.poweredOn).stageNext (plotOf p)).resetCores p Core.reset).identify p).reindex p) := by
  unfold execDomainOnComplete
  rw [onPav_next hp]
  refine congrArg Host.Outcome.next (if_neg ?_)
  rw [hpow, decide_eq_false (Nat.not_lt.mpr hlag), hall]
  decide

theorem execSwitchOffComplete_plain (hoff : (s.pav p).switchingOff = true) (hwait : (s.pav p).powerOnWait = false) :
    execSwitchOffComplete p s =
      .next ((s.updPav p fun v => { v with switchingOff := false }).updPav p fun v => { v with powerOnWait := false }) := by
  unfold execSwitchOffComplete
  rw [onPav_next hp]
  refine congrArg Host.Outcome.next ((if_neg (by rw [hoff]; decide)).trans (if_neg ?_))
  rw [hwait, Bool.false_and, Bool.false_and]
  exact Bool.false_ne_true

theorem execOutputWithinVset_reached {idx : Nat} (hidx : (s.pav p).pendingIdx = some idx) :
    execOutputWithinVset p s = .next (s.updPav p fun v => { v.setF Reg.PV_CLK_STATUS_DIV idx with pendingIdx := none }) := by
  unfold execOutputWithinVset
  rw [onPav_next hp]
  dsimp only
  rw [hidx]

end

/-- To write a pavilion again as it stands changes nothing. -/
theorem updPav_again (s : State) (p : Nat) {f g : Pav → Pav} (h : g (f (s.pav p)) = f (s.pav p)) : (s.updPav p f).updPav p g = s.updPav p f := by
  have hsame : (s.updPav p f).pav p = f (s.pav p) := State.updPav_same _ _ _
  have hpavs : (s.updPav p f).pavs = Fm.set {} p (f (s.pav p)) s.pavs := rfl
  rw [State.updPav, hsame, h, State.setPav, hpavs, Fm.set_set_self]
  rfl

theorem identify_pavs (s : State) (p : Nat) : (s.identify p).pavs = s.pavs := foldl_keeps (g := State.pavs) (fun s c => State.updCore_pavs s c _) _ s
theorem identify_pw (s : State) (p : Nat) : (s.identify p).pw = s.pw := foldl_keeps (g := State.pw) (fun s c => State.updCore_pw s c _) _ s
theorem identify_slow (s : State) (p : Nat) : (s.identify p).slow = s.slow := foldl_keeps (g := State.slow) (fun s c => State.updCore_slow s c _) _ s

theorem poweredOn_fields (v : Pav) : v.poweredOn.getF Reg.PV_REG_STATUS_ON = 1 ∧ v.poweredOn.getF Reg.PV_REG_STATUS_POWERING = 0 :=
  ⟨Pav.getF_setF_same _ _ _ (by decide), (Pav.getF_setF_other _ _ (by decide) (by decide)).trans (Pav.getF_setF_same _ _ _ (by decide))⟩

theorem stageNext_pavs (s : State) (q : Nat) : (s.stageNext q).pavs = s.pavs := rfl
theorem stageNext_slow (s : State) (q : Nat) : (s.stageNext q).slow = s.slow := rfl
theorem stageNext_half (s : State) (q : Nat) : getF (Reg.PW_PLOT_HALF q) (s.stageNext q).pw = 0 := by
  unfold State.stageNext
  rw [State.setPw_pw, getF_setF_same _ _ _ (show 4 + 1 ≤ 64 by decide)]
  rfl

/-- A domain whose cores are all on is on, at its index in force. -/
theorem execDomainOnComplete_facts {s : State} {p : Nat} (hp : p < Config.pavilions) (hpow : (s.pav p).powering = true)
    (hlag : (s.pav p).sdLag.natAbs ≤ 1) (hall : (s.pav p).getF Reg.PV_REG_STATUS_CORESON = 64) : Completes (execDomainOnComplete p s) fun t =>
      (t.pav p).getF Reg.PV_REG_STATUS_ON = 1 ∧ (t.pav p).getF Reg.PV_REG_STATUS_POWERING = 0 ∧
      getF (Reg.PW_PLOT_HALF (plotOf p)) t.pw = 0 ∧ t.slow = s.slow := by
  obtain ⟨hon, hoff⟩ := poweredOn_fields (s.pav p)
  refine ⟨_, execDomainOnComplete_on hp hpow hlag hall, ?_⟩
  dsimp only
  rw [reindex_pav_same, reindex_getF _ _ rfl rfl (by decide), reindex_getF _ _ rfl rfl (by decide), reindex_pw, reindex_slow,
    pav_congr (identify_pavs _ _), identify_pw, identify_slow, pav_congr (resetCores_pavs _ _ _), resetCores_pw, resetCores_slow,
    pav_congr (stageNext_pavs _ _), stageNext_half, stageNext_slow, State.updPav_same, State.updPav_slow]
  exact ⟨hon, hoff, rfl, rfl⟩

/-- A domain that is on begins to be switched off. -/
theorem execDomainSwitchOff_facts {s : State} {p : Nat} (hp : p < Config.pavilions) (hon : (s.pav p).getF Reg.PV_REG_STATUS_ON = 1) :
    Completes (execDomainSwitchOff p s) fun t =>
      (t.pav p).getF Reg.PV_REG_STATUS_ON = 0 ∧ (t.pav p).switchingOff = true ∧ (∀ d, d ≠ p → t.pav d = s.pav d) ∧
      ∀ c, pavOf c = p → c < Config.coreSites → (t.core c).spad = (s.core c).spad ∧ (t.core c).getF Reg.KP_CTRL_RUN = 0 := by
  have hne : (s.pav p).getF Reg.PV_REG_STATUS_ON ≠ 0 := by rw [hon]; decide
  refine ⟨_, onPav_next hp _, domainOff_pav_on s p, ?_, fun d hd => domainOff_pav_other s hd, fun c hc _ => domainOff_core hne (hc ▸ mem_coresOf c)⟩
  rw [pav_congr (domainOff_pavs (Or.inl hne)), State.updPav_same]
  rfl

theorem coresOn_incF (v : Pav) (h : v.getF Reg.PV_REG_STATUS_CORESON < 64) :
    (v.incF Reg.PV_REG_STATUS_CORESON 1).getF Reg.PV_REG_STATUS_CORESON = v.getF Reg.PV_REG_STATUS_CORESON + 1 :=
  (getF_incF_same Reg.PV_REG_STATUS_CORESON 1 v.regs (by decide)).trans (Nat.min_eq_left (show v.getF Reg.PV_REG_STATUS_CORESON + 1 ≤ 127 by omega))

theorem reached_fields (v : Pav) {idx : Nat} (h : idx < 8) :
    ({ v.setF Reg.PV_CLK_STATUS_DIV idx with pendingIdx := none } : Pav).getF Reg.PV_CLK_STATUS_DIV = idx := by
  unfold Pav.getF
  dsimp only
  rw [Pav.setF_regs, Machine.getF_setF_same _ _ _ (by decide)]
  exact Nat.mod_eq_of_lt h

/-- Settles O28, by the lemma of each command. -/
theorem domainsLosePowerAndGetIt : Obligations.DomainsLosePowerAndGetIt := by
  intro s p hp v q lost phaseOk
  refine ⟨fun n hn hok hlost => ?_, fun n hn hok hlost _ => ?_, fun n hn hon => ?_, fun hok => ?_,
    fun hmay htrip => ⟨fun hoff => ?_, fun hoff => ?_⟩, fun amps hpow hfirst hhold hless hamps => ?_, fun micros hpow hhold hlong => ?_,
    fun hpow hlag hall => ?_, fun hon => ?_, fun hoff hwait => ?_, fun idx hidx hlt => ?_⟩ <;> dsimp only [exec]
  · exact execPhaseFault_slows hp hn hok hlost
  · exact execPhaseFault_stops hp hn hok hlost
  · exact execPlotShort_dark hn hon
  · exact execThoroughfareRegulatorFault_dark hp hok
  · exact execDomainPowerOn_starts hp hmay htrip hoff
  · exact execDomainPowerOn_waits hp hmay htrip hoff
  · refine ⟨_, execCoreSwitchOn_one hp hpow hfirst hhold hless hamps, ?_, fun d hd => ?_, rfl⟩
    · rw [State.updPav_same, plotCurrent_pav, coresOn_incF _ hless]
    · rw [State.updPav_other _ _ _ hd, plotCurrent_pav]
  · exact execHalfSlope_waited hp hpow hhold hlong
  · exact execDomainOnComplete_facts hp hpow hlag hall
  · exact execDomainSwitchOff_facts hp hon
  · rw [execSwitchOffComplete_plain hp hoff hwait, updPav_again]
    dsimp only
    rw [show (s.pav p).powerOnWait = false from hwait]
  · refine ⟨_, execOutputWithinVset_reached hp hidx, onlyPav_updPav _ _ _, ?_, ?_⟩
    · rw [State.updPav_same, reached_fields _ hlt]
    · rw [State.updPav_same]

end Sys2Proof.Machine

/-! ## The mailbox window (R324, R346-R348) -/

namespace Sys2Proof.Machine

theorem onlyChan_updChan (s : State) (ch : Nat) (f : Chan → Chan) : OnlyChan ch s (s.updChan ch f) :=
  ⟨rfl, fun _ hd => State.updChan_other s ch f hd⟩

theorem ownWindow_iff {s : State} {ch : Nat} :
    ownWindow s ch = true ↔ ch < 64 ∧ s.windowOpen = true ∧ s.boundOf ch ≠ 0 ∧ s.mbxSel ch = ch := by
  simp only [ownWindow, Bool.and_eq_true, decide_eq_true_eq, and_assoc]

theorem onWindow_next {s : State} {ch : Nat} (h : ownWindow s ch = true) (f : State → State) : onWindow ch s f = .next (f s) := by
  obtain ⟨hch, hopen, hbound, hsel⟩ := ownWindow_iff.mp h
  rw [onWindow, onChan, if_pos hch, if_pos (by simp [hopen, hbound, hsel])]

theorem onWindow_closed {s : State} {ch : Nat} (h : ownWindow s ch = false) (f : State → State) : onWindow ch s f = .next s := by
  unfold onWindow onChan
  split
  next hch =>
    refine congrArg Host.Outcome.next (if_neg ?_)
    intro hopen
    simp only [Bool.and_eq_true, decide_eq_true_eq] at hopen
    obtain ⟨⟨hopen, hbound⟩, hsel⟩ := hopen
    exact Bool.false_ne_true (h.symm.trans (ownWindow_iff.mpr ⟨hch, hopen, hbound, hsel⟩))
  · rfl

/-- A command of the window that updates its channel alone leaves the channel as `l` says. -/
theorem gives_of_updChan {s : State} {ch : Nat} (h : ownWindow s ch = true) {f : Chan → Chan} {l : Chan} (hl : f (s.chan ch) = l) :
    Completes (onWindow ch s fun s => s.updChan ch f) fun t => OnlyChan ch s t ∧ t.chan ch = l :=
  ⟨_, onWindow_next h _, onlyChan_updChan s ch f, (State.updChan_same s ch f).trans hl⟩

theorem Chan.append_room {c : Chan} (w : Word) (h : c.forming.length < 512) : c.append w = { c with forming := c.forming ++ [w] } :=
  if_neg (Nat.not_le.mpr h)

theorem Chan.append_full {c : Chan} (w : Word) (h : 512 ≤ c.forming.length) : c.append w = c.setF Reg.PM_MBX_STATUS_OVERRUN 1 :=
  if_pos h

theorem Chan.post_room {c : Chan} (h : c.inSlots.length < 8) :
    c.post = { c with inSlots := c.inSlots ++ [letterOf (wordsBytes c.forming) c.forming.length], forming := [] } :=
  if_neg (Nat.not_le.mpr h)

theorem Chan.post_full {c : Chan} (h : 8 ≤ c.inSlots.length) : c.post = c.setF Reg.PM_MBX_STATUS_INFULL 1 := if_pos h

/-- R348: a read within the oldest receipt returns its next 8 B. -/
theorem readOut_within {s : State} {ch : Nat} {r : Receipt} {rs : List Receipt} (hr : (s.chan ch).outSlots = r :: rs)
    (hpos : 8 * (s.chan ch).outPos < r.bytes.length) :
    s.readOut ch = (BitVec.ofNat 64 (leVal ((r.bytes.drop (8 * (s.chan ch).outPos)).take 8)),
      s.updChan ch fun c => { c with outPos := (s.chan ch).outPos + 1 }) := by
  unfold State.readOut
  rw [hr]
  exact if_neg (Nat.not_le.mpr hpos)

/-- The oldest receipt's slot is freed; nothing behind the queue moves up. -/
theorem Chan.freeSlot_first {c : Chan} {r : Receipt} {rs : List Receipt} (hr : c.outSlots = r :: rs) (hheld : c.heldOut = []) :
    c.freeSlot r = ({ c with outSlots := rs, outPos := 0 }, none) := by
  unfold Chan.freeSlot
  rw [if_neg (by simp [hr]), hr, List.erase_cons_head]
  dsimp only
  rw [hheld]

theorem flushSession_none {s : State} {id : Nat} (h : s.session id = none) : s.flushSession id = s := by
  unfold State.flushSession
  rw [h]

/-- R347: a receipt taken on a channel without a session frees its slot, and sends nothing. -/
theorem take_unheld {s : State} {ch : Nat} {r : Receipt} {rs : List Receipt} (hr : (s.chan ch).outSlots = r :: rs)
    (hsession : s.session (s.chan ch).session = none) (hheld : (s.chan ch).heldOut = []) :
    s.take ch = s.updChan ch fun _ => { s.chan ch with outSlots := rs, outPos := 0 } := by
  have hfree : s.freeReceipt (s.chan ch).session ch r = s.updChan ch fun _ => { s.chan ch with outSlots := rs, outPos := 0 } := by
    unfold State.freeReceipt
    rw [Chan.freeSlot_first hr hheld]
  unfold State.take
  rw [hr]
  dsimp only
  rw [hfree, State.updChan_same]
  exact flushSession_none hsession

theorem muteChannel_chan (s : State) (ch : Nat) : (s.muteChannel ch).chan ch = (s.chan ch).fresh := State.updChan_same _ _ _

theorem muteChannel_other (s : State) {ch d : Nat} (h : d ≠ ch) : (s.muteChannel ch).chan d = s.chan d := State.updChan_other _ _ _ h

/-- R328: the letters a channel has accepted are answered no more. -/
theorem muteChannel_mutes (s : State) (ch : Nat) {a : Accepted} (ha : a ∈ (s.muteChannel ch).post.accepted) (hch : a.channel = ch) :
    a.mute = true := by
  obtain ⟨b, _, rfl⟩ := List.mem_map.mp ha
  by_cases hb : b.channel = ch
  · rw [if_pos hb]
  · rw [if_neg hb] at hch
    exact absurd hch hb

theorem windowCommand_closed {s : State} {ch : Nat} (h : ownWindow s ch = false) :
    ∀ cmd ∈ [Instr.post ch, .take ch, .abort ch, .pmMbxReset ch, .pmMbxOut ch, .pmMbxIn ch 0], exec cmd s = .next s := by
  intro cmd hcmd
  simp only [List.mem_cons, List.not_mem_nil, or_false] at hcmd
  rcases hcmd with rfl | rfl | rfl | rfl | rfl | rfl <;> dsimp only [exec] <;> exact onWindow_closed h _

/-- Settles O30: an open window's commands each update their channel as the channel's own functions say; a closed one leaves the
state. -/
theorem theWindowFormsAndTakesLetters : Obligations.TheWindowFormsAndTakesLetters := by
  intro s ch _
  refine ⟨fun hopen => ⟨fun w hroom => gives_of_updChan hopen (Chan.append_room w hroom),
    fun w hfull => gives_of_updChan hopen (Chan.append_full w hfull), fun hroom => gives_of_updChan hopen (Chan.post_room hroom),
    fun hfull => gives_of_updChan hopen (Chan.post_full hfull), gives_of_updChan hopen rfl, ?_, ?_, ?_⟩, windowCommand_closed⟩
  · intro r rs hr hpos
    have hread := readOut_within hr hpos
    refine ⟨⟨_, onWindow_next hopen fun s => (s.readOut ch).2, ?_⟩, congrArg Prod.fst hread⟩
    dsimp only
    rw [hread]
    exact ⟨onlyChan_updChan s ch _, State.updChan_same s ch _⟩
  · intro r rs hr hsession hheld
    refine ⟨_, onWindow_next hopen fun s => s.take ch, ?_⟩
    dsimp only
    rw [take_unheld hr hsession hheld, State.updChan_same]
    exact ⟨rfl, rfl, fun d hd => State.updChan_other s ch _ hd⟩
  · refine ⟨_, onWindow_next hopen fun s => s.muteChannel ch, ?_⟩
    dsimp only
    rw [muteChannel_chan]
    exact ⟨rfl, rfl, rfl, rfl, rfl, fun a ha hch => muteChannel_mutes s ch ha hch, fun d hd => muteChannel_other s hd⟩

end Sys2Proof.Machine

/-! ## The window's other paths (R10, R14, R340, R346, R349-R351, R507) -/

namespace Sys2Proof.Machine

section
variable {s : State}

theorem smbus_ack {off : Nat} {pec : Bool} (h : (pec && s.windowOpen && decide (off % 8 = 0) && decide (off ≤ 0x1F8)) = true)
    (f : State → State) : smbus off pec s f = .next (f s) := if_pos h

theorem smbus_nack {off : Nat} {pec : Bool} (h : (pec && s.windowOpen && decide (off % 8 = 0) && decide (off ≤ 0x1F8)) = false)
    (f : State → State) : smbus off pec s f = .next (s.smb none) := if_neg (by rw [h]; exact Bool.false_ne_true)

/-- R349: an SMBus command at an offset that exists, with a good PEC and once the module serves, acts as channel 2's. -/
theorem readReg_acked {off : Nat} {pec : Bool}
    (h : (pec && s.windowOpen && decide (off % 8 = 0) && decide (off ≤ 0x1F8)) = true) :
    execReadReg off pec s = .next ((s.pmRead 2 off).2.smb (some (s.pmRead 2 off).1)) :=
  smbus_ack h fun s => (s.pmRead 2 off).2.smb (some (s.pmRead 2 off).1)

theorem writeReg_acked {off : Nat} {pec : Bool} (v : Word)
    (h : (pec && s.windowOpen && decide (off % 8 = 0) && decide (off ≤ 0x1F8)) = true) :
    execWriteReg off v pec s = .next (s.pmWrite 2 off v) := smbus_ack h fun s => s.pmWrite 2 off v

theorem readReg_nacked {off : Nat} {pec : Bool}
    (h : (pec && s.windowOpen && decide (off % 8 = 0) && decide (off ≤ 0x1F8)) = false) :
    execReadReg off pec s = .next (s.smb none) := smbus_nack h _

theorem writeReg_nacked {off : Nat} {pec : Bool} (v : Word)
    (h : (pec && s.windowOpen && decide (off % 8 = 0) && decide (off ≤ 0x1F8)) = false) :
    execWriteReg off v pec s = .next (s.smb none) := smbus_nack h _

theorem statusWord_bits (x y z : Bool) :
    (BitVec.ofNat 64 (b01 x + 2 * b01 y + 4 * b01 z)).getLsbD 0 = x ∧
    (BitVec.ofNat 64 (b01 x + 2 * b01 y + 4 * b01 z)).getLsbD 1 = y ∧
    (BitVec.ofNat 64 (b01 x + 2 * b01 y + 4 * b01 z)).getLsbD 2 = z := by
  revert x y z
  decide

/-- R350: STATUS with a good PEC. -/
theorem status_answers (s : State) : Completes (execStatus true s) fun t => { t with smbOut := s.smbOut } = s ∧
    ∃ w, t.smbOut = s.smbOut ++ [some w] ∧ w.getLsbD 0 = s.inService ∧ w.getLsbD 1 = !(s.chan 2).outSlots.isEmpty ∧
      w.getLsbD 2 = s.ice.incidents.any fun i => getF Reg.WD_INC_ACK_ACKED s.wd < i.number :=
  ⟨_, rfl, rfl, _, rfl, statusWord_bits _ _ _⟩

theorem postwin_closed (reg : BitVec 80) (h : s.windowOpen = false) :
    execPostwin reg s = .next { s with test := { s.test with postData := 0, postDone := true } } :=
  if_pos (by rw [h]; rfl)

theorem postwin_read {reg : BitVec 80} (h : s.windowOpen = true) (hrd : reg.toNat / 2 ^ 74 % 2 = 0) :
    execPostwin reg s = .next
      { (s.pmRead 3 (reg.toNat / 2 ^ 64 % 1024 * 8)).2 with
        test := { (s.pmRead 3 (reg.toNat / 2 ^ 64 % 1024 * 8)).2.test with
          postData := (s.pmRead 3 (reg.toNat / 2 ^ 64 % 1024 * 8)).1, postDone := true } } := by
  unfold execPostwin
  dsimp only
  rw [if_neg (by rw [h]; decide), if_neg (by omega)]

theorem postwin_write {reg : BitVec 80} (h : s.windowOpen = true) (hwr : reg.toNat / 2 ^ 74 % 2 = 1) :
    execPostwin reg s = .next
      { (s.pmWrite 3 (reg.toNat / 2 ^ 64 % 1024 * 8) (reg.setWidth 64)).draw.2 with
        test := { (s.pmWrite 3 (reg.toNat / 2 ^ 64 % 1024 * 8) (reg.setWidth 64)).draw.2.test with
          postData := (s.pmWrite 3 (reg.toNat / 2 ^ 64 % 1024 * 8) (reg.setWidth 64)).draw.1, postDone := true } } := by
  unfold execPostwin
  dsimp only
  rw [if_neg (by rw [h]; decide), if_pos hwr]

/-- R10: a register write outside the window's own block is made where the path may make it. -/
theorem registerWrite_block {path : WritePath} {addr : Nat} (v : Word) (hpath : pathChan path < 65) (hpm : ∀ o, regAt addr ≠ .pm o) :
    execRegisterWrite path addr v s = .next (if s.mayWrite (pathChan path) addr
      then s.writeReg (pathChan path) addr (if pathChan path = 64 then v else permittedBits addr v) else s) := by
  unfold execRegisterWrite onUnit
  rw [if_pos (decide_eq_true hpath)]
  refine congrArg Host.Outcome.next ?_
  dsimp only
  split
  next o ho => exact absurd ho (hpm o)
  · rfl

theorem mayWrite_postmaster (s : State) (addr : Nat) : s.mayWrite 64 addr = true := rfl

end

/-- Settles O31: what each path's command comes to, by whether the path is answered and may write. -/
theorem otherPathsReachTheWindow : Obligations.OtherPathsReachTheWindow := by
  intro s
  refine ⟨fun off hopen hoff hlast => ?_, fun off v pec hbad => ⟨readReg_nacked hbad, writeReg_nacked v hbad⟩, status_answers s, rfl,
    fun reg => ⟨fun hclosed => postwin_closed reg hclosed, fun hopen hrd => postwin_read hopen hrd, fun hopen hwr => ?_⟩,
    fun path addr v hpath hpm => ⟨fun hmay => ?_, fun hch hmay => ?_⟩, fun addr v hpm => ?_⟩
  · have hgood : (true && s.windowOpen && decide (off % 8 = 0) && decide (off ≤ 0x1F8)) = true := by simp [hopen, hoff, hlast]
    exact ⟨readReg_acked hgood, fun v => writeReg_acked v hgood⟩
  · exact ⟨_, postwin_write hopen hwr, rfl, rfl⟩
  · refine (registerWrite_block v hpath hpm).trans (congrArg Host.Outcome.next (if_neg ?_))
    rw [hmay]
    exact Bool.false_ne_true
  · refine (registerWrite_block v hpath hpm).trans (congrArg Host.Outcome.next ((if_pos hmay).trans ?_))
    rw [if_neg hch]
  · exact (registerWrite_block (path := .postmaster) v (by decide) hpm).trans
      (congrArg Host.Outcome.next (if_pos (mayWrite_postmaster s addr)))

end Sys2Proof.Machine

/-! ## The postmaster's rounds and its restart (R318-R320, R336, R465) -/

namespace Sys2Proof.Machine

section
variable {s : State}

/-- A part of the loop that is due happens, and one that is not leaves the state. -/
theorem once_of_guard {cmd : Instr} {last : Nat} {may : Prop} [Decidable may] {t : State}
    (h : exec cmd s = .next (if (s.inService && decide (last ≠ s.round + 1) && decide may) = true then t else s)) (hin : s.inService = true) :
    (last ≠ s.round + 1 → may → exec cmd s = .next t) ∧ (last = s.round + 1 ∨ ¬may → exec cmd s = .next s) := by
  refine ⟨fun hlast hmay => h.trans (congrArg Host.Outcome.next (if_pos (by simp [hin, hlast, hmay]))),
    fun hnot => h.trans (congrArg Host.Outcome.next (if_neg ?_))⟩
  simp only [Bool.and_eq_true, decide_eq_true_eq, not_and]
  rintro ⟨_, hlast⟩ hmay
  exact hnot.elim hlast (absurd hmay)

theorem decisionPoint_guard (s : State) :
    execDecisionPoint s = .next (if (s.inService && decide (s.post.decided ≠ s.round + 1) &&
        decide (s.post.swept = s.round + 1 ∧ 49152 ≤ s.tick)) = true
      then (s.updPost fun p => { p with decided := s.round + 1 }).decide.beginReroute.broadcasts.markWaiting else s) := by
  unfold execDecisionPoint
  rw [State.mayDecide, Bool.decide_and, ← Bool.and_assoc]

/-- R318: what is not in service takes no part in the loop. -/
theorem loop_outOfService (h : s.inService = false) :
    ∀ cmd ∈ [Instr.sweep, .secondScan, .decisionPoint, .postmasterRestart], exec cmd s = .next s := by
  intro cmd hcmd
  simp only [List.mem_cons, List.not_mem_nil, or_false] at hcmd
  rcases hcmd with rfl | rfl | rfl | rfl <;> dsimp only [exec]
  · exact congrArg Host.Outcome.next (if_neg (by simp [h]))
  · exact congrArg Host.Outcome.next (if_neg (by simp [h]))
  · exact congrArg Host.Outcome.next (if_neg (by simp [State.mayDecide, h]))
  · exact if_neg (by simp [h])

/-! ### The restart -/

/-- The postmaster as it restarts, before its incident. -/
def State.restarting (s : State) : State :=
  { s.setPm Reg.PM_STATUS_STATE 3 with pm := incF Reg.PM_STATUS_RESTARTS 1 (s.setPm Reg.PM_STATUS_STATE 3).pm }.updPost
    fun p => { p with restartAt := s.now }

theorem postmasterRestart_inService (h : s.inService = true) :
    execPostmasterRestart s = .next (s.restarting.raise { kind := 0x7F }) := if_pos h

/-- R318, R319: the restart stops service and leaves the data plane and the letters accepted. -/
theorem restarting_state (s : State) : getF Reg.PM_STATUS_STATE s.restarting.pm = 3 := by
  unfold State.restarting
  rw [State.updPost_pm]
  dsimp only
  unfold incF
  rw [getF_setF_other _ _ _ _ (by decide) (by decide), State.setPm]
  exact getF_setF_same _ _ _ (by decide)

theorem setPm_state (s : State) {v : Nat} (hv : v < 2 ^ Reg.PM_STATUS_STATE.w) :
    getF Reg.PM_STATUS_STATE (s.setPm Reg.PM_STATUS_STATE v).pm = v := by
  rw [State.setPm]
  exact (getF_setF_same _ _ _ (by decide)).trans (Nat.mod_eq_of_lt hv)

theorem inService_of_state {t : State} {v : Nat} (h : getF Reg.PM_STATUS_STATE t.pm = v) : t.inService = decide (v = 2) := by
  rw [State.inService, h]

/-- The data plane and the letters accepted are the same. -/
structure SamePlane (s t : State) : Prop where
  cores : t.cores = s.cores
  pavs : t.pavs = s.pavs
  oras : t.oras = s.oras
  slow : t.slow = s.slow
  gardens : t.gardens = s.gardens
  accepted : t.post.accepted = s.post.accepted

theorem SamePlane.trans {s t u : State} (h : SamePlane s t) (k : SamePlane t u) : SamePlane s u :=
  ⟨k.cores.trans h.cores, k.pavs.trans h.pavs, k.oras.trans h.oras, k.slow.trans h.slow, k.gardens.trans h.gardens,
    k.accepted.trans h.accepted⟩

theorem samePlane_of_besideLog {s t : State} (h : t.besideLog = s.besideLog) : SamePlane s t where
  cores := (congrArg State.cores h :)
  pavs := (congrArg State.pavs h :)
  oras := (congrArg State.oras h :)
  slow := (congrArg State.slow h :)
  gardens := (congrArg State.gardens h :)
  accepted := (congrArg (fun u : State => u.post.accepted) h :)

theorem raise_samePlane (s : State) (i : Incident) : SamePlane s (s.raise i) := samePlane_of_besideLog (raise_besideLog s i)

theorem raise_pm (s : State) (i : Incident) : (s.raise i).pm = s.pm := (congrArg State.pm (raise_besideLog s i) :)

theorem restarting_samePlane (s : State) : SamePlane s s.restarting := ⟨rfl, rfl, rfl, rfl, rfl, rfl⟩

theorem restart_keepsDataPlane (s : State) (i : Incident) :
    let t := s.restarting.raise i
    t.inService = false ∧ getF Reg.PM_STATUS_STATE t.pm = 3 ∧ t.cores = s.cores ∧ t.pavs = s.pavs ∧ t.oras = s.oras ∧ t.slow = s.slow ∧
      t.gardens = s.gardens ∧ t.post.accepted = s.post.accepted := by
  intro t
  have hstate : getF Reg.PM_STATUS_STATE t.pm = 3 := by
    dsimp only [t]
    rw [raise_pm]
    exact restarting_state s
  have hplane : SamePlane s t := (restarting_samePlane s).trans (raise_samePlane _ i)
  exact ⟨inService_of_state hstate, hstate, hplane.cores, hplane.pavs, hplane.oras, hplane.slow, hplane.gardens, hplane.accepted⟩

theorem restartResume_verified (h3 : getF Reg.PM_STATUS_STATE s.pm = 3) (hhash : (s.slotFw s.frank.lockSlot).hash = s.frank.lockHash)
    (hlost : s.ice.slotLost.contains s.frank.lockSlot = false) :
    execRestartResume s = .next ((s.discardOpen.killLetters.endPause).setPm Reg.PM_STATUS_STATE 2) := by
  unfold execRestartResume
  rw [if_neg (not_not.mpr h3), if_neg (by rw [hlost]; simp [hhash])]

theorem restartResume_changed (h3 : getF Reg.PM_STATUS_STATE s.pm = 3)
    (h : (s.slotFw s.frank.lockSlot).hash ≠ s.frank.lockHash ∨ s.ice.slotLost.contains s.frank.lockSlot = true) :
    execRestartResume s = .next ((s.setPm Reg.PM_STATUS_STATE 4).raise { kind := 0x7F, action := 9 }) := by
  unfold execRestartResume
  rw [if_neg (not_not.mpr h3), if_pos (by rw [Bool.or_eq_true, decide_eq_true_eq]; exact h)]

theorem resumed_kept (s : State) : ((s.discardOpen.killLetters.endPause).setPm Reg.PM_STATUS_STATE 2).kept = s.kept := by
  rw [State.setPm_kept, State.endPause_kept, State.killLetters_kept, State.discardOpen_kept]

/-- R319: service resumes where the slot verifies as at the lock, and else the module refuses to serve. -/
theorem restartResume_completes (h3 : getF Reg.PM_STATUS_STATE s.pm = 3) :
    ((s.slotFw s.frank.lockSlot).hash = s.frank.lockHash → s.ice.slotLost.contains s.frank.lockSlot = false →
      Completes (execRestartResume s) fun t => t.inService = true ∧ t.slow = s.slow ∧ t.pending = s.pending) ∧
    ((s.slotFw s.frank.lockSlot).hash ≠ s.frank.lockHash ∨ s.ice.slotLost.contains s.frank.lockSlot = true →
      Completes (execRestartResume s) fun t => getF Reg.PM_STATUS_STATE t.pm = 4 ∧ t.slow = s.slow) := by
  refine ⟨fun hhash hlost => ⟨_, restartResume_verified h3 hhash hlost, ?_, congrArg Prod.fst (resumed_kept s),
    congrArg Prod.snd (resumed_kept s)⟩, fun h => ⟨_, restartResume_changed h3 h, ?_⟩⟩
  · exact inService_of_state (setPm_state _ (by decide))
  · dsimp only
    rw [raise_pm]
    exact ⟨setPm_state s (by decide), (raise_samePlane _ _).slow⟩

end

/-- Settles O32: the guards of the loop's parts, and what the restart and its end leave. -/
theorem roundsAndRestart : Obligations.RoundsAndRestart := by
  intro s
  refine ⟨once_of_guard rfl, once_of_guard rfl, once_of_guard (decisionPoint_guard s), loop_outOfService, fun hin => ?_,
    restartResume_completes⟩
  exact ⟨_, postmasterRestart_inService hin, restart_keepsDataPlane s _⟩

end Sys2Proof.Machine

/-! ## How letters are answered and taken (R324-R327, R330-R334, R339) -/

namespace Sys2Proof.Machine

theorem OnlyBridge.chan {s t : State} (h : OnlyBridge s t) (n : Nat) : t.chan n = s.chan n := (congrArg (fun u : State => u.chan n) h :)

theorem OnlyMail.post {s t : State} (h : OnlyMail s t) : t.post = s.post := (congrArg State.post h :)

/-! ### A receipt into its channel's queue -/

/-- A dead letter is counted. -/
def Chan.countDead (r : Receipt) (c : Chan) : Chan := if r.status = 2 then c.incF Reg.PM_MBX_CNT_DEAD 1 else c

/-- A receipt in a slot, or behind the queue while the slots are full. -/
def Chan.queue (r : Receipt) (c : Chan) : Chan :=
  if c.outSlots.length < 8 ∧ c.heldOut = [] then { c with outSlots := c.outSlots ++ [r] } else { c with heldOut := c.heldOut ++ [r] }

section
variable {c : Chan} (r : Receipt)

@[simp] theorem Chan.countDead_outSlots (c : Chan) : (c.countDead r).outSlots = c.outSlots := by unfold Chan.countDead; split <;> rfl
@[simp] theorem Chan.countDead_heldOut (c : Chan) : (c.countDead r).heldOut = c.heldOut := by unfold Chan.countDead; split <;> rfl
@[simp] theorem Chan.countDead_recent (c : Chan) : (c.countDead r).recent = c.recent := by unfold Chan.countDead; split <;> rfl
@[simp] theorem Chan.queue_recent (c : Chan) : (c.queue r).recent = c.recent := by unfold Chan.queue; split <;> rfl

theorem Chan.queue_room (h : c.outSlots.length < 8) (hheld : c.heldOut = []) : (c.queue r).outSlots = c.outSlots ++ [r] := by
  rw [Chan.queue, if_pos ⟨h, hheld⟩]

theorem Chan.queue_full (h : 8 ≤ c.outSlots.length) : c.queue r = { c with heldOut := c.heldOut ++ [r] } :=
  if_neg fun hroom => absurd hroom.1 (Nat.not_lt.mpr h)

end

theorem updChan_id (s : State) (n d : Nat) : (s.updChan n fun c => c).chan d = s.chan d := by
  by_cases h : d = n
  · subst h; exact State.updChan_same s d _
  · exact State.updChan_other s n _ h

section
variable {s : State} {ch : Nat} (path : Path) (r : Receipt)

@[simp] theorem Chan.incF_outSlots (c : Chan) (f : Fld) (n : Nat) : (c.incF f n).outSlots = c.outSlots := rfl
@[simp] theorem Chan.incF_heldOut (c : Chan) (f : Fld) (n : Nat) : (c.incF f n).heldOut = c.heldOut := rfl

/-- A channel but the public session's holds the receipt it is given. -/
theorem enqueue_chan (hch : ch ≠ 0) : (s.enqueue ch path r).chan ch = ((s.chan ch).countDead r).queue r := by
  unfold State.enqueue
  extract_lets u
  have hu : u.chan ch = (s.chan ch).countDead r := by
    dsimp only [u, Chan.countDead]
    split
    · exact State.updChan_same s ch _
    · rfl
  clear_value u
  rw [if_neg hch, hu.symm, Chan.queue]
  split
  · exact ((queueContent_only _ _ _).chan ch).trans (State.updChan_same u ch _)
  · exact State.updChan_same u ch _

theorem enqueue_post (s : State) (ch : Nat) : (s.enqueue ch path r).post = s.post := (enqueue_only s ch path r).post

end

/-- A channel remembers the receipt of a letter for repeats of it. -/
def Chan.remember (seq : Nat) (r : Receipt) (c : Chan) : Chan :=
  { c with recent := c.recent.map fun e => if e.1 = seq then (e.1, some r) else e }

section
variable {s : State} {a : Accepted}

theorem place_chan (hch : 0 < a.channel) (hmute : a.mute = false) (r : Receipt) :
    (s.place a r).chan a.channel = ((((s.chan a.channel).remember a.letter.sequence r).countDead r).queue r) := by
  unfold State.place
  rw [if_neg (by rw [hmute]; exact Bool.false_ne_true)]
  dsimp only
  rw [enqueue_chan _ _ (Nat.ne_of_gt hch), State.updChan_same]
  rfl

theorem place_post (s : State) (a : Accepted) (r : Receipt) : (s.place a r).post = s.post := (place_only s a r).post

/-- How a letter's receipt stands once it is answered. -/
structure Given (s : State) (a : Accepted) (t : State) (x : Receipt) : Prop where
  accepted : t.post.accepted = s.post.accepted.erase a
  inSlot : (s.chan a.channel).outSlots.length < 8 → (s.chan a.channel).heldOut = [] →
    (t.chan a.channel).outSlots = (s.chan a.channel).outSlots ++ [x]
  behind : 8 ≤ (s.chan a.channel).outSlots.length →
    (t.chan a.channel).outSlots = (s.chan a.channel).outSlots ∧ (t.chan a.channel).heldOut = (s.chan a.channel).heldOut ++ [x]
  kept : (t.chan a.channel).recent = (s.chan a.channel).recent.map fun e => if e.1 = a.letter.sequence then (e.1, some x) else e

theorem place_given (hch : 0 < a.channel) (hmute : a.mute = false) (x : Receipt) : Given s a ((s.drop a).place a x) x := by
  have hchan := place_chan (s := s.drop a) hch hmute x
  refine ⟨congrArg Post.accepted (place_post (s.drop a) a x), fun hroom hheld => ?_, fun hfull => ?_, ?_⟩ <;> rw [hchan]
  · rw [Chan.queue_room x (by rw [Chan.countDead_outSlots]; exact hroom) (by rw [Chan.countDead_heldOut]; exact hheld),
      Chan.countDead_outSlots]
    rfl
  · rw [Chan.queue_full x (by rw [Chan.countDead_outSlots]; exact hfull), Chan.countDead_outSlots, Chan.countDead_heldOut]
    exact ⟨rfl, rfl⟩
  · rw [Chan.queue_recent, Chan.countDead_recent]
    rfl

end

/-- Settles O33: a receipt is placed in its channel's queue or behind it, whatever it says. -/
theorem lettersAreAnsweredOnTheirChannel : Obligations.LettersAreAnsweredOnTheirChannel := by
  intro s a body reason hch hmute
  have hgiven (x : Receipt) := place_given (s := s) hch hmute x
  refine ⟨?_, ?_, ?_, fun status why bs => ⟨rfl, rfl, rfl, rfl, rfl, rfl, rfl, rfl⟩, fun j => ⟨rfl, _, rfl, rfl, rfl⟩⟩
  · obtain ⟨hacc, hslot, hbehind, hkept⟩ := hgiven (a.receipt 0 0 body 0 [])
    exact ⟨hacc, fun hroom hheld _ => hslot hroom hheld, hbehind, hkept⟩
  · obtain ⟨hacc, hslot, hbehind, hkept⟩ := hgiven (a.receipt 1 reason body 0 [])
    exact ⟨hacc, fun hroom hheld _ => hslot hroom hheld, hbehind, hkept⟩
  · obtain ⟨hacc, hslot, hbehind, hkept⟩ := hgiven (a.receipt 2 reason ({} : Detail).bytes 0 [])
    exact ⟨hacc, fun hroom hheld _ => hslot hroom hheld, hbehind, hkept⟩

/-! ### A letter taken from its slot -/

section
variable {s : State} {ch : Nat} {x : Slotted}

/-- The letter as it is accepted. -/
def State.taken (s : State) (ch : Nat) (x : Slotted) : Accepted := { channel := ch, letter := x.letter, round := s.round, path := x.path }

/-- A letter taken from its slot has been counted. -/
def State.counted (s : State) (ch : Nat) : State := s.updChan ch fun c => c.incF Reg.PM_MBX_CNT_ACCEPTED 1

theorem counted_chan (s : State) (ch : Nat) : (s.counted ch).chan ch = (s.chan ch).incF Reg.PM_MBX_CNT_ACCEPTED 1 := State.updChan_same s ch _

theorem counted_seqCheck (s : State) (ch seq : Nat) : ((s.counted ch).chan ch).seqCheck seq = (s.chan ch).seqCheck seq := by
  rw [counted_chan]
  rfl

/-- The next SEQUENCE of a channel, or any where it has had none, is new. -/
theorem Chan.seqCheck_fresh {c : Chan} {seq : Nat} (h : ∀ n, c.lastSeq = some n → seq = (n + 1) % 2 ^ 32) : c.seqCheck seq = .fresh := by
  unfold Chan.seqCheck
  split
  · rfl
  next n hn => exact if_pos (h n hn)

theorem Chan.seqCheck_bad {c : Chan} {seq n : Nat} (hn : c.lastSeq = some n) (hseq : seq ≠ (n + 1) % 2 ^ 32) (hrecent : ∀ e ∈ c.recent, e.1 ≠ seq) :
    c.seqCheck seq = .bad := by
  unfold Chan.seqCheck
  rw [hn]
  dsimp only
  rw [if_neg hseq, if_neg]
  simpa only [List.any_eq_true, decide_eq_true_eq, not_exists, not_and] using hrecent

theorem Chan.seqCheck_again {c : Chan} {seq n : Nat} {e : Nat × Option Receipt} (hn : c.lastSeq = some n) (hseq : seq ≠ (n + 1) % 2 ^ 32)
    (hrecent : c.recent.find? (fun e => e.1 = seq) = some e) : c.seqCheck seq = .again := by
  unfold Chan.seqCheck
  rw [hn]
  dsimp only
  rw [if_neg hseq, if_pos]
  have he := List.find?_some hrecent
  exact List.any_eq_true.mpr ⟨e, List.mem_of_find?_eq_some hrecent, he⟩

theorem accept_badHead {why : Nat} (h : x.headOk = some why) :
    s.accept ch x = (s.counted ch).enqueue ch x.path ((s.taken ch x).receipt 2 why ({} : Detail).bytes 0 []) := by
  unfold State.accept
  dsimp only
  rw [h]
  rfl

theorem accept_bad (h : x.headOk = none) (hch : ch ≠ 0) (hseq : (s.chan ch).seqCheck x.letter.sequence = .bad) :
    s.accept ch x = (s.counted ch).enqueue ch x.path ((s.taken ch x).receipt 2 dSequence ({} : Detail).bytes 0 []) := by
  rw [← counted_seqCheck, State.counted] at hseq
  unfold State.accept
  dsimp only
  rw [h]
  dsimp only
  rw [if_neg hch, hseq]
  rfl

theorem accept_again (h : x.headOk = none) (hch : ch ≠ 0) (hseq : (s.chan ch).seqCheck x.letter.sequence = .again) :
    s.accept ch x = (s.counted ch).acceptAgain ch x := by
  rw [← counted_seqCheck, State.counted] at hseq
  unfold State.accept
  dsimp only
  rw [h]
  dsimp only
  rw [if_neg hch, hseq]
  rfl

theorem accept_fresh (h : x.headOk = none) (hch : ch ≠ 0) (hseq : (s.chan ch).seqCheck x.letter.sequence = .fresh) :
    s.accept ch x = (s.counted ch).acceptNew ch (s.taken ch x) := by
  rw [← counted_seqCheck, State.counted] at hseq
  unfold State.accept
  dsimp only
  rw [h]
  dsimp only
  rw [if_neg hch, hseq]
  rfl

/-- A channel has consumed the SEQUENCE of a letter. -/
def State.sequenced (s : State) (ch seq : Nat) : State :=
  s.updChan ch fun c => { c with lastSeq := some seq, recent := ((seq, none) :: c.recent).take 16 }

theorem acceptNew_refused {a : Accepted} {why : Nat} (hch : ch ≠ 0)
    (h : (s.sequenced ch a.letter.sequence).catalogueCheck ch a.letter = some why) :
    s.acceptNew ch a = (s.sequenced ch a.letter.sequence).place a (a.receipt 2 why ({} : Detail).bytes 0 []) := by
  rw [State.sequenced] at h
  unfold State.acceptNew
  dsimp only
  rw [if_neg hch, h]
  rfl

/-- What the catalogue says of a letter depends on the channel's role and session alone. -/
theorem catalogueCheck_updChan (s : State) (ch : Nat) (l : Letter) {f : Chan → Chan} (hrole : (f (s.chan ch)).role = (s.chan ch).role)
    (hsession : (f (s.chan ch)).session = (s.chan ch).session) : (s.updChan ch f).catalogueCheck ch l = s.catalogueCheck ch l := by
  have hr : (s.updChan ch f).roleOf ch = s.roleOf ch := by
    unfold State.roleOf
    rw [State.updChan_same, hrole]
  have hb : (s.updChan ch f).boundGardens ch = s.boundGardens ch := by
    unfold State.boundGardens
    rw [State.updChan_same, hsession]
    rfl
  unfold State.catalogueCheck
  rw [hr, hb]

theorem catalogueCheck_sequenced (s : State) (ch seq : Nat) (l : Letter) :
    ((s.counted ch).sequenced ch seq).catalogueCheck ch l = s.catalogueCheck ch l :=
  (catalogueCheck_updChan _ ch l rfl rfl).trans (catalogueCheck_updChan s ch l rfl rfl)

/-- A letter answered dead as it is taken, its SEQUENCE the letter's own. -/
def TakenDead (s : State) (ch : Nat) (l : Letter) (t : State) (reason : Nat) : Prop :=
  ∃ r, (t.chan ch).outSlots = (s.chan ch).outSlots ++ [r] ∧ r.status = 2 ∧ r.reason = reason ∧ r.sequence = l.sequence ∧
    t.post.accepted = s.post.accepted

/-- The channel has room for a receipt. -/
def HasRoom (c : Chan) : Prop := c.outSlots.length < 8 ∧ c.heldOut = []

theorem enqueue_room {u : State} {c : Chan} (hch : ch ≠ 0) (hroom : HasRoom c) (hslots : (u.chan ch).outSlots = c.outSlots)
    (hheld : (u.chan ch).heldOut = c.heldOut) (path : Path) (r : Receipt) :
    ((u.enqueue ch path r).chan ch).outSlots = c.outSlots ++ [r] := by
  rw [enqueue_chan _ _ hch, Chan.queue_room, Chan.countDead_outSlots, hslots]
  · rw [Chan.countDead_outSlots, hslots]; exact hroom.1
  · rw [Chan.countDead_heldOut, hheld]; exact hroom.2

theorem counted_enqueue_dead (hch : ch ≠ 0) (hroom : HasRoom (s.chan ch)) (why : Nat) :
    TakenDead s ch x.letter ((s.counted ch).enqueue ch x.path ((s.taken ch x).receipt 2 why ({} : Detail).bytes 0 [])) why := by
  refine ⟨_, enqueue_room hch hroom ?_ ?_ _ _, rfl, rfl, rfl, congrArg Post.accepted (enqueue_post _ _ _ _)⟩ <;> rw [counted_chan] <;> rfl

theorem headOk_version (h : x.letter.version ≠ 1) : x.headOk = some dVersion := if_pos (by simp [h])

theorem accept_refused {why : Nat} (hhead : x.headOk = none) (hch : ch ≠ 0) (hroom : HasRoom (s.chan ch))
    (hfresh : ∀ n, (s.chan ch).lastSeq = some n → x.letter.sequence = (n + 1) % 2 ^ 32) (hcat : s.catalogueCheck ch x.letter = some why) :
    TakenDead s ch x.letter (s.accept ch x) why := by
  rw [accept_fresh hhead hch (Chan.seqCheck_fresh hfresh), acceptNew_refused hch ((catalogueCheck_sequenced s ch _ _).trans hcat)]
  refine ⟨(s.taken ch x).receipt 2 why ({} : Detail).bytes 0 [], ?_, rfl, rfl, rfl, congrArg Post.accepted (place_post _ _ _)⟩
  have hchan := place_chan (s := (s.counted ch).sequenced ch x.letter.sequence) (a := s.taken ch x) (Nat.pos_of_ne_zero hch) rfl
    ((s.taken ch x).receipt 2 why ({} : Detail).bytes 0 [])
  have hbefore : ((s.counted ch).sequenced ch x.letter.sequence).chan ch =
      { (s.chan ch).incF Reg.PM_MBX_CNT_ACCEPTED 1 with
        lastSeq := some x.letter.sequence, recent := ((x.letter.sequence, none) :: (s.chan ch).recent).take 16 } := by
    rw [State.sequenced, State.updChan_same, counted_chan]
    rfl
  refine (congrArg Chan.outSlots hchan).trans ?_
  change (Chan.queue _ (Chan.countDead _ (Chan.remember _ _ (((s.counted ch).sequenced ch x.letter.sequence).chan ch)))).outSlots = _
  rw [hbefore, Chan.queue_room, Chan.countDead_outSlots]
  · rfl
  · rw [Chan.countDead_outSlots]; exact hroom.1
  · rw [Chan.countDead_heldOut]; exact hroom.2

theorem marked_letter (s : State) (before : List Accepted) (a : Accepted) : (s.marked before a).letter = a.letter := by
  unfold State.marked
  split
  · rfl
  · split <;> rfl

theorem marked_channel (s : State) (before : List Accepted) (a : Accepted) : (s.marked before a).channel = a.channel := by
  unfold State.marked
  split
  · rfl
  · split <;> rfl

/-- A letter that passes the catalogue's checks waits to act. -/
theorem acceptNew_waits {a : Accepted} (hch : ch ≠ 0) (h : (s.sequenced ch a.letter.sequence).catalogueCheck ch a.letter = none) :
    ∃ b, (s.acceptNew ch a).post.accepted = s.post.accepted ++ [b] ∧ b.letter = a.letter ∧ b.channel = a.channel ∧
      (s.acceptNew ch a).chans = (s.sequenced ch a.letter.sequence).chans := by
  rw [State.sequenced] at h
  unfold State.acceptNew
  dsimp only
  rw [if_neg hch, h]
  dsimp only
  refine ⟨(s.sequenced ch a.letter.sequence).marked s.post.accepted a, ?_, marked_letter _ _ a, marked_channel _ _ a, ?_⟩ <;> split <;> rfl

theorem sequenced_chan (s : State) (ch seq : Nat) : (s.sequenced ch seq).chan ch =
    { s.chan ch with lastSeq := some seq, recent := ((seq, none) :: (s.chan ch).recent).take 16 } := State.updChan_same s ch _

theorem accept_waits (hhead : x.headOk = none) (hch : ch ≠ 0)
    (hfresh : ∀ n, (s.chan ch).lastSeq = some n → x.letter.sequence = (n + 1) % 2 ^ 32) (hcat : s.catalogueCheck ch x.letter = none) :
    ∃ a, (s.accept ch x).post.accepted = s.post.accepted ++ [a] ∧ a.letter = x.letter ∧ a.channel = ch ∧
      ((s.accept ch x).chan ch).lastSeq = some x.letter.sequence ∧ ((s.accept ch x).chan ch).outSlots = (s.chan ch).outSlots := by
  rw [accept_fresh hhead hch (Chan.seqCheck_fresh hfresh)]
  obtain ⟨b, hacc, hletter, hchannel, hchans⟩ :=
    acceptNew_waits (s := s.counted ch) (a := s.taken ch x) hch ((catalogueCheck_sequenced s ch _ _).trans hcat)
  have hchan : ((s.counted ch).acceptNew ch (s.taken ch x)).chan ch = ((s.counted ch).sequenced ch x.letter.sequence).chan ch :=
    congrArg (Fm.get _ ch) hchans
  refine ⟨b, hacc, hletter, hchannel, ?_⟩
  rw [hchan, sequenced_chan, counted_chan]
  exact ⟨rfl, rfl⟩

/-- A repeat of a letter that has its receipt is answered with it, marked. -/
theorem acceptAgain_receipt {e : Nat × Option Receipt} {r : Receipt} (hfind : (s.chan ch).recent.find? (fun e => e.1 = x.letter.sequence) = some e)
    (he : e.2 = some r) :
    s.acceptAgain ch x = (s.updChan ch fun c => c.incF Reg.PM_MBX_CNT_REPEAT 1).enqueue ch x.path { r with flags := r.flags ||| 16 } := by
  unfold State.acceptAgain
  dsimp only
  rw [hfind, Option.bind_some, he]

theorem accept_repeat {r : Receipt} {n : Nat} (hhead : x.headOk = none) (hch : ch ≠ 0) (hroom : HasRoom (s.chan ch))
    (hn : (s.chan ch).lastSeq = some n) (hseq : x.letter.sequence ≠ (n + 1) % 2 ^ 32)
    (hfind : (s.chan ch).recent.find? (fun e => e.1 = x.letter.sequence) = some (x.letter.sequence, some r)) :
    ((s.accept ch x).chan ch).outSlots = (s.chan ch).outSlots ++ [{ r with flags := r.flags ||| 16 }] ∧
      (s.accept ch x).post.accepted = s.post.accepted := by
  have hfound : ((s.counted ch).chan ch).recent.find? (fun e => e.1 = x.letter.sequence) = some (x.letter.sequence, some r) := by
    rw [counted_chan]
    exact hfind
  rw [accept_again hhead hch (Chan.seqCheck_again hn hseq hfind), acceptAgain_receipt hfound rfl]
  refine ⟨enqueue_room hch hroom ?_ ?_ _ _, congrArg Post.accepted ((enqueue_post _ _ _ _).trans (State.updChan_post _ _ _))⟩ <;>
    rw [State.updChan_same, counted_chan]
  · rw [Chan.incF_outSlots, Chan.incF_outSlots]
  · rw [Chan.incF_heldOut, Chan.incF_heldOut]

/-! ### The catalogue's checks in order -/

theorem catalogueCheck_code {l : Letter} (h : letterRoles l.code = 0) : s.catalogueCheck ch l = some dCode := if_pos h

theorem catalogueCheck_role {l : Letter} (h : letterRoles l.code ≠ 0) (hrole : letterRoles l.code &&& s.roleOf ch = 0) :
    s.catalogueCheck ch l = some dRole := (if_neg h).trans (if_pos hrole)

theorem catalogueCheck_garden {l : Letter} (hrole : letterRoles l.code &&& s.roleOf ch ≠ 0) (hneeds : needsGarden l.code = true)
    (hg : 4 ≤ l.garden) : s.catalogueCheck ch l = some dGarden := by
  have hcode : letterRoles l.code ≠ 0 := fun h => hrole (by rw [h]; exact Nat.zero_and _)
  unfold State.catalogueCheck
  dsimp only
  rw [if_neg hcode, if_neg hrole, if_pos hneeds, if_pos (by simp [hg])]

end

/-- Settles O34: the checks in the order they are made, each by its own lemma. -/
theorem lettersAreCheckedAsTheyAreTaken : Obligations.LettersAreCheckedAsTheyAreTaken := by
  intro s ch x hpos _
  have hch : ch ≠ 0 := Nat.ne_of_gt hpos
  refine ⟨fun hslots hheld _ => ?_, fun hhead hfresh hcat => accept_waits hhead hch hfresh hcat,
    fun r hhead hslots hheld _ ⟨n, hn, hseq⟩ hfind => accept_repeat hhead hch ⟨hslots, hheld⟩ hn hseq hfind⟩
  have hroom : HasRoom (s.chan ch) := ⟨hslots, hheld⟩
  refine ⟨fun hver => ?_, fun hhead ⟨n, hn, hseq⟩ hrecent => ?_,
    fun hhead hfresh hcode => accept_refused hhead hch hroom hfresh (catalogueCheck_code hcode),
    fun hhead hfresh hcode hrole => accept_refused hhead hch hroom hfresh (catalogueCheck_role hcode hrole),
    fun hhead hfresh hrole hneeds hg => accept_refused hhead hch hroom hfresh (catalogueCheck_garden hrole hneeds hg)⟩
  · rw [accept_badHead (headOk_version hver)]
    exact counted_enqueue_dead hch hroom _
  · rw [accept_bad hhead hch (Chan.seqCheck_bad hn hseq hrecent)]
    exact counted_enqueue_dead hch hroom _

end Sys2Proof.Machine

/-! ## Letters of sessions and mailboxes (R322, R338-R341, R366-R371, R374) -/

namespace Sys2Proof.Machine

theorem letterTurn_iff {s : State} {code ch : Nat} {a : Accepted} : letterTurn s code ch a = true ↔ ch < 64 ∧ s.inService = true ∧ s.owed a = none ∧
    s.post.accepted.find? (fun b => b.letter.code = code && b.channel = ch && !s.blocked b && s.inTurn b) = some a := by
  simp only [letterTurn, Bool.and_eq_true, decide_eq_true_eq, and_assoc, Option.isNone_iff_eq_none]

/-- R326: the letter whose turn has come acts. -/
theorem onLetter_turn {s : State} {code ch : Nat} {a : Accepted} (h : letterTurn s code ch a = true) (f : Accepted → State → State) :
    onLetter code ch s f = .next (f a s) := by
  obtain ⟨hch, hserves, howed, hfind⟩ := letterTurn_iff.mp h
  refine (if_pos hch).trans (congrArg Host.Outcome.next ?_)
  dsimp only
  rw [if_neg (by rw [hserves]; decide), hfind]
  dsimp only
  rw [howed]

/-- The letter is of the code and the channel its command names. -/
theorem letterTurn_names {s : State} {code ch : Nat} {a : Accepted} (h : letterTurn s code ch a = true) :
    a.letter.code = code ∧ a.channel = ch := by
  obtain ⟨-, -, -, hfind⟩ := letterTurn_iff.mp h
  have hnames := List.find?_some hfind
  simp only [Bool.and_eq_true, decide_eq_true_eq, and_assoc] at hnames
  exact ⟨hnames.1, hnames.2.1⟩

section
variable {s : State} {ch : Nat} {a : Accepted}

theorem rekey_acts {x : Session} (h : letterTurn s 0x04 ch a = true) (hx : s.session (s.sessionOf a) = some x)
    (hphase : a.letter.field 0 1 = 1 - x.phase) (hrest : a.letter.field 1 7 = 0) :
    execRekey ch s = .next ((s.putSession (s.sessionOf a) { x with
      phase := 1 - x.phase, oldUntil := some (s.now + 131072), txKey := 0, rxKey := 0,
      keys := x.keys.next, oldKeys := some x.keys }).reply a (leBytes 1 (1 - x.phase))) := by
  refine (onLetter_turn h _).trans (congrArg Host.Outcome.next ?_)
  rw [hx]
  dsimp only
  rw [if_neg (not_not.mpr hphase), if_neg (not_not.mpr hrest), hphase]

theorem sessionBind_acts {x : Session} (h : letterTurn s 0x06 ch a = true) (hx : s.session (a.letter.field 0 4) = some x)
    (hrole : x.role = roleT) (hg : a.letter.field 4 1 < 16) (hrest : a.letter.field 5 3 = 0) :
    execSessionBind ch s = .next ((s.putSession (a.letter.field 0 4)
      { x with gardens := a.letter.field 4 1, bound := x.bound || a.letter.field 4 1 ≠ 0 }).reply a []) := by
  refine (onLetter_turn h _).trans (congrArg Host.Outcome.next ?_)
  dsimp only
  rw [hx]
  dsimp only
  rw [if_neg (not_not.mpr hrole), if_neg (Nat.not_le.mpr hg), if_neg (not_not.mpr hrest)]

/-- A channel whose session does not change names the same session for its letters. -/
theorem sessionOf_updChan (s : State) (n : Nat) {f : Chan → Chan} (hf : ∀ c, (f c).session = c.session) (a : Accepted) :
    (s.updChan n f).sessionOf a = s.sessionOf a := by
  unfold State.sessionOf
  by_cases hn : a.channel = n
  · rw [hn, State.updChan_same, hf]
  · rw [State.updChan_other _ _ _ hn]

theorem mbxFlush_acts (h : letterTurn s 0x13 ch a = true) :
    execMbxFlush ch s = .next (((s.updChan ch fun c => { c with outSlots := [], heldOut := [], outPos := 0 }).updSession (s.sessionOf a) fun x =>
      { x with sendQ := x.sendQ.filter fun c => !c.isReceipt }).reply a
        (leBytes 1 (min ((s.chan ch).outSlots.length + (s.chan ch).heldOut.length) 255))) := by
  refine (onLetter_turn h _).trans (congrArg Host.Outcome.next ?_)
  dsimp only
  rw [sessionOf_updChan s ch (by intro c; rfl)]

theorem openSession_acts (h : letterTurn s 0x01 ch a = true) : execOpenSession ch s = .next (s.openSession a) := onLetter_turn h _

theorem closeSession_acts (h : letterTurn s 0x02 ch a = true) :
    execCloseSession ch s = .next ((s.reply a []).endSession (s.sessionOf a) 2) := onLetter_turn h _

theorem ping_acts (h : letterTurn s 0x03 ch a = true) :
    execPing ch s = .next (s.reply a (leBytes 8 (a.letter.field 0 8) ++ leBytes 8 s.now)) := onLetter_turn h _

/-- A SESSION_LIST record (R371). -/
def sessionRecord (e : Nat × Session) : List Byte :=
  leBytes 4 e.1 ++ leBytes 1 e.2.channel ++ leBytes 1 (if e.2.role = roleO then 1 else 2) ++ leBytes 1 e.2.gardens ++ leBytes 1 0

theorem sessionList_acts (h : letterTurn s 0x05 ch a = true) : execSessionList ch s =
    .next (s.reply a (leBytes 2 (s.bridge.sessions.take 505).length ++ (s.bridge.sessions.take 505).flatMap sessionRecord)) :=
  onLetter_turn h _

/-! ### A session is opened -/

theorem openSession_badExchange (hrole : a.letter.field 0 1 = 1 ∨ a.letter.field 0 1 = 2) (hrest : a.letter.field 1 7 = 0)
    (hbad : Config.exchangeOk a.letter.body = false) : s.openSession a = s.dead a dField { offset := 40 } := by
  unfold State.openSession
  dsimp only
  rw [if_neg (by omega), if_neg (not_not.mpr hrest), if_pos (by rw [hbad]; rfl)]

theorem randomBytes_frame (s : State) (n : Nat) : (s.randomBytes n).2 = { s with freeCtr := s.freeCtr + 1 } := rfl

/-- What the session that opens is, and the state as it is answered. -/
theorem openSession_opens {n : Nat} (hrole : a.letter.field 0 1 = 1 ∨ a.letter.field 0 1 = 2) (hrest : a.letter.field 1 7 = 0)
    (hok : Config.exchangeOk a.letter.body = true) (hunbound : a.letter.field 0 1 = 2 → s.unboundFrom a.path.ip = false)
    (hfree : s.freeChannel (a.letter.field 0 1 = 1) = some n) :
    ∃ (u : State) (x : Session) (f : Chan → Chan) (part : List Byte) (cs : List Content),
      s.openSession a = (((u.putSession s.post.nextSession x).updChan n f).reply a part).queueContent s.post.nextSession cs ∧
      u.post = { s.post with nextSession := s.post.nextSession + 1 } ∧ x.channel = n ∧
      x.role = (if a.letter.field 0 1 = 1 then roleO else roleT) ∧ x.ready = false := by
  unfold State.openSession
  dsimp only
  rw [if_neg (by omega), if_neg (not_not.mpr hrest), if_neg (by rw [hok]; decide), if_neg, hfree]
  · exact ⟨_, _, _, _, _, rfl, rfl, rfl, rfl, rfl⟩
  · simp only [Bool.and_eq_true, decide_eq_true_eq, not_and, Bool.not_eq_true]
    exact hunbound

theorem session_of_same {s t : State} {id : Nat} {x : Session} (h : SameSessions s t) (hx : s.session id = some x) :
    ∃ y, t.session id = some y ∧ y.still = x.still := by
  have hid := h id
  rw [hx, Option.map_some] at hid
  exact Option.map_eq_some_iff.mp hid

theorem openSession_session {n : Nat} (hrole : a.letter.field 0 1 = 1 ∨ a.letter.field 0 1 = 2) (hrest : a.letter.field 1 7 = 0)
    (hok : Config.exchangeOk a.letter.body = true) (hunbound : a.letter.field 0 1 = 2 → s.unboundFrom a.path.ip = false)
    (hfree : s.freeChannel (a.letter.field 0 1 = 1) = some n) :
    ∃ x, (s.openSession a).session s.post.nextSession = some x ∧ x.channel = n ∧
      x.role = (if a.letter.field 0 1 = 1 then roleO else roleT) ∧ x.ready = false ∧
      (s.openSession a).post.nextSession = s.post.nextSession + 1 := by
  obtain ⟨u, x, f, part, cs, hopen, hpost, hchannel, hxrole, hready⟩ := openSession_opens hrole hrest hok hunbound hfree
  have hput : ((u.putSession s.post.nextSession x).updChan n f).session s.post.nextSession = some x :=
    (session_put u s.post.nextSession x s.post.nextSession).trans (if_pos rfl)
  have hsame := (reply_same ((u.putSession s.post.nextSession x).updChan n f) a part 0 []).trans (queueContent_same _ s.post.nextSession cs)
  obtain ⟨y, hy, hstill⟩ := session_of_same hsame hput
  rw [hopen]
  refine ⟨y, hy, (congrArg Session.channel hstill :).trans hchannel, (congrArg Session.role hstill :).trans hxrole,
    (congrArg Session.ready hstill :).trans hready, ?_⟩
  have hreply := (reply_answered ((u.putSession s.post.nextSession x).updChan n f) a part 0 []).post
  have hqueue := (queueContent_only (((u.putSession s.post.nextSession x).updChan n f).reply a part) s.post.nextSession cs).mail.post
  exact (congrArg Post.nextSession (hqueue.trans hreply)).trans (congrArg Post.nextSession hpost)

end

/-- Settles O35: each letter, once its turn has come, by the branch of its effect. -/
theorem sessionLettersAct : Obligations.SessionLettersAct := by
  intro s ch a
  refine ⟨fun h => openSession_acts h, fun h => closeSession_acts h, fun h => ping_acts h,
    fun x hx hphase hrest h => rekey_acts h hx hphase hrest, fun h => sessionList_acts h,
    fun x hx hrole hg hrest h => sessionBind_acts h hx hrole hg hrest, fun h => mbxFlush_acts h,
    fun hrole hrest hunbound n hfree h =>
      ⟨s.openSession a, openSession_acts h, fun hbad => openSession_badExchange hrole hrest hbad, fun hok => ?_⟩⟩
  exact openSession_session hrole hrest hok hunbound hfree

end Sys2Proof.Machine

/-! ## Letters of registers and parcels (R340, R341, R385, R392) -/

namespace Sys2Proof.Machine

section
variable {s : State} {ch : Nat} {a : Accepted}

/-- R338: the registers a letter reads, in order, each as the one before has left the state. -/
def State.peekAll (s : State) (ch : Nat) (xs : List Nat) : List Word × State :=
  xs.foldl (fun (r : List Word × State) x => (r.1 ++ [(r.2.peekReg ch x).1], (r.2.peekReg ch x).2)) ([], s)

theorem regRead_acts (h : letterTurn s 0x10 ch a = true) (haddr : a.letter.field 0 8 % 8 = 0) (hn : 1 ≤ a.letter.field 8 2)
    (hn' : a.letter.field 8 2 ≤ 32) :
    execRegRead ch s = .next ((s.peekAll ch (addrsOf a.letter)).2.reply a (wordsBytes (s.peekAll ch (addrsOf a.letter)).1)) := by
  refine (onLetter_turn h _).trans (congrArg Host.Outcome.next ?_)
  dsimp only
  rw [if_neg (not_not.mpr haddr), if_neg (by omega)]
  rfl

/-- What a REG_WRITE writes, in order. -/
def State.writeAll (s : State) (ch : Nat) (l : Letter) : State :=
  ((addrsOf l).zip ((List.range (l.field 8 2)).map fun i => BitVec.ofNat 64 (l.field (16 + 8 * i) 8))).foldl
    (fun s x => s.writeReg ch x.1 (permittedBits x.1 x.2)) s

theorem regWrite_acts (h : letterTurn s 0x11 ch a = true) (hn : 1 ≤ a.letter.field 8 2) (hn' : a.letter.field 8 2 ≤ 32)
    (hrest : a.letter.field 10 6 = 0) (hmay : ∀ x ∈ addrsOf a.letter, s.mayWrite ch x = true) :
    execRegWrite ch s = .next ((s.writeAll ch a.letter).reply a []) := by
  refine (onLetter_turn h _).trans (congrArg Host.Outcome.next ?_)
  dsimp only
  rw [if_neg, if_neg (by omega), if_neg (not_not.mpr hrest)]
  · rfl
  · simp only [List.any_eq_true, Bool.not_eq_true', not_exists, not_and, Bool.not_eq_false]
    exact hmay

theorem regWrite_refused (h : letterTurn s 0x11 ch a = true) (hnot : ∃ x ∈ addrsOf a.letter, s.mayWrite ch x = false) :
    execRegWrite ch s = .next (s.dead a dRole) := by
  refine (onLetter_turn h _).trans (congrArg Host.Outcome.next (if_pos ?_))
  simpa only [List.any_eq_true, Bool.not_eq_true'] using hnot

theorem mbxStatus_acts (h : letterTurn s 0x12 ch a = true) (hn : a.letter.field 0 1 < 64) : execMbxStatus ch s =
    .next (s.reply a (leBytes 8 (if s.mayPeek ch (a.letter.field 0 1) then (s.mbxStatus (a.letter.field 0 1)).toNat else 0))) :=
  (onLetter_turn h _).trans (congrArg Host.Outcome.next (if_neg (Nat.not_le.mpr hn)))

/-- The parcel a PARCEL_OPEN asks for (R385). -/
def State.parcelOf (s : State) (a : Accepted) : Parcel :=
  { session := s.sessionOf a, garden := a.letter.garden, dir := a.letter.field 0 1, addr := a.letter.field 8 8, len := a.letter.field 16 8 }

theorem parcelOpen_acts (h : letterTurn s 0x40 ch a = true) (hdir : a.letter.field 0 1 ≤ 1) (hrest : a.letter.field 1 7 = 0)
    (hstart : a.letter.field 8 8 % 8 = 0) (hlen : a.letter.field 16 8 % 8 = 0) (hlen8 : 8 ≤ a.letter.field 16 8)
    (hlast : a.letter.field 16 8 ≤ 1536 * 2 ^ 30) (hwin : (s.hostWindow a.letter.garden (a.letter.field 8 8) (a.letter.field 16 8)).isSome = true)
    (hown : (s.openParcels (s.sessionOf a)).1 < 16) (hall : (s.openParcels (s.sessionOf a)).2 < 256) :
    execParcelOpen ch s = .next ((s.addParcel (s.parcelOf a)).2.reply a (leBytes 4 s.post.nextParcel)) := by
  refine (onLetter_turn h _).trans (congrArg Host.Outcome.next ?_)
  have hwin' : ¬(s.hostWindow a.letter.garden (a.letter.field 8 8) (a.letter.field 16 8)).isNone = true := by
    rw [Option.isNone_iff_eq_none, ← Option.not_isSome_iff_eq_none, not_not]
    exact hwin
  dsimp only
  rw [if_neg (Nat.not_lt.mpr hdir), if_neg (not_not.mpr hrest), if_neg (not_not.mpr hstart), if_neg, if_neg hwin', if_neg]
  · rfl
  · exact fun hfull => hfull.elim (Nat.not_le.mpr hown) (Nat.not_le.mpr hall)
  · rintro (hbad | hshort | hlong)
    · exact hbad hlen
    · exact Nat.not_lt.mpr hlen8 hshort
    · exact Nat.not_lt.mpr hlast hlong

theorem parcelClose_acts {p : Parcel} (h : letterTurn s 0x41 ch a = true) (hp : s.parcel (a.letter.field 0 4) = some p) (hopen : p.isOpen = true)
    (hown : p.session = s.sessionOf a) (hgarden : p.staging = true ∨ p.garden = a.letter.garden) :
    execParcelClose ch s = .next ((s.closeParcels fun n _ => n = a.letter.field 0 4).reply a (leBytes 8 (rangeBytes p.moved))) := by
  refine (onLetter_turn h _).trans (congrArg Host.Outcome.next ?_)
  dsimp only
  rw [hp]
  refine if_neg ?_
  rcases hgarden with hstaging | hgarden
  · simp [hopen, hown, hstaging]
  · simp [hopen, hown, hgarden]

end

/-- Settles O36: each letter by its branch. -/
theorem registerAndParcelLettersAct : Obligations.RegisterAndParcelLettersAct := by
  intro s ch a
  exact ⟨fun haddr hn hn' h => regRead_acts h haddr hn hn', fun hn hn' hrest hmay h => regWrite_acts h hn hn' hrest hmay,
    fun _ _ _ hnot h => regWrite_refused h hnot, fun hn h => mbxStatus_acts h hn,
    fun hdir hrest hstart hlen hlen8 hlast hwin hown hall h => parcelOpen_acts h hdir hrest hstart hlen hlen8 hlast hwin hown hall,
    fun p hp hopen hown hgarden h => parcelClose_acts h hp hopen hown hgarden⟩

end Sys2Proof.Machine

/-! ## Letters of configuration, power, time and telemetry (R453, R488, R532-R534, R581, R617-R624) -/

namespace Sys2Proof.Machine

section
variable {s : State} {ch : Nat} {a : Accepted}

/-! ### The configuration -/

/-- What a CONFIG_STAGE's entries make of the staged copy, and their clamps (R529). -/
def State.entriesChecked (s : State) (l : Letter) : FMap Word × List Clamp :=
  checkEntries s.cfgStaged ((cfgEntries l).map fun (e : Nat × Nat × Nat × Nat) => (e.2.1, e.2.2.2))
    ((cfgEntries l).any fun (e : Nat × Nat × Nat × Nat) => e.2.1 = cfgCkptMin)

theorem configStage_acts (h : ∀ e ∈ cfgEntries a.letter, cfgFields.contains e.2.1 = true ∧ e.2.2.1 = 0) :
    s.configStage a = { s with cfgStaged := (s.entriesChecked a.letter).1 }.reply a [] 0 (s.entriesChecked a.letter).2 := by
  have hall : (cfgEntries a.letter).find? (fun e => !cfgFields.contains e.2.1 || e.2.2.1 ≠ 0) = none := by
    refine List.find?_eq_none.mpr fun e he => ?_
    obtain ⟨hfield, hrest⟩ := h e he
    rw [hfield, hrest]
    decide
  unfold State.configStage
  dsimp only
  rw [hall]
  rfl

/-- The copy of the configuration a CONFIG_READ names (R533). -/
def State.cfgCopy (s : State) (n : Nat) : FMap Word :=
  match n with
  | 0 => s.cfgActive
  | 1 => s.cfgStaged
  | _ => s.ice.config

/-- A CONFIG_READ's receipt over a copy. -/
def State.cfgShown (s : State) (a : Accepted) (m : FMap Word) : State :=
  s.reply a (((cfgFields.filter fun f => a.letter.field 2 2 ≤ f).take (min (a.letter.field 4 2) 253)).flatMap fun f =>
    leBytes 2 f ++ leBytes 6 0 ++ leBytes 8 (getCfg m f))

theorem configRead_shows (hcopy : a.letter.field 0 1 ≤ 2) (hn : 1 ≤ a.letter.field 4 2) (hn' : a.letter.field 4 2 ≤ 254) :
    s.configRead a = s.cfgShown a (s.cfgCopy (a.letter.field 0 1)) := by
  unfold State.configRead
  dsimp only
  rw [if_neg (Nat.not_lt.mpr hcopy), if_neg (by omega)]
  rfl

theorem configRead_acts (hn : 1 ≤ a.letter.field 4 2) (hn' : a.letter.field 4 2 ≤ 254) {n : Nat} (hcopy : a.letter.field 0 1 = n) (hle : n ≤ 2)
    {m : FMap Word} (hm : s.cfgCopy n = m) (h : letterTurn s 0x61 ch a = true) : execConfigRead ch s = .next (s.cfgShown a m) := by
  rw [← hm, ← hcopy, ← configRead_shows (by rw [hcopy]; exact hle) hn hn']
  exact onLetter_turn h _

/-- The fields that a CHIME_SET changes, as its job stages them. -/
def cfgChange (m active : FMap Word) : List (Nat × Word) :=
  ((cfgFields.map fun f => (f, getCfg m f)).filter fun e => !startField e.1 && e.2 ≠ getCfg active e.1).map fun e => (e.1, BitVec.ofNat 64 e.2)

theorem mem_cfgChange {m active : FMap Word} {f : Nat} (hf : f ∈ cfgFields) (hstart : startField f = false) (hne : getCfg m f ≠ getCfg active f) :
    (f, BitVec.ofNat 64 (getCfg m f)) ∈ cfgChange m active := by
  refine List.mem_map.mpr ⟨(f, getCfg m f), List.mem_filter.mpr ⟨List.mem_map.mpr ⟨f, hf, rfl⟩, ?_⟩, rfl⟩
  simp [hstart, hne]

theorem chimeSet_stages (s : State) (a : Accepted) : (s.chimeSet a).cfgActive = s.cfgActive ∧ (s.chimeSet a).cfgStaged = (tieRule s.cfgStaged).1 ∧
    ∃ j, (s.chimeSet a).post.jobs = s.post.jobs ++ [j] ∧ j.kind = .config ∧ j.named = a.letter.field 0 8 ∧
      j.changes = [.config (cfgChange (tieRule s.cfgStaged).1 s.cfgActive)] :=
  ⟨rfl, rfl, _, rfl, rfl, rfl, rfl⟩

/-! ### Power and time -/

theorem clampFrom_same (f rule v : Nat) : clampFrom f rule v v = [] := if_pos rfl

theorem toRange_within {f lo hi v : Nat} (h : lo ≤ v) (h' : v ≤ hi) : toRange f lo hi v = (v, []) := by
  have hv : max lo (min hi v) = v := by omega
  unfold toRange
  dsimp only
  rw [hv, clampFrom_same]

theorem powerCapSet_begins (s : State) (a : Accepted) : ∃ j, s.powerCapSet a = s.begin a j ∧ j.kind = .capSet := ⟨_, rfl, rfl⟩

/-- R488: a cap within its range and the converters' limit, with the windows as they are, is taken as asked. -/
theorem powerCapSet_asked (hlo : 5000 ≤ a.letter.field 0 4) (hhi : a.letter.field 0 4 ≤ 16000) (hlimit : a.letter.field 0 4 ≤ s.converterLimit)
    (hw1 : a.letter.field 4 4 = 0) (hw2 : a.letter.field 8 4 = 0) (hwin : getF Reg.PW_CAP_WIN1 s.pw ≤ getF Reg.PW_CAP_WIN2 s.pw) :
    s.powerCapSet a =
      s.begin a { kind := .capSet, changes := [.capWindows (a.letter.field 0 4) 0 0 (some false)], clamps := [] } := by
  have hcap : a.letter.field 0 4 ≠ 0 := by omega
  unfold State.powerCapSet
  dsimp only
  simp only [hcap, hw1, hw2, ↓reduceIte, toRange_within hlo hhi, Nat.min_eq_left hlimit, clampFrom_same, Nat.not_lt.mpr hwin,
    List.append_nil]

theorem powerCapSet_acts (s : State) (a : Accepted) : (s.powerCapSet a).pw = s.pw ∧
    ∃ j, (s.powerCapSet a).post.jobs = s.post.jobs ++ [j] ∧ j.kind = .capSet ∧
      (5000 ≤ a.letter.field 0 4 → a.letter.field 0 4 ≤ 16000 → a.letter.field 0 4 ≤ s.converterLimit →
        a.letter.field 4 4 = 0 → a.letter.field 8 4 = 0 → getF Reg.PW_CAP_WIN1 s.pw ≤ getF Reg.PW_CAP_WIN2 s.pw →
        j.changes = [.capWindows (a.letter.field 0 4) 0 0 (some false)] ∧ j.clamps = []) := by
  obtain ⟨j, hj, hkind⟩ := powerCapSet_begins s a
  have hjobs : (s.powerCapSet a).post.jobs = s.post.jobs ++ [{ j with letter := some { a with acting := true }, id := s.post.nextJob }] := by
    rw [hj, begin_post]
  refine ⟨by rw [hj]; rfl, _, hjobs, hkind, fun hlo hhi hlimit hw1 hw2 hwin => ?_⟩
  have hsame := congrArg (fun u : State => u.post.jobs) (powerCapSet_asked hlo hhi hlimit hw1 hw2 hwin)
  rw [hjobs, begin_post] at hsame
  have hjob := List.cons.inj (List.append_cancel_left hsame)
  exact ⟨(congrArg Job.changes hjob.1 :), (congrArg Job.clamps hjob.1 :)⟩

theorem dividerSet_acts (h : letterTurn s 0x64 ch a = true) (hheld : s.pavsOf a.letter.garden ≠ []) (hi : a.letter.field 0 1 ≤ 7) :
    execDividerSet ch s = .next (s.begin a
      { kind := .divider, garden := a.letter.garden, changes := [.divider a.letter.garden (s.pavsOf a.letter.garden) (a.letter.field 0 1)],
        arg := a.letter.field 0 1, clamps := [] }) := by
  refine (onLetter_turn h _).trans (congrArg Host.Outcome.next ?_)
  dsimp only
  rw [if_neg (by rwa [List.isEmpty_iff]), toRange_within (Nat.zero_le _) hi]

theorem timeSource_acts (h : letterTurn s 0x65 ch a = true) (hsrc : a.letter.field 0 1 ≤ 3) :
    execTimeSource ch s = .next (s.begin a { kind := .timeSource, changes := [.time (a.letter.field 0 1)], arg := a.letter.field 0 1 }) :=
  (onLetter_turn h _).trans (congrArg Host.Outcome.next (if_neg (Nat.not_lt.mpr hsrc)))

/-! ### Incidents, snapshots and sensors -/

theorem incidentRead_acts (h : letterTurn s 0x70 ch a = true) (hrole : s.roleOf ch ≠ roleT) :
    let rs := fitRecords 4040 (((s.ice.incidents.filter fun i => a.letter.field 0 8 ≤ i.number).map recordBytes).take (a.letter.field 8 2))
    execIncidentRead ch s = .next (s.reply a (leBytes 2 rs.length ++ leBytes 6 0 ++ rs.flatten)) := by
  intro rs
  refine (onLetter_turn h _).trans ?_
  simp only [decide_eq_true hrole, Bool.true_or, Bool.and_true, bodyRoom, rs]

theorem incidentAck_acts (h : letterTurn s 0x71 ch a = true) : Completes (execIncidentAck ch s) fun t => t.ice.incidents = s.ice.incidents ∧
    t.ice.acked = max (min (a.letter.field 0 8) (getF Reg.WD_INC_LAST_LAST s.wd)) (getF Reg.WD_INC_ACK_ACKED s.wd) := by
  refine ⟨_, onLetter_turn h _, ?_⟩
  dsimp only
  have hice {u : State} : (u.reply a []).ice = u.ice := (congrArg State.ice (reply_answered u a [] 0 []) :)
  rw [hice]
  exact ⟨rfl, rfl⟩

theorem snapshotRead_stale (h : letterTurn s 0x73 ch a = true) (hT : a.letter.field 0 8 ≠ getF Reg.SD_SNAP_T_T s.sd) :
    execSnapshotRead ch s = .next (s.dead a dState { offset := 0 }) :=
  (onLetter_turn h _).trans (congrArg Host.Outcome.next (if_pos hT))

theorem snapshotRead_acts {insts words : Nat} (h : letterTurn s 0x73 ch a = true) (hT : a.letter.field 0 8 = getF Reg.SD_SNAP_T_T s.sd)
    (hshape : snapShape (a.letter.field 8 2) = some (insts, words)) (hfirst : a.letter.field 10 2 < insts) (hcount : 1 ≤ a.letter.field 12 2) :
    let l := a.letter
    let n := min (min (l.field 12 2) (insts - l.field 10 2)) (4032 / (8 + 8 * words))
    execSnapshotRead ch s = .next ({ s with freeCtr := s.freeCtr + 27648 * 64 }.reply a (leBytes 8 (l.field 0 8) ++ leBytes 2 (l.field 8 2) ++
      leBytes 2 (l.field 10 2) ++ leBytes 2 n ++ leBytes 2 words ++
      (List.range n).flatMap fun i => s.snapRecord a (l.field 8 2) (l.field 10 2 + i) words)) := by
  intro l n
  refine (onLetter_turn h _).trans (congrArg Host.Outcome.next ?_)
  dsimp only
  rw [if_neg (not_not.mpr hT), hshape]
  dsimp only
  rw [if_neg (Nat.not_le.mpr hfirst), if_neg (by omega)]

theorem sensorRead_acts {insts : Nat} {rec_ : Nat → Nat} (h : letterTurn s 0x74 ch a = true)
    (hclass : s.sensorClass (a.letter.field 0 1) = some (insts, rec_)) :
    let first := a.letter.tag.toNat % 65536
    let n := min (insts - first) 505
    execSensorRead ch s = .next ({ s with freeCtr := s.freeCtr + 432 }.reply a (leBytes 1 (a.letter.field 0 1) ++ leBytes 1 0 ++ leBytes 2 first ++
      leBytes 2 n ++ leBytes 2 0 ++ (List.range n).flatMap fun i => leBytes 8 (rec_ (first + i)))) := by
  intro first n
  refine (onLetter_turn h _).trans (congrArg Host.Outcome.next ?_)
  dsimp only
  rw [hclass]
  rfl

theorem capacityRead_acts (h : letterTurn s 0x75 ch a = true) : execCapacityRead ch s =
    .next (s.reply a (leBytes 4 s.post.capE ++ leBytes 4 s.post.capReserve ++ leBytes 1 s.post.shorts ++ leBytes 7 0)) := onLetter_turn h _

theorem snapshotRequest_acts (h : letterTurn s 0x72 ch a = true) : execSnapshotRequest ch s =
    .next (s.begin a { kind := .snapshot, changes := [.snap], named := a.letter.field 0 8 }) := onLetter_turn h _

end

section
variable {s : State} {ch : Nat} {a : Accepted}

theorem configStage_turn (h : letterTurn s 0x60 ch a = true) : execConfigStage ch s = .next (s.configStage a) := onLetter_turn h _
theorem chimeSet_turn (h : letterTurn s 0x62 ch a = true) : execChimeSet ch s = .next (s.chimeSet a) := onLetter_turn h _
theorem powerCapSet_turn (h : letterTurn s 0x63 ch a = true) : execPowerCapSet ch s = .next (s.powerCapSet a) := onLetter_turn h _

end

/-- Settles O37: each letter by its branch, with what a clamp leaves. -/
theorem configurationAndTelemetryLettersAct : Obligations.ConfigurationAndTelemetryLettersAct := by
  intro s ch a
  refine ⟨fun hentries h => ?_, fun hn hn' => ⟨fun hc h => configRead_acts hn hn' hc (by decide) rfl h,
    fun hc h => configRead_acts hn hn' hc (by decide) rfl h, fun hc h => configRead_acts hn hn' hc (by decide) rfl h⟩, fun h => ?_,
    fun h => ⟨s.powerCapSet a, powerCapSet_turn h, rfl, powerCapSet_acts s a⟩, ?_,
    fun hsrc h => timeSource_acts h hsrc, fun hrole h => incidentRead_acts h hrole, fun h _ => incidentAck_acts h,
    fun h => snapshotRequest_acts h, fun hT h => snapshotRead_stale h hT,
    fun insts words hT hshape hfirst hcount h => snapshotRead_acts h hT hshape hfirst hcount,
    fun insts rec_ hclass h => sensorRead_acts h hclass, fun h => capacityRead_acts h⟩
  · exact (configStage_turn h).trans (congrArg Host.Outcome.next (configStage_acts hentries))
  · refine ⟨s.chimeSet a, chimeSet_turn h, rfl, ?_⟩
    obtain ⟨hactive, hstaged, j, hjobs, hkind, hnamed, hchanges⟩ := chimeSet_stages s a
    exact ⟨hactive, hstaged, j, _, hjobs, hkind, hnamed, hchanges, fun f hf hstart hne => mem_cfgChange hf hstart hne⟩
  · rintro i hheld rfl hi h
    exact dividerSet_acts h hheld hi

end Sys2Proof.Machine

/-! ## Letters of gardens follow the garden's state (R287-R300, R305-R308, R571, R573) -/

namespace Sys2Proof.Machine

/-! ### A garden's registers -/

theorem Gdn.getF_setF_same (d : Gdn) (f : Fld) (v : Nat) (h : f.lo + f.w ≤ 64) : (d.setF f v).getF f = v % 2 ^ f.w :=
  Machine.getF_setF_same f v d.regs h

theorem Gdn.getF_setF_other (d : Gdn) {f g : Fld} (v : Nat) (h : f.lo + f.w ≤ 64)
    (hd : g.off ≠ f.off ∨ (g.blk = f.blk ∧ (g.lo + g.w ≤ f.lo ∨ f.lo + f.w ≤ g.lo))) : (d.setF f v).getF g = d.getF g :=
  Machine.getF_setF_other f g v d.regs h hd

theorem updGarden_garden (s : State) (g : Nat) (f : Gdn → Gdn) (h : Nat) :
    (s.updGarden g f).garden h = if h = g then f (s.garden g) else s.garden h := by
  split
  next e => subst e; exact State.updGarden_same s h f
  next e => exact State.updGarden_other s g f e

theorem setGState_same (s : State) (g : Nat) {v : Nat} (hv : v < 16) : (s.setGState g v).gState g = v := by
  unfold State.gState State.setGState
  rw [State.updGarden_same, Gdn.getF_setF_same _ _ _ (by decide)]
  exact Nat.mod_eq_of_lt hv

/-! ### Gardens that hold the same -/

/-- What the checks of a garden's protection read is the same. -/
structure SameHoldings (s t : State) : Prop where
  state : ∀ h, t.gState h = s.gState h
  prot : ∀ h, (t.garden h).prot = (s.garden h).prot
  post : t.post = s.post
  pavs : t.pavs = s.pavs
  toZero : t.toZero = s.toZero

section
variable {s t : State}

theorem SameHoldings.pav (h : SameHoldings s t) (p : Nat) : t.pav p = s.pav p := pav_congr h.pavs p

theorem SameHoldings.pavsOf (h : SameHoldings s t) (g : Nat) : t.pavsOf g = s.pavsOf g := congrArg Protection.pavs (h.prot g)

theorem SameHoldings.leaving (h : SameHoldings s t) (g : Nat) : t.leaving g = s.leaving g := by
  unfold State.leaving
  rw [h.post, h.pavsOf]

theorem SameHoldings.othersHold (h : SameHoldings s t) (g : Nat) : t.othersHold g = s.othersHold g := by
  unfold State.othersHold State.asked
  rw [h.post]
  simp only [h.prot]

theorem SameHoldings.claimed (h : SameHoldings s t) (g : Nat) : t.claimed g = s.claimed g := by
  unfold State.claimed
  rw [h.othersHold]

theorem SameHoldings.otherWindows (h : SameHoldings s t) (g : Nat) : t.otherWindows g = s.otherWindows g := by
  unfold State.otherWindows
  rw [h.othersHold]

theorem SameHoldings.peerTaken (h : SameHoldings s t) (g : Nat) (new : Protection) : t.peerTaken g new = s.peerTaken g new := by
  unfold State.peerTaken
  rw [h.othersHold]

theorem SameHoldings.pavBlock (h : SameHoldings s t) (g : Nat) (ps : List Nat) : t.pavBlock g ps = s.pavBlock g ps := by
  unfold State.pavBlock State.letterName
  simp only [h.state, h.pavsOf, h.leaving, h.claimed, h.pav, h.post]

theorem SameHoldings.awaitsZero (h : SameHoldings s t) (ws : List Window) : t.awaitsZero ws = s.awaitsZero ws := by
  unfold State.awaitsZero
  rw [h.toZero]

end

/-- A garden's letter is marked as one that waits for a release, or not. -/
def State.markDeferred (s : State) (g v : Nat) : State := s.updGarden g fun d => d.setF Reg.GD_STATUS_DEFERRED v

theorem markDeferred_holdings (s : State) (g v : Nat) : SameHoldings s (s.markDeferred g v) where
  state h := by
    unfold State.gState State.markDeferred
    rw [updGarden_garden]
    split
    next e => subst e; exact Gdn.getF_setF_other _ _ (by decide) (by decide)
    next => rfl
  prot h := by
    unfold State.markDeferred
    rw [updGarden_garden]
    split
    next e => subst e; rfl
    next => rfl
  post := rfl
  pavs := rfl
  toZero := rfl

/-! ### A change that begins -/

/-- A letter's change has begun. -/
structure Begun (s : State) (a : Accepted) (kind : JobKind) (t : State) : Prop where
  slow : t.slow = s.slow
  accepted : t.post.accepted = s.post.accepted.erase a
  job : ∃ j ∈ t.post.jobs, j.kind = kind ∧ j.letter = some { a with acting := true }

theorem begin_begun {s u : State} {a : Accepted} {j : Job} {kind : JobKind} (hkind : j.kind = kind) (hslow : u.slow = s.slow)
    (hpost : u.post = s.post) : Begun s a kind (u.begin a j) := by
  refine ⟨hslow, ?_, { j with letter := some { a with acting := true }, id := u.post.nextJob }, ?_, hkind, rfl⟩ <;> rw [begin_post]
  · rw [hpost]
  · exact List.mem_append_right _ (List.mem_singleton.mpr rfl)

theorem startZero_post (s : State) (p : Nat) : (s.startZero p).post = s.post := by
  unfold State.startZero
  split <;> rfl

theorem startZero_slow (s : State) (p : Nat) : (s.startZero p).slow = s.slow := by
  unfold State.startZero
  split <;> rfl

theorem startZeros_post (s : State) (ps : List Nat) : (ps.foldl State.startZero s).post = s.post :=
  foldl_keeps (g := State.post) startZero_post ps s

theorem startZeros_slow (s : State) (ps : List Nat) : (ps.foldl State.startZero s).slow = s.slow :=
  foldl_keeps (g := State.slow) startZero_slow ps s

theorem writeMapped_post (s : State) (cores : List Nat) (off : Nat) (w : Word) : (s.writeMapped cores off w).post = s.post :=
  foldl_keeps (g := State.post) (fun s c => by split <;> rfl) cores s

theorem writeMapped_slow (s : State) (cores : List Nat) (off : Nat) (w : Word) : (s.writeMapped cores off w).slow = s.slow :=
  foldl_keeps (g := State.slow) (fun s c => by split <;> rfl) cores s

section
variable {s : State} {ch : Nat} {a : Accepted}

theorem letterTurn_accepted {code : Nat} (h : letterTurn s code ch a = true) : a ∈ s.post.accepted := by
  obtain ⟨-, -, -, hfind⟩ := letterTurn_iff.mp h
  exact List.mem_of_find?_eq_some hfind

/-! ### GARDEN_CREATE -/

theorem gardenCreate_turn (h : letterTurn s 0x20 ch a = true) : execGardenCreate ch s = .next (s.gardenCreate a) := onLetter_turn h _

theorem gardenCreate_wrongState (hpeer : absentPeer (readProt a.letter.body) = none) (hempty : s.gState a.letter.garden ≠ gEmpty)
    (hleaving : s.gState a.letter.garden ≠ gReleasing) : s.gardenCreate a =
      (s.markDeferred a.letter.garden 0).dead a dState { unit := 10, unitId := a.letter.garden } := by
  have hstate := (markDeferred_holdings s a.letter.garden 0).state a.letter.garden
  unfold State.markDeferred at hstate
  unfold State.gardenCreate
  dsimp only
  rw [decide_eq_false hleaving, hpeer]
  dsimp only
  rw [if_neg hleaving, show b01 false = 0 from rfl, hstate, if_pos hempty]
  rfl

theorem gardenCreate_waits (hpeer : absentPeer (readProt a.letter.body) = none) (hleaving : s.gState a.letter.garden = gReleasing) :
    ∃ code seq, s.gardenCreate a = (s.markDeferred a.letter.garden 1).defer a code seq := by
  unfold State.gardenCreate
  dsimp only
  rw [decide_eq_true hleaving, hpeer]
  dsimp only
  rw [if_pos hleaving]
  exact ⟨_, _, rfl⟩

theorem defer_accepted (s : State) (a : Accepted) (code seq : Nat) (ha : a ∈ s.post.accepted) :
    ∃ b ∈ (s.defer a code seq).post.accepted, b.letter = a.letter ∧ b.channel = a.channel ∧ b.deferred = true := by
  refine ⟨_, List.mem_map.mpr ⟨a, ha, if_pos rfl⟩, rfl, rfl, rfl⟩

theorem markDeferred_deferred (s : State) (g : Nat) : ((s.markDeferred g 1).garden g).getF Reg.GD_STATUS_DEFERRED = 1 := by
  rw [State.markDeferred, State.updGarden_same]
  exact Gdn.getF_setF_same _ _ _ (by decide)

theorem gardenCreate_deferred (hpeer : absentPeer (readProt a.letter.body) = none) (hleaving : s.gState a.letter.garden = gReleasing)
    (ha : a ∈ s.post.accepted) : ((s.gardenCreate a).garden a.letter.garden).getF Reg.GD_STATUS_DEFERRED = 1 ∧
      (s.gardenCreate a).gState a.letter.garden = gReleasing ∧ (s.gardenCreate a).slow = s.slow ∧ (s.gardenCreate a).post.jobs = s.post.jobs ∧
      ∃ b ∈ (s.gardenCreate a).post.accepted, b.letter = a.letter ∧ b.channel = a.channel ∧ b.deferred = true := by
  obtain ⟨code, seq, hwaits⟩ := gardenCreate_waits hpeer hleaving
  rw [hwaits]
  refine ⟨markDeferred_deferred s _, ((markDeferred_holdings s a.letter.garden 1).state _).trans hleaving, rfl, rfl, ?_⟩
  exact defer_accepted _ a code seq ha

/-- A garden is being created, and the scratchpads of its pavilions are being zeroed. -/
def State.creating (s : State) (g : Nat) (ps : List Nat) : State := (ps.foldl State.startZero (s.markDeferred g 0)).setGState g gCreating

theorem creating_slow (s : State) (g : Nat) (ps : List Nat) : (s.creating g ps).slow = s.slow := startZeros_slow _ ps
theorem creating_post (s : State) (g : Nat) (ps : List Nat) : (s.creating g ps).post = s.post := startZeros_post _ ps
theorem creating_gState (s : State) (g : Nat) (ps : List Nat) : (s.creating g ps).gState g = gCreating := setGState_same _ g (by decide)

theorem begin_gState (s : State) (a : Accepted) (j : Job) (g : Nat) : (s.begin a j).gState g = s.gState g := rfl

/-- R307: a garden whose record is in order is being created, its scratchpads zeroed. -/
theorem gardenCreate_begins (hpeer : absentPeer (readProt a.letter.body) = none) (hempty : s.gState a.letter.garden = gEmpty)
    (hfree : s.pavBlock a.letter.garden (readProt a.letter.body).pavs = .free)
    (htaken : s.peerTaken a.letter.garden (readProt a.letter.body) = none) (hfields : protFieldsOk a.letter.body = true)
    (hconn : connected (readProt a.letter.body).pavs = true)
    (hwin : windowsOk (readProt a.letter.body).windows (s.otherWindows a.letter.garden) = true) (hreach : peersReached (readProt a.letter.body) = true)
    (hzero : s.awaitsZero (readProt a.letter.body).windows = false) :
    ∃ j, s.gardenCreate a = ((s.creating a.letter.garden (readProt a.letter.body).pavs).begin a j) ∧ j.kind = .create := by
  have hsame := markDeferred_holdings s a.letter.garden 0
  have hnot : s.gState a.letter.garden ≠ gReleasing := by rw [hempty]; decide
  unfold State.markDeferred at hsame
  unfold State.gardenCreate
  dsimp only
  rw [decide_eq_false hnot, hpeer]
  dsimp only
  rw [if_neg hnot, show b01 false = 0 from rfl, hsame.state, if_neg (not_not.mpr hempty), hsame.pavBlock, hsame.peerTaken, hfree, htaken]
  dsimp only
  rw [if_neg (by rw [hfields, hconn]; decide), hsame.otherWindows, if_neg (by rw [hwin, hreach]; decide), hsame.awaitsZero,
    if_neg (by rw [hzero]; decide)]
  exact ⟨_, rfl, rfl⟩

/-! ### The other letters in the wrong state, and those that begin -/

theorem gardenLoad_wrongState (h : s.gState a.letter.garden ≠ gCreated) (h' : s.gState a.letter.garden ≠ gLoaded) :
    s.gardenLoad a = s.dead a dState { unit := 10, unitId := a.letter.garden } := by
  have hengines (r : ViewRead) : r.needsEngines = false := by cases r <;> rfl
  unfold State.gardenLoad
  dsimp only
  rw [hengines, if_neg (by decide), if_pos ⟨h, h'⟩]

theorem gardenStart_begun (h : s.gState a.letter.garden = gLoaded) : Begun s a .start (s.gardenStart a) := by
  unfold State.gardenStart
  dsimp only
  rw [if_neg (not_not.mpr h)]
  refine begin_begun rfl ?_ ?_
  · rw [State.updGarden_slow, writeMapped_slow]
  · rw [State.updGarden_post, writeMapped_post]

theorem protectSet_wrongState (hpeer : absentPeer (readProt a.letter.body) = none)
    (h : s.gState a.letter.garden ∉ [gCreated, gLoaded, gRunning, gRecovering]) :
    s.protectSet a = s.dead a dState { unit := 10, unitId := a.letter.garden } := by
  unfold State.protectSet
  dsimp only
  rw [hpeer]
  exact if_pos (by simpa using h)

theorem updatePlan_wrongState (h : s.gState a.letter.garden ≠ gLoaded) (h' : s.gState a.letter.garden ≠ gRunning) :
    s.updatePlan a = s.dead a dState { unit := 10, unitId := a.letter.garden } := by
  unfold State.updatePlan
  dsimp only
  rw [if_neg (by decide), if_pos ⟨h, h'⟩]

theorem gardenReset_begun (h : s.gState a.letter.garden = gRunning) (hno : (s.recovering a.letter.garden).isSome = false) :
    Begun s a .gardenReset (s.gardenReset a) := by
  unfold State.gardenReset
  dsimp only
  rw [if_neg (not_not.mpr h), if_neg (by rw [hno]; decide)]
  exact begin_begun rfl rfl rfl

/-! ### Each letter in its turn -/

theorem gardenLoad_turn (h : letterTurn s 0x21 ch a = true) : execGardenLoad ch s = .next (s.gardenLoad a) := onLetter_turn h _
theorem gardenStart_turn (h : letterTurn s 0x22 ch a = true) : execGardenStart ch s = .next (s.gardenStart a) := onLetter_turn h _
theorem gardenStop_turn (h : letterTurn s 0x23 ch a = true) : execGardenStop ch s = .next (s.gardenStop a) := onLetter_turn h _
theorem gardenRelease_turn (h : letterTurn s 0x24 ch a = true) : execGardenRelease ch s = .next (s.gardenRelease a) := onLetter_turn h _
theorem protectSet_turn (h : letterTurn s 0x25 ch a = true) : execProtectSet ch s = .next (s.protectSet a) := onLetter_turn h _
theorem sealStep_turn (h : letterTurn s 0x27 ch a = true) : execSealStep ch s = .next (s.sealStep a) := onLetter_turn h _
theorem updatePlan_turn (h : letterTurn s 0x28 ch a = true) : execUpdatePlan ch s = .next (s.updatePlan a) := onLetter_turn h _
theorem gardenReset_turn (h : letterTurn s 0x29 ch a = true) : execGardenReset ch s = .next (s.gardenReset a) := onLetter_turn h _

theorem gardenStatus_acts (h : letterTurn s 0x26 ch a = true) : execGardenStatus ch s =
    .next (s.reply a (leBytes 8 (s.gdRead a.letter.garden 0x008).toNat ++ leBytes 8 (s.gdRead a.letter.garden 0x028).toNat ++
      leBytes 8 (s.garden a.letter.garden).lastSeal ++ leBytes 8 (s.garden a.letter.garden).sealTick)) := onLetter_turn h _

/-- R573: a letter owed a poisoned context is answered for it, and does not act. -/
theorem onLetter_owed {code : Nat} {ctx : Word} (hch : ch < 64) (hserves : s.inService = true) (howed : s.owed a = some ctx)
    (hfind : s.post.accepted.find? (fun b => b.letter.code = code && b.channel = ch && !s.blocked b && s.inTurn b) = some a)
    (f : Accepted → State → State) : onLetter code ch s f = .next (s.payOwed a ctx) := by
  refine (if_pos hch).trans (congrArg Host.Outcome.next ?_)
  dsimp only
  rw [if_neg (by rw [hserves]; decide), hfind]
  dsimp only
  rw [howed]

theorem Begun.completes {kind : JobKind} {cmd : Instr} {t : State} (hcmd : exec cmd s = .next t) (h : Begun s a kind t) :
    Completes (exec cmd s) fun t => t.slow = s.slow ∧ t.post.accepted = s.post.accepted.erase a ∧
      ∃ j ∈ t.post.jobs, j.kind = kind ∧ j.letter = some { a with acting := true } := ⟨t, hcmd, h.slow, h.accepted, h.job⟩

end

/-- Settles O38: each letter's branch by its garden's state. -/
theorem gardenLettersFollowTheGardensState : Obligations.GardenLettersFollowTheGardensState := by
  intro s ch a
  refine ⟨fun hpeer hempty hleaving h => ?_, fun hpeer hleaving h => ?_,
    fun hpeer hempty hfree htaken hfields hconn hwin hreach hzero _ => ?_, fun h h' ht => ?_, fun h ht => ?_,
    fun h ht => (gardenStart_begun h).completes (gardenStart_turn ht), fun h ht => ?_, fun h ht => ?_, fun h ht => ?_, fun hpeer h ht => ?_,
    fun ht => gardenStatus_acts ht, fun h h' ht => ?_, fun h h' ht => ?_, fun h ht => ?_,
    fun h hno ht => (gardenReset_begun h hno).completes (gardenReset_turn ht), fun ctx hch hserves howed hfind => ?_⟩
  · exact (gardenCreate_turn h).trans (congrArg Host.Outcome.next (gardenCreate_wrongState hpeer hempty hleaving))
  · exact ⟨_, gardenCreate_turn h, gardenCreate_deferred hpeer hleaving (letterTurn_accepted h)⟩
  · obtain ⟨j, hj, hkind⟩ := gardenCreate_begins hpeer hempty hfree htaken hfields hconn hwin hreach hzero
    refine ⟨fun ht => Begun.completes (gardenCreate_turn ht) ?_, fun ht => ⟨_, gardenCreate_turn ht, ?_⟩⟩
    · rw [hj]
      exact begin_begun hkind (creating_slow s _ _) (creating_post s _ _)
    · dsimp only
      rw [hj, begin_gState, creating_gState]
  · exact (gardenLoad_turn ht).trans (congrArg Host.Outcome.next (gardenLoad_wrongState h h'))
  · exact (gardenStart_turn ht).trans (congrArg Host.Outcome.next (if_pos h))
  · exact (gardenStop_turn ht).trans (congrArg Host.Outcome.next (if_pos h))
  · exact (gardenStop_turn ht).trans (congrArg Host.Outcome.next (if_neg (not_not.mpr h)))
  · exact (gardenRelease_turn ht).trans (congrArg Host.Outcome.next (if_pos h))
  · exact (protectSet_turn ht).trans (congrArg Host.Outcome.next (protectSet_wrongState hpeer h))
  · exact (sealStep_turn ht).trans (congrArg Host.Outcome.next (if_pos ⟨h, h'⟩))
  · exact (updatePlan_turn ht).trans (congrArg Host.Outcome.next (updatePlan_wrongState h h'))
  · exact (gardenReset_turn ht).trans (congrArg Host.Outcome.next (if_pos h))
  · exact onLetter_owed hch hserves howed hfind fun a s => s.gardenStart a

end Sys2Proof.Machine

/-! ## Changes of gardens begin (R289-R310, R341) -/

namespace Sys2Proof.Machine

/-- Only pavilions change. -/
def OnlyPavs (s t : State) : Prop := { t with pavs := s.pavs } = s

theorem OnlyPavs.refl (s : State) : OnlyPavs s s := rfl

theorem OnlyPavs.trans {s t u : State} (h : OnlyPavs s t) (k : OnlyPavs t u) : OnlyPavs s u := by
  unfold OnlyPavs at *
  rw [← h, ← k]

theorem updPav_onlyPavs (s : State) (p : Nat) (f : Pav → Pav) : OnlyPavs s (s.updPav p f) := rfl

theorem onlyPavs_foldl {β : Type} {f : State → β → State} (h : ∀ s b, OnlyPavs s (f s b)) (l : List β) (s : State) : OnlyPavs s (l.foldl f s) := by
  induction l generalizing s with
  | nil => exact .refl s
  | cons b l ih => exact (h s b).trans (ih _)

section
variable {s t : State} (h : OnlyPavs s t)
include h

theorem OnlyPavs.slow : t.slow = s.slow := (congrArg State.slow h :)
theorem OnlyPavs.post : t.post = s.post := (congrArg State.post h :)
theorem OnlyPavs.wd : t.wd = s.wd := (congrArg State.wd h :)
theorem OnlyPavs.cores : t.cores = s.cores := (congrArg State.cores h :)
theorem OnlyPavs.gardens : t.gardens = s.gardens := (congrArg State.gardens h :)
theorem OnlyPavs.oras : t.oras = s.oras := (congrArg State.oras h :)
theorem OnlyPavs.sd : t.sd = s.sd := (congrArg State.sd h :)

end

section
variable {s : State} {ch : Nat} {a : Accepted}

theorem garden_congr {s t : State} (h : t.gardens = s.gardens) (g : Nat) : t.garden g = s.garden g := congrArg (Fm.get ({} : Gdn) g) h

/-- The module has engines, so no image is refused for the want of them. -/
theorem needsEngines_eq_false (r : ViewRead) : r.needsEngines = false := by cases r <;> rfl

/-! ### GARDEN_LOAD, GARDEN_RELEASE and PROTECT_SET -/

theorem gardenLoad_loads {bs : List Byte} {i : Image} {pl : Placement} {ts : List Tree}
    (hstate : s.gState a.letter.garden = gCreated ∨ s.gState a.letter.garden = gLoaded)
    (hread : s.viewRead a.letter.garden (a.letter.field 0 8) (a.letter.field 8 8) = .bytes bs) (himage : readImage bs = some i)
    (hplan : i.plan = none) (hwin : s.imageWindows a.letter.garden i = true)
    (hcores : s.coresAsked a.letter.garden i.size ≤ Config.exposedCores)
    (hreserve : i.size + requiredReserve i.size ≤ s.goodIn (s.pavsOf a.letter.garden))
    (hplace : placeImage (if i.mode = 0 then s.siteRuns else s.goodSite) (s.pavsOf a.letter.garden) i = some pl)
    (hroute : s.routeAll a.letter.garden (s.pavsOf a.letter.garden) i pl [] = some ts) :
    s.gardenLoad a = s.beginLoad a i pl ts (imageClamps bs) := by
  have hstate' : ¬(s.gState a.letter.garden ≠ gCreated ∧ s.gState a.letter.garden ≠ gLoaded) := fun hno => hstate.elim hno.1 hno.2
  have hsize : ¬(Config.exposedCores < s.coresAsked a.letter.garden i.size ∨
      s.goodIn (s.pavsOf a.letter.garden) < i.size + requiredReserve i.size) :=
    fun hbad => hbad.elim (Nat.not_lt.mpr hcores) (Nat.not_lt.mpr hreserve)
  unfold State.gardenLoad
  dsimp only
  rw [hread, needsEngines_eq_false, if_neg Bool.false_ne_true, if_neg hstate']
  dsimp only
  rw [himage]
  dsimp only
  rw [if_neg (by rw [hwin]; decide), if_neg hsize, hplan, Option.any_none, if_neg Bool.false_ne_true,
    Option.any_none, if_neg Bool.false_ne_true, hplace]
  dsimp only
  rw [hroute]

theorem gardenRelease_begins (h : s.gState a.letter.garden ≠ gEmpty) (h' : s.gState a.letter.garden ≠ gReleasing) :
    ∃ (f : Post → Post) (j : Job), s.gardenRelease a = ((s.setGState a.letter.garden gReleasing).updPost f).begin a j ∧ j.kind = .release := by
  unfold State.gardenRelease
  dsimp only
  rw [if_neg fun hbad => hbad.elim h h']
  exact ⟨_, _, rfl, rfl⟩

/-- The job of a letter whose change begins. -/
theorem begin_job {u : State} {j : Job} {kind : JobKind} (hkind : j.kind = kind) :
    ∃ k ∈ (u.begin a j).post.jobs, k.kind = kind ∧ k.letter = some { a with acting := true } := by
  refine ⟨{ j with letter := some { a with acting := true }, id := u.post.nextJob }, ?_, hkind, rfl⟩
  rw [begin_post]
  exact List.mem_append_right _ (List.mem_singleton.mpr rfl)

theorem gardenRelease_releasing (h : s.gState a.letter.garden ≠ gEmpty) (h' : s.gState a.letter.garden ≠ gReleasing) :
    (∃ k ∈ (s.gardenRelease a).post.jobs, k.kind = .release ∧ k.letter = some { a with acting := true }) ∧
      (s.gardenRelease a).slow = s.slow ∧ (s.gardenRelease a).gState a.letter.garden = gReleasing := by
  obtain ⟨f, j, hj, hkind⟩ := gardenRelease_begins h h'
  rw [hj]
  exact ⟨begin_job hkind, rfl, setGState_same s _ (by decide)⟩

/-- The pavilions a protection takes over from an old one, as the model lists them and as the statement does. -/
theorem kept_of_gone (old new : List Nat) :
    (old.filter fun p => !(old.filter fun p => !new.contains p).contains p) = old.filter fun p => new.contains p := by
  refine List.filter_congr fun p hp => ?_
  rw [Bool.eq_iff_iff]
  simp [hp]

theorem protectSet_begins
    (hpeer : absentPeer (readProt a.letter.body) = none) (hstate : s.gState a.letter.garden ∈ [gCreated, gLoaded, gRunning, gRecovering])
    (hfree : s.pavBlock a.letter.garden ((readProt a.letter.body).pavs.filter fun p => !(s.garden a.letter.garden).prot.pavs.contains p) = .free)
    (htaken : s.peerTaken a.letter.garden (readProt a.letter.body) = none) (hfields : protFieldsOk a.letter.body = true)
    (hconn : connected (readProt a.letter.body).pavs = true)
    (hroom : (∀ p ∈ (s.garden a.letter.garden).prot.pavs, p ∈ (readProt a.letter.body).pavs) ∨
      s.gdnSize a.letter.garden ≤ s.goodIn ((s.garden a.letter.garden).prot.pavs.filter fun p => (readProt a.letter.body).pavs.contains p))
    (hwin : windowsOk (readProt a.letter.body).windows (s.otherWindows a.letter.garden) = true) (hreach : peersReached (readProt a.letter.body) = true)
    (hzero : s.awaitsZero (readProt a.letter.body).windows = false) :
    ∃ (u : State) (j : Job), s.protectSet a = u.begin a j ∧ j.kind = .protect := by
  have hroom' : ¬(!((s.garden a.letter.garden).prot.pavs.filter fun p => !(readProt a.letter.body).pavs.contains p).isEmpty &&
      decide (s.goodIn ((s.garden a.letter.garden).prot.pavs.filter fun p =>
        !((s.garden a.letter.garden).prot.pavs.filter fun p => !(readProt a.letter.body).pavs.contains p).contains p) <
        s.gdnSize a.letter.garden)) = true := by
    rw [kept_of_gone, Bool.and_eq_true, decide_eq_true_eq]
    rintro ⟨hgone, hshort⟩
    rcases hroom with hall | hroom
    · refine absurd hgone (by simpa using hall)
    · exact Nat.not_lt.mpr hroom hshort
  unfold State.protectSet
  dsimp only
  rw [hpeer]
  dsimp only
  rw [if_neg (by rw [List.contains_iff_mem.mpr hstate]; decide), hfree, htaken]
  dsimp only
  rw [if_neg (by rw [hfields, hconn]; decide), if_neg hroom', if_neg (by rw [hwin, hreach]; decide), if_neg (by rw [hzero]; decide)]
  exact ⟨_, _, rfl, rfl⟩

theorem protectSet_slow (s : State) (a : Accepted) : (s.protectSet a).slow = s.slow := congrArg Prod.fst (State.protectSet_kept s a)

/-! ### SEAL_STEP -/

/-- The seal marks of a garden whose outboxes are empty hold no record before them. -/
theorem counts_empty {ks : List Nat} (h : ∀ c ∈ ks, (s.core c).outbox = []) :
    ks.foldl (fun m c => Fm.set 0 (coreIdx c) (s.core c).outbox.length m) ([] : FMap Nat) = [] := by
  induction ks with
  | nil => rfl
  | cons c ks ih =>
    rw [List.foldl_cons, h c List.mem_cons_self]
    exact ih fun d hd => h d (List.mem_cons_of_mem _ hd)

theorem markWardens_onlyPavs (s : State) (g : Nat) : OnlyPavs s (s.markWardens g) := onlyPavs_foldl (fun s p => updPav_onlyPavs s p _) _ s
theorem clearMarks_onlyPavs (s : State) (g : Nat) : OnlyPavs s (s.clearMarks g) := onlyPavs_foldl (fun s p => updPav_onlyPavs s p _) _ s

theorem markWardens_beforeMark {p : Nat} (hp : p ∈ s.pavsOf a.letter.garden) (h : ∀ c ∈ coresOf p, (s.core c).outbox = []) :
    ((s.markWardens a.letter.garden).pav p).beforeMark = [] := by
  refine foldl_establishes (P := fun t : State => t.cores = s.cores → (t.pav p).beforeMark = []) (b := p)
    (fun t ht => ?_) (fun t q hkeep ht => ?_) hp s (markWardens_onlyPavs s a.letter.garden).cores
  · have hcores : t.cores = s.cores := ht
    rw [State.updPav_same]
    exact counts_empty fun c hc => by rw [core_congr hcores, h c hc]
  · have hcores : t.cores = s.cores := ht
    by_cases hq : p = q
    · subst hq
      rw [State.updPav_same]
      exact counts_empty fun c hc => by rw [core_congr hcores, h c hc]
    · rw [State.updPav_other _ _ _ hq]
      exact hkeep hcores

/-- The seal of a letter as its change begins, and the state then. -/
def State.sealJob (s : State) (a : Accepted) : Job :=
  { kind := .seal, garden := a.letter.garden, arg := a.letter.field 0 8, arg2 := a.letter.field 8 4,
    letter := some { a with acting := true }, id := s.post.nextJob }

def State.sealing (s : State) (a : Accepted) : State :=
  ((s.markWardens a.letter.garden).updGarden a.letter.garden fun d => { d with wdOn := false }).begin a
    { kind := .seal, garden := a.letter.garden, arg := a.letter.field 0 8, arg2 := a.letter.field 8 4 }

theorem sealing_post (s : State) (a : Accepted) : (s.sealing a).post = { s.post with
    accepted := s.post.accepted.erase a, nextJob := s.post.nextJob + 1, jobs := s.post.jobs ++ [s.sealJob a] } := by
  rw [State.sealing, begin_post, State.updGarden_post, (markWardens_onlyPavs s _).post]
  rfl

theorem sealing_wd (s : State) (a : Accepted) : (s.sealing a).wd = s.wd := (markWardens_onlyPavs s a.letter.garden).wd
theorem sealing_sd (s : State) (a : Accepted) : (s.sealing a).sd = s.sd := (markWardens_onlyPavs s a.letter.garden).sd
theorem sealing_oras (s : State) (a : Accepted) : (s.sealing a).oras = s.oras := (markWardens_onlyPavs s a.letter.garden).oras
theorem sealing_now (s : State) (a : Accepted) : (s.sealing a).now = s.now := congrArg (getF Reg.SD_COUNT_COUNT) (sealing_sd s a)
theorem sealing_taintOf (s : State) (a : Accepted) (g : Nat) : (s.sealing a).taintOf g = s.taintOf g :=
  congrArg (getF (Reg.WD_GARDEN_TAINT g)) (sealing_wd s a)

theorem begin_garden (u : State) (a : Accepted) (j : Job) (g : Nat) : (u.begin a j).garden g = u.garden g := rfl

theorem sealing_garden (s : State) (a : Accepted) :
    (s.sealing a).garden a.letter.garden = { s.garden a.letter.garden with wdOn := false } := by
  have hgarden := garden_congr (markWardens_onlyPavs s a.letter.garden).gardens a.letter.garden
  rw [State.sealing, begin_garden, State.updGarden_same, hgarden]

theorem sealing_engAll (s : State) (a : Accepted) (g : Nat) (ok : Nat → Bool) : (s.sealing a).engAll g ok = s.engAll g ok := by
  unfold State.engAll State.engStates
  simp only [orang_congr (sealing_oras s a)]

/-- With no seal of the garden open before, the letter's own is the one that is polled. -/
theorem sealStep_polls (hstate : s.gState a.letter.garden = gRunning) (hstep : a.letter.field 0 8 = s.openStep a.letter.garden)
    (hrest : a.letter.field 12 4 = 0) (hno : ∀ j ∈ s.post.jobs, j.kind = .seal → j.garden ≠ a.letter.garden) :
    s.sealStep a = (s.sealing a).sealPoll (s.sealJob a) := by
  have hfind : (s.sealing a).post.jobs.find? (fun j => j.kind = .seal && j.garden = a.letter.garden) = some (s.sealJob a) := by
    rw [sealing_post]
    dsimp only
    rw [List.find?_append, List.find?_eq_none.mpr, Option.none_or]
    · exact List.find?_cons_of_pos (by simp [State.sealJob])
    · intro j hj
      simpa using hno j hj
  unfold State.sealStep
  dsimp only
  rw [if_neg fun hbad => hbad.1 hstate, if_neg (not_not.mpr hstep), if_neg (not_not.mpr hrest)]
  rw [State.sealing] at hfind
  rw [hfind]
  rfl

end

/-! ### The seal is answered -/

section
variable {s : State}

theorem dropJob_mem {j k : Job} (h : k ∈ (s.dropJob j).post.jobs) : k ∈ s.post.jobs ∧ k.id ≠ j.id := by
  obtain ⟨hk, hid⟩ := List.mem_filter.mp h
  exact ⟨hk, by simpa using hid⟩

/-- What answering a seal leaves of the step's own record, and of the jobs. -/
structure SealAnswered (s : State) (j : Job) (t : State) : Prop where
  lastSeal : (t.garden j.garden).lastSeal = (s.garden j.garden).lastSeal
  sealTick : (t.garden j.garden).sealTick = (s.garden j.garden).sealTick
  post : t.post = (s.dropJob j).post

theorem answerSeal_answered (j : Job) (status reason : Nat) : SealAnswered s j (s.answerSeal j status reason) := by
  have hmarks := clearMarks_onlyPavs (s.dropJob j) j.garden
  unfold State.answerSeal
  extract_lets g u v
  have hgarden : (u.garden j.garden) = s.garden j.garden := garden_congr hmarks.gardens _
  have hv : SealAnswered s j v := by
    refine ⟨?_, ?_, hmarks.post⟩ <;> dsimp only [v] <;> rw [State.updGarden_same, hgarden]
  clear_value v
  split
  · exact hv
  next b _ =>
    have hplace := place_only v b (b.receipt status reason (leBytes 8 j.arg) 0 [])
    have hgardens : (v.place b (b.receipt status reason (leBytes 8 j.arg) 0 [])).garden j.garden = v.garden j.garden :=
      (congrArg (fun w : State => w.garden j.garden) hplace :)
    refine ⟨?_, ?_, hplace.post.trans hv.post⟩ <;> rw [hgardens]
    · exact hv.lastSeal
    · exact hv.sealTick

theorem sealed_facts (s : State) (j : Job) : ((s.sealed j).garden j.garden).lastSeal = j.arg ∧
    ((s.sealed j).garden j.garden).sealTick = s.now ∧ (s.sealed j).post = (s.dropJob j).post := by
  unfold State.sealed
  dsimp only
  obtain ⟨hlast, htick, hpost⟩ := answerSeal_answered (s := ((s.updGarden j.garden fun d =>
    { d with lastSeal := j.arg, sealTick := s.now, nextTaint := 0, fails := {}, prevFails := {},
             hang := d.hang.map fun h => { h with sealed := true } }).setWd (Reg.WD_GARDEN_RUNS j.garden) 0).setWd
    (Reg.WD_GARDEN_TAINT j.garden) (s.garden j.garden).nextTaint) j 0 0
  refine ⟨hlast.trans ?_, htick.trans ?_, hpost⟩ <;> rw [State.setWd_garden_as, State.setWd_garden_as, State.updGarden_same]

end

section
variable {s : State} {a : Accepted}

theorem sealPoll_seals {j : Job} (hphase : j.phase = 0) (htaint : s.taintOf j.garden = 0) (hstate : s.gState j.garden = gRunning)
    (hmarks : s.marksJudged j.garden = true) (heng : s.engAll j.garden (· = engNone) = true) : s.sealPoll j = s.sealed j := by
  unfold State.sealPoll
  dsimp only
  rw [hphase, htaint, hstate, if_neg (not_not.mpr rfl), if_neg (not_not.mpr rfl), if_neg (not_not.mpr rfl), if_neg (by rw [hmarks]; decide), if_pos heng]
  rfl

theorem sealPoll_tainted {j : Job} (hphase : j.phase = 0) (htaint : s.taintOf j.garden ≠ 0) :
    s.sealPoll j = s.answerSeal j 1 (s.taintOf j.garden) := by
  unfold State.sealPoll
  dsimp only
  rw [hphase, if_pos htaint, if_pos htaint]
  rfl

theorem sealStep_seals (hstate : s.gState a.letter.garden = gRunning) (hstep : a.letter.field 0 8 = s.openStep a.letter.garden)
    (hrest : a.letter.field 12 4 = 0) (hno : ∀ j ∈ s.post.jobs, j.kind = .seal → j.garden ≠ a.letter.garden)
    (htaint : s.taintOf a.letter.garden = 0) (hempty : ∀ p ∈ s.pavsOf a.letter.garden, ∀ c ∈ coresOf p, (s.core c).outbox = [])
    (heng : s.engAll a.letter.garden (· = engNone) = true) :
    s.sealStep a = (s.sealing a).sealed (s.sealJob a) := by
  have hstate' : (s.sealing a).gState a.letter.garden = gRunning := by
    rw [State.gState, sealing_garden]
    exact hstate
  have hmarks : (s.sealing a).marksJudged a.letter.garden = true := by
    have hpavs : (s.sealing a).pavsOf a.letter.garden = s.pavsOf a.letter.garden := by
      rw [State.pavsOf, sealing_garden]
      rfl
    rw [State.marksJudged, hpavs, List.all_eq_true]
    intro p hp
    exact List.isEmpty_iff.mpr (markWardens_beforeMark hp (hempty p hp))
  rw [sealStep_polls hstate hstep hrest hno]
  exact sealPoll_seals rfl ((sealing_taintOf s a _).trans htaint) hstate' hmarks ((sealing_engAll s a _ _).trans heng)

theorem sealStep_tainted (hstate : s.gState a.letter.garden = gRunning) (hstep : a.letter.field 0 8 = s.openStep a.letter.garden)
    (hrest : a.letter.field 12 4 = 0) (hno : ∀ j ∈ s.post.jobs, j.kind = .seal → j.garden ≠ a.letter.garden)
    (htaint : s.taintOf a.letter.garden ≠ 0) :
    s.sealStep a = (s.sealing a).answerSeal (s.sealJob a) 1 (s.taintOf a.letter.garden) := by
  have htaint' := sealing_taintOf s a a.letter.garden
  rw [sealStep_polls hstate hstep hrest hno, ← htaint']
  exact sealPoll_tainted rfl (by rw [show (s.sealJob a).garden = a.letter.garden from rfl, htaint']; exact htaint)

theorem sealing_dropJob_accepted (s : State) (a : Accepted) : ((s.sealing a).dropJob (s.sealJob a)).post.accepted = s.post.accepted.erase a :=
  congrArg Post.accepted (sealing_post s a)

theorem sealStep_slow (s : State) (a : Accepted) : (s.sealStep a).slow = s.slow := congrArg Prod.fst (State.sealStep_kept s a)

/-- R342: with the wardens' records judged and no engine of the garden in use, the step is sealed at once. -/
theorem sealStep_seals_facts (hstate : s.gState a.letter.garden = gRunning) (hstep : a.letter.field 0 8 = s.openStep a.letter.garden)
    (hrest : a.letter.field 12 4 = 0) (hno : ∀ j ∈ s.post.jobs, j.kind = .seal → j.garden ≠ a.letter.garden)
    (htaint : s.taintOf a.letter.garden = 0) (hempty : ∀ p ∈ s.pavsOf a.letter.garden, ∀ c ∈ coresOf p, (s.core c).outbox = [])
    (heng : s.engAll a.letter.garden (· = engNone) = true) :
    ((s.sealStep a).garden a.letter.garden).lastSeal = a.letter.field 0 8 ∧ ((s.sealStep a).garden a.letter.garden).sealTick = s.now ∧
      (s.sealStep a).post.accepted = s.post.accepted.erase a ∧ (s.sealStep a).slow = s.slow := by
  have hsealed := sealStep_seals hstate hstep hrest hno htaint hempty heng
  obtain ⟨hlast, htick, hpost⟩ := sealed_facts (s.sealing a) (s.sealJob a)
  rw [← hsealed] at hlast htick hpost
  exact ⟨hlast, htick.trans (sealing_now s a), (congrArg Post.accepted hpost).trans (sealing_dropJob_accepted s a), sealStep_slow s a⟩

/-- R332: a tainted step is answered NOT_SEALED, and stays open. -/
theorem sealStep_tainted_facts (hstate : s.gState a.letter.garden = gRunning) (hstep : a.letter.field 0 8 = s.openStep a.letter.garden)
    (hrest : a.letter.field 12 4 = 0) (hno : ∀ j ∈ s.post.jobs, j.kind = .seal → j.garden ≠ a.letter.garden)
    (htaint : s.taintOf a.letter.garden ≠ 0) :
    ((s.sealStep a).garden a.letter.garden).lastSeal = (s.garden a.letter.garden).lastSeal ∧
      (s.sealStep a).post.accepted = s.post.accepted.erase a ∧
      (∀ j ∈ (s.sealStep a).post.jobs, j.kind = .seal → j.garden ≠ a.letter.garden) ∧ (s.sealStep a).slow = s.slow := by
  have hanswer := sealStep_tainted hstate hstep hrest hno htaint
  obtain ⟨hlast, -, hpost⟩ := answerSeal_answered (s := s.sealing a) (s.sealJob a) 1 (s.taintOf a.letter.garden)
  rw [← hanswer] at hlast hpost
  refine ⟨hlast.trans ?_, (congrArg Post.accepted hpost).trans (sealing_dropJob_accepted s a), fun j hj => ?_, sealStep_slow s a⟩
  · rw [show (s.sealJob a).garden = a.letter.garden from rfl, sealing_garden]
  · rw [hpost] at hj
    obtain ⟨hmem, hid⟩ := dropJob_mem hj
    rw [sealing_post] at hmem
    rcases List.mem_append.mp hmem with hold | hown
    · exact hno j hold
    · exact absurd (congrArg Job.id (List.mem_singleton.mp hown)) hid

/-! ### UPDATE_PLAN, MEM_FILL and zeroing -/

theorem updatePlan_begins {bs : List Byte} {p : Plan} (hstate : s.gState a.letter.garden = gLoaded ∨ s.gState a.letter.garden = gRunning)
    (hread : s.viewRead a.letter.garden (a.letter.field 0 8) (a.letter.field 8 8) = .bytes bs) (hplan : readPlan bs = some p)
    (hat : (s.planAt a.letter.garden p).isSome = true) (haligned : p.aligned = true) :
    s.updatePlan a = s.begin a { kind := .plan, garden := a.letter.garden, body := bs } := by
  have hstate' : ¬(s.gState a.letter.garden ≠ gLoaded ∧ s.gState a.letter.garden ≠ gRunning) := fun hno => hstate.elim hno.1 hno.2
  unfold State.updatePlan
  dsimp only
  rw [if_neg (by decide), if_neg hstate', hread]
  dsimp only
  rw [hplan]
  dsimp only
  rw [if_neg (by simpa using Option.isSome_iff_ne_none.mp hat), if_neg (by rw [haligned]; decide)]

theorem memFill_turn {ch : Nat} (h : letterTurn s 0x42 ch a = true) : execMemFill ch s = .next (s.memFill a) := onLetter_turn h _

theorem memFill_begins {p : Nat} (hstart : a.letter.field 0 8 % 64 = 0) (hn : a.letter.field 8 8 % 64 = 0) (hn64 : 64 ≤ a.letter.field 8 8)
    (hlast : a.letter.field 8 8 ≤ 1536 * 2 ^ 30) (hstore : s.viewAddr a.letter.garden (a.letter.field 0 8) (a.letter.field 8 8) .store = some p)
    (hhost : (s.viewAddr a.letter.garden (a.letter.field 0 8) (a.letter.field 8 8) .host).isSome = true) :
    s.memFill a = s.begin a { kind := .fill, garden := a.letter.garden, arg := p, arg2 := a.letter.field 8 8, body := slice a.letter.body 16 8 } := by
  obtain ⟨q, hq⟩ := Option.isSome_iff_exists.mp hhost
  unfold State.memFill
  dsimp only
  rw [if_neg (not_not.mpr hstart), if_neg, hstore, hq]
  rintro (hbad | hshort | hlong)
  · exact hbad hn
  · exact Nat.not_lt.mpr hn64 hshort
  · exact Nat.not_lt.mpr hlast hlong

theorem memFillComplete_acts {g : Nat} {j : Job} (hg : g < 4) (hfind : s.post.jobs.find? (fun j => j.kind = .fill && j.garden = g) = some j) :
    execMemFillComplete g s = .next ((s.fillRange g j.arg j.arg2 j.body).endJob j []) := by
  refine (if_pos hg).trans (congrArg Host.Outcome.next ?_)
  dsimp only
  rw [hfind]

/-- What zeroing a range does to the orangeries that hold it: its blocks are written. -/
def zeroOra (base size o : Nat) (v : Ora) : Ora :=
  v.wrote (fun b => b < usableBlocks && base ≤ slowOf o (64 * b) && slowOf o (64 * b) < base + size)
    (fun b => b < usableBlocks && base ≤ slowOf o (64 * b) && slowOf o (64 * b) < base + size)

theorem slowTierZeroing_acts {base size : Nat} (h : s.toZero.contains (base, size) = true) :
    execSlowTierZeroing base size s = .next (allOras.foldl (fun s o => s.updOra o (zeroOra base size o))
      { s with toZero := s.toZero.erase (base, size), slow := Fm.clearRange base size s.slow }) := by
  unfold execSlowTierZeroing
  rw [if_neg (by rw [h]; decide)]
  rfl

theorem slowTierZeroing_zeroes {base size : Nat} (h : s.toZero.contains (base, size) = true) :
    Completes (execSlowTierZeroing base size s) fun t =>
      (∀ b, base ≤ b → b < base + size → Fm.get 0 b t.slow = 0) ∧
      (∀ b, (b < base ∨ base + size ≤ b) → Fm.get 0 b t.slow = Fm.get 0 b s.slow) ∧ t.toZero = s.toZero.erase (base, size) ∧
      t.cores = s.cores := by
  have hslow (u : State) : (allOras.foldl (fun s o => s.updOra o (zeroOra base size o)) u).slow = u.slow :=
    foldl_keeps (g := State.slow) (fun s o => State.updOra_slow s o _) allOras u
  have hzero (u : State) : (allOras.foldl (fun s o => s.updOra o (zeroOra base size o)) u).toZero = u.toZero :=
    foldl_keeps (g := State.toZero) (fun s o => State.updOra_toZero s o _) allOras u
  have hcores (u : State) : (allOras.foldl (fun s o => s.updOra o (zeroOra base size o)) u).cores = u.cores :=
    foldl_keeps (g := State.cores) (fun s o => State.updOra_cores s o _) allOras u
  refine ⟨_, slowTierZeroing_acts h, ?_⟩
  dsimp only
  rw [hslow, hzero, hcores]
  refine ⟨fun b hlo hhi => Fm.get_clearRange 0 s.slow hlo hhi, fun b hout => ?_, rfl, rfl⟩
  refine (Fm.get_filter_key 0 (fun i => decide (i < base) || decide (base + size ≤ i)) b s.slow).trans (if_pos ?_)
  simpa using hout

end

/-- Settles O39: each change begins where its letter is in order, by its own lemma. -/
theorem gardenLettersBeginTheirChanges : Obligations.GardenLettersBeginTheirChanges := by
  intro s ch a
  refine ⟨fun bs i pl ts hstate hread himage hplan hwin hcores hreserve hplace hroute h => ?_,
    fun _ h h' ht => ⟨_, gardenRelease_turn ht, gardenRelease_releasing h h'⟩,
    fun hpeer hstate hfree htaken hfields hconn hroom hwin hreach hzero ht => ?_, fun hstate hstep hrest hno ht =>
      ⟨fun htaint hempty heng => ⟨_, sealStep_turn ht, sealStep_seals_facts hstate hstep hrest hno htaint hempty heng⟩,
        fun htaint => ⟨_, sealStep_turn ht, sealStep_tainted_facts hstate hstep hrest hno htaint⟩⟩,
    fun bs p hstate hread hplan hat haligned ht => ?_, fun p hstart hn hn64 hlast hstore hhost ht => ?_,
    fun j hg hfind => memFillComplete_acts hg hfind, fun base size h => slowTierZeroing_zeroes h⟩
  · exact (gardenLoad_turn h).trans (congrArg Host.Outcome.next
      (gardenLoad_loads hstate hread himage hplan hwin hcores hreserve hplace hroute))
  · obtain ⟨u, j, hj, hkind⟩ := protectSet_begins hpeer hstate hfree htaken hfields hconn hroom hwin hreach hzero
    refine ⟨_, protectSet_turn ht, ?_, protectSet_slow s a⟩
    dsimp only
    rw [hj]
    exact begin_job hkind
  · exact (updatePlan_turn ht).trans (congrArg Host.Outcome.next (updatePlan_begins hstate hread hplan hat haligned))
  · exact (memFill_turn ht).trans (congrArg Host.Outcome.next (memFill_begins hstart hn hn64 hlast hstore hhost))

end Sys2Proof.Machine

/-! ## Checkpoints (R427-R437, R574, R580, R605-R609) -/

namespace Sys2Proof.Machine

/-! ### What reading and answering leave of the icehouse -/

theorem taint_ice (s : State) (g reason : Nat) : (s.taint g reason).ice = s.ice := (congrArg State.ice (taint_beside s g reason) :)

theorem taintOpt_ice (s : State) (g : Option Nat) (reason : Nat) : (s.taintOpt g reason).ice = s.ice :=
  (congrArg State.ice (taintOpt_beside s g reason) :)

theorem findErrs_ice (s : State) (o : Nat) (read : Nat → Bool) (g : Option Nat) (op : Nat) : (s.findErrs o read g op).ice = s.ice :=
  (congrArg State.ice (findErrs_beside s o read g op) :)

theorem touchRanges_ice (s : State) (g : Nat) (rs : List (Nat × Nat)) : (s.touchRanges g rs).ice = s.ice := by
  refine foldl_keeps (g := State.ice) (fun s r => ?_) rs s
  split
  · rfl
  · exact foldl_keeps (g := State.ice) (fun s o => findErrs_ice s o _ _ _) allOras s

theorem noteWords_ice (s : State) (c : Nat) (ws : List Nat) : (s.noteWords c ws).ice = s.ice := by
  unfold State.noteWords
  split
  · rfl
  · split <;> rfl

theorem coreUe_ice (s : State) (c op : Nat) : (s.coreUe c op).ice = s.ice := taintOpt_ice _ _ _

theorem spadTouch_ice (s : State) (c off n op : Nat) : (s.spadTouch c off n op).ice = s.ice := by
  unfold State.spadTouch
  dsimp only
  split
  · rfl
  · split
    · rfl
    · rw [coreUe_ice, noteWords_ice, State.updPav_ice, State.updCore_ice]

theorem disarmAll_ice (s : State) (g : Nat) : (s.disarmAll g).ice = s.ice :=
  foldl_keeps (g := State.ice) (fun s o => State.updOra_ice s o _) allOras s

theorem putJob_ice (s : State) (j : Job) : (s.putJob j).ice = s.ice := rfl

theorem iceNext_ice (s : State) : s.iceNext.ice = s.ice := by
  unfold State.iceNext
  split
  · rfl
  · split
    · rfl
    · dsimp only
      split
      · rw [putJob_ice, State.updPost_ice]
      · rw [disarmAll_ice, putJob_ice, State.updPost_ice]

theorem OnlyMail.ice {s t : State} (h : OnlyMail s t) : t.ice = s.ice := (congrArg State.ice h :)

theorem endJob_ice (s : State) (j : Job) (body : List Byte) : (s.endJob j body).ice = s.ice := by
  unfold State.endJob State.answerJob
  split
  · rfl
  · exact (place_only _ _ _).ice

theorem eraseBlocks_ice (s : State) (n : Nat) : (s.eraseBlocks n).ice.erased = s.ice.erased + n ∧
    (s.eraseBlocks n).ice.checkpoints = s.ice.checkpoints := by
  unfold State.eraseBlocks
  dsimp only
  split <;> exact ⟨rfl, rfl⟩

/-! ### Takes -/

section
variable {s : State} {ch g : Nat} {a : Accepted}

theorem checkpointTake_begins (hstate : s.gState a.letter.garden = gLoaded ∨ s.gState a.letter.garden = gRunning)
    (hno : s.taking a.letter.garden = false) (hroom : mib (s.takeSize a.letter.garden) ≤ s.ckptFree) :
    s.checkpointTake a = ((((s.newImage a.letter.garden).2.beginIce a
      { kind := .take, garden := a.letter.garden, arg := s.ice.nextCkpt }).captureNow s.ice.nextCkpt a.letter.garden).iceNext) := by
  have hstate' : ¬((s.gState a.letter.garden ≠ gLoaded ∧ s.gState a.letter.garden ≠ gRunning) ∨ s.taking a.letter.garden = true) := by
    rw [hno]
    rintro (hbad | hbad)
    · exact hstate.elim hbad.1 hbad.2
    · exact Bool.false_ne_true hbad
  unfold State.checkpointTake
  dsimp only
  rw [if_neg hstate', if_neg (Nat.not_lt.mpr hroom)]
  rfl

theorem onGarden_next (hg : g < 4) (f : State → State) : onGarden g s f = .next (f s) := if_pos hg

theorem checkpointCapture_acts {j : Job} (hg : g < 4) (hj : s.iceJobOf g Job.takes = some j) (hcap : ∀ c, s.image j.arg = some c → c.captured = false)
    (hquiet : s.engAll g (· = engNone) = true ∨ (s.engAll g (· = engCollect) = true ∧ ∀ k ∈ s.post.jobs, k.kind = .seal → k.garden ≠ g)) :
    execCheckpointCapture g s = .next (s.capture j.arg g) := by
  have hcap' : (s.image j.arg).any (fun c => c.captured) = false := by
    rw [Option.any_eq_false]
    intro c hc
    rw [hcap c hc]
  have hseal : ((s.engAll g (· = engCollect) && !(s.post.jobs.any fun k => k.kind = .seal && k.garden = g)) || s.engAll g (· = engNone)) = true := by
    rw [Bool.or_eq_true, Bool.and_eq_true]
    refine hquiet.symm.imp_left fun ⟨hcollect, hno⟩ => ⟨hcollect, ?_⟩
    simpa using hno
  refine (onGarden_next hg _).trans (congrArg Host.Outcome.next ?_)
  dsimp only
  rw [hj]
  dsimp only
  rw [hcap', hseal]
  rfl

/-- An image whose take is complete (R432, R433). -/
def State.wholeImage (s : State) (g : Nat) (c : Checkpoint) : Checkpoint :=
  let place := if c.loaded then (s.garden g).place else []
  let scratch := place.map fun e => (e.1, (s.core e.2).spad)
  let d := { c with slowBytes := Fm.putAll 0 (s.viewBytes g c.rest) c.slowBytes, scratch := scratch, complete := true, done := s.now }
  { d with content := Config.sha384 d.contentBytes }

/-- What completing a take reads, and what it erases for the image. -/
def State.takeRead (s : State) (g : Nat) (c : Checkpoint) : State :=
  let place := if c.loaded then (s.garden g).place else []
  place.foldl (fun s e => s.spadTouch e.2 0 spadBytes 0x6050) ((s.putImage (s.wholeImage g c)).touchRanges g c.rest)

theorem takeComplete_acts {j : Job} {c : Checkpoint} (hg : g < 4) (hj : s.iceJobOf g Job.takes = some j) (hc : s.image j.arg = some c)
    (hcap : c.captured = true) (hlost : c.lost = false) :
    execTakeComplete g s = .next (((((s.takeRead g c).eraseBlocks (blocksFor c.size)).vouch.endJob j
      (leBytes 4 c.id ++ leBytes 4 0 ++ leBytes 8 c.step))).iceNext) := by
  refine (onGarden_next hg _).trans (congrArg Host.Outcome.next ?_)
  dsimp only
  rw [hj]
  dsimp only
  rw [hc]
  dsimp only
  rw [if_neg (by rw [hcap]; decide), if_neg (by rw [hlost]; decide)]
  rfl

theorem takeComplete_lost {j : Job} {c : Checkpoint} (hg : g < 4) (hj : s.iceJobOf g Job.takes = some j) (hc : s.image j.arg = some c)
    (hcap : c.captured = true) (hlost : c.lost = true) : execTakeComplete g s = .next (s.failTake j) := by
  refine (onGarden_next hg _).trans (congrArg Host.Outcome.next ?_)
  dsimp only
  rw [hj]
  dsimp only
  rw [hc]
  dsimp only
  rw [if_neg (by rw [hcap]; decide), if_pos hlost]

theorem takeRead_ice (s : State) (g : Nat) (c : Checkpoint) : (s.takeRead g c).ice = (s.putImage (s.wholeImage g c)).ice := by
  unfold State.takeRead
  dsimp only
  rw [foldl_keeps (g := State.ice) (fun s e => spadTouch_ice s _ _ _ _), touchRanges_ice]

theorem putImage_mem {c d : Checkpoint} (hc : s.image d.id = some c) : d ∈ (s.putImage d).ice.checkpoints := by
  have hid := List.find?_some hc
  exact List.mem_map.mpr ⟨c, List.mem_of_find?_eq_some hc, if_pos (by simpa using hid)⟩

theorem vouch_mem {d : Checkpoint} (hd : d ∈ s.ice.checkpoints) :
    ∃ e ∈ s.vouch.ice.checkpoints, e.id = d.id ∧ e.complete = d.complete ∧ e.done = d.done ∧ e.step = d.step := by
  refine ⟨_, List.mem_map.mpr ⟨d, hd, rfl⟩, ?_⟩
  split <;> exact ⟨rfl, rfl, rfl, rfl⟩

theorem vouch_erased (s : State) : s.vouch.ice.erased = s.ice.erased := rfl

/-- R429-R432: a take that completes leaves its image whole, and has erased its blocks. -/
theorem takeComplete_completes {j : Job} {c : Checkpoint} (hg : g < 4) (hj : s.iceJobOf g Job.takes = some j) (hc : s.image j.arg = some c)
    (hcap : c.captured = true) (hlost : c.lost = false) :
    Completes (execTakeComplete g s) fun t => t.slow = s.slow ∧ t.ice.erased = s.ice.erased + blocksFor c.size ∧
      ∃ d ∈ t.ice.checkpoints, d.id = c.id ∧ d.complete = true ∧ d.done = s.now ∧ d.step = c.step := by
  have hacts := takeComplete_acts hg hj hc hcap hlost
  have hid : c.id = j.arg := by
    have hfound := List.find?_some hc
    simpa using hfound
  have hmem : s.wholeImage g c ∈ (s.putImage (s.wholeImage g c)).ice.checkpoints :=
    putImage_mem (c := c) (by rw [show (s.wholeImage g c).id = c.id from rfl, hid, hc])
  obtain ⟨herased, hcheck⟩ := eraseBlocks_ice (s.takeRead g c) (blocksFor c.size)
  rw [← takeRead_ice, ← hcheck] at hmem
  obtain ⟨e, he, heid, hecomplete, hedone, hestep⟩ := vouch_mem hmem
  refine ⟨_, hacts, ?_, ?_, e, ?_, heid, hecomplete, hedone, hestep⟩
  · exact congrArg Prod.fst (execTakeComplete_kept g s _ hacts)
  · rw [iceNext_ice, endJob_ice, vouch_erased, herased, takeRead_ice]
    rfl
  · rw [iceNext_ice, endJob_ice]
    exact he

/-! ### Lists, drops and restores -/

theorem checkpointTake_turn (h : letterTurn s 0x50 ch a = true) : execCheckpointTake ch s = .next (s.checkpointTake a) := onLetter_turn h _
theorem checkpointDrop_turn (h : letterTurn s 0x53 ch a = true) : execCheckpointDrop ch s = .next (s.checkpointDrop a) := onLetter_turn h _
theorem checkpointRestore_turn (h : letterTurn s 0x52 ch a = true) : execCheckpointRestore ch s = .next (s.checkpointRestore a) := onLetter_turn h _

theorem checkpointList_acts (h : letterTurn s 0x51 ch a = true) :
    let cs := s.ice.checkpoints.filter fun c => c.complete && s.asksOf a c.garden
    execCheckpointList ch s = .next (s.reply a (leBytes 2 cs.length ++ cs.flatMap checkpointRecord)) := onLetter_turn h _

theorem checkpointDrop_drops {c : Checkpoint} (hc : s.image (a.letter.field 0 4) = some c) (hwhole : c.complete = true)
    (hread : s.reading (a.letter.field 0 4) = none) : s.checkpointDrop a = (s.dropImage (a.letter.field 0 4)).reply a [] := by
  unfold State.checkpointDrop
  dsimp only
  rw [hc]
  dsimp only
  rw [if_neg (by rw [hwhole]; decide), hread]

theorem checkpointDrop_none (hc : s.image (a.letter.field 0 4) = none) :
    s.checkpointDrop a = s.dead a dCheckpoint { unit := 12, offset := 0 } := by
  unfold State.checkpointDrop
  dsimp only
  rw [hc]

theorem checkpointRestore_begins {c : Checkpoint} (hstate : s.gState a.letter.garden = gLoaded) (hc : s.image (a.letter.field 0 4) = some c)
    (hmay : s.mayRestore a.letter.garden c = true) (hfits : s.restoreFits a.letter.garden c = true) :
    s.checkpointRestore a = (s.beginIce a { kind := .restore, garden := a.letter.garden, arg2 := c.id }).iceNext := by
  unfold State.checkpointRestore
  dsimp only
  rw [if_neg (not_not.mpr hstate), hc]
  dsimp only
  rw [if_neg (by rw [hmay]; decide), if_neg (by rw [hfits]; decide)]

/-- The icehouse's job is of the garden it is asked for. -/
theorem iceJobOf_facts {which : Job → Bool} {j : Job} (h : s.iceJobOf g which = some j) : j.garden = g ∧ which j = true := by
  unfold State.iceJobOf at h
  split at h
  next k _ =>
    split at h
    next hk =>
      obtain rfl := Option.some.inj h
      simpa using hk
    next => exact absurd h (by simp)
  next => exact absurd h (by simp)

theorem restoreDone_writes {j : Job} {c : Checkpoint} (heng : (s.disarmAll j.garden).engAll j.garden (· = engNone) = true)
    (hc : (s.disarmAll j.garden).image j.arg2 = some c) (hlost : c.lost = false) :
    s.restoreDone j = (((if (((s.disarmAll j.garden).writeImage j.garden c).garden j.garden).down.isSome = true
      then ((s.disarmAll j.garden).writeImage j.garden c).endDown j.garden 5 true
      else (s.disarmAll j.garden).writeImage j.garden c).endJob j (leBytes 8 c.step)).iceNext) := by
  unfold State.restoreDone
  dsimp only
  rw [if_neg (by rw [heng]; decide), hc]
  dsimp only
  rw [if_neg (by rw [hlost]; decide)]

theorem autoRestoreDone_writes {j : Job} {c : Checkpoint} (heng : (s.disarmAll j.garden).engAll j.garden (· = engNone) = true)
    (hc : (s.disarmAll j.garden).image j.arg2 = some c) (hlost : c.lost = false) (hmay : (s.disarmAll j.garden).mayRestore j.garden c = true)
    (hfits : (s.disarmAll j.garden).restoreFits j.garden c = true) :
    s.autoRestoreDone j = ((((s.disarmAll j.garden).writeImage j.garden c).putJob { j with phase := 3 }).updPost
      fun p => { p with iceJob := none }).iceNext := by
  unfold State.autoRestoreDone
  dsimp only
  rw [if_neg (by rw [heng]; decide), hc]
  dsimp only
  rw [if_neg (by rw [hlost, hmay, hfits]; decide)]

theorem restoreComplete_acts {j : Job} (hg : g < 4) (hj : s.iceJobOf g (fun j => j.kind = .restore || j.kind = .autoRestore) = some j) :
    execRestoreComplete g s = .next (if j.kind = .restore then s.restoreDone j else s.autoRestoreDone j) := by
  refine (onGarden_next hg _).trans (congrArg Host.Outcome.next ?_)
  rw [hj]

theorem autoCheckpoint_acts (hg : g < 4) (htime : s.takeTime g = true) (hvouched : ∀ c, s.newestImage g = some c → s.vouched c = true)
    (hno : s.taking g = false) (hroom : mib (s.takeSize g) ≤ s.ckptFree) :
    execAutoCheckpoint g s = .next (((s.newImage g).2.addJob { kind := .autoTake, garden := g, arg := s.ice.nextCkpt }).iceNext) := by
  have hall : (s.newestImage g).all s.vouched = true := by
    rw [Option.all_eq_true]
    exact hvouched
  refine (onGarden_next hg _).trans (congrArg Host.Outcome.next ?_)
  dsimp only
  rw [if_neg (by rw [htime, hall, hno, decide_eq_false (Nat.not_lt.mpr hroom)]; decide)]
  rfl

theorem icehouseStatus_acts (h : letterTurn s 0x54 ch a = true) :
    let r0 := s.ihRead 0x000
    let r1 := r0.2.ihRead 0x008
    let r2 := r1.2.ihRead 0x010
    let r3 := r2.2.ihRead 0x018
    let r4 := r3.2.ihRead 0x020
    execIcehouseStatus ch s = .next (r4.2.reply a ([r0.1, r1.1, r2.1, r3.1, r4.1].flatMap fun w => leBytes 8 w.toNat)) := onLetter_turn h _

end

/-- Settles O40: each command by its branch, with what a completed take leaves of the icehouse. -/
theorem checkpointsAreTakenAndRestored : Obligations.CheckpointsAreTakenAndRestored := by
  intro s ch g a
  refine ⟨fun hstate hno hroom h => ?_, fun j hg hj _ hcap hquiet => checkpointCapture_acts hg hj hcap hquiet,
    fun j c hg hj hc hcap => ⟨fun hlost => takeComplete_lost hg hj hc hcap hlost, fun hlost => takeComplete_completes hg hj hc hcap hlost⟩,
    fun h => checkpointList_acts h, fun c hc hwhole hread h => ?_, fun hc h => ?_, fun c hstate hc hmay hfits h => ?_,
    fun j c hg hj heng hc hlost => ?_, fun h => icehouseStatus_acts h,
    fun hg htime hvouched hno hroom => autoCheckpoint_acts hg htime hvouched hno hroom⟩
  · exact (checkpointTake_turn h).trans (congrArg Host.Outcome.next (checkpointTake_begins hstate hno hroom))
  · exact (checkpointDrop_turn h).trans (congrArg Host.Outcome.next (checkpointDrop_drops hc hwhole hread))
  · exact (checkpointDrop_turn h).trans (congrArg Host.Outcome.next (checkpointDrop_none hc))
  · exact (checkpointRestore_turn h).trans (congrArg Host.Outcome.next (checkpointRestore_begins hstate hc hmay hfits))
  · obtain ⟨rfl, -⟩ := iceJobOf_facts hj
    have hacts := restoreComplete_acts hg hj
    refine ⟨fun hkind hdown => ?_, fun hkind hdown => ?_, fun hkind hmay hfits => ?_⟩
    · refine hacts.trans (congrArg Host.Outcome.next ((if_pos hkind).trans ((restoreDone_writes heng hc hlost).trans ?_)))
      rw [hdown, if_neg (by decide)]
    · refine hacts.trans (congrArg Host.Outcome.next ((if_pos hkind).trans ((restoreDone_writes heng hc hlost).trans ?_)))
      rw [if_pos (Option.isSome_iff_ne_none.mpr hdown)]
    · exact hacts.trans (congrArg Host.Outcome.next ((if_neg (by rw [hkind]; decide)).trans
        (autoRestoreDone_writes heng hc hlost hmay hfits)))

end Sys2Proof.Machine

/-! ## The icehouse's NAND (R418-R426) -/

namespace Sys2Proof.Machine

theorem Ice.getF_setF_same (k : Ice) (f : Fld) (v : Nat) (h : f.lo + f.w ≤ 64) : (k.setF f v).getF f = v % 2 ^ f.w :=
  Machine.getF_setF_same f v k.regs h

theorem Ice.getF_setF_other (k : Ice) {f g : Fld} (v : Nat) (h : f.lo + f.w ≤ 64)
    (hd : g.off ≠ f.off ∨ (g.blk = f.blk ∧ (g.lo + g.w ≤ f.lo ∨ f.lo + f.w ≤ g.lo))) : (k.setF f v).getF g = k.getF g :=
  Machine.getF_setF_other f g v k.regs h hd

section
variable {s : State} {n : Nat}

/-! ### Readings -/

theorem updIce_onlyIce (s : State) (f g : Ice → Ice) : { (s.updIce f).updIce g with ice := s.ice } = s := rfl

theorem updIce_softBlocks (s : State) (b : Nat) :
    b ∈ (s.updIce fun h => { h with softBlocks := sins b h.softBlocks }).ice.softBlocks := mem_sins.mpr (Or.inl rfl)

theorem readStripe_soft {r : StripeReading} (hlost : r.lost = false) (hsoft : 0 < r.soft) :
    { (s.readStripe r) with ice := s.ice } = s ∧ r.block ∈ (s.readStripe r).ice.softBlocks := by
  unfold State.readStripe
  dsimp only
  rw [if_pos hsoft, if_neg (by rw [hlost]; decide)]
  exact ⟨updIce_onlyIce s _ _, updIce_softBlocks _ _⟩

theorem refreshRead_acts (rs : List StripeReading) (hready : s.iceReady = true) (hdue : s.ice.refreshed ≠ s.refreshPeriod + 1) :
    execRefreshRead rs s = .next (rs.foldl State.readStripe (s.updIce fun h => { h with refreshed := s.refreshPeriod + 1 })) :=
  if_neg (by simp [hready, hdue])

theorem refreshRead_done (rs : List StripeReading) (hdone : s.ice.refreshed = s.refreshPeriod + 1) : execRefreshRead rs s = .next s :=
  if_pos (by simp [hdone])

theorem powerOnScan_acts (rs : List StripeReading) (hready : s.iceReady = true) (hscan : s.ice.getF Reg.IH_STATUS_SCAN ≠ 0) :
    execPowerOnScan rs s = .next ((rs.foldl State.readStripe s).updIce fun h => h.setF Reg.IH_STATUS_SCAN 0) :=
  if_neg (by simp [hready, hscan])

theorem powerOnScan_done (rs : List StripeReading) (hscan : s.ice.getF Reg.IH_STATUS_SCAN = 0) : execPowerOnScan rs s = .next s :=
  if_pos (by simp [hscan])

theorem scanEnds (s : State) : (s.updIce fun h => h.setF Reg.IH_STATUS_SCAN 0).ice.getF Reg.IH_STATUS_SCAN = 0 :=
  Ice.getF_setF_same _ _ _ (by decide)

/-! ### Blocks -/

/-- A block is rewritten. -/
def State.rewritten (s : State) (n : Nat) : State :=
  s.updIce fun h =>
    { (h.incF Reg.IH_CNT_REFRESH 1) with softBlocks := sdel n h.softBlocks, written := Fm.set 0 n s.now h.written }

theorem retentionRewrite_acts (hn : n < nandBlocks) (hready : s.iceReady = true)
    (hdue : n ∈ s.ice.softBlocks ∨ Fm.get 0 n s.ice.written + 180 * 86400 * ticksPerSec ≤ s.now) :
    execRetentionRewrite n s = .next ((s.rewritten n).eraseBlocks 1) := by
  refine (onUnit_next (decide_eq_true hn)).trans (congrArg Host.Outcome.next (if_neg ?_))
  have hdue' : (s.ice.softBlocks.contains n || decide (Fm.get 0 n s.ice.written + 180 * 86400 * ticksPerSec ≤ s.now)) = true := by
    rw [Bool.or_eq_true, List.contains_iff_mem, decide_eq_true_eq]
    exact hdue
  rw [hready, hdue']
  decide

theorem eraseBlocks_stores (s : State) (k : Nat) : (s.eraseBlocks k).ice.softBlocks = s.ice.softBlocks ∧
    (s.eraseBlocks k).ice.written = s.ice.written := by
  unfold State.eraseBlocks
  dsimp only
  split <;> exact ⟨rfl, rfl⟩

theorem rewritten_rewrites (s : State) (n : Nat) : ((s.rewritten n).eraseBlocks 1).ice.erased = s.ice.erased + 1 ∧
    n ∉ ((s.rewritten n).eraseBlocks 1).ice.softBlocks ∧ Fm.get 0 n ((s.rewritten n).eraseBlocks 1).ice.written = s.now ∧
    ((s.rewritten n).eraseBlocks 1).slow = s.slow := by
  obtain ⟨hsoft, hwritten⟩ := eraseBlocks_stores (s.rewritten n) 1
  obtain ⟨herased, -⟩ := eraseBlocks_ice (s.rewritten n) 1
  have hslow : ((s.rewritten n).eraseBlocks 1).slow = (s.rewritten n).slow := congrArg Prod.fst (State.eraseBlocks_kept (s.rewritten n) 1)
  rw [hsoft, hwritten, herased, hslow]
  exact ⟨rfl, fun hmem => (mem_sdel.mp hmem).2 rfl, Fm.get_set_same _ _ _ _, rfl⟩

/-- A block that failed to program is retired (R422). -/
def Ice.retireBlock (n : Nat) (h : Ice) : Ice :=
  let used := min 128 (Fm.get 0 (n / 7296) h.spares + 1)
  let h := { h.incF Reg.IH_CNT_GROWN 1 with grown := sins n h.grown, softBlocks := sdel n h.softBlocks, spares := Fm.set 0 (n / 7296) used h.spares }
  if 128 - used < 16 then h.setF Reg.IH_STATUS_SPARELOW 1 else h

theorem programFail_acts (hn : n < nandBlocks) (hready : s.iceReady = true) (hgrown : n ∉ s.ice.grown) :
    execProgramFail n s = .next (s.updIce (Ice.retireBlock n)) := by
  refine (onUnit_next (decide_eq_true hn)).trans (congrArg Host.Outcome.next (if_neg ?_))
  simpa [hready] using hgrown

theorem retireBlock_retires (n : Nat) (h : Ice) : n ∈ (h.retireBlock n).grown ∧
    Fm.get 0 (n / 7296) (h.retireBlock n).spares = min 128 (Fm.get 0 (n / 7296) h.spares + 1) ∧
    (112 < Fm.get 0 (n / 7296) (h.retireBlock n).spares → (h.retireBlock n).getF Reg.IH_STATUS_SPARELOW = 1) := by
  unfold Ice.retireBlock
  dsimp only
  split
  · exact ⟨mem_sins.mpr (Or.inl rfl), Fm.get_set_same _ _ _ _, fun _ => Ice.getF_setF_same _ _ _ (by decide)⟩
  next hlow =>
    refine ⟨mem_sins.mpr (Or.inl rfl), Fm.get_set_same _ _ _ _, fun hused => absurd hused ?_⟩
    rw [Fm.get_set_same]
    omega

/-! ### Dies -/

/-- A die answers no more. -/
def State.dieGone (s : State) (n : Nat) : State :=
  s.updIce fun h => { (h.setF Reg.IH_STATUS_DEGRADED 1).incF Reg.IH_STATUS_DIESLOST 1 with diesLost := sins n h.diesLost }

theorem dieLost_acts (hn : n < 128) (hlost : n ∉ s.ice.diesLost) : execDieLost n s = .next (s.dieGone n).iceIncident := by
  refine (onUnit_next (decide_eq_true hn)).trans (congrArg Host.Outcome.next (if_neg ?_))
  simpa using hlost

theorem dieLost_again (hn : n < 128) (hlost : n ∈ s.ice.diesLost) : execDieLost n s = .next s := by
  refine (onUnit_next (decide_eq_true hn)).trans (congrArg Host.Outcome.next (if_pos ?_))
  simpa using hlost

theorem iceIncident_ice (s : State) : s.iceIncident.ice = s.ice := rfl
theorem iceIncident_slow (s : State) : s.iceIncident.slow = s.slow := rfl

theorem dieGone_degraded (s : State) (n : Nat) : (s.dieGone n).ice.getF Reg.IH_STATUS_DEGRADED = 1 := by
  have hinc (h : Ice) (k : Nat) : (h.incF Reg.IH_STATUS_DIESLOST k).getF Reg.IH_STATUS_DEGRADED = h.getF Reg.IH_STATUS_DEGRADED :=
    Machine.getF_setF_other _ _ _ h.regs (by decide) (by decide)
  exact (hinc _ _).trans (Ice.getF_setF_same _ _ _ (by decide))

/-- A die is trained at a temperature (R418). -/
def Ice.retrain (n : Nat) (temp : Int) (h : Ice) : Ice := { h with dieTemp := Fm.put n (temp8 temp) h.dieTemp, trained := sins n h.trained }

theorem nandRetrain_acts {temp : Int} (hn : n < 128) (hlost : n ∉ s.ice.diesLost)
    (hmoved : ∀ t, Fm.look n s.ice.dieTemp = some t → 15 ≤ (temp - ofTemp8 t).natAbs) :
    execNandRetrain n temp s = .next (s.updIce (Ice.retrain n temp)) := by
  refine (onUnit_next (decide_eq_true hn)).trans (congrArg Host.Outcome.next (if_neg ?_))
  cases hlook : Fm.look n s.ice.dieTemp with
  | none => simpa using hlost
  | some t => simpa [hmoved t hlook] using hlost

end

/-- Settles O41: each command by its branch, with what it leaves of the store. -/
theorem theIcehouseKeepsItsNand : Obligations.TheIcehouseKeepsItsNand := by
  intro s n
  refine ⟨fun rs hready hdue => refreshRead_acts rs hready hdue, fun rs hdone => refreshRead_done rs hdone,
    fun r hlost hsoft => ⟨_, rfl, readStripe_soft hlost hsoft⟩,
    fun hn hready hdue => ⟨_, retentionRewrite_acts hn hready hdue, rewritten_rewrites s n⟩,
    fun rs hready hscan => ⟨_, powerOnScan_acts rs hready hscan, rfl, scanEnds _⟩, fun rs hscan => powerOnScan_done rs hscan,
    fun hn hready hgrown => ⟨_, programFail_acts hn hready hgrown, rfl, retireBlock_retires n s.ice⟩,
    fun hn hlost => ⟨_, dieLost_acts hn hlost, ?_⟩, fun hn hlost => dieLost_again hn hlost,
    fun temp hn hlost hmoved => ⟨_, nandRetrain_acts hn hlost hmoved, rfl, mem_sins.mpr (Or.inl rfl), Fm.look_put_same _ _ _⟩⟩
  dsimp only
  rw [iceIncident_ice, iceIncident_slow]
  exact ⟨mem_sins.mpr (Or.inl rfl), dieGone_degraded s n, rfl⟩

end Sys2Proof.Machine

/-! ## Wardens, patrols and recovery (R543-R576) -/

namespace Sys2Proof.Machine

section
variable {s : State} {c g : Nat}

/-! ### Wardens -/

theorem wardenJudge_waits (h : (s.core c).outbox = [] ∨ s.wardenNext (pavOf c) ≠ some c) : execWardenJudge (pavOf c) c s = .next s := by
  unfold execWardenJudge onUnit
  split
  · refine congrArg Host.Outcome.next ?_
    dsimp only
    split
    next => rfl
    next r rest hbox =>
      rw [hbox] at h
      exact if_pos (h.resolve_left (List.cons_ne_nil _ _))
  · rfl

/-- The record taken from an outbox, and counted (R540). -/
def State.recordTaken (s : State) (c : Nat) (rest : List (List Word)) : State :=
  let p := pavOf c
  let before := Fm.get 0 (coreIdx c) (s.pav p).beforeMark
  (s.updCore c fun k => { k with outbox := rest }).updPav p fun v =>
    { v.incF Reg.WD_PAV_CNT_JUDGED 1 with warden := coreIdx c + 1, beforeMark := Fm.set 0 (coreIdx c) (before - 1) v.beforeMark }

/-- The record is judged by the envelopes of the pavilion's owner (R543). -/
def State.recordJudged (s : State) (c : Nat) (r : List Word) (rest : List (List Word)) : State :=
  let v := s.pav (pavOf c)
  let next := v.sealMark && Fm.get 0 (coreIdx c) v.beforeMark = 0
  match v.owner with
  | none => s.recordTaken c rest
  | some g => if judge v.envelopes r = 0 then s.recordTaken c rest else (s.recordTaken c rest).wardenFail g c (judge v.envelopes r) next r

theorem wardenJudge_acts {r : List Word} {rest : List (List Word)} (hc : c < Config.coreSites) (hbox : (s.core c).outbox = r :: rest)
    (hturn : s.wardenNext (pavOf c) = some c) : execWardenJudge (pavOf c) c s = .next (s.recordJudged c r rest) := by
  have hp : pavOf c < Config.pavilions := pavOf_lt hc
  refine (onUnit_next (by simp [hc, hp])).trans (congrArg Host.Outcome.next ?_)
  rw [hbox]
  dsimp only
  rw [if_neg (not_not.mpr hturn)]
  rfl

theorem taint_pavs (s : State) (g reason : Nat) : (s.taint g reason).pavs = s.pavs := (congrArg State.pavs (taint_beside s g reason) :)
theorem taint_sites (s : State) (g reason : Nat) : (s.taint g reason).sites = s.sites := (congrArg State.sites (taint_beside s g reason) :)

/-- The counters of a failed record (R545). -/
def Pav.recordFailed (cause : Nat) (v : Pav) : Pav :=
  (v.incF Reg.WD_PAV_CNT_FAILED 1).incF Reg.WD_PAV_CNT_UNKNOWN (if cause = 9 then 1 else 0)

theorem Pav.incF_warden (v : Pav) (f : Fld) (n : Nat) : (v.incF f n).warden = v.warden := rfl

theorem recordFailed_keeps (cause : Nat) (v : Pav) : (v.recordFailed cause).warden = v.warden ∧
    (v.recordFailed cause).getF Reg.WD_PAV_CNT_JUDGED = v.getF Reg.WD_PAV_CNT_JUDGED :=
  ⟨(Pav.incF_warden _ _ _).trans (Pav.incF_warden _ _ _), (Pav.getF_incF_other _ _ (by decide) (by decide)).trans (Pav.getF_incF_other _ _ (by decide) (by decide))⟩

theorem markSite_cores (s : State) (c : Nat) : (s.markSite c).cores = s.cores := rfl
theorem markSite_pavs (s : State) (c : Nat) : (s.markSite c).pavs = s.pavs := rfl
theorem report_pavs (s : State) (i : Incident) : (s.report i).pavs = s.pavs := rfl
theorem incWd_updPav_pavs (s : State) (f : Fld) (n p : Nat) (h : Pav → Pav) : ((s.incWd f n).updPav p h).pavs = (s.updPav p h).pavs := rfl

/-- The taint of a failed record: of the step it belongs to. -/
def State.taintStep (s : State) (g : Nat) (next : Bool) : State :=
  if next then s.updGarden g fun d => if d.nextTaint = 0 then { d with nextTaint := 1 } else d else s.taint g 1

theorem taintStep_cores (s : State) (g : Nat) (next : Bool) : (s.taintStep g next).cores = s.cores := by
  cases next
  · exact taint_cores s g 1
  · rfl

theorem taintStep_pavs (s : State) (g : Nat) (next : Bool) : (s.taintStep g next).pavs = s.pavs := by
  cases next
  · exact taint_pavs s g 1
  · rfl

theorem wardenFail_cores (s : State) (g c cause : Nat) (next : Bool) (r : List Word) : (s.wardenFail g c cause next r).cores = s.cores :=
  (taintStep_cores _ g next).trans <| (markSite_cores _ _).trans <| (State.updGarden_cores _ _ _).trans <| (report_cores _ _).trans <|
    (State.updPav_cores _ _ _).trans (State.incWd_cores _ _ _)

theorem wardenFail_pavs (s : State) (g c cause : Nat) (next : Bool) (r : List Word) :
    (s.wardenFail g c cause next r).pavs = (s.updPav (pavOf c) (Pav.recordFailed cause)).pavs :=
  (taintStep_pavs _ g next).trans <| (markSite_pavs _ _).trans <| (State.updGarden_pavs _ _ _).trans <| (report_pavs _ _).trans <|
    incWd_updPav_pavs _ _ _ _ _

theorem recordTaken_core (s : State) (c : Nat) (rest : List (List Word)) : ((s.recordTaken c rest).core c).outbox = rest := by
  unfold State.recordTaken
  dsimp only
  rw [State.updPav_core_as, State.updCore_same]

theorem recordTaken_pav (s : State) (c : Nat) (rest : List (List Word)) :
    ((s.recordTaken c rest).pav (pavOf c)).warden = coreIdx c + 1 ∧
    ((s.pav (pavOf c)).getF Reg.WD_PAV_CNT_JUDGED < 2 ^ 32 - 1 →
      ((s.recordTaken c rest).pav (pavOf c)).getF Reg.WD_PAV_CNT_JUDGED = (s.pav (pavOf c)).getF Reg.WD_PAV_CNT_JUDGED + 1) := by
  unfold State.recordTaken
  dsimp only
  rw [State.updPav_same]
  refine ⟨rfl, fun hroom => (getF_incF_same Reg.WD_PAV_CNT_JUDGED 1 (s.pav (pavOf c)).regs (by decide)).trans (Nat.min_eq_left ?_)⟩
  exact Nat.succ_le_of_lt hroom

/-- What is asked of the state after a record has been judged. -/
def TakenOver (s : State) (c : Nat) (rest : List (List Word)) (t : State) : Prop :=
  (t.core c).outbox = rest ∧ (t.pav (pavOf c)).warden = coreIdx c + 1 ∧
    ((s.pav (pavOf c)).getF Reg.WD_PAV_CNT_JUDGED < 2 ^ 32 - 1 →
      (t.pav (pavOf c)).getF Reg.WD_PAV_CNT_JUDGED = (s.pav (pavOf c)).getF Reg.WD_PAV_CNT_JUDGED + 1)

theorem wardenFail_taken {rest : List (List Word)} {t : State} (h : TakenOver s c rest t) (g cause : Nat) (next : Bool) (r : List Word) :
    TakenOver s c rest (t.wardenFail g c cause next r) := by
  obtain ⟨hbox, hserved, hcount⟩ := h
  have hpav : (t.wardenFail g c cause next r).pav (pavOf c) = (t.pav (pavOf c)).recordFailed cause :=
    (pav_congr (wardenFail_pavs t g c cause next r) _).trans (State.updPav_same _ _ _)
  obtain ⟨hwarden, hjudged⟩ := recordFailed_keeps cause (t.pav (pavOf c))
  refine ⟨(congrArg Core.outbox (core_congr (wardenFail_cores t g c cause next r) c)).trans hbox, ?_, fun hroom => ?_⟩
  · rw [hpav, hwarden, hserved]
  · rw [hpav, hjudged, hcount hroom]

theorem recordJudged_taken (s : State) (c : Nat) (r : List Word) (rest : List (List Word)) : TakenOver s c rest (s.recordJudged c r rest) := by
  have htaken : TakenOver s c rest (s.recordTaken c rest) := ⟨recordTaken_core s c rest, recordTaken_pav s c rest⟩
  unfold State.recordJudged
  dsimp only
  split
  · exact htaken
  · split
    · exact htaken
    · exact wardenFail_taken htaken _ _ _ _

theorem recordJudged_unowned (h : (s.pav (pavOf c)).owner = none) (r : List Word) (rest : List (List Word)) :
    (s.recordJudged c r rest).gardens = s.gardens ∧ (s.recordJudged c r rest).ice = s.ice := by
  unfold State.recordJudged
  dsimp only
  rw [h]
  exact ⟨rfl, rfl⟩

/-! ### Patrol segments -/

theorem patrolSegment_acts {waited : Nat} (hc : c < Config.coreSites) (hfree : (s.pav (pavOf c)).segRun = none)
    (helig : s.patrolEligible c waited = true) (hfirst : s.patrolFirst c = true) (hseg : (s.site c).nextSegment < 33) :
    execPatrolSegment c (s.site c).nextSegment waited s = .next
      ((s.updSite c fun x =>
        { x with segAt := s.now, began := if (s.site c).nextSegment = 0 && !(s.site c).targeted then s.now else x.began }).updPav (pavOf c)
          fun v => { v with segRun := some (c, (s.site c).nextSegment) }) := by
  refine (onCore_next hc).trans (congrArg Host.Outcome.next (if_neg ?_))
  simp [hfree, helig, hfirst, hseg]

theorem patrolSegmentEnd_acts {seg : Nat} (finding : Finding) (hc : c < Config.coreSites) (hrun : (s.pav (pavOf c)).segRun = some (c, seg)) :
    execPatrolSegmentEnd c finding s = .next (match finding with
      | .pass => (s.applyQueued (pavOf c)).segmentPass c seg
      | .line bank line => (s.applyQueued (pavOf c)).repairLine c (bank % 32 * 6144 + line % 6144)
      | .lane _ _ => (s.applyQueued (pavOf c)).climbTo c 3
      | .failed test => (s.applyQueued (pavOf c)).segmentFail c seg test) := by
  refine (onCore_next hc).trans (congrArg Host.Outcome.next ?_)
  dsimp only
  rw [hrun]
  exact if_neg (not_not.mpr rfl)

theorem patrolAbandon_acts {seg : Nat} (hc : c < Config.coreSites) (hrun : (s.pav (pavOf c)).segRun = some (c, seg))
    (hevent : s.segmentEvent c = true) : execPatrolAbandon c s = .next (s.applyQueued (pavOf c)) := by
  refine (onCore_next hc).trans (congrArg Host.Outcome.next (if_pos ?_))
  simp [Pav.testing, hrun, hevent]

theorem applyQueued_pav (s : State) (p : Nat) : ((s.applyQueued p).pav p).segRun = none ∧ ((s.applyQueued p).pav p).queued = [] := by
  unfold State.applyQueued
  dsimp only
  rw [State.updPav_same]
  exact ⟨rfl, rfl⟩

/-! ### Sites that are retired -/

/-- The sites with the repair map. -/
def State.standing (s : State) : FMap Site × List Repair := (s.sites, s.ice.repairs)

theorem setWd_standing (s : State) (f : Fld) (v : Nat) : (s.setWd f v).standing = s.standing := rfl
theorem incWd_standing (s : State) (f : Fld) (n : Nat) : (s.incWd f n).standing = s.standing := rfl
theorem nextIncident_standing (s : State) (n : Nat) : { s with nextIncident := n }.standing = s.standing := rfl
theorem updIncidents_standing (s : State) (l : List Incident) : (s.updIce fun h => { h with incidents := l }).standing = s.standing := rfl

theorem record_standing (s : State) (i : Incident) : (s.record i).standing = s.standing := by
  unfold State.record
  extract_lets r all
  split
  exact (nextIncident_standing _ _).trans ((incWd_standing _ _ _).trans ((setWd_standing _ _ _).trans (updIncidents_standing _ _)))

theorem raise_standing (s : State) (i : Incident) : (s.raise i).standing = s.standing := by
  unfold State.raise State.log
  split
  · rfl
  · exact record_standing _ _

theorem setShort_standing (s : State) (g : Nat) (short : Bool) : (s.setShort g short).standing = s.standing := by
  unfold State.setShort
  extract_lets was t
  by_cases hsame : was = (if short then 1 else 0)
  · rw [if_pos hsame]
    rfl
  · rw [if_neg hsame]
    exact raise_standing t _

theorem checkShort_standing (s : State) (g : Nat) : (s.checkShort g).standing = s.standing := by
  unfold State.checkShort
  dsimp only
  split <;> exact setShort_standing _ _ _

theorem taint_standing (s : State) (g reason : Nat) : (s.taint g reason).standing = s.standing :=
  Prod.ext (taint_sites s g reason) (congrArg Ice.repairs (taint_ice s g reason))

theorem repair_mem (s : State) (r : Repair) : r ∈ (s.repair r).ice.repairs := by
  unfold State.repair
  split
  next h => exact List.contains_iff_mem.mp h
  next => exact List.mem_append.mpr (Or.inr (List.mem_singleton.mpr rfl))

theorem repair_sites (s : State) (r : Repair) : (s.repair r).sites = s.sites := by unfold State.repair; split <;> rfl

theorem resetIdle_sites (s : State) (c : Nat) : (s.resetIdle c).sites = s.sites := by unfold State.resetIdle; split <;> rfl

/-- The site is marked retired, and its repair entered. -/
def State.siteRetired (s : State) (c cause : Nat) : State :=
  (((s.resetIdle c).updSite c fun x => { x with retired := true }).repair { type := 1, source := 1, unit := c, a := cause, b := 0 }).updIce
    fun h => { h with freq := Fm.upd {} c (fun f => { f with fmax := 3 }) h.freq }

theorem retire_standing (hgood : (s.site c).retired = false) (cause : Nat) : (s.retire c cause).standing = (s.siteRetired c cause).standing := by
  unfold State.retire
  rw [if_neg (by rw [hgood]; decide)]
  change (State.standing (match (match (s.siteRetired c cause).ownerOf c with
      | some g => (s.siteRetired c cause).checkShort g
      | none => s.siteRetired c cause).mappedAt c with
    | some (g, l) => _
    | none => _)) = _
  have hshort : (match (s.siteRetired c cause).ownerOf c with
      | some g => (s.siteRetired c cause).checkShort g
      | none => s.siteRetired c cause).standing = (s.siteRetired c cause).standing := by
    split
    · exact checkShort_standing _ _
    · rfl
  split
  · exact (taint_standing _ _ _).trans hshort
  · exact hshort

theorem siteRetired_site (s : State) (c cause : Nat) : (s.siteRetired c cause).site c = { s.site c with retired := true } := by
  have hsites : (s.siteRetired c cause).sites = ((s.resetIdle c).updSite c fun x => { x with retired := true }).sites := repair_sites _ _
  have hsite : (s.resetIdle c).site c = s.site c := congrArg (Fm.get ({} : Site) c) (resetIdle_sites s c)
  refine (congrArg (Fm.get ({} : Site) c) hsites).trans ((State.updSite_same _ c _).trans ?_)
  rw [hsite]

theorem retire_retires (hgood : (s.site c).retired = false) (cause : Nat) : (s.retire c cause).site c = { s.site c with retired := true } ∧
    ∃ r ∈ (s.retire c cause).ice.repairs, r.type = 1 ∧ r.unit = c := by
  have hstands := retire_standing hgood cause
  have hsites : (s.retire c cause).sites = (s.siteRetired c cause).sites := congrArg Prod.fst hstands
  have hrepairs : (s.retire c cause).ice.repairs = (s.siteRetired c cause).ice.repairs := congrArg Prod.snd hstands
  refine ⟨(congrArg (Fm.get ({} : Site) c) hsites).trans (siteRetired_site s c cause),
    { type := 1, source := 1, unit := c, a := cause, b := 0 }, ?_, rfl, rfl⟩
  rw [hrepairs]
  exact repair_mem _ _

/-! ### Probations, marks and deadlines -/

theorem updSite_onlySites (s : State) (c : Nat) (f : Site → Site) : { (s.updSite c f) with sites := s.sites } = s := rfl

theorem probationEnd_acts {t : Nat} (hc : c < Config.coreSites) (hprob : (s.site c).probation = some t) (hdue : t ≤ s.now)
    (hquiet : (s.site c).event = false) :
    execProbationEnd c s = .next (s.updSite c fun x => { x with probation := none, suspect := false, marks := [] }) := by
  refine (onCore_next hc).trans (congrArg Host.Outcome.next ?_)
  rw [hprob]
  exact if_neg (by simp [hdue, hquiet])

theorem markExpire_acts (hc : c < Config.coreSites) : execMarkExpire c s = .next (s.updSite c fun x =>
    { x with marks := x.marks.filter fun m => s.now < m + s.cfgNat cfgPatrolMin * ticksPerMin }) := onCore_next hc

theorem patrolDeadline_acts (hc : c < Config.coreSites) (hover : s.overdue c = true) (hfirst : (s.site c).forced = none) :
    execPatrolDeadline c s = .next (s.updSite c fun x => { x with forced := some s.now }) :=
  (onCore_next hc).trans (congrArg Host.Outcome.next (if_pos (by simp [hover, hfirst])))

theorem forcedReliefTimeout_acts {t : Nat} (hc : c < Config.coreSites) (hforced : (s.site c).forced = some t)
    (hdue : t + ticksPerMin ≤ s.now) : execForcedReliefTimeout c s = .next (s.forceRelief c 4) := by
  refine (onCore_next hc).trans (congrArg Host.Outcome.next ?_)
  rw [hforced]
  exact if_neg (Nat.not_lt.mpr hdue)

/-! ### Recovery -/

theorem reliefCopy_acts {j : Job} {l : Nat} {m : Nat × Nat × Nat} (hg : g < 4) (hjob : s.recovering g = some j)
    (hmove : (j.moves.find? fun m => m.1 = l && m.2.2 = 0) = some m) (hphase : j.phase = 4) (htakes : s.takesWrites m.2.1 = true) :
    execReliefCopy g l s = .next ((s.copySite g l m.2.1).putJob
      { j with moves := j.moves.map fun x => if x.1 = l then (x.1, x.2.1, 1) else x }) := by
  refine (onGarden_next hg _).trans (congrArg Host.Outcome.next ?_)
  rw [hjob]
  dsimp only
  rw [hmove]
  exact if_neg (by simp [hphase, htakes])

theorem hangWatchdog_acts (found : Probe) (hg : g < 4) (hidle : s.recovering g = none) (hnone : (s.garden g).recover = none)
    (hruns : s.watchdogRuns g = true) (hdue : (s.garden g).wdFrom + s.boundMs g * ticksPerMs ≤ s.now) :
    execHangWatchdog g found s = .next (s.hangFound g found) :=
  (onGarden_next hg _).trans (congrArg Host.Outcome.next (if_pos (by simp [hidle, hnone, hruns, hdue])))

theorem avenueStall_acts (found : Probe) {ticks : Nat} (hg : g < 4) (hidle : s.recovering g = none) (hnone : (s.garden g).recover = none)
    (hruns : s.gState g = gRunning)
    (hlate : (s.aveWaits g = true ∧ s.boundMs g * ticksPerMs ≤ 4 * ticks) ∨ (s.tablesHeld g = true ∧ s.boundMs g * ticksPerMs ≤ ticks)) :
    execAvenueStall g ticks found s = .next (s.hangFound g found) :=
  (onGarden_next hg _).trans (congrArg Host.Outcome.next (if_pos (by simp [hidle, hnone, hruns, hlate])))

/-- Tainting a step leaves its garden's hang and the recovery it asks for. -/
theorem taint_hang (s : State) (g reason : Nat) : ((s.taint g reason).garden g).hang = (s.garden g).hang ∧
    ((s.taint g reason).garden g).recover = (s.garden g).recover := by
  unfold State.taint
  split
  · exact ⟨rfl, rfl⟩
  split
  · rw [State.updGarden_same]
    split <;> exact ⟨rfl, rfl⟩
  split <;> exact ⟨rfl, rfl⟩

theorem wantRecovery_first (hnone : (s.garden g).recover = none) (cause strength : Nat) :
    ((s.wantRecovery g cause strength).garden g).recover = some (cause, strength) := by
  unfold State.wantRecovery
  rw [State.updGarden_same, hnone]

theorem raise_gardens (s : State) (i : Incident) : (s.raise i).gardens = s.gardens := by
  have hbeside := congrArg State.gardens (raise_besideLog s i)
  exact hbeside

theorem noted_hang (s : State) (f : Fld) (n : Nat) (i : Incident) (g reason : Nat) :
    (((((s.incWd f n).raise i).taint g reason)).garden g).hang = (s.garden g).hang ∧
      (((((s.incWd f n).raise i).taint g reason)).garden g).recover = (s.garden g).recover := by
  have hraised : ((s.incWd f n).raise i).garden g = s.garden g :=
    garden_congr ((raise_gardens (s.incWd f n) i).trans (State.incWd_gardens s f n)) g
  obtain ⟨hhang, hrecover⟩ := taint_hang ((s.incWd f n).raise i) g reason
  exact ⟨hhang.trans (congrArg Gdn.hang hraised), hrecover.trans (congrArg Gdn.recover hraised)⟩

theorem hangSet_recover (s : State) (g : Nat) (f : Fld) (v : Nat) (h : Option Hang) :
    (((s.updGarden g fun d => { d with hang := h }).setWd f v).garden g).recover = (s.garden g).recover := by
  rw [State.setWd_garden_as, State.updGarden_same]

theorem hangFound_recover (found : Probe) (hhang : (s.garden g).hang = none) (hnone : (s.garden g).recover = none) :
    ((s.hangFound g found).garden g).recover = some (5, 4) := by
  unfold State.hangFound
  extract_lets suspects t u
  obtain ⟨hsame, hrecover⟩ : (u.garden g).hang = (s.garden g).hang ∧ (u.garden g).recover = (s.garden g).recover := noted_hang s _ _ _ g 4
  rw [hsame, hhang]
  clear_value u
  exact wantRecovery_first ((hangSet_recover u g _ _ _).trans (hrecover.trans hnone)) _ _

end

/-- Settles O42: each command's guard holds, and what it leaves is read off its effect. -/
theorem wardensPatrolsAndRecovery : Obligations.WardensPatrolsAndRecovery := by
  unfold Obligations.WardensPatrolsAndRecovery
  intro s c g hc
  dsimp only
  refine ⟨fun r rs hbox hturn => ⟨_, wardenJudge_acts hc hbox hturn, ?_⟩, wardenJudge_waits, fun waited hfree helig hfirst hseg =>
    ⟨_, patrolSegment_acts hc hfree helig hfirst hseg, ?_⟩, fun seg hrun => ⟨?_, ?_, ?_, ?_, ?_⟩, fun hgood => retire_retires hgood 3,
    fun t hprob hdue hquiet => ⟨_, probationEnd_acts hc hprob hdue hquiet, updSite_onlySites _ _ _, State.updSite_same _ _ _⟩,
    ⟨_, markExpire_acts hc, updSite_onlySites _ _ _, State.updSite_same _ _ _⟩,
    fun hover hfirst => ⟨_, patrolDeadline_acts hc hover hfirst, updSite_onlySites _ _ _, State.updSite_same _ _ _⟩,
    fun t hforced hdue => forcedReliefTimeout_acts hc hforced hdue,
    fun l j m hg hjob hmove hphase htakes => reliefCopy_acts hg hjob hmove hphase htakes, fun found hg hidle hnone => ⟨?_, ?_, ?_⟩⟩
  · obtain ⟨hout, hserved, hcount⟩ := recordJudged_taken s c r rs
    exact ⟨hout, hserved, hcount, fun hown => recordJudged_unowned hown r rs⟩
  · exact ⟨congrArg Pav.segRun (State.updPav_same _ _ _),
      congrArg Site.segAt ((State.updPav_site_as _ _ _ c).trans (State.updSite_same s c _)), rfl, rfl⟩
  · exact patrolSegmentEnd_acts .pass hc hrun
  · exact fun b w => patrolSegmentEnd_acts (.lane b w) hc hrun
  · intro b n hb hn
    refine (patrolSegmentEnd_acts (.line b n) hc hrun).trans ?_
    dsimp only
    rw [Nat.mod_eq_of_lt hb, Nat.mod_eq_of_lt hn]
  · exact fun n => patrolSegmentEnd_acts (.failed n) hc hrun
  · exact fun hevent => ⟨_, patrolAbandon_acts hc hrun hevent, applyQueued_pav s (pavOf c)⟩
  · exact fun hruns hdue => hangWatchdog_acts found hg hidle hnone hruns hdue
  · exact fun ticks hruns hlate => avenueStall_acts found hg hidle hnone hruns hlate
  · exact fun hhang => hangFound_recover found hhang hnone

end Sys2Proof.Machine

/-! ## Firmware that is staged (R586, R610) -/

namespace Sys2Proof.Machine

/-- A letter that stages an image of 8 KiB. -/
def stageLetter : Accepted := { channel := 0, letter := { code := 0x82, body := leBytes 8 8192 } }

/-- The module in service, 16 parcels of the channel's session open, nothing staged. -/
def parcelsFull : State :=
  ((State.reset.setPm Reg.PM_STATUS_STATE 2).updPost fun p => { p with accepted := [stageLetter] }).updBridge fun b =>
    { b with parcels := (List.range 16).map fun n => (n, { session := 0, garden := 0, dir := 0, addr := 0, len := 8 }) }

theorem parcelsFull_turn : letterTurn parcelsFull 0x82 0 stageLetter = true := by decide +kernel

/-- The letter's size is one an image can have. -/
theorem stageLetter_field : stageLetter.letter.field 0 8 = 8192 := by decide +kernel

/-- What was staged makes room for an image of `n` bytes, its parcels closed. -/
def State.stagingCleared (s : State) (n : Nat) : State :=
  (s.closeParcels fun _ p => p.staging).updIce fun h => { h with staging := [], stagingLen := n, stagingDone := false }

theorem parcelsFull_full : 16 ≤ ((parcelsFull.stagingCleared 8192).openParcels (parcelsFull.sessionOf stageLetter)).1 := by decide +kernel

/-- A dead letter leaves the icehouse as it is. -/
theorem dead_ice (s : State) (a : Accepted) (reason : Nat) : (s.dead a reason).ice = s.ice := (place_only _ _ _).ice

/-- FIRMWARE_STAGE that finds no parcel free changes nothing but the letter's answer: what was staged stays. -/
theorem firmwareStage_full : exec (.firmwareStage 0) parcelsFull = .next (parcelsFull.dead stageLetter dResource) := by
  refine (onLetter_turn parcelsFull_turn fun a s => s.firmwareStage a).trans (congrArg Host.Outcome.next ?_)
  unfold State.firmwareStage
  dsimp only
  rw [stageLetter_field, if_neg (by decide), if_neg (by decide)]
  exact if_pos (Or.inl parcelsFull_full)

/-- Refutes O43: where no parcel is free, FIRMWARE_STAGE is answered RESOURCE with the staging area as it was; the statement has it cleared. -/
theorem not_trustIsKeptByCommands : ¬ Obligations.TrustIsKeptByCommands := by
  unfold Obligations.TrustIsKeptByCommands
  intro h
  obtain ⟨-, -, hstage, -⟩ := h parcelsFull 0 stageLetter
  dsimp only at hstage
  rw [stageLetter_field] at hstage
  obtain ⟨-, hfull⟩ := hstage (by decide) (by decide) (by decide) (by decide)
  have hsame : parcelsFull.dead stageLetter dResource = (parcelsFull.stagingCleared 8192).dead stageLetter dResource :=
    Host.Outcome.next.inj (firmwareStage_full.symm.trans (hfull (Or.inl parcelsFull_full) parcelsFull_turn))
  have hice : parcelsFull.ice = (parcelsFull.stagingCleared 8192).ice := by
    rw [← dead_ice parcelsFull stageLetter dResource, hsame, dead_ice]
  exact absurd (congrArg Ice.stagingLen hice) (by decide)

end Sys2Proof.Machine

/-! ## Starts (R502-R531, R600) -/

namespace Sys2Proof.Machine

/-! ### Sessions that end -/

/-- The state without what the end of a session touches. -/
def State.besideHost (s : State) : State := { s with post := {}, chans := [], bridge := {}, ice := {} }

theorem closeParcels_besideHost (s : State) (which : Nat → Parcel → Bool) : (s.closeParcels which).besideHost = s.besideHost := by
  unfold State.closeParcels
  dsimp only
  split <;> rfl

theorem muteChannel_besideHost (s : State) (ch : Nat) : (s.muteChannel ch).besideHost = s.besideHost := rfl
theorem updChan_besideHost (s : State) (n : Nat) (f : Chan → Chan) : (s.updChan n f).besideHost = s.besideHost := rfl
theorem updBridge_besideHost (s : State) (f : Bridge → Bridge) : (s.updBridge f).besideHost = s.besideHost := rfl

theorem endSession_besideHost (s : State) (id reason : Nat) : (s.endSession id reason).besideHost = s.besideHost := by
  unfold State.endSession
  split
  · rfl
  · exact (updBridge_besideHost _ _).trans ((closeParcels_besideHost _ _).trans ((updChan_besideHost _ _ _).trans (muteChannel_besideHost _ _)))

theorem endAll_besideHost (s : State) (reason : Nat) : (s.endAll reason).besideHost = s.besideHost :=
  foldl_keeps (g := State.besideHost) (fun s id => endSession_besideHost s id reason) _ s

theorem Fm.look_map {α β : Type} (f : Nat × α → Nat × β) (hf : ∀ e, (f e).1 = e.1) (k : Nat) (m : FMap α) :
    (Fm.look k (m.map f)).isSome = (Fm.look k m).isSome := by
  unfold Fm.look
  rw [List.find?_map]
  have hkey : (fun e : Nat × β => decide (e.1 = k)) ∘ f = fun e : Nat × α => decide (e.1 = k) := funext fun e => by
    rw [Function.comp_apply, hf]
  rw [hkey]
  simp

/-- Closing parcels leaves every session under its number. -/
theorem closeParcels_sessions (s : State) (which : Nat → Parcel → Bool) : ∃ keep : Content → Bool,
    (s.closeParcels which).bridge.sessions = s.bridge.sessions.map fun e => (e.1, { e.2 with sendQ := e.2.sendQ.filter keep }) := by
  unfold State.closeParcels
  dsimp only
  split <;> exact ⟨_, rfl⟩

theorem closeParcels_session (s : State) (which : Nat → Parcel → Bool) (k : Nat) :
    ((s.closeParcels which).session k).isSome = (s.session k).isSome := by
  obtain ⟨keep, hkeep⟩ := closeParcels_sessions s which
  unfold State.session
  rw [hkeep]
  exact Fm.look_map (fun e : Nat × Session => (e.1, { e.2 with sendQ := e.2.sendQ.filter keep })) (fun e => rfl) k _

theorem updBridge_session (s : State) (f : Bridge → Bridge) (k : Nat) : (s.updBridge f).session k = Fm.look k (f s.bridge).sessions := rfl

theorem closeParcels_none {s : State} {k : Nat} (h : s.session k = none) (which : Nat → Parcel → Bool) :
    (s.closeParcels which).session k = none := by
  rw [← Option.isNone_iff_eq_none, ← Option.not_isSome, closeParcels_session, h]
  rfl

/-- A session that ends is gone. -/
theorem endSession_gone (s : State) (id reason : Nat) : (s.endSession id reason).session id = none := by
  unfold State.endSession
  split
  · assumption
  · exact (updBridge_session _ _ _).trans (Fm.look_del_same _ _)

/-- No session begins where one ends. -/
theorem endSession_none {s : State} {k : Nat} (h : s.session k = none) (id reason : Nat) : (s.endSession id reason).session k = none := by
  by_cases hk : k = id
  · rw [hk]
    exact endSession_gone s id reason
  · unfold State.endSession
    split
    · exact h
    · refine (updBridge_session _ _ _).trans ((Fm.look_del_other hk _).trans (closeParcels_none ?_ _))
      exact h

theorem endAll_session (s : State) (reason k : Nat) : (s.endAll reason).session k = none := by
  unfold State.endAll
  by_cases hk : k ∈ s.bridge.sessions.map Prod.fst
  · exact foldl_establishes (P := fun t => t.session k = none) (fun t => endSession_gone t k reason)
      (fun t id h => endSession_none h id reason) hk s
  · have hnone : s.session k = none := by
      have hfind : s.bridge.sessions.find? (fun e => e.1 = k) = none :=
        List.find?_eq_none.mpr fun e he hkey => hk (List.mem_map.mpr ⟨e, he, of_decide_eq_true hkey⟩)
      unfold State.session Fm.look
      rw [hfind]
      rfl
    exact List.foldlRecOn (motive := fun t : State => t.session k = none) _ _ hnone fun t h id _ => endSession_none h id reason

/-! ### What a start leaves -/

theorem Core.setWait_getF (k : Core) (w : Wait) (f : Fld) : { k with wait := w }.getF f = k.getF f := rfl

theorem stopRun_run (k : Core) : k.stopRun.getF Reg.KP_CTRL_RUN = 0 := by
  unfold Core.stopRun
  split
  · assumption
  · have hwait (k : Core) (v : Nat) : (k.setF Reg.KP_STATUS_WAIT v).getF Reg.KP_CTRL_RUN = k.getF Reg.KP_CTRL_RUN :=
      Core.getF_setF_other _ (by decide) (by decide) _
    have hstate (k : Core) (v : Nat) : (k.setF Reg.KP_STATUS_STATE v).getF Reg.KP_CTRL_RUN = k.getF Reg.KP_CTRL_RUN :=
      Core.getF_setF_other _ (by decide) (by decide) _
    have hoff : (k.setF Reg.KP_CTRL_RUN 0).getF Reg.KP_CTRL_RUN = 0 := Core.getF_setF_same _ (by decide) 0
    refine (Core.setWait_getF _ _ _).trans ((hwait _ 0).trans ?_)
    split
    · exact hoff
    · exact (hstate _ 0).trans hoff

theorem mapv_stopRun {m : FMap Core} {e : Nat × Core} (h : e ∈ Fm.mapv {} (fun _ k => k.stopRun) m) : e.2.getF Reg.KP_CTRL_RUN = 0 := by
  obtain ⟨x, -, hx⟩ := List.mem_filterMap.mp h
  dsimp only at hx
  split at hx
  · cases hx
  · cases hx
    exact stopRun_run x.2

/-- The module held by RST_N (R523): domains at their lowest state, keepers stopped. -/
def State.stilled (s : State) : State :=
  let s := { s with pins := { s.pins with rstN := false } }
  let s := s.eachPav fun _ v =>
      if v.getF Reg.PV_REG_STATUS_ON = 0 then v
      else { (v.setF Reg.PV_CLK_STATUS_DIV 7).setF Reg.PV_REG_STATUS_VSET 550 with pendingIdx := none }
  { s with cores := Fm.mapv {} (fun _ k => k.stopRun) s.cores }

/-- And every session ended, the reset awaited. -/
def State.heldReset (s : State) : State :=
  let t := (s.stilled.endAll 4).setPm Reg.PM_STATUS_STATE 0
  { t with start := { t.start with rstLow := true } }

theorem rstNAccept_acts {s : State} {micros : Nat} (h : 10 ≤ micros) (hsamples : s.samplesRst = true) :
    execRstNAccept micros s = .next s.heldReset :=
  if_neg (by
    rw [Bool.or_eq_true, decide_eq_true_eq]
    rintro (hshort | hnot)
    · exact Nat.not_lt.mpr h hshort
    · exact Bool.noConfusion (hsamples.symm.trans ((Bool.not_eq_true' _).mp hnot)))

theorem rstNAccept_short (s : State) {micros : Nat} (h : micros < 10) :
    execRstNAccept micros s = .next { s with pins := { s.pins with rstN := false } } :=
  if_pos (by rw [decide_eq_true h]; rfl)

theorem heldReset_pm (s : State) : getF Reg.PM_STATUS_STATE s.heldReset.pm = 0 := getF_setF_same _ _ _ (by decide)

theorem heldReset_beside (s : State) : s.heldReset.pins.rstN = false ∧ s.heldReset.start.rstLow = true ∧ s.heldReset.slow = s.slow ∧
    s.heldReset.cores = s.stilled.cores := by
  have hbeside := endAll_besideHost s.stilled 4
  have hpins : (s.stilled.endAll 4).pins = s.stilled.pins := (congrArg State.pins hbeside :)
  have hslow : (s.stilled.endAll 4).slow = s.stilled.slow := (congrArg State.slow hbeside :)
  have hcores : (s.stilled.endAll 4).cores = s.stilled.cores := (congrArg State.cores hbeside :)
  exact ⟨congrArg Pins.rstN hpins, rfl, hslow, hcores⟩

/-! ### The end of stage 8 -/

/-- Every memory at zero. -/
def State.zeroedAll (s : State) : State :=
  { allOras.foldl (fun s o => s.updOra o Ora.zeroMemory) (allPavs.foldl State.zeroPav s) with slow := [] }

theorem clearSlow_kept (s : State) : { s with slow := [] }.kept = ([], s.pending) := rfl
theorem setStart_kept (s : State) (x : Start) : { s with start := x }.kept = s.kept := rfl

theorem kept_snd (s : State) : s.kept.2 = s.pending := rfl

theorem zeroPav_pending (s : State) (p : Nat) : (s.zeroPav p).pending = s.pending := by
  rw [← kept_snd, State.zeroPav_kept, kept_snd]

theorem zeroedAll_kept (s : State) : s.zeroedAll.kept = ([], s.pending) := by
  have hpavs : (allPavs.foldl State.zeroPav s).pending = s.pending :=
    foldl_keeps (g := State.pending) zeroPav_pending _ s
  have horas : (allOras.foldl (fun s o => s.updOra o Ora.zeroMemory) (allPavs.foldl State.zeroPav s)).pending = s.pending :=
    (foldl_keeps (g := State.pending) (fun s o => State.updOra_pending s o _) _ _).trans hpavs
  exact (clearSlow_kept _).trans (congrArg (Prod.mk []) horas)

theorem settle_kept (s : State) : s.settle.kept = ([], s.pending) := by
  have hroutes (t : State) (base : Nat) : (t.writeRoutes base).kept = t.kept := State.writeRoutes_kept t base
  rw [← zeroedAll_kept s]
  unfold State.settle
  rw [State.endStage_kept, State.capacity_kept]
  exact (setStart_kept _ _).trans <| (hroutes _ 0x300).trans ((State.updPost_kept _ _).trans (hroutes _ 0x200))

/-! ### Test access -/

theorem pavtest_refused {s : State} {p : Nat} (failing : List Nat) (hp : p < Config.pavilions) (hown : (s.pav p).owner ≠ none) :
    execPavtest p failing s = .next { s with test := { s.test with pavResult := 3 } } := by
  refine (onPav_next hp _).trans (congrArg Host.Outcome.next (if_pos ?_))
  simp [Option.isSome_iff_ne_none.mpr hown]

theorem pavtest_passed {s : State} {p : Nat} {failing : List Nat} (hp : p < Config.pavilions) (hown : (s.pav p).owner = none)
    (hon : s.domainOn p = true) (hserves : s.inService = true) (hgood : ∀ c ∈ coresOf p, c ∈ failing → s.goodSite c = false) :
    execPavtest p failing s = .next { s with test := { s.test with pavResult := 1 } } := by
  have hbad : ((coresOf p).filter failing.contains).filter s.goodSite = [] := by
    rw [List.filter_filter, List.filter_eq_nil_iff]
    intro c hc hboth
    rw [Bool.and_eq_true, List.contains_iff_mem] at hboth
    obtain ⟨hsite, hfails⟩ := hboth
    exact Bool.noConfusion (hsite.symm.trans (hgood c hc hfails))
  refine (onPav_next hp _).trans (congrArg Host.Outcome.next ?_)
  dsimp only
  rw [hbad]
  exact if_neg (by simp [hown, hon, hserves])

theorem bootrpt_acts (s : State) (i : Nat) : execBootrpt i s = .next { s with test := { s.test with bootOut :=
    (match Fm.look i s.start.reports with
    | some r => r.bytes
    | none => List.replicate 32 0) } } := rfl

/-! ### Starts and RST_N -/

theorem mayBegin_iff (s : State) (kind : Nat) : s.mayBegin kind = true ↔
    s.start.want = some kind ∧ s.start.running = false ∧ s.start.busbarAbsent = false ∧ s.power.stopped = false := by
  simp [State.mayBegin, and_assoc]

theorem settle_acts {s : State} (hrun : s.start.running = true) (hstage : s.start.stage = 8) (hedge : s.start.edgeDone = true)
    (hfree : s.holds 8 = false) : execSettle s = .next s.settle.goOn := if_pos (by simp [hrun, hstage, hedge, hfree])

/-- What a whole start leaves. -/
theorem startWhole_cold (s : State) (b : BootFindings) : (s.startWhole 0 b).boot = s.boot + 1 ∧ (s.startWhole 0 b).slow = [] ∧
    (s.startWhole 0 b).cores = [] ∧ (s.startWhole 0 b).gardens = [] ∧ (s.startWhole 0 b).start.running = true ∧
    (s.startWhole 0 b).start.found = b ∧ (s.startWhole 0 b).start.stage = 0 ∧ (s.startWhole 0 b).start.rstHold = !s.pins.rstN ∧
    ((s.startWhole 0 b).ice.repairs, (s.startWhole 0 b).ice.freq) = s.storedRecords ∧ (s.startWhole 0 b).nextIncident = s.nextIncident ∧
    (s.startWhole 0 b).pending = s.pending := ⟨rfl, rfl, rfl, rfl, rfl, rfl, rfl, rfl, rfl, rfl, rfl⟩

/-- What a warm start leaves. -/
theorem startWarm_keeps (s : State) (b : BootFindings) : (s.startWarm b).boot = s.boot + 1 ∧ (s.startWarm b).cartridges = s.cartridges ∧
    (s.startWarm b).pending = s.pending := ⟨rfl, rfl, rfl⟩

/-- The pin up again. -/
def State.rstUp (s : State) : State := { s with pins := { s.pins with rstN := true } }

theorem rstNRise_held {s : State} (micros : Nat) (h : s.start.rstHold = true) :
    execRstNRise micros s = .next { s.rstUp with start := { s.start with rstHold := false } }.goOn := if_pos h

theorem rstNRise_low {s : State} (micros : Nat) (h : s.start.rstHold = false) (hlow : s.start.rstLow = true) :
    execRstNRise micros s = .next { s.rstUp with start := { s.start with rstLow := false, want := some (if 1000000 ≤ micros then 1 else 2) } } :=
  (if_neg (show ¬s.start.rstHold = true by rw [h]; decide)).trans (if_neg (show ¬(!s.start.rstLow) = true by rw [hlow]; decide))

theorem rstNRise_idle {s : State} (micros : Nat) (h : s.start.rstHold = false) (hlow : s.start.rstLow = false) :
    execRstNRise micros s = .next s.rstUp :=
  (if_neg (show ¬s.start.rstHold = true by rw [h]; decide)).trans (if_pos (show (!s.start.rstLow) = true by rw [hlow]; rfl))

/-- Settles O44: each command by its condition, and what a start leaves by the definition of a module that has lost its power. -/
theorem startsFollowTheirCause : Obligations.StartsFollowTheirCause := by
  unfold Obligations.StartsFollowTheirCause
  intro s b
  dsimp only
  refine ⟨fun h => if_pos h, fun h => if_neg (by rw [h]; decide), fun kind hwant hrun hbus hpower => ⟨fun hkind => ?_, fun hkind => ?_⟩,
    startWhole_cold s b, (startWarm_keeps s b).1, (startWarm_keeps s b).2.1, (startWarm_keeps s b).2.2,
    fun hrun hstage hedge hfree => ⟨settle_acts hrun hstage hedge hfree, congrArg Prod.fst (settle_kept s), congrArg Prod.snd (settle_kept s)⟩,
    fun micros h hsamples => ⟨_, rstNAccept_acts h hsamples, ?_⟩, fun micros h => rstNAccept_short s h,
    fun micros => ⟨rstNRise_held micros, rstNRise_low micros, rstNRise_idle micros⟩, fun i r hr => ?_, fun i hi => ?_, fun stage on => rfl,
    fun p failing hp hown => pavtest_refused failing hp hown, fun p failing hp hown hon hserves hgood => pavtest_passed hp hown hon hserves hgood⟩
  · exact if_pos ((mayBegin_iff s 1).mpr ⟨hkind ▸ hwant, hrun, hbus, hpower⟩)
  · exact if_pos ((mayBegin_iff s 2).mpr ⟨hkind ▸ hwant, hrun, hbus, hpower⟩)
  · obtain ⟨hrst, hlow, hslow, hcores⟩ := heldReset_beside s
    refine ⟨heldReset_pm s, hrst, hlow, hslow, fun e he => ?_, fun id => endAll_session s.stilled 4 id⟩
    rw [hcores] at he
    exact mapv_stopRun he
  · refine (bootrpt_acts s i).trans ?_
    rw [hr]
  · refine (bootrpt_acts s i).trans ?_
    rw [hi]

end Sys2Proof.Machine

/-! ## Frames of the peer ports (R394-R407, R415) -/

namespace Sys2Proof.Machine

/-- A frame has come in: what its FEC found is counted. -/
def State.peerHeard (s : State) (port : Nat) (pf : PeerFrame) : State :=
  s.updPeerPort port fun q => q.incF Reg.LN_PEER_CNT_UNCORR pf.wire.fecUncorr

section
variable {s : State} {port : Nat} {pf : PeerFrame} {ok : State → Bool} {f : State → State}

theorem onPeer_next (hp : Config.peerPresent port = true) : onPeer port s f = .next (f s) := onUnit_next hp

/-! ### Frames -/

theorem onPeerFrame_elsewhere (hp : Config.peerPresent port = true) (hdest : pf.destOk = false) :
    onPeerFrame port pf ok s f = .next (s.peerHeard port pf) :=
  (onPeer_next hp).trans (congrArg Host.Outcome.next (if_pos (by rw [hdest]; rfl)))

theorem onPeerFrame_bad (hp : Config.peerPresent port = true) (hdest : pf.destOk = true) (hbad : ok (s.peerHeard port pf) = false) :
    onPeerFrame port pf ok s f = .next ((s.peerHeard port pf).peerCount port Reg.LN_PEER_CNT_FORMAT) := by
  refine (onPeer_next hp).trans (congrArg Host.Outcome.next ?_)
  dsimp only
  rw [if_neg (by rw [hdest]; decide)]
  exact if_pos (by rw [← State.peerHeard, hbad]; rfl)

theorem onPeerFrame_good (hp : Config.peerPresent port = true) (hdest : pf.destOk = true) (hok : ok (s.peerHeard port pf) = true) :
    onPeerFrame port pf ok s f = .next (f (s.peerHeard port pf)) := by
  refine (onPeer_next hp).trans (congrArg Host.Outcome.next ?_)
  dsimp only
  rw [if_neg (by rw [hdest]; decide)]
  exact if_neg (by rw [← State.peerHeard, hok]; decide)

theorem bundle_bad (hp : Config.peerPresent port = true) (hdest : pf.destOk = true)
    (hbad : (s.peerHeard port pf).peerFormOk port pf 1 = false ∨ 6 < pf.pcp) (b : Bundle) :
    execBundle port pf b s = .next ((s.peerHeard port pf).peerCount port Reg.LN_PEER_CNT_FORMAT) := by
  refine onPeerFrame_bad hp hdest ?_
  rcases hbad with hbad | hbad
  · rw [hbad, Bool.false_and]
  · rw [decide_eq_false (Nat.not_le.mpr hbad), Bool.and_false]

theorem bundle_good (hp : Config.peerPresent port = true) (hdest : pf.destOk = true)
    (hform : (s.peerHeard port pf).peerFormOk port pf 1 = true) (hpcp : pf.pcp ≤ 6) (b : Bundle) :
    execBundle port pf b s = .next ((s.peerHeard port pf).peerBundle port pf b) :=
  onPeerFrame_good hp hdest (by rw [hform, decide_eq_true hpcp]; rfl)

theorem gensync_bad (hp : Config.peerPresent port = true) (hdest : pf.destOk = true)
    (hbad : (s.peerHeard port pf).peerFormOk port pf 2 = false) :
    execGensync port pf s = .next ((s.peerHeard port pf).peerCount port Reg.LN_PEER_CNT_FORMAT) := onPeerFrame_bad hp hdest hbad

theorem gensync_good (hp : Config.peerPresent port = true) (hdest : pf.destOk = true)
    (hform : (s.peerHeard port pf).peerFormOk port pf 2 = true) :
    execGensync port pf s = .next ((s.peerHeard port pf).takeGensync port pf) := onPeerFrame_good hp hdest hform

theorem probe_bad (hp : Config.peerPresent port = true) (hdest : pf.destOk = true)
    (hbad : (s.peerHeard port pf).peerFormOk port pf 3 = false ∨ pf.key ≠ 0) (m : Word) (n : Nat) :
    execProbe port pf m n s = .next ((s.peerHeard port pf).peerCount port Reg.LN_PEER_CNT_FORMAT) := by
  refine onPeerFrame_bad hp hdest ?_
  rcases hbad with hbad | hbad
  · rw [hbad, Bool.false_and]
  · rw [decide_eq_false hbad, Bool.and_false]

theorem probe_good (hp : Config.peerPresent port = true) (hdest : pf.destOk = true)
    (hform : (s.peerHeard port pf).peerFormOk port pf 3 = true) (hkey : pf.key = 0) (m : Word) (n : Nat) :
    execProbe port pf m n s = .next ((s.peerHeard port pf).takeProbe port pf (m, n)) :=
  onPeerFrame_good hp hdest (by rw [hform, decide_eq_true hkey]; rfl)

/-- A frame for another MAC does nothing but count what its FEC found. -/
theorem frame_elsewhere (hp : Config.peerPresent port = true) (hdest : pf.destOk = false) (b : Bundle) (m : Word) (n : Nat) :
    execBundle port pf b s = .next (s.peerHeard port pf) ∧ execGensync port pf s = .next (s.peerHeard port pf) ∧
    execProbe port pf m n s = .next (s.peerHeard port pf) :=
  ⟨onPeerFrame_elsewhere hp hdest, onPeerFrame_elsewhere hp hdest, onPeerFrame_elsewhere hp hdest⟩

/-- What R395 and R399 turn away. -/
theorem peerFormOk_false (h : pf.wire.fcsOk = false ∨ pf.wire.len < 64 ∨ 8254 < pf.wire.len ∨ pf.ether ≠ 0x88B5 ∨ pf.version ≠ 1 ∨ pf.bodyOk = false)
    (s : State) (type : Nat) : s.peerFormOk port pf type = false := by
  unfold State.peerFormOk
  rcases h with h | h | h | h | h | h
  · simp [h]
  · simp [Nat.not_le.mpr h]
  · simp [Nat.not_le.mpr h]
  · simp [h]
  · simp [h]
  · simp [h]

/-! ### Bundles -/

theorem updPeerPort_recvs (s : State) (n : Nat) (f : Port → Port) : (s.updPeerPort n f).recvs = s.recvs := rfl
theorem updPeerPort_bridgeOf (s : State) (n : Nat) (f : Port → Port) (d : Nat) : (s.updPeerPort n f).bridgeOf d = s.bridgeOf d := rfl
theorem updPeerPort_endTag (s : State) (n : Nat) (f : Port → Port) (code g : Nat) : (s.updPeerPort n f).endTag code g = s.endTag code g := rfl

theorem peerHeard_recvs : (s.peerHeard port pf).recvs = s.recvs := updPeerPort_recvs _ _ _
theorem peerHeard_find (p : PeerEntry → Bool) : (s.peerHeard port pf).recvs.find? p = s.recvs.find? p := by rw [peerHeard_recvs]
theorem peerHeard_endTag (d g : Nat) : (s.peerHeard port pf).endTag (codePeer ((s.peerHeard port pf).bridgeOf d)) g = s.endTag (codePeer (s.bridgeOf d)) g := by
  unfold State.peerHeard
  rw [updPeerPort_bridgeOf, updPeerPort_endTag]

theorem updPeerPort_portAttach (s : State) (n : Nat) (f : Port → Port) (d : Nat) : (s.updPeerPort n f).portAttach d = s.portAttach d := rfl

theorem peerBundle_unknown (hnone : s.recvs.find? (fun e => e.port = port && e.key = pf.key) = none) (b : Bundle) :
    s.peerBundle port pf b = s.peerCount port Reg.LN_PEER_CNT_UNKNOWN := by
  unfold State.peerBundle
  rw [hnone]

theorem peerBundle_enters {e : PeerEntry} {tag : BitVec 8} {attach : List Nat}
    (he : s.recvs.find? (fun e => e.port = port && e.key = pf.key) = some e)
    (hown : s.endTag (codePeer (s.bridgeOf port)) e.garden = tag) (hattach : s.portAttach port = attach) (htag : pf.rgen = tag) (b : Bundle) :
    let own : Bundle := { b with avenue := e.avenue, gen := tag, garden := e.garden }
    let item := (attach.getD e.router 0, e.slice, { own with hcrc := own.headCrc })
    s.peerBundle port pf b = ({ s with endAve := Fm.upd [] (port * 8 + pf.pcp) (fun l => l ++ [item]) s.endAve }).peerXoff port pf.pcp := by
  unfold State.peerBundle
  rw [he]
  dsimp only
  rw [hown, hattach, if_neg (not_not.mpr htag)]

theorem peerBundle_stale {e : PeerEntry} {tag : BitVec 8} (he : s.recvs.find? (fun e => e.port = port && e.key = pf.key) = some e)
    (hown : s.endTag (codePeer (s.bridgeOf port)) e.garden = tag) (htag : pf.rgen ≠ tag) (b : Bundle) :
    s.peerBundle port pf b = (s.peerCount port Reg.LN_PEER_CNT_STALE).askGensync e tag := by
  unfold State.peerBundle
  rw [he]
  dsimp only
  rw [hown, if_pos htag]

/-! ### GENSYNC and PROBE -/

theorem takeGensync_unsent {e : PeerEntry} (he : s.sends.find? (fun e => e.port = port && e.key = pf.key) = some e) (hsent : e.sent = false) :
    s.takeGensync port pf = s.updSend port e.garden e.avenue fun x => { x with rgen := some pf.rgen } := by
  unfold State.takeGensync
  rw [he]
  dsimp only
  rw [hsent, if_neg (by simp)]

/-- What a PROBE tells a port. -/
def Port.probed (pf : PeerFrame) (from_ : Word × Nat) (now : Nat) (q : Port) : Port :=
  { q with partner := some from_, partnerMac := pf.srcMac, lastProbe := now }

theorem takeProbe_peerPorts (s : State) (port : Nat) (pf : PeerFrame) (from_ : Word × Nat) :
    (s.takeProbe port pf from_).peerPorts = (s.updPeerPort port (Port.probed pf from_ s.now)).peerPorts := by
  unfold State.takeProbe
  dsimp only
  split <;> rfl

theorem takeProbe_same {from_ : Word × Nat} (h : ∀ p, (s.peerPort port).partner = some p → p = from_) :
    s.takeProbe port pf from_ = s.updPeerPort port (Port.probed pf from_ s.now) := by
  unfold State.takeProbe
  refine if_neg ?_
  cases hp : (s.peerPort port).partner with
  | none => simp
  | some p => simp [h p hp]

theorem peerPort_congr {s t : State} (h : t.peerPorts = s.peerPorts) (n : Nat) : t.peerPort n = s.peerPort n := congrArg (Fm.get ({} : Port) n) h

theorem updPeerPort_onlyPeers (s : State) (n : Nat) (f : Port → Port) : { (s.updPeerPort n f) with peerPorts := s.peerPorts } = s := rfl

theorem updPeerPort_updPeerPort_onlyPeers (s : State) (n : Nat) (f g : Port → Port) :
    { ((s.updPeerPort n f).updPeerPort n g) with peerPorts := s.peerPorts } = s := rfl

/-- The port a PROBE leaves. -/
theorem takeProbe_port (s : State) (port : Nat) (pf : PeerFrame) (from_ : Word × Nat) :
    ((s.takeProbe port pf from_).peerPort port).partner = some from_ ∧
    ((s.takeProbe port pf from_).peerPort port).partnerMac = pf.srcMac ∧ ((s.takeProbe port pf from_).peerPort port).lastProbe = s.now := by
  rw [peerPort_congr (takeProbe_peerPorts _ port pf from_), State.updPeerPort_same]
  exact ⟨rfl, rfl, rfl⟩

theorem updPeerPort_now (s : State) (n : Nat) (f : Port → Port) : (s.updPeerPort n f).now = s.now := rfl
theorem Port.incF_partner (q : Port) (f : Fld) (n : Nat) : (q.incF f n).partner = q.partner := rfl

theorem peerHeard_partner (s : State) (port : Nat) (pf : PeerFrame) :
    ((s.peerHeard port pf).peerPort port).partner = (s.peerPort port).partner := by
  unfold State.peerHeard
  rw [State.updPeerPort_same, Port.incF_partner]

theorem takeProbe_onlyPeers {from_ : Word × Nat} (h : ∀ p, (s.peerPort port).partner = some p → p = from_) (pf : PeerFrame) :
    { ((s.peerHeard port pf).takeProbe port pf from_) with peerPorts := s.peerPorts } = s := by
  rw [takeProbe_same (s := s.peerHeard port pf) (by rw [peerHeard_partner]; exact h)]
  exact updPeerPort_updPeerPort_onlyPeers s port _ _

theorem probeSend_acts (hp : Config.peerPresent port = true) (hlit : s.lanternLit (s.bridgeOf port) = true) :
    execProbeSend port s = .next (s.updPeerPort port fun q => { q with frames := q.frames ++ [s.peerTagged port (.probe (Config.serial.setWidth 64)
      (match s.swapOf port with
        | some w => 0x80 + w.spare
        | none => port))] }) :=
  (onPeer_next hp).trans (congrArg Host.Outcome.next (if_pos hlit))

/-! ### Links -/

theorem blockLockLoss_acts (hp : Config.peerPresent port = true) : execBlockLockLoss port s = .next (s.portDown port) := onPeer_next hp

theorem peerSend_acts {n : Nat} (hn : Config.lanternPresent n = true) : execPeerSend n s = .next (s.peerSend n) := by
  unfold execPeerSend onLantern
  exact onUnit_next hn

theorem probeTimeout_acts (hp : Config.peerPresent port = true) (hlate : (s.peerPort port).lastProbe + probeLimit ≤ s.now) :
    execProbeTimeout port s = .next (s.portDown port) :=
  (onPeer_next hp).trans (congrArg Host.Outcome.next (if_neg (Nat.not_lt.mpr hlate)))

theorem taint_peerPorts (s : State) (g reason : Nat) : (s.taint g reason).peerPorts = s.peerPorts :=
  (congrArg State.peerPorts (taint_beside s g reason) :)

theorem portIncident_peerPorts (s : State) (unit id : Nat) (gs : List Nat) : (s.portIncident unit id gs).peerPorts = s.peerPorts :=
  foldl_keeps (g := State.peerPorts) (fun s g => taint_peerPorts s g 3) gs _

theorem Port.getF_setF_same (q : Port) (f : Fld) (v : Nat) (h : f.lo + f.w ≤ 64) : (q.setF f v).getF f = v % 2 ^ f.w :=
  Machine.getF_setF_same f v q.regs h

theorem portDown_up (hup : s.portUp port = true) : ((s.portDown port).peerPort port).getF Reg.LN_PEER_STATUS_UP = 0 := by
  unfold State.portDown
  rw [if_neg (by rw [hup]; decide)]
  rw [peerPort_congr (portIncident_peerPorts _ 8 port _), State.updPeerPort_same]
  exact Port.getF_setF_same _ _ _ (by decide)

/-- A frame sent leaves the ports' registers. -/
theorem peerFrame_up (s : State) (p : Nat) (f : Nat → PeerOut) (d : Nat) (x : Fld) :
    ((s.peerFrame p f).peerPort d).getF x = (s.peerPort d).getF x := by
  unfold State.peerFrame
  split
  · by_cases hd : d = p
    · rw [hd, State.updPeerPort_same]
      rfl
    · rw [State.updPeerPort_other _ _ _ hd]
  · rfl

theorem gensync_up (s : State) (e : PeerEntry) (tag d : Nat) (x : Fld) : ((s.gensync e tag).peerPort d).getF x = (s.peerPort d).getF x :=
  peerFrame_up s e.port _ d x

/-- The link is up, and each receive entry of the port has told its tag. -/
def State.linkReturned (s : State) (port : Nat) : State :=
  let u := s.updPeerPort port fun q => q.setF Reg.LN_PEER_STATUS_UP 1
  (u.recvs.filter fun e => e.port = port).foldl (fun s e => s.gensync e (s.endTag (codePeer (s.bridgeOf port)) e.garden).toNat) u

theorem peerLinkReturn_acts (hp : Config.peerPresent port = true) (hdown : s.portUp port = false) (hpartner : (s.peerPort port).partner ≠ none)
    (hrecent : s.now < (s.peerPort port).lastProbe + probeLimit) (hlit : s.lanternLit (s.bridgeOf port) = true) :
    execPeerLinkReturn port s = .next (s.linkReturned port) := by
  refine (onPeer_next hp).trans (congrArg Host.Outcome.next (if_neg ?_))
  have hsome : (s.peerPort port).partner.isNone = false := by
    rw [← Bool.not_eq_true, Option.isNone_iff_eq_none]
    exact hpartner
  rw [hdown, hsome, decide_eq_false (Nat.not_le.mpr hrecent), hlit]
  decide

theorem linkReturned_up (s : State) (port : Nat) : ((s.linkReturned port).peerPort port).getF Reg.LN_PEER_STATUS_UP = 1 := by
  refine (foldl_keeps (g := fun t : State => (t.peerPort port).getF Reg.LN_PEER_STATUS_UP) (fun s e => gensync_up s e _ port _) _ _).trans ?_
  rw [State.updPeerPort_same]
  exact Port.getF_setF_same _ _ _ (by decide)

theorem gensync_slow (s : State) (e : PeerEntry) (tag : Nat) : (s.gensync e tag).slow = s.slow := by
  unfold State.gensync State.peerFrame
  split <;> rfl

theorem linkReturned_slow (s : State) (port : Nat) : (s.linkReturned port).slow = s.slow :=
  (foldl_keeps (g := State.slow) (fun s e => gensync_slow s e _) _ _).trans (State.updPeerPort_slow _ _ _)

theorem peerFrame_bridgeOut (s : State) (p : Nat) (f : Nat → PeerOut) : (s.peerFrame p f).bridgeOut = s.bridgeOut := by
  unfold State.peerFrame
  split <;> rfl

theorem updSend_bridgeOut (s : State) (p g ave : Nat) (f : PeerEntry → PeerEntry) : (s.updSend p g ave f).bridgeOut = s.bridgeOut := rfl

/-- The bundle has left the bridge's inputs. -/
def State.leftBridge (s : State) (n k : Nat) (b : Bundle) : State :=
  { s with bridgeOut := Fm.upd [] (codePeer n) (fun l => l.erase (k, b)) s.bridgeOut }

theorem leftBridge_out (s : State) (n k : Nat) (b : Bundle) :
    Fm.get [] (codePeer n) (s.leftBridge n k b).bridgeOut = (Fm.get [] (codePeer n) s.bridgeOut).erase (k, b) :=
  Fm.get_upd_same [] (codePeer n) (fun l : List (Nat × Bundle) => l.erase (k, b)) s.bridgeOut

theorem peerSend_eq {n k : Nat} {b : Bundle} {e : PeerEntry} {tag : BitVec 8}
    (hnext : s.nextOut n [] (Fm.get [] (codePeer n) s.bridgeOut) = some (k, b)) (hact : s.sendAct n k b = .send e tag) :
    s.peerSend n = ((s.leftBridge n k b).updSend (s.exitPort n k b) b.garden b.avenue fun e => { e with sent := true }).peerFrame
      (s.exitPort n k b) fun dest => .bundle dest e.pcp e.key tag b := by
  unfold State.peerSend
  dsimp only
  rw [hnext]
  dsimp only
  rw [hact]
  rfl

theorem peerSend_sends {n k : Nat} {b : Bundle} {e : PeerEntry} {tag : BitVec 8}
    (hnext : s.nextOut n [] (Fm.get [] (codePeer n) s.bridgeOut) = some (k, b)) (hact : s.sendAct n k b = .send e tag) :
    Fm.get [] (codePeer n) (s.peerSend n).bridgeOut = (Fm.get [] (codePeer n) s.bridgeOut).erase (k, b) := by
  rw [peerSend_eq hnext hact, peerFrame_bridgeOut, updSend_bridgeOut]
  exact leftBridge_out s n k b

end

/-- Settles O45: each frame by what its port makes of it, each link event by its condition. -/
theorem peerFramesActAtTheirPort : Obligations.PeerFramesActAtTheirPort := by
  unfold Obligations.PeerFramesActAtTheirPort
  intro s port pf hp
  dsimp only
  refine ⟨?_, fun b m n hdest => ⟨fun hbad => bundle_bad hp hdest hbad b, gensync_bad hp hdest, fun hbad => probe_bad hp hdest hbad m n⟩,
    fun hbad type => peerFormOk_false hbad _ type,
    fun hdest hform hpcp b => ⟨fun hnone => ?_, fun e he => ⟨fun htag => ?_, fun htag => ?_⟩⟩, gensync_good hp,
    fun e he hsent => takeGensync_unsent he hsent, fun m n hdest hform hkey => ⟨_, probe_good hp hdest hform hkey m n, ?_⟩,
    fun hlit => ⟨_, probeSend_acts hp hlit, updPeerPort_onlyPeers s port _, fun hswap => ?_, fun w hswap => ?_⟩, probeTimeout_acts hp,
    blockLockLoss_acts hp, portDown_up, fun hdown hpartner hrecent hlit => ⟨_, peerLinkReturn_acts hp hdown hpartner hrecent hlit,
      linkReturned_up s port, linkReturned_slow s port⟩, fun n hn => peerSend_acts hn, fun n k b e tag hnext hact => peerSend_sends hnext hact⟩
  · intro b m n hdest cmd hcmd
    obtain ⟨hbundle, hgensync, hprobe⟩ := frame_elsewhere (s := s) hp hdest b m n
    rcases List.mem_cons.mp hcmd with rfl | hcmd
    · exact hbundle
    rcases List.mem_cons.mp hcmd with rfl | hcmd
    · exact hgensync
    · rw [List.mem_singleton.mp hcmd]
      exact hprobe
  · exact (bundle_good hp hdest hform hpcp b).trans (congrArg Host.Outcome.next (peerBundle_unknown ((peerHeard_find _).trans hnone) b))
  · exact (bundle_good hp hdest hform hpcp b).trans (congrArg Host.Outcome.next
      (peerBundle_enters ((peerHeard_find _).trans he) (peerHeard_endTag port e.garden) (updPeerPort_portAttach s port _ port) htag b))
  · exact (bundle_good hp hdest hform hpcp b).trans (congrArg Host.Outcome.next
      (peerBundle_stale ((peerHeard_find _).trans he) (peerHeard_endTag port e.garden) htag b))
  · obtain ⟨hpartner, hmac, hlast⟩ := takeProbe_port (s.peerHeard port pf) port pf (m, n)
    exact ⟨hpartner, hmac, hlast.trans (updPeerPort_now s port _), fun hsame => takeProbe_onlyPeers hsame pf⟩
  · rw [hswap, State.updPeerPort_same]
  · rw [hswap, State.updPeerPort_same]

end Sys2Proof.Machine

/-! ## Lanterns, cartridges, pauses and swaps (R394, R395, R408-R417, R484) -/

namespace Sys2Proof.Machine

/-! ### What ports that go down leave alone -/

/-- The state without its ports and without what reports of their losses touch. -/
def State.besidePorts (s : State) : State :=
  { s with peerPorts := [], hostPorts := [], oras := [], gardens := [], wd := [], met := [], slow := [] }

theorem besidePorts_of_beside {s t : State} (h : t.besideMemory = s.besideMemory) : t.besidePorts = s.besidePorts :=
  congrArg (fun u : State => { u with peerPorts := [], hostPorts := [] }) h

theorem updPeerPort_besidePorts (s : State) (n : Nat) (f : Port → Port) : (s.updPeerPort n f).besidePorts = s.besidePorts := rfl
theorem updHostPort_besidePorts (s : State) (n : Nat) (f : Port → Port) : (s.updHostPort n f).besidePorts = s.besidePorts := rfl
theorem report_besidePorts (s : State) (i : Incident) : (s.report i).besidePorts = s.besidePorts := rfl

theorem portIncident_besidePorts (s : State) (unit id : Nat) (gs : List Nat) : (s.portIncident unit id gs).besidePorts = s.besidePorts :=
  (foldl_keeps (g := State.besidePorts) (fun s g => besidePorts_of_beside (taint_beside s g 3)) gs _).trans (report_besidePorts _ _)

theorem portDown_besidePorts (s : State) (port : Nat) : (s.portDown port).besidePorts = s.besidePorts := by
  unfold State.portDown
  split
  · rfl
  · exact (portIncident_besidePorts _ _ _ _).trans (updPeerPort_besidePorts _ _ _)

theorem lanternDown_besidePorts (s : State) (n : Nat) : (s.lanternDown n).besidePorts = s.besidePorts := by
  have hpeers : ((s.peersOf n).foldl State.portDown s).besidePorts = s.besidePorts :=
    foldl_keeps (g := State.besidePorts) portDown_besidePorts _ s
  unfold State.lanternDown
  dsimp only
  split
  · exact (updHostPort_besidePorts _ _ _).trans ((updHostPort_besidePorts _ _ _).trans hpeers)
  · exact hpeers

theorem besidePorts_lantern {s t : State} (h : t.besidePorts = s.besidePorts) (n : Nat) : t.lantern n = s.lantern n := by
  have hf := congrArg State.lanterns h
  exact congrArg (Fm.get ({} : Port) n) hf

theorem besidePorts_cartridges {s t : State} (h : t.besidePorts = s.besidePorts) : t.cartridges = s.cartridges := by
  have hf := congrArg State.cartridges h
  exact hf

theorem besidePorts_cores {s t : State} (h : t.besidePorts = s.besidePorts) : t.cores = s.cores := by
  have hf := congrArg State.cores h
  exact hf

theorem cartridge_congr {s t : State} (h : t.cartridges = s.cartridges) (k : Nat) : t.cartridge k = s.cartridge k :=
  congrArg (Fm.get ({} : Cartridge) k) h

section
variable {s : State} {n c : Nat}

/-! ### The active cartridge -/

theorem Port.getF_setF_other (q : Port) {f g : Fld} (v : Nat) (h : f.lo + f.w ≤ 64)
    (hd : g.off ≠ f.off ∨ (g.blk = f.blk ∧ (g.lo + g.w ≤ f.lo ∨ f.lo + f.w ≤ g.lo))) : (q.setF f v).getF g = q.getF g :=
  Machine.getF_setF_other f g v q.regs h hd

theorem Port.getF_incF_other (q : Port) {f g : Fld} (v : Nat) (h : f.lo + f.w ≤ 64)
    (hd : g.off ≠ f.off ∨ (g.blk = f.blk ∧ (g.lo + g.w ≤ f.lo ∨ f.lo + f.w ≤ g.lo))) : (q.incF f v).getF g = q.getF g :=
  Machine.getF_setF_other f g _ q.regs h hd

/-- The standby takes over. -/
def Port.standbyTakes (c : Nat) (q : Port) : Port := (q.setF Reg.LN_LANT_STATUS_ACTIVE (1 - c)).incF Reg.LN_LANT_STATUS_SWITCHES 1

theorem standbyTakes_fields (c : Nat) (q : Port) : (q.standbyTakes c).getF Reg.LN_LANT_STATUS_ACTIVE = (1 - c) % 2 ∧
    (q.standbyTakes c).getF Reg.LN_LANT_STATUS_USABLE = q.getF Reg.LN_LANT_STATUS_USABLE :=
  ⟨(Port.getF_incF_other _ _ (by decide) (by decide)).trans (Port.getF_setF_same _ _ _ (by decide)),
    (Port.getF_incF_other _ _ (by decide) (by decide)).trans (Port.getF_setF_other _ _ (by decide) (by decide))⟩

theorem replaceActive_takes (h : s.usableCart n (1 - s.activeCart n) = true) :
    (s.replaceActive n).besidePorts = (s.updLantern n (Port.standbyTakes (s.activeCart n))).besidePorts := by
  unfold State.replaceActive
  dsimp only
  rw [if_pos h]
  exact portIncident_besidePorts _ _ _ _

theorem replaceActive_dark (h : s.usableCart n (1 - s.activeCart n) = false) : (s.replaceActive n).besidePorts = s.besidePorts := by
  unfold State.replaceActive
  dsimp only
  rw [if_neg (by rw [h]; decide)]
  exact (lanternDown_besidePorts _ _).trans (report_besidePorts _ _)

theorem replaceActive_active (h : s.usableCart n (1 - s.activeCart n) = true) :
    (s.replaceActive n).activeCart n = 1 - s.activeCart n := by
  unfold State.activeCart at h ⊢
  rw [besidePorts_lantern (replaceActive_takes h), State.updLantern_same]
  refine (standbyTakes_fields _ _).1.trans (Nat.mod_eq_of_lt ?_)
  exact Nat.lt_of_le_of_lt (Nat.sub_le _ _) (by decide)

theorem replaceActive_usable (s : State) (n d : Nat) : (s.replaceActive n).usableCart n d = s.usableCart n d := by
  unfold State.usableCart
  cases h : s.usableCart n (1 - s.activeCart n) with
  | true => rw [besidePorts_lantern (replaceActive_takes h), State.updLantern_same, (standbyTakes_fields _ _).2]
  | false => rw [besidePorts_lantern (replaceActive_dark h)]

theorem replaceActive_stores (s : State) (n : Nat) : (s.replaceActive n).cartridges = s.cartridges ∧ (s.replaceActive n).cores = s.cores ∧
    (s.replaceActive n).slow = s.slow := by
  have hslow : (s.replaceActive n).slow = s.slow := by
    have hkept := congrArg Prod.fst (State.replaceActive_kept s n)
    exact hkept
  cases h : s.usableCart n (1 - s.activeCart n) with
  | true =>
    have hbeside := replaceActive_takes h
    exact ⟨(besidePorts_cartridges hbeside).trans (State.updLantern_cartridges _ _ _),
      (besidePorts_cores hbeside).trans (State.updLantern_cores _ _ _), hslow⟩
  | false =>
    have hbeside := replaceActive_dark h
    exact ⟨besidePorts_cartridges hbeside, besidePorts_cores hbeside, hslow⟩

theorem setUsable_true (s : State) (n : Nat) (hc : c < 2) : (s.setUsable n c true).usableCart n c = true := by
  unfold State.setUsable State.usableCart
  rw [State.updLantern_same]
  dsimp only
  rw [Port.getF_setF_same _ _ _ (by decide)]
  rw [Nat.testBit_mod_two_pow, if_pos rfl, Nat.testBit_or, Nat.testBit_two_pow_self, Bool.or_true, Bool.and_true]
  exact decide_eq_true hc

theorem setUsable_stores (s : State) (n c : Nat) (b : Bool) : (s.setUsable n c b).cartridges = s.cartridges ∧
    (s.setUsable n c b).cores = s.cores ∧ (s.setUsable n c b).slow = s.slow := ⟨rfl, rfl, rfl⟩

/-! ### Cartridge events -/

theorem onLantern_next (hn : Config.lanternPresent n = true) (f : State → State) : onLantern n s f = .next (f s) := onUnit_next hn

theorem cartridgeExcursion_acts (hn : Config.lanternPresent n = true) (h : s.usableCart n (s.activeCart n) = true) :
    execCartridgeExcursion n s = .next ((s.setUsable n (s.activeCart n) false).replaceActive n) :=
  (onLantern_next hn _).trans (congrArg Host.Outcome.next (if_neg (by rw [h]; decide)))

theorem cartridgeExcursion_idle (hn : Config.lanternPresent n = true) (h : s.usableCart n (s.activeCart n) = false) :
    execCartridgeExcursion n s = .next s :=
  (onLantern_next hn _).trans (congrArg Host.Outcome.next (if_pos (by rw [h]; rfl)))

/-- What an event leaves of a lantern's stores: cartridges as of `u`, keepers and slow tier as they were. -/
def LanternKept (s u t : State) : Prop := t.cartridges = u.cartridges ∧ t.cores = s.cores ∧ t.slow = s.slow

theorem LanternKept.replaceActive {u t : State} (h : LanternKept s u t) (n : Nat) : LanternKept s u (t.replaceActive n) := by
  obtain ⟨hcarts, hcores, hslow⟩ := h
  obtain ⟨hcarts', hcores', hslow'⟩ := replaceActive_stores t n
  exact ⟨hcarts'.trans hcarts, hcores'.trans hcores, hslow'.trans hslow⟩

/-- One cartridge is judged by its readings (R642). -/
def State.judgeCart (s : State) (n c : Nat) (r : CartReading) : State :=
  let t := s.updCartridge (cartKey n c) (takeReading r)
  t.setUsable n c ((t.cartridge (cartKey n c)).emitting && (t.cartridge (cartKey n c)).within (cartKey n c))

/-- Both are. -/
def State.judgeBoth (s : State) (n : Nat) (r0 r1 : CartReading) : State := (s.judgeCart n 0 r0).judgeCart n 1 r1

theorem judgeCart_cartridges (s : State) (n c : Nat) (r : CartReading) :
    (s.judgeCart n c r).cartridges = (s.updCartridge (cartKey n c) (takeReading r)).cartridges := rfl

theorem judgeBoth_output (s : State) (n : Nat) (r0 r1 : CartReading) :
    ((s.judgeBoth n r0 r1).cartridge (cartKey n 0)).output = r0.output ∧ ((s.judgeBoth n r0 r1).cartridge (cartKey n 1)).output = r1.output := by
  have hother : cartKey n 0 ≠ cartKey n 1 := by
    unfold cartKey
    omega
  unfold State.judgeBoth
  rw [cartridge_congr (judgeCart_cartridges _ n 1 r1), cartridge_congr (judgeCart_cartridges _ n 1 r1), State.updCartridge_same,
    State.updCartridge_other _ _ _ hother, cartridge_congr (judgeCart_cartridges s n 0 r0), State.updCartridge_same]
  exact ⟨rfl, rfl⟩

theorem judgeBoth_kept (s : State) (n : Nat) (r0 r1 : CartReading) : LanternKept s (s.judgeBoth n r0 r1) (s.judgeBoth n r0 r1) := ⟨rfl, rfl, rfl⟩

theorem cartridgeJudgement_acts (hn : Config.lanternPresent n = true) (r0 r1 : CartReading) :
    ∃ t, execCartridgeJudgement n r0 r1 s = .next t ∧ LanternKept s (s.judgeBoth n r0 r1) t := by
  refine ⟨_, onLantern_next hn _, ?_⟩
  change LanternKept s (s.judgeBoth n r0 r1) (if _ then (s.judgeBoth n r0 r1).replaceActive n else s.judgeBoth n r0 r1)
  split
  · exact (judgeBoth_kept s n r0 r1).replaceActive n
  · exact judgeBoth_kept s n r0 r1

/-- The latch is open: the cartridge is out. -/
def State.cartOut (s : State) (n c : Nat) : State :=
  (s.updCartridge (cartKey n c) fun k => { k with inserted := false, emitting := false }).setUsable n c false

theorem cartOut_cartridge (s : State) (n c : Nat) : ((s.cartOut n c).cartridge (cartKey n c)).inserted = false ∧
    ((s.cartOut n c).cartridge (cartKey n c)).emitting = false := by
  have hcarts : (s.cartOut n c).cartridges =
      (s.updCartridge (cartKey n c) fun k => { k with inserted := false, emitting := false }).cartridges := rfl
  rw [cartridge_congr hcarts, State.updCartridge_same]
  exact ⟨rfl, rfl⟩

theorem cartOut_kept (s : State) (n c : Nat) : LanternKept s (s.cartOut n c) (s.cartOut n c) := ⟨rfl, rfl, rfl⟩

theorem cartridgeRelease_acts (hn : Config.lanternPresent n = true) (hc : c < 2) :
    ∃ t, execCartridgeRelease n c s = .next t ∧ LanternKept s (s.cartOut n c) t := by
  refine ⟨_, onUnit_next (by rw [hn, decide_eq_true hc]; rfl), ?_⟩
  change LanternKept s (s.cartOut n c) (if _ then (s.cartOut n c).replaceActive n else s.cartOut n c)
  split
  · exact (cartOut_kept s n c).replaceActive n
  · exact cartOut_kept s n c

theorem cartridgeInsert_acts (hn : Config.lanternPresent n = true) (hc : c < 2) (h : (s.cartridge (cartKey n c)).inserted = false) :
    execCartridgeInsert n c s = .next (s.updCartridge (cartKey n c) fun k => { inserted := true, changes := k.changes + 1 }) :=
  (onUnit_next (by rw [hn, decide_eq_true hc]; rfl)).trans (congrArg Host.Outcome.next (if_neg (by rw [h]; decide)))

/-- The cartridge emits, and is usable. -/
def State.cartReady (s : State) (n c : Nat) : State :=
  (s.updCartridge (cartKey n c) fun k => { k with emitting := true }).setUsable n c true

theorem cartReady_emits (s : State) (n c : Nat) : ((s.cartReady n c).cartridge (cartKey n c)).emitting = true := by
  have hcarts : (s.cartReady n c).cartridges = (s.updCartridge (cartKey n c) fun k => { k with emitting := true }).cartridges := rfl
  rw [cartridge_congr hcarts, State.updCartridge_same]

theorem cartReady_kept (s : State) (n c : Nat) : LanternKept s (s.cartReady n c) (s.cartReady n c) := ⟨rfl, rfl, rfl⟩

theorem cartridgeReady_acts (hn : Config.lanternPresent n = true) (hc : c < 2) (hin : (s.cartridge (cartKey n c)).inserted = true)
    (hdark : (s.cartridge (cartKey n c)).emitting = false) :
    ∃ t, execCartridgeReady n c s = .next t ∧ LanternKept s (s.cartReady n c) t ∧ t.usableCart n c = true := by
  refine ⟨_, (onUnit_next (by rw [hn, decide_eq_true hc]; rfl)).trans (congrArg Host.Outcome.next (if_neg ?_)), ?_⟩
  · rw [hin, hdark]
    decide
  change LanternKept s (s.cartReady n c) (if _ then s.cartReady n c else (s.cartReady n c).replaceActive n) ∧
    State.usableCart (if _ then s.cartReady n c else (s.cartReady n c).replaceActive n) n c = true
  have husable : (s.cartReady n c).usableCart n c = true := setUsable_true _ n hc
  split
  · exact ⟨cartReady_kept s n c, husable⟩
  · exact ⟨(cartReady_kept s n c).replaceActive n, (replaceActive_usable _ n c).trans husable⟩

end

section
variable {s : State}

/-! ### Links of the host ports -/

theorem linkF_fits (link : Nat) : (linkF link).lo + (linkF link).w ≤ 64 := by unfold linkF; split <;> decide
theorem linkF_width (link : Nat) : (linkF link).w = 1 := by unfold linkF; split <;> rfl

theorem hostLinkDown_acts {port link : Nat} (hport : port < 2) (hlink : link < 2) :
    execHostLinkDown port link s = .next (s.updHostPort port fun q => q.setF (linkF link) 0) := onUnit_next (decide_eq_true ⟨hport, hlink⟩)

theorem setLink_getF (s : State) (port link v : Nat) (hv : v < 2) :
    ((s.updHostPort port fun q => q.setF (linkF link) v).hostPort port).getF (linkF link) = v := by
  rw [State.updHostPort_same, Port.getF_setF_same _ _ _ (linkF_fits link), linkF_width]
  exact Nat.mod_eq_of_lt hv

theorem hostSwapped_none (hnone : s.swaps = []) (h : Nat) : s.hostSwapped h = s := by
  unfold State.hostSwapped
  rw [hnone]
  rfl

theorem hostLinkUp_acts {port link : Nat} (hport : port < 2) (hlink : link < 2) (hlit : s.lanternLit 2 = true)
    (hhas : s.hasLink port link = true) (hnone : s.swaps = []) :
    execHostLinkUp port link s = .next (s.updHostPort port fun q => q.setF (linkF link) 1) := by
  refine (onUnit_next (decide_eq_true ⟨hport, hlink⟩)).trans (congrArg Host.Outcome.next ?_)
  rw [if_neg (by rw [hlit, hhas]; decide)]
  exact hostSwapped_none ((State.updHostPort_swaps _ _ _).trans hnone) port

/-! ### Edge regulators -/

/-- A unit of the edge is without power. -/
def State.edgeLost (s : State) (n : Nat) : State := { s with power := { s.power with edgeFailed := sins n s.power.edgeFailed } }

theorem edgeLost_mem (s : State) (n : Nat) : n ∈ (s.edgeLost n).power.edgeFailed := mem_sins.mpr (Or.inl rfl)

theorem slowWrite_power (s : State) (a : Nat) (bs : List Byte) : (s.slowWrite a bs).power = s.power := by
  unfold State.slowWrite
  rfl

theorem findErrs_power (s : State) (o : Nat) (read : Nat → Bool) (g : Option Nat) (op : Nat) : (s.findErrs o read g op).power = s.power := by
  have hbeside := congrArg State.power (findErrs_beside s o read g op)
  exact hbeside

theorem engineIncident_power (s : State) (o g : Nat) : (s.engineIncident o g).power = s.power := rfl

theorem commitGranule_power (o : Nat) (l : Layer) (k : Coef) (p : Pass) (qj : Nat × Nat) :
    (State.commitGranule o l k p qj).s.power = p.s.power := by
  unfold State.commitGranule
  extract_lets +onlyGivenNames wA mA sA slot data own
  split
  · rfl
  split
  · rfl
  extract_lets +onlyGivenNames s q v
  have hs : s.power = p.s.power := findErrs_power _ _ _ _ _
  clear_value s
  split
  · exact hs
  split
  · exact (engineIncident_power _ _ _).trans ((State.updOra_power _ _ _).trans hs)
  extract_lets +onlyGivenNames ws ms bs fs
  split
  exact (State.updOra_power _ _ _).trans ((slowWrite_power _ _ _).trans ((slowWrite_power _ _ _).trans hs))

theorem commitLayer_power (o : Nat) (p : Pass) (l : Layer) : (State.commitLayer o p l).s.power = p.s.power := by
  unfold State.commitLayer
  split
  · rfl
  extract_lets +onlyGivenNames s k q
  have hs : s.power = p.s.power := (findErrs_power _ _ _ _ _).trans (State.updOra_power _ _ _)
  have hq : q.s.power = p.s.power := (foldl_keeps (g := fun p : Pass => p.s.power) (commitGranule_power o l k) _ _).trans hs
  clear_value q
  split
  · exact hq
  · exact (engineIncident_power _ _ _).trans hq

theorem runCommit_power (s : State) (o g : Nat) (left : Option Nat) : (s.runCommit o g left).power = s.power := by
  have hlayers : (((s.orang o).layersOf g).foldl (State.commitLayer o) { s := s, left := left }).s.power = s.power :=
    foldl_keeps (g := fun p : Pass => p.s.power) (commitLayer_power o) _ _
  unfold State.runCommit
  dsimp only
  split
  · exact (State.updOra_power _ _ _).trans ((engineIncident_power _ _ _).trans hlayers)
  · exact (State.updOra_power _ _ _).trans hlayers

theorem breakCommit_power (o : Nat) (s : State) (g : Nat) : (State.breakCommit o s g).power = s.power := by
  unfold State.breakCommit
  split
  · rfl
  extract_lets n
  split
  next x t hdraw =>
    have ht : t.power = s.power := by
      rw [State.draw, Prod.mk.injEq] at hdraw
      rw [← hdraw.2]
    exact (State.updOra_power _ _ _).trans ((runCommit_power _ _ _ _).trans ht)

theorem breakCommit_idle {o g : Nat} (h : (s.orang o).eng g ≠ engCommitting) : State.breakCommit o s g = s := if_pos h

theorem foldl_breakCommit_idle {o : Nat} (l : List Nat) (h : ∀ g ∈ l, (s.orang o).eng g ≠ engCommitting) :
    l.foldl (State.breakCommit o) s = s := by
  induction l with
  | nil => rfl
  | cons g l ih =>
    rw [List.foldl_cons, breakCommit_idle (h g (List.mem_cons_self ..))]
    exact ih fun d hd => h d (List.mem_cons_of_mem _ hd)

theorem landEntry_onlyPavs (s : State) (r port : Nat) (e : GateEntry) : OnlyPavs s (s.landEntry r port e) :=
  (onlyPavs_foldl (fun s _ => updPav_onlyPavs s _ _) _ s).trans (onlyPavs_foldl (fun s _ => updPav_onlyPavs s _ _) _ _)

theorem closeGate_onlyPavs (s : State) (r side : Nat) : OnlyPavs s (s.closeGate r side) :=
  (onlyPavs_foldl (fun s e => landEntry_onlyPavs s r side e) _ s).trans (updPav_onlyPavs _ _ _)

theorem setUp_onlyPavs (s : State) (r side : Nat) (up : Bool) : OnlyPavs s (s.setUp r side up) := by
  have hgate : OnlyPavs s (if isSeam r side then (if up then s.openGate r side else s.closeGate r side) else s) := by
    split
    · split
      · exact updPav_onlyPavs s _ _
      · exact closeGate_onlyPavs s r side
    · exact .refl s
  unfold State.setUp
  exact hgate.trans (updPav_onlyPavs _ _ _)

theorem markDown_onlyPavs (s : State) (r side : Nat) : OnlyPavs s (s.markDown r side) :=
  (setUp_onlyPavs s r side false).trans (updPav_onlyPavs _ _ _)

theorem OnlyPavs.power {s t : State} (h : OnlyPavs s t) : t.power = s.power := (congrArg State.power h :)

/-- The links of an orangery marked down. -/
def State.linksLost (s : State) (o : Nat) : State := (attachOf o).foldl (fun s r => s.markDown r (if o < 8 then 3 else 1)) s

theorem linksLost_keeps (s : State) (o : Nat) : (s.linksLost o).power = s.power ∧ (s.linksLost o).oras = s.oras ∧ (s.linksLost o).slow = s.slow :=
  have hpavs : OnlyPavs s (s.linksLost o) := onlyPavs_foldl (fun s r => markDown_onlyPavs s r _) _ s
  ⟨hpavs.power, hpavs.oras, hpavs.slow⟩

/-- What follows a broken commit: the orangery marked lost, and the gardens it served tainted. -/
def State.lossMarked (s : State) (o : Nat) : State :=
  let t := { s with endOut := Fm.del (codeOra o) s.endOut }
  let t := t.updOra o Ora.goneLost
  let t := t.report { kind := 0x50, unit := 4, unitId := o, flags := 1, action := 9 }
  (List.range 4).foldl (fun s g => if s.usesSlow g then s.taint g 3 else s) t

theorem oraLoss_eq (s : State) (o : Nat) : s.oraLoss o = ((List.range 4).foldl (State.breakCommit o) (s.linksLost o)).lossMarked o := rfl

theorem taint_power (s : State) (g reason : Nat) : (s.taint g reason).power = s.power := (congrArg State.power (taint_beside s g reason) :)

theorem taint_slow (s : State) (g reason : Nat) : (s.taint g reason).slow = s.slow := by
  unfold State.taint
  split
  · rfl
  split
  · rfl
  split <;> rfl

theorem taintUsers_keeps {α : Type} {f : State → α} (h : ∀ s g, f (s.taint g 3) = f s) (s : State) :
    f ((List.range 4).foldl (fun s g => if s.usesSlow g then s.taint g 3 else s) s) = f s :=
  foldl_keeps (g := f) (fun s g => by split; exacts [h s g, rfl]) _ s

theorem setEndOut_power (s : State) (m : FMap (List Packet)) : { s with endOut := m }.power = s.power := rfl
theorem setEndOut_slow (s : State) (m : FMap (List Packet)) : { s with endOut := m }.slow = s.slow := rfl
theorem report_power (s : State) (i : Incident) : (s.report i).power = s.power := rfl

theorem lossMarked_power (s : State) (o : Nat) : (s.lossMarked o).power = s.power := by
  unfold State.lossMarked
  extract_lets t1 t2 t3
  exact (taintUsers_keeps (f := State.power) (fun s g => taint_power s g 3) t3).trans <| (report_power t2 _).trans <|
    (State.updOra_power t1 o _).trans (setEndOut_power s _)

theorem lossMarked_slow (s : State) (o : Nat) : (s.lossMarked o).slow = s.slow := by
  unfold State.lossMarked
  extract_lets t1 t2 t3
  exact (taintUsers_keeps (f := State.slow) (fun s g => taint_slow s g 3) t3).trans <| (report_slow t2 _).trans <|
    (State.updOra_slow t1 o _).trans (setEndOut_slow s _)

theorem oraLoss_power (s : State) (o : Nat) : (s.oraLoss o).power = s.power := by
  rw [oraLoss_eq, lossMarked_power, foldl_keeps (g := State.power) (breakCommit_power o), (linksLost_keeps s o).1]

theorem oraLoss_slow {o : Nat} (h : ∀ g < 4, (s.orang o).eng g ≠ engCommitting) : (s.oraLoss o).slow = s.slow := by
  obtain ⟨-, horas, hslow⟩ := linksLost_keeps s o
  have hidle : (List.range 4).foldl (State.breakCommit o) (s.linksLost o) = s.linksLost o :=
    foldl_breakCommit_idle _ fun g hg => by
      rw [orang_congr horas]
      exact h g (List.mem_range.mp hg)
  rw [oraLoss_eq, hidle, lossMarked_slow, hslow]

/-- The orangery's link has no module left. -/
def Ora.unlinked (v : Ora) : Ora := (v.setF (rateF 0) 0).setF (rateF 1) 0

theorem edgeRegulatorFail_orangery {o : Nat} (r : Nat) (ho : Config.orangeryPresent o = true) (hnew : o ∉ s.power.edgeFailed) :
    execEdgeRegulatorFail r (.orangery o) s = .next (((s.edgeLost o).updOra o Ora.unlinked).oraLoss o) := by
  unfold execEdgeRegulatorFail
  refine (onUnit_next ho).trans (congrArg Host.Outcome.next (if_neg ?_))
  rw [List.contains_iff_mem]
  exact hnew

theorem unlinked_eng (v : Ora) {g : Nat} (hg : g < 4) : v.unlinked.eng g = v.eng g := by
  have hfar (m : Nat) (hm : m < 2) : (engState g).off ≠ (rateF m).off := by
    interval_cases g <;> interval_cases m <;> decide
  have hfits (m : Nat) (hm : m < 2) : (rateF m).lo + (rateF m).w ≤ 64 := by interval_cases m <;> decide
  exact (Ora.getF_setF_other _ _ (hfits 1 (by decide)) (Or.inl (hfar 1 (by decide)))).trans
    (Ora.getF_setF_other _ _ (hfits 0 (by decide)) (Or.inl (hfar 0 (by decide))))

theorem edgeLost_orangery {o : Nat} (s : State) : o ∈ (((s.edgeLost o).updOra o Ora.unlinked).oraLoss o).power.edgeFailed ∧
    ((((s.edgeLost o).updOra o Ora.unlinked).oraLoss o).orang o).getF Reg.OR_STATUS_FAULT = 1 ∧
    ((((s.edgeLost o).updOra o Ora.unlinked).oraLoss o).orang o).getF Reg.OR_STATUS_READY = 0 ∧
    ((∀ g < 4, (s.orang o).eng g ≠ engCommitting) → (((s.edgeLost o).updOra o Ora.unlinked).oraLoss o).slow = s.slow) := by
  obtain ⟨⟨v, hv⟩, -⟩ := oraLoss_facts ((s.edgeLost o).updOra o Ora.unlinked) o
  obtain ⟨hfault, hready, -⟩ := goneLost_fields v
  refine ⟨?_, by rw [hv, hfault], by rw [hv, hready], fun hquiet => ?_⟩
  · rw [oraLoss_power, State.updOra_power]
    exact edgeLost_mem s o
  · have hslow : ((s.edgeLost o).updOra o Ora.unlinked).slow = s.slow := rfl
    refine (oraLoss_slow fun g hg => ?_).trans hslow
    rw [State.updOra_same, unlinked_eng _ hg]
    exact hquiet g hg

/-- A unit without which the module stops (R471). -/
theorem edgeLost_stops (s : State) (n : Nat) : n ∈ (s.edgeLost n).moduleStop.power.edgeFailed ∧ (s.edgeLost n).moduleStop.power.stopped = true ∧
    (s.edgeLost n).moduleStop.pins.pgood = false ∧ (s.edgeLost n).moduleStop.slow = s.slow := ⟨edgeLost_mem s n, rfl, rfl, rfl⟩

/-! ### Pauses -/

theorem pfcFits_peer {port prio : Nat} (hport : Config.peerPresent port = true) (hprio : prio < 7) : pfcFits true port prio = true := by
  unfold pfcFits
  rw [if_pos rfl, hport, decide_eq_true (Nat.lt_succ_of_lt hprio)]
  rfl

theorem pfcFrame_peer {port prio : Nat} (hport : Config.peerPresent port = true) (hprio : prio < 7) (quanta : Nat) :
    execPfcFrame true port prio quanta s = .next (s.updPeerPort port fun q => q.setF (peerPausedF prio) (if 0 < quanta then 1 else 0)) := by
  refine (onUnit_next (pfcFits_peer hport hprio)).trans (congrArg Host.Outcome.next ?_)
  dsimp only
  rw [if_pos rfl, if_pos hprio, b01]
  simp only [decide_eq_true_eq]

theorem pauseExpire_peer {port prio : Nat} (hport : Config.peerPresent port = true) (hprio : prio < 7) :
    execPauseExpire true port prio s = .next (s.updPeerPort port fun q => q.setF (peerPausedF prio) 0) :=
  (onUnit_next (pfcFits_peer hport hprio)).trans (congrArg Host.Outcome.next ((if_pos rfl).trans (if_pos hprio)))

theorem pfcRefresh_peer {port prio : Nat} (hport : Config.peerPresent port = true) (hprio : prio < 7)
    (hxoff : (s.peerPort port).getF (xoffF prio) = 1) :
    execPfcRefresh true port prio s = .next (s.sendPfc port prio (decide (524288 < s.ingress port prio))) := by
  refine (onUnit_next (pfcFits_peer hport hprio)).trans (congrArg Host.Outcome.next ((if_pos rfl).trans (if_neg ?_)))
  rw [hxoff, decide_eq_false (Nat.not_le.mpr hprio)]
  decide

/-! ### Swaps -/

theorem pastLimits_of {readings : List (Nat × Nat)} (hlen : readings.length = 16)
    (h : ∀ r ∈ readings, s.cfgNat cfgSwapFec ≤ r.1 ∨ s.cfgNat cfgSwapTx ≤ r.2) : s.pastLimits readings = true := by
  unfold State.pastLimits
  rw [Bool.and_eq_true, decide_eq_true_eq, List.all_eq_true]
  refine ⟨hlen.ge, fun r hr => ?_⟩
  rw [Bool.or_eq_true, decide_eq_true_eq, decide_eq_true_eq]
  exact h r (List.mem_reverse.mp (List.mem_of_mem_take hr))

theorem any_changes_false {s : State} {port : Nat} (h : ∀ j ∈ s.post.jobs, ∀ d ∈ s.swapGardens port, j.changesGarden d = false) :
    (s.post.jobs.any fun j => (s.swapGardens port).any fun g => j.changesGarden g) = false := by
  rw [List.any_eq_false]
  intro j hj
  rw [List.any_eq_true]
  rintro ⟨d, hd, hchanges⟩
  exact Bool.noConfusion (hchanges.symm.trans (h j hj d hd))

theorem any_swap_false {s : State} {port : Nat} (h : ∀ w ∈ s.swaps, w.port ≠ port) : (s.swaps.any fun w => w.port = port) = false := by
  rw [List.any_eq_false]
  exact fun w hw => by simpa using h w hw

theorem autoSwap_acts {port spare : Nat} {readings : List (Nat × Nat)} (hport : Config.peerPresent port = true)
    (hfree : [0, 1].find? s.spareFree = some spare) (hcfg : s.cfg cfgSwapAuto = 1) (hserves : s.inService = true)
    (hpast : s.pastLimits readings = true) (hnew : ∀ w ∈ s.swaps, w.port ≠ port)
    (hquiet : ∀ j ∈ s.post.jobs, ∀ d ∈ s.swapGardens port, j.changesGarden d = false) :
    execAutoSwap port readings s = .next ((s.startSwap port spare true).addJob { kind := .autoSwap, arg := port, arg2 := spare }) := by
  refine (onPeer_next hport).trans (congrArg Host.Outcome.next ?_)
  rw [hfree]
  refine if_neg ?_
  rw [hcfg, hpast, hserves, any_swap_false hnew, any_changes_false hquiet]
  decide

theorem swapPartnerFound_acts {spare : Nat} (hspare : spare < 2) (m : Word) (p : Nat) :
    ∃ t, execSwapPartnerFound spare m p s = .next t ∧ { t with swaps := s.swaps } = s ∧
      ∀ w ∈ s.swaps, w.spare = spare → w.phase = 0 → w.port < 16 → (s.peerPort w.port).partner = some (m, p) → { w with phase := 1 } ∈ t.swaps := by
  refine ⟨_, onUnit_next (decide_eq_true hspare), rfl, fun w hw hwspare hphase hport hpartner => List.mem_map.mpr ⟨w, hw, if_pos ?_⟩⟩
  simp [hwspare, hphase, hport, hpartner]

theorem swapTimeout_waits {spare : Nat} (hspare : spare < 2)
    (h : ∀ w ∈ s.swaps, w.spare = spare → w.phase = 0 → s.now < w.began + 600 * ticksPerSec) : execSwapTimeout spare s = .next s := by
  have hnone : (s.swaps.find? fun w => w.spare = spare && w.phase = 0 && w.began + 600 * ticksPerSec ≤ s.now) = none := by
    rw [List.find?_eq_none]
    intro w hw hdue
    rw [Bool.and_eq_true, Bool.and_eq_true, decide_eq_true_eq, decide_eq_true_eq, decide_eq_true_eq] at hdue
    obtain ⟨⟨hwspare, hphase⟩, hlate⟩ := hdue
    exact Nat.not_le.mpr (h w hw hwspare hphase) hlate
  refine (onUnit_next (decide_eq_true hspare)).trans (congrArg Host.Outcome.next ?_)
  rw [hnone]

theorem swapTimeout_drops {spare : Nat} {w : Swap} {j : Job} (hspare : spare < 2)
    (hw : (s.swaps.find? fun w => w.spare = spare && w.phase = 0 && w.began + 600 * ticksPerSec ≤ s.now) = some w)
    (hj : s.jobById w.job = some j) (hphase : j.phase = 0) (hnone : (s.swapGardens w.port).isEmpty = true) :
    execSwapTimeout spare s = .next (s.dropSwap j dState) := by
  refine (onUnit_next (decide_eq_true hspare)).trans (congrArg Host.Outcome.next ?_)
  rw [hw]
  dsimp only
  rw [hj]
  dsimp only
  rw [if_neg (not_not.mpr hphase)]
  exact if_pos (by rw [hnone, Bool.or_true])

end

/-- Settles O46: each event by its condition, and what it leaves of the lantern, the ports and the swaps. -/
theorem lanternsCartridgesAndPauses : Obligations.LanternsCartridgesAndPauses := by
  unfold Obligations.LanternsCartridgesAndPauses
  intro s n c hn hc
  dsimp only
  refine ⟨cartridgeExcursion_acts hn, cartridgeExcursion_idle hn, fun h _ => replaceActive_active h, fun r0 r1 => ?_, ?_,
    fun hout => ⟨_, cartridgeInsert_acts hn hc hout, rfl, State.updCartridge_same _ _ _⟩, fun hin hdark => ?_,
    fun port link hport hlink => ⟨_, hostLinkDown_acts hport hlink, rfl, setLink_getF s port link 0 (by decide),
      fun d hd => State.updHostPort_other _ _ _ hd⟩,
    fun port link hport hlink hlit hhas hnone => ⟨_, hostLinkUp_acts hport hlink hlit hhas hnone, rfl, setLink_getF s port link 1 (by decide)⟩,
    fun o ho hnew => ⟨_, edgeRegulatorFail_orangery 0 ho hnew, edgeLost_orangery s⟩, fun r x hx => ?_,
    fun port prio quanta hport hprio => ⟨pfcFrame_peer hport hprio quanta, pauseExpire_peer hport hprio, pfcRefresh_peer hport hprio⟩,
    fun port readings spare hport hfree hcfg hserves hpast hnew hquiet => autoSwap_acts hport hfree hcfg hserves hpast hnew hquiet,
    fun readings hlen h => pastLimits_of hlen h, fun spare m p hspare => swapPartnerFound_acts hspare m p,
    fun spare hspare h => swapTimeout_waits hspare h,
    fun spare w j hspare hw hj hphase hnone => swapTimeout_drops hspare hw hj hphase hnone⟩
  · obtain ⟨t, hacts, hcarts, hcores, hslow⟩ := cartridgeJudgement_acts (s := s) hn r0 r1
    obtain ⟨h0, h1⟩ := judgeBoth_output s n r0 r1
    exact ⟨t, hacts, hslow, hcores, by rw [cartridge_congr hcarts, h0], by rw [cartridge_congr hcarts, h1]⟩
  · obtain ⟨t, hacts, hcarts, hcores, hslow⟩ := cartridgeRelease_acts (s := s) hn hc
    obtain ⟨hin, hemit⟩ := cartOut_cartridge s n c
    exact ⟨t, hacts, by rw [cartridge_congr hcarts, hin], by rw [cartridge_congr hcarts, hemit], hslow, hcores⟩
  · obtain ⟨t, hacts, ⟨hcarts, -, hslow⟩, husable⟩ := cartridgeReady_acts hn hc hin hdark
    exact ⟨t, hacts, by rw [cartridge_congr hcarts, cartReady_emits], husable, hslow⟩
  · have hstops (unit : EdgeUnit) (k : Nat) (h : execEdgeRegulatorFail r unit s = .next (s.edgeLost k).moduleStop) :
        ∃ t, execEdgeRegulatorFail r unit s = .next t ∧ k ∈ t.power.edgeFailed ∧ t.power.stopped = true ∧ t.pins.pgood = false ∧
          t.slow = s.slow := ⟨_, h, edgeLost_stops s k⟩
    rcases List.mem_cons.mp hx with rfl | hx
    · exact hstops .postmaster 32 rfl
    rcases List.mem_cons.mp hx with rfl | hx
    · exact hstops .icehouse 33 rfl
    rcases List.mem_cons.mp hx with rfl | hx
    · exact hstops .lodge 34 rfl
    · rw [List.mem_singleton.mp hx]
      exact hstops .sundial 35 rfl

end Sys2Proof.Machine

/-! ## Letters of peer avenues and ports (R404-R409) -/

namespace Sys2Proof.Machine

section
variable {s : State} {ch : Nat} {a : Accepted}

/-- The list of entries an avenue's opening adds to: those that send, or those that receive. -/
def State.peerList (s : State) (l : Letter) : List PeerEntry := if l.field 3 1 = 0 then s.sends else s.recvs

/-- The change that opens an avenue (R408). -/
def Accepted.peerOpening (a : Accepted) : Job :=
  let send := a.letter.field 3 1 = 0
  { kind := .peerOpen, garden := a.letter.garden, changes := [.peer a.letter.garden send true (a.letter.peerEntry a.channel)] }

theorem peerAvenueOpen_noPort (h : letterTurn s 0x90 ch a = true) (hport : 16 ≤ (a.letter.peerEntry a.channel).port) :
    execPeerAvenueOpen ch s = .next (s.dead a dField { offset := 2 }) :=
  (onLetter_turn h _).trans (congrArg Host.Outcome.next (if_pos hport))

section
variable (hport : (a.letter.peerEntry a.channel).port < 16) (hpres : Config.peerPresent (a.letter.peerEntry a.channel).port = true)
  (hclosing : s.portClosing a.letter.garden (a.letter.peerEntry a.channel).port = none)
  (hstate : s.gState a.letter.garden = gLoaded ∨ s.gState a.letter.garden = gRunning)
  (hrecord : s.peerRecord a.letter.garden (a.letter.peerEntry a.channel).avenue (a.letter.peerEntry a.channel).port = true)
include hport hpres hclosing hstate hrecord

/-- An avenue of the image, on a port that is not being closed, is opened as its garden's protection and the port's entries allow. -/
theorem peerAvenueOpen_named (h : letterTurn s 0x90 ch a = true) : execPeerAvenueOpen ch s = .next
    (let e := a.letter.peerEntry a.channel
     if !(s.garden a.letter.garden).prot.peer.testBit e.port then s.dead a dProtection { unit := 8, unitId := e.port }
     else if !a.letter.peerFields || (s.peerList a.letter).any
        (fun x => x.port = e.port && (x.key = e.key || (x.garden = a.letter.garden && x.avenue = e.avenue))) then
      s.dead a dField { unit := 8, unitId := e.port }
     else if 64 ≤ ((s.peerList a.letter).filter fun x => x.port = e.port).length then s.dead a dResource { unit := 8, unitId := e.port }
     else s.begin a a.peerOpening) := by
  refine (onLetter_turn h _).trans (congrArg Host.Outcome.next ?_)
  unfold State.peerAvenueOpen
  dsimp only
  have hgood : ¬((s.gState a.letter.garden ≠ gLoaded ∧ s.gState a.letter.garden ≠ gRunning) ∨
      (!s.peerRecord a.letter.garden (a.letter.peerEntry a.channel).avenue (a.letter.peerEntry a.channel).port) = true) := by
    rintro (⟨hloaded, hrunning⟩ | hno)
    · exact hstate.elim hloaded hrunning
    · rw [hrecord] at hno
      exact absurd hno (by decide)
  rw [if_neg (Nat.not_le.mpr hport), if_neg (by rw [hpres]; decide), hclosing]
  dsimp only
  rw [if_neg hgood]
  rfl

theorem peerAvenueOpen_protected (hprot : (s.garden a.letter.garden).prot.peer.testBit (a.letter.peerEntry a.channel).port = false)
    (h : letterTurn s 0x90 ch a = true) :
    execPeerAvenueOpen ch s = .next (s.dead a dProtection { unit := 8, unitId := (a.letter.peerEntry a.channel).port }) := by
  refine (peerAvenueOpen_named hport hpres hclosing hstate hrecord h).trans (congrArg Host.Outcome.next ?_)
  exact if_pos (by rw [hprot]; rfl)

theorem peerAvenueOpen_begins (hprot : (s.garden a.letter.garden).prot.peer.testBit (a.letter.peerEntry a.channel).port = true)
    (hfields : a.letter.peerFields = true)
    (hnew : ∀ x ∈ s.peerList a.letter, x.port = (a.letter.peerEntry a.channel).port → x.key ≠ (a.letter.peerEntry a.channel).key ∧
      (x.garden ≠ a.letter.garden ∨ x.avenue ≠ (a.letter.peerEntry a.channel).avenue))
    (hroom : ((s.peerList a.letter).filter fun x => x.port = (a.letter.peerEntry a.channel).port).length < 64)
    (h : letterTurn s 0x90 ch a = true) : execPeerAvenueOpen ch s = .next (s.begin a a.peerOpening) := by
  refine (peerAvenueOpen_named hport hpres hclosing hstate hrecord h).trans (congrArg Host.Outcome.next ?_)
  have hany : ((s.peerList a.letter).any fun x => x.port = (a.letter.peerEntry a.channel).port &&
      (x.key = (a.letter.peerEntry a.channel).key ||
        (x.garden = a.letter.garden && x.avenue = (a.letter.peerEntry a.channel).avenue))) = false := by
    rw [List.any_eq_false]
    intro x hx
    simp only [Bool.and_eq_true, Bool.or_eq_true, decide_eq_true_eq]
    rintro ⟨hxport, hxkey | ⟨hxgarden, hxavenue⟩⟩
    · exact (hnew x hx hxport).1 hxkey
    · exact (hnew x hx hxport).2.elim (fun hno => hno hxgarden) (fun hno => hno hxavenue)
  dsimp only
  rw [if_neg (by rw [hprot]; decide), hany, if_neg (by rw [hfields]; decide), if_neg (Nat.not_le.mpr hroom)]

end

theorem peerAvenueClose_begins (h : letterTurn s 0x91 ch a = true) (hn : a.letter.field 0 2 < 1024) : execPeerAvenueClose ch s =
    .next (s.begin a { kind := .peerClose, garden := a.letter.garden, arg := a.letter.field 0 2, arg2 := 16 }) :=
  (onLetter_turn h _).trans (congrArg Host.Outcome.next (if_neg (Nat.not_le.mpr hn)))

theorem peerAvenueClose_bad (h : letterTurn s 0x91 ch a = true) (hn : 1024 ≤ a.letter.field 0 2) :
    execPeerAvenueClose ch s = .next (s.dead a dField { offset := 0 }) :=
  (onLetter_turn h _).trans (congrArg Host.Outcome.next (if_pos hn))

theorem peerPortSwap_begins (h : letterTurn s 0x92 ch a = true)
    (hport : a.letter.field 0 1 < 16 ∧ Config.peerPresent (a.letter.field 0 1) = true ∨ a.letter.field 0 1 = 0x80 ∨ a.letter.field 0 1 = 0x81)
    (hspare : a.letter.field 1 1 < 2) (hfree : s.spareFree (a.letter.field 1 1) = true) (hnew : ∀ w ∈ s.swaps, w.port ≠ a.letter.field 0 1)
    (hquiet : ∀ j ∈ s.post.jobs, ∀ d ∈ s.swapGardens (a.letter.field 0 1), j.changesGarden d = false) :
    execPeerPortSwap ch s = .next ((s.startSwap (a.letter.field 0 1) (a.letter.field 1 1) false).begin a
      { kind := .swap, arg := a.letter.field 0 1, arg2 := a.letter.field 1 1 }) := by
  refine (onLetter_turn h _).trans (congrArg Host.Outcome.next ?_)
  have hpresent : ¬(decide (a.letter.field 0 1 < 16) && !Config.peerPresent (a.letter.field 0 1)) = true := by
    rcases hport with ⟨-, hpres⟩ | hhost | hhost
    · simp [hpres]
    · simp [hhost]
    · simp [hhost]
  have hnamed : ¬(!(decide (a.letter.field 0 1 < 16) || decide (a.letter.field 0 1 = 0x80) || decide (a.letter.field 0 1 = 0x81))) = true := by
    rcases hport with ⟨hlow, -⟩ | hhost | hhost
    · simp [hlow]
    · simp [hhost]
    · simp [hhost]
  have hnone : (s.post.jobs.find? fun j => (s.swapGardens (a.letter.field 0 1)).any fun g => j.changesGarden g) = none :=
    List.find?_eq_none.mpr fun j hj => by
      have hall := List.any_eq_false.mp (any_changes_false hquiet) j hj
      exact hall
  unfold State.peerPortSwap
  dsimp only
  rw [if_neg hpresent, hfree, any_swap_false hnew, if_neg (by decide), if_neg hnamed, if_neg (Nat.not_le.mpr hspare), hnone]

theorem peerStatus_bad (h : letterTurn s 0x93 ch a = true) (hport : 16 ≤ a.letter.field 0 1) :
    execPeerStatus ch s = .next (s.dead a dField { offset := 0 }) :=
  (onLetter_turn h _).trans (congrArg Host.Outcome.next (if_pos hport))

theorem peerStatus_shows (h : letterTurn s 0x93 ch a = true) (hport : a.letter.field 0 1 < 16)
    (hpres : Config.peerPresent (a.letter.field 0 1) = true) : execPeerStatus ch s = .next
    (let p := a.letter.field 0 1
     let q := s.peerPort p
     let count (l : List PeerEntry) : Nat := (l.filter fun e => e.port = p).length
     s.reply a (leBytes 8 (s.peerShow p (getReg .ln 0x200 q.regs)).toNat ++ leBytes 8 (getReg .ln 0x208 q.regs).toNat ++
      leBytes 8 (q.partner.getD (0, 0)).1.toNat ++ leBytes 1 (q.partner.getD (0, 0)).2 ++ leBytes 1 (count s.sends) ++ leBytes 1 (count s.recvs))) :=
  (onLetter_turn h _).trans (congrArg Host.Outcome.next ((if_neg (Nat.not_le.mpr hport)).trans (if_neg (by rw [hpres]; decide))))

end

/-- Settles O47: each letter by its branch. -/
theorem peerLettersAct : Obligations.PeerLettersAct := by
  intro s ch a
  exact ⟨fun hport h => peerAvenueOpen_noPort h hport, fun hpres hclosing hport hstate hrecord =>
      ⟨peerAvenueOpen_protected hport hpres hclosing hstate hrecord, peerAvenueOpen_begins hport hpres hclosing hstate hrecord⟩,
    fun hn h => peerAvenueClose_begins h hn, fun hn h => peerAvenueClose_bad h hn,
    fun hport hspare hfree hnew hquiet h => peerPortSwap_begins h hport hspare hfree hnew hquiet, fun hport h => peerStatus_bad h hport,
    fun hport hpres h => peerStatus_shows h hport hpres⟩

end Sys2Proof.Machine

/-! ## Frames of the host ports (R353, R359-R366, R376-R392) -/

namespace Sys2Proof.Machine

/-! ### Frames that reach a port -/

theorem updHostPort_windowOpen (s : State) (n : Nat) (f : Port → Port) : (s.updHostPort n f).windowOpen = s.windowOpen := rfl
theorem updHostPort_wireFault (s : State) (n : Nat) (f : Port → Port) (port : Nat) (w : Wire) (udp : Option Nat) :
    (s.updHostPort n f).wireFault port w udp = s.wireFault port w udp := rfl
theorem updHostPort_session (s : State) (n : Nat) (f : Port → Port) (id : Nat) : (s.updHostPort n f).session id = s.session id := rfl
theorem updHostPort_bridge (s : State) (n : Nat) (f : Port → Port) : (s.updHostPort n f).bridge = s.bridge := rfl
theorem updHostPort_now (s : State) (n : Nat) (f : Port → Port) : (s.updHostPort n f).now = s.now := rfl
theorem updHostPort_window (s : State) (n : Nat) (f : Port → Port) (port : Nat) : (s.updHostPort n f).window port = s.window port := rfl

theorem heardOn_windowOpen (s : State) (h : Heard) : (s.heardOn h).windowOpen = s.windowOpen := updHostPort_windowOpen _ _ _
theorem heardOn_wireFault (s : State) (h : Heard) (port : Nat) (w : Wire) (udp : Option Nat) :
    (s.heardOn h).wireFault port w udp = s.wireFault port w udp := updHostPort_wireFault _ _ _ _ _ _
theorem heardOn_session (s : State) (h : Heard) (id : Nat) : (s.heardOn h).session id = s.session id := updHostPort_session _ _ _ _
theorem heardOn_now (s : State) (h : Heard) : (s.heardOn h).now = s.now := updHostPort_now _ _ _
theorem heardOn_window (s : State) (h : Heard) (port : Nat) : (s.heardOn h).window port = s.window port := updHostPort_window _ _ _ _

section
variable {s : State} {h : Heard} {udp : Option Nat} {act : State → State}

theorem onHeard_closed (hport : h.path.port < 2) (hclosed : s.windowOpen = false) : onHeard h udp s act = .next (s.heardOn h) :=
  (onUnit_next (decide_eq_true hport)).trans (congrArg Host.Outcome.next (if_pos (by
    rw [← State.heardOn, heardOn_windowOpen, hclosed]
    rfl)))

theorem onHeard_fault {cnt : Fld} (hport : h.path.port < 2) (hopen : s.windowOpen = true)
    (hfault : s.wireFault h.path.port h.wire udp = some cnt) : onHeard h udp s act = .next ((s.heardOn h).bumpIturn h.path.port cnt) := by
  refine (onUnit_next (decide_eq_true hport)).trans (congrArg Host.Outcome.next ?_)
  dsimp only
  rw [← State.heardOn, heardOn_windowOpen, hopen, if_neg (by decide), heardOn_wireFault, hfault]

theorem hears_iff : s.hears h udp = true ↔ h.path.port < 2 ∧ s.windowOpen = true ∧ s.wireFault h.path.port h.wire udp = none := by
  simp [State.hears, and_assoc]

theorem onHeard_hears (hhears : s.hears h udp = true) : onHeard h udp s act = .next (act (s.heardOn h)) := by
  obtain ⟨hport, hopen, hfault⟩ := hears_iff.mp hhears
  refine (onUnit_next (decide_eq_true hport)).trans (congrArg Host.Outcome.next ?_)
  dsimp only
  rw [← State.heardOn, heardOn_windowOpen, hopen, if_neg (by decide), heardOn_wireFault, hfault]

end

/-! ### Sessions -/

theorem putSession_session (s : State) (id : Nat) (x : Session) : (s.putSession id x).session id = some x := Fm.look_put_same _ _ _

theorem updSession_some {s : State} {id : Nat} {x : Session} (hx : s.session id = some x) (f : Session → Session) :
    s.updSession id f = s.putSession id (f x) := by
  unfold State.updSession
  rw [hx]

theorem updSession_none {s : State} {id : Nat} (hx : s.session id = none) (f : Session → Session) : s.updSession id f = s := by
  unfold State.updSession
  rw [hx]

theorem updSession_session {s : State} {id : Nat} {x : Session} (hx : s.session id = some x) (f : Session → Session) :
    (s.updSession id f).session id = some (f x) := by
  rw [updSession_some hx, putSession_session]

/-- A CE mark is noted on the frame's session (R360). -/
def State.markedBy (s : State) (f : Frame) : State := if f.ce then s.updSession f.session fun x => { x with ceNoted := true } else s

def Session.markedBy (f : Frame) (x : Session) : Session := if f.ce then { x with ceNoted := true } else x

section
variable {s : State} {f : Frame} {x : Session}

theorem markedBy_session (hx : s.session f.session = some x) : (s.markedBy f).session f.session = some (x.markedBy f) := by
  unfold State.markedBy Session.markedBy
  split
  · exact updSession_session hx _
  · exact hx

theorem markedBy_none (hx : s.session f.session = none) : s.markedBy f = s := by
  unfold State.markedBy
  split
  · exact updSession_none hx _
  · rfl

theorem updSession_chans (s : State) (id : Nat) (g : Session → Session) : (s.updSession id g).chans = s.chans := by
  unfold State.updSession
  split <;> rfl

theorem updSession_now (s : State) (id : Nat) (g : Session → Session) : (s.updSession id g).now = s.now := by
  unfold State.updSession
  split <;> rfl

theorem updSession_window (s : State) (id : Nat) (g : Session → Session) (port : Nat) : (s.updSession id g).window port = s.window port := by
  unfold State.updSession
  split <;> rfl

theorem markedBy_chans (s : State) (f : Frame) : (s.markedBy f).chans = s.chans := by
  unfold State.markedBy
  split
  · exact updSession_chans _ _ _
  · rfl

theorem markedBy_now (s : State) (f : Frame) : (s.markedBy f).now = s.now := by
  unfold State.markedBy
  split
  · exact updSession_now _ _ _
  · rfl

theorem markedBy_window (s : State) (f : Frame) (port : Nat) : (s.markedBy f).window port = s.window port := by
  unfold State.markedBy
  split
  · exact updSession_window _ _ _ _
  · rfl

/-- A mark leaves what decides whether the frame is taken. -/
theorem Session.markedBy_fields (f : Frame) (x : Session) : (x.markedBy f).phase = x.phase ∧ (x.markedBy f).oldUntil = x.oldUntil ∧
    (x.markedBy f).seen = x.seen ∧ (x.markedBy f).due = x.due ∧ (x.markedBy f).ready = x.ready ∧ (x.markedBy f).lastFrame = x.lastFrame := by
  unfold Session.markedBy
  split <;> exact ⟨rfl, rfl, rfl, rfl, rfl, rfl⟩

theorem Session.markedBy_phaseOk (f : Frame) (x : Session) (bit now : Nat) : (x.markedBy f).phaseOk bit now = x.phaseOk bit now := by
  obtain ⟨hphase, hold, -⟩ := Session.markedBy_fields f x
  unfold Session.phaseOk
  rw [hphase, hold]

theorem Session.markedBy_newest (f : Frame) (x : Session) : (x.markedBy f).newest = x.newest := by
  obtain ⟨-, -, hseen, -⟩ := Session.markedBy_fields f x
  unfold Session.newest
  rw [hseen]

/-! ### What the bridge makes of a frame (R364, R366) -/

theorem sound_iff (f : Frame) (type : Nat) : f.sound type = true ↔ ¬(f.version ≠ 1 || f.type ≠ type || 4 ≤ f.flags || !f.formOk) = true := by
  simp only [Frame.sound, Bool.and_eq_true, Bool.or_eq_true, decide_eq_true_eq, Bool.not_eq_true', not_or, Nat.not_le, not_not, ne_eq,
    Bool.not_eq_false, and_assoc]

theorem intake_format {type : Nat} {el : Bool} (hbad : f.sound type = false) :
    s.intake f type el = ((s.markedBy f).bumpIturn f.path.port Reg.LN_ITURN_CNT_FORMAT, false) := by
  have hbad' : (f.version ≠ 1 || f.type ≠ type || 4 ≤ f.flags || !f.formOk) = true := by
    by_contra hno
    exact Bool.noConfusion (((sound_iff f type).mpr hno).symm.trans hbad)
  exact if_pos hbad'

theorem intake_unknown {type : Nat} {el : Bool} (hsound : f.sound type = true) (hx : s.session f.session = none) : s.intake f type el =
    (((s.markedBy f).bumpIturn f.path.port Reg.LN_ITURN_CNT_UNKNOWN).sendGone f.path f.session (Fm.get 1 f.session s.bridge.ended), false) := by
  unfold State.intake
  extract_lets port t
  have ht : t = s := markedBy_none hx
  have htx : t.session f.session = none := by rw [ht, hx]
  rw [if_neg ((sound_iff f type).mp hsound), htx, markedBy_none hx, ht]

theorem intake_auth {type : Nat} {el : Bool} (hsound : f.sound type = true) (hx : s.session f.session = some x)
    (hbad : f.authOk = false ∨ x.phaseOk (f.flags / 2) s.now = false) :
    s.intake f type el = ((s.markedBy f).bumpIturn f.path.port Reg.LN_ITURN_CNT_AUTH, false) := by
  unfold State.intake
  extract_lets port t
  have ht : t = s.markedBy f := rfl
  clear_value t
  have htx : t.session f.session = some (x.markedBy f) := by rw [ht, markedBy_session hx]
  have htnow : t.now = s.now := by rw [ht, markedBy_now]
  have hbad' : (!f.authOk || !(x.markedBy f).phaseOk (f.flags / 2) t.now) = true := by
    rw [Session.markedBy_phaseOk, htnow, Bool.or_eq_true, Bool.not_eq_true', Bool.not_eq_true']
    exact hbad
  rw [if_neg ((sound_iff f type).mp hsound), htx, ← ht]
  exact if_pos hbad'

/-- The session that an authentic frame names: where its partner is, how much its key has received, the phase in force (R366, R373). -/
def Session.arrived (f : Frame) (x : Session) : Session :=
  { x with path := f.path, rxKey := x.rxKey + 1, oldUntil := if f.flags / 2 = x.phase then none else x.oldUntil,
           oldKeys := if f.flags / 2 = x.phase then none else x.oldKeys }

/-- And once the frame, new to it, is to act. -/
def Session.taken (f : Frame) (now : Nat) (el : Bool) (x : Session) : Session :=
  let top := max x.newest f.pn
  { x with seen := prune top (sins f.pn x.seen), due := if el then sins f.pn (prune top x.due) else prune top x.due, lastFrame := now,
           acked := prune top (if el then x.acked else sins f.pn x.acked), rtFrames := x.rtFrames + 1, rtEce := x.rtEce + f.flags % 2 }

/-- The bridge with the frame's session so, before what it acknowledges acts. -/
def State.received (s : State) (f : Frame) (x : Session) : State :=
  let t := s.putSession f.session x
  if f.flags % 2 = 1 then t.bumpIturn f.path.port Reg.LN_ITURN_STAT_ECE else t

theorem arrived_newest (f : Frame) (x : Session) : (x.arrived f).newest = x.newest := rfl

section
variable {type : Nat} {el : Bool} (hsound : f.sound type = true) (hx : s.session f.session = some x) (hauth : f.authOk = true)
  (hphase : x.phaseOk (f.flags / 2) s.now = true)
include hsound hx hauth hphase

theorem intake_duplicate (hdup : x.seen.contains f.pn = true ∨ f.pn + 1024 < x.newest) : s.intake f type el =
    (((s.markedBy f).putSession f.session ((x.markedBy f).arrived f)).bumpIturn f.path.port Reg.LN_ITURN_CNT_DUP, false) := by
  unfold State.intake
  extract_lets port t
  have ht : t = s.markedBy f := rfl
  clear_value t
  have htx : t.session f.session = some (x.markedBy f) := by rw [ht, markedBy_session hx]
  have htnow : t.now = s.now := by rw [ht, markedBy_now]
  have hgood : ¬(!f.authOk || !(x.markedBy f).phaseOk (f.flags / 2) t.now) = true := by
    rw [Session.markedBy_phaseOk, htnow, hauth, hphase]
    decide
  have hdup' : (((x.markedBy f).arrived f).seen.contains f.pn || decide (f.pn + 1024 < ((x.markedBy f).arrived f).newest)) = true := by
    rw [arrived_newest, Session.markedBy_newest, Bool.or_eq_true, decide_eq_true_eq]
    have hseen : ((x.markedBy f).arrived f).seen = x.seen := (Session.markedBy_fields f x).2.2.1
    rw [hseen]
    exact hdup
  rw [if_neg ((sound_iff f type).mp hsound), htx, ← ht]
  dsimp only
  rw [if_neg hgood]
  exact if_pos hdup'

theorem intake_taken (hnew : x.seen.contains f.pn = false) (hnewest : x.newest ≤ f.pn + 1024) (hready : (x.ready || type = 4) = true)
    (hroom : (!el || decide ((prune (max x.newest f.pn) x.due).length < s.window f.path.port)) = true) :
    s.intake f type el =
      (((s.markedBy f).received f (((x.markedBy f).arrived f).taken f s.now el)).takeAcks f.session f.largest f.sack, true) := by
  obtain ⟨-, -, hseen, hdue, hmready, -⟩ := Session.markedBy_fields f x
  have hmnewest := Session.markedBy_newest f x
  unfold State.intake
  extract_lets port t
  have ht : t = s.markedBy f := rfl
  clear_value t
  have htx : t.session f.session = some (x.markedBy f) := by rw [ht, markedBy_session hx]
  have htnow : t.now = s.now := by rw [ht, markedBy_now]
  have htwindow : t.window port = s.window f.path.port := by rw [ht, markedBy_window]
  have hgood : ¬(!f.authOk || !(x.markedBy f).phaseOk (f.flags / 2) t.now) = true := by
    rw [Session.markedBy_phaseOk, htnow, hauth, hphase]
    decide
  generalize x.markedBy f = y at *
  have hnew' : ¬((y.arrived f).seen.contains f.pn || decide (f.pn + 1024 < (y.arrived f).newest)) = true := by
    rw [arrived_newest, hmnewest, show (y.arrived f).seen = x.seen from hseen, hnew, decide_eq_false (Nat.not_lt.mpr hnewest)]
    decide
  have hready' : ¬(!(y.arrived f).ready && decide (type ≠ 4)) = true := by
    rw [show (y.arrived f).ready = x.ready from hmready]
    rw [Bool.or_eq_true, decide_eq_true_eq] at hready
    rcases hready with hr | hr
    · simp [hr]
    · simp [hr]
  have hroom' : ¬(el && decide (t.window port ≤ (prune (max (y.arrived f).newest f.pn) (y.arrived f).due).length)) = true := by
    rw [arrived_newest, hmnewest, show (y.arrived f).due = x.due from hdue, htwindow]
    cases el with
    | false => simp
    | true =>
      rw [Bool.not_true, Bool.false_or, decide_eq_true_eq] at hroom
      rw [decide_eq_false (Nat.not_le.mpr hroom)]
      decide
  rw [if_neg ((sound_iff f type).mp hsound), htx, ← ht, ← htnow]
  dsimp only
  rw [if_neg hgood]
  refine (if_neg hnew').trans ((if_neg hready').trans ((if_neg hroom').trans ?_))
  rfl

end

/-! ### What acknowledgements leave alone (R378, R379) -/

/-- A session without what acknowledgements change: what it has in flight, its queue and its congestion control. -/
def Session.besideAcks (x : Session) : Session :=
  { x with sentAcks := [], sendQ := [], inflight := [], firsts := [], cwnd := 0, alpha := 0, slow := false, srtt := none, rttvar := 0,
           rto := 0, rtPn := 0, rtFrames := 0, rtEce := 0 }

theorem sample_besideAcks (x : Session) (r : Nat) : (x.sample r).besideAcks = x.besideAcks := by
  unfold Session.sample
  split
  rfl

theorem roundTrip_besideAcks (x : Session) : x.roundTrip.besideAcks = x.besideAcks := by
  unfold Session.roundTrip
  rfl

theorem lose_besideAcks (x : Session) (fs : List InFlight) : (x.lose fs).besideAcks = x.besideAcks := rfl

/-- The state without what a frame of a session changes beside its parcels. -/
def State.besideFrames (s : State) : State := { s with hostPorts := [], chans := [], bridge := { s.bridge with sessions := [] } }

/-- How a frame of session `id` leaves the state and its session `x`: what acknowledgements change is open, and no letter that waits is lost. -/
structure Acked (s : State) (id : Nat) (x : Session) (t : State) : Prop where
  beside : t.besideFrames = s.besideFrames
  session : ∃ y, t.session id = some y ∧ y.besideAcks = x.besideAcks
  inSlots : ∀ n, (t.chan n).inSlots = (s.chan n).inSlots

theorem updHostPort_acked {id : Nat} (hx : s.session id = some x) (n : Nat) (f : Port → Port) : Acked s id x (s.updHostPort n f) :=
  ⟨rfl, ⟨x, hx, rfl⟩, fun _ => rfl⟩

theorem putSession_acked (s : State) (id : Nat) {x y : Session} (h : y.besideAcks = x.besideAcks) : Acked s id x (s.putSession id y) :=
  ⟨rfl, ⟨y, putSession_session s id y, h⟩, fun _ => rfl⟩

theorem Acked.trans {id : Nat} {u v : State} (h : Acked s id x u) (hnext : ∀ y, u.session id = some y → Acked u id y v) : Acked s id x v := by
  obtain ⟨y, hy, hyx⟩ := h.session
  obtain ⟨hbeside, ⟨z, hz, hzy⟩, hslots⟩ := hnext y hy
  exact ⟨hbeside.trans h.beside, ⟨z, hz, hzy.trans hyx⟩, fun n => (hslots n).trans (h.inSlots n)⟩

/-- What came before may have left the session otherwise. -/
theorem Acked.after {id : Nat} {u v : State} (hbeside : u.besideFrames = s.besideFrames)
    (hslots : ∀ n, (u.chan n).inSlots = (s.chan n).inSlots) (h : Acked u id x v) : Acked s id x v :=
  ⟨h.beside.trans hbeside, h.session, fun n => (h.inSlots n).trans (hslots n)⟩

theorem updHostPort_besideFrames (s : State) (n : Nat) (f : Port → Port) : (s.updHostPort n f).besideFrames = s.besideFrames := rfl
theorem updHostPort_chan (s : State) (n : Nat) (f : Port → Port) (ch : Nat) : (s.updHostPort n f).chan ch = s.chan ch := rfl

theorem foldl_acked {β : Type} {g : State → β → State} {id : Nat} (hstep : ∀ s x b, s.session id = some x → Acked s id x (g s b))
    (l : List β) (hx : s.session id = some x) : Acked s id x (l.foldl g s) := by
  induction l generalizing s x with
  | nil => exact ⟨rfl, ⟨x, hx, rfl⟩, fun _ => rfl⟩
  | cons b l ih => exact (hstep s x b hx).trans fun y hy => ih hy

theorem freeSlot_inSlots (r : Receipt) (c : Chan) : (c.freeSlot r).1.inSlots = c.inSlots := by
  unfold Chan.freeSlot
  split
  · rfl
  · dsimp only
    split <;> rfl

theorem updChan_acked {id : Nat} (hx : s.session id = some x) (ch : Nat) {c : Chan} (hc : c.inSlots = (s.chan ch).inSlots) :
    Acked s id x (s.updChan ch fun _ => c) := by
  refine ⟨rfl, ⟨x, hx, rfl⟩, fun n => ?_⟩
  by_cases hn : n = ch
  · rw [hn, State.updChan_same, hc]
  · rw [State.updChan_other _ _ _ hn]

theorem freeReceipt_acked {id : Nat} (hx : s.session id = some x) (ch : Nat) (r : Receipt) : Acked s id x (s.freeReceipt id ch r) := by
  have hc := freeSlot_inSlots r (s.chan ch)
  unfold State.freeReceipt
  split
  next c next heq =>
    rw [heq] at hc
    dsimp only
    split
    · exact updChan_acked hx ch hc
    · refine (updChan_acked hx ch hc).trans fun y hy => ?_
      rw [updSession_some hy]
      exact putSession_acked _ id rfl

theorem takeAcks_acked {id : Nat} (hx : s.session id = some x) (largest sack : Nat) : Acked s id x (s.takeAcks id largest sack) := by
  unfold State.takeAcks
  split
  next => exact ⟨rfl, ⟨x, hx, rfl⟩, fun _ => rfl⟩
  next z hz =>
    obtain rfl : z = x := Option.some.inj (hz.symm.trans hx)
    extract_lets done pns left lost x1 x2 x3 x4 t1 t2
    split
    · exact ⟨rfl, ⟨z, hx, rfl⟩, fun _ => rfl⟩
    · have hsample : x2.besideAcks = z.besideAcks := foldl_keeps (g := Session.besideAcks) (fun x f => sample_besideAcks x _) done _
      have hround : x3.besideAcks = z.besideAcks := by
        unfold x3
        split
        · exact (roundTrip_besideAcks x2).trans hsample
        · exact hsample
      have hlose : x4.besideAcks = z.besideAcks := (lose_besideAcks x3 lost).trans hround
      refine Acked.trans (u := t2) ?_ fun y hy => foldl_acked (fun s x f hx => ?_) done hy
      · exact (putSession_acked s id hlose).trans fun y hy => foldl_acked (fun s x _ hx => updHostPort_acked hx _ _) lost hy
      · split
        · exact freeReceipt_acked hx _ _
        · exact ⟨rfl, ⟨x, hx, rfl⟩, fun _ => rfl⟩

/-! ### Frames that are taken -/

theorem Session.markedBy_more (f : Frame) (x : Session) : (x.markedBy f).channel = x.channel ∧ (x.markedBy f).role = x.role ∧
    (x.markedBy f).replies = x.replies ∧ (x.markedBy f).pulls = x.pulls := by
  unfold Session.markedBy
  split <;> exact ⟨rfl, rfl, rfl, rfl⟩

/-- The session as a frame that is taken leaves it, but for what the frame acknowledges. -/
def Session.after (f : Frame) (now : Nat) (el : Bool) (x : Session) : Session := ((x.markedBy f).arrived f).taken f now el

theorem markedBy_acked (hx : s.session f.session = some x) : Acked s f.session (x.markedBy f) (s.markedBy f) := by
  have hsession := markedBy_session hx
  have hchans := markedBy_chans s f
  refine ⟨?_, ⟨_, hsession, rfl⟩, fun n => by unfold State.chan; rw [hchans]⟩
  unfold State.markedBy
  split
  · rw [updSession_some hx]
    rfl
  · rfl

theorem received_acked (s : State) (f : Frame) {x : Session} : Acked s f.session x (s.received f x) := by
  unfold State.received
  dsimp only
  split
  · exact (putSession_acked s f.session rfl).trans fun y hy => updHostPort_acked hy _ _
  · exact putSession_acked s f.session rfl

section
variable {type : Nat} {el : Bool}

theorem takenFrame_iff : takenFrame s f type el x = true ↔ s.hears ⟨f.path, f.wire⟩ (s.iturnUdp f.path.port) = true ∧ f.sound type = true ∧
    s.session f.session = some x ∧ f.authOk = true ∧ x.phaseOk (f.flags / 2) s.now = true ∧ x.seen.contains f.pn = false ∧
    x.newest ≤ f.pn + 1024 ∧ (x.ready || type = 4) = true ∧
    (!el || decide ((prune (max x.newest f.pn) x.due).length < s.window f.path.port)) = true := by
  unfold takenFrame
  rw [Bool.and_eq_true, Bool.and_eq_true, Bool.and_eq_true, Bool.and_eq_true, Bool.and_eq_true, Bool.and_eq_true, Bool.and_eq_true,
    Bool.and_eq_true, decide_eq_true_eq, decide_eq_true_eq, Bool.not_eq_true']
  simp only [and_assoc]

/-- A frame that is taken. -/
theorem took_acked (h : takenFrame s f type el x = true) : ((s.heardOn ⟨f.path, f.wire⟩).intake f type el).2 = true ∧
    Acked s f.session (x.after f s.now el) (s.took f type el) := by
  obtain ⟨-, hsound, hx, hauth, hphase, hnew, hnewest, hready, hroom⟩ := takenFrame_iff.mp h
  have hheard := heardOn_session s ⟨f.path, f.wire⟩ f.session
  have hintake := intake_taken (s := s.heardOn ⟨f.path, f.wire⟩) (type := type) (el := el) hsound (hheard.trans hx) hauth
    (by rw [heardOn_now]; exact hphase) hnew hnewest hready (by rw [heardOn_window]; exact hroom)
  rw [heardOn_now] at hintake
  unfold State.took
  rw [hintake]
  refine ⟨rfl, ?_⟩
  have hmarked : Acked s f.session (x.markedBy f) ((s.heardOn ⟨f.path, f.wire⟩).markedBy f) :=
    (markedBy_acked (hheard.trans hx)).after (updHostPort_besideFrames _ _ _) fun n => congrArg Chan.inSlots (updHostPort_chan _ _ _ n)
  have hreceived : Acked s f.session (x.after f s.now el) (((s.heardOn ⟨f.path, f.wire⟩).markedBy f).received f (x.after f s.now el)) :=
    (received_acked _ f).after hmarked.beside hmarked.inSlots
  exact hreceived.trans fun y hy => takeAcks_acked hy _ _

/-- What is asked of the session of a frame that was taken. -/
structure Named (f : Frame) (x : Session) (now : Nat) (y : Session) : Prop where
  path : y.path = f.path
  channel : y.channel = x.channel
  role : y.role = x.role
  ready : y.ready = x.ready
  replies : y.replies = x.replies
  pulls : y.pulls = x.pulls
  seen : f.pn ∈ y.seen
  lastFrame : y.lastFrame = now

theorem after_named (f : Frame) (now : Nat) (el : Bool) {x y : Session} (hnewest : x.newest ≤ f.pn + 1024)
    (h : y.besideAcks = (x.after f now el).besideAcks) : Named f x now y := by
  obtain ⟨-, -, hseen, -, hready, -⟩ := Session.markedBy_fields f x
  obtain ⟨hchannel, hrole, hreplies, hpulls⟩ := Session.markedBy_more f x
  have hyseen : y.seen = prune (max (x.markedBy f).newest f.pn) (sins f.pn (x.markedBy f).seen) := by
    have hf := congrArg Session.seen h
    exact hf
  refine ⟨?_, ?_, ?_, ?_, ?_, ?_, ?_, ?_⟩
  · have hf := congrArg Session.path h
    exact hf
  · have hf := congrArg Session.channel h
    exact hf.trans hchannel
  · have hf := congrArg Session.role h
    exact hf.trans hrole
  · have hf := congrArg Session.ready h
    exact hf.trans hready
  · have hf := congrArg Session.replies h
    exact hf.trans hreplies
  · have hf := congrArg Session.pulls h
    exact hf.trans hpulls
  · rw [hyseen]
    refine List.mem_filter.mpr ⟨mem_sins.mpr (Or.inl rfl), ?_⟩
    rw [Session.markedBy_newest, decide_eq_true_eq]
    exact Nat.max_le.mpr ⟨hnewest, Nat.le_add_right _ _⟩
  · have hf := congrArg Session.lastFrame h
    exact hf

/-- The session as the frame's taking leaves it. -/
theorem took_session (h : takenFrame s f type el x = true) : ∃ y, (s.took f type el).session f.session = some y ∧ Named f x s.now y := by
  obtain ⟨-, -, -, -, -, -, hnewest, -, -⟩ := takenFrame_iff.mp h
  obtain ⟨-, hacked⟩ := took_acked h
  obtain ⟨y, hy, hyx⟩ := hacked.session
  exact ⟨y, hy, after_named f s.now el hnewest hyx⟩

/-! ### A frame's command -/

theorem onFrame_hears (hhears : s.hears ⟨f.path, f.wire⟩ (s.iturnUdp f.path.port) = true) (act : State → State) :
    onFrame f type el s act = .next (let r := (s.heardOn ⟨f.path, f.wire⟩).intake f type el
      if r.2 then (act r.1).flushSession f.session else r.1) := onHeard_hears hhears

theorem onFrame_turned {u : State} (hhears : s.hears ⟨f.path, f.wire⟩ (s.iturnUdp f.path.port) = true)
    (hturned : (s.heardOn ⟨f.path, f.wire⟩).intake f type el = (u, false)) (act : State → State) : onFrame f type el s act = .next u := by
  rw [onFrame_hears hhears, hturned]
  rfl

theorem onFrame_taken (h : takenFrame s f type el x = true) (act : State → State) :
    onFrame f type el s act = .next ((act (s.took f type el)).flushSession f.session) := by
  obtain ⟨hhears, -⟩ := takenFrame_iff.mp h
  obtain ⟨htaken, -⟩ := took_acked h
  rw [onFrame_hears hhears]
  exact congrArg Host.Outcome.next (if_pos htaken)

theorem onFrame_closed (hport : f.path.port < 2) (hclosed : s.windowOpen = false) (act : State → State) :
    onFrame f type el s act = .next (s.heardOn ⟨f.path, f.wire⟩) := onHeard_closed hport hclosed

theorem onFrame_fault {cnt : Fld} (hport : f.path.port < 2) (hopen : s.windowOpen = true)
    (hfault : s.wireFault f.path.port f.wire (s.iturnUdp f.path.port) = some cnt) (act : State → State) :
    onFrame f type el s act = .next ((s.heardOn ⟨f.path, f.wire⟩).bumpIturn f.path.port cnt) := onHeard_fault hport hopen hfault

theorem onFrame_format (hhears : s.hears ⟨f.path, f.wire⟩ (s.iturnUdp f.path.port) = true) (hbad : f.sound type = false) (act : State → State) :
    onFrame f type el s act = .next (((s.heardOn ⟨f.path, f.wire⟩).markedBy f).bumpIturn f.path.port Reg.LN_ITURN_CNT_FORMAT) :=
  onFrame_turned hhears (intake_format hbad) act

theorem heardOn_bridge (s : State) (h : Heard) : (s.heardOn h).bridge = s.bridge := updHostPort_bridge _ _ _

theorem onFrame_unknown (hhears : s.hears ⟨f.path, f.wire⟩ (s.iturnUdp f.path.port) = true) (hsound : f.sound type = true)
    (hnone : s.session f.session = none) (act : State → State) : onFrame f type el s act =
      .next ((((s.heardOn ⟨f.path, f.wire⟩).markedBy f).bumpIturn f.path.port Reg.LN_ITURN_CNT_UNKNOWN).sendGone f.path f.session
        (Fm.get 1 f.session s.bridge.ended)) := by
  have hintake := intake_unknown (s := s.heardOn ⟨f.path, f.wire⟩) (type := type) (el := el) hsound ((heardOn_session _ _ _).trans hnone)
  rw [heardOn_bridge] at hintake
  exact onFrame_turned hhears hintake act

theorem onFrame_auth (hhears : s.hears ⟨f.path, f.wire⟩ (s.iturnUdp f.path.port) = true) (hsound : f.sound type = true)
    (hx : s.session f.session = some x) (hbad : f.authOk = false ∨ x.phaseOk (f.flags / 2) s.now = false) (act : State → State) :
    onFrame f type el s act = .next (((s.heardOn ⟨f.path, f.wire⟩).markedBy f).bumpIturn f.path.port Reg.LN_ITURN_CNT_AUTH) :=
  onFrame_turned hhears (intake_auth hsound ((heardOn_session _ _ _).trans hx) (by rw [heardOn_now]; exact hbad)) act

theorem updHostPort_chans (s : State) (n : Nat) (g : Port → Port) : (s.updHostPort n g).chans = s.chans := rfl
theorem putSession_chans (s : State) (id : Nat) (y : Session) : (s.putSession id y).chans = s.chans := rfl

/-- A frame seen before only tells where its session's partner is (R366). -/
theorem onFrame_duplicate (hhears : s.hears ⟨f.path, f.wire⟩ (s.iturnUdp f.path.port) = true) (hsound : f.sound type = true)
    (hx : s.session f.session = some x) (hauth : f.authOk = true) (hphase : x.phaseOk (f.flags / 2) s.now = true)
    (hdup : x.seen.contains f.pn = true ∨ f.pn + 1024 < x.newest) (act : State → State) :
    Completes (onFrame f type el s act) fun t => t.chans = s.chans ∧
      ∃ y, t.session f.session = some y ∧ y.path = f.path ∧ y.seen = x.seen ∧ y.lastFrame = x.lastFrame := by
  have hintake := intake_duplicate (s := s.heardOn ⟨f.path, f.wire⟩) (type := type) (el := el) hsound ((heardOn_session _ _ _).trans hx) hauth
    (by rw [heardOn_now]; exact hphase) hdup
  refine ⟨_, onFrame_turned hhears hintake act, ?_, (x.markedBy f).arrived f, ?_, rfl, ?_, ?_⟩
  · rw [State.bumpIturn, updHostPort_chans, putSession_chans, markedBy_chans, State.heardOn, updHostPort_chans]
  · rw [State.bumpIturn, updHostPort_session, putSession_session]
  · exact (Session.markedBy_fields f x).2.2.1
  · exact (Session.markedBy_fields f x).2.2.2.2.2

end

end

/-! ### What a frame that is taken does -/

section
variable {s : State} {f : Frame} {x : Session}

theorem took_inSlots {type : Nat} {el : Bool} (h : takenFrame s f type el x = true) (n : Nat) :
    ((s.took f type el).chan n).inSlots = (s.chan n).inSlots := (took_acked h).2.inSlots n

theorem besideFrames_keeps {α : Type} {g : State → α} (hg : ∀ s : State, g s.besideFrames = g s) {t : State}
    (h : t.besideFrames = s.besideFrames) : g t = g s := by
  rw [← hg t, h, hg s]

theorem besideFrames_parcel (s : State) (id : Nat) : s.besideFrames.parcel id = s.parcel id := rfl
theorem besideFrames_parcelOk (s : State) (f : Frame) (id dir off len : Nat) :
    s.besideFrames.parcelOk f id dir off len = s.parcelOk f id dir off len := rfl
theorem besideFrames_parcelHeld (s : State) (id : Nat) : s.besideFrames.parcelHeld id = s.parcelHeld id := rfl
theorem besideFrames_ice (s : State) : s.besideFrames.ice = s.ice := rfl
theorem besideFrames_now (s : State) : s.besideFrames.now = s.now := rfl

theorem took_beside {type : Nat} {el : Bool} (h : takenFrame s f type el x = true) :
    (s.took f type el).besideFrames = s.besideFrames := (took_acked h).2.beside

theorem execLetter_taken (l : Letter) (hsession : f.session ≠ 0) (h : takenFrame s f 1 true x = true) :
    ((s.chan x.channel).inSlots.length < 8 → execLetter f l s =
      .next ((((s.took f 1 true).slotLetter x.channel f l).ackFrame f.session f.pn).flushSession f.session)) ∧
    (8 ≤ (s.chan x.channel).inSlots.length → execLetter f l s =
      .next (((s.took f 1 true).discardFrame f Reg.LN_ITURN_CNT_BUSY).flushSession f.session)) := by
  obtain ⟨y, hy, hnamed⟩ := took_session h
  have hslots := took_inSlots h x.channel
  unfold execLetter
  rw [if_neg hsession, onFrame_taken h]
  generalize s.took f 1 true = u at *
  rw [hy]
  dsimp only
  rw [hnamed.channel, hslots]
  exact ⟨fun hroom => by rw [if_neg (Nat.not_le.mpr hroom)], fun hfull => by rw [if_pos hfull]⟩

theorem execFinished_taken (mac sig : Bool) (h : takenFrame s f 4 true x = true) :
    (x.ready = true → execFinished f mac sig s = .next (((s.took f 4 true).ackFrame f.session f.pn).flushSession f.session)) ∧
    (x.ready = false → (mac && (x.role = roleT || (sig && !s.ice.ownerKey.isEmpty))) = true → execFinished f mac sig s =
      .next ((((s.took f 4 true).putSession f.session { ((s.took f 4 true).session f.session).getD x with
        ready := true, readyAt := s.now }).ackFrame f.session f.pn).flushSession f.session)) ∧
    (x.ready = false → (mac && (x.role = roleT || (sig && !s.ice.ownerKey.isEmpty))) = false → execFinished f mac sig s =
      .next ((((s.took f 4 true).endSession f.session 5).sendGone f.path f.session 5).flushSession f.session)) := by
  obtain ⟨y, hy, hnamed⟩ := took_session h
  have hice := besideFrames_keeps besideFrames_ice (took_beside h)
  have hnow := besideFrames_keeps besideFrames_now (took_beside h)
  unfold execFinished
  rw [onFrame_taken h]
  generalize s.took f 4 true = u at *
  dsimp only
  rw [hy]
  dsimp only
  rw [hnamed.ready, hice, hnow, Option.getD_some]
  refine ⟨fun hready => by rw [if_pos hready], fun hready hright => ?_, fun hready hright => ?_⟩
  · rw [← hnamed.role] at hright
    rw [hready, hright, if_neg (by decide), if_pos rfl]
  · rw [← hnamed.role] at hright
    rw [hready, hright, if_neg (by decide), if_neg (by decide)]

theorem execRegReq_repeated {q : RegReq} {e : Nat × List Byte} (h : takenFrame s f 5 true x = true)
    (hkept : x.replies.find? (fun e => e.1 = q.reqid) = some e) : execRegReq f q s =
      .next ((((s.took f 5 true).ackFrame f.session f.pn).queueContent f.session [.plain 6 e.2]).flushSession f.session) := by
  obtain ⟨y, hy, hnamed⟩ := took_session h
  unfold execRegReq
  rw [onFrame_taken h]
  generalize s.took f 5 true = u at *
  dsimp only
  rw [hy]
  dsimp only
  rw [hnamed.replies, hkept]

theorem execRegReq_new {q : RegReq} (h : takenFrame s f 5 true x = true)
    (hnew : x.replies.find? (fun e => e.1 = q.reqid) = none) : let u := s.took f 5 true
      let r := if q.ok then u.regAccess x.channel q else (u, [], false)
      let status := if !q.ok then 1 else if r.2.2 then 2 else 0
      let reply := leBytes 4 q.reqid ++ leBytes 2 q.count ++ leBytes 1 status ++ leBytes 1 0 ++ wordsBytes r.2.1
      execRegReq f q s = .next ((((r.1.updSession f.session fun x => { x with replies := ((q.reqid, reply) :: x.replies).take 16 }).ackFrame
        f.session f.pn).queueContent f.session [.plain 6 reply]).flushSession f.session) := by
  obtain ⟨y, hy, hnamed⟩ := took_session h
  unfold execRegReq
  rw [onFrame_taken h]
  generalize s.took f 5 true = u at *
  dsimp only
  rw [hy]
  dsimp only
  rw [hnamed.replies, hnew, hnamed.channel]

theorem took_parcelHeld {type : Nat} {el : Bool} (h : takenFrame s f type el x = true) (id : Nat) :
    (s.took f type el).parcelHeld id = s.parcelHeld id :=
  besideFrames_keeps (g := fun s => s.parcelHeld id) (fun s => besideFrames_parcelHeld s id) (took_beside h)

theorem took_parcelOk {type : Nat} {el : Bool} (h : takenFrame s f type el x = true) (g : Frame) (id dir off len : Nat) :
    (s.took f type el).parcelOk g id dir off len = s.parcelOk g id dir off len :=
  besideFrames_keeps (g := fun s => s.parcelOk g id dir off len) (fun s => besideFrames_parcelOk s g id dir off len) (took_beside h)

theorem took_parcel {type : Nat} {el : Bool} (h : takenFrame s f type el x = true) (id : Nat) :
    (s.took f type el).parcel id = s.parcel id :=
  besideFrames_keeps (g := fun s => s.parcel id) (fun s => besideFrames_parcel s id) (took_beside h)

/-- The frame of parcel data is as long as its data ask. -/
def Frame.carrying (f : Frame) (n : Nat) : Frame := { f with wire := { f.wire with len := max f.wire.len (n + 112) } }

/-- What the frame's parcel makes of its data (R385-R390). -/
def State.parcelAct (s : State) (f : Frame) (id off : Nat) (data : List Byte) : State :=
  if !s.parcelOk f id 0 off data.length then s.parcelFault f
  else if s.parcelHeld id then s.discardFrame f Reg.LN_ITURN_CNT_BUSY
  else if ((s.parcel id).map fun p => p.staging).getD false then
    ((s.updIce fun h => { h with staging := writeBytes off data h.staging }).parcelMoved id off data.length).ackFrame f.session f.pn
  else s.parcelWrite f id off data

theorem execParcelData_sized (id off : Nat) {data : List Byte} (hformOk : f.formOk = true) (hleast : 8 ≤ data.length)
    (hmost : data.length ≤ 8192) (hwords : data.length % 8 = 0) : execParcelData f id off data s =
      onFrame (f.carrying data.length) 7 true s fun s => s.parcelAct (f.carrying data.length) id off data := by
  have hok : (f.formOk && decide (8 ≤ data.length) && decide (data.length ≤ 8192) && decide (data.length % 8 = 0)) = f.formOk := by
    simp [hformOk, hleast, hmost, hwords]
  unfold execParcelData
  rw [hok]
  rfl

theorem execParcelData_taken (id off : Nat) {data : List Byte} (hleast : 8 ≤ data.length) (hmost : data.length ≤ 8192)
    (hwords : data.length % 8 = 0) (h : takenFrame s (f.carrying data.length) 7 true x = true) : execParcelData f id off data s =
      .next (((s.took (f.carrying data.length) 7 true).parcelAct (f.carrying data.length) id off data).flushSession f.session) := by
  obtain ⟨-, hsound, -⟩ := takenFrame_iff.mp h
  have hformOk : f.formOk = true := (Bool.and_eq_true_iff.mp hsound).2
  rw [execParcelData_sized id off hformOk hleast hmost hwords, onFrame_taken h]
  rfl

theorem execParcelPull_taken (id len off : Nat) (h : takenFrame s f 8 true x = true) : let u := s.took f 8 true
    let y := (u.session f.session).getD x
    let pulls := y.pulls.filter fun q => u.pullBusy f.session y q
    (s.parcelOk f id 1 off len = false ∨ 4194304 < len → execParcelPull f id len off s = .next ((u.parcelFault f).flushSession f.session)) ∧
    (s.parcelOk f id 1 off len = true → len ≤ 4194304 → s.parcelHeld id = true →
      execParcelPull f id len off s = .next ((u.discardFrame f Reg.LN_ITURN_CNT_BUSY).flushSession f.session)) ∧
    (s.parcelOk f id 1 off len = true → len ≤ 4194304 → s.parcelHeld id = false → x.pulls.length < 16 →
      execParcelPull f id len off s = .next ((((u.putSession f.session { y with pulls := pulls ++ [(id, off, len)] }).ackFrame
        f.session f.pn).queueContent f.session ((List.range (ceilDiv len 8192)).map fun i =>
          Content.data id (off + 8192 * i) (min 8192 (len - 8192 * i)))).flushSession f.session)) := by
  obtain ⟨y, hy, hnamed⟩ := took_session h
  have hok := took_parcelOk h f id 1 off len
  have hheld := took_parcelHeld h id
  unfold execParcelPull
  rw [onFrame_taken h]
  generalize s.took f 8 true = u at *
  dsimp only
  rw [hy]
  dsimp only
  rw [hok, hheld, Option.getD_some]
  refine ⟨fun hbad => ?_, fun hgood hlen hh => ?_, fun hgood hlen hh hpulls => ?_⟩
  · rw [if_pos]
    rcases hbad with hbad | hbad
    · simp [hbad]
    · simp [hbad]
  · rw [if_neg (by simp [hgood, hlen]), if_pos (by simp [hh])]
  · have hfew : (y.pulls.filter fun q => u.pullBusy f.session y q).length < 16 :=
      (List.length_filter_le _ _).trans_lt (by rw [hnamed.pulls]; exact hpulls)
    rw [if_neg (by simp [hgood, hlen]), if_neg (by simp [hh, hfew])]

end

/-! ### The commands of frames -/

theorem mem_frame_commands {P : Nat × Instr → Prop} {f : Frame} {l : Letter} {q : RegReq} {i n o : Nat} {m g : Bool}
    (hfinished : P (4, .finished f m g)) (hreg : P (5, .regReq f q)) (hpull : P (8, .parcelPull f i n o)) (hack : P (9, .iturnAck f))
    (hletter : f.session ≠ 0 → P (1, .letter f l)) :
    ∀ e ∈ [(4, Instr.finished f m g), (5, .regReq f q), (8, .parcelPull f i n o), (9, .iturnAck f)] ++
      (if f.session = 0 then [] else [(1, .letter f l)]), P e := by
  intro e he
  simp only [List.cons_append, List.nil_append, List.mem_cons] at he
  rcases he with rfl | rfl | rfl | rfl | he
  · exact hfinished
  · exact hreg
  · exact hpull
  · exact hack
  · split at he
    next => exact absurd he List.not_mem_nil
    next hsession =>
      rw [List.mem_singleton.mp he]
      exact hletter hsession

/-- The command hears, takes or turns away a frame as `onFrame` does. -/
def actsOnFrame (s : State) (f : Frame) (e : Nat × Instr) : Prop := ∃ el act, exec e.2 s = onFrame f e.1 el s act

theorem letter_actsOnFrame (s : State) {f : Frame} (l : Letter) (hsession : f.session ≠ 0) : actsOnFrame s f (1, .letter f l) :=
  ⟨true, _, show execLetter f l s = _ from if_neg hsession⟩

theorem finished_actsOnFrame (s : State) (f : Frame) (m g : Bool) : actsOnFrame s f (4, .finished f m g) :=
  ⟨true, _, show execFinished f m g s = _ from rfl⟩

theorem regReq_actsOnFrame (s : State) (f : Frame) (q : RegReq) : actsOnFrame s f (5, .regReq f q) :=
  ⟨true, _, show execRegReq f q s = _ from rfl⟩

theorem parcelPull_actsOnFrame (s : State) (f : Frame) (i n o : Nat) : actsOnFrame s f (8, .parcelPull f i n o) :=
  ⟨true, _, show execParcelPull f i n o s = _ from rfl⟩

theorem iturnAck_actsOnFrame (s : State) (f : Frame) : actsOnFrame s f (9, .iturnAck f) :=
  ⟨false, _, show execIturnAck f s = _ from rfl⟩

/-- A letter of the public session is heard with its CE mark noted (R360, R383). -/
def State.publicHeard (s : State) (f : Frame) : State :=
  if f.ce then (s.heardOn ⟨f.path, f.wire⟩).updBridge fun b => { b with publicCe := true } else s.heardOn ⟨f.path, f.wire⟩

theorem updBridge_chans (s : State) (g : Bridge → Bridge) : (s.updBridge g).chans = s.chans := rfl

theorem publicHeard_chan (s : State) (f : Frame) (n : Nat) : (s.publicHeard f).chan n = s.chan n := by
  unfold State.publicHeard State.chan
  split
  · rw [updBridge_chans, State.heardOn, updHostPort_chans]
  · rw [State.heardOn, updHostPort_chans]

section
variable {s : State} {f : Frame}

theorem publicLetter_acts (l : Letter) (hpublic : f.session = 0) (hhears : s.hears ⟨f.path, f.wire⟩ (s.iturnUdp f.path.port) = true) :
    execLetter f l s = .next (
      if f.version ≠ 1 || f.type ≠ 1 || f.flags ≠ 0 || !f.formOk || 4064 < l.body.length then
        (s.publicHeard f).bumpIturn f.path.port Reg.LN_ITURN_CNT_FORMAT
      else if 8 ≤ (s.chan 0).inSlots.length then (s.publicHeard f).bumpIturn f.path.port Reg.LN_ITURN_CNT_BUSY
      else (s.publicHeard f).slotLetter 0 f l) := by
  rw [← publicHeard_chan s f 0]
  exact (if_pos hpublic).trans (onHeard_hears hhears)

theorem slotLetter_inSlots (s : State) (ch : Nat) (f : Frame) (l : Letter) : ((s.slotLetter ch f l).chan ch).inSlots =
    (s.chan ch).inSlots ++ [{ letter := l, fits := decide (l.length = l.body.length), path := f.path }] := by
  unfold State.slotLetter
  rw [State.updChan_same]

theorem parcelAct_fault {id off : Nat} {data : List Byte} (h : s.parcelOk f id 0 off data.length = false) :
    s.parcelAct f id off data = s.parcelFault f := if_pos (by rw [h]; rfl)

theorem parcelAct_held {id off : Nat} {data : List Byte} (hok : s.parcelOk f id 0 off data.length = true) (hheld : s.parcelHeld id = true) :
    s.parcelAct f id off data = s.discardFrame f Reg.LN_ITURN_CNT_BUSY :=
  (if_neg (by rw [hok]; decide)).trans (if_pos hheld)

theorem parcelAct_staging {id off : Nat} {data : List Byte} {p : Parcel} (hok : s.parcelOk f id 0 off data.length = true)
    (hheld : s.parcelHeld id = false) (hp : s.parcel id = some p) (hstaging : p.staging = true) : s.parcelAct f id off data =
      ((s.updIce fun h => { h with staging := writeBytes off data h.staging }).parcelMoved id off data.length).ackFrame f.session f.pn :=
  (if_neg (by rw [hok]; decide)).trans ((if_neg (by rw [hheld]; decide)).trans (if_pos (by rw [hp]; exact hstaging)))

theorem parcelAct_writes {id off : Nat} {data : List Byte} {p : Parcel} (hok : s.parcelOk f id 0 off data.length = true)
    (hheld : s.parcelHeld id = false) (hp : s.parcel id = some p) (hslow : p.staging = false) :
    s.parcelAct f id off data = s.parcelWrite f id off data :=
  (if_neg (by rw [hok]; decide)).trans ((if_neg (by rw [hheld]; decide)).trans (if_neg (by
    rw [hp]
    exact fun h => Bool.noConfusion (hslow.symm.trans h))))

theorem execParcelData_acts {x : Session} (id off : Nat) {data : List Byte} (hleast : 8 ≤ data.length) (hmost : data.length ≤ 8192)
    (hwords : data.length % 8 = 0) (h : takenFrame s (f.carrying data.length) 7 true x = true) :
    let f' := f.carrying data.length
    let u := s.took f' 7 true
    (s.parcelOk f' id 0 off data.length = false → execParcelData f id off data s = .next ((u.parcelFault f').flushSession f.session)) ∧
    (s.parcelOk f' id 0 off data.length = true → s.parcelHeld id = true →
      execParcelData f id off data s = .next ((u.discardFrame f' Reg.LN_ITURN_CNT_BUSY).flushSession f.session)) ∧
    (∀ p, s.parcelOk f' id 0 off data.length = true → s.parcelHeld id = false → s.parcel id = some p →
      (p.staging = false → execParcelData f id off data s = .next ((u.parcelWrite f' id off data).flushSession f.session)) ∧
      (p.staging = true → execParcelData f id off data s = .next ((((u.updIce fun h =>
        { h with staging := writeBytes off data h.staging }).parcelMoved id off data.length).ackFrame f.session f.pn).flushSession f.session))) := by
  have hacts := execParcelData_taken id off hleast hmost hwords h
  have hok := took_parcelOk h (f.carrying data.length) id 0 off data.length
  have hheld := took_parcelHeld h id
  have hparcel := took_parcel h id
  refine ⟨fun hbad => ?_, fun hgood hh => ?_, fun p hgood hh hp => ⟨fun hslow => ?_, fun hstaging => ?_⟩⟩
  · rw [hacts, parcelAct_fault (hok.trans hbad)]
  · rw [hacts, parcelAct_held (hok.trans hgood) (hheld.trans hh)]
  · rw [hacts, parcelAct_writes (hok.trans hgood) (hheld.trans hh) (hparcel.trans hp) hslow]
  · rw [hacts, parcelAct_staging (hok.trans hgood) (hheld.trans hh) (hparcel.trans hp) hstaging]
    rfl

end

/-- Settles O48: a frame is turned away by the first check of the bridge that fails (`onFrame_…`); one that is taken acts on what its
acknowledgements leave of its session (`took_session`, `took_acked`). -/
theorem hostFramesActOnTheirSession : Obligations.HostFramesActOnTheirSession := by
  unfold Obligations.HostFramesActOnTheirSession
  intro s f hport
  dsimp only
  refine ⟨fun l q i n o m g e he => ?_, fun x type el h => ?_, fun l hpublic hhears => ?_, fun l x hsession h => execLetter_taken l hsession h,
    fun x mac sig h => execFinished_taken mac sig h, fun x q h => ⟨fun e he => execRegReq_repeated h he, execRegReq_new h⟩,
    fun x id off data hleast hmost hwords h => execParcelData_acts id off hleast hmost hwords h, fun x id len off h => execParcelPull_taken id len off h, fun x h => onFrame_taken h id⟩
  · obtain ⟨el, act, hact⟩ : actsOnFrame s f e := mem_frame_commands (finished_actsOnFrame s f m g) (regReq_actsOnFrame s f q)
      (parcelPull_actsOnFrame s f i n o) (iturnAck_actsOnFrame s f) (letter_actsOnFrame s l) e he
    rw [hact]
    exact ⟨fun hclosed => onFrame_closed hport hclosed act, fun cnt hopen hfault => onFrame_fault hport hopen hfault act,
      fun hhears => ⟨fun hbad => onFrame_format hhears hbad act, fun hsound hnone => onFrame_unknown hhears hsound hnone act,
        fun x hsound hx => ⟨fun hbad => onFrame_auth hhears hsound hx hbad act,
          fun hauth hphase hdup => onFrame_duplicate hhears hsound hx hauth hphase hdup act⟩⟩⟩
  · obtain ⟨y, hy, hnamed⟩ := took_session h
    exact ⟨(took_acked h).1, y, hy, hnamed.path, hnamed.channel, hnamed.seen, hnamed.lastFrame⟩
  · have hacts := publicLetter_acts l hpublic hhears
    refine ⟨fun hversion htype hflags hform hbody => ?_, fun hbad => hacts.trans (congrArg Host.Outcome.next (if_pos ?_))⟩
    · rw [if_neg (by simp [hversion, htype, hflags, hform, hbody])] at hacts
      refine ⟨fun hroom => ⟨hacts.trans (congrArg Host.Outcome.next (if_neg (Nat.not_le.mpr hroom))), ?_⟩,
        fun hfull => hacts.trans (congrArg Host.Outcome.next (if_pos hfull))⟩
      exact (slotLetter_inSlots _ 0 f l).trans (by rw [← publicHeard_chan s f 0]; rfl)
    · simpa [or_assoc] using hbad

end Sys2Proof.Machine

/-! ## A session's timers and what a host port answers (R353-R358, R365, R372-R380) -/

namespace Sys2Proof.Machine

/-! ### Timers of a session -/

section
variable {s : State} {id : Nat} {x : Session}

theorem onSession_some (hx : s.session id = some x) (f : Session → State → State) : onSession id s f = .next (f x s) := by
  unfold onSession
  rw [hx]

theorem waits_iff (s : State) (id pn : Nat) : (s.bridge.waiting.any fun w => decide (w.session = id) && decide (w.pn = pn)) = true ↔
    ∃ w ∈ s.bridge.waiting, w.session = id ∧ w.pn = pn := by
  simp [List.any_eq_true]

theorem retransmission_keeps {pn : Nat} {f : InFlight} (hx : s.session id = some x) (hf : x.inflight.find? (fun f => f.pn = pn) = some f)
    (h : s.now < f.sent + x.rto ∨ ∃ w ∈ s.bridge.waiting, w.session = id ∧ w.pn = pn) : execRetransmissionTimer id pn s = .next s := by
  refine (onSession_some hx _).trans (congrArg Host.Outcome.next ?_)
  rw [← waits_iff, ← decide_eq_true_iff (p := s.now < _), ← Bool.or_eq_true] at h
  rw [hf]
  exact if_pos h

theorem retransmission_resends {pn : Nat} {f : InFlight} (hx : s.session id = some x) (hf : x.inflight.find? (fun f => f.pn = pn) = some f)
    (hdue : f.sent + x.rto ≤ s.now) (hfree : ¬∃ w ∈ s.bridge.waiting, w.session = id ∧ w.pn = pn) :
    execRetransmissionTimer id pn s = .next (((s.putSession id { x with
      inflight := x.inflight.erase f, sendQ := f.content :: x.sendQ, cwnd := 16608, slow := false,
      rto := min (2 * x.rto) 10000000 }).bumpIturn x.path.port Reg.LN_ITURN_STAT_RETX).flushSession id) := by
  refine (onSession_some hx _).trans (congrArg Host.Outcome.next ?_)
  rw [hf]
  refine if_neg ?_
  rw [Bool.or_eq_true, decide_eq_true_eq, waits_iff]
  exact not_or.mpr ⟨Nat.not_lt.mpr hdue, hfree⟩

theorem idle_ends (hx : s.session id = some x) (h : x.lastFrame + s.cfgNat cfgIdleS * ticksPerSec ≤ s.now) :
    execSessionIdleTimeout id s = .next (s.endSession id 3) :=
  (onSession_some hx _).trans (congrArg Host.Outcome.next (if_neg (Nat.not_lt.mpr h)))

theorem idle_keeps (hx : s.session id = some x) (h : s.now < x.lastFrame + s.cfgNat cfgIdleS * ticksPerSec) :
    execSessionIdleTimeout id s = .next s := (onSession_some hx _).trans (congrArg Host.Outcome.next (if_pos h))

theorem unacked_ends (hx : s.session id = some x) (h : ∃ e ∈ x.firsts, e.2 + 5 * ticksPerSec ≤ s.now) :
    execUnackedTimeout id s = .next (s.endSession id 2) := by
  refine (onSession_some hx _).trans (congrArg Host.Outcome.next (if_pos ?_))
  obtain ⟨e, he, hold⟩ := h
  exact List.any_eq_true.mpr ⟨e, he, decide_eq_true hold⟩

theorem finished_ends (hx : s.session id = some x) (hready : x.ready = false) (h : x.opened + ticksPerSec ≤ s.now) :
    execFinishedTimeout id s = .next ((s.endSession id 5).sendGone x.path id 5) := by
  refine (onSession_some hx _).trans (congrArg Host.Outcome.next (if_neg ?_))
  rw [hready, Bool.false_or, decide_eq_true_eq]
  exact Nat.not_lt.mpr h

theorem finished_keeps (hx : s.session id = some x) (hready : x.ready = true) : execFinishedTimeout id s = .next s :=
  (onSession_some hx _).trans (congrArg Host.Outcome.next (if_pos (by rw [hready, Bool.true_or])))

theorem unbound_ends (hx : s.session id = some x) (hready : x.ready = true) (hrole : x.role = roleT) (hbound : x.bound = false)
    (h : x.readyAt + 60 * ticksPerSec ≤ s.now) : execUnboundTimeout id s = .next (s.endSession id 2) := by
  refine (onSession_some hx _).trans (congrArg Host.Outcome.next (if_pos ?_))
  rw [hready, hrole, hbound, decide_eq_true h]
  rfl

theorem unbound_keeps (hx : s.session id = some x) (hbound : x.bound = true) : execUnboundTimeout id s = .next s := by
  refine (onSession_some hx _).trans (congrArg Host.Outcome.next (if_neg ?_))
  rw [hbound, Bool.not_true, Bool.and_false, Bool.false_and]
  exact Bool.false_ne_true

theorem oldPhase_expires {t : Nat} (hx : s.session id = some x) (ht : x.oldUntil = some t) (h : t ≤ s.now) :
    execOldPhaseExpire id s = .next (s.putSession id { x with oldUntil := none, oldKeys := none }) := by
  refine (onSession_some hx _).trans (congrArg Host.Outcome.next ?_)
  rw [ht]
  exact if_pos h

theorem keyLimit_ends (hx : s.session id = some x) (h : 2 ^ 32 ≤ x.txKey ∨ 2 ^ 32 ≤ x.rxKey) :
    execKeyLimit id s = .next ((s.endSession id 2).sendGone x.path id 2) := by
  refine (onSession_some hx _).trans (congrArg Host.Outcome.next (if_pos ?_))
  rw [Bool.or_eq_true, decide_eq_true_eq, decide_eq_true_eq]
  exact h

theorem keyLimit_keeps (hx : s.session id = some x) (htx : x.txKey < 2 ^ 32) (hrx : x.rxKey < 2 ^ 32) : execKeyLimit id s = .next s := by
  refine (onSession_some hx _).trans (congrArg Host.Outcome.next (if_neg ?_))
  rw [Bool.or_eq_true, decide_eq_true_eq, decide_eq_true_eq]
  exact not_or.mpr ⟨Nat.not_le.mpr htx, Nat.not_le.mpr hrx⟩

/-! ### The end of a session -/

theorem closeParcels_chans (s : State) (which : Nat → Parcel → Bool) : (s.closeParcels which).chans = s.chans := by
  unfold State.closeParcels
  dsimp only
  split <;> rfl

theorem besideHost_slow (s : State) : s.besideHost.slow = s.slow := rfl

theorem endSession_slow (s : State) (id reason : Nat) : (s.endSession id reason).slow = s.slow := by
  rw [← besideHost_slow, endSession_besideHost, besideHost_slow]

/-- The channel of a session that ends is free (R328, R375). -/
theorem endSession_ends (reason : Nat) (hx : s.session id = some x) : Fm.look id (s.endSession id reason).bridge.ended = some reason ∧
    ((s.endSession id reason).chan x.channel).role = 0 := by
  unfold State.endSession
  rw [hx]
  dsimp only
  refine ⟨Fm.look_put_same _ _ _, ?_⟩
  unfold State.chan
  rw [updBridge_chans, closeParcels_chans, ← State.chan, State.updChan_same]

end

/-! ### Address resolution, echo and pauses (R356-R358) -/

theorem updHostPort_ip4 (s : State) (n : Nat) (f : Port → Port) (port : Nat) : (s.updHostPort n f).ip4 port = s.ip4 port := rfl
theorem updHostPort_isIp6 (s : State) (n : Nat) (f : Port → Port) (port : Nat) (hi lo : Word) :
    (s.updHostPort n f).isIp6 port hi lo = s.isIp6 port hi lo := rfl

section
variable {s : State} {h : Heard}

theorem arp_acts (hhears : s.hears h none = true) (target : Nat) : execArpRequest h target s =
    .next (if s.ip4 h.path.port = some target then (s.heardOn h).answer h.path 0 else s.heardOn h) := by
  rw [← updHostPort_ip4 s h.path.port _ h.path.port]
  exact onHeard_hears hhears

theorem echo4_acts (hhears : s.hears h none = true) (hi lo : Word) : execEchoRequest h false hi lo s =
    .next (if s.ip4 h.path.port = some lo.toNat then (s.heardOn h).answer h.path 2 else s.heardOn h) := by
  rw [← updHostPort_ip4 s h.path.port _ h.path.port]
  exact onHeard_hears hhears

theorem echo6_acts (hhears : s.hears h none = true) (hi lo : Word) : execEchoRequest h true hi lo s =
    .next (if s.isIp6 h.path.port hi lo then (s.heardOn h).answer h.path 3 else s.heardOn h) := by
  rw [← updHostPort_isIp6 s h.path.port _ h.path.port hi lo]
  exact onHeard_hears hhears

theorem neighbour_acts (hhears : s.hears h none = true) (hi lo : Word) : execNeighbourSolicitation h hi lo s =
    .next (if s.isIp6 h.path.port hi lo then (s.heardOn h).answer h.path 1 else s.heardOn h) := by
  rw [← updHostPort_isIp6 s h.path.port _ h.path.port hi lo]
  exact onHeard_hears hhears

end

theorem updHostPort_hostPauses (s : State) (n : Nat) (f : Port → Port) (port prio : Nat) :
    (s.updHostPort n f).hostPauses port prio = s.hostPauses port prio := rfl

section
variable {s : State} {port prio : Nat}

theorem pfcFits_host (hport : port < 2) (hprio : prio < 8) : pfcFits false port prio = true := by
  simp [pfcFits, hport, hprio]

/-- The port has counted a pause frame and notes what it asks (R357). -/
def State.pfcHeard (s : State) (port prio on : Nat) : State :=
  (s.updHostPort port fun q => q.incF Reg.LN_HOST_MAC_CNT_PFCRX 1).updHostPort port fun q => q.setF (hostPausedF prio) on

theorem pfcFrame_acts (hport : port < 2) (hprio : prio < 8) (hpauses : s.hostPauses port prio = true) (quanta : Nat) :
    execPfcFrame false port prio quanta s = .next (if b01 (decide (0 < quanta)) = 0
      then (s.pfcHeard port prio (b01 (decide (0 < quanta)))).resumeHost port else s.pfcHeard port prio (b01 (decide (0 < quanta)))) := by
  refine (onUnit_next (pfcFits_host hport hprio)).trans (congrArg Host.Outcome.next ?_)
  refine (if_neg Bool.false_ne_true).trans (if_pos ?_)
  rw [updHostPort_hostPauses]
  exact hpauses

theorem pfcFrame_pauses {quanta : Nat} (hport : port < 2) (hprio : prio < 8) (hpauses : s.hostPauses port prio = true) (h : 0 < quanta) :
    execPfcFrame false port prio quanta s = .next ((s.updHostPort port fun q => q.incF Reg.LN_HOST_MAC_CNT_PFCRX 1).updHostPort port
      fun q => q.setF (hostPausedF prio) 1) := by
  have hon : b01 (decide (0 < quanta)) = 1 := by rw [decide_eq_true h, b01, if_pos rfl]
  rw [pfcFrame_acts hport hprio hpauses, hon, if_neg Nat.one_ne_zero, State.pfcHeard]

theorem pfcFrame_resumes (hport : port < 2) (hprio : prio < 8) (hpauses : s.hostPauses port prio = true) :
    execPfcFrame false port prio 0 s = .next (((s.updHostPort port fun q => q.incF Reg.LN_HOST_MAC_CNT_PFCRX 1).updHostPort port
      fun q => q.setF (hostPausedF prio) 0).resumeHost port) := by
  have hoff : b01 (decide (0 < 0)) = 0 := rfl
  rw [pfcFrame_acts hport hprio hpauses, hoff, if_pos rfl, State.pfcHeard]

theorem pauseExpire_acts (hport : port < 2) (hprio : prio < 8) :
    execPauseExpire false port prio s = .next ((s.updHostPort port fun q => q.setF (hostPausedF prio) 0).resumeHost port) :=
  (onUnit_next (pfcFits_host hport hprio)).trans (congrArg Host.Outcome.next (if_neg Bool.false_ne_true))

end

/-- Settles O49: each timer by its condition on the session, each answer by the address that the frame asks for. -/
theorem sessionTimersAndPortAnswers : Obligations.SessionTimersAndPortAnswers := by
  unfold Obligations.SessionTimersAndPortAnswers
  intro s id x hx
  dsimp only
  refine ⟨fun pn f hf => ⟨retransmission_keeps hx hf, retransmission_resends hx hf⟩, idle_ends hx, idle_keeps hx, unacked_ends hx,
    finished_ends hx, finished_keeps hx, unbound_ends hx, unbound_keeps hx, fun t => oldPhase_expires hx, keyLimit_ends hx, keyLimit_keeps hx,
    fun reason => ?_, fun h target hhears => ⟨fun hip => ⟨?_, fun hi lo hlo => ?_⟩, fun hip => ?_, fun hi lo hip => ⟨?_, ?_⟩,
      fun hi lo hip => ⟨?_, ?_⟩⟩,
    fun port prio quanta hport hprio hpauses => ⟨pfcFrame_pauses hport hprio hpauses, pfcFrame_resumes hport hprio hpauses,
      pauseExpire_acts hport hprio⟩⟩
  · obtain ⟨hended, hrole⟩ := endSession_ends reason hx
    exact ⟨endSession_gone s id reason, hended, hrole, endSession_slow s id reason⟩
  · exact (arp_acts hhears target).trans (congrArg Host.Outcome.next (if_pos hip))
  · exact (echo4_acts hhears hi lo).trans (congrArg Host.Outcome.next (if_pos (hip.trans (congrArg some hlo.symm))))
  · exact (arp_acts hhears target).trans (congrArg Host.Outcome.next (if_neg hip))
  · exact (neighbour_acts hhears hi lo).trans (congrArg Host.Outcome.next (if_pos hip))
  · exact (echo6_acts hhears hi lo).trans (congrArg Host.Outcome.next (if_pos hip))
  · exact (neighbour_acts hhears hi lo).trans (congrArg Host.Outcome.next (if_neg (by rw [hip]; exact Bool.false_ne_true)))
  · exact (echo6_acts hhears hi lo).trans (congrArg Host.Outcome.next (if_neg (by rw [hip]; exact Bool.false_ne_true)))

end Sys2Proof.Machine

/-! ## Taints and incidents (R332, R549, R578-R581) -/

namespace Sys2Proof.Machine

/-! ### Taints -/

section
variable {s : State} {g : Nat}

theorem taint_shut (h : s.stepOpen g = false) (reason : Nat) : s.taint g reason = s := if_pos (by rw [h]; rfl)

theorem taint_open (h : s.stepOpen g = true) (hcommit : (s.garden g).committing = false) (reason : Nat) : s.taint g reason =
    if getF (Reg.WD_GARDEN_TAINT g) s.wd = 0 then s.setWd (Reg.WD_GARDEN_TAINT g) reason else s :=
  (if_neg (by rw [h]; decide)).trans (if_neg (by rw [hcommit]; decide))

theorem taint_committing (h : s.stepOpen g = true) (hcommit : (s.garden g).committing = true) (reason : Nat) : s.taint g reason =
    s.updGarden g fun d => if d.nextTaint = 0 then { d with nextTaint := reason } else d :=
  (if_neg (by rw [h]; decide)).trans (if_pos hcommit)

/-- The first taint decides the step's reason. -/
theorem taint_first (h : s.stepOpen g = true) (hcommit : (s.garden g).committing = false) {reason : Nat} (hreason : reason < 8)
    (hnow : getF (Reg.WD_GARDEN_TAINT g) s.wd = 0) :
    getF (Reg.WD_GARDEN_TAINT g) (s.taint g reason).wd = reason ∧ { s.taint g reason with wd := s.wd } = s := by
  rw [taint_open h hcommit, if_pos hnow]
  exact ⟨(getF_setF_same (Reg.WD_GARDEN_TAINT g) reason s.wd (Nat.le_of_ble_eq_true rfl)).trans (Nat.mod_eq_of_lt hreason), rfl⟩

theorem nextTaint_ite (d : Gdn) (reason : Nat) :
    (if d.nextTaint = 0 then { d with nextTaint := reason } else d).nextTaint = if d.nextTaint = 0 then reason else d.nextTaint := by
  split <;> rfl

/-- One after the commit is the next step's. -/
theorem taint_next (h : s.stepOpen g = true) (hcommit : (s.garden g).committing = true) (reason : Nat) :
    OnlyGarden g s (s.taint g reason) ∧
      ((s.taint g reason).garden g).nextTaint = if (s.garden g).nextTaint = 0 then reason else (s.garden g).nextTaint := by
  rw [taint_committing h hcommit, State.updGarden_same]
  exact ⟨⟨rfl, fun d hd => State.updGarden_other _ _ _ hd⟩, nextTaint_ite _ _⟩

end

/-! ### The log -/

theorem stamp_fields (s : State) (i : Incident) : (s.stamp i).kind = i.kind ∧ (s.stamp i).unit = i.unit ∧ (s.stamp i).unitId = i.unitId ∧
    (s.stamp i).boot = s.boot ∧ (s.stamp i).sundial = s.now := by
  unfold State.stamp
  split
  exact ⟨rfl, rfl, rfl, rfl, rfl⟩

/-- A record of the same kind, unit, start and round takes the incident. -/
theorem mergesWith_stamp (s : State) (i j : Incident) : mergesWith (s.stamp i) j = true ↔
    j.kind = i.kind ∧ j.unit = i.unit ∧ j.unitId = i.unitId ∧ j.boot = s.boot ∧ j.sundial / 65536 = s.round := by
  obtain ⟨hkind, hunit, hunitId, hboot, hsundial⟩ := stamp_fields s i
  simp only [mergesWith, Bool.and_eq_true, decide_eq_true_eq, hkind, hunit, hunitId, hboot, hsundial, State.round, and_assoc]

theorem trimLog_fits {cap : Nat} {l : List Incident} (h : logSize l ≤ cap) (acked fuel lost : Nat) :
    trimLog cap acked fuel (l, lost) = (l, lost) := by
  cases fuel with
  | zero => rfl
  | succ fuel => exact if_pos h

/-- A repeat is counted in its record. -/
theorem raise_repeats {s : State} {i : Incident} (h : ∃ j ∈ s.ice.incidents, mergesWith (s.stamp i) j = true) :
    (s.raise i).nextIncident = s.nextIncident ∧ (s.raise i).ice.incidents.length = s.ice.incidents.length := by
  unfold State.raise State.log
  rw [if_pos (List.any_eq_true.mpr h)]
  exact ⟨rfl, List.length_map _⟩

theorem raise_new {s : State} {i : Incident} (h : ∀ j ∈ s.ice.incidents, ¬mergesWith (s.stamp i) j = true) :
    s.raise i = s.record (s.stamp i) := by
  unfold State.raise State.log
  rw [if_neg]
  intro hany
  obtain ⟨j, hj, hmerges⟩ := List.any_eq_true.mp hany
  exact h j hj hmerges

/-- What the log records: the incident under the next number. -/
def State.nextRecord (s : State) (i : Incident) : Incident := { i with number := s.nextIncident }

/-- What the ring holds once the record is in it, and how many it lost for it. -/
def State.ring (s : State) (i : Incident) : List Incident × Nat :=
  trimLog s.ice.logCap (getF Reg.WD_INC_ACK_ACKED s.wd) (s.ice.incidents ++ [s.nextRecord i]).length (s.ice.incidents ++ [s.nextRecord i], 0)

theorem record_acts (s : State) (i : Incident) : s.record i =
    { ((s.updIce fun h => { h with incidents := (s.ring i).1 }).setWd Reg.WD_INC_LAST_LAST s.nextIncident).incWd
        Reg.WD_INC_LAST_OVERWRITTEN (s.ring i).2 with nextIncident := s.nextIncident + 1 } := by
  unfold State.record
  rfl

theorem getF_incF_other (f g : Fld) (n : Nat) (m : RegFile) (h : f.lo + f.w ≤ 64)
    (hne : g.off ≠ f.off ∨ (g.blk = f.blk ∧ (g.lo + g.w ≤ f.lo ∨ f.lo + f.w ≤ g.lo))) : getF g (incF f n m) = getF g m :=
  getF_setF_other f g _ m h hne

theorem record_last (s : State) (i : Incident) (h : s.nextIncident < 2 ^ 48) :
    getF Reg.WD_INC_LAST_LAST (s.record i).wd = s.nextIncident := by
  rw [record_acts]
  refine (getF_incF_other _ _ _ _ (by decide) (by decide)).trans ?_
  exact (getF_setF_same _ _ _ (by decide)).trans (Nat.mod_eq_of_lt h)

theorem record_incidents {s : State} {i : Incident} (h : logSize (s.ice.incidents ++ [s.nextRecord i]) ≤ s.ice.logCap) :
    (s.record i).ice.incidents = s.ice.incidents ++ [s.nextRecord i] := by
  have hring : s.ring i = (s.ice.incidents ++ [s.nextRecord i], 0) := trimLog_fits h _ _ _
  rw [record_acts, hring]
  rfl

/-- Settles O59: the taint of a step by its phase, and an incident by whether a record of its round takes it (`mergesWith_stamp`). -/
theorem taintsAndIncidentsAreRecorded : Obligations.TaintsAndIncidentsAreRecorded := by
  unfold Obligations.TaintsAndIncidentsAreRecorded
  intro s g reason i hg hpos hreason
  dsimp only
  simp only [← mergesWith_stamp]
  refine ⟨fun hshut => taint_shut hshut reason, fun hopen hcommit => ⟨taint_first hopen hcommit hreason,
    fun hnow => (taint_open hopen hcommit reason).trans (if_neg hnow)⟩, fun hopen hcommit => taint_next hopen hcommit reason, raise_repeats,
    fun hnew => ?_⟩
  obtain ⟨hkind, hunit, hunitId, hboot, hsundial⟩ := stamp_fields s i
  rw [raise_new hnew]
  exact ⟨rfl, s.nextRecord (s.stamp i), rfl, hkind, hunit, hunitId, hboot, hsundial, record_incidents, record_last s _⟩

end Sys2Proof.Machine

/-! ## The discipline of the sundial (R361, R362, R453-R456, R635) -/

namespace Sys2Proof.Machine

/-- The state with the discipline so. -/
def State.withDisc (s : State) (d : Discipline) : State := { s with disc := d }

theorem withDisc_back (s : State) (d : Discipline) : { s.withDisc d with disc := s.disc } = s := rfl
theorem withDisc_outside (s : State) (d : Discipline) (stamp : Int) : (s.withDisc d).outside stamp = s.outside stamp := rfl
theorem withDisc_disc (s : State) (d : Discipline) : (s.withDisc d).disc = d := rfl
theorem withDisc_epoch (s : State) (d : Discipline) : (s.withDisc d).epoch = s.epoch := rfl
theorem withDisc_sd (s : State) (d : Discipline) : (s.withDisc d).sd = s.sd := rfl

/-! ### Offsets (R454) -/

theorem setSd_epoch (s : State) {f : Fld} (hf : Reg.SD_EPOCH_EPOCH.off ≠ f.off) (v : Nat) : (s.setSd f v).epoch = s.epoch :=
  congrArg BitVec.toInt (getReg_setReg_other _ _ hf _ _)

theorem setSd_now (s : State) {f : Fld} (hf : Reg.SD_COUNT_COUNT.off ≠ f.off) (v : Nat) : (s.setSd f v).now = s.now :=
  congrArg (fun w => bitsOf w 0 64) (getReg_setReg_other _ _ hf _ _)

theorem setEpoch_now (s : State) (e : Int) : (s.setEpoch e).now = s.now :=
  congrArg (fun w => bitsOf w 0 64) (getReg_setReg_other _ _ (by decide) _ _)

theorem setEpoch_getF (s : State) (e : Int) {f : Fld} (hf : f.off ≠ Reg.SD_EPOCH_EPOCH.off) : getF f (s.setEpoch e).sd = getF f s.sd :=
  congrArg (fun w => bitsOf w f.lo f.w) (getReg_setReg_other _ _ hf _ _)

theorem setEpoch_epoch (s : State) {e : Int} (hlow : -2 ^ 63 ≤ e) (hhigh : e < 2 ^ 63) : (s.setEpoch e).epoch = e := by
  unfold State.epoch State.setEpoch
  dsimp only
  rw [getReg_setReg_same, BitVec.toInt_ofInt]
  exact Int.bmod_eq_of_le (by omega) (by omega)

/-- The offset is shown, and the discipline leaves holdover. -/
def State.noted (s : State) (offset : Int) : State := (s.setSd Reg.SD_OFFSET_OFFSET (offset32 offset)).setSd Reg.SD_TIME_HOLDOVER 0

/-- The epoch is rewritten by an offset beyond 1 ms. -/
def State.stepped (s : State) (offset : Int) : State :=
  ((s.noted offset).setEpoch (s.epoch - offset / 16)).setSd Reg.SD_TIME_STEPPED 1

theorem noted_epoch (s : State) (offset : Int) : (s.noted offset).epoch = s.epoch :=
  (setSd_epoch _ (by decide) _).trans (setSd_epoch _ (by decide) _)

theorem noted_now (s : State) (offset : Int) : (s.noted offset).now = s.now :=
  (setSd_now _ (by decide) _).trans (setSd_now _ (by decide) _)

theorem stepped_now (s : State) (offset : Int) : (s.stepped offset).now = s.now :=
  (setSd_now _ (by decide) _).trans ((setEpoch_now _ _).trans (noted_now s offset))

theorem takeOffset_steps (s : State) {offset : Int} (h : 16000000 < offset.natAbs) : s.takeOffset offset =
    (s.stepped offset).withDisc { (s.stepped offset).disc with inRange := 0, lastSync := s.now } := by
  have hfar : ¬offset.natAbs ≤ 1600 := by omega
  unfold State.takeOffset
  dsimp only
  rw [if_pos h, if_neg hfar, if_neg (by decide), ← State.noted, noted_epoch, ← State.stepped, stepped_now]
  rfl

theorem stepped_epoch (s : State) {offset : Int} (hhigh : s.epoch - offset / 16 < 2 ^ 63) (hlow : -2 ^ 63 ≤ s.epoch - offset / 16) :
    (s.stepped offset).epoch = s.epoch - offset / 16 := (setSd_epoch _ (by decide) _).trans (setEpoch_epoch _ hlow hhigh)

theorem stepped_time (s : State) (offset : Int) :
    getF Reg.SD_TIME_STEPPED (s.stepped offset).sd = 1 ∧ getF Reg.SD_TIME_HOLDOVER (s.stepped offset).sd = 0 := by
  refine ⟨getF_setF_same _ _ _ (by decide), ?_⟩
  calc getF Reg.SD_TIME_HOLDOVER (s.stepped offset).sd
      = getF Reg.SD_TIME_HOLDOVER ((s.noted offset).setEpoch (s.epoch - offset / 16)).sd := getF_setF_other _ _ _ _ (by decide) (by decide)
    _ = getF Reg.SD_TIME_HOLDOVER (s.noted offset).sd := setEpoch_getF _ _ (by decide)
    _ = 0 := getF_setF_same _ _ _ (by decide)

theorem takeOffset_leaves {s : State} {offset : Int} (hfar : 16000000 < offset.natAbs) (hhigh : s.epoch - offset / 16 < 2 ^ 63)
    (hlow : -2 ^ 63 ≤ s.epoch - offset / 16) : (s.takeOffset offset).epoch = s.epoch - offset / 16 ∧
      getF Reg.SD_TIME_STEPPED (s.takeOffset offset).sd = 1 ∧ getF Reg.SD_TIME_HOLDOVER (s.takeOffset offset).sd = 0 ∧
      (s.takeOffset offset).disc.lastSync = s.now ∧ (s.takeOffset offset).disc.inRange = 0 := by
  obtain ⟨hstepped, hholdover⟩ := stepped_time s offset
  rw [takeOffset_steps s hfar, withDisc_epoch, withDisc_sd, withDisc_disc]
  exact ⟨stepped_epoch s hhigh hlow, hstepped, hholdover, rfl, rfl⟩

/-! ### Messages of the clock followed -/

theorem updHostPort_sd (s : State) (n : Nat) (f : Port → Port) : (s.updHostPort n f).sd = s.sd := rfl
theorem updHostPort_cfgNat (s : State) (n : Nat) (f : Port → Port) (k : Nat) : (s.updHostPort n f).cfgNat k = s.cfgNat k := rfl
theorem updHostPort_disc (s : State) (n : Nat) (f : Port → Port) : (s.updHostPort n f).disc = s.disc := rfl
theorem updHostPort_cfg (s : State) (n : Nat) (f : Port → Port) (k : Nat) : (s.updHostPort n f).cfg k = s.cfg k := rfl

theorem heardOn_rxDelay (s : State) (h : Heard) (port : Nat) : (s.heardOn h).rxDelay port = s.rxDelay port := by
  unfold State.rxDelay State.heardOn
  rw [updHostPort_cfg]

theorem heardOn_disc (s : State) (h : Heard) : (s.heardOn h).disc = s.disc := updHostPort_disc _ _ _

theorem heardOn_epoch (s : State) (h : Heard) : (s.heardOn h).epoch = s.epoch := by
  unfold State.epoch State.heardOn
  rw [updHostPort_sd]

theorem heardOn_outside (s : State) (h : Heard) (stamp : Int) : (s.heardOn h).outside stamp = s.outside stamp := by
  unfold State.outside
  rw [heardOn_epoch]

theorem heardOn_follows (s : State) (h : Heard) (source : Nat) : (s.heardOn h).follows source = s.follows source := by
  unfold State.follows
  rw [heardOn_disc]

/-- The interval that a master asks for its delay requests. -/
def delayTicks (i : Int) : Nat := if i < 0 then ticksPerSec / 2 ^ i.natAbs else ticksPerSec * 2 ^ i.natAbs

theorem delayTicks_nat (k : Nat) : max (ticksPerSec / 16) (delayTicks k) = ticksPerSec * 2 ^ k := by
  have hticks : delayTicks k = ticksPerSec * 2 ^ k := if_neg (by omega)
  rw [hticks]
  exact max_eq_right ((Nat.div_le_self _ _).trans (Nat.le_mul_of_pos_right _ (Nat.two_pow_pos k)))

section
variable {s : State} {h : Heard} {domain : Nat}

section
variable (hsource : getF Reg.SD_TIME_SOURCE s.sd = h.path.port + 1) (hdomain : s.cfgNat cfgPtpDomain = domain)
include hsource hdomain

theorem onPtp_acts {udp : Nat} (hhears : s.hears h (some udp) = true) (f : State → State) : onPtp h udp domain s f = .next (f (s.heardOn h)) := by
  refine (onHeard_hears hhears).trans (congrArg Host.Outcome.next (if_pos ?_))
  rw [State.heardOn, updHostPort_sd, updHostPort_cfgNat, hsource, hdomain, decide_eq_true rfl, decide_eq_true rfl]
  rfl

theorem sync_follows {source : Nat} (m a : Int) (hhears : s.hears h (some 319) = true) (hfollows : s.follows source = true) :
    execSync h domain source m a s = .next (((s.heardOn h).withDisc { (s.heardOn h).disc with
      t1 := m, t2 := a - s.rxDelay h.path.port, syncPath := h.path }).takeOffset
        (s.outside (a - s.rxDelay h.path.port) - m - s.disc.pathDelay)) := by
  refine (onPtp_acts hsource hdomain hhears _).trans (congrArg Host.Outcome.next ?_)
  have hdelay := heardOn_rxDelay s h h.path.port
  have houtside := heardOn_outside s h (a - s.rxDelay h.path.port)
  have hpath := congrArg Discipline.pathDelay (heardOn_disc s h)
  rw [← heardOn_follows s h] at hfollows
  generalize s.heardOn h = u at *
  rw [if_neg (by rw [hfollows]; decide), hdelay, ← houtside, ← hpath, ← withDisc_outside u { u.disc with
    t1 := m, t2 := a - s.rxDelay h.path.port, syncPath := h.path }]
  unfold State.withDisc
  dsimp only

theorem sync_ignored {source : Nat} (m a : Int) (hhears : s.hears h (some 319) = true) (hfollows : s.follows source = false) :
    execSync h domain source m a s = .next (s.heardOn h) := by
  refine (onPtp_acts hsource hdomain hhears _).trans (congrArg Host.Outcome.next (if_pos ?_))
  rw [heardOn_follows, hfollows]
  rfl

/-- The dataset is taken: none was followed, it is the followed clock's own, or it is better (R362). -/
def State.prefers (s : State) (d : List Nat) : Bool :=
  match s.disc.master with
  | none => true
  | some m => m.getLast? = d.getLast? || better d m

theorem announce_acts (d : List Nat) (hhears : s.hears h (some 320) = true) : execAnnounce h domain d s =
    .next (if s.prefers d then (s.heardOn h).withDisc { (s.heardOn h).disc with master := some d } else s.heardOn h) := by
  refine (onPtp_acts hsource hdomain hhears _).trans (congrArg Host.Outcome.next ?_)
  have hprefers : (s.heardOn h).prefers d = s.prefers d := by rw [State.prefers, State.prefers, heardOn_disc]
  rw [← hprefers]
  generalize s.heardOn h = u
  rfl

theorem announce_takes (d : List Nat) (hhears : s.hears h (some 320) = true) (hprefers : s.prefers d = true) :
    execAnnounce h domain d s = .next ((s.heardOn h).withDisc { (s.heardOn h).disc with master := some d }) :=
  (announce_acts hsource hdomain d hhears).trans (congrArg Host.Outcome.next (if_pos hprefers))

theorem announce_ignores (d : List Nat) (hhears : s.hears h (some 320) = true) (hprefers : s.prefers d = false) :
    execAnnounce h domain d s = .next (s.heardOn h) :=
  (announce_acts hsource hdomain d hhears).trans (congrArg Host.Outcome.next (if_neg (by rw [hprefers]; decide)))

theorem delayResp_follows {source : Nat} {t3 : Int} (r i : Int) (hhears : s.hears h (some 320) = true) (hsent : s.disc.delaySent = some t3)
    (hfollows : s.follows source = true) : execDelayResp h domain source r i s = .next ((s.heardOn h).withDisc { (s.heardOn h).disc with
      pathDelay := ((s.outside s.disc.t2 - s.disc.t1) + (r - s.outside t3)) / 2, delaySent := none,
      delayInterval := max (ticksPerSec / 16) (delayTicks i) }) := by
  refine (onPtp_acts hsource hdomain hhears _).trans (congrArg Host.Outcome.next ?_)
  have hdisc := heardOn_disc s h
  have houtside := heardOn_outside s h
  rw [← heardOn_follows s h] at hfollows
  rw [← hdisc] at hsent
  generalize s.heardOn h = u at *
  rw [hsent, hfollows, ← hdisc, ← houtside, ← houtside]
  rfl

theorem delayResp_leaves {source : Nat} {t3 : Int} (r i : Int) (hhears : s.hears h (some 320) = true) (hsent : s.disc.delaySent = some t3)
    (hfollows : s.follows source = true) : Completes (execDelayResp h domain source r i s) fun t =>
      { t with disc := (s.heardOn h).disc } = s.heardOn h ∧
      t.disc.pathDelay = ((s.outside s.disc.t2 - s.disc.t1) + (r - s.outside t3)) / 2 ∧ t.disc.delaySent = none ∧
      ticksPerSec / 16 ≤ t.disc.delayInterval ∧ (∀ k : Nat, i = k → t.disc.delayInterval = ticksPerSec * 2 ^ k) := by
  have hacts := delayResp_follows hsource hdomain r i hhears hsent hfollows
  have hmin : ticksPerSec / 16 ≤ max (ticksPerSec / 16) (delayTicks i) := le_max_left _ _
  have hnat : ∀ k : Nat, i = k → max (ticksPerSec / 16) (delayTicks i) = ticksPerSec * 2 ^ k := fun k hk => hk ▸ delayTicks_nat k
  generalize max (ticksPerSec / 16) (delayTicks i) = n at hacts hmin hnat
  generalize s.heardOn h = u at hacts
  exact ⟨_, hacts, withDisc_back u _, rfl, rfl, hmin, hnat⟩

theorem delayResp_ignored {source : Nat} (r i : Int) (hhears : s.hears h (some 320) = true) (hfollows : s.follows source = false) :
    execDelayResp h domain source r i s = .next (s.heardOn h) := by
  refine (onPtp_acts hsource hdomain hhears _).trans (congrArg Host.Outcome.next ?_)
  rw [← heardOn_follows s h] at hfollows
  generalize s.heardOn h = u at *
  rw [hfollows]
  cases u.disc.delaySent <;> rfl

end

end

/-! ### Delay requests, edges and the reference clock -/

section
variable {s : State} {port : Nat}

theorem answer_disc (s : State) (path : Path) (kind : Nat) : (s.answer path kind).disc = s.disc := rfl

theorem delayReq_sends (d : Int) (hport : port < 2) (hsource : getF Reg.SD_TIME_SOURCE s.sd = port + 1) (hopen : s.windowOpen = true)
    (hmaster : s.disc.master ≠ none) (hdue : s.disc.delayAt + s.disc.delayInterval ≤ s.now) (hfree : s.iturnPaused port = false) :
    execDelayReq port d s = .next ((s.answer s.disc.syncPath 4).withDisc
      { (s.answer s.disc.syncPath 4).disc with delaySent := some (d + s.txDelay port), delayAt := s.now }) := by
  rw [answer_disc]
  refine (onUnit_next (decide_eq_true hport)).trans (congrArg Host.Outcome.next (if_neg ?_))
  have hmaster' : s.disc.master.isNone = false := by rw [← Bool.not_eq_true, Option.isNone_iff_eq_none]; exact hmaster
  rw [hopen, hmaster', hfree, decide_eq_false (not_not.mpr hsource), decide_eq_false (Nat.not_lt.mpr hdue)]
  decide

theorem delayReq_idle (d : Int) (hport : port < 2)
    (h : s.disc.master = none ∨ s.now < s.disc.delayAt + s.disc.delayInterval ∨ s.iturnPaused port = true) :
    execDelayReq port d s = .next s := by
  refine (onUnit_next (decide_eq_true hport)).trans (congrArg Host.Outcome.next (if_pos ?_))
  rw [Bool.or_eq_true, Bool.or_eq_true, Bool.or_eq_true, Option.isNone_iff_eq_none, decide_eq_true_eq]
  rcases h with h | h | h
  · exact Or.inl (Or.inl (Or.inr h))
  · exact Or.inl (Or.inr h)
  · exact Or.inr h

/-- On a port PTP waits 16 s for a Sync. -/
theorem disciplineHoldover_acts (hport : port < 2) (hsource : getF Reg.SD_TIME_SOURCE s.sd = port + 1) : execDisciplineHoldover s =
    if getF Reg.SD_TIME_HOLDOVER s.sd = 1 ∨ s.now < s.disc.lastSync + 16 * ticksPerSec then .next s else .next s.disciplineHold := by
  have hne : port + 1 ≠ 3 := by omega
  unfold execDisciplineHoldover
  dsimp only
  rw [hsource, if_neg hne]
  simp only [Nat.add_one_ne_zero, decide_false, Bool.false_or, Bool.or_eq_true, decide_eq_true_eq]

theorem reportAt_sd (s : State) (kind unit unitId : Nat) (g : Option Nat) : (s.reportAt kind unit unitId g).sd = s.sd := rfl
theorem reportAt_slow (s : State) (kind unit unitId : Nat) (g : Option Nat) : (s.reportAt kind unit unitId g).slow = s.slow := rfl
theorem reportAt_disc (s : State) (kind unit unitId : Nat) (g : Option Nat) : (s.reportAt kind unit unitId g).disc = s.disc := rfl
theorem reportAt_pins (s : State) (kind unit unitId : Nat) (g : Option Nat) : (s.reportAt kind unit unitId g).pins = s.pins := rfl
theorem reportAt_srcHoldover (s : State) (kind unit unitId : Nat) (g : Option Nat) :
    (s.reportAt kind unit unitId g).srcHoldover = s.srcHoldover := rfl
theorem incSd_sd (s : State) (f : Fld) (n : Nat) : (s.incSd f n).sd = incF f n s.sd := rfl
theorem incSd_disc (s : State) (f : Fld) (n : Nat) : (s.incSd f n).disc = s.disc := rfl
theorem withDisc_slow (s : State) (d : Discipline) : (s.withDisc d).slow = s.slow := rfl
theorem withDisc_pins (s : State) (d : Discipline) : (s.withDisc d).pins = s.pins := rfl
theorem withDisc_srcHoldover (s : State) (d : Discipline) : (s.withDisc d).srcHoldover = s.srcHoldover := rfl
theorem incSd_slow (s : State) (f : Fld) (n : Nat) : (s.incSd f n).slow = s.slow := rfl
theorem incSd_pins (s : State) (f : Fld) (n : Nat) : (s.incSd f n).pins = s.pins := rfl
theorem incSd_srcHoldover (s : State) (f : Fld) (n : Nat) : (s.incSd f n).srcHoldover = s.srcHoldover := rfl

/-- Holdover is counted: the sundial no longer is locked. -/
def State.unlocked (s : State) : State :=
  ((s.setSd Reg.SD_TIME_LOCKED 0).setSd Reg.SD_TIME_HOLDOVER 1).incSd Reg.SD_CNT_HOLDOVERS 1

theorem disciplineHold_acts (s : State) :
    s.disciplineHold = (s.unlocked.withDisc { s.unlocked.disc with inRange := 0 }).reportAt 0x40 0 0 none := by
  unfold State.disciplineHold State.unlocked State.withDisc
  dsimp only

theorem disciplineHold_sd (s : State) : s.disciplineHold.sd = s.unlocked.sd := by
  rw [disciplineHold_acts, reportAt_sd, withDisc_sd]

theorem disciplineHold_slow (s : State) : s.disciplineHold.slow = s.slow := by
  rw [disciplineHold_acts, reportAt_slow, withDisc_slow, State.unlocked, incSd_slow, State.setSd_slow, State.setSd_slow]

theorem disciplineHold_disc (s : State) : s.disciplineHold.disc.inRange = 0 := by
  rw [disciplineHold_acts, reportAt_disc, withDisc_disc]

theorem disciplineHold_pins (s : State) : s.disciplineHold.pins = s.pins := by
  rw [disciplineHold_acts, reportAt_pins, withDisc_pins, State.unlocked, incSd_pins, State.setSd_pins, State.setSd_pins]

theorem disciplineHold_srcHoldover (s : State) : s.disciplineHold.srcHoldover = s.srcHoldover := by
  rw [disciplineHold_acts, reportAt_srcHoldover, withDisc_srcHoldover, State.unlocked, incSd_srcHoldover, State.setSd_srcHoldover,
    State.setSd_srcHoldover]

theorem disciplineHold_shows (s : State) : getF Reg.SD_TIME_HOLDOVER s.disciplineHold.sd = 1 ∧
    getF Reg.SD_TIME_LOCKED s.disciplineHold.sd = 0 ∧ s.disciplineHold.disc.inRange = 0 := by
  rw [disciplineHold_sd, State.unlocked, incSd_sd, getF_incF_other _ _ _ _ (by decide) (by decide),
    getF_incF_other _ _ _ _ (by decide) (by decide), State.setSd_sd, State.setSd_sd]
  refine ⟨getF_setF_same _ _ _ (by decide), ?_, disciplineHold_disc s⟩
  exact (getF_setF_other _ _ _ _ (by decide) (by decide)).trans (getF_setF_same _ _ _ (by decide))

end

section
variable {u : State} {stamp e : Int} (hsource : getF Reg.SD_TIME_SOURCE u.sd = 3) (hrun : u.power.stopped = false)
  (hedge : u.disc.lastEdge = some e)
include hsource hrun hedge

omit hedge in
theorem syncIn_started : ¬(getF Reg.SD_TIME_SOURCE u.sd ≠ 3 || u.power.stopped) = true := by
  rw [hsource, hrun]
  decide

/-- An edge too soon after the last one is rejected (R453). -/
def State.edgeRejected (u : State) : State := ((u.setSd Reg.SD_TIME_SYNCFAULT 1).incSd Reg.SD_CNT_SYNCREJECT 1).reportAt 0x40 0 0 none

omit hsource hrun hedge in
theorem edgeRejected_leaves (u : State) : getF Reg.SD_TIME_SYNCFAULT u.edgeRejected.sd = 1 ∧ u.edgeRejected.disc = u.disc ∧
    u.edgeRejected.slow = u.slow := by
  rw [State.edgeRejected, reportAt_sd, reportAt_disc, reportAt_slow, incSd_sd, incSd_disc, incSd_slow,
    getF_incF_other _ _ _ _ (by decide) (by decide), State.setSd_sd]
  exact ⟨getF_setF_same _ _ _ (by decide), State.setSd_disc _ _ _, State.setSd_slow _ _ _⟩

theorem syncIn_early (hearly : stamp - e < 800000000) : execSyncInEdge stamp u = .next u.edgeRejected := by
  refine (if_neg (syncIn_started hsource hrun)).trans (if_pos ?_)
  rw [hedge]
  exact decide_eq_true hearly

theorem syncIn_offset (hlate : 800000000 ≤ stamp - e) (hfirst : u.disc.firstEdge = false) : execSyncInEdge stamp u =
    .next ((u.withDisc { u.disc with lastEdge := some stamp, firstEdge := false }).takeOffset (toSecond (u.outside stamp))) := by
  have hnew : ¬(u.disc.lastEdge.any fun e => decide (stamp - e < 800000000)) = true := by
    rw [hedge, Option.any_some, decide_eq_true_eq]
    exact Int.not_lt.mpr hlate
  exact (if_neg (syncIn_started hsource hrun)).trans ((if_neg hnew).trans (if_neg (by rw [hfirst]; decide)))

end

theorem refclkReturn_acts (s : State) : Completes (execRefclkReturn s) fun t =>
    t.pins.refclk = true ∧ t.srcHoldover = false ∧ { t with pins := s.pins, srcHoldover := s.srcHoldover } = s := ⟨_, rfl, rfl, rfl, rfl⟩

theorem refclkLoss_acts (s : State) : Completes (execRefclkLoss s) fun t =>
    t.pins.refclk = false ∧ t.slow = s.slow ∧ (s.srcLocked = true → t.srcHoldover = true) := by
  unfold execRefclkLoss
  dsimp only
  split
  next h =>
    refine ⟨_, rfl, rfl, rfl, fun hlocked => ?_⟩
    rw [hlocked] at h
    exact h
  next =>
    refine ⟨_, rfl, ?_, ?_, fun _ => ?_⟩
    · rw [disciplineHold_pins, reportAt_pins]
    · rw [disciplineHold_slow, reportAt_slow]
    · rw [disciplineHold_srcHoldover, reportAt_srcHoldover]

/-- Settles O50: each message by whether its clock is followed, an offset by its size, and holdover by the time since the last Sync. -/
theorem theDisciplineFollowsItsSource : Obligations.TheDisciplineFollowsItsSource := by
  unfold Obligations.TheDisciplineFollowsItsSource
  intro s h domain
  dsimp only
  intro hport hsource hdomain
  refine ⟨fun source m a hhears => ⟨sync_follows hsource hdomain m a hhears, sync_ignored hsource hdomain m a hhears⟩,
    fun off hfar hhigh hlow => ⟨_, rfl, takeOffset_leaves hfar hhigh hlow⟩, fun d hhears => ⟨fun hnone => ?_, fun m hm hbetter => ?_, fun m hm hother hworse => ?_⟩,
    fun source r i t3 hhears hsent => ⟨delayResp_leaves hsource hdomain r i hhears hsent, delayResp_ignored hsource hdomain r i hhears⟩,
    fun d hopen hmaster hdue hfree => delayReq_sends d hport hsource hopen hmaster hdue hfree, fun d => delayReq_idle d hport, fun hrecent => ?_,
    fun hdisciplined hsilent => ?_, fun u stamp hpps hrun => ⟨fun e he hearly => ⟨_, syncIn_early hpps hrun he hearly, edgeRejected_leaves u⟩,
      fun e he hlate hfirst => syncIn_offset hpps hrun he hlate hfirst⟩, refclkReturn_acts s, refclkLoss_acts s⟩
  · refine announce_takes hsource hdomain d hhears ?_
    rw [State.prefers, hnone]
  · refine announce_takes hsource hdomain d hhears ?_
    rw [State.prefers, hm]
    dsimp only
    rw [Bool.or_eq_true, decide_eq_true_eq]
    exact hbetter
  · refine announce_ignores hsource hdomain d hhears ?_
    rw [State.prefers, hm]
    dsimp only
    rw [hworse, decide_eq_false hother]
    rfl
  · exact (disciplineHoldover_acts hport hsource).trans (if_pos (Or.inr hrecent))
  · obtain ⟨hholdover, hlocked, hrange⟩ := disciplineHold_shows s
    refine ⟨_, (disciplineHoldover_acts hport hsource).trans (if_neg ?_), hholdover, hlocked, hrange, disciplineHold_slow s⟩
    rw [hdisciplined]
    exact not_or.mpr ⟨by decide, Nat.not_lt.mpr hsilent⟩

end Sys2Proof.Machine

/-! ## Stages and chimes (R455-R465) -/

namespace Sys2Proof.Machine

/-! ### What the parts of a stage leave alone -/

theorem OnlyPavs.records {s t : State} (h : OnlyPavs s t) : t.records = s.records := (congrArg State.records h :)

/-- Only the registers of the sundial change. -/
def OnlySd (s t : State) : Prop := { t with sd := s.sd } = s

theorem setSd_onlySd (s : State) (f : Fld) (v : Nat) : OnlySd s (s.setSd f v) := rfl

theorem OnlySd.refl (s : State) : OnlySd s s := rfl

theorem OnlySd.trans {s t u : State} (h : OnlySd s t) (k : OnlySd t u) : OnlySd s u := by
  unfold OnlySd at *
  rw [← h, ← k]

section
variable {s t : State} (h : OnlySd s t)
include h

theorem OnlySd.slow : t.slow = s.slow := (congrArg State.slow h :)
theorem OnlySd.cores : t.cores = s.cores := (congrArg State.cores h :)
theorem OnlySd.records : t.records = s.records := (congrArg State.records h :)
theorem OnlySd.post : t.post = s.post := (congrArg State.post h :)

end

theorem showStage_onlySd (s : State) (id : Nat) : OnlySd s (s.showStage id) := by
  unfold State.showStage
  split
  · exact OnlySd.refl s
  · split
    · exact setSd_onlySd s _ _
    · exact (setSd_onlySd s _ _).trans (setSd_onlySd _ _ _)

theorem nextChime_onlySd (s : State) : OnlySd s s.nextChime := setSd_onlySd s _ _

theorem raiseForStage_onlyPavs (s : State) (u : Nat) (cs : List Change) : OnlyPavs s (s.raiseForStage u cs) := by
  refine onlyPavs_foldl (fun s c => ?_) cs s
  dsimp only
  split
  · split
    · exact OnlyPavs.refl s
    · split
      · exact updPav_onlyPavs s u _
      · exact OnlyPavs.refl s
  · exact OnlyPavs.refl s

theorem dropVoltage_onlyPavs (s : State) (u : Nat) : OnlyPavs s (s.dropVoltage u) := by
  unfold State.dropVoltage
  split
  · exact updPav_onlyPavs s u _
  · exact OnlyPavs.refl s

/-! ### Records -/

/-- The unit's records are so, and nothing else is changed. -/
def State.withRecords (s : State) (u : Nat) (rs : List StageRec) : State := { s with records := Fm.set [] u rs s.records }

theorem withRecords_slow (s : State) (u : Nat) (rs : List StageRec) : (s.withRecords u rs).slow = s.slow := rfl
theorem withRecords_cores (s : State) (u : Nat) (rs : List StageRec) : (s.withRecords u rs).cores = s.cores := rfl
theorem withRecords_post (s : State) (u : Nat) (rs : List StageRec) : (s.withRecords u rs).post = s.post := rfl
theorem withRecords_sd (s : State) (u : Nat) (rs : List StageRec) : (s.withRecords u rs).sd = s.sd := rfl

theorem setRecords_onlyPavs (s : State) (u : Nat) (rs : List StageRec) : OnlyPavs (s.withRecords u rs) (s.setRecords u rs) := by
  unfold State.setRecords
  dsimp only
  split
  · exact updPav_onlyPavs (s.withRecords u rs) u _
  · exact OnlyPavs.refl _

theorem recordsOf_congr {s t : State} (h : t.records = s.records) (u : Nat) : t.recordsOf u = s.recordsOf u := by
  unfold State.recordsOf
  rw [h]

theorem withRecords_recordsOf (s : State) (u : Nat) (rs : List StageRec) : (s.withRecords u rs).recordsOf u = rs :=
  Fm.get_set_same _ _ _ _

theorem OnlyPavs.recordsOf {s t : State} {u : Nat} {rs : List StageRec} (h : OnlyPavs (s.withRecords u rs) t) : t.recordsOf u = rs :=
  (recordsOf_congr h.records u).trans (withRecords_recordsOf s u rs)

theorem setRecords_dropVoltage (s : State) (u : Nat) (rs : List StageRec) :
    OnlyPavs (s.withRecords u rs) ((s.setRecords u rs).dropVoltage u) := (setRecords_onlyPavs s u rs).trans (dropVoltage_onlyPavs _ u)

/-! ### Stages as the postmaster tracks them -/

theorem stageOf_congr {s t : State} (h : t.post = s.post) (id : Nat) : t.stageOf id = s.stageOf id := by
  unfold State.stageOf
  rw [h]

theorem updStage_stageOf {s : State} {id : Nat} {g : Stage} {f : Stage → Stage} (hf : ∀ g, (f g).id = g.id) (hg : s.stageOf id = some g) :
    (s.updStage id f).stageOf id = some (f g) := by
  have hkeeps : ((fun x : Stage => decide (x.id = id)) ∘ fun g => if g.id = id then f g else g) = fun x => decide (x.id = id) := by
    funext x
    dsimp only [Function.comp_apply]
    split
    · rw [hf x]
    · rfl
  have hid : g.id = id := of_decide_eq_true (List.find?_some (p := fun x : Stage => decide (x.id = id)) hg)
  unfold State.stageOf State.updStage at *
  rw [State.updPost_post]
  dsimp only
  rw [List.find?_map, hkeeps, hg, Option.map_some, if_pos hid]

/-! ### A stage at its unit (R457-R460) -/

/-- The unit refuses the stage. -/
def State.stageRefused (s : State) (u id : Nat) (cs : List Change) : State :=
  (if u < 432 && cs.any (fun c => c.kind = 3) && !s.stagedOk u then s.updPav u fun v => v.setF Reg.PV_FAB_STATUS_STAGEERR 1 else s).updStage
    id fun g => { g with refused := true }

/-- The unit's records and its voltage once it agrees. -/
def State.stageHeld (s : State) (u id : Nat) (cs : List Change) : State :=
  (s.setRecords u (s.recordsOf u ++ [{ id := id, changes := cs, since := s.now }])).raiseForStage u cs

/-- The postmaster hears its acknowledgement. -/
def State.stageAcked (s : State) (u id : Nat) : State :=
  (s.updStage id fun g => { g with pendingAck := g.pendingAck.filter (· ≠ u), lastAck := s.now }).showStage id

def State.kindsLocked (s : State) (u : Nat) (cs : List Change) : Bool :=
  (s.recordsOf u).any fun r => r.changes.any fun a => cs.any fun b => a.clashes b

section
variable {s : State} {u id : Nat} {g : Stage}

theorem stage_acts (hu : u < chimeUnits) (hg : s.stageOf id = some g) (hasked : g.pendingAck.contains u = true) (hopen : g.t = none)
    (hlive : s.unitLive u = true) : execStage u id s = .next (let cs := g.changes.filter (s.reaches u)
      if s.kindsLocked u cs || 8 ≤ (s.recordsOf u).length || !s.unitAgrees u cs then s.stageRefused u id cs
      else if g.round < (s.stageHeld u id cs).round then s.stageHeld u id cs else (s.stageHeld u id cs).stageAcked u id) := by
  refine (onUnit_next (decide_eq_true hu)).trans (congrArg Host.Outcome.next ?_)
  rw [hg]
  exact if_neg (by rw [hasked, hopen, hlive]; decide)

theorem stageHeld_onlyPavs (s : State) (u id : Nat) (cs : List Change) :
    OnlyPavs (s.withRecords u (s.recordsOf u ++ [{ id := id, changes := cs, since := s.now }])) (s.stageHeld u id cs) :=
  (setRecords_onlyPavs s u _).trans (raiseForStage_onlyPavs _ u cs)

theorem now_congr {s t : State} (h : t.sd = s.sd) : t.now = s.now := by
  unfold State.now
  rw [h]

theorem stageHeld_now (s : State) (u id : Nat) (cs : List Change) : (s.stageHeld u id cs).now = s.now :=
  now_congr ((stageHeld_onlyPavs s u id cs).sd.trans (withRecords_sd s u _))

theorem stageHeld_round (s : State) (u id : Nat) (cs : List Change) : (s.stageHeld u id cs).round = s.round := by
  unfold State.round
  rw [stageHeld_now]

theorem stageHeld_stageOf (s : State) (u id : Nat) (cs : List Change) (k : Nat) : (s.stageHeld u id cs).stageOf k = s.stageOf k :=
  stageOf_congr ((stageHeld_onlyPavs s u id cs).post.trans (withRecords_post s u _)) k

theorem stageAcked_stageOf (hg : s.stageOf id = some g) : (s.stageAcked u id).stageOf id =
    some { g with pendingAck := g.pendingAck.filter (· ≠ u), lastAck := s.now } :=
  (stageOf_congr (showStage_onlySd _ id).post id).trans (updStage_stageOf (fun _ => rfl) hg)

theorem stageAcked_leaves (s : State) (u id : Nat) : (s.stageAcked u id).records = s.records ∧ (s.stageAcked u id).slow = s.slow ∧
    (s.stageAcked u id).cores = s.cores := by
  have hshown := showStage_onlySd (s.updStage id fun g => { g with pendingAck := g.pendingAck.filter (· ≠ u), lastAck := s.now }) id
  exact ⟨hshown.records, hshown.slow, hshown.cores⟩

/-- A unit that agrees holds a record; its acknowledgement counts within the round of the broadcast. -/
theorem stage_agrees (hu : u < chimeUnits) (hg : s.stageOf id = some g) (hasked : g.pendingAck.contains u = true) (hopen : g.t = none)
    (hlive : s.unitLive u = true) (hlocked : s.kindsLocked u (g.changes.filter (s.reaches u)) = false) (hroom : (s.recordsOf u).length < 8)
    (hagrees : s.unitAgrees u (g.changes.filter (s.reaches u)) = true) : Completes (execStage u id s) fun t =>
      t.recordsOf u = s.recordsOf u ++ [{ id := id, changes := g.changes.filter (s.reaches u), since := s.now }] ∧ t.slow = s.slow ∧
      t.cores = s.cores ∧
      (s.round ≤ g.round → t.stageOf id = some { g with pendingAck := g.pendingAck.filter (· ≠ u), lastAck := s.now }) ∧
      (g.round < s.round → t.stageOf id = some g) := by
  have hacts := stage_acts hu hg hasked hopen hlive
  dsimp only at hacts
  rw [hlocked, hagrees, decide_eq_false (Nat.not_le.mpr hroom), if_neg (by decide), stageHeld_round] at hacts
  have hheld := stageHeld_onlyPavs s u id (g.changes.filter (s.reaches u))
  have hstage := (stageHeld_stageOf s u id (g.changes.filter (s.reaches u)) id).trans hg
  have hnow := stageHeld_now s u id (g.changes.filter (s.reaches u))
  generalize s.stageHeld u id (g.changes.filter (s.reaches u)) = v at *
  have hslow := hheld.slow.trans (withRecords_slow s u _)
  have hcores := hheld.cores.trans (withRecords_cores s u _)
  refine ⟨_, hacts, ?_⟩
  by_cases hlate : g.round < s.round
  · rw [if_pos hlate]
    exact ⟨hheld.recordsOf, hslow, hcores, fun hround => absurd hlate (Nat.not_lt.mpr hround), fun _ => hstage⟩
  · rw [if_neg hlate]
    obtain ⟨hrecords, hslow', hcores'⟩ := stageAcked_leaves v u id
    refine ⟨(recordsOf_congr hrecords u).trans hheld.recordsOf, hslow'.trans hslow, hcores'.trans hcores, fun _ => ?_,
      fun hround => absurd hround hlate⟩
    rw [stageAcked_stageOf hstage, hnow]

theorem stageRefused_leaves (cs : List Change) (hg : s.stageOf id = some g) : (s.stageRefused u id cs).recordsOf u = s.recordsOf u ∧
    (s.stageRefused u id cs).stageOf id = some { g with refused := true } ∧ (s.stageRefused u id cs).slow = s.slow := by
  unfold State.stageRefused
  split
  · refine ⟨rfl, updStage_stageOf (fun _ => rfl) ?_, rfl⟩
    exact (stageOf_congr (State.updPav_post s u _) id).trans hg
  · exact ⟨rfl, updStage_stageOf (fun _ => rfl) hg, rfl⟩

theorem stage_refuses (hu : u < chimeUnits) (hg : s.stageOf id = some g) (hasked : g.pendingAck.contains u = true) (hopen : g.t = none)
    (hlive : s.unitLive u = true) (hbad : s.kindsLocked u (g.changes.filter (s.reaches u)) = true ∨ 8 ≤ (s.recordsOf u).length ∨
      s.unitAgrees u (g.changes.filter (s.reaches u)) = false) : Completes (execStage u id s) fun t =>
        t.recordsOf u = s.recordsOf u ∧ t.stageOf id = some { g with refused := true } ∧ t.slow = s.slow := by
  refine ⟨_, (stage_acts hu hg hasked hopen hlive).trans (congrArg Host.Outcome.next (if_pos ?_)), stageRefused_leaves _ hg⟩
  rw [Bool.or_eq_true, Bool.or_eq_true, decide_eq_true_eq, Bool.not_eq_true', or_assoc]
  exact hbad

theorem stage_unknown (hu : u < chimeUnits) (hg : s.stageOf id = none) : execStage u id s = .next s := by
  refine (onUnit_next (decide_eq_true hu)).trans (congrArg Host.Outcome.next ?_)
  rw [hg]

/-! ### Acknowledgements in, or not (R459-R461) -/

theorem ackDeadline_unserved (h : getF Reg.PM_STATUS_STATE s.pm ≠ 2) : execAckDeadline id s = .next s := if_pos h

theorem ackDeadline_unknown (hg : s.stageOf id = none) : execAckDeadline id s = .next s := by
  unfold execAckDeadline
  rw [hg, ite_self]

theorem ackDeadline_discards (hserves : getF Reg.PM_STATUS_STATE s.pm = 2) (hg : s.stageOf id = some g) (hopen : g.t = none)
    (hbad : g.refused = true ∨ g.pendingAck ≠ [] ∧ (g.round < s.round ∨ s.tick = 65535)) :
    execAckDeadline id s = .next (s.discardStage g) := by
  unfold execAckDeadline
  rw [if_neg (not_not.mpr hserves), hg]
  dsimp only
  rw [hopen, if_neg (by decide)]
  cases hrefused : g.refused with
  | true => rfl
  | false =>
    rw [hrefused] at hbad
    obtain ⟨hmissing, hlate⟩ := hbad.resolve_left Bool.false_ne_true
    have hmissing' : ¬g.pendingAck.isEmpty = true := fun h => hmissing (List.isEmpty_iff.mp h)
    rw [if_neg Bool.false_ne_true, if_neg hmissing', if_pos]
    rw [Bool.or_eq_true, decide_eq_true_eq, decide_eq_true_eq]
    exact hlate

end

/-- T of a stage: two rounds ahead, or the round asked for where it lies within 16,384 rounds of that (R461). -/
theorem chimeAt_bounds (field named lastAck : Nat) : let low := ((lastAck + 65535) / 65536 + 2) * 65536
    let n := (chimeAt field named lastAck).1
    low ≤ n ∧ n ≤ low + 16384 * 65536 ∧ n % 65536 = 0 ∧ (named = 0 → n = low) ∧
      (named % 65536 = 0 → low ≤ named → named ≤ low + 16384 * 65536 → n = named) := by
  unfold chimeAt
  dsimp only
  generalize (lastAck + 65535) / 65536 = k
  by_cases hnamed : named = 0
  · rw [if_pos hnamed]
    refine ⟨le_rfl, Nat.le_add_right _ _, Nat.mul_mod_left _ _, fun _ => rfl, fun _ hlow _ => ?_⟩
    dsimp only
    omega
  · rw [if_neg hnamed]
    split
    next hlow =>
      refine ⟨le_rfl, Nat.le_add_right _ _, Nat.mul_mod_left _ _, fun h => absurd h hnamed, fun _ hle _ => ?_⟩
      dsimp only
      omega
    next hlow =>
      split
      next hhigh =>
        dsimp only
        refine ⟨Nat.le_add_right _ _, le_rfl, by omega, fun h => absurd h hnamed, fun _ _ hle => by omega⟩
      next hhigh =>
        dsimp only
        exact ⟨Nat.not_lt.mp hlow, Nat.not_lt.mp hhigh, Nat.mul_mod_left _ _, fun h => absurd h hnamed, fun _ _ _ => by omega⟩

/-- The chime of a stage is set. -/
def State.chimeGiven (s : State) (id : Nat) (g : Stage) (n : Nat) (cl : List Clamp) : State :=
  (((s.updStage id fun g => { g with t := some n }).updJob g.job fun j => { j with chime := n, clamps := j.clamps ++ cl }).showStage id).nextChime

theorem updJob_stageOf (s : State) (job : Nat) (f : Job → Job) (id : Nat) : (s.updJob job f).stageOf id = s.stageOf id := rfl

section
variable {s : State} {u id : Nat} {g : Stage}

theorem chimeGiven_leaves (hg : s.stageOf id = some g) (n : Nat) (cl : List Clamp) : (s.chimeGiven id g n cl).stageOf id = some { g with t := some n } ∧
    (s.chimeGiven id g n cl).records = s.records ∧ (s.chimeGiven id g n cl).slow = s.slow := by
  unfold State.chimeGiven
  have hshown : OnlySd ((s.updStage id fun g => { g with t := some n }).updJob g.job fun j => { j with chime := n, clamps := j.clamps ++ cl }) _ :=
    (showStage_onlySd _ id).trans (nextChime_onlySd _)
  refine ⟨(stageOf_congr hshown.post id).trans ((updJob_stageOf _ _ _ id).trans (updStage_stageOf (fun _ => rfl) hg)), ?_, ?_⟩
  · exact hshown.records
  · exact hshown.slow

/-- The letter field in which the stage's T was asked for. -/
def State.fieldNamed (s : State) (g : Stage) : Nat := namedField (((s.post.jobs.find? fun j => j.id = g.job).map fun j => j.kind).getD .config)

theorem ackDeadline_chimes (hserves : getF Reg.PM_STATUS_STATE s.pm = 2) (hg : s.stageOf id = some g) (hopen : g.t = none)
    (hagreed : g.refused = false) (hin : g.pendingAck = []) : execAckDeadline id s =
      .next (s.chimeGiven id g (chimeAt (s.fieldNamed g) g.named g.lastAck).1 (chimeAt (s.fieldNamed g) g.named g.lastAck).2) := by
  unfold execAckDeadline
  rw [if_neg (not_not.mpr hserves), hg]
  dsimp only
  rw [hopen, hagreed, hin, if_neg (by decide), if_neg (by decide)]
  exact if_pos rfl

/-! ### Chimes, discards and expiry (R460-R463) -/

theorem chime_waits {t : Nat} {r : StageRec} (hu : u < chimeUnits) (hg : s.stageOf id = some g) (ht : g.t = some t)
    (hr : (s.recordsOf u).find? (fun r => r.id = id && r.t.isNone) = some r) (hahead : s.unitCount u < t) : execChime u id s =
      .next (s.setRecords u ((s.recordsOf u).map fun x => if x.id = id then { x with t := some t } else x)) := by
  refine (onUnit_next (decide_eq_true hu)).trans (congrArg Host.Outcome.next ?_)
  rw [hg, hr, Option.bind_some, ht]
  exact if_neg (Nat.not_le.mpr hahead)

theorem chime_late {t : Nat} {r : StageRec} (hu : u < chimeUnits) (hg : s.stageOf id = some g) (ht : g.t = some t)
    (hr : (s.recordsOf u).find? (fun r => r.id = id && r.t.isNone) = some r) (hpast : t ≤ s.unitCount u) : execChime u id s =
      .next ((((s.setRecords u ((s.recordsOf u).filter fun x => x.id ≠ id)).applyRecords u [{ r with t := some t }]).incSd
        Reg.SD_CNT_LATE 1).reportAt 0x41 (if u < 432 then 2 else 0) u none) := by
  refine (onUnit_next (decide_eq_true hu)).trans (congrArg Host.Outcome.next ?_)
  rw [hg, hr, Option.bind_some, ht]
  exact if_pos hpast

theorem updPost_recordsOf (s : State) (f : Post → Post) (u : Nat) : (s.updPost f).recordsOf u = s.recordsOf u := rfl

theorem stageDiscard_drops (hu : u < chimeUnits) (hsent : s.post.discarded.contains (u, id) = true)
    (hr : ((s.recordsOf u).any fun r => r.id = id) = true) : execStageDiscard u id s =
      .next (((s.updPost fun p => { p with discarded := p.discarded.erase (u, id) }).setRecords u
        ((s.recordsOf u).filter fun x => x.id ≠ id)).dropVoltage u) := by
  refine (onUnit_next (decide_eq_true hu)).trans (congrArg Host.Outcome.next ?_)
  rw [hsent, if_neg (by decide)]
  dsimp only
  rw [updPost_recordsOf, if_pos hr]

theorem stageDiscard_idle (hu : u < chimeUnits) (hsent : s.post.discarded.contains (u, id) = false) : execStageDiscard u id s = .next s := by
  refine (onUnit_next (decide_eq_true hu)).trans (congrArg Host.Outcome.next ?_)
  rw [hsent]
  rfl

/-- The record's T has come at the unit. -/
def State.dueAt (s : State) (u : Nat) (r : StageRec) : Bool := r.t.any fun t => t ≤ s.unitCount u

theorem chimeApply_acts (hu : u < chimeUnits) : execChimeApply u s =
    .next ((s.setRecords u ((s.recordsOf u).filter fun r => !s.dueAt u r)).applyRecords u ((s.recordsOf u).filter (s.dueAt u))) :=
  onUnit_next (decide_eq_true hu)

theorem recordExpire_keeps {r : StageRec} (hu : u < chimeUnits) (hr : (s.recordsOf u).find? (fun r => r.id = id) = some r)
    (h : r.t ≠ none ∨ s.now < r.since + 16 * 65536) : execRecordExpire u id s = .next s := by
  refine (onUnit_next (decide_eq_true hu)).trans (congrArg Host.Outcome.next ?_)
  rw [hr]
  refine if_pos ?_
  rw [Bool.or_eq_true, decide_eq_true_eq, ← Option.ne_none_iff_isSome]
  exact h

/-- The record that never got its chime is dropped. -/
def State.expired (s : State) (u id : Nat) : State :=
  (((s.setRecords u ((s.recordsOf u).filter fun x => x.id ≠ id)).dropVoltage u).incSd Reg.SD_CNT_LATE 1).reportAt 0x41
    (if u < 432 then 2 else 0) u none

theorem recordExpire_drops {r : StageRec} (hu : u < chimeUnits) (hr : (s.recordsOf u).find? (fun r => r.id = id) = some r)
    (ht : r.t = none) (hold : r.since + 16 * 65536 ≤ s.now) : execRecordExpire u id s = .next (s.expired u id) := by
  refine (onUnit_next (decide_eq_true hu)).trans (congrArg Host.Outcome.next ?_)
  rw [hr]
  refine if_neg ?_
  rw [ht, Option.isSome_none, Bool.false_or, decide_eq_true_eq]
  exact Nat.not_lt.mpr hold

theorem incSd_records (s : State) (f : Fld) (n : Nat) : (s.incSd f n).records = s.records := rfl
theorem reportAt_records (s : State) (kind unit unitId : Nat) (g : Option Nat) : (s.reportAt kind unit unitId g).records = s.records := rfl

theorem expired_leaves (s : State) (u id : Nat) : (s.expired u id).recordsOf u = (s.recordsOf u).filter (fun x => x.id ≠ id) ∧
    (s.expired u id).slow = s.slow := by
  have hdropped := setRecords_dropVoltage s u ((s.recordsOf u).filter fun x => x.id ≠ id)
  unfold State.expired
  rw [recordsOf_congr (reportAt_records _ _ _ _ _) u, recordsOf_congr (incSd_records _ _ _) u, reportAt_slow, incSd_slow]
  exact ⟨hdropped.recordsOf, hdropped.slow.trans (withRecords_slow s u _)⟩

end

/-- Settles O51: a stage at its unit (`stage_agrees`, `stage_refuses`), its deadline, and its chime by the unit's own count. -/
theorem stagesAreAgreedAndChime : Obligations.StagesAreAgreedAndChime := by
  unfold Obligations.StagesAreAgreedAndChime
  intro s u id hu
  dsimp only
  refine ⟨fun g hg hasked hopen hlive => ⟨fun hlocked hroom hagrees => stage_agrees hu hg hasked hopen hlive hlocked hroom hagrees,
      fun hbad => stage_refuses hu hg hasked hopen hlive hbad⟩, fun hg => ⟨stage_unknown hu hg, ackDeadline_unknown hg⟩,
    ackDeadline_unserved, fun g hserves hg hopen hbad => ackDeadline_discards hserves hg hopen hbad,
    fun g hserves hg hopen hagreed hin => ?_,
    fun g t r hg ht hr => ⟨chime_waits hu hg ht hr, chime_late hu hg ht hr⟩, stageDiscard_drops hu, stageDiscard_idle hu,
    chimeApply_acts hu, fun r hr h => recordExpire_keeps hu hr h, fun r hr ht hold => ⟨_, recordExpire_drops hu hr ht hold, expired_leaves s u id⟩⟩
  obtain ⟨hstage, hrecords, hslow⟩ := chimeGiven_leaves hg (chimeAt (s.fieldNamed g) g.named g.lastAck).1
    (chimeAt (s.fieldNamed g) g.named g.lastAck).2
  exact ⟨_, ackDeadline_chimes hserves hg hopen hagreed hin, _, _, hstage, rfl, hrecords, hslow,
    chimeAt_bounds (s.fieldNamed g) g.named g.lastAck⟩

end Sys2Proof.Machine

/-! ## The sundial and the clocks (R439-R449, R454) -/

namespace Sys2Proof.Machine

/-! ### Sparse stores and folds -/

theorem Fm.get_of_unlisted {α : Type} {d : α} {k : Nat} {m : FMap α} (h : ∀ e ∈ m, e.1 ≠ k) : Fm.get d k m = d := by
  induction m with
  | nil => rfl
  | cons e m ih =>
    obtain ⟨j, v⟩ := e
    have hj : k ≠ j := fun hk => h (j, v) List.mem_cons_self hk.symm
    exact (if_neg hj).trans (ih fun e he => h e (List.mem_cons_of_mem _ he))

theorem Fm.mapv_keys {α : Type} [DecidableEq α] {d : α} {f : Nat → α → α} {m : FMap α} {e : Nat × α} (h : e ∈ Fm.mapv d f m) :
    e.1 ∈ m.map Prod.fst := by
  obtain ⟨x, hx, hex⟩ := List.mem_filterMap.mp h
  dsimp only at hex
  split at hex
  · exact absurd hex (by simp)
  · rw [← Option.some.inj hex]
    exact List.mem_map.mpr ⟨x, hx, rfl⟩

/-- What a listed key holds once every listed value has changed. -/
theorem Fm.get_mapv {α : Type} [DecidableEq α] {d : α} {f : Nat → α → α} {m : FMap α} {k : Nat} {w : α} (hnodup : (m.map Prod.fst).Nodup)
    (hw : Fm.look k m = some w) : Fm.get d k (Fm.mapv d f m) = f k w := by
  induction m with
  | nil => exact absurd hw (by simp [Fm.look])
  | cons e m ih =>
    obtain ⟨j, v⟩ := e
    obtain ⟨hj, hrest⟩ := List.nodup_cons.mp hnodup
    by_cases hk : j = k
    · obtain rfl : v = w := by simpa [Fm.look, hk] using hw
      have hunlisted : Fm.get d k (Fm.mapv d f m) = d := Fm.get_of_unlisted fun e he hek => hj (by
        have hmem := Fm.mapv_keys he
        rwa [hek, ← hk] at hmem)
      subst hk
      by_cases hd : f j v = d
      · have hmapv : Fm.mapv d f ((j, v) :: m) = Fm.mapv d f m := List.filterMap_cons_none (if_pos hd)
        rw [hmapv, hunlisted, hd]
      · have hmapv : Fm.mapv d f ((j, v) :: m) = (j, f j v) :: Fm.mapv d f m := List.filterMap_cons_some (if_neg hd)
        rw [hmapv]
        exact if_pos rfl
    · have hw' : Fm.look k m = some w := by simpa [Fm.look, hk] using hw
      by_cases hd : f j v = d
      · have hmapv : Fm.mapv d f ((j, v) :: m) = Fm.mapv d f m := List.filterMap_cons_none (if_pos hd)
        rw [hmapv, ih hrest hw']
      · have hmapv : Fm.mapv d f ((j, v) :: m) = (j, f j v) :: Fm.mapv d f m := List.filterMap_cons_some (if_neg hd)
        rw [hmapv]
        exact (if_neg (Ne.symm hk)).trans (ih hrest hw')

theorem Fm.get_filter {α : Type} {d : α} {k : Nat} {p : Nat × α → Bool} (hp : ∀ v, p (k, v) = true) (m : FMap α) :
    Fm.get d k (m.filter p) = Fm.get d k m := by
  induction m with
  | nil => rfl
  | cons e m ih =>
    obtain ⟨j, v⟩ := e
    by_cases hk : k = j
    · subst hk
      rw [List.filter_cons_of_pos (hp v)]
      exact (if_pos rfl).trans (if_pos rfl).symm
    · by_cases hkeep : p (j, v) = true
      · rw [List.filter_cons_of_pos hkeep]
        exact (if_neg hk).trans (ih.trans (if_neg hk).symm)
      · rw [List.filter_cons_of_neg hkeep]
        exact ih.trans (if_neg hk).symm

/-- A walk that changes what is seen of `p` at `p` alone changes it once. -/
theorem foldl_once {σ α : Type} {g : σ → Nat → σ} {view : σ → α} {F : α → α} {p : Nat} {l : List Nat} (hsame : ∀ s, view (g s p) = F (view s))
    (hother : ∀ s, ∀ q ∈ l, q ≠ p → view (g s q) = view s) (hl : l.Nodup) (hp : p ∈ l) (s : σ) : view (l.foldl g s) = F (view s) := by
  have hkeeps (l : List Nat) (h : ∀ s, ∀ q ∈ l, view (g s q) = view s) (s : σ) : view (l.foldl g s) = view s := by
    induction l generalizing s with
    | nil => rfl
    | cons q l ih => exact (ih (fun s q hq => h s q (List.mem_cons_of_mem _ hq)) (g s q)).trans (h s q List.mem_cons_self)
  induction l generalizing s with
  | nil => exact absurd hp List.not_mem_nil
  | cons q l ih =>
    obtain ⟨hq, hl⟩ := List.nodup_cons.mp hl
    have hrest := fun s x (hx : x ∈ l) => hother s x (List.mem_cons_of_mem _ hx)
    by_cases hqp : q = p
    · subst hqp
      exact (hkeeps l (fun s x hx => hrest s x hx fun hxq => hq (hxq ▸ hx)) (g s q)).trans (hsame s)
    · exact (ih hrest hl (List.mem_of_ne_of_mem (Ne.symm hqp) hp) (g s q)).trans (congrArg F (hother s q List.mem_cons_self hqp))

theorem Keeps.slow {s t : State} {r : Res} (h : Keeps s r) (ht : r = .next t) : t.slow = s.slow := congrArg Prod.fst (h t ht)

/-! ### The strobe and the full count (R450, R452) -/

/-- The master has strobed. -/
def State.strobed (s : State) (n : Nat) : State :=
  (s.setSd Reg.SD_COUNT_COUNT (s.now + n)).setPm Reg.PM_ROUND_ROUND (s.setSd Reg.SD_COUNT_COUNT (s.now + n)).round

/-- The copies have followed it. -/
def State.copied (s : State) (n : Nat) (drifts : List (Nat × Int)) : State :=
  { s with pavs := Fm.mapv {} (fun (p : Nat) (v : Pav) => v.follow n (((drifts.find? fun (d : Nat × Int) => d.1 = p).map Prod.snd).getD 0)) s.pavs }

theorem tickStrobe_counts {s : State} (n : Nat) (drifts : List (Nat × Int)) (hrun : s.power.stopped = false) :
    execTickStrobe n drifts s = .next ((s.strobed n).copied n drifts).nextChime := by
  unfold execTickStrobe
  rw [if_neg (by rw [hrun]; exact Bool.false_ne_true)]
  rfl

theorem setPm_now (s : State) (f : Fld) (v : Nat) : (s.setPm f v).now = s.now := rfl
theorem setPm_pavs (s : State) (f : Fld) (v : Nat) : (s.setPm f v).pavs = s.pavs := rfl
theorem copied_now (s : State) (n : Nat) (drifts : List (Nat × Int)) : (s.copied n drifts).now = s.now := rfl

theorem strobed_now {s : State} {n : Nat} (h : s.now + n < 2 ^ 64) : (s.strobed n).now = s.now + n := by
  rw [State.strobed, setPm_now]
  exact (getF_setF_same Reg.SD_COUNT_COUNT _ s.sd (by decide)).trans (Nat.mod_eq_of_lt h)

theorem nextChime_now (s : State) : s.nextChime.now = s.now := setSd_now _ (by decide) _

theorem OnlySd.gardens {s t : State} (h : OnlySd s t) : t.gardens = s.gardens := (congrArg State.gardens h :)
theorem OnlySd.pavs {s t : State} (h : OnlySd s t) : t.pavs = s.pavs := (congrArg State.pavs h :)

theorem copied_pav {s : State} {n p : Nat} {drifts : List (Nat × Int)} {w : Pav} (hnodup : (s.pavs.map Prod.fst).Nodup)
    (hw : Fm.look p s.pavs = some w) :
    (s.copied n drifts).pav p = w.follow n (((drifts.find? fun (d : Nat × Int) => d.1 = p).map Prod.snd).getD 0) := by
  unfold State.copied State.pav
  dsimp only
  rw [Fm.get_mapv hnodup hw]

theorem followed_leaves (s : State) (n : Nat) (drifts : List (Nat × Int)) :
    (((s.strobed n).copied n drifts).nextChime).cores = s.cores ∧ (((s.strobed n).copied n drifts).nextChime).slow = s.slow ∧
    (((s.strobed n).copied n drifts).nextChime).gardens = s.gardens := by
  have h := nextChime_onlySd ((s.strobed n).copied n drifts)
  exact ⟨h.cores, h.slow, h.gardens⟩

theorem followed_pav {s : State} {n p : Nat} {drifts : List (Nat × Int)} {w : Pav} (hnodup : (s.pavs.map Prod.fst).Nodup)
    (hw : Fm.look p s.pavs = some w) : (((s.strobed n).copied n drifts).nextChime).pav p =
      w.follow n (((drifts.find? fun (d : Nat × Int) => d.1 = p).map Prod.snd).getD 0) := by
  have hpavs : (s.strobed n).pavs = s.pavs := setPm_pavs _ _ _
  rw [pav_congr (nextChime_onlySd _).pavs p]
  exact copied_pav (by rw [hpavs]; exact hnodup) (by rw [hpavs]; exact hw)

theorem tickStrobe_stopped {s : State} (n : Nat) (drifts : List (Nat × Int)) (h : s.power.stopped = true) :
    execTickStrobe n drifts s = .next s := if_pos h

/-- A copy takes the full count: behind the master it takes it, ahead it holds. -/
def Pav.recounted (v : Pav) : Pav := { v with sdLag := min 0 v.sdLag, sdHold := decide (v.sdLag < 0) }

/-- What the full count leaves of a pavilion. -/
def Pav.fullCount (v : Pav) : Pav :=
  if v.sdLag = 0 || v.sdHold || !(v.powered && !v.dark) || v.getF Reg.PV_CLK_STATUS_HOLDOVER = 1 then v
  else if v.sdLag.natAbs ≤ 1 then v.recounted else v.recounted.setF Reg.PV_CLK_STATUS_SDERR 1

/-- The full count at one pavilion. -/
def State.fullCountAt (s : State) (p : Nat) : State :=
  let v := s.pav p
  if v.sdLag = 0 || v.sdHold || !s.unitLive p || v.getF Reg.PV_CLK_STATUS_HOLDOVER = 1 then s
  else
    let s := s.updPav p Pav.recounted
    if v.sdLag.natAbs ≤ 1 then s else (s.updPav p fun v => v.setF Reg.PV_CLK_STATUS_SDERR 1).reportAt 0x40 2 p v.owner

theorem fullCount_acts (s : State) : execFullCount s = .next ((List.range Config.pavilions).foldl State.fullCountAt s) := rfl

theorem unitLive_pav (s : State) {p : Nat} (hp : p < 432) : s.unitLive p = ((s.pav p).powered && !(s.pav p).dark) := if_pos hp

theorem reportAt_pav (s : State) (kind unit unitId : Nat) (g : Option Nat) (p : Nat) : (s.reportAt kind unit unitId g).pav p = s.pav p := rfl

theorem fullCountAt_same (s : State) {p : Nat} (hp : p < 432) : (s.fullCountAt p).pav p = (s.pav p).fullCount := by
  unfold State.fullCountAt Pav.fullCount
  dsimp only
  rw [unitLive_pav s hp]
  split
  · rfl
  · split
    · rw [State.updPav_same]
    · rw [reportAt_pav, State.updPav_same, State.updPav_same]

theorem fullCountAt_other (s : State) {p q : Nat} (h : q ≠ p) : (s.fullCountAt q).pav p = s.pav p := by
  unfold State.fullCountAt
  dsimp only
  split
  · rfl
  · split
    · rw [State.updPav_other _ _ _ h.symm]
    · rw [reportAt_pav, State.updPav_other _ _ _ h.symm, State.updPav_other _ _ _ h.symm]

theorem fullCountAt_sd (s : State) (p : Nat) : (s.fullCountAt p).sd = s.sd := by
  unfold State.fullCountAt
  dsimp only
  split
  · rfl
  · split
    · exact State.updPav_sd _ _ _
    · rw [reportAt_sd, State.updPav_sd, State.updPav_sd]

theorem Pav.setF_copy (v : Pav) (f : Fld) (n : Nat) : (v.setF f n).sdLag = v.sdLag ∧ (v.setF f n).sdHold = v.sdHold := ⟨rfl, rfl⟩

theorem Pav.fullCount_takes {v : Pav} (hlive : (v.powered && !v.dark) = true) (hlocked : v.getF Reg.PV_CLK_STATUS_HOLDOVER = 0)
    (hfree : v.sdHold = false) : v.fullCount.sdLag = min 0 v.sdLag ∧ v.fullCount.sdHold = decide (v.sdLag < 0) ∧
      (1 < v.sdLag.natAbs → v.fullCount.getF Reg.PV_CLK_STATUS_SDERR = 1) := by
  unfold Pav.fullCount
  rw [hlive, hlocked, hfree]
  by_cases hlag : v.sdLag = 0
  · rw [if_pos (by rw [hlag]; rfl), hlag, hfree]
    exact ⟨rfl, rfl, fun h => absurd h (by decide)⟩
  · rw [if_neg (by rw [decide_eq_false hlag]; decide)]
    split
    next hclose => exact ⟨rfl, rfl, fun h => absurd hclose (Nat.not_le.mpr h)⟩
    next =>
      obtain ⟨hcopy, hhold⟩ := Pav.setF_copy v.recounted Reg.PV_CLK_STATUS_SDERR 1
      rw [hcopy, hhold]
      exact ⟨rfl, rfl, fun _ => Pav.getF_setF_same _ _ _ (by decide)⟩

theorem fullCount_leaves (s : State) {p : Nat} (hp : p < 432) :
    ((List.range Config.pavilions).foldl State.fullCountAt s).now = s.now ∧
    ((List.range Config.pavilions).foldl State.fullCountAt s).pav p = (s.pav p).fullCount :=
  ⟨now_congr (foldl_keeps (g := State.sd) fullCountAt_sd _ s),
    foldl_once (view := fun s => s.pav p) (fun s => fullCountAt_same s hp) (fun s _ _ h => fullCountAt_other s h) List.nodup_range
      (List.mem_range.mpr hp) s⟩

/-! ### A pavilion's clock (R443-R445) -/

section
variable {s : State} {p : Nat} (hp : p < Config.pavilions)
include hp

theorem inputLoss_holds (hpower : (s.pav p).powered = true) (hlocked : (s.pav p).getF Reg.PV_CLK_STATUS_LOCKED = 1)
    (hfree : (s.pav p).getF Reg.PV_CLK_STATUS_HOLDOVER = 0) : execInputLoss p s = .next (s.updPav p fun v =>
      { v.setF Reg.PV_CLK_STATUS_HOLDOVER 1 with hold := s.now, newSource := s.chooseSource p }) := by
  refine (onPav_next hp _).trans (congrArg Host.Outcome.next (if_neg ?_))
  rw [hpower, hlocked, hfree]
  decide

theorem sourceRetry_looks (hpower : (s.pav p).powered = true) (hnone : (s.pav p).newSource = none)
    (hlost : (s.pav p).getF Reg.PV_CLK_STATUS_HOLDOVER = 1 ∨ (s.pav p).dark = true) :
    execSourceRetry p s = .next (s.updPav p fun v => { v with newSource := s.chooseSource p }) := by
  refine (onPav_next hp _).trans (congrArg Host.Outcome.next (if_neg ?_))
  rw [hpower, hnone]
  rcases hlost with hlost | hlost
  · rw [hlost, decide_eq_false Nat.one_ne_zero, Bool.false_and]
    decide
  · rw [hlost, Bool.not_true, Bool.and_false]
    decide

end

/-- A pavilion without a clock: its PLL unlocked (R444). -/
def Pav.clockLost (v : Pav) : Pav := { (v.setF Reg.PV_CLK_STATUS_LOCKED 0).setF Reg.PV_CLK_STATUS_HOLDOVER 0 with dark := true }

theorem Pav.clockLost_getF (v : Pav) (f : Fld) :
    v.clockLost.getF f = ((v.setF Reg.PV_CLK_STATUS_LOCKED 0).setF Reg.PV_CLK_STATUS_HOLDOVER 0).getF f := rfl

theorem Pav.clockLost_fields (v : Pav) : v.clockLost.dark = true ∧ v.clockLost.getF Reg.PV_CLK_STATUS_LOCKED = 0 ∧
    v.clockLost.getF Reg.PV_REG_STATUS_ON = v.getF Reg.PV_REG_STATUS_ON := by
  refine ⟨rfl, ?_, ?_⟩
  · rw [Pav.clockLost_getF, Pav.getF_setF_other _ _ (by decide) (by decide), Pav.getF_setF_same _ _ _ (by decide)]
    rfl
  · rw [Pav.clockLost_getF, Pav.getF_setF_other _ _ (by decide) (by decide), Pav.getF_setF_other _ _ (by decide) (by decide)]

/-- The links of a pavilion marked down and its domain switched off. -/
def State.linksCut (s : State) (p : Nat) : State := ((pavLinks p).foldl (fun s l => s.markDown l.1 l.2) s).domainOff p

section
variable {s : State} {p : Nat} (hp : p < Config.pavilions)
include hp

theorem goDark_late (hlost : (s.pav p).getF Reg.PV_CLK_STATUS_HOLDOVER = 1) (hnone : (s.pav p).newSource = none)
    (hlate : (s.pav p).hold + 20000 ≤ s.now) :
    execGoDark p s = .next (((s.linksCut p).updPav p Pav.clockLost).reportAt 0x40 2 p (s.pav p).owner (action := 3)) := by
  refine (onPav_next hp _).trans (congrArg Host.Outcome.next (if_neg ?_))
  rw [hlost, hnone, decide_eq_true hlate, Bool.true_or]
  decide

theorem goDark_held (hfree : (s.pav p).getF Reg.PV_CLK_STATUS_HOLDOVER = 0) : execGoDark p s = .next s := by
  refine (onPav_next hp _).trans (congrArg Host.Outcome.next (if_pos ?_))
  rw [hfree, decide_eq_true rfl, Bool.true_or, Bool.true_or]

theorem goDark_leaves (hlost : (s.pav p).getF Reg.PV_CLK_STATUS_HOLDOVER = 1) (hnone : (s.pav p).newSource = none)
    (hlate : (s.pav p).hold + 20000 ≤ s.now) : Completes (execGoDark p s) fun t =>
      (t.pav p).dark = true ∧ (t.pav p).getF Reg.PV_CLK_STATUS_LOCKED = 0 ∧ (t.pav p).getF Reg.PV_REG_STATUS_ON = 0 ∧ t.slow = s.slow := by
  have hacts := goDark_late hp hlost hnone hlate
  have hpav : ((((s.linksCut p).updPav p Pav.clockLost).reportAt 0x40 2 p (s.pav p).owner (action := 3)).pav p) = ((s.linksCut p).pav p).clockLost :=
    State.updPav_same _ _ _
  obtain ⟨hdark, hlocked, hon⟩ := Pav.clockLost_fields ((s.linksCut p).pav p)
  refine ⟨_, hacts, ?_⟩
  dsimp only
  rw [hpav, hon]
  exact ⟨hdark, hlocked, domainOff_pav_on _ p, (execGoDark_kept p s).slow hacts⟩

end

/-! ### What leaves a clock alone -/

/-- What of a pavilion tells its clock: PV_CLK_STATUS, the source it is to lock to, whether it has none. -/
def Pav.clock (v : Pav) : Word × Option Nat × Bool := (getReg .pv 0x40 v.regs, v.newSource, v.dark)

theorem Pav.clock_getF {v w : Pav} (h : w.clock = v.clock) {f : Fld} (hblk : f.blk = .pv) (hoff : f.off = 0x40) : w.getF f = v.getF f := by
  have hword : getReg .pv 0x40 w.regs = getReg .pv 0x40 v.regs := congrArg Prod.fst h
  unfold Pav.getF Machine.getF
  rw [hblk, hoff, hword]

theorem Pav.setF_clock (v : Pav) {f : Fld} (h : 0x40 ≠ f.off) (n : Nat) : (v.setF f n).clock = v.clock :=
  congrArg (fun w => (w, v.newSource, v.dark)) (getReg_setReg_other _ _ h _ _)

theorem updPav_clock (s : State) (q p : Nat) {f : Pav → Pav} (hf : ∀ v, (f v).clock = v.clock) :
    ((s.updPav q f).pav p).clock = (s.pav p).clock := by
  by_cases h : p = q
  · rw [h, State.updPav_same, hf]
  · rw [State.updPav_other _ _ _ h]

theorem Pav.noise_clock (v : Pav) (g : Nat) : (v.noise g).clock = v.clock := Pav.setF_clock v (by decide) _

theorem pushFq_clock (s : State) (r port slice : Nat) (f : Flit) (p : Nat) : ((s.pushFq r port slice f).pav p).clock = (s.pav p).clock :=
  updPav_clock s _ p fun v => Pav.noise_clock v _

theorem pushAq_clock (s : State) (r port slice : Nat) (f : AveFlit) (p : Nat) : ((s.pushAq r port slice f).pav p).clock = (s.pav p).clock :=
  updPav_clock s _ p fun v => Pav.noise_clock v _

theorem landEntry_clock (s : State) (r port : Nat) (e : GateEntry) (p : Nat) : ((s.landEntry r port e).pav p).clock = (s.pav p).clock := by
  unfold State.landEntry
  dsimp only
  have hfq := foldl_keeps (f := fun s x => s.pushFq r port x.1 x.2) (g := fun s : State => (s.pav p).clock)
    (fun s x => pushFq_clock s r port x.1 x.2 p) e.fp s
  generalize e.fp.foldl (fun s x => s.pushFq r port x.1 x.2) s = t at *
  have haq := foldl_keeps (f := fun s x => s.pushAq r port x.1 x.2) (g := fun s : State => (s.pav p).clock)
    (fun s x => pushAq_clock s r port x.1 x.2 p) e.ave t
  exact haq.trans hfq

theorem closeGate_clock (s : State) (r side p : Nat) : ((s.closeGate r side).pav p).clock = (s.pav p).clock := by
  unfold State.closeGate
  dsimp only
  refine Eq.trans (updPav_clock _ _ p ?_) ?_
  · exact fun _ => rfl
  · exact foldl_keeps (g := fun s : State => (s.pav p).clock) (fun s e => landEntry_clock s r side e p) _ s

theorem setUp_clock (s : State) (r side : Nat) (up : Bool) (p : Nat) : ((s.setUp r side up).pav p).clock = (s.pav p).clock := by
  have hlink : 0x40 ≠ (Reg.PV_LINK_CNT_UP (cntIdx r side)).off := by
    unfold Reg.PV_LINK_CNT_UP
    dsimp only
    omega
  unfold State.setUp
  refine (updPav_clock _ _ p fun v => Pav.setF_clock v hlink _).trans ?_
  split
  · split
    · exact updPav_clock s _ p fun v => rfl
    · exact closeGate_clock s r side p
  · rfl

theorem holdLinks_clock (s : State) (q p : Nat) : ((s.holdLinks q).pav p).clock = (s.pav p).clock := by
  refine foldl_keeps (g := fun s : State => (s.pav p).clock) (fun s l => ?_) _ s
  split
  · split
    · rw [setUp_clock, setUp_clock]
    · rfl
  · rfl

theorem giveTrees_clock (q : Nat) (trees : List Tree) (v : Pav) : (v.giveTrees q trees).clock = v.clock := by
  unfold Pav.giveTrees
  dsimp only
  refine congrArg (fun w => (w, v.newSource, v.dark)) ?_
  refine (foldl_keeps (g := getReg .pv 0x40) (fun m e => ?_) _ _).trans (Fm.get_filter (fun _ => rfl) _)
  rw [getReg_setReg_other _ _ (by unfold aveStaged; omega), getReg_setReg_other _ _ (by unfold aveActive; omega)]

theorem setFpWord_clock (s : State) {base n : Nat} (h : 0x40 ≠ base + 8 * n) (q : Nat) (w : Word) (p : Nat) :
    ((s.setFpWord base q n w).pav p).clock = (s.pav p).clock :=
  updPav_clock s q p fun v => congrArg (fun w => (w, v.newSource, v.dark)) (Fm.get_set_other' _ _ h _ _)

theorem writeRoute_clock (s : State) (m : FMap Nat) (plain : Bool) {base : Nat} (h : 0x40 < base) (q p : Nat) :
    ((s.writeRoute m plain base q).pav p).clock = (s.pav p).clock :=
  foldl_keeps (g := fun s : State => (s.pav p).clock) (fun s n => setFpWord_clock s (by omega) q _ p) _ s

theorem giveTables_clock (s : State) (q p : Nat) : ((s.giveTables q).pav p).clock = (s.pav p).clock := by
  unfold State.giveTables
  dsimp only
  rw [writeRoute_clock _ _ _ (by decide), writeRoute_clock _ _ _ (by decide)]
  exact updPav_clock s q p fun v => giveTrees_clock q _ v

/-! ### A pavilion's PLL locks again (R443-R445) -/

/-- A pavilion locked to its new source. -/
def Pav.relocked (side depth : Nat) (v : Pav) : Pav :=
  { ((((v.setF Reg.PV_CLK_STATUS_SOURCE side).setF Reg.PV_CLK_STATUS_DEPTH depth).setF Reg.PV_CLK_STATUS_HOLDOVER 0).setF
      Reg.PV_CLK_STATUS_LOCKED 1).incF Reg.PV_CLK_CNT_SWITCH 1 with newSource := none, dark := false }

theorem Pav.relocked_getF (side depth : Nat) (v : Pav) (f : Fld) : (v.relocked side depth).getF f =
    (((((v.setF Reg.PV_CLK_STATUS_SOURCE side).setF Reg.PV_CLK_STATUS_DEPTH depth).setF Reg.PV_CLK_STATUS_HOLDOVER 0).setF
      Reg.PV_CLK_STATUS_LOCKED 1).incF Reg.PV_CLK_CNT_SWITCH 1).getF f := rfl

theorem Pav.relocked_fields {side : Nat} (hside : side < 4) (depth : Nat) (v : Pav) :
    (v.relocked side depth).getF Reg.PV_CLK_STATUS_LOCKED = 1 ∧ (v.relocked side depth).getF Reg.PV_CLK_STATUS_HOLDOVER = 0 ∧
    (v.relocked side depth).getF Reg.PV_CLK_STATUS_SOURCE = side := by
  rw [Pav.relocked_getF, Pav.relocked_getF, Pav.relocked_getF, Pav.getF_incF_other _ _ (by decide) (by decide),
    Pav.getF_incF_other _ _ (by decide) (by decide), Pav.getF_incF_other _ _ (by decide) (by decide)]
  refine ⟨Pav.getF_setF_same _ _ _ (by decide), ?_, ?_⟩
  · rw [Pav.getF_setF_other _ _ (by decide) (by decide), Pav.getF_setF_same _ _ _ (by decide)]
    rfl
  · rw [Pav.getF_setF_other _ _ (by decide) (by decide), Pav.getF_setF_other _ _ (by decide) (by decide),
      Pav.getF_setF_other _ _ (by decide) (by decide), Pav.getF_setF_same _ _ _ (by decide)]
    exact Nat.mod_eq_of_lt hside

/-- How deep in the clock tree a pavilion comes to lie. -/
def State.newDepth (s : State) (p side : Nat) : Nat :=
  if p < 18 then 1 else match pavBeyond p side with
    | some q => (s.pav q).getF Reg.PV_CLK_STATUS_DEPTH + 1
    | none => 1

/-- One that was dark takes what it missed before its links are aligned, and its tables. -/
def State.relocked (s : State) (p side : Nat) : State :=
  let t := (if (s.pav p).dark then s.refreshPav p else s).updPav p (Pav.relocked side (s.newDepth p side))
  if (s.pav p).dark then t.giveTables p else t

theorem relocked_clock (s : State) (p side : Nat) : ∃ v, ((s.relocked p side).pav p).clock = (Pav.relocked side (s.newDepth p side) v).clock := by
  unfold State.relocked
  dsimp only
  generalize (if (s.pav p).dark then s.refreshPav p else s) = u
  refine ⟨u.pav p, ?_⟩
  split
  · rw [giveTables_clock, State.updPav_same]
  · rw [State.updPav_same]

section
variable {s : State} {p : Nat} (hp : p < Config.pavilions)
include hp

theorem relock_acts {side : Nat} (hside : (s.pav p).newSource = some side) :
    execRelock p s = .next (((s.relocked p side).holdLinks p).reportAt 0x40 2 p (s.pav p).owner) := by
  refine (onPav_next hp _).trans (congrArg Host.Outcome.next ?_)
  dsimp only
  rw [hside]
  rfl

theorem relock_idle (hnone : (s.pav p).newSource = none) : execRelock p s = .next s := by
  refine (onPav_next hp _).trans (congrArg Host.Outcome.next ?_)
  dsimp only
  rw [hnone]

theorem relock_leaves {side : Nat} (hnew : (s.pav p).newSource = some side) (hside : side < 4) : Completes (execRelock p s) fun t =>
    (t.pav p).getF Reg.PV_CLK_STATUS_LOCKED = 1 ∧ (t.pav p).getF Reg.PV_CLK_STATUS_HOLDOVER = 0 ∧ (t.pav p).newSource = none ∧
    (t.pav p).dark = false ∧ (t.pav p).getF Reg.PV_CLK_STATUS_SOURCE = side ∧ t.slow = s.slow := by
  have hacts := relock_acts hp hnew
  obtain ⟨v, hv⟩ := relocked_clock s p side
  have hclock : ((((s.relocked p side).holdLinks p).reportAt 0x40 2 p (s.pav p).owner).pav p).clock =
      (Pav.relocked side (s.newDepth p side) v).clock := (holdLinks_clock _ p p).trans hv
  obtain ⟨hlocked, hfree, hsource⟩ := Pav.relocked_fields hside (s.newDepth p side) v
  have hslow := (execRelock_kept p s).slow hacts
  generalize ((s.relocked p side).holdLinks p).reportAt 0x40 2 p (s.pav p).owner = t at *
  refine ⟨t, hacts, (Pav.clock_getF hclock rfl rfl).trans hlocked, (Pav.clock_getF hclock rfl rfl).trans hfree, ?_, ?_,
    (Pav.clock_getF hclock rfl rfl).trans hsource, hslow⟩
  · exact congrArg (fun c => c.2.1) hclock
  · exact congrArg (fun c => c.2.2) hclock

end

/-! ### Monitors (R448) -/

def monitorF (i : Nat) : Fld := ⟨.pv, 0x58, 4 * i, 4⟩

/-- The lowest margins are kept. -/
def Pav.margins (ms : List Nat) (v : Pav) : Pav :=
  (List.range 16).foldl (fun v i => v.setF (monitorF i) (min (v.getF (monitorF i)) (ms.getD i 15))) v

/-- A period is stretched when a margin is too low. -/
def Pav.stretched (low : Bool) (ms : List Nat) (v : Pav) : Pav :=
  if low then { (v.margins ms).incF Reg.PV_CLK_CNT_STRETCH 1 with stretchRound := (v.margins ms).stretchRound + 1 } else v.margins ms

/-- A margin is below the least that is allowed. -/
def Pav.tooLow (ms : List Nat) (v : Pav) : Bool := ms.any fun m => m < v.getF Reg.PV_CLK_CFG_MARGINMIN

theorem Pav.withRound_getF (v : Pav) (n : Nat) (f : Fld) : { v with stretchRound := n }.getF f = v.getF f := rfl

theorem Pav.margins_monitor (ms : List Nat) (v : Pav) {i : Nat} (hi : i < 16) :
    (v.margins ms).getF (monitorF i) = min (v.getF (monitorF i)) (ms.getD i 15) := by
  refine foldl_once (view := fun v : Pav => v.getF (monitorF i)) (F := fun n => min n (ms.getD i 15)) (fun v => ?_) (fun v q hq hqi => ?_)
    List.nodup_range (List.mem_range.mpr hi) v
  · refine (Pav.getF_setF_same _ _ _ (show 4 * i + 4 ≤ 64 by omega)).trans (Nat.mod_eq_of_lt ?_)
    exact (min_le_left _ _).trans_lt (getF_lt (monitorF i) v.regs)
  · have hq16 := List.mem_range.mp hq
    refine Pav.getF_setF_other _ _ (show 4 * q + 4 ≤ 64 by omega) (Or.inr ⟨rfl, ?_⟩)
    show 4 * i + 4 ≤ 4 * q ∨ 4 * q + 4 ≤ 4 * i
    omega

theorem Pav.margins_stretchRound (ms : List Nat) (v : Pav) : (v.margins ms).stretchRound = v.stretchRound :=
  foldl_keeps (f := fun (v : Pav) i => v.setF (monitorF i) (min (v.getF (monitorF i)) (ms.getD i 15))) (g := Pav.stretchRound) (fun _ _ => rfl) _ v

theorem Pav.stretched_fields (low : Bool) (ms : List Nat) (v : Pav) :
    (v.stretched low ms).stretchRound = v.stretchRound + (if low then 1 else 0) ∧
    ∀ i < 16, (v.stretched low ms).getF (monitorF i) = min (v.getF (monitorF i)) (ms.getD i 15) := by
  have hround := Pav.margins_stretchRound ms v
  have hmonitor := fun i hi => Pav.margins_monitor ms v (i := i) hi
  unfold Pav.stretched
  generalize v.margins ms = w at *
  cases low with
  | false => exact ⟨hround, hmonitor⟩
  | true =>
    refine ⟨congrArg (· + 1) hround, fun i hi => Eq.trans ?_ (hmonitor i hi)⟩
    rw [if_pos rfl, Pav.withRound_getF]
    exact Pav.getF_incF_other w 1 (by decide) (Or.inl (show 0x58 ≠ 0x48 by decide))

theorem marginReport_acts {s : State} {p : Nat} {ms : List Nat} (hp : p < Config.pavilions) (hlength : ms.length = 16)
    (hms : ∀ m ∈ ms, m < 16) (hon : (s.pav p).getF Reg.PV_REG_STATUS_ON = 1) :
    execMarginReport p ms s = .next (s.updPav p (Pav.stretched ((s.pav p).tooLow ms) ms)) := by
  have hfits : (decide (p < Config.pavilions) && decide (ms.length = 16) && ms.all fun m => decide (m < 16)) = true := by
    rw [decide_eq_true hp, decide_eq_true hlength]
    exact List.all_eq_true.mpr fun m hm => decide_eq_true (hms m hm)
  refine (onUnit_next hfits).trans (congrArg Host.Outcome.next ?_)
  dsimp only
  rw [hon, if_neg Nat.one_ne_zero, ← Pav.tooLow]
  generalize (s.pav p).tooLow ms = low
  refine congrArg (s.updPav p) (funext fun v => ?_)
  unfold Pav.stretched Pav.margins monitorF
  rfl

/-- Settles O52: the strobe at the copies by their store, the full count at its one pavilion (`foldl_once`), and a pavilion's clock through what
its links and tables leave alone (`Pav.clock`). -/
theorem clocksAndTheSundialRun : Obligations.ClocksAndTheSundialRun := by
  unfold Obligations.ClocksAndTheSundialRun
  intro s p hp
  dsimp only
  obtain ⟨hnow, hpav⟩ := fullCount_leaves s (show p < 432 from hp)
  refine ⟨fun n drifts hrun hfits => ?_, tickStrobe_stopped,
    ⟨_, fullCount_acts s, hnow, (execFullCount_kept s).slow (fullCount_acts s), fun hlive hlocked hfree => ?_⟩,
    fun hpower hlocked hfree => ?_, sourceRetry_looks hp, goDark_leaves hp, goDark_held hp, fun side => relock_leaves hp, relock_idle hp,
    fun ms hlength hms hon => ?_⟩
  · obtain ⟨hcores, hslow, hgardens⟩ := followed_leaves s n drifts
    refine ⟨_, tickStrobe_counts n drifts hrun, ?_, hcores, hslow, hgardens, fun hnone hnodup w hw => ?_, fun d hone hnodup w hw => ?_⟩
    · rw [nextChime_now, copied_now, strobed_now hfits]
    · rw [followed_pav hnodup hw, hnone]
      rfl
    · have hfound : [(p, d)].find? (fun e : Nat × Int => decide (e.1 = p)) = some (p, d) := List.find?_cons_of_pos (decide_eq_true rfl)
      rw [followed_pav hnodup hw, hone, hfound]
      rfl
  · rw [hpav]
    exact Pav.fullCount_takes ((unitLive_pav s hp).symm.trans hlive) hlocked hfree
  · refine ⟨_, inputLoss_holds hp hpower hlocked hfree, ⟨rfl, fun d hd => State.updPav_other _ _ _ hd⟩, ?_⟩
    rw [State.updPav_same]
    exact ⟨Pav.getF_setF_same _ _ _ (by decide), rfl, rfl⟩
  · refine ⟨_, marginReport_acts hp hlength hms hon, ⟨rfl, fun d hd => State.updPav_other _ _ _ hd⟩, ?_⟩
    rw [State.updPav_same]
    exact Pav.stretched_fields ((s.pav p).tooLow ms) ms (s.pav p)

end Sys2Proof.Machine
